-- ==== Sys2Proof/Word.lean ====
section
/-! DEFINITION. The word types of the Z6400 (R1, R146, R147): names only, no arithmetic of an instruction. -/

namespace Sys2Proof

/-- A control-core register value (R146). -/
abbrev Word := BitVec 64

/-- The smallest addressable unit of memory (R1). -/
abbrev Byte := BitVec 8

/-- A 6-bit register field: 0–47 g, 48–55 q, 56 ll, 57 zero, 58–63 reserved (R146). -/
abbrev Reg := BitVec 6

/-- A 5-bit predicate field: bit 4 negates, bits 3:0 name p0–p15 (R147). -/
abbrev PredField := BitVec 5

/-- A predicate index without a negate bit (R150, R151). -/
abbrev PredIdx := BitVec 4

/-- A tile-mask index m0–m7 (R147). -/
abbrev MaskIdx := BitVec 3

end Sys2Proof
end

