-- ==== Sys2Proof/Config.lean ====
section
/-! DEFINITION. What an implementation fixes and the spec leaves open (log 3), and the free values of R3 (log 5).
Every constant is opaque: nothing can evaluate it or prove a value of it. -/

namespace Sys2Proof.Config

/-- An unspecified value (R3): the n-th one the machine has delivered. -/
opaque freeWord : Nat → Word

/-- An unspecified 32-bit value (R3, R93). -/
opaque freeBits : Nat → BitVec 32

/-- An unspecified byte of a layout the device chooses (R329), the n-th delivery, byte i. -/
opaque freeByte : Nat → Nat → Byte

/-- Ticks that pass before a step the agenda does not time (R4). -/
opaque elapsed : Nat → BitVec 64

/-- Bytes of CXL tier attached behind the four ports (R94, R354). -/
opaque cxlBytes : Nat

/-- Version of the ROM firmware (R354, R361). -/
opaque romVersion : Word

/-- SHA-384 measurement of the ROM (R361). -/
opaque romMeasure : BitVec 384

/-- The SHA-384 measurement of a sequence of bytes (R361): a fixed function the spec names and does not define. -/
opaque sha384 : List Byte → BitVec 384

/-- The device identity certificates of the module (R361). -/
opaque identityCerts : List Byte

/-- The module's RSA-3072 signature with PSS and SHA-384, and its SLH-DSA-SHA2-192s signature, over bytes (R361). -/
opaque rsaSign : List Byte → List Byte
opaque slhSign : List Byte → List Byte

/-- Highest segment level, 0 to 3, of the compatible stream an SCONV with this element word converts (R49, log 23). -/
opaque sconvTop : BitVec 64 → Fin 4

/-- Whether weight m of a softmax over scores with these FP32 encodings takes the upper of the two roundings between which the
model's bounds leave the exact value (R291, log 6). -/
opaque softUp : List Nat → Nat → Bool

/-- Which member's edge meets an edge of a gang's fabric (R23, R40; log 64): for a gang of so many members, the member's rank
and the side and position of its edge router, the rank, side and position at the other end; none where no link is. -/
opaque edgeLink : Nat → Nat → Nat → Nat → Option (Nat × Nat × Nat)

/-- Members that hold grants to send to this one in a replayed round, by the number of the choice: the log holds this device's own
grants only (R312, R424; log 82). -/
opaque replaySenders : Nat → List Nat

/-- The 64 KiB frames of HBM in which the firmware keeps its fault rings, and the first of those of its scan area, before they
are kept apart (R366, R421). -/
opaque ringFrame : Nat
opaque scanFrame : Nat

/-- Frames of HBM, and of the scan area: 0x1A10000 bytes, then 64 KiB for each die (R421). -/
def hbmFrames : Nat := 2 ^ 23
def scanFrames : Nat := 0x1A5

/-- Physical base of the scan area (R421). -/
def scanArea : Nat := 65536 * (scanFrame % (hbmFrames - scanFrames))

/-- Physical base of the fault ring of a context, 16 KiB each in one frame outside the scan area (R366). -/
def faultRing (k : Nat) : Nat :=
  let r := ringFrame % (hbmFrames - scanFrames)
  65536 * (if r < scanFrame % (hbmFrames - scanFrames) then r else r + scanFrames) + 16384 * (k % 4)

/-- Whether the L2 still holds the dirty line of a host address when a reset comes (R410), at the n-th such occasion. -/
opaque heldLine : Nat → Nat → Bool

/-- Host address HB of the device's memory on the host link (R350). -/
opaque hostBase : Nat

/-- The CXL memory port that serves a line of the CXL tier (R101). -/
opaque cxlPort : Nat → Nat

end Sys2Proof.Config
end

