-- ==== Sys2Proof/Machine/Num.lean ====
section
/-! DEFINITION. Number formats, exact values, rounding and conversion (04_numbers.md, R67–R93).
Finite values are dyadic, kept exactly; every helper of R74 narrows once at its end. -/

namespace Sys2Proof

/-- The flags of R79 in FSTAT bit order: 5 SAT, 4 OVF, 3 UNF, 2 INX, 1 INV, 0 DZ. -/
abbrev Flags := BitVec 6

def Flags.none : Flags := 0#6
def Flags.dz : Flags := 1#6
def Flags.inv : Flags := 2#6
def Flags.inx : Flags := 4#6
def Flags.unf : Flags := 8#6
def Flags.ovf : Flags := 16#6
def Flags.sat : Flags := 32#6

/-- A rounding mode (R75). -/
inductive RMode where
  | rne | rz | ru | rd
deriving DecidableEq, Repr

/-- Bits 33:32 of an element word (R78). -/
def RMode.ofBits (b : BitVec 2) : RMode :=
  if b = 0#2 then .rne else if b = 1#2 then .rz else if b = 2#2 then .ru else .rd

/-- An extended real: NaN, an infinity, or the exact value (−1)^neg · m · 2^e (R74); zeros keep their sign (R76). -/
inductive XR where
  | nan
  | inf (neg : Bool)
  | fin (neg : Bool) (m : Nat) (e : Int)
deriving DecidableEq, Repr

/-- Layout of a floating format (R71, R72). -/
structure FloatFmt where
  /-- Exponent bits E. -/
  eb : Nat
  /-- Mantissa bits M. -/
  mb : Nat
  bias : Nat
  /-- The top exponent field holds infinities and NaNs. -/
  ieee : Bool
  /-- The encoding of the largest finite magnitude. -/
  maxFin : Nat
  /-- The canonical NaN, none for E2M1. -/
  canon : Option Nat
deriving DecidableEq, Repr

def FloatFmt.fp32 : FloatFmt := ⟨8, 23, 127, true, 0x7F7FFFFF, some 0x7FC00000⟩
def FloatFmt.fp16 : FloatFmt := ⟨5, 10, 15, true, 0x7BFF, some 0x7E00⟩
def FloatFmt.bf16 : FloatFmt := ⟨8, 7, 127, true, 0x7F7F, some 0x7FC0⟩
def FloatFmt.e4m3 : FloatFmt := ⟨4, 3, 7, false, 0x7E, some 0x7F⟩
def FloatFmt.e5m2 : FloatFmt := ⟨5, 2, 15, true, 0x7B, some 0x7E⟩
def FloatFmt.e2m1 : FloatFmt := ⟨2, 1, 1, false, 0x7, none⟩

/-- The floating format of a format code, none for integer, QC4 and reserved codes (R67). -/
def FloatFmt.ofCode (c : Nat) : Option FloatFmt :=
  if c = 0x7 then some .fp32 else if c = 0x8 then some .fp16 else if c = 0x9 then some .bf16
  else if c = 0xA then some .e4m3 else if c = 0xB then some .e5m2 else if c = 0xC then some .e2m1 else none

/-- Width and signedness of an integer format code (R67, R68). -/
def IntFmt.ofCode (c : Nat) : Option (Nat × Bool) :=
  if c = 0x0 then some (32, true) else if c = 0x1 then some (32, false)
  else if c = 0x2 then some (16, true) else if c = 0x3 then some (16, false)
  else if c = 0x4 then some (8, true) else if c = 0x5 then some (8, false)
  else if c = 0x6 then some (4, true) else none

/-- Width in bits of a format code (R67). -/
def fmtWidth (c : Nat) : Nat :=
  if c = 0x0 ∨ c = 0x1 ∨ c = 0x7 then 32
  else if c = 0x2 ∨ c = 0x3 ∨ c = 0x8 ∨ c = 0x9 then 16
  else if c = 0x4 ∨ c = 0x5 ∨ c = 0xA ∨ c = 0xB then 8 else 4

/-- SignExtend(v, w) as an integer (R6). -/
def sx (v w : Nat) : Int :=
  let x := v % 2 ^ w
  if w ≠ 0 ∧ 2 ^ (w - 1) ≤ x then (x : Int) - (2 ^ w : Nat) else x

/-- Sat(v, lo, hi) (R6). -/
def satInt (v lo hi : Int) : Int := if v < lo then lo else if v > hi then hi else v

/-- The least and greatest value of an integer format (R68). -/
def intRange (w : Nat) (signed : Bool) : Int × Int :=
  if signed then (-(2 ^ (w - 1) : Nat), (2 ^ (w - 1) : Nat) - 1) else (0, (2 ^ w : Nat) - 1)

/-- The low w bits of an integer (R5). -/
def lowBits (v : Int) (w : Nat) : Nat := (v % ((2 ^ w : Nat) : Int)).toNat

/-- The value of an integer as an extended real. -/
def XR.ofInt (v : Int) : XR := .fin (decide (v < 0)) v.natAbs 0

/-- Sign bit of an encoding. -/
def FloatFmt.signBit (f : FloatFmt) (x : Nat) : Bool := x.testBit (f.eb + f.mb)

/-- Decode(x, fmt) of a floating format (R71, R72). -/
def FloatFmt.decode (f : FloatFmt) (x : Nat) : XR :=
  let neg := f.signBit x
  let e := x / 2 ^ f.mb % 2 ^ f.eb
  let m := x % 2 ^ f.mb
  if f.ieee ∧ e = 2 ^ f.eb - 1 then (if m = 0 then .inf neg else .nan)
  else if ¬ f.ieee ∧ f.canon.isSome ∧ e = 2 ^ f.eb - 1 ∧ m = 2 ^ f.mb - 1 then .nan
  else if e = 0 then .fin neg m (1 - (f.bias : Int) - f.mb)
  else .fin neg (2 ^ f.mb + m) ((e : Int) - f.bias - f.mb)

/-- m · 2^e as a multiple of 2^q rounded by rm, and whether anything was dropped (R75). -/
def roundAt (neg : Bool) (m : Nat) (e q : Int) (rm : RMode) : Nat × Bool :=
  if q ≤ e then (m * 2 ^ (e - q).toNat, false)
  else
    let k := (q - e).toNat
    let n := m / 2 ^ k
    let r := m % 2 ^ k
    let half := 2 ^ (k - 1)
    let up := match rm with
      | .rne => decide (half < r) || (decide (r = half) && decide (n % 2 = 1))
      | .rz => false
      | .ru => decide (r ≠ 0) && !neg
      | .rd => decide (r ≠ 0) && neg
    (if up then n + 1 else n, decide (r ≠ 0))

/-- a·2^d < b·2^e for exact magnitudes. -/
def magLt (a : Nat) (d : Int) (b : Nat) (e : Int) : Bool :=
  if d ≤ e then decide (a < b * 2 ^ (e - d).toNat) else decide (a * 2 ^ (d - e).toNat < b)

/-- The signed encoding with magnitude bits `x`. -/
def FloatFmt.withSign (f : FloatFmt) (neg : Bool) (x : Nat) : Nat := if neg then 2 ^ (f.eb + f.mb) + x else x

/-- Magnitude bits of infinity. -/
def FloatFmt.infBits (f : FloatFmt) : Nat := (2 ^ f.eb - 1) * 2 ^ f.mb

/-- Round of an exact nonzero finite value (R75): the encoding and the flags. Overflow is judged on the rounded magnitude,
as R75 states it, also for the accumulation of R87 (log 58). -/
def FloatFmt.roundFin (f : FloatFmt) (neg : Bool) (m : Nat) (e : Int) (rm : RMode) : Nat × Flags :=
  let top : Int := (Nat.log2 m : Int) + e
  let emin : Int := 1 - (f.bias : Int)
  let qu := top - f.mb
  let q := if qu < emin - f.mb then emin - f.mb else qu
  let (n, inexact) := roundAt neg m e q rm
  let (nu, _) := roundAt neg m e qu rm
  let maxE : Int := ((f.maxFin / 2 ^ f.mb : Nat) : Int) - f.bias - f.mb
  let maxM := 2 ^ f.mb + f.maxFin % 2 ^ f.mb
  if magLt maxM maxE n q then
    let toInf := f.ieee && (match rm with | .rne => true | .rz => false | .ru => !neg | .rd => neg)
    (f.withSign neg (if toInf then f.infBits else f.maxFin), Flags.ovf ||| Flags.inx)
  else
    let tiny := magLt nu qu 1 emin
    let flags := if inexact then (if tiny then Flags.unf ||| Flags.inx else Flags.inx) else Flags.none
    if n = 0 then (f.withSign neg 0, flags)
    else
      let et : Int := (Nat.log2 n : Int) + q
      if et < emin then (f.withSign neg n, flags)
      else
        let sig := if Nat.log2 n ≤ f.mb then n * 2 ^ (f.mb - Nat.log2 n) else n / 2 ^ (Nat.log2 n - f.mb)
        (f.withSign neg ((et + f.bias).toNat * 2 ^ f.mb + (sig - 2 ^ f.mb)), flags)

/-- Round(v, fmt, rm) with its flags (R75). -/
def FloatFmt.round (f : FloatFmt) (v : XR) (rm : RMode) : Nat × Flags :=
  match v with
  | .nan => match f.canon with
    | some c => (c, Flags.none)
    | none => (0, Flags.inv)
  | .inf neg =>
    if f.ieee then (f.withSign neg f.infBits, Flags.none)
    else (f.withSign neg f.maxFin, Flags.ovf ||| Flags.inx)
  | .fin neg m e => if m = 0 then (f.withSign neg 0, Flags.none) else f.roundFin neg m e rm

/-- CanonNaN(fmt) (R74). -/
def FloatFmt.canonNaN (f : FloatFmt) : Nat := f.canon.getD 0

def XR.isNaN : XR → Bool
  | .nan => true
  | _ => false

def XR.isInf : XR → Bool
  | .inf _ => true
  | _ => false

def XR.isZero : XR → Bool
  | .fin _ m _ => decide (m = 0)
  | _ => false

/-- Sign of a value; false for NaN. -/
def XR.neg? : XR → Bool
  | .nan => false
  | .inf n => n
  | .fin n _ _ => n

def XR.negate : XR → XR
  | .nan => .nan
  | .inf n => .inf (!n)
  | .fin n m e => .fin (!n) m e

def XR.abs : XR → XR
  | .nan => .nan
  | .inf _ => .inf false
  | .fin _ m e => .fin false m e

/-- A finite value at exponent `q`, where q is at most its own exponent. -/
def finAt (neg : Bool) (m : Nat) (e q : Int) : Int :=
  let x : Int := (m * 2 ^ (e - q).toNat : Nat)
  if neg then -x else x

/-- Exact product with its flag: 0 · ∞ is NaN and INV; the sign is the exclusive-or (R76, R77). -/
def XR.mul (a b : XR) : XR × Flags :=
  match a, b with
  | .nan, _ => (.nan, Flags.none)
  | _, .nan => (.nan, Flags.none)
  | .inf s, .inf t => (.inf (s != t), Flags.none)
  | .inf s, .fin t m _ => if m = 0 then (.nan, Flags.inv) else (.inf (s != t), Flags.none)
  | .fin s m _, .inf t => if m = 0 then (.nan, Flags.inv) else (.inf (s != t), Flags.none)
  | .fin s m d, .fin t n e => (.fin (s != t) (m * n) (d + e), Flags.none)

/-- Exact sum with its flag: ∞ − ∞ is NaN and INV; the sign of a zero sum follows R76 under rm. -/
def XR.add (a b : XR) (rm : RMode) : XR × Flags :=
  match a, b with
  | .nan, _ => (.nan, Flags.none)
  | _, .nan => (.nan, Flags.none)
  | .inf s, .inf t => if s = t then (.inf s, Flags.none) else (.nan, Flags.inv)
  | .inf s, .fin _ _ _ => (.inf s, Flags.none)
  | .fin _ _ _, .inf t => (.inf t, Flags.none)
  | .fin s m d, .fin t n e =>
    let q := if d ≤ e then d else e
    let v := finAt s m d q + finAt t n e q
    if v = 0 then
      let allNegZero := (decide (m = 0) && s) && (decide (n = 0) && t)
      (.fin (allNegZero || decide (rm = .rd)) 0 0, Flags.none)
    else (.fin (decide (v < 0)) v.natAbs q, Flags.none)

/-- Numeric order, −0 equal to +0 (FCMP, R234); NaN stands below every other value. -/
def XR.cmp (a b : XR) : Ordering :=
  match a, b with
  | .nan, .nan => .eq
  | .nan, _ => .lt
  | _, .nan => .gt
  | .inf s, .inf t => if s = t then .eq else if s then .lt else .gt
  | .inf s, .fin _ _ _ => if s then .lt else .gt
  | .fin _ _ _, .inf t => if t then .gt else .lt
  | .fin s m d, .fin t n e =>
    let q := if d ≤ e then d else e
    compare (finAt s m d q) (finAt t n e q)

/-- The order of FMIN, FMAX, the reductions and the select units: NaN below −∞, −0 below +0 (R234, R238, R288). -/
def XR.rank (a b : XR) : Ordering :=
  match XR.cmp a b with
  | .eq => if a.isZero && b.isZero then compare (!a.neg?).toNat (!b.neg?).toNat else .eq
  | o => o

/-- Division of 2^k by m with a sticky bit below: an exact value between the quotient and the next one (R77). -/
def recipFin (neg : Bool) (m : Nat) (e : Int) : XR :=
  let k := Nat.log2 m + 96
  let q := 2 ^ k / m
  .fin neg (2 * q + (if 2 ^ k % m = 0 then 0 else 1)) (-(k : Int) - 1 - e)

/-- Exact-or-sticky quotient of two finite values, divisor nonzero (R294, R291, R236). -/
def quotFin (neg : Bool) (a : Nat) (d : Int) (b : Nat) (e : Int) : XR :=
  let k := Nat.log2 b + 96
  let n := a * 2 ^ k
  .fin neg (2 * (n / b) + (if n % b = 0 then 0 else 1)) (d - e - (k : Int) - 1)

/-- Integer square root by bits, `k` result bits. -/
def isqrtBits (x : Nat) : Nat → Nat → Nat
  | 0, acc => acc
  | k + 1, acc =>
    let c := acc + 2 ^ k
    isqrtBits x k (if c * c ≤ x then c else acc)

/-- Reciprocal square root of a positive finite value, exact or with a sticky bit (R77, R234). -/
def rsqrtFin (m : Nat) (e : Int) : XR :=
  let odd := decide (e % 2 ≠ 0)
  let m' := if odd then 2 * m else m
  let e' := if odd then e - 1 else e
  let k := Nat.log2 m' / 2 + 96
  let x := 2 ^ (2 * k) / m'
  let r := isqrtBits x (Nat.log2 x / 2 + 2) 0
  let exact := decide (r * r * m' = 2 ^ (2 * k))
  .fin false (2 * r + (if exact then 0 else 1)) (-(k : Int) - 1 - e' / 2)

/-- Fixed-point precision of the transcendental results (log 6); a softmax weight takes more where it needs it. -/
def fxBits : Nat := 384

/-- Σ t^(2k+1)/(2k+1) in fixed point of f bits, `n` further terms: atanh(t). -/
def atanhTerms (f t2 : Nat) : Nat → Nat → Nat → Nat → Nat
  | 0, _, _, acc => acc
  | n + 1, p, k, acc => atanhTerms f t2 n (p * t2 / 2 ^ f) (k + 2) (acc + p / k)

/-- ln of (num/den) for 1 ≤ num/den ≤ 2, in fixed point of f bits. -/
def lnFx (f num den : Nat) : Nat :=
  let t := (num - den) * 2 ^ f / (num + den)
  2 * atanhTerms f (t * t / 2 ^ f) (f / 3 + 2) t 1 0

/-- ln 2 in fixed point. -/
def ln2Fx (f : Nat) : Nat := lnFx f 2 1

/-- Σ y^k/k! in fixed point, `n` further terms: e^y. -/
def expTerms (f y : Nat) : Nat → Nat → Nat → Nat → Nat
  | 0, _, _, acc => acc
  | n + 1, p, k, acc => expTerms f y n (p * y / 2 ^ f / k) (k + 1) (acc + p)

/-- e^y for 0 ≤ y < 1 in fixed point. -/
def expFx (f y : Nat) : Nat := expTerms f y (f / 4) (2 ^ f) 1 0

/-- 2^x of a finite value: a power of two exactly, otherwise with a sticky bit (R77, R234; log 6). Values beyond every
format's range are delivered at an exponent beyond it. -/
def exp2Fin (neg : Bool) (m : Nat) (e : Int) : XR :=
  let v : Int × Nat × Nat := -- floor, numerator, denominator bits of the fraction
    if 0 ≤ e then (finAt neg m e 0, 0, 0)
    else
      let k := (-e).toNat
      let s : Int := if neg then -(m : Int) else m
      (s / ((2 ^ k : Nat) : Int), (s % ((2 ^ k : Nat) : Int)).toNat, k)
  let n := satInt v.1 (-100000) 100000
  if v.2.1 = 0 then .fin false 1 n
  else
    let y := v.2.1 * ln2Fx fxBits / 2 ^ v.2.2
    .fin false (2 * expFx fxBits y + 1) (n - (fxBits : Int) - 1)

/-- log2 of a positive finite value: an integer exactly, otherwise with a sticky bit (R77, R234; log 6). -/
def log2Fin (m : Nat) (e : Int) : XR :=
  let k := Nat.log2 m
  let top : Int := (k : Int) + e
  if m = 2 ^ k then XR.ofInt top
  else
    let l := lnFx fxBits m (2 ^ k) * 2 ^ fxBits / ln2Fx fxBits
    let t : Int := top * ((2 ^ fxBits : Nat) : Int) + l
    if 0 ≤ t then .fin false (2 * t.natAbs + 1) (-(fxBits : Int) - 1)
    else .fin true (2 * t.natAbs - 1) (-(fxBits : Int) - 1)

/-- e^(−d) for an exact d ≥ 0 as (mantissa in [1, 2) in fixed point of f bits, exponent), exponent at least −200000 (R291). -/
def expNeg (f m : Nat) (e : Int) : Nat × Int :=
  let dfx : Nat :=
    if 0 ≤ (f : Int) + e then min (m * 2 ^ ((f : Int) + e).toNat) (100000 * 2 ^ f)
    else m / 2 ^ (-((f : Int) + e)).toNat
  let n := dfx / ln2Fx f + 1
  let y := n * ln2Fx f - dfx
  (expFx f (if y ≥ 2 ^ f then 2 ^ f - 1 else y), -(n : Int))

/-- RoundInt(v, rm) of a finite value (R74). -/
def roundIntFin (neg : Bool) (m : Nat) (e : Int) (rm : RMode) : Int :=
  let n := (roundAt neg m e 0 rm).1
  if neg then -(n : Int) else n

/-- ToInt with the flags of R81: NaN gives 0 and INV; a clamp raises INV and SAT; a dropped fraction raises INX. -/
def toIntFmt (v : XR) (w : Nat) (signed : Bool) (rm : RMode) : Int × Flags :=
  let (lo, hi) := intRange w signed
  match v with
  | .nan => (0, Flags.inv)
  | .inf neg => (if neg then lo else hi, Flags.inv ||| Flags.sat)
  | .fin neg m e =>
    let n := roundIntFin neg m e rm
    let c := satInt n lo hi
    let inRange := (XR.cmp (XR.ofInt lo) v != .gt) && (XR.cmp v (XR.ofInt hi) != .gt)
    if c ≠ n then (c, Flags.inv ||| Flags.sat)
    else if XR.cmp (XR.ofInt c) v = .eq then (c, Flags.none)
    else if inRange then (c, Flags.inx)
    else (c, Flags.inv)

/-- Decode(x, code) for every scalar format code (R74); x is read at the format's width. -/
def decodeFmt (x code : Nat) : XR :=
  match FloatFmt.ofCode code with
  | some f => f.decode (x % 2 ^ fmtWidth code)
  | none => match IntFmt.ofCode code with
    | some (w, signed) => XR.ofInt (if signed then sx x w else ((x % 2 ^ w : Nat) : Int))
    | none => .nan

/-- E2M1 decoding with the X-enable bit and XV of R73. -/
def decodeX (x : Nat) (xen : Bool) (xv : Nat) : XR :=
  if xen ∧ x % 16 = 8 then FloatFmt.fp16.decode (xv % 65536) else FloatFmt.e2m1.decode (x % 16)

/-- The QC4 codebook of R83 as FP16 encodings, code 8 to 15; codes 0–7 mirror them. -/
def qc4Mag (i : Nat) : Nat × Int :=
  -- magnitudes as numerators over 2^15, exact in FP16
  let n := if i = 0 then 1379 else if i = 1 then 4172 else if i = 2 then 7076 else if i = 3 then 10184
    else if i = 4 then 13656 else if i = 5 then 17760 else if i = 6 then 23184 else 32768
  (n, -15)

/-- The value of a QC4 code (R83). -/
def qc4Value (code : Nat) : XR :=
  let c := code % 16
  if c < 8 then .fin true (qc4Mag (7 - c)).1 (-15) else .fin false (qc4Mag (c - 8)).1 (-15)

end Sys2Proof
end

