-- ==== Sys2Proof/Machine/SMap.lean ====
section
/-! DEFINITION. Sparse data by key: a list of (key, value) pairs, keys strictly rising, with reads of an unlisted key
answering a default. Memory, presence bits, register files, queues and tables of the machine are kept so. -/

namespace Sys2Proof

/-- Sparse data keyed by natural numbers. -/
abbrev SMap (α : Type) := List (Nat × α)

/-- The value at key `i`, or the default `d`. -/
def SMap.get {α : Type} (d : α) : SMap α → Nat → α
  | [], _ => d
  | (k, v) :: m, i => if i = k then v else SMap.get d m i

/-- List `v` at key `i`, before the first greater key. -/
def SMap.put {α : Type} : SMap α → Nat → α → SMap α
  | [], i, v => [(i, v)]
  | (k, w) :: m, i, v =>
    if i = k then (k, v) :: m
    else if i < k then (i, v) :: (k, w) :: m
    else (k, w) :: SMap.put m i v

/-- Unlist key `i`. -/
def SMap.del {α : Type} : SMap α → Nat → SMap α
  | [], _ => []
  | (k, w) :: m, i => if i = k then SMap.del m i else (k, w) :: SMap.del m i

/-- Store `v` at key `i` in canonical form: a value equal to the default is not listed. -/
def SMap.set {α : Type} [DecidableEq α] (d : α) (m : SMap α) (i : Nat) (v : α) : SMap α :=
  if v = d then SMap.del m i else SMap.put m i v

/-- Keys above `lo`, strictly rising, no listed default: the canonical form after a key `lo`. -/
def SMap.wfFrom {α : Type} [DecidableEq α] (d : α) : Option Nat → SMap α → Bool
  | _, [] => true
  | lo, (k, v) :: m =>
    (match lo with | none => true | some l => decide (l < k)) && decide (v ≠ d) && SMap.wfFrom d (some k) m

/-- The canonical form. -/
def SMap.wf {α : Type} [DecidableEq α] (d : α) (m : SMap α) : Bool := SMap.wfFrom d none m

/-- Apply `f` to the value at `i` and list the result. -/
def SMap.upd {α : Type} (d : α) (m : SMap α) (i : Nat) (f : α → α) : SMap α := SMap.put m i (f (SMap.get d m i))

/-- Store a list of values at consecutive keys from `i`, in rising order. -/
def SMap.setList {α : Type} [DecidableEq α] (d : α) : SMap α → Nat → List α → SMap α
  | m, _, [] => m
  | m, i, v :: vs => SMap.setList d (SMap.set d m i v) (i + 1) vs

/-- The `n` values from key `i`. -/
def SMap.getList {α : Type} (d : α) (m : SMap α) (i : Nat) : Nat → List α
  | 0 => []
  | n + 1 => SMap.get d m i :: SMap.getList d m (i + 1) n

end Sys2Proof
end

