-- ==== Sys2Proof/Syntax.lean ====
section
/-! DEFINITION. The syntax of every step of the opcode table: one constructor of `Instr` per row.
Scalar instructions carry the fields of their 32-bit word (R148–R155), stream commands the fields of W0–W3
(R156–R158), events the agent they happen to and what comes from outside the module. -/

set_option Elab.async false

namespace Sys2Proof

/-- The fields of the four words of a stream command but OPC (R156–R158). -/
structure CmdWords where
  /-- W0 19:15, guard A. -/
  ga : PredField
  /-- W0 14:10, guard B. -/
  gb : PredField
  /-- W0 9:8, the policy code of R108. -/
  hint : BitVec 2
  /-- W0 7:6. -/
  prio : BitVec 2
  /-- W0 5, closes the open batch. -/
  close : Bool
  /-- W0 4, starts only after the previous command on the same engine completes. -/
  after : Bool
  /-- W0 3:0. -/
  var : BitVec 4
  /-- W1 31:26. -/
  a : Reg
  /-- W1 25:20. -/
  b : Reg
  /-- W1 19:14. -/
  c : Reg
  /-- W1 13:8. -/
  d : Reg
  /-- W1 7:2. -/
  e : Reg
  /-- W1 1:0. -/
  mode : BitVec 2
  /-- W2 31:30, number of wait-tags. -/
  nw : BitVec 2
  /-- W2 29:24. -/
  wa : BitVec 6
  /-- W2 23:18. -/
  wb : BitVec 6
  /-- W2 17, a done-tag is named. -/
  dv : Bool
  /-- W2 16:11. -/
  dt : BitVec 6
  /-- W2 10:8, the tile mask. -/
  mi : MaskIdx
  /-- W2 7:0, the bit of the mask. -/
  tix : BitVec 8
  /-- W3. -/
  w3 : BitVec 32
deriving DecidableEq, Repr

/-- A member's demand row on its way to the arbiter, with the fields of R391. -/
structure DemandRow where
  ctx : Nat
  gid : Nat
  round : Nat
  member : Nat
  n : Nat
  arb : Nat
  stby : Nat
  exp : Nat
  rate : Nat
  guard : Nat
  lead : Nat
  /-- UINT32 byte counts by destination member (R306). -/
  counts : List Nat
  /-- Unused granted bytes of the member's previous round (R306). -/
  unused : Nat
  /-- The copy that the active arbiter sends its standby (R308). -/
  mirror : Bool := false
deriving DecidableEq, Repr

/-- One entry of a member's grant sequence (R308). -/
structure Grant where
  phase : Nat
  start : Nat
  dst : Nat
  bytes : Nat
deriving DecidableEq, Repr

/-- What the arbiter sends one member for a round (R308): its grants, the start tick of every phase and of the end of
the last one, and TRUNC. -/
structure Calendar where
  round : Nat
  /-- Start tick of each phase, then the tick the last phase ends; T0 alone when there is no phase. -/
  ticks : List Nat
  trunc : Bool
  grants : List Grant
  /-- Members that hold a grant to this one, whose end-of-round markers it expects (R312, R393). -/
  senders : List Nat
  /-- The member whose calendar it is, where the standby gets it as a copy (R308). -/
  copyOf : Option Nat
deriving DecidableEq, Repr

/-- A dispatch packet (R310, R312, R392). -/
structure Packet where
  ctx : Nat
  gid : Nat
  round : Nat
  phase : Nat
  src : Nat
  slot : Word
  bytes : List Byte
deriving DecidableEq, Repr

/-- What boot finds in the module's flash (R360, R361). -/
structure PatchImage where
  present : Bool := false
  version : Word := 0
  /-- Both signatures verify against the fused key hashes. -/
  signed : Bool := false
  /-- The security version is at or above the fused minimum. -/
  fresh : Bool := false
  /-- SHA-384 measurement of the stage. -/
  measure : BitVec 384 := 0
deriving DecidableEq, Repr

/-- The monitors of a die beside its temperature (R362): supply in mV, ring-oscillator count per µs, power in W. -/
structure DieMonitors where
  supply : Word := 0
  osc : Word := 0
  power : Word := 0
deriving DecidableEq, Repr

/-- The protected structures of R407. -/
inductive SoftPlace where
  | hbm
  | l1 (core bank : Nat) (dirty : Bool)
  | l2 (dirty : Bool)
  | tlb
  | regs (core : Nat)
  | shared (die ctx : Nat)
  | channel (core : Nat)
  | accum (core key : Nat)
deriving DecidableEq, Repr

/-- A soft error (R407): where, the physical address (sector) when there is one, and the context whose access met it. -/
structure SoftError where
  place : SoftPlace
  pa : Nat
  ctx : Option Nat
deriving DecidableEq, Repr

/-- A shard read from another device over ROD (R413); bytes empty when none answers. -/
structure RemoteShard where
  seq : Word
  bytes : List Byte
deriving DecidableEq, Repr

/-- Every row of spec/opcode_table.json. -/
inductive Instr where
  /-- ADD (R169): Writes a + b modulo 2^64 to d and ll. -/
  | add (d : Reg) (a : Reg) (b : Reg)
  /-- SUB (R169): Writes a − b to d and ll. -/
  | sub (d : Reg) (a : Reg) (b : Reg)
  /-- MUL (R169): Writes the low 64 bits of a × b to d and ll. -/
  | mul (d : Reg) (a : Reg) (b : Reg)
  /-- MULH (R169): Writes the high 64 bits of the signed 128-bit product to d and ll. -/
  | mulh (d : Reg) (a : Reg) (b : Reg)
  /-- MULHU (R169): Writes the high 64 bits of the unsigned 128-bit product to d and ll. -/
  | mulhu (d : Reg) (a : Reg) (b : Reg)
  /-- DIV (R170): Signed division truncated toward zero; division by zero gives all ones. -/
  | div (d : Reg) (a : Reg) (b : Reg)
  /-- DIVU (R170): Unsigned division; division by zero gives all ones. -/
  | divu (d : Reg) (a : Reg) (b : Reg)
  /-- REM (R170): Signed remainder; the remainder by zero is the dividend. -/
  | rem (d : Reg) (a : Reg) (b : Reg)
  /-- REMU (R170): Unsigned remainder; the remainder by zero is the dividend. -/
  | remu (d : Reg) (a : Reg) (b : Reg)
  /-- AND (R169): Writes a AND b to d and ll. -/
  | and (d : Reg) (a : Reg) (b : Reg)
  /-- OR (R169): Writes a OR b to d and ll. -/
  | or (d : Reg) (a : Reg) (b : Reg)
  /-- XOR (R169): Writes a XOR b to d and ll. -/
  | xor (d : Reg) (a : Reg) (b : Reg)
  /-- ANDN (R169): Writes a AND NOT b to d and ll. -/
  | andn (d : Reg) (a : Reg) (b : Reg)
  /-- SHL (R169): Shifts a left by b[5:0], with zeros entering. -/
  | shl (d : Reg) (a : Reg) (b : Reg)
  /-- SHR (R169): Shifts a right by b[5:0] logically. -/
  | shr (d : Reg) (a : Reg) (b : Reg)
  /-- SAR (R169): Shifts a right by b[5:0] arithmetically. -/
  | sar (d : Reg) (a : Reg) (b : Reg)
  /-- MIN (R169): Writes the signed lesser of a and b. -/
  | min (d : Reg) (a : Reg) (b : Reg)
  /-- MAX (R169): Writes the signed greater of a and b. -/
  | max (d : Reg) (a : Reg) (b : Reg)
  /-- MINU (R169): Writes the unsigned lesser of a and b. -/
  | minu (d : Reg) (a : Reg) (b : Reg)
  /-- MAXU (R169): Writes the unsigned greater of a and b. -/
  | maxu (d : Reg) (a : Reg) (b : Reg)
  /-- CLZ (R169): Writes the count of leading zero bits of a, 0–64. -/
  | clz (d : Reg) (a : Reg)
  /-- CTZ (R169): Writes the count of trailing zero bits of a, 0–64. -/
  | ctz (d : Reg) (a : Reg)
  /-- POPC (R169): Writes the count of one bits of a. -/
  | popc (d : Reg) (a : Reg)
  /-- SEXT (R169): Sign-extends a from width w, where the b field holds w − 1. -/
  | sext (d : Reg) (a : Reg) (w : BitVec 6)
  /-- ZEXT (R169): Zero-extends a from width w, where the b field holds w − 1. -/
  | zext (d : Reg) (a : Reg) (w : BitVec 6)
  /-- MOV (R169): Copies a to d and ll. -/
  | mov (d : Reg) (a : Reg)
  /-- CMP_EQ (R173): Sets predicate p, and ll, to a == b. -/
  | cmpEq (p : BitVec 4) (a : Reg) (b : Reg)
  /-- CMP_NE (R173): Sets predicate p, and ll, to a != b. -/
  | cmpNe (p : BitVec 4) (a : Reg) (b : Reg)
  /-- CMP_LT (R173): Sets predicate p, and ll, to the signed comparison a < b. -/
  | cmpLt (p : BitVec 4) (a : Reg) (b : Reg)
  /-- CMP_LE (R173): Sets predicate p, and ll, to the signed comparison a <= b. -/
  | cmpLe (p : BitVec 4) (a : Reg) (b : Reg)
  /-- CMP_LTU (R173): Sets predicate p, and ll, to the unsigned comparison a < b. -/
  | cmpLtu (p : BitVec 4) (a : Reg) (b : Reg)
  /-- CMP_LEU (R173): Sets predicate p, and ll, to the unsigned comparison a <= b. -/
  | cmpLeu (p : BitVec 4) (a : Reg) (b : Reg)
  /-- PAND (R174): ANDs two predicate operands, with negate bits applied, into a predicate and ll. -/
  | pand (d : BitVec 5) (a : BitVec 5) (b : BitVec 5)
  /-- POR (R174): ORs two predicate operands into a predicate and ll. -/
  | por (d : BitVec 5) (a : BitVec 5) (b : BitVec 5)
  /-- PXOR (R174): XORs two predicate operands into a predicate and ll. -/
  | pxor (d : BitVec 5) (a : BitVec 5) (b : BitVec 5)
  /-- PNOT (R174): Complements one predicate operand into a predicate and ll. -/
  | pnot (d : BitVec 5) (a : BitVec 5)
  /-- LEA_X1 (R169): Writes a + b × 1 to d and ll. -/
  | leaX1 (d : Reg) (a : Reg) (b : Reg)
  /-- LEA_X2 (R169): Writes a + b × 2 to d and ll. -/
  | leaX2 (d : Reg) (a : Reg) (b : Reg)
  /-- LEA_X4 (R169): Writes a + b × 4 to d and ll. -/
  | leaX4 (d : Reg) (a : Reg) (b : Reg)
  /-- LEA_X8 (R169): Writes a + b × 8 to d and ll. -/
  | leaX8 (d : Reg) (a : Reg) (b : Reg)
  /-- SEL (R175): Writes a or b to d and ll according to a predicate operand. -/
  | sel (d : Reg) (a : Reg) (b : Reg) (p : BitVec 5)
  /-- MEMX_LD (R176): Indexed zero-extending load from [a + b*n]. -/
  | memxLd (d : Reg) (a : Reg) (b : Reg) (s : BitVec 2) (p : BitVec 2) (c : BitVec 1)
  /-- MEMX_LDS (R176): Indexed sign-extending load from [a + b*n]. -/
  | memxLds (d : Reg) (a : Reg) (b : Reg) (s : BitVec 2) (p : BitVec 2) (c : BitVec 1)
  /-- MEMX_ST (R176): Indexed store to [a + b*n]. -/
  | memxSt (d : Reg) (a : Reg) (b : Reg) (s : BitVec 2) (p : BitVec 2) (c : BitVec 1)
  /-- BFX (R172): Extracts a bit field of a and sign-extends it. -/
  | bfx (d : Reg) (a : Reg) (w : BitVec 6) (p : BitVec 6)
  /-- BFXU (R172): Extracts a bit field of a and zero-extends it. -/
  | bfxu (d : Reg) (a : Reg) (w : BitVec 6) (p : BitVec 6)
  /-- BFI (R172): Inserts the low bits of a into a field of d. -/
  | bfi (d : Reg) (a : Reg) (w : BitVec 6) (p : BitVec 6)
  /-- AMO_ADD_W (R179): Indivisible 4-byte add at the home slice; returns the old value. -/
  | amoAddW (d : Reg) (a : Reg) (b : Reg) (s : BitVec 2) (o : BitVec 2)
  /-- AMO_MIN_W (R179): Indivisible 4-byte signed minimum. -/
  | amoMinW (d : Reg) (a : Reg) (b : Reg) (s : BitVec 2) (o : BitVec 2)
  /-- AMO_MAX_W (R179): Indivisible 4-byte signed maximum. -/
  | amoMaxW (d : Reg) (a : Reg) (b : Reg) (s : BitVec 2) (o : BitVec 2)
  /-- AMO_MINU_W (R179): Indivisible 4-byte unsigned minimum. -/
  | amoMinuW (d : Reg) (a : Reg) (b : Reg) (s : BitVec 2) (o : BitVec 2)
  /-- AMO_MAXU_W (R179): Indivisible 4-byte unsigned maximum. -/
  | amoMaxuW (d : Reg) (a : Reg) (b : Reg) (s : BitVec 2) (o : BitVec 2)
  /-- AMO_AND_W (R179): Indivisible 4-byte AND. -/
  | amoAndW (d : Reg) (a : Reg) (b : Reg) (s : BitVec 2) (o : BitVec 2)
  /-- AMO_OR_W (R179): Indivisible 4-byte OR. -/
  | amoOrW (d : Reg) (a : Reg) (b : Reg) (s : BitVec 2) (o : BitVec 2)
  /-- AMO_XOR_W (R179): Indivisible 4-byte XOR. -/
  | amoXorW (d : Reg) (a : Reg) (b : Reg) (s : BitVec 2) (o : BitVec 2)
  /-- AMO_SWAP_W (R179): Indivisible 4-byte swap. -/
  | amoSwapW (d : Reg) (a : Reg) (b : Reg) (s : BitVec 2) (o : BitVec 2)
  /-- AMO_CAS_W (R179): Indivisible 4-byte compare-and-swap against d. -/
  | amoCasW (d : Reg) (a : Reg) (b : Reg) (s : BitVec 2) (o : BitVec 2)
  /-- AMO_ADD_D (R179): Indivisible 8-byte add at the home slice; returns the old value. -/
  | amoAddD (d : Reg) (a : Reg) (b : Reg) (s : BitVec 2) (o : BitVec 2)
  /-- AMO_MIN_D (R179): Indivisible 8-byte signed minimum. -/
  | amoMinD (d : Reg) (a : Reg) (b : Reg) (s : BitVec 2) (o : BitVec 2)
  /-- AMO_MAX_D (R179): Indivisible 8-byte signed maximum. -/
  | amoMaxD (d : Reg) (a : Reg) (b : Reg) (s : BitVec 2) (o : BitVec 2)
  /-- AMO_MINU_D (R179): Indivisible 8-byte unsigned minimum. -/
  | amoMinuD (d : Reg) (a : Reg) (b : Reg) (s : BitVec 2) (o : BitVec 2)
  /-- AMO_MAXU_D (R179): Indivisible 8-byte unsigned maximum. -/
  | amoMaxuD (d : Reg) (a : Reg) (b : Reg) (s : BitVec 2) (o : BitVec 2)
  /-- AMO_AND_D (R179): Indivisible 8-byte AND. -/
  | amoAndD (d : Reg) (a : Reg) (b : Reg) (s : BitVec 2) (o : BitVec 2)
  /-- AMO_OR_D (R179): Indivisible 8-byte OR. -/
  | amoOrD (d : Reg) (a : Reg) (b : Reg) (s : BitVec 2) (o : BitVec 2)
  /-- AMO_XOR_D (R179): Indivisible 8-byte XOR. -/
  | amoXorD (d : Reg) (a : Reg) (b : Reg) (s : BitVec 2) (o : BitVec 2)
  /-- AMO_SWAP_D (R179): Indivisible 8-byte swap. -/
  | amoSwapD (d : Reg) (a : Reg) (b : Reg) (s : BitVec 2) (o : BitVec 2)
  /-- AMO_CAS_D (R179): Indivisible 8-byte compare-and-swap against d. -/
  | amoCasD (d : Reg) (a : Reg) (b : Reg) (s : BitVec 2) (o : BitVec 2)
  /-- CMPI_EQ (R173): Sets predicate p, and ll, to a == the sign-extended immediate. -/
  | cmpiEq (p : BitVec 4) (a : Reg) (i : BitVec 13)
  /-- CMPI_NE (R173): Sets predicate p, and ll, to a != the immediate. -/
  | cmpiNe (p : BitVec 4) (a : Reg) (i : BitVec 13)
  /-- CMPI_LT (R173): Sets predicate p, and ll, to the signed comparison a < the immediate. -/
  | cmpiLt (p : BitVec 4) (a : Reg) (i : BitVec 13)
  /-- CMPI_LE (R173): Sets predicate p, and ll, to the signed comparison a <= the immediate. -/
  | cmpiLe (p : BitVec 4) (a : Reg) (i : BitVec 13)
  /-- CMPI_LTU (R173): Sets predicate p, and ll, to the unsigned comparison a < the immediate. -/
  | cmpiLtu (p : BitVec 4) (a : Reg) (i : BitVec 13)
  /-- CMPI_LEU (R173): Sets predicate p, and ll, to the unsigned comparison a <= the immediate. -/
  | cmpiLeu (p : BitVec 4) (a : Reg) (i : BitVec 13)
  /-- LOOP (R182): Decrements its counter and branches while the counter is nonzero. -/
  | loop (d : Reg) (i : BitVec 20)
  /-- ADDI (R171): Writes a plus the sign-extended 14-bit immediate to d and ll. -/
  | addi (d : Reg) (a : Reg) (i : BitVec 14)
  /-- ANDI (R171): ANDs a with the zero-extended immediate. -/
  | andi (d : Reg) (a : Reg) (i : BitVec 14)
  /-- ORI (R171): ORs a with the zero-extended immediate. -/
  | ori (d : Reg) (a : Reg) (i : BitVec 14)
  /-- XORI (R171): XORs a with the zero-extended immediate. -/
  | xori (d : Reg) (a : Reg) (i : BitVec 14)
  /-- SHLI (R171): Shifts a left by an immediate amount. -/
  | shli (d : Reg) (a : Reg) (s : BitVec 6)
  /-- SHRI (R171): Shifts a right logically by an immediate amount. -/
  | shri (d : Reg) (a : Reg) (s : BitVec 6)
  /-- SARI (R171): Shifts a right arithmetically by an immediate amount. -/
  | sari (d : Reg) (a : Reg) (s : BitVec 6)
  /-- LI (R171): Writes the sign-extended 20-bit immediate to d and ll. -/
  | li (d : Reg) (i : BitVec 20)
  /-- LUI (R171): Writes the sign-extended 20-bit immediate × 2^14 to d and ll. -/
  | lui (d : Reg) (i : BitVec 20)
  /-- PLD (R178): Presence load: returns a full word, or defers at the home slice until the word is filled; an acquire. -/
  | pld (d : Reg) (a : Reg) (s : BitVec 2) (o : BitVec 12)
  /-- PST (R178): Presence store: writes the word, sets it full and releases deferred PLDs; a release. -/
  | pst (d : Reg) (a : Reg) (s : BitVec 2) (o : BitVec 12)
  /-- PCLR (R178): Sets a presence word empty; a release. -/
  | pclr (a : Reg) (s : BitVec 2) (o : BitVec 12)
  /-- BP (R181): Branches to SOFF + offset if the predicate is true. -/
  | bp (p : BitVec 4) (o : BitVec 21)
  /-- BNP (R181): Branches if the predicate is false. -/
  | bnp (p : BitVec 4) (o : BitVec 21)
  /-- J (R181): Unconditional branch, encoded as BP on p0. -/
  | j (o : BitVec 21)
  /-- CALL (R181): If the predicate holds, writes SOFF + 1 to g47 and branches. -/
  | call (n : BitVec 1) (p : BitVec 4) (o : BitVec 21)
  /-- WAIT (R190): Closes the open batch, then holds the control core until every wait counter is at or below its allowance. -/
  | wait (l : BitVec 4) (s : BitVec 4) (c : BitVec 4) (t : BitVec 4) (b : BitVec 4)
  /-- NOP (R183): No effect. -/
  | nop
  /-- HALT (R183): Closes the open batch and stops issuing from the record. -/
  | halt
  /-- SAFE (R189): Safe point naming a live mask; stops the runner for a pending pre-emption at an iteration boundary. -/
  | safe (i : BitVec 12)
  /-- TRAP (R184): Enters the context's trap handler with CLASS 0 and the given code. -/
  | trap (c : BitVec 16)
  /-- ERET (R185): Leaves handler mode and resumes the record's stream at EPC. -/
  | eret
  /-- FENCE_ACQ (R180): Acquire fence at a scope: orders earlier loads before all later accesses and command issues. -/
  | fenceAcq (s : BitVec 2)
  /-- FENCE_REL (R180): Release fence at a scope: orders all earlier accesses before later writes and command issues. -/
  | fenceRel (s : BitVec 2)
  /-- FENCE_FULL (R180): Full fence at a scope: both acquire and release. -/
  | fenceFull (s : BitVec 2)
  /-- DRAIN (R191): Closes the open batch and holds until every earlier command on the named path has completed. -/
  | drain (p : BitVec 3)
  /-- JR (R181): Jumps to the word index held in a[31:0]. -/
  | jr (a : Reg)
  /-- RET (R181): Jumps to the word index held in g47. -/
  | ret
  /-- MFS (R192): Reads a special register into d. -/
  | mfs (d : Reg) (n : BitVec 6)
  /-- MTS (R193): Writes FSTAT, EPC or CAUSE. -/
  | mts (a : Reg) (n : BitVec 6)
  /-- MLD (R194): Loads a tile mask from 32 aligned bytes. -/
  | mld (a : Reg) (m : BitVec 3)
  /-- MST (R194): Stores a tile mask to 32 bytes. -/
  | mst (a : Reg) (m : BitVec 3)
  /-- MSET (R194): Sets bit a[7:0] of a tile mask. -/
  | mset (a : Reg) (m : BitVec 3)
  /-- MCLR (R194): Clears bit a[7:0] of a tile mask. -/
  | mclr (a : Reg) (m : BitVec 3)
  /-- MTST (R194): Copies a tile-mask bit into a predicate and ll. -/
  | mtst (a : Reg) (p : BitVec 4) (m : BitVec 3)
  /-- TRACE_S (R154): Writes a MARK trace record with the immediate marker. -/
  | traceS (v : BitVec 16)
  /-- LDS_B (R176): Sign-extending byte load, default policy. -/
  | ldsB (d : Reg) (a : Reg) (o : BitVec 14)
  /-- LDS_H (R176): Sign-extending halfword load, default policy. -/
  | ldsH (d : Reg) (a : Reg) (o : BitVec 14)
  /-- LDS_W (R176): Sign-extending word load, default policy. -/
  | ldsW (d : Reg) (a : Reg) (o : BitVec 14)
  /-- LDS_B_BYP (R176): Sign-extending byte load at the home slice. -/
  | ldsBByp (d : Reg) (a : Reg) (o : BitVec 14)
  /-- LDS_H_BYP (R176): Sign-extending halfword load at the home slice. -/
  | ldsHByp (d : Reg) (a : Reg) (o : BitVec 14)
  /-- LDS_W_BYP (R176): Sign-extending word load at the home slice. -/
  | ldsWByp (d : Reg) (a : Reg) (o : BitVec 14)
  /-- LDS_B_STR (R176): Sign-extending streaming byte load. -/
  | ldsBStr (d : Reg) (a : Reg) (o : BitVec 14)
  /-- LDS_H_STR (R176): Sign-extending streaming halfword load. -/
  | ldsHStr (d : Reg) (a : Reg) (o : BitVec 14)
  /-- LDS_W_STR (R176): Sign-extending streaming word load. -/
  | ldsWStr (d : Reg) (a : Reg) (o : BitVec 14)
  /-- LD_B (R176): Zero-extending byte load, default policy. -/
  | ldB (d : Reg) (a : Reg) (o : BitVec 14)
  /-- LD_H (R176): Zero-extending halfword load, default policy. -/
  | ldH (d : Reg) (a : Reg) (o : BitVec 14)
  /-- LD_W (R176): Zero-extending word load, default policy. -/
  | ldW (d : Reg) (a : Reg) (o : BitVec 14)
  /-- LD_D (R176): Doubleword load, default policy. -/
  | ldD (d : Reg) (a : Reg) (o : BitVec 14)
  /-- LD_B_BYP (R176): Byte load at the home slice. -/
  | ldBByp (d : Reg) (a : Reg) (o : BitVec 14)
  /-- LD_H_BYP (R176): Halfword load at the home slice. -/
  | ldHByp (d : Reg) (a : Reg) (o : BitVec 14)
  /-- LD_W_BYP (R176): Word load at the home slice. -/
  | ldWByp (d : Reg) (a : Reg) (o : BitVec 14)
  /-- LD_D_BYP (R176): Doubleword load at the home slice. -/
  | ldDByp (d : Reg) (a : Reg) (o : BitVec 14)
  /-- LD_B_STR (R176): Streaming byte load. -/
  | ldBStr (d : Reg) (a : Reg) (o : BitVec 14)
  /-- LD_H_STR (R176): Streaming halfword load. -/
  | ldHStr (d : Reg) (a : Reg) (o : BitVec 14)
  /-- LD_W_STR (R176): Streaming word load. -/
  | ldWStr (d : Reg) (a : Reg) (o : BitVec 14)
  /-- LD_D_STR (R176): Streaming doubleword load. -/
  | ldDStr (d : Reg) (a : Reg) (o : BitVec 14)
  /-- ST_B (R176): Byte store, default policy. -/
  | stB (s : Reg) (a : Reg) (o : BitVec 14)
  /-- ST_H (R176): Halfword store, default policy. -/
  | stH (s : Reg) (a : Reg) (o : BitVec 14)
  /-- ST_W (R176): Word store, default policy. -/
  | stW (s : Reg) (a : Reg) (o : BitVec 14)
  /-- ST_D (R176): Doubleword store, default policy. -/
  | stD (s : Reg) (a : Reg) (o : BitVec 14)
  /-- ST_B_BYP (R176): Byte store at the home slice. -/
  | stBByp (s : Reg) (a : Reg) (o : BitVec 14)
  /-- ST_H_BYP (R176): Halfword store at the home slice. -/
  | stHByp (s : Reg) (a : Reg) (o : BitVec 14)
  /-- ST_W_BYP (R176): Word store at the home slice. -/
  | stWByp (s : Reg) (a : Reg) (o : BitVec 14)
  /-- ST_D_BYP (R176): Doubleword store at the home slice. -/
  | stDByp (s : Reg) (a : Reg) (o : BitVec 14)
  /-- ST_B_STR (R176): Streaming byte store. -/
  | stBStr (s : Reg) (a : Reg) (o : BitVec 14)
  /-- ST_H_STR (R176): Streaming halfword store. -/
  | stHStr (s : Reg) (a : Reg) (o : BitVec 14)
  /-- ST_W_STR (R176): Streaming word store. -/
  | stWStr (s : Reg) (a : Reg) (o : BitVec 14)
  /-- ST_D_STR (R176): Streaming doubleword store. -/
  | stDStr (s : Reg) (a : Reg) (o : BitVec 14)
  /-- SCALAR_ACCESS_COMPLETE (R177): A scalar load, store or AMO is performed; a load writes its destination and its counter falls. -/
  | scalarAccessComplete (core acc : Nat)
  /-- PLD_DEFERRED_COMPLETE (R112): A deferred PLD completes with the filling value when its word is filled. -/
  | pldDeferredComplete (slot : Nat)
  /-- PLD_REISSUE (R117): A PLD refused by a full deferral table is issued again. -/
  | pldReissue (core acc : Nat)
  /-- CFG_LOAD (R203): Drains the fabric load, unbinds every port and installs a new record. -/
  | cfgLoad (w : CmdWords)
  /-- CFG_PATCH (R205): Rewrites the routing switches that a patch list names once their paths are empty. -/
  | cfgPatch (w : CmdWords)
  /-- CFG_RECONF (R203): Drains the fabric load and installs a new record, keeping the ports it does not rebind. -/
  | cfgReconf (w : CmdWords)
  /-- CFG_ITER (R206): Writes ICTR when it starts. -/
  | cfgIter (w : CmdWords)
  /-- PACE (R206): Sets the Pacer's K. -/
  | pace (w : CmdWords)
  /-- PORT_BIND (R207): Binds, or with ROLE NONE unbinds, a fabric port and its window once its current stream ends. -/
  | portBind (w : CmdWords)
  /-- PORT_FEED (R211): Sends 1–5 tokens from registers to a FEED port's FIFO. -/
  | portFeed (w : CmdWords)
  /-- PORT_TAKE (R212): Pops the next token from a TAKE port into a register. -/
  | portTake (w : CmdWords)
  /-- BATCH (R219): Closes the open batch. -/
  | batch (w : CmdWords)
  /-- HURDLE_ARRIVE_WAIT (R220): Arrives at a local, gang or die hurdle and holds later commands until it completes. -/
  | hurdleArriveWait (w : CmdWords)
  /-- HURDLE_ARRIVE (R220): Arrives at a gang or die hurdle without waiting. -/
  | hurdleArrive (w : CmdWords)
  /-- HURDLE_WAIT (R220): Waits on the issuer's latest gang or die hurdle generation without arriving. -/
  | hurdleWait (w : CmdWords)
  /-- COPY (R213): Copies bytes in 1-D or 2-D from a source to a destination. -/
  | copy (w : CmdWords)
  /-- COPY_FILL (R213): Fills the destination with a byte value. -/
  | copyFill (w : CmdWords)
  /-- COPY_WFILL (R213): Fills the destination with a repeated 8-byte word. -/
  | copyWfill (w : CmdWords)
  /-- COPY_MC (R216): Multicasts chunks into the ring slots of the named gang members, optionally joined to batons. -/
  | copyMc (w : CmdWords)
  /-- COPY_DEM (R215): Feeds a slot ring in a window, gated by the IN port's free-slot notices. -/
  | copyDem (w : CmdWords)
  /-- COPY_IND_GATHER (R214): Gathers table rows by an index list. -/
  | copyIndGather (w : CmdWords)
  /-- COPY_IND_SCATTER (R214): Scatters rows into a table by an index list. -/
  | copyIndScatter (w : CmdWords)
  /-- MM (R268): Dense tile multiply-accumulate into an accumulator bank. -/
  | mm (w : CmdWords)
  /-- MM_SP (R258): Multiply with a two-level structured-sparse A operand. -/
  | mmSp (w : CmdWords)
  /-- MM_BSR (R259): Multiply with a block-sparse BSR A operand. -/
  | mmBsr (w : CmdWords)
  /-- MM_CSR (R260): Multiply with a CSR A operand over a stripe of rows. -/
  | mmCsr (w : CmdWords)
  /-- MM_ARM (R269): Arms the matrix engine to run a list of entries. -/
  | mmArm (w : CmdWords)
  /-- ARM_ENTRY_START (R269): The engine starts the next acting arm entry, or completes an entry whose mask bit is false. -/
  | armEntryStart (cmd : Nat)
  /-- MM_ACC_ZERO (R270): Zeroes a region of a bank. -/
  | mmAccZero (w : CmdWords)
  /-- MM_ACC_LOAD (R270): Loads a region of a bank from memory. -/
  | mmAccLoad (w : CmdWords)
  /-- MM_ACC_STORE (R270): Stores a region of a bank to memory, optionally converted. -/
  | mmAccStore (w : CmdWords)
  /-- MM_OUT (R271): Streams a bank region into a FEED port as segmented rows. -/
  | mmOut (w : CmdWords)
  /-- KSTEP_COMPLETE (R263): A k-step's products are added to the bank and KDONE advances. -/
  | kstepComplete (cmd : Nat)
  /-- GATHER (R278): Deduplicating gather of table rows by window. -/
  | gather (w : CmdWords)
  /-- SCATTER_ADD (R279): Scatter that combines colliding rows by addition. -/
  | scatterAdd (w : CmdWords)
  /-- SCATTER_MIN (R279): Scatter that combines colliding rows by minimum. -/
  | scatterMin (w : CmdWords)
  /-- SCATTER_MAX (R279): Scatter that combines colliding rows by maximum. -/
  | scatterMax (w : CmdWords)
  /-- SCATTER_FIRST (R279): Scatter that keeps the first colliding row. -/
  | scatterFirst (w : CmdWords)
  /-- SCATTER_LAST (R279): Scatter that keeps the last colliding row. -/
  | scatterLast (w : CmdWords)
  /-- INDEX_GROUP_COMPLETE (R275): The index engine finishes one window or vector and takes the next group by priority. -/
  | indexGroupComplete (cmd : Nat)
  /-- INTERSECT (R282): Intersects two sorted index lists and writes the matches and a count. -/
  | intersect (w : CmdWords)
  /-- IX_COUNT (R283): Writes a histogram, prefix offsets and ranks of small keys. -/
  | ixCount (w : CmdWords)
  /-- SEL_TOPK (R290): Select units write the top-k indices and weights of each row. -/
  | selTopk (w : CmdWords)
  /-- SEL_COLK (R290): Select units write the top-k indices and weights of each column. -/
  | selColk (w : CmdWords)
  /-- AUC (R296): Runs a capacity-limited auction and writes assignments, prices and a presence-filled status word. -/
  | auc (w : CmdWords)
  /-- AUCTION_ROUND (R294): One round of bids, merges and price updates. -/
  | auctionRound (cmd : Nat)
  /-- AUC_PRICE (R297): Evaluates one bid round and writes bid records. -/
  | aucPrice (w : CmdWords)
  /-- DPOST (R306): Posts this device's demand row to the arbiter and waits for its grants. -/
  | dpost (w : CmdWords)
  /-- XSEND (R310): Sends send-list rows to final slot addresses within granted phases. -/
  | xsend (w : CmdWords)
  /-- XWAIT (R313): Completes the round once phases, sends and receives finish, and writes the round record. -/
  | xwait (w : CmdWords)
  /-- PLACE (R326): Divides cores among experts, writes the region table and caches the records. -/
  | place (w : CmdWords)
  /-- GLAUNCH (R224): Makes a launch request for a graph image. -/
  | glaunch (w : CmdWords)
  /-- NODE_SIG (R225): Decrements a named node's dependence counter. -/
  | nodeSig (w : CmdWords)
  /-- TRACE_MARK (R226): Writes a MARK trace record when it starts. -/
  | traceMark (w : CmdWords)
  /-- COMMAND_START (R197): A stream command starts once its tags, queue order, batch, hurdle and own conditions hold. -/
  | commandStart (cmd : Nat)
  /-- COMMAND_COMPLETE (R197): A command completes, marks its done-tag producer complete and lowers its counters. -/
  | commandComplete (cmd : Nat)
  /-- ELEM_ADD (R232): Integer add firing. -/
  | elemAdd (core site : Nat)
  /-- ELEM_SUB (R232): Integer subtract firing. -/
  | elemSub (core site : Nat)
  /-- ELEM_MUL (R232): Integer multiply firing, early-firing on a zero when E is set. -/
  | elemMul (core site : Nat)
  /-- ELEM_MAC (R232): Multiply-accumulate firing, integer or float. -/
  | elemMac (core site : Nat)
  /-- ELEM_MIN (R232): Integer minimum firing. -/
  | elemMin (core site : Nat)
  /-- ELEM_MAX (R232): Integer maximum firing. -/
  | elemMax (core site : Nat)
  /-- ELEM_ABS (R232): Integer absolute value firing. -/
  | elemAbs (core site : Nat)
  /-- ELEM_NEG (R232): Integer negation firing. -/
  | elemNeg (core site : Nat)
  /-- ELEM_AND (R232): Bitwise AND firing. -/
  | elemAnd (core site : Nat)
  /-- ELEM_OR (R232): Bitwise OR firing. -/
  | elemOr (core site : Nat)
  /-- ELEM_XOR (R232): Bitwise XOR firing. -/
  | elemXor (core site : Nat)
  /-- ELEM_NOT (R232): Bitwise NOT firing. -/
  | elemNot (core site : Nat)
  /-- ELEM_SHL (R232): Left shift firing. -/
  | elemShl (core site : Nat)
  /-- ELEM_SHR (R232): Logical right shift firing. -/
  | elemShr (core site : Nat)
  /-- ELEM_SAR (R232): Arithmetic right shift firing. -/
  | elemSar (core site : Nat)
  /-- ELEM_CMP_EQ (R232): Integer equality compare firing. -/
  | elemCmpEq (core site : Nat)
  /-- ELEM_CMP_NE (R232): Integer inequality compare firing. -/
  | elemCmpNe (core site : Nat)
  /-- ELEM_CMP_LT (R232): Integer less-than compare firing. -/
  | elemCmpLt (core site : Nat)
  /-- ELEM_CMP_LE (R232): Integer less-or-equal compare firing. -/
  | elemCmpLe (core site : Nat)
  /-- ELEM_CMP_LTU (R232): Unsigned less-than compare firing. -/
  | elemCmpLtu (core site : Nat)
  /-- ELEM_CMP_LEU (R232): Unsigned less-or-equal compare firing. -/
  | elemCmpLeu (core site : Nat)
  /-- ELEM_SEL (R233): Three-input select firing. -/
  | elemSel (core site : Nat)
  /-- ELEM_DOT4 (R233): Four-lane 8-bit dot product with accumulator firing. -/
  | elemDot4 (core site : Nat)
  /-- ELEM_DOT2 (R233): Two-lane 16-bit dot product with accumulator firing. -/
  | elemDot2 (core site : Nat)
  /-- ELEM_SATADD (R232): Saturating add firing. -/
  | elemSatadd (core site : Nat)
  /-- ELEM_SATSUB (R232): Saturating subtract firing. -/
  | elemSatsub (core site : Nat)
  /-- ELEM_CLZ (R232): Leading-zero count firing. -/
  | elemClz (core site : Nat)
  /-- ELEM_POPC (R232): Population count firing. -/
  | elemPopc (core site : Nat)
  /-- FADD (R234): Floating add firing, rounded once. -/
  | fadd (core site : Nat)
  /-- FSUB (R234): Floating subtract firing. -/
  | fsub (core site : Nat)
  /-- FMUL (R234): Floating multiply firing. -/
  | fmul (core site : Nat)
  /-- FMA (R234): Fused multiply-add firing. -/
  | fma (core site : Nat)
  /-- FMIN (R234): Floating minimum firing. -/
  | fmin (core site : Nat)
  /-- FMAX (R234): Floating maximum firing. -/
  | fmax (core site : Nat)
  /-- FABS (R234): Floating absolute value firing. -/
  | fabs (core site : Nat)
  /-- FNEG (R234): Floating negation firing. -/
  | fneg (core site : Nat)
  /-- FRCP (R234): Reciprocal firing. -/
  | frcp (core site : Nat)
  /-- FRSQ (R234): Reciprocal square root firing. -/
  | frsq (core site : Nat)
  /-- FEXP2 (R234): Base-2 exponential firing. -/
  | fexp2 (core site : Nat)
  /-- FLOG2 (R234): Base-2 logarithm firing. -/
  | flog2 (core site : Nat)
  /-- FCMP_EQ (R234): Floating equality compare firing. -/
  | fcmpEq (core site : Nat)
  /-- FCMP_NE (R234): Floating inequality compare firing. -/
  | fcmpNe (core site : Nat)
  /-- FCMP_LT (R234): Floating less-than compare firing. -/
  | fcmpLt (core site : Nat)
  /-- FCMP_LE (R234): Floating less-or-equal compare firing. -/
  | fcmpLe (core site : Nat)
  /-- CVT (R235): Format conversion firing. -/
  | cvt (core site : Nat)
  /-- QNT (R236): Block quantisation of FP32 tokens into MX or QC4 codes. -/
  | qnt (core site : Nat)
  /-- DQN (R237): Dequantisation of a code and scale token to FP32. -/
  | dqn (core site : Nat)
  /-- RSUM (R238): Segment sum reduction firing. -/
  | rsum (core site : Nat)
  /-- RMAX (R238): Segment maximum reduction firing. -/
  | rmax (core site : Nat)
  /-- RMIN (R238): Segment minimum reduction firing. -/
  | rmin (core site : Nat)
  /-- RARG (R238): Segment arg-max or arg-min reduction firing. -/
  | rarg (core site : Nat)
  /-- RCNT (R238): Segment count reduction firing. -/
  | rcnt (core site : Nat)
  /-- EMUX (R240): Multiplexer join, early-firing with anti-tokens when E is set. -/
  | emux (core site : Nat)
  /-- EAND (R240): Logical AND join, early on a zero. -/
  | eand (core site : Nat)
  /-- EOR (R240): Logical OR join, early on a nonzero. -/
  | eor (core site : Nat)
  /-- LDA (R243): Memory-port load firing. -/
  | lda (core site : Nat)
  /-- STA (R243): Memory-port store firing that emits a completion token. -/
  | sta (core site : Nat)
  /-- AMOA (R243): Memory-port atomic firing. -/
  | amoa (core site : Nat)
  /-- PLDA (R243): Memory-port presence load firing. -/
  | plda (core site : Nat)
  /-- PSTA (R243): Memory-port presence store firing. -/
  | psta (core site : Nat)
  /-- SEGN (R245): Recounts a level-0 segment after DROP-mode predication. -/
  | segn (core site : Nat)
  /-- SMARK (R246): Cuts an unsegmented stream into level-0 segments. -/
  | smark (core site : Nat)
  /-- SCONV (R247): Converts a stream between native and compatible segment modes. -/
  | sconv (core site : Nat)
  /-- LPIN (R248): Passes a token into the paced loop. -/
  | lpin (core site : Nat)
  /-- LPOUT (R248): Passes a loop result out, annihilating it against held anti-tokens. -/
  | lpout (core site : Nat)
  /-- STEER (R239): Router operator that sends d to output T or F by the predicate. -/
  | steer (core site : Nat)
  /-- MERGE (R239): Router operator that takes tokens from two inputs, alternating when both hold one. -/
  | merge (core site : Nat)
  /-- CARRY (R239): Router operator that emits an initial value, then the back-edge tokens. -/
  | carry (core site : Nat)
  /-- INVAR (R239): Router operator that repeats a held value for each pacing token. -/
  | invar (core site : Nat)
  /-- DROP (R239): Router operator that discards data tokens. -/
  | drop (core site : Nat)
  /-- LUTN (R249): Firing of a LUT island in combinational decoder mode. -/
  | lutn (core island : Nat)
  /-- MATCH (R249): Firing of a LUT island in pattern-match mode, updating its state bits. -/
  | matchFire (core island : Nat)
  /-- PACER_ADMIT (R51): The Pacer admits an iteration when every LPIN holds a token and a baton is free. -/
  | pacerAdmit (core : Nat)
  /-- ITERATION_COMPLETE (R52): Every LPOUT has passed the iteration's token; ICTR rises and the baton starts back. -/
  | iterationComplete (core : Nat)
  /-- BATON_RETURN (R52): A returning baton reaches the LPINs and becomes available, or is retired. -/
  | batonReturn (core : Nat)
  /-- ANTI_TOKEN_ARRIVAL (R59): An anti-token reaches an element output, fork or port and is held, cancels a firing or is forwarded. -/
  | antiTokenArrival (core dst : Nat)
  /-- IN_PORT_SEND (R209): An IN port sends the next token of its pattern into the fabric. -/
  | inPortSend (core port : Nat)
  /-- OUT_PORT_WRITE (R209): An OUT port takes a token and writes it at its pattern position. -/
  | outPortWrite (core port : Nat)
  /-- FABRIC_QUIESCENT (R383): After 4,096 clk with no activity, surplus tokens and short streams are discarded, with a reported fault unless DISC. -/
  | fabricQuiescent (core : Nat)
  /-- NODE_DISPATCH (R324): The graph engine puts the best-ranked READY or SAVED runner node onto idle cores. -/
  | nodeDispatch (die : Nat)
  /-- NODE_COMPLETE (R22): A node completes, writes back windows, releases, and decrements its successors. -/
  | nodeComplete (die entry : Nat)
  /-- DECREMENT_MESSAGE (R322): A decrement reaches a node entry; at zero the node becomes READY. -/
  | decrementMessage (src dst : Nat)
  /-- ERROR_TOKEN (R370): An error token reaches a node and cancels it. -/
  | errorToken (src dst : Nat)
  /-- LAUNCH_REQUEST (R321): A launch request reaches the home die and decrements the launch entry's count. -/
  | launchRequest (die : Nat)
  /-- GRAPH_LAUNCH (R321): Once entries are free, the graph's nodes are reserved, handles written and nodes made READY or WAIT. -/
  | graphLaunch (die : Nat)
  /-- AUTO_PREEMPT (R328): A node held at priority 3 for 2^A ticks without cores makes the engine pre-empt a victim. -/
  | autoPreempt (die entry : Nat)
  /-- PREEMPT_SAVE (R328): Once members reach safe points and commands reach restart points, windows are written back and save images written. -/
  | preemptSave (die entry : Nat)
  /-- PREEMPT_TIMEOUT (R398): A pre-emption not saved within 2^24 ticks cancels the context's graphs. -/
  | preemptTimeout (ctx : Nat)
  /-- DEMAND_ROW_ARRIVAL (R307): A demand row reaches the arbiter; with the last row it computes and sends the calendar. -/
  | demandRowArrival (row : DemandRow)
  /-- GRANT_SEQUENCE_ARRIVAL (R308): A member receives its grants for the round, completing DPOST. -/
  | grantSequenceArrival (ctx gid : Nat) (cal : Calendar)
  /-- PHASE_START (R309): A calendar phase begins at its start tick and sends go to its grant's destination. -/
  | phaseStart (ctx gid : Nat)
  /-- HEARTBEAT (R394): The active arbiter sends a heartbeat at each phase start or every 2^20 ticks. -/
  | heartbeat (ctx gid : Nat)
  /-- DISPATCH_PACKET_RECEIVE (R312): A receiver translates, writes and acknowledges a dispatch packet. -/
  | dispatchPacketReceive (p : Packet)
  /-- PACKET_ACK_RECEIVE (R310): A sender receives the UET acknowledgement of a dispatch packet. -/
  | packetAckReceive (cmd count : Nat)
  /-- ROUND_END (R312): At the end of its last phase a sender sends end-of-round markers with its byte counts. -/
  | roundEnd (ctx gid : Nat)
  /-- END_OF_ROUND_MARKER (R312): A receiver takes an end-of-round marker toward closing the round. -/
  | endOfRoundMarker (ctx gid member bytes : Nat)
  /-- ROUND_ABANDON (R391): Mismatched rows, or a row missing for 2^30 ticks, make the arbiter send abandon notices. -/
  | roundAbandon (ctx gid round : Nat)
  /-- ABANDON_NOTICE (R391): A member's DPOST faults with subcode 0x13 on an abandon notice. -/
  | abandonNotice (ctx gid : Nat)
  /-- PEER_LOST (R393): A marker missing 2^30 ticks after the last phase faults XWAIT. -/
  | peerLost (ctx gid : Nat)
  /-- ARBITER_TAKEOVER (R394): After three missed heartbeats the standby takes over at the next round boundary. -/
  | arbiterTakeover (ctx gid : Nat)
  /-- TAKEOVER_NOTICE (R394): A member receives a takeover notice and resends pending demand rows. -/
  | takeoverNotice (ctx gid old new : Nat)
  /-- TKOFF_PROBE (R303): Once per second the firmware exchanges probes with the arbiter and sets TKOFF. -/
  | tkoffProbe (remote roundTrip : Word)
  /-- ECONS_WRITE (R367): The host advances ECONS; consumed notices lift the freeze and paused agents resume. -/
  | econsWrite (ctx : Nat) (value : BitVec 32)
  /-- WINDOW_REGISTER_WRITE (R351): A host write to a command-window field with no behaviour of its own. -/
  | windowRegisterWrite (ctx off : Nat) (bytes : List Byte)
  /-- HOST_MEM_READ (R350): A CXL.mem read of device memory by the host. -/
  | hostMemRead (hpa len : Nat)
  /-- HOST_MEM_WRITE (R350): A CXL.mem write to device memory by the host. -/
  | hostMemWrite (hpa : Nat) (bytes : List Byte)
  /-- IDENT (R354): Returns the device identifier, firmware version and capacities. -/
  | ident (win : Nat) (seq : BitVec 32)
  /-- QUERY (R355): Reads a parameter or monitor. -/
  | query (win : Nat) (seq : BitVec 32)
  /-- QUERY_SET_TKOFF (R355): Sets TKOFF. -/
  | querySetTkoff (win : Nat) (seq : BitVec 32)
  /-- QUERY_SET_AGEING (R355): Sets the context's ageing exponent. -/
  | querySetAgeing (win : Nat) (seq : BitVec 32)
  /-- QUERY_SET_SAVE_AREA (R355): Sets the base of the context's save area. -/
  | querySetSaveArea (win : Nat) (seq : BitVec 32)
  /-- QUERY_SET_PREEMPT (R355): Requests pre-emption of the context's running runner nodes. -/
  | querySetPreempt (win : Nat) (seq : BitVec 32)
  /-- QUERY_SET_DEVICE_ID (R355): Sets the module's device identifier. -/
  | querySetDeviceId (win : Nat) (seq : BitVec 32)
  /-- MAP (R354): Maps pages with an attribute word, following R140 over existing mappings. -/
  | map (win : Nat) (seq : BitVec 32)
  /-- UNMAP (R354): Removes mappings by the R140 sequence. -/
  | unmap (win : Nat) (seq : BitVec 32)
  /-- INVAL (R354): Removes translations and window copies but keeps the mapping. -/
  | inval (win : Nat) (seq : BitVec 32)
  /-- PIN (R354): Sets the PIN attribute. -/
  | pin (win : Nat) (seq : BitVec 32)
  /-- UNPIN (R354): Clears the PIN attribute as a mapping change. -/
  | unpin (win : Nat) (seq : BitVec 32)
  /-- LOADGRAPH (R357): Maps, fills and measures a .zi image's sections. -/
  | loadgraph (win : Nat) (seq : BitVec 32) (frames : List Nat)
  /-- LAUNCH (R354): Makes a launch request for a graph image. -/
  | launch (win : Nat) (seq : BitVec 32)
  /-- CANCEL (R371): Sends error tokens into every launched graph of an image. -/
  | cancel (win : Nat) (seq : BitVec 32)
  /-- SNAPSHOT (R412): Holds dispatch, copies the ranges into OWN and sends the shard to the partner. -/
  | snapshot (win : Nat) (seq : BitVec 32)
  /-- PARTNER_SHARD_RECEIVE (R412): A partner writes a received shard into its free slot, then updates PSEQ. -/
  | partnerShardReceive (ctx : Nat) (area : Word) (seq : Word) (shard : List Byte)
  /-- RESTORE (R413): Reads a shard from OWN or from a partner and writes its ranges. -/
  | restore (win : Nat) (seq : BitVec 32) (remote : RemoteShard)
  /-- RESET_CONTEXT (R371): Cancels the context's graphs and frees its mappings and hurdles. -/
  | resetContext (win : Nat) (seq : BitVec 32)
  /-- RESET_MODULE (R360): Resets the whole module. -/
  | resetModule (win : Nat) (seq : BitVec 32)
  /-- ATTEST (R361): Writes a signed attestation report over the measurements. -/
  | attest (win : Nat) (seq : BitVec 32)
  /-- STOPAT (R421): Arms a stop at a GTC tick. -/
  | stopat (win : Nat) (seq : BitVec 32)
  /-- STOP_TICK (R421): At the armed tick the module stops and scan chains are shifted out. -/
  | stopTick
  /-- POWER_ON (R360): The management core boots the ROM firmware, measures, patches and trains. -/
  | powerOn (patch : PatchImage) (certs : Bool)
  /-- HOST_LINK_DOWN (R410): Host link surprise down: host-memory accesses fault and dirty host lines are held. -/
  | hostLinkDown
  /-- HOST_LINK_UP (R410): The host link comes up again, with a reported record. -/
  | hostLinkUp
  /-- MEMORY_PORT_LINK_DOWN (R410): A CXL memory port drops; accesses to its range fault fatally and retraining starts. -/
  | memoryPortLinkDown (port : Nat)
  /-- MEMORY_PORT_LINK_UP (R410): A retrained port returns and held dirty sectors are written back. -/
  | memoryPortLinkUp (port : Nat)
  /-- EXPANDER_LOST (R410): After three failed retrains the range is poisoned and its held sectors discarded. -/
  | expanderLost (port : Nat)
  /-- EXPANDER_POISON (R410): An expander returns poisoned data, handled as a poisoned read. -/
  | expanderPoison (pa : Nat)
  /-- CORRECTED_ERROR (R407): A correctable soft error is corrected and counted. -/
  | correctedError (e : SoftError)
  /-- UNCORRECTABLE_ERROR (R407): An uncorrectable soft error poisons, refetches or cancels as its structure dictates. -/
  | uncorrectableError (e : SoftError)
  /-- CHANNEL_REMAP_DONE (R409): The copy to the spare completes, the channel is remapped and records are reported. -/
  | channelRemapDone (channel : Nat)
  /-- THERMAL_THROTTLE (R362): Above 105 °C or 3,000 W the firmware lowers ACLK. -/
  | thermalThrottle (die : Nat) (temp : Word) (m : DieMonitors)
  /-- THERMAL_SHUTDOWN (R362): At 115 °C the module shuts down. -/
  | thermalShutdown (die : Nat) (temp : Word)
  /-- WALKER_WINDOW (R420): At the end of each 65,536-clk window the walker traces starvation and back-pressure. -/
  | walkerWindow (core : Nat)
  /-- BADCODE (R354): A doorbell write or side-band request with an unknown or refused command code returns BADCODE; a doorbell written while a command is in flight is discarded. -/
  | badcode (win : Nat) (seq : BitVec 32)
  /-- ARBITER_ANSWERS_NOTHING (R391): A DPOST whose arbiter answers nothing for 2^30 ticks faults with subcode 0x13. -/
  | arbiterAnswersNothing (ctx gid : Nat)
  /-- EFFECTIVE_PRIORITY_REACHES_3 (R324): When a waiting runner node ages to effective priority 3, the engine fixes the block of cores it will take, chosen by the idle cores at that tick. -/
  | effectivePriorityReaches3 (die entry : Nat)
  /-- PSEQ_ACKNOWLEDGED (R412): The partner's acknowledgement of the PSEQ write completes SNAPSHOT with RES0 = SEQ and resumes dispatch. -/
  | pseqAcknowledged (ctx : Nat)
  /-- PARTNER_SLOT_READ (R413): A partner device serves a RESTORE's read of its newest complete partner slot over ROD. -/
  | partnerSlotRead (ctx : Nat) (area : Word) (device : BitVec 16)
  /-- TIMESTAMPED_PROBE (R303): The device of the active arbiter answers a member's timestamped probe pair. -/
  | timestampedProbe (member : Nat)
  /-- UET_RETRANSMIT (R404): A sender retransmits a dispatch packet that the receiver did not acknowledge because its receive-hold buffer was full. -/
  | uetRetransmit (p : Packet)
  /-- CXL_CACHE_SNOOP (R101): The host's CXL.cache request on a host line that the device holds in L2 is served coherently. -/
  | cxlCacheSnoop (pa : Nat) (store : Option (List Byte))
deriving DecidableEq, Repr

end Sys2Proof
end

