-- ==== Sys2Proof/Machine/State.lean ====
section
/-! DEFINITION. The state of one Z6400 module as plain data: every piece of state the spec names (INVENTORY.md, State),
the reasons a step can stop, and the machine right after module reset. -/

set_option Elab.async false

namespace Sys2Proof.Machine

/-- Physical memory: (address, byte) pairs in canonical form (R94; log 2). -/
abbrev Memory := List Host.Cell

/-- Reasons a step stops with a fault. The spec reports every fault of a program in the machine itself (a handler entry,
a fault record, a status), so a step stops only where the module no longer runs. -/
inductive Fault where
  /-- Raised by every step while the module is shut down by temperature until it is reset (R362). Safe: the spec gives no
  step of a shut-down module but its reset. -/
  | shutDown
deriving DecidableEq, Repr

/-- Reasons a step is refused. -/
inductive Refusal where
  /-- Raised by an arm of exec whose instruction has no meaning yet. Safe. -/
  | notModelled (mnemonic : String)
deriving DecidableEq, Repr

/-- A page mapping (R95). -/
structure Page where
  va : Nat
  pa : Nat
  /-- log2 of the size: 16, 21 or 27. -/
  bits : Nat
  attr : BitVec 16
deriving DecidableEq, Repr

/-! ## Values in flight -/

/-- A fabric token (R39). -/
structure Token where
  kind : BitVec 5
  data : BitVec 32
deriving DecidableEq, Repr

/-- A place in an output queue: a token, or the result of the PLDA of a deferral (R244). -/
inductive Slot where
  | tok (t : Token)
  | wait (deferral : Nat)
deriving DecidableEq, Repr

/-- What an outstanding scalar access does (R176–R179, R194). -/
inductive AccKind where
  | load (signed : Bool)
  | store
  | amo (op : BitVec 4)
  | pld
  | pst
  | pclr
  | mload
  | mstore
deriving DecidableEq, Repr

/-- A scalar access issued and not yet performed (R28, R177). -/
structure Access where
  id : Nat
  kind : AccKind
  /-- Virtual address, and the physical address of each byte, translated at issue (R403). -/
  va : Nat
  pas : List Nat
  /-- Policy code (R108). -/
  pol : BitVec 2
  /-- Destination register encoding (57 none), or mask index for MLD. -/
  dst : Nat
  /-- Store data, AMO operand. -/
  val : BitVec 256
  /-- Compare value of CAS. -/
  cmp : Word
  /-- Accesses that are performed before this one (release, R125). -/
  waits : List Nat
  /-- PORT.TAKE commands that are complete before this access is performed (acquire, R133). -/
  takes : List Nat
  /-- The pieces still to be performed, as (offset, bytes), and the bytes the performed ones have read (R123). -/
  left : List (Nat × Nat)
  got : BitVec 256
  /-- A store not yet performed at its home that a release at CORE scope has published to the core's own agents (R125). -/
  shown : Bool
  /-- Counted in LDC, in STC (R28). -/
  inLdc : Bool
  inStc : Bool
  /-- The PLD stands in a deferral table (R112), or was refused one (R117). -/
  deferred : Bool
  refused : Bool
  /-- SOFF of the instruction and its major opcode, for fault records. -/
  soff : BitVec 32
  opc : BitVec 8
deriving DecidableEq, Repr

/-! ## Commands in flight -/

/-- Whose command it is: a runner's or an engine node's. -/
inductive Owner where
  | core (n : Nat)
  | node (die entry : Nat)
deriving DecidableEq, Repr

/-- Where a command stands (R197, R368). -/
inductive CmdState where
  | issued
  | started
  | paused
deriving DecidableEq, Repr

/-- A row of an auction (R294). -/
inductive RowState where
  | unassigned
  | residual
  | held (col : Nat) (bid : Nat)
deriving DecidableEq, Repr

/-- What a started AUC keeps (R293, R299): scores by row, capacities, prices, as FP32 encodings. -/
structure Auction where
  scores : List (List Nat) := []
  caps : List Nat := []
  prices : List Nat := []
  rows : List RowState := []
  round : Nat := 0
  eps : Nat := 0
  res : Nat := 0
  limit : Nat := 0
deriving DecidableEq, Repr

/-- An issued command that has not completed (R24, R157, R197). -/
structure Cmd where
  id : Nat
  owner : Owner
  ctx : Nat
  pc : Word
  soff : BitVec 32
  opc : BitVec 8
  var : BitVec 4
  mode : BitVec 2
  hint : BitVec 2
  prio : Nat
  a : Word
  b : Word
  c : Word
  d : Word
  e : Word
  /-- The a field itself, the destination of PORT.TAKE. -/
  areg : Reg
  w3 : BitVec 32
  /-- Commands its wait-tags are bound to (R24), and with AFTER the previous one of its queues (R139, R197). -/
  waits : List Nat
  tag : Option (BitVec 6)
  /-- Scalar accesses before its issue, which is a release (R132). -/
  accs : List Nat
  batch : Option Nat
  state : CmdState
  /-- Tick at which its start conditions first held, for ageing (R264, R275). -/
  tWait : Option Word
  /-- Accesses, rows, requests or entries done: the progress of R262, R284, R403. -/
  done : Nat
  sub : Nat
  /-- Values read at start or met in the run. -/
  x0 : Nat
  x1 : Nat
  list : List Nat
  auction : Auction
  /-- MM.ARM's copy of its mask (R269). -/
  mask : BitVec 256
  /-- The arm whose entry this is (R269). -/
  arm : Option Nat
  /-- Mappings the command has translated through; it keeps using them (R140). -/
  tlb : List Page := []
  /-- Bytes a copy has read and not yet written, by destination address; of a COPY.MC by offset (R139, R216). -/
  buf : SMap Byte := []
  /-- Bytes a copy has written of poisoned sectors that it writes in full, by destination address (R408). -/
  covered : SMap Bool := []
  /-- Bytes a ring's chunk has written of a word that the next chunk shares, and the words of them that another command has
  written since (R139). -/
  half : SMap Byte := []
  torn : List Nat := []
  /-- Tick at which a copy started or was last served (R218). -/
  tServed : Word := 0
deriving DecidableEq, Repr

/-! ## Ports, windows, fabric -/

/-- A port descriptor as read (R208). -/
structure PortDesc where
  base : Word := 0
  cnt : List Nat := [1, 1, 1, 1]
  str : List Int := [0, 0, 0, 0]
  wbase : Word := 0
  wlen : BitVec 16 := 0
deriving DecidableEq, Repr

/-- A fabric memory port (R207–R212). -/
structure Port where
  /-- W0 and W3 of the binding image. -/
  w0 : BitVec 32 := 0
  w3 : BitVec 32 := 0
  desc : PortDesc := {}
  /-- Indices i0–i3 of the address generator (R209). -/
  idx : List Nat := [0, 0, 0, 0]
  /-- Control tokens already exchanged at this position. -/
  ctl : Nat := 0
  /-- The element of this position has been exchanged; its markers follow (compatible mode). -/
  past : Bool := false
  /-- The stream has ended. -/
  ended : Bool := true
  /-- FIFO of a FEED or TAKE port, edge register of an IN or OUT port. -/
  fifo : List Token := []
  /-- Anti-tokens held at an input port (R59, R60). -/
  held : Nat := 0
  /-- PORT.BIND command that completes when the stream ends (R210). -/
  bindCmd : Option Nat := none
  /-- PORT.FEED and MM.OUT commands whose tokens stand in the FIFO, with how many are still to enter (R211, R271). -/
  feeds : List (Nat × Nat) := []
  /-- CRC-32C register over the tokens taken, started at 0, and their number (R423). -/
  crc : BitVec 32 := 0
  taken : Nat := 0
  /-- Visits of a COPY.DEM ring ended so far, and the COPY.DEM that started on the stream last (R215, R379). -/
  visits : Nat := 0
  dem : Option Cmd := none
deriving DecidableEq, Repr

/-- A sector held by a bank (R98, R103). -/
structure Sector where
  /-- The physical sector it was filled from, PA / 128. -/
  home : Nat := 0
  dirty : Bool := false
  data : BitVec 1024 := 0
  /-- An uncorrectable error has hit it while dirty (R407). -/
  poisoned : Bool := false
deriving DecidableEq, Repr

/-- A fabric cache bank: its window and the sectors it holds, by virtual sector number (R102, R103). -/
structure Bank where
  base : Nat := 0
  /-- Window length in bytes, 0 when unbound. -/
  len : Nat := 0
  sectors : SMap Sector := []
deriving DecidableEq, Repr

/-- State of an element or control operator between firings (R45, R236, R238, R245–R249). -/
structure ElemState where
  busy : Bool := false
  n : Nat := 0
  k : Nat := 0
  val : BitVec 32 := 0
  buf : List Token := []
  /-- Tokens of its open segment that a reduction, or a SEGN at its predicate input, has taken (R55). -/
  taken : Nat := 0
  /-- Control tokens passed whose match at the predicate input is still to come (R50). -/
  owed : List Token := []
  /-- MERGE decisions gathered for the log, and their bits (R422); decisions replayed of the current record (R424). -/
  logged : Nat := 0
  logBits : Nat := 0
  replay : Nat := 0
deriving DecidableEq, Repr

/-- Configuration and contents of one fabric (R39–R66, R160–R163). Registers are numbered by `Chan` codes. -/
structure Fabric where
  elems : SMap (BitVec 64) := []
  routes : SMap (BitVec 64) := []
  islands : SMap (BitVec 64) := []
  cells : SMap (BitVec 64) := []
  imgId : BitVec 32 := 0
  /-- Contents of each register, pipeline or output queue, oldest first. -/
  q : SMap (List Slot) := []
  /-- Branches that have taken or cancelled the head of a queue (R41, R61). -/
  took : SMap (List Nat) := []
  /-- Anti-tokens in the reverse slot of each destination (R57). -/
  rev : SMap Nat := []
  /-- Anti-token counter of each element or operator output (R59, R60). -/
  held : SMap Nat := []
  /-- Cancellations recorded for each fork branch (R60, R61). -/
  cancel : SMap Nat := []
  /-- Segment counters of each input, levels 0–3 (R46). -/
  seg : SMap (List Nat) := []
  est : SMap ElemState := []
  /-- State bits of island cells, key 64·island + cell (R65). -/
  bits : SMap Bool := []
deriving DecidableEq, Repr

/-- The Pacer (R51–R53). -/
structure Pacer where
  k : Nat := 0
  flight : Nat := 0
  whold : Bool := false
  /-- HELD of LPOUT 0–3. -/
  held : SMap Nat := []
  /-- Batons travelling back. -/
  returning : Nat := 0
  admitted : Nat := 0
  completed : Nat := 0
  /-- Data tokens each LPOUT has passed. -/
  passed : SMap Nat := []
deriving DecidableEq, Repr

/-- The matrix engine (R253, R262, R263). -/
structure Matrix where
  /-- Bank words, key 65536·bank + 256·row + column. -/
  acc : SMap (BitVec 32) := []
  /-- 48-bit working registers, same keys. -/
  work : SMap (BitVec 48) := []
  /-- Bank words whose parity is wrong (R407), same keys. -/
  bad : SMap Bool := []
  /-- RLX of each bank; KDONE, ENTRY, DONE and VALID of the progress words stand in the commands (R262). -/
  rlx0 : Bool := false
  rlx1 : Bool := false
deriving DecidableEq, Repr

/-- One output's channel counts (R419). -/
structure ChanCount where
  move : BitVec 32 := 0
  full : BitVec 32 := 0
  empty : BitVec 32 := 0
deriving DecidableEq, Repr

/-! ## Runners -/

/-- What a core does (R22, R183, R368, R369). -/
inductive RunState where
  | idle
  | running
  | halted
  /-- Paused on a recoverable fault at the instruction SOFF names (R368). -/
  | paused
deriving DecidableEq, Repr

/-- Header fields and live masks of the installed record, read once (R20, R145). -/
structure Record where
  strmOff : Nat := 0
  strmLen : Nat := 0
  pace : Nat := 0
  entryMask : Word := 0
  masks : List Word := []
deriving DecidableEq, Repr

/-- A binding-table entry, checked: port, W3 and descriptor. -/
structure BindEntry where
  port : Nat
  w3 : BitVec 32
  desc : PortDesc
deriving DecidableEq, Repr

/-- A record as it will be installed. -/
structure Loaded where
  hdr : Record
  binds : List BindEntry
  imgId : BitVec 32
  elems : SMap (BitVec 64)
  routes : SMap (BitVec 64)
  islands : SMap (BitVec 64)
  cells : SMap (BitVec 64)
deriving DecidableEq, Repr

/-- A runner's own memory of a die-level hurdle (R222). -/
structure HurdleSeen where
  generation : Nat := 0
  arrived : Bool := false
deriving DecidableEq, Repr

/-- One core: control core, fabric, matrix engine, and the runner it carries (R10, R19). -/
structure Core where
  run : RunState := .idle
  ctx : Nat := 0
  /-- NODE: die and entry of the dependence table (R192). -/
  nodeDie : Nat := 0
  nodeEntry : Nat := 0
  /-- GANG fields (R23). -/
  gangBase : Nat := 0
  sizeM1 : Nat := 0
  rank : Nat := 0
  /-- Device core numbers of the gang, in rank order. -/
  gang : List Nat := []
  fused : Bool := false
  /-- Registers by encoding 0–56 (R146). -/
  regs : SMap Word := []
  preds : BitVec 16 := 0
  masks : SMap (BitVec 256) := []
  pc : Word := 0
  soff : BitVec 32 := 0
  ictr : Word := 0
  epc : BitVec 32 := 0
  hm : Bool := false
  cls : BitVec 8 := 0
  code : BitVec 16 := 0
  flags : Flags := 0
  lflags : Flags := 0
  ldc : BitVec 6 := 0
  stc : BitVec 6 := 0
  cpc : BitVec 6 := 0
  tlc : BitVec 6 := 0
  btc : BitVec 6 := 0
  /-- Commands of the open batch, its number, and the closed batches not complete (R29). -/
  openBatch : List Nat := []
  batchNo : Nat := 0
  accs : List Access := []
  nextAcc : Nat := 0
  /-- Accesses that hold every later access (acquire, R125), every later access and issue (.acq and .full fences), and
  every later store and issue (.rel fences) (R128). -/
  holdAcc : List Nat := []
  holdAll : List Nat := []
  holdStore : List Nat := []
  /-- PORT.TAKE commands not complete, each an acquire that holds the later scalar accesses (R133; that it holds the start of no
later command is the model's, log 93). -/
  holdTake : List Nat := []
  /-- The 16-byte group fetched last: its number in the stream, and its bytes (R145). -/
  group : Option (Nat × List Byte) := none
  /-- Copies in the order of their latest service, the latest first (R218). -/
  served : List Nat := []
  record : Record := {}
  handler : Word := 0
  hlen : Nat := 0
  /-- A HURDLE with HOLD holds the control core (R221). -/
  heldBy : Option Nat := none
  /-- A CFG.LOAD or CFG.RECONF has been issued (R203). -/
  cfgBy : Option Nat := none
  /-- A DRAIN or WAIT is in progress at this SOFF; kept by SOFF itself. GANG arrivals made (R220). -/
  gangArrivals : Nat := 0
  seen : SMap HurdleSeen := []
  mcIssued : Nat := 0
  /-- Latest command issued to each queue (R197). -/
  lastOf : SMap Nat := []
  pacer : Pacer := {}
  ports : SMap Port := []
  banks : SMap Bank := []
  fab : Fabric := {}
  mx : Matrix := {}
  /-- The fabric is quiescent and its surplus gone (R383). -/
  drained : Bool := false
  /-- Tick of the latest act of the fabric or of an access of the core: R383 counts 4,096 clk from it. -/
  moved : Word := 0
  chan : SMap ChanCount := []
  chanWin : SMap ChanCount := []
  /-- Router outputs whose register a token has left since the latest clk (R419), and the clks of the walker's window (R420). -/
  departed : List Nat := []
  winClk : Nat := 0
  sample : SMap (Word × Nat) := []
  loadNo : Nat := 0
  /-- Clks of the fabric load. -/
  clk : Nat := 0
  /-- A pre-emption of this runner is pending; it stops at its next safe point (R189). -/
  preempt : Bool := false
  /-- Stopped at a safe point, with the live mask in force there (R32). -/
  stopMask : Option Word := none
  /-- Registers that loads have written since the core stopped, saved whatever the mask says (R189). -/
  late : Word := 0
  /-- PLDAs to be issued again after a pre-emption, as (site, number of the place held, address) (R117, R118). -/
  again : List (Nat × Nat × Nat) := []
  /-- At record entry: nothing has issued since the record was installed (R30, R32). -/
  entry : Bool := false
  /-- Ports and elements paused on a recoverable fault, as channel codes (R368). -/
  pausedPorts : List Nat := []
deriving DecidableEq, Repr

/-! ## Graph engine -/

/-- STATE of a node entry (R320, R395). -/
inductive NodeSt where
  | wait | ready | run | saved | done | cancelled
deriving DecidableEq, Repr

/-- The header of a graph image (R318). -/
structure GraphHdr where
  nnodes : Nat := 0
  join : Nat := 0
  home : Nat := 0
  nodeOff : Nat := 0
  hlen : Nat := 0
  handler : Nat := 0
  status : Nat := 0
  htab : Nat := 0
  next : List Nat := []
deriving DecidableEq, Repr

/-- A node record of a graph image (R319). -/
structure NodeRec where
  kind : Nat := 0
  die : Nat := 0
  cls : Nat := 0
  gsize : Nat := 0
  fuse : Bool := false
  placed : Bool := false
  region : Nat := 0
  npred : Nat := 0
  succ : List Nat := []
  record : Nat := 0
  narg : Word := 0
  /-- The 64-byte engine commands. -/
  cmds : List (List Byte) := []
deriving DecidableEq, Repr

/-- A launch entry (R321, R325). -/
structure LaunchEntry where
  ctx : Nat
  image : Nat
  count : Nat
  arg : Word
  /-- GLAUNCH commands that launched it. -/
  gdone : List Nat
  launched : Bool
  /-- Order in which its count reached 0. -/
  order : Nat
  hdr : GraphHdr
  /-- The node records, read when the count reached 0 (R396). -/
  recs : List NodeRec
  /-- Node entries as (die, entry), in node order. -/
  nodes : List (Nat × Nat)
  /-- Handles already written (R321). -/
  handles : Nat
  /-- STATE of the status word so far (R395). -/
  state : Nat
  flags : Flags
  /-- The launch is paused on a recoverable fault (R403). -/
  paused : Bool
deriving DecidableEq, Repr

/-- A node entry (R320) with what the engine keeps for it. -/
structure NodeEntry where
  st : NodeSt
  ctx : Nat
  count : Nat
  /-- Home die and launch entry. -/
  home : Nat
  launch : Nat
  nix : Nat
  nr : NodeRec
  tReady : Word
  /-- Cores it runs on, rank order; save slots it holds; cores fixed for it (R324, R329). -/
  cores : List Nat
  slots : List Nat
  fixed : List Nat
  /-- Cores of its latest dispatch (R324). -/
  ran : List Nat
  /-- Tick of a pending pre-emption request (R328). -/
  preemptAt : Option Word
  dispatched : Word
  /-- A dispatch met a translation fault; ranked again once the freeze lifts (R323). -/
  held : Bool
  /-- Engine commands already entered (R319). -/
  cmdsDone : Nat
deriving DecidableEq, Repr

/-- An entry of a dependence table (R320). -/
inductive DepEntry where
  | free
  | launch (l : LaunchEntry)
  | node (n : NodeEntry)
deriving DecidableEq, Repr

/-- A message between graph engines: a decrement or an error token (R322, R370). -/
structure GraphMsg where
  src : Nat
  dst : Nat
  entry : Nat
  amount : Nat
  err : Bool
  /-- STATE the cancellation carries (R395). -/
  cause : Nat
deriving DecidableEq, Repr

/-- A launch request on its way to the home die (R321), with the JOIN of the header read; one held for a freeze names the
issuing die in `home`. -/
structure LaunchReq where
  home : Nat
  join : Nat
  ctx : Nat
  image : Nat
  arg : Word
  gdone : Option Nat
  /-- The window whose LAUNCH made it, which completes as the home die accepts it (R354). -/
  win : Option Nat := none
deriving DecidableEq, Repr

/-- A compute die. -/
structure Die where
  deps : SMap DepEntry := []
  launchOrder : Nat := 0
deriving DecidableEq, Repr

/-! ## Context -/

/-- A command window (R351); window 4 stands for the side-band port's block (R359). -/
structure HostWindow where
  code : BitVec 16 := 0
  flags : BitVec 16 := 0
  seq : BitVec 32 := 0
  args : SMap Word := []
  status : BitVec 16 := 0
  rseq : BitVec 32 := 0
  res : SMap Word := []
  doorbell : BitVec 32 := 0
  eprod : BitVec 32 := 0
  econs : BitVec 32 := 0
  events : SMap (BitVec 512) := []
deriving DecidableEq, Repr

/-- A placement region (R326, R327) with the record copy in its die's configuration cache. -/
structure Region where
  die : Nat := 0
  base : Nat := 0
  size : Nat := 0
  recVa : Nat := 0
  /-- The bytes of the record's header, tables and image as PLACE read them, by virtual address; none when it is not
  cached. -/
  copy : List (Nat × List Byte) := []
  /-- Home die and launch entry of the graph that issued PLACE. -/
  owner : Nat × Nat := (0, 0)
deriving DecidableEq, Repr

/-- A die-level hurdle (R222). -/
structure Hurdle where
  arrivals : Nat := 0
  expected : Nat := 0
  generation : Nat := 0
deriving DecidableEq, Repr

/-- A dispatch packet that waits for its phase (R309). -/
structure Queued where
  phase : Nat
  /-- The XSEND it belongs to. -/
  cmd : Nat
  dst : Nat
  pkt : Packet
deriving DecidableEq, Repr

/-- The exchange rounds of a group in a context (R305–R313). -/
structure Round where
  /-- Number of the open round, or of the next one. -/
  num : Nat := 0
  isOpen : Bool := false
  /-- Its DPOST has completed. -/
  posted : Bool := false
  /-- The demand row of the group's latest DPOST, with the descriptor's fields (R391). -/
  row : Option DemandRow := none
  /-- Device identifiers by member index, as that DPOST read them (R304). -/
  members : List Nat := []
  /-- XSENDs of the open round, in the order of their starts (R305). -/
  xsends : List Nat := []
  /-- The grants received; no tick until they arrive. -/
  cal : Calendar := ⟨0, [], false, [], [], none⟩
  /-- Phases begun, and whether the markers have been sent (R309, R312). -/
  phase : Nat := 0
  ended : Bool := false
  /-- Bytes of each phase's grant that rows have taken. -/
  used : SMap Nat := []
  queue : List Queued := []
  sentTo : SMap Nat := []
  sent : Nat := 0
  recv : Nat := 0
  /-- Markers received: announced bytes plus one, by member. -/
  markers : SMap Nat := []
  recvBy : SMap Nat := []
  late : Nat := 0
  /-- A packet was dropped on a fatal translation fault (R404). -/
  lost : Bool := false
  unusedLast : Nat := 0
deriving DecidableEq, Repr

/-- The arbiter or standby of a group on this device (R307, R308, R394). -/
structure Arbiter where
  rows : List DemandRow := []
  firstTick : Word := 0
  lastBeat : Word := 0
  /-- Active arbiter after a takeover, plus one; 0 while the descriptor's stands. -/
  takenBy : Nat := 0
  /-- The calendars of the latest round that has them, by member: all at the arbiter, at the standby those it has (R308). -/
  cals : SMap Calendar := []
  /-- Tick of this device's latest probe of the active arbiter (R303). -/
  probed : Word := 0
deriving DecidableEq, Repr

/-- A command of a window that has been submitted and not completed, its block copied (R352). -/
structure InFlight where
  code : BitVec 16
  flags : BitVec 16
  seq : BitVec 32
  args : List Word
  /-- A mapping change under way (R140): the entries removed or changed, and the commands, the scalar accesses (core,
  number) and the deferrals that use them. -/
  old : List Page := []
  cmds : List Nat := []
  accs : List (Nat × Nat) := []
  defs : List Nat := []
  /-- The results it completes with. -/
  res : List Word := []
deriving DecidableEq, Repr

/-- A fault record detected and not yet written (R365, R366), with the graph image of its notice and the IMGID that the trace
names beside it (R416). -/
structure FaultRec where
  tick : Word
  agent : Nat
  node : Nat
  ctx : Nat
  fatal : Bool
  paused : Bool
  addr : Option Nat
  cause : Nat
  pc : Nat
  soff : Nat
  opc : Nat
  restart : Nat
  image : Nat
  imgId : Nat := 0
deriving DecidableEq, Repr

/-- The fault ring of a context (R366). -/
structure FaultRing where
  recs : SMap (BitVec 512) := []
  /-- Slots held, with the number of the event that gives notice. -/
  notices : List (Nat × Nat) := []
  next : Nat := 0
  lost : Bool := false
deriving DecidableEq, Repr

/-- The parts of a save image that the device lays out (R329): the core as it stood, with the PLDAs it issues again, its
incomplete commands, and the numbers of all commands incomplete when it was saved, in issue order. -/
structure Saved where
  core : Core
  cmds : List Cmd
  nums : List Nat
deriving DecidableEq, Repr

/-- One resident context (R15, R356). -/
structure Context where
  pages : List Page := []
  ageing : Nat := 16
  saveBase : Word := 0
  /-- Slots taken, with the parts of the image that the device lays out (R329). -/
  slots : SMap Saved := []
  /-- Nodes that the latest request of parameter 0x003 pre-empts (R355). -/
  preemptReq : List (Nat × Nat) := []
  regions : SMap Region := []
  ring : FaultRing := {}
  /-- Records of this tick, written in AGENT order when the tick ends (R366). -/
  pending : List FaultRec := []
  /-- Log records consumed past CONS in replay (R424). -/
  replayed : List Nat := []
  /-- Events written so far, and those held back when EVENTS is full (R358). -/
  evCount : Nat := 0
  evHeld : List (BitVec 512) := []
  heldReqs : List LaunchReq := []
  holdDispatch : Bool := false
  inFlight : Option InFlight := none
  hurdles : SMap Hurdle := []
  rounds : SMap Round := []
  arbs : SMap Arbiter := []
  xqnan : Bool := false
  recvHold : List Packet := []
deriving DecidableEq, Repr

/-! ## Module -/

/-- Condition of the module (R360, R362, R421). -/
inductive Power where
  | on
  | stopped
  | shut
deriving DecidableEq, Repr

/-- What leaves the module at the Ultra Ethernet ports, the host link or the side-band port, oldest first. A message to a
member of a group names its device, where this device has read the identifier (R304). -/
inductive Outbound where
  | demand (dev : Option Nat) (r : DemandRow)
  | mirrorRow (dev : Option Nat) (r : DemandRow)
  | mirrorCals (dev : Option Nat) (ctx gid : Nat) (cs : List Calendar)
  | grants (dev : Option Nat) (ctx member gid : Nat) (c : Calendar)
  | packet (dev : Option Nat) (member cmd : Nat) (p : Packet)
  | marker (dev : Option Nat) (ctx member gid round bytes : Nat)
  | beat (dev : Option Nat) (ctx gid member : Nat)
  | abandon (dev : Option Nat) (ctx gid member : Nat)
  | takeover (dev : Option Nat) (ctx gid member : Nat)
  | ask (dev : Option Nat) (ctx gid : Nat) (tick : Word)
  | ack (p : Packet)
  | probe (member : Nat) (tick : Word)
  | shard (device : BitVec 16) (ctx : Nat) (area seq : Word) (bytes : List Byte)
  | pseqAck (ctx : Nat) (seq : Word)
  | report (bytes : List Byte)
  | hostData (pa : Nat) (bytes : List Byte) (poisoned : Bool)
deriving DecidableEq, Repr

/-- Who waits for a presence word (R112, R244). -/
inductive Waiter where
  | pld (core acc : Nat)
  /-- Its word's virtual address, for its second issue after a pre-emption (R118). -/
  | plda (core site va : Nat)
deriving DecidableEq, Repr

/-- A deferred presence load (R112): the word (PA / 8), who waits, and the filling value once the word is filled; an
entry of the slice's table until then. -/
structure Deferral where
  id : Nat
  word : Nat
  who : Waiter
  filled : Option Word
deriving DecidableEq, Repr

/-- What ails a sector (R407, R408, R410): nothing, a soft error, or poison that an expander returned. -/
inductive Poison where
  | clean
  | soft
  | expander
deriving DecidableEq, Repr

/-- A CXL memory port (R410). -/
structure MemPort where
  down : Bool := false
  retrains : Nat := 0
  lost : Bool := false
deriving DecidableEq, Repr

/-- Soft-error bookkeeping of a pseudo-channel (R409). -/
structure Channel where
  /-- GTC at each of the latest corrected errors, newest first. -/
  recent : List Word := []
  copying : Bool := false
  remapped : Bool := false
deriving DecidableEq, Repr

/-- What moves next (log 4): a control core, an event of the opcode table, a token on a channel, a piece of a started
copy, or one clk of a core's counters and samples. -/
inductive Act where
  | core (n : Nat)
  | event (i : Instr)
  | hop (core dst : Nat)
  | piece (cmd n : Nat)
  | clk (core : Nat)
deriving DecidableEq, Repr

/-- A turn: the ticks that pass before it, and the act. -/
structure Turn where
  dt : Nat
  act : Act
deriving DecidableEq, Repr

/-- One module. -/
structure State where
  gtc : Word := 0
  tkoff : Word := 0
  devId : BitVec 16 := 0
  power : Power := .on
  stopAt : Option Word := none
  scanDone : Bool := false
  mem : Memory := []
  /-- Full words, key PA / 8 (R111). -/
  full : SMap Bool := []
  /-- Poisoned sectors, key PA / 128 (R408). -/
  poison : SMap Poison := []
  deferrals : List Deferral := []
  nextDeferral : Nat := 0
  ctxs : SMap Context := []
  wins : SMap HostWindow := []
  dies : SMap Die := []
  cores : SMap Core := []
  cmds : List Cmd := []
  nextCmd : Nat := 0
  msgs : List GraphMsg := []
  reqs : List LaunchReq := []
  outbox : List Outbound := []
  monitors : SMap Word := []
  throttled : Bool := false
  hostDown : Bool := false
  /-- Bytes of host memory that the host's own memory still holds, where the L2 has held a newer, dirty copy (R101, R410). -/
  hostOld : SMap Byte := []
  memPorts : SMap MemPort := []
  channels : SMap Channel := []
  spares : SMap Nat := []
  corrected : Nat := 0
  fwVersion : Word := Config.romVersion
  patchRefused : Bool := false
  certsRefused : Bool := false
  /-- The patch image in the module's flash, and whether its identity certificates verify: what a boot finds (R360, R361). -/
  flash : PatchImage := {}
  certs : Bool := true
  measures : List (Nat × BitVec 384) := []
  agenda : List Turn := []
  cur : Nat := 0
  free : Nat := 0
deriving DecidableEq, Repr

/-- The machine right after module reset (R13, R356, R360; log 1). -/
def State.reset : State := {}

end Sys2Proof.Machine
end

