-- ==== Sys2Proof/Machine/Mem.lean ====
section
/-! DEFINITION. Memory as programs see it (05_memory.md): bytes and wider fields, regions and homes, translation,
presence, poison, the windows of the fabric cache banks, and the ports of an agent into them. -/

namespace Sys2Proof.Machine

/-! ## Bytes -/

/-- What a byte of memory that nothing has written reads as (log 2). -/
def Memory.unlisted : Byte := 0#8

/-- The canonical form of memory: addresses strictly rising, no entry equal to what an unlisted address reads as. -/
def Memory.wf (m : Memory) : Bool := SMap.wf Memory.unlisted m

/-- One byte of physical memory. -/
def Memory.read (m : Memory) (a : Nat) : Byte := SMap.get Memory.unlisted m a

/-- Write one byte of physical memory. -/
def Memory.write (m : Memory) (a : Nat) (v : Byte) : Memory := SMap.set Memory.unlisted m a v

/-- Write bytes at consecutive addresses. -/
def Memory.writeBytes (m : Memory) (a : Nat) (bs : List Byte) : Memory := SMap.setList Memory.unlisted m a bs

/-- Read bytes at consecutive addresses. -/
def Memory.readBytes (m : Memory) (a n : Nat) : List Byte := SMap.getList Memory.unlisted m a n

/-- The value of bytes, lowest address first (R1). -/
def leNat : List Byte → Nat
  | [] => 0
  | b :: bs => b.toNat + 256 * leNat bs

/-- The low n bytes of a value, lowest address first (R1). -/
def leBytes : Nat → Nat → List Byte
  | 0, _ => []
  | n + 1, v => BitVec.ofNat 8 v :: leBytes n (v / 256)

/-- The little-endian value of n bytes of physical memory. -/
def Memory.readNat (m : Memory) (a n : Nat) : Nat := leNat (m.readBytes a n)

/-- Store a value in n bytes of physical memory. -/
def Memory.writeNat (m : Memory) (a n v : Nat) : Memory := m.writeBytes a (leBytes n v)

/-! ## Regions and homes (R94, R98, R99) -/

def hbmEnd : Nat := 0x8000000000
def cxlBase : Nat := 0x40000000000
def hostMem : Nat := 0x8000000000000
def paEnd : Nat := 0x10000000000000

def inHbm (pa : Nat) : Bool := decide (pa < hbmEnd)
def inCxl (pa : Nat) : Bool := decide (cxlBase ≤ pa) && decide (pa < cxlBase + Nat.min Config.cxlBytes 0x40000000000)
def inHost (pa : Nat) : Bool := decide (hostMem ≤ pa) && decide (pa < paEnd)

/-- The physical address names storage of the module or the host (R94). -/
def paExists (pa : Nat) : Bool := inHbm pa || inCxl pa || inHost pa

/-- Channel code c of a physical address (R99). -/
def channelCode (pa : Nat) : Nat :=
  let l := pa / 1024
  (l % 4096) ^^^ (l / 4096 % 4096) ^^^ (l / 16777216 % 4096) ^^^ (l / 68719476736 % 64)

/-- Home die of a physical address (R99). -/
def homeDie (pa : Nat) : Nat := channelCode pa / 1024 % 4

/-- L2 slice of a physical address, numbered over the module: 16 · die + slice (R99). -/
def homeSlice (pa : Nat) : Nat := homeDie pa * 16 + channelCode pa % 16

/-- Stack of an HBM address (R99). -/
def homeStack (pa : Nat) : Nat := channelCode pa / 512

/-! ## Translation (R94–R97, R402, R405) -/

def Page.valid (p : Page) : Bool := p.attr.getLsbD 0
def Page.rd (p : Page) : Bool := p.attr.getLsbD 1
def Page.wr (p : Page) : Bool := p.attr.getLsbD 2
def Page.ex (p : Page) : Bool := p.attr.getLsbD 3
def Page.presence (p : Page) : Bool := p.attr.getLsbD 6
def Page.pin (p : Page) : Bool := p.attr.getLsbD 7

/-- The page covers the virtual address. -/
def Page.covers (p : Page) (va : Nat) : Bool := decide (p.va ≤ va) && decide (va < p.va + 2 ^ p.bits)

/-- A memory access that faults: class, subcode, whether it is fatal, and the address reported (R402, R405–R410). -/
structure MemFault where
  cls : Nat
  sub : Nat
  fatal : Bool
  addr : Nat
deriving DecidableEq, Repr

/-- What an access needs of its page. -/
structure Need where
  rd : Bool := false
  wr : Bool := false
  ex : Bool := false
  p : Bool := false
deriving DecidableEq, Repr

def Need.read : Need := { rd := true }
def Need.write : Need := { wr := true }
def Need.rw : Need := { rd := true, wr := true }
def Need.fetch : Need := { ex := true }
def Need.pread : Need := { rd := true, p := true }
def Need.pwrite : Need := { wr := true, p := true }

/-- Translate a virtual address through a context's pages for an access (R402, R405). -/
def translate (pages : List Page) (va : Nat) (n : Need) : Except MemFault Nat :=
  match pages.find? (·.covers va) with
  | none => .error ⟨6, 1, false, va⟩
  | some p =>
    let pa := p.pa + (va - p.va)
    if !p.valid then .error ⟨6, 1, false, va⟩
    else if n.rd && !p.rd then .error ⟨6, 2, false, va⟩
    else if n.wr && !p.wr then .error ⟨6, 3, false, va⟩
    else if n.ex && !p.ex then .error ⟨6, 4, false, va⟩
    else if n.p && !p.presence then .error ⟨7, 2, true, va⟩
    else if paExists pa then .ok pa
    else .error ⟨6, 5, true, va⟩

/-- Translate `n` consecutive bytes before any piece is performed (R402). -/
def translateRange (pages : List Page) (va : Nat) (need : Need) : Nat → Except MemFault (List Nat)
  | 0 => .ok []
  | n + 1 =>
    match translate pages va need with
    | .error e => .error e
    | .ok pa => match translateRange pages (va + 1) need n with
      | .error e => .error e
      | .ok pas => .ok (pa :: pas)

/-! ## Cores and contexts by number -/

def State.core (s : State) (n : Nat) : Core := SMap.get {} s.cores n
def State.setCore (s : State) (n : Nat) (c : Core) : State := { s with cores := SMap.put s.cores n c }
def State.updCore (s : State) (n : Nat) (f : Core → Core) : State := s.setCore n (f (s.core n))
def State.ctx (s : State) (k : Nat) : Context := SMap.get {} s.ctxs k
def State.setCtx (s : State) (k : Nat) (c : Context) : State := { s with ctxs := SMap.put s.ctxs k c }
def State.updCtx (s : State) (k : Nat) (f : Context → Context) : State := s.setCtx k (f (s.ctx k))
def State.die (s : State) (d : Nat) : Die := SMap.get {} s.dies d
def State.setDie (s : State) (d : Nat) (x : Die) : State := { s with dies := SMap.put s.dies d x }
def State.pages (s : State) (k : Nat) : List Page := (s.ctx k).pages

/-- The command with an identifier. -/
def State.cmd? (s : State) (id : Nat) : Option Cmd := s.cmds.find? fun k => decide (k.id = id)

/-- Replace a command by the result of f. -/
def State.updCmd (s : State) (id : Nat) (f : Cmd → Cmd) : State :=
  { s with cmds := s.cmds.map fun k => if k.id = id then f k else k }

/-- Draw the number of the next unspecified value (R3, log 5). -/
def State.draw (s : State) : Nat × State := (s.free, { s with free := s.free + 1 })

/-! ## Storage at the home slice: links, poison, presence -/

/-- Whether the storage of a physical address can be reached (R410). -/
def State.linkFault (s : State) (pa : Nat) : Option (Nat × Nat) :=
  if inHost pa && s.hostDown then some (0xF, 3)
  else if inCxl pa && (SMap.get {} s.memPorts (Config.cxlPort (pa / 1024) % 4)).down then some (0xF, 2)
  else none

/-- The port of a CXL address has lost its expander (R410). -/
def State.expanderGone (s : State) (pa : Nat) : Bool :=
  inCxl pa && (SMap.get {} s.memPorts (Config.cxlPort (pa / 1024) % 4)).lost

/-- What ails the sector of a physical address. -/
def State.poisonAt (s : State) (pa : Nat) : Poison := SMap.get .clean s.poison (pa / 128)

/-- The sector of a physical address is poisoned (R408), or lies in the range of a lost expander (R410). -/
def State.poisoned (s : State) (pa : Nat) : Bool := decide (s.poisonAt pa ≠ .clean) || s.expanderGone pa

/-- Mark the sector of a physical address. -/
def State.setPoison (s : State) (pa : Nat) (p : Poison) : State := { s with poison := SMap.set .clean s.poison (pa / 128) p }

/-- Class and subcode of a read of a poisoned sector: poison that an expander returned is the link's, and every other the
sector's own (R408, R410). -/
def State.poisonCode (s : State) (pa : Nat) : Nat × Nat :=
  if s.poisonAt pa = .expander && !s.expanderGone pa then (0xF, 1) else (0xE, 2)

/-- The pseudo-channel of an HBM address is being copied to a spare: accesses to it wait (R409). -/
def State.copying (s : State) (pa : Nat) : Bool := inHbm pa && (SMap.get {} s.channels (channelCode pa)).copying

/-- What an access to a channel that is being copied answers: no fault, for no memory fault is of class 0, but that the
access is made again later (R409). -/
def MemFault.again (va : Nat) : MemFault := ⟨0, 0, false, va⟩

/-- The access waits. -/
def MemFault.waits (f : MemFault) : Bool := decide (f.cls = 0)

/-- Why storage cannot be accessed now: its channel is being copied, or its link is down (R409, R410). -/
def State.blocked (s : State) (va pa : Nat) : Option MemFault :=
  if s.copying pa then some (.again va) else (s.linkFault pa).map fun f => ⟨f.1, f.2, true, va⟩

/-- Read one byte at the home slice (R100, R408–R410). -/
def State.homeRead (s : State) (va pa : Nat) : Except MemFault Byte :=
  match s.blocked va pa with
  | some f => .error f
  | none =>
    if s.poisoned pa then .error ⟨(s.poisonCode pa).1, (s.poisonCode pa).2, true, va⟩ else .ok (s.mem.read pa)

/-- The L2 is about to hold a newer copy of a byte of host memory: what the host's own memory holds is kept (R101). -/
def State.keepHost (s : State) (pa : Nat) : State :=
  if inHost pa && !s.hostOld.any (fun e => decide (e.1 = pa)) then { s with hostOld := SMap.put s.hostOld pa (s.mem.read pa) }
  else s

/-- A store under a policy is about to change a byte at its home: a streaming store goes to the storage itself, the host's own
memory, and any other stands in the L2 (R101, R108). -/
def State.holdNewer (s : State) (pol : BitVec 2) (pa : Nat) : State :=
  if pol = 2#2 then { s with hostOld := s.hostOld.filter fun e => decide (e.1 ≠ pa) } else s.keepHost pa

/-- The same for n bytes from an address. -/
def State.keepHosts (s : State) (pa : Nat) : Nat → State
  | 0 => s
  | n + 1 => (s.keepHost pa).keepHosts (pa + 1) n

/-- Write one byte at the home slice; `clears` says that with it the byte's whole sector has been written, which clears its
poison (R408). -/
def State.homeWrite (s : State) (pol : BitVec 2) (va pa : Nat) (v : Byte) (clears : Bool) : Except MemFault State :=
  match s.blocked va pa with
  | some f => .error f
  | none => .ok { s.holdNewer pol pa with
      mem := s.mem.write pa v
      poison := if clears then SMap.set .clean s.poison (pa / 128) .clean else s.poison }

/-- Read bytes at the home slice of known physical addresses. -/
def State.homeReads (s : State) (va : Nat) : List Nat → Except MemFault (List Byte)
  | [] => .ok []
  | pa :: pas =>
    match s.homeRead va pa with
    | .error e => .error e
    | .ok b => match s.homeReads (va + 1) pas with
      | .error e => .error e
      | .ok bs => .ok (b :: bs)

/-- The access of n bytes at va0 covers the sector of va. -/
def coversSector (va0 n va : Nat) : Bool := decide (va0 ≤ va / 128 * 128) && decide (va / 128 * 128 + 128 ≤ va0 + n)

/-- The presence bit of the word at a physical address (R111). -/
def State.isFull (s : State) (pa : Nat) : Bool := SMap.get false s.full (pa / 8)

/-- Set or clear a presence bit. -/
def State.setFull (s : State) (pa : Nat) (v : Bool) : State := { s with full := SMap.set false s.full (pa / 8) v }

/-- Fill a presence word (R113, R116): a full word is the second-write fault; the value, the bit, and every deferral on
the word are settled in one step. -/
def State.fillWord (s : State) (va pa : Nat) (v : Word) : Except MemFault State :=
  if s.isFull pa then .error ⟨7, 1, true, va⟩
  else match s.blocked va pa with
    | some f => .error f
    | none => .ok
      { s.keepHosts (pa / 8 * 8) 8 with
        mem := s.mem.writeNat (pa / 8 * 8) 8 v.toNat
        full := SMap.set false s.full (pa / 8) true
        deferrals := s.deferrals.map fun d =>
          if d.word = pa / 8 ∧ d.filled = none then { d with filled := some v } else d }

/-- Entries of an L2 slice's deferral table in use (R117). -/
def State.deferCount (s : State) (slice : Nat) : Nat :=
  (s.deferrals.filter fun d => decide (d.filled = none) && decide (homeSlice (d.word * 8) = slice)).length

/-! ## Windows (R102–R107) -/

/-- The core whose window serves a virtual address for core n, and the bank: its own banks, or in fused mode any
member's (R103, R107). -/
def State.findWindow (s : State) (n va : Nat) : Option (Nat × Nat) :=
  let hit := fun k => ((s.core k).banks.find? fun e =>
    decide (e.2.len ≠ 0) && decide (e.2.base ≤ va) && decide (va < e.2.base + e.2.len)).map fun e => (k, e.1)
  let c := s.core n
  if c.fused then c.gang.findSome? hit else hit n

def State.bank (s : State) (n b : Nat) : Bank := SMap.get {} (s.core n).banks b
def State.setBank (s : State) (n b : Nat) (k : Bank) : State :=
  s.updCore n fun c => { c with banks := SMap.put c.banks b k }

/-- Data of a sector from its bytes, and its byte i. -/
def sectorOf (bs : List Byte) : BitVec 1024 := BitVec.ofNat 1024 (leNat bs)
def sectorByte (d : BitVec 1024) (i : Nat) : Byte := BitVec.ofNat 8 (d.toNat / 2 ^ (8 * i))
def sectorSet (d : BitVec 1024) (i : Nat) (v : Byte) : BitVec 1024 :=
  (d &&& ~~~(BitVec.ofNat 1024 (255 * 2 ^ (8 * i)))) ||| BitVec.ofNat 1024 (v.toNat * 2 ^ (8 * i))

/-- Whether a bank holds the sector of a virtual address, filled from the frame it translates to (R103, R140). -/
def Bank.holds (k : Bank) (va pa : Nat) : Bool := k.sectors.any fun e => decide (e.1 = va / 128) && decide (e.2.home = pa / 128)

/-- Write a dirty sector back to its home: every byte of it, in one act (R104, R105; log 59). -/
def State.writeBack (s : State) (x : Sector) : State :=
  if x.dirty then
    { s.keepHosts (128 * x.home) 128 with
      mem := s.mem.writeBytes (128 * x.home) (leBytes 128 x.data.toNat)
      poison := SMap.set .clean s.poison x.home (if x.poisoned then .soft else .clean) }
  else s

/-- Make room for the sector of a virtual address: one filled from a frame that the address no longer translates to is
written back first (R140). -/
def State.evict (s : State) (n b va : Nat) : State :=
  let k := s.bank n b
  match k.sectors.find? fun e => decide (e.1 = va / 128) with
  | none => s
  | some e => (s.writeBack e.2).setBank n b { k with sectors := SMap.del k.sectors (va / 128) }

/-- Making that room waits for a channel that is being copied (R409). -/
def State.evictWaits (s : State) (n b va : Nat) : Bool :=
  (s.bank n b).sectors.any fun e => decide (e.1 = va / 128) && e.2.dirty && s.copying (128 * e.2.home)

/-- Fill the sector of a virtual address from its home, where the bank does not hold it (R103). -/
def State.fill (s : State) (n b va pa : Nat) : Except MemFault State :=
  if (s.bank n b).holds va pa then .ok s
  else if s.evictWaits n b va then .error (.again va)
  else
    let s1 := s.evict n b va
    let k := s1.bank n b
    match s1.homeReads (va / 128 * 128) ((List.range 128).map (pa / 128 * 128 + ·)) with
    | .error e => .error e
    | .ok bs => .ok (s1.setBank n b { k with
        sectors := SMap.put k.sectors (va / 128) { home := pa / 128, data := sectorOf bs } })

/-- Bytes of a store value with their physical addresses, in the pieces still to be performed. -/
def Access.leftPairs (a : Access) : List (Nat × Byte) :=
  let bs := a.pas.zip (leBytes a.pas.length a.val.toNat)
  a.left.flatMap fun p => (bs.drop p.1).take p.2

/-- A piece of a store touches the word of a physical address. -/
def Access.pieceIn (a : Access) (pa : Nat) (p : Nat × Nat) : Bool :=
  ((a.pas.drop p.1).take p.2).any fun x => decide (x / 8 = pa / 8)

/-- A byte that the agents of core n see of a store of their core not yet performed (R125). -/
def State.shownByte (s : State) (n pa : Nat) : Option Byte :=
  (s.core n).accs.reverse.findSome? fun a =>
    if a.shown then (a.leftPairs.find? fun e => decide (e.1 = pa)).map (·.2) else none

/-- Read one byte at the home slice as an agent of core n, or of none, sees it (R125). -/
def State.homeSeen (s : State) (n : Option Nat) (va pa : Nat) : Except MemFault Byte :=
  match n.bind (s.shownByte · pa) with
  | some v => .ok v
  | none => s.homeRead va pa

/-- Read one byte as core n does under a policy (R103, R108, R109); an agent without windows passes none. A store published to
the core's agents comes first: what follows its release reads it or a later one (R126). -/
def State.loadByte (s : State) (n : Option Nat) (pol : BitVec 2) (va pa : Nat) : Except MemFault (State × Byte) :=
  match (if pol = 0#2 then n.bind (s.findWindow · va) else none) with
  | none => match s.homeSeen n va pa with
    | .error e => .error e
    | .ok v => .ok (s, v)
  | some (k, b) => match s.fill k b va pa with
    | .error e => .error e
    | .ok s' =>
      let x := SMap.get {} (s'.bank k b).sectors (va / 128)
      match n.bind (s.shownByte · pa) with
      | some v => .ok (s', v)
      | none => if x.poisoned then .error ⟨0xE, 2, true, va⟩ else .ok (s', sectorByte x.data (va % 128))

/-- Put a byte into a sector a bank holds; `clears` says that with it the whole sector has been written, which clears its poison
(R408). -/
def State.putWindow (s : State) (k b va pa : Nat) (v : Byte) (dirty clears : Bool) : State :=
  let bk := s.bank k b
  let x := SMap.get {} bk.sectors (va / 128)
  s.setBank k b { bk with
    sectors := SMap.put bk.sectors (va / 128)
      ⟨pa / 128, x.dirty || dirty, sectorSet x.data (va % 128) v, x.poisoned && !clears⟩ }

/-- The sector that a bank holds of an address, if one, takes a byte that a store has written at the home slice (R109). -/
def State.alsoWindow (s : State) (n : Option Nat) (va pa : Nat) (v : Byte) (clears : Bool) : State :=
  match n.bind (s.findWindow · va) with
  | none => s
  | some (k, b) => if (s.bank k b).holds va pa then s.putWindow k b va pa v false clears else s

/-- A byte of a published store of core n is performed at its home. -/
def State.landShown (s : State) (n : Nat) (pol : BitVec 2) (va pa : Nat) (v : Byte) : State :=
  { s.holdNewer pol pa with mem := s.mem.write pa v }.alsoWindow (some n) va pa v false

/-- Perform the pieces of a published store of core n that a test picks. -/
def State.landPieces (s : State) (n : Nat) (a : Access) (hit : Nat × Nat → Bool) : State :=
  let bs := (List.range a.pas.length).zip (a.pas.zip (leBytes a.pas.length a.val.toNat))
  let s1 := ((a.left.filter hit).flatMap fun p => (bs.drop p.1).take p.2).foldl (fun s e =>
    s.landShown n a.pol (a.va + e.1) e.2.1 e.2.2) s
  s1.updCore n fun c => { c with accs := c.accs.map fun b =>
    if b.id = a.id then { b with left := b.left.filter fun p => !hit p } else b }

/-- The stores to a word that the agents of core n see are performed where one of those agents is about to write it
(R123). -/
def State.settleShown (s : State) (n pa : Nat) : State :=
  match (s.core n).accs.find? fun a => a.shown && a.left.any (a.pieceIn pa) with
  | none => s
  | some a => s.landPieces n a (a.pieceIn pa)

/-- Every store that the agents of core n see is performed: one of them makes a release at a wider scope, which covers what it
has acquired (R125, R142; log 21). -/
def State.settleAll (s : State) (n : Nat) : State :=
  ((s.core n).accs.filter (·.shown)).foldl (fun s a => s.landPieces n a fun _ => true) s

/-- One of them lies in a channel that is being copied: such a release waits (R409). -/
def State.shownWaits (s : State) (n : Nat) : Bool := (s.core n).accs.any fun a => a.shown && a.pas.any s.copying

/-- The same for an agent that works through a core or none. -/
def State.settleFor (s : State) (n : Option Nat) (pa : Nat) : State :=
  match n with
  | some n => s.settleShown n pa
  | none => s

/-- Write one byte as core n does under a policy (R103, R109). `whole`: the access or its command writes the whole sector, which
then needs nothing of its home; `clears`: with this byte it has. Until then what the home could not give is poison. -/
def State.storeByte (s : State) (n : Option Nat) (pol : BitVec 2) (va pa : Nat) (v : Byte) (whole clears : Bool) :
    Except MemFault State :=
  let s1 := s.settleFor n pa
  match (if pol = 0#2 then n.bind (s.findWindow · va) else none) with
  | some (k, b) =>
    (match s1.fill k b va pa with
      | .ok s2 => .ok (s2.putWindow k b va pa v true clears)
      | .error e =>
        if !whole || e.waits then .error e
        else
          let s2 := s1.evict k b va
          let bk := s2.bank k b
          .ok ((s2.setBank k b { bk with sectors := SMap.put bk.sectors (va / 128) { poisoned := true } }).putWindow k b va pa v true clears))
  | none => match s1.homeWrite pol va pa v clears with
    | .error e => .error e
    | .ok s2 => .ok (s2.alsoWindow n va pa v clears)

/-- Read bytes of consecutive virtual addresses with known physical addresses. -/
def State.loadBytes (s : State) (n : Option Nat) (pol : BitVec 2) (va : Nat) :
    List Nat → Except MemFault (State × List Byte)
  | [] => .ok (s, [])
  | pa :: pas => match s.loadByte n pol va pa with
    | .error e => .error e
    | .ok (s1, v) => match s1.loadBytes n pol (va + 1) pas with
      | .error e => .error e
      | .ok (s2, vs) => .ok (s2, v :: vs)

/-- Write bytes at consecutive virtual addresses; va0 and n0 are the whole access, for R103 and R408. -/
def State.storeBytes (s : State) (n : Option Nat) (pol : BitVec 2) (va0 n0 va : Nat) :
    List (Nat × Byte) → Except MemFault State
  | [] => .ok s
  | (pa, v) :: r => match s.storeByte n pol va pa v (coversSector va0 n0 va) (coversSector va0 n0 va) with
    | .error e => .error e
    | .ok s' => s'.storeBytes n pol va0 n0 (va + 1) r

/-- An agent: its context, its core when it works through a core's windows, and the command it makes its accesses for. -/
structure Agent where
  ctx : Nat
  core : Option Nat
  cmd : Option Nat := none
deriving DecidableEq, Repr

/-- The mappings an agent translates through: those its command has used before any other (R140). -/
def State.pagesFor (s : State) (g : Agent) : List Page :=
  (match g.cmd.bind s.cmd? with
    | some k => k.tlb
    | none => []) ++ s.pages g.ctx

/-- The mappings of n bytes are kept for the rest of the agent's command (R140). -/
def State.keepPages (s : State) (g : Agent) (va n : Nat) : State :=
  match g.cmd with
  | none => s
  | some id =>
    let ps := (List.range ((va % 65536 + n + 65535) / 65536)).filterMap fun i =>
      (s.pagesFor g).find? (·.covers (va / 65536 * 65536 + 65536 * i))
    s.updCmd id fun j => { j with tlb := j.tlb ++ (ps.filter fun p => decide (p ∉ j.tlb)).dedup }

/-- Translate and read n bytes. -/
def State.load (s : State) (g : Agent) (pol : BitVec 2) (va n : Nat) : Except MemFault (State × List Byte) :=
  match translateRange (s.pagesFor g) va Need.read n with
  | .error e => .error e
  | .ok pas => (s.keepPages g va n).loadBytes g.core pol va pas

/-- Translate and read n bytes as a value. -/
def State.loadNat (s : State) (g : Agent) (pol : BitVec 2) (va n : Nat) : Except MemFault (State × Nat) :=
  (s.load g pol va n).map fun p => (p.1, leNat p.2)

/-- A command is about to write n bytes: a ring's copy learns of it where the word is one that its adjacent chunks share, so
that the word does not end mixed of the two (R139). -/
def State.tear (s : State) (id : Option Nat) (g : Agent) (va n : Nat) : State :=
  match id with
  | none => s
  | some id => { s with cmds := s.cmds.map fun j => match j.owner with
      | .node _ _ => j
      | .core m =>
        if j.half = [] ∨ j.id = id ∨ j.ctx ≠ g.ctx ∨ s.findWindow m va ≠ g.core.bind (s.findWindow · va) then j
        else { j with torn := (j.torn ++ (j.half.map (·.1 / 8)).filter fun w => decide (va / 8 ≤ w ∧ 8 * w < va + n)).dedup } }

/-- Translate and write bytes. -/
def State.store (s : State) (g : Agent) (pol : BitVec 2) (va : Nat) (bs : List Byte) : Except MemFault State :=
  match translateRange (s.pagesFor g) va Need.write bs.length with
  | .error e => .error e
  | .ok pas => ((s.keepPages g va bs.length).tear g.cmd g va bs.length).storeBytes g.core pol va bs.length va (pas.zip bs)

/-- A command that writes the whole sector of an address has written n of its bytes there: what is known of the rest, and whether
that was the last, which clears the sector's poison (R408). Only a poisoned sector's bytes are noted. -/
def State.cover (s : State) (id : Option Nat) (whole : Bool) (va pa n : Nat) : State × Bool :=
  match (if whole then id.bind s.cmd? else none) with
  | none => (s, false)
  | some k =>
    let sector := va / 128
    let held := (s.cores.any fun e => e.2.banks.any fun b => b.2.sectors.any fun x => decide (x.1 = sector) && x.2.poisoned)
    if !s.poisoned pa && !held && (s.linkFault pa).isNone then (s, true)
    else
      let c := (List.range n).foldl (fun m i => SMap.put m (va + i) true) k.covered
      let last := (List.range 128).all fun i => SMap.get false c (128 * sector + i)
      (s.updCmd k.id fun j => { j with covered := if last then c.filter fun e => decide (e.1 / 128 ≠ sector) else c }, last)

/-- Presence-filling writes of whole 8-byte words (R116), each a release at DEV scope, which covers what the core's agents have
seen (R125, R130); `whole` tells the addresses whose sectors the command writes in full. -/
def State.storeFill (s : State) (g : Agent) (whole : Nat → Bool) (va : Nat) : List Byte → Except MemFault State
  | b0 :: b1 :: b2 :: b3 :: b4 :: b5 :: b6 :: b7 :: r =>
    match translate (s.pagesFor g) va Need.pwrite with
    | .error e => .error e
    | .ok pa =>
      if (match g.core with | some n => s.shownWaits n | none => false) then .error (.again va)
      else
        let s1 := (s.keepPages g va 8).tear g.cmd g va 8
        let s2 := match g.core with | some n => s1.settleAll n | none => s1
        match s2.fillWord va pa (BitVec.ofNat 64 (leNat [b0, b1, b2, b3, b4, b5, b6, b7])) with
        | .error e => .error e
        | .ok s3 =>
          let (s4, last) := s3.cover g.cmd (whole va) va pa 8
          (if last then s4.setPoison pa .clean else s4).storeFill g whole (va + 8) r
  | _ => .ok s

/-- Bytes that a page allows to read as device code or tables: records, images, handlers (R402). -/
def State.loadEx (s : State) (ctx va n : Nat) : Except MemFault (List Byte) :=
  match translateRange (s.pages ctx) va Need.fetch n with
  | .error e => .error e
  | .ok pas => s.homeReads va pas

/-- Memory as it reads once no channel is being copied: the copy leaves contents as they are (R409). What the device reads or
writes as one part of a larger act of its own does not wait by itself (log 52). -/
def State.uncopied (s : State) : State := { s with channels := [] }

/-- Fill a presence word as a part of such an act. -/
def State.fillNow (s : State) (va pa : Nat) (v : Word) : Except MemFault State :=
  (s.uncopied.fillWord va pa v).map fun t => { t with channels := s.channels }

/-- Some of n bytes of a context lies in a channel that is being copied. -/
def State.rangeCopying (s : State) (k va n : Nat) : Bool :=
  match translateRange (s.pages k) va {} n with
  | .ok pas => pas.any s.copying
  | .error _ => false

/-! ## Write-back (R104) -/

/-- Writing a core's windows back waits for a channel that is being copied (R409). -/
def State.flushWaits (s : State) (n : Nat) : Bool :=
  (s.core n).banks.any fun b => b.2.sectors.any fun e => e.2.dirty && s.copying (128 * e.2.home)

/-- Write the listed sectors back to their homes, in increasing address order (R104). Each is one act, so that all words of
a sector come from one of two cores' write-backs, which R105 leaves open word by word (log 59). -/
def State.writeBackList (s : State) : List (Nat × Sector) → State
  | [] => s
  | (_, x) :: r => (s.writeBack x).writeBackList r

/-- Write back and invalidate one bank. -/
def State.flushBank (s : State) (n b : Nat) : State :=
  let k := s.bank n b
  (s.writeBackList k.sectors).setBank n b { k with sectors := [] }

/-- Write back and invalidate the listed banks of a core. -/
def State.flushBanks (s : State) (n : Nat) : List Nat → State
  | [] => s
  | b :: bs => (s.flushBank n b).flushBanks n bs

/-- Every bank of a core (R104). The order between banks, which the rule does not define, is rising bank number here, and
rising core number where several cores write back in one act (log 59). -/
def State.flushCore (s : State) (n : Nat) : State := s.flushBanks n (List.range 16)

/-- Write back and invalidate the sectors of one bank whose addresses the range covers. -/
def State.flushBankRange (s : State) (n b va len : Nat) : State :=
  let k := s.bank n b
  let hit := fun (e : Nat × Sector) => decide (va ≤ e.1 * 128) && decide (e.1 * 128 < va + len)
  (s.writeBackList (k.sectors.filter hit)).setBank n b
    { k with sectors := k.sectors.filter fun e => !hit e }

/-- Write back and invalidate a page's sectors in every window of its context on the module (R104, R140). -/
def State.flushPage (s : State) (ctx va len : Nat) : State :=
  (List.range 64).foldl (fun s n =>
    if (s.core n).ctx = ctx ∧ (s.core n).run ≠ .idle then
      (s.core n).banks.foldl (fun s e => s.flushBankRange n e.1 va len) s
    else s) s

end Sys2Proof.Machine
end

