-- ==== Sys2Proof/Machine/Trace.lean ====
section
/-! DEFINITION. The trace area (25_debug.md, R414–R426): the ring, its records, record and replay, the sample table, the
channel counters and what the end of a fabric load writes. -/

namespace Sys2Proof.Machine

/-- AGENT of a fault or trace record (R365). -/
def agentWord (kind loc unit : Nat) : Nat := kind % 256 * 2 ^ 24 + loc % 256 * 2 ^ 16 + unit % 256 * 2 ^ 8

/-- The ring header of a context's trace area (R415), with its virtual and physical address. -/
structure TraceHdr where
  va : Nat
  pa : Nat
  enable : Nat
  mode : Nat
  head : Nat
  cons : Nat
  lost : Nat
deriving DecidableEq, Repr

/-- Slots of the ring (R415). -/
def traceSlots : Nat := 16383

/-- The header, when the context has a trace area whose header translates (R414) and can be reached (log 12). -/
def State.traceHdr (s : State) (k : Nat) : Option TraceHdr :=
  let x := s.ctx k
  if x.saveBase = 0#64 then none
  else
    let va := x.saveBase.toNat + 64 * 425984
    match translate x.pages va Need.rw with
    | .error _ => none
    | .ok pa =>
      let m := s.mem.readNat (pa + 4) 1
      if (s.linkFault pa).isSome then none
      else some ⟨va, pa, s.mem.readNat pa 4, if m = 1 ∨ m = 2 then m else 0, s.mem.readNat (pa + 8) 8,
        s.mem.readNat (pa + 16) 8, s.mem.readNat (pa + 24) 8⟩

/-- MODE of a context: 0 trace, 1 record, 2 replay (R414, R415). -/
def State.traceMode (s : State) (k : Nat) : Nat := ((s.traceHdr k).map (·.mode)).getD 0

/-- ENABLE bit t of a context (R415). -/
def State.traceOn (s : State) (k t : Nat) : Bool := ((s.traceHdr k).map fun h => h.enable.testBit t).getD false

/-- An agent that must log a choice in MODE 1 finds room; otherwise it waits (R422). -/
def State.traceRoom (s : State) (k : Nat) : Bool :=
  match s.traceHdr k with
  | none => true
  | some h => decide (h.mode ≠ 1) || decide (h.head - h.cons < traceSlots)

/-- The ring has room for a number of records in record mode. -/
def State.traceRoomFor (s : State) (k m : Nat) : Bool :=
  match s.traceHdr k with
  | none => true
  | some h => decide (h.mode ≠ 1) || decide (h.head - h.cons + m ≤ traceSlots)

/-- The device writes a field of the ring header (R415). -/
def State.traceField (s : State) (pa n v : Nat) : State := { s.keepHosts pa n with mem := s.mem.writeNat pa n v }

/-- Count a dropped trace write (R414, R415). -/
def State.traceLose (s : State) (k : Nat) : State :=
  match s.traceHdr k with
  | none => s
  | some h => s.traceField (h.pa + 24) 8 (h.lost + 1)

/-- Write bytes for the device in a context, none where a page does not translate. -/
def State.devWrite (s : State) (k va : Nat) (bs : List Byte) : Option State :=
  match translateRange (s.pages k) va Need.write bs.length with
  | .error _ => none
  | .ok pas => match s.uncopied.storeBytes none 1#2 va bs.length va (pas.zip bs) with
    | .error _ => none
    | .ok s' => some { s' with channels := s.channels }

/-- Record type t is written under this header: types 1–9 by ENABLE, and by MODE 1 for the choices; 14 and 15 always;
nothing else in replay (R415, R422, R424). -/
def TraceHdr.wants (h : TraceHdr) (t : Nat) : Bool :=
  let choice := decide (t = 3) || decide (10 ≤ t ∧ t ≤ 12)
  if 14 ≤ t then true
  else if h.mode = 2 then false
  else (decide (t ≤ 9) && h.enable.testBit t) || (choice && decide (h.mode = 1))

/-- Write a trace record (R415–R417, R422). -/
def State.trace (s : State) (k t agent : Nat) (pc : Nat) (soff img : Nat) (d0 d1 : Nat) : State :=
  match s.traceHdr k with
  | none => s
  | some h =>
    if !h.wants t then s
    else if h.mode = 1 ∧ traceSlots ≤ h.head - h.cons then s.traceLose k
    else
      let bs := leBytes 8 s.gtc.toNat ++ leBytes 8 s.tkoff.toNat ++ leBytes 4 agent ++ leBytes 2 t ++ leBytes 1 (k % 4)
        ++ leBytes 1 0 ++ leBytes 8 pc ++ leBytes 4 soff ++ leBytes 4 img ++ leBytes 8 d0 ++ leBytes 8 d1
        ++ leBytes 8 h.head
      match s.devWrite k (h.va + 64 + 64 * (h.head % traceSlots)) bs with
      | none => s.traceLose k
      | some s' => s'.traceField (h.pa + 8) 8 (h.head + 1)

/-- A trace record of a core's control core. -/
def State.traceCore (s : State) (n t d0 d1 : Nat) (soff : Nat) : State :=
  let c := s.core n
  s.trace c.ctx t (agentWord 0 n 0) c.pc.toNat soff c.fab.imgId.toNat d0 d1

/-! ## Replay (R424, R426) -/

/-- Virtual address of ring record n. -/
def TraceHdr.slot (h : TraceHdr) (n : Nat) : Nat := h.va + 64 + 64 * (n % traceSlots)

/-- A field of ring record n. -/
def State.logField (s : State) (k : Nat) (h : TraceHdr) (n off len : Nat) : Nat :=
  match translateRange (s.pages k) (h.slot n + off) Need.read len with
  | .error _ => 0
  | .ok pas => leNat (pas.map s.mem.read)

/-- The next unconsumed log record of a type that a test on (AGENT, DATA0) accepts: its number. -/
def State.nextLog (s : State) (k t : Nat) (p : Nat → Nat → Bool) : Option Nat :=
  match s.traceHdr k with
  | none => none
  | some h => ((List.range (h.head - h.cons)).map (h.cons + ·)).find? fun n =>
      decide (n ∉ (s.ctx k).replayed) && decide (s.logField k h n 0x14 2 = t)
        && p (s.logField k h n 0x10 4) (s.logField k h n 0x28 8)

/-- Log record i belongs to the fabric load of core n that runs: it stands before the core's next LOADEND record, where the log
holds one (R422, R424; log 83). -/
def State.thisLoad (s : State) (k n i : Nat) : Bool :=
  match s.nextLog k 2 fun a _ => decide (a = agentWord 0 n 0) with
  | none => true
  | some j => decide (i < j)

/-- The log holds the end of the fabric load of core n that runs. -/
def State.loadLogged (s : State) (k n : Nat) : Bool := (s.nextLog k 2 fun a _ => decide (a = agentWord 0 n 0)).isSome

/-- DATA0 and DATA1 of log record n. -/
def State.logData (s : State) (k n : Nat) : Nat × Nat :=
  match s.traceHdr k with
  | none => (0, 0)
  | some h => (s.logField k h n 0x28 8, s.logField k h n 0x30 8)

/-- Skip consumed records from `c` on. -/
def skipConsumed (done : List Nat) : Nat → Nat → Nat
  | 0, c => c
  | f + 1, c => if c ∈ done then skipConsumed done f (c + 1) else c

/-- Consume log record n and advance CONS past every consumed record. -/
def State.consumeLog (s : State) (k n : Nat) : State :=
  match s.traceHdr k with
  | none => s
  | some h =>
    let done := n :: (s.ctx k).replayed
    let c := skipConsumed done done.length h.cons
    (s.updCtx k fun x => { x with replayed := done.filter fun i => decide (c ≤ i) }).traceField (h.pa + 16) 8 c

/-- Leave replay or record: MODE := 0 (R425, R426). -/
def State.traceStop (s : State) (k : Nat) : State :=
  match s.traceHdr k with
  | none => s
  | some h => s.traceField (h.pa + 4) 1 0

/-- A record its agent cannot use: DIVERGE, and MODE 0 (R426). -/
def State.diverge (s : State) (n found : Nat) : State :=
  let c := s.core n
  (s.traceStop c.ctx).traceCore n 14 c.loadNo found 0xFFFFFFFF

/-- The same for an engine, which runs in no fabric load. -/
def State.divergeUnit (s : State) (k agent : Nat) : State := (s.traceStop k).trace k 14 agent 0 0xFFFFFFFF 0 0 0

/-! ## Sampling (R418) -/

/-- Set of an address and reason (R418). -/
def sampleSet (a reason : Nat) : Nat :=
  (a / 4 % 256) ^^^ (a / 1024 % 256) ^^^ (a / 262144 % 256) ^^^ (reason % 256)

/-- Key of an event (R418). -/
def sampleKey (elem : Bool) (reason a : Nat) : Nat := elem.toNat * 2 ^ 63 + reason % 16 * 2 ^ 59 + a % 2 ^ 56

/-- Spill the listed sample entries as SAMPLE records. -/
def State.spill (s : State) (n : Nat) : List (Nat × (Word × Nat)) → State
  | [] => s
  | (_, (key, cnt)) :: r => (s.traceCore n 8 key.toNat cnt 0xFFFFFFFF).spill n r

/-- The way with the lowest count, the lowest way among equals. -/
def leastWay (e : List (Nat × (Word × Nat))) : Option (Nat × (Word × Nat)) :=
  match e with
  | [] => none
  | x :: r => some (r.foldl (fun best y => if y.2.2 < best.2.2 then y else best) x)

/-- Count one event in a core's sample table; entries are numbered 4 · set + way (R418). -/
def State.sampleEvent (s : State) (n : Nat) (elem : Bool) (reason a : Nat) : State :=
  if !s.traceOn (s.core n).ctx 8 then s
  else
    let c := s.core n
    let set := sampleSet a reason
    let key := BitVec.ofNat 64 (sampleKey elem reason a)
    let ways := c.sample.filter fun e => decide (e.1 / 4 = set)
    match ways.find? fun e => decide (e.2.1 = key) with
    | some e => s.setCore n { c with sample := SMap.put c.sample e.1 (key, e.2.2 + 1) }
    | none =>
      match ((List.range 4).find? fun w => decide (4 * set + w ∉ ways.map (·.1))) with
      | some w => s.setCore n { c with sample := SMap.put c.sample (4 * set + w) (key, 1) }
      | none => match leastWay ways with
        | none => s
        | some e => (s.spill n [e]).updCore n fun c => { c with sample := SMap.put c.sample e.1 (key, 1) }

/-! ## Checksums (R423) -/

/-- One byte into a CRC-32C register. -/
def crcByte (r : BitVec 32) (b : Nat) : BitVec 32 :=
  (List.range 8).foldl (fun r _ => if r.getLsbD 0 then (r >>> 1) ^^^ 0x82F63B78#32 else r >>> 1) (r ^^^ BitVec.ofNat 32 (b % 256))

/-- The four bytes of a token's data. -/
def crcToken (r : BitVec 32) (d : BitVec 32) : BitVec 32 := (wordBytesLE d).foldl (fun r b => crcByte r b.toNat) r
where
  /-- Lowest byte first. -/
  wordBytesLE (d : BitVec 32) : List Byte := leBytes 4 d.toNat

/-- Run a register over n zero bytes. -/
def crcZeros : Nat → BitVec 32 → BitVec 32
  | 0, r => r
  | n + 1, r => crcZeros n (crcByte r 0)

/-- The fabric load's checksum: the tokens of its ports in increasing port index (R423). -/
def Core.checksum (c : Core) : BitVec 32 :=
  ((List.range 16).foldl (fun r p =>
    let q := SMap.get {} c.ports p
    crcZeros (4 * q.taken) r ^^^ q.crc) 0xFFFFFFFF#32) ^^^ 0xFFFFFFFF#32

/-! ## The end of a fabric load -/

/-- One channel-counter entry (R419). -/
def chanBytes (x : ChanCount) : List Byte :=
  leBytes 4 x.move.toNat ++ leBytes 4 x.full.toNat ++ leBytes 4 x.empty.toNat ++ leBytes 4 0

/-- Write the counter block of a core, entry by entry (R414, R419). -/
def State.writeChans (s : State) (n : Nat) : State :=
  let c := s.core n
  let base := (s.ctx c.ctx).saveBase.toNat + 64 * 425984 + 0x100000 + 0x4000 * n
  (List.range 1024).foldl (fun s i =>
    match s.devWrite c.ctx (base + 16 * i) (chanBytes (SMap.get {} c.chan i)) with
    | some s' => s'
    | none => s.traceLose c.ctx) s

/-- Partly gathered MERGE decisions are written when the load ends (R422). Operator states are kept at site keys above
1023 (see Fabric), with the decisions' number in n and their bits in k. -/
def State.flushMerges (s : State) (n : Nat) : List (Nat × ElemState) → State
  | [] => s
  | (site, e) :: r =>
    let s' := if 1024 ≤ site ∧ e.logged ≠ 0 then
        s.trace (s.core n).ctx 10 (agentWord 1 n 0) (s.core n).pc.toNat 0xFFFFFFFF (s.core n).fab.imgId.toNat
          (e.logged * 256 + site % 256) e.logBits
      else s
    s'.flushMerges n r

/-- MERGEs of core n whose gathered decisions are still to be logged. -/
def Core.mergesDue (c : Core) : Nat := (c.fab.est.filter fun e => decide (1024 ≤ e.1) && decide (e.2.logged ≠ 0)).length

/-- The end of a fabric load waits in MODE 1 until the ring has room for the choices still to be logged (R422). -/
def State.endWaits (s : State) (n : Nat) : Bool := !s.traceRoomFor (s.core n).ctx (s.core n).mergesDue

/-- A fabric load ends (R418, R419, R422, R423, R426). -/
def State.endLoad (s : State) (n : Nat) : State :=
  let k := (s.core n).ctx
  let s1 := if s.traceMode k = 1 then s.flushMerges n (s.core n).fab.est else s
  let s2 := s1.spill n (s1.core n).sample
  let s3 := if s2.traceOn k 2 then s2.writeChans n else s2
  let sum := (s3.core n).checksum.toNat
  let s4 := s3.traceCore n 2 ((s3.core n).clk % 2 ^ 32) sum 0xFFFFFFFF
  let s5 := if s4.traceMode k = 2 then
      match s4.nextLog k 2 fun a _ => decide (a = agentWord 0 n 0) with
      | none => s4
      | some i =>
        let want := (s4.logData k i).2
        let s5 := s4.consumeLog k i
        if want % 2 ^ 32 = sum then s5 else s5.diverge n sum
    else s4
  s5.updCore n fun c => { c with
    sample := [], chan := [], chanWin := [], departed := [], winClk := 0, clk := 0, loadNo := c.loadNo + 1
    ports := c.ports.map fun e => (e.1, { e.2 with crc := 0, taken := 0 }) }

end Sys2Proof.Machine
end

