-- ==== Sys2Proof/Machine/Ops.lean ====
section
/-! DEFINITION. The named operations every meaning is written over: registers (R146, R147, R167), completion of commands
(R24–R29), events (R358), fault records (R365, R366), graph completion and cancellation (R325, R369, R370), taking an
exception and returning from one (R184, R185, R364), and issue. -/

namespace Sys2Proof.Machine

/-! ## Registers, predicates, masks -/

/-- A register by its encoding; 57 reads zero (R146). -/
def Core.reg (c : Core) (r : Nat) : Word := if r = 57 then 0#64 else SMap.get 0#64 c.regs r

/-- A predicate; p0 reads true (R147). -/
def Core.pred (c : Core) (i : Nat) : Bool := decide (i = 0) || c.preds.getLsbD i

/-- A predicate field with its negate bit applied (R147). -/
def Core.predField (c : Core) (f : PredField) : Bool := (c.pred (f.toNat % 16)) != f.getLsbD 4

/-- A tile mask; m0 reads all ones (R147). -/
def Core.mask (c : Core) (m : Nat) : BitVec 256 :=
  if m = 0 then BitVec.allOnes 256 else SMap.get 0#256 c.masks m

/-- A bit of a mask word, replaced. -/
def setBit {w : Nat} (x : BitVec w) (i : Nat) (v : Bool) : BitVec w :=
  if v then x ||| BitVec.ofNat w (2 ^ i) else x &&& ~~~(BitVec.ofNat w (2 ^ i))

/-- A write to a predicate; p0 discards it (R147). -/
def Core.setPred (c : Core) (i : Nat) (v : Bool) : Core := if i = 0 then c else { c with preds := setBit c.preds i v }

/-- The access is a load whose value lands in register r. -/
def Access.targets (a : Access) (r : Nat) : Bool :=
  decide (a.dst = r) && (match a.kind with
    | .load _ => true
    | .amo _ => true
    | .pld => true
    | _ => false)

/-- The access is an MLD of mask m. -/
def Access.targetsMask (a : Access) (m : Nat) : Bool := decide (a.kind = .mload) && decide (a.dst = m)

/-- The command is a PORT.TAKE of core n into register r (R212). -/
def Cmd.takes (k : Cmd) (n r : Nat) : Bool :=
  decide (k.owner = Owner.core n) && decide (k.opc = 0x12#8) && decide (k.areg.toNat = r)

/-- A value is still to arrive in register r of core n (R167). -/
def State.regPending (s : State) (n r : Nat) : Bool :=
  decide (r ≠ 57) && ((s.core n).accs.any (·.targets r) || s.cmds.any (·.takes n r))

/-- A value is still to arrive in mask m of core n (R167). -/
def State.maskPending (s : State) (n m : Nat) : Bool := decide (m ≠ 0) && (s.core n).accs.any (·.targetsMask m)

/-- A later instruction writes the register: a value still to arrive in it from an earlier one no longer lands there
(R167). -/
def State.claimReg (s : State) (n r : Nat) : State :=
  if r = 57 then s
  else
    let c := s.core n
    { s.setCore n { c with accs := c.accs.map fun a => if a.targets r then { a with dst := 57 } else a } with
      cmds := s.cmds.map fun k => if k.takes n r then { k with areg := 57#6 } else k }

/-- Write a register: 57 discards, and a value still to arrive in it from an earlier instruction no longer lands there
(R146, R167). -/
def State.writeReg (s : State) (n r : Nat) (v : Word) : State :=
  if r = 57 then s
  else
    let c := s.core n
    { s.setCore n { c with
        regs := SMap.set 0#64 c.regs r v
        accs := c.accs.map fun a => if a.targets r then { a with dst := 57 } else a } with
      cmds := s.cmds.map fun k => if k.takes n r then { k with areg := 57#6 } else k }

/-- Put the value of an earlier instruction into its register when it arrives (R167); in a core stopped at a safe point
the register is then live (R189). -/
def State.landReg (s : State) (n r : Nat) (v : Word) : State :=
  if r = 57 then s
  else s.updCore n fun c => { c with
    regs := SMap.set 0#64 c.regs r v
    late := if c.stopMask.isSome then setBit c.late r true else c.late }

/-- A result of an ALU form: d and ll (R146). -/
def State.writeRes (s : State) (n d : Nat) (v : Word) : State := (s.writeReg n d v).writeReg n 56 v

/-- Write a tile mask; m0 discards (R147, R167). -/
def State.writeMask (s : State) (n m : Nat) (v : BitVec 256) : State :=
  if m = 0 then s
  else s.updCore n fun c => { c with
    masks := SMap.set 0#256 c.masks m v
    accs := c.accs.map fun a => if a.targetsMask m then { a with dst := 0 } else a }

/-! ## Batches and the completion of commands (R24–R29, R197) -/

/-- The command joins the open batch: the COPY forms, tile commands and PLACE (R29, R199, R326). -/
def joinsBatch (opc : Nat) : Bool :=
  decide (0x30 ≤ opc ∧ opc ≤ 0x33) || decide (0x40 ≤ opc ∧ opc ≤ 0x53) || decide (0x60 ≤ opc ∧ opc ≤ 0x71)
    || decide (opc = 0x90)

/-- The command counts in CPC (R28). -/
def countsCpc (opc : Nat) : Bool := decide (0x30 ≤ opc ∧ opc ≤ 0x33)

/-- The command counts in TLC (R28). -/
def countsTlc (opc : Nat) : Bool := joinsBatch opc && !countsCpc opc

/-- Close the open batch if it is non-empty (R29). -/
def Core.closeBatch (c : Core) : Core :=
  if c.openBatch = [] then c else { c with openBatch := [], batchNo := c.batchNo + 1, btc := c.btc + 1 }

def State.closeBatch (s : State) (n : Nat) : State := s.updCore n Core.closeBatch

/-- A command has completed, or never was issued. -/
def State.cmdDone (s : State) (id : Nat) : Bool := (s.cmd? id).isNone

/-- The counters of the issuing core fall as a command of this opcode and batch completes (R28). -/
def Core.fall (c : Core) (opc : Nat) (lastOfBatch : Bool) : Core :=
  { c with
    cpc := if countsCpc opc then c.cpc - 1 else c.cpc
    tlc := if countsTlc opc then c.tlc - 1 else c.tlc
    ldc := if opc = 0x12 then c.ldc - 1 else c.ldc
    btc := if lastOfBatch then c.btc - 1 else c.btc }

/-- Complete a command: its done-tag's producer is complete, its counters fall, and a BATCH whose commands have all
completed completes with it (R24, R28, R197, R219). A core that a HURDLE holds goes on, unless a pre-emption is pending: then its next
turn tells whether it has stopped there (R32). -/
def State.finishCmd (s : State) (id : Nat) : State :=
  match s.cmd? id with
  | none => s
  | some k =>
    let rest := s.cmds.filter fun j => decide (j.id ≠ id)
    let rest' := rest.filter fun j => !(decide (j.opc = 0x20#8) && j.waits.all fun w => rest.all fun i => decide (i.id ≠ w))
    let s' := { s with cmds := rest' }
    match k.owner with
    | .node _ _ => s'
    | .core n =>
      let last := decide (k.batch ≠ none) && rest.all fun j => !(decide (j.owner = k.owner) && decide (j.batch = k.batch))
      s'.updCore n fun c => { (if k.arm = none then c.fall k.opc.toNat last else c) with
        heldBy := if c.heldBy = some id ∧ c.preempt = false then none else c.heldBy
        cfgBy := if c.cfgBy = some id then none else c.cfgBy
        holdTake := c.holdTake.filter fun i => decide (i ≠ id)
        served := c.served.filter fun i => decide (i ≠ id) }

/-! ## Events (R358) -/

def State.win (s : State) (w : Nat) : HostWindow := SMap.get {} s.wins w
def State.setWin (s : State) (w : Nat) (x : HostWindow) : State := { s with wins := SMap.put s.wins w x }

/-- The firmware completes a command: results, STATUS, then RSEQ (R352). A result the command does not define is
unspecified. -/
def State.answer (s : State) (win : Nat) (seq : BitVec 32) (status : Nat) (res : List Word) : State :=
  let w := s.win win
  let all := (List.range 7).map fun i => (i, res.getD i (Config.freeWord (s.free + i)))
  { s.setWin win { w with status := BitVec.ofNat 16 status, rseq := seq, res := all.filter fun p => decide (p.2 ≠ 0#64) } with
    free := s.free + 7 }

/-- Write held events into EVENTS while there is room and the link is up, advancing EPROD (R358, R410). -/
def State.deliverEvents (s : State) (k : Nat) : Nat → State
  | 0 => s
  | f + 1 =>
    let w := s.win k
    match (s.ctx k).evHeld with
    | [] => s
    | e :: r =>
      if s.hostDown ∨ 60 ≤ (w.eprod - w.econs).toNat then s
      else
        let s1 := s.setWin k { w with events := SMap.put w.events (w.eprod.toNat % 60) e, eprod := w.eprod + 1 }
        (s1.updCtx k fun x => { x with evHeld := r }).deliverEvents k f

/-- Post an event: held in order, up to 4,096, until it can be written (R358; log 17). -/
def State.postEvent (s : State) (k : Nat) (e : BitVec 512) : State :=
  if 4096 ≤ (s.ctx k).evHeld.length then s
  else (s.updCtx k fun x => { x with evHeld := x.evHeld ++ [e], evCount := x.evCount + 1 }).deliverEvents k 60

/-- The bytes of an event or record as one value. -/
def pack512 (bs : List Byte) : BitVec 512 := BitVec.ofNat 512 (leNat bs)

/-- An event entry (R358). -/
def eventEntry (kind image d0 d1 : Nat) : BitVec 512 :=
  pack512 (leBytes 8 kind ++ leBytes 8 image ++ leBytes 8 d0 ++ leBytes 8 d1)

/-! ## Fault records (R365–R367) -/

/-- CAUSE as a value (R187). -/
def causeWord (hm : Bool) (cls code : Nat) : Nat := hm.toNat * 2 ^ 63 + cls % 256 * 2 ^ 16 + code % 65536

/-- The 64 bytes of a fault record (R365). -/
def FaultRec.bytes (r : FaultRec) (lost : Bool) : List Byte :=
  leBytes 8 r.tick.toNat ++ leBytes 4 r.agent ++ leBytes 2 r.node ++ leBytes 1 (r.ctx % 4)
    ++ leBytes 1 (r.fatal.toNat + 2 * r.paused.toNat + 4 * r.addr.isSome.toNat + 8 * lost.toNat)
    ++ leBytes 8 r.cause ++ leBytes 8 (r.addr.getD 0) ++ leBytes 8 r.pc ++ leBytes 4 r.soff ++ leBytes 4 r.opc
    ++ leBytes 16 r.restart

/-- Class of the fault a record holds (R187). -/
def FaultRec.cls (r : FaultRec) : Nat := r.cause / 2 ^ 16 % 256

/-- Faults of the CXL tier and the host link are the hub die's, KIND 12 (R410). -/
def FaultRec.placed (r : FaultRec) : FaultRec := if r.cls = 0xF then { r with agent := agentWord 12 4 0 } else r

/-- A fault is detected: its record waits for the end of the tick (R366). An uncorrectable error ends a replay with an
ABORT record (R425). -/
def State.report (s : State) (k : Nat) (r : FaultRec) : State :=
  let r := r.placed
  let s1 := if (r.cls = 0xE ∨ (r.cls = 0xF ∧ r.cause / 256 % 256 = 1)) ∧ r.fatal ∧ s.traceMode k = 2 then
      (s.trace k 15 r.agent r.pc r.soff r.imgId r.cause 0).traceStop k
    else s
  s1.updCtx k fun x => { x with pending := x.pending ++ [r] }

/-- The context is frozen: a record waits or some notice is not consumed (R367). -/
def State.frozen (s : State) (k : Nat) : Bool :=
  decide ((s.ctx k).pending ≠ []) || decide ((s.ctx k).ring.notices ≠ [])

/-- Device physical address of a record slot of a context (R366; log 3). -/
def faultSlotPa (k slot : Nat) : Nat := Config.faultRing k + 64 * slot

/-- Write one record into its slot in HBM, and its notice (R366); with every slot held the fault is not recorded. -/
def State.writeRec (s : State) (k : Nat) (r : FaultRec) : State :=
  let x := s.ctx k
  if 256 ≤ x.ring.notices.length then s.setCtx k { x with ring := { x.ring with lost := true } }
  else
    let slot := x.ring.next % 256
    let s1 := { s.setCtx k { x with ring := { x.ring with
      recs := SMap.put x.ring.recs slot (pack512 (r.bytes x.ring.lost))
      notices := x.ring.notices ++ [(slot, x.evCount)]
      next := x.ring.next + 1
      lost := false } } with mem := s.mem.writeBytes (faultSlotPa k slot) (r.bytes x.ring.lost) }
    let s2 := s1.trace k 6 r.agent r.pc r.soff r.imgId (faultSlotPa k slot) 0
    s2.postEvent k (eventEntry 2 r.image (faultSlotPa k slot) 0)

/-- Insert a record before the first one of greater AGENT. -/
def insertRec (r : FaultRec) : List FaultRec → List FaultRec
  | [] => [r]
  | x :: xs => if r.agent < x.agent then r :: x :: xs else x :: insertRec r xs

/-- Records in increasing AGENT order, equals in order of detection (R366). -/
def sortRecs (l : List FaultRec) : List FaultRec := l.foldl (fun acc r => insertRec r acc) []

/-- Write the listed records. -/
def State.writeRecs (s : State) (k : Nat) : List FaultRec → State
  | [] => s
  | r :: rs => (s.writeRec k r).writeRecs k rs

/-- The tick ends: write the records detected in it (R366). -/
def State.flushRecs (s : State) (k : Nat) : State :=
  (s.updCtx k fun x => { x with pending := [] }).writeRecs k (sortRecs (s.ctx k).pending)

/-- Some record of this tick is still to be written. -/
def State.recsPending (s : State) : Bool := s.ctxs.any fun e => decide (e.2.pending ≠ [])

/-- Every context's records are written. -/
def State.flushAll (s : State) : State := (List.range 4).foldl State.flushRecs s

/-! ## Graph entries -/

def State.dep (s : State) (d e : Nat) : DepEntry := SMap.get .free (s.die d).deps e
def State.setDep (s : State) (d e : Nat) (x : DepEntry) : State :=
  let y := s.die d
  s.setDie d { y with deps := if x = .free then SMap.del y.deps e else SMap.put y.deps e x }

/-- The node entry at a place, if one stands there. -/
def State.node? (s : State) (d e : Nat) : Option NodeEntry :=
  match s.dep d e with
  | .node n => some n
  | _ => none

/-- The launch entry at a place, if one stands there. -/
def State.launch? (s : State) (d e : Nat) : Option LaunchEntry :=
  match s.dep d e with
  | .launch l => some l
  | _ => none

/-- A node handle (R192). -/
def nodeHandle (d e : Nat) : Nat := d % 4 * 4096 + e % 4096

/-- The graph image of a node, for its notices. -/
def State.imageOf (s : State) (d e : Nat) : Nat :=
  match s.node? d e with
  | some n => ((s.launch? n.home n.launch).map (·.image)).getD 0
  | none => 0

/-- The node of a core, if it runs one. -/
def State.coreNode? (s : State) (n : Nat) : Option NodeEntry :=
  let c := s.core n
  match s.node? c.nodeDie c.nodeEntry with
  | some x => if n ∈ x.cores then some x else none
  | none => none

/-- NODE of a core (R192). -/
def Core.handle (c : Core) : Nat := nodeHandle c.nodeDie c.nodeEntry

/-! ## Launch requests (R321, R396) -/

/-- A record with the fields of a graph engine of a die. -/
def State.engineRec (s : State) (k die cls sub node : Nat) (fatal paused : Bool) (addr : Option Nat) (restart image : Nat) :
    FaultRec :=
  ⟨s.gtc, agentWord 8 die 0, node, k, fatal, paused, addr, causeWord false cls (sub * 256), 0, 0xFFFFFFFF, 0, restart, image, 0⟩

/-- A launch request is made on a die: it reads the image's header to find HOME. A recoverable fault holds the request
until the freeze lifts; a fatal one drops it, and its GLAUNCH completes (R321, R396, R403). -/
def State.requestLaunch (s : State) (die k image : Nat) (arg : Word) (gdone win : Option Nat) : State :=
  match s.uncopied.loadEx k image 64 with
  | .ok bs => { s with reqs := s.reqs ++ [⟨(bs.getD 7 0).toNat % 4, (bs.getD 6 0).toNat, k, image, arg, gdone, win⟩] }
  | .error f =>
    let s1 := s.report k (s.engineRec k die f.cls f.sub 0x3FFF f.fatal (!f.fatal) (some f.addr) 0xFFFF image)
    if f.fatal then (match gdone with | none => s1 | some id => s1.finishCmd id)
    else s1.updCtx k fun x => { x with heldReqs := x.heldReqs ++ [⟨die, 0, k, image, arg, gdone, win⟩] }

/-- Requests for each NEXT image of a completed graph. -/
def State.requestAll (s : State) (die k : Nat) (arg : Word) : List Nat → State
  | [] => s
  | i :: r => (s.requestLaunch die k i arg none none).requestAll die k arg r

/-! ## Graph completion (R325) -/

/-- Complete the listed commands. -/
def State.finishCmds (s : State) : List Nat → State
  | [] => s
  | i :: r => (s.finishCmd i).finishCmds r

/-- Free the listed node entries; messages still under way to one of them are discarded. -/
def State.freeNodes (s : State) : List (Nat × Nat) → State
  | [] => s
  | (d, e) :: r =>
    State.freeNodes { s.setDep d e .free with
      msgs := s.msgs.filter fun m => !(decide (m.dst = d) && decide (m.entry = e)) } r

/-- The status word of a graph (R325, R395). -/
def LaunchEntry.statusWord (l : LaunchEntry) : Nat :=
  l.hdr.nnodes % 65536 * 2 ^ 48 + l.state % 256 * 2 ^ 16 + l.flags.toNat

/-- Write a graph's status word as a presence-filling write; a fault is reported and leaves it unwritten (R325, R405). -/
def State.writeStatus (s : State) (home : Nat) (l : LaunchEntry) : State :=
  if l.hdr.status = 0 ∨ l.hdr.status % 8 ≠ 0 then s
  else
    let w := BitVec.ofNat 64 l.statusWord
    match (match translate (s.pages l.ctx) l.hdr.status Need.pwrite with
      | .error f => Except.error f
      | .ok pa => s.fillNow l.hdr.status pa w) with
    | .ok s' => s'
    | .error f => s.report l.ctx (s.engineRec l.ctx home f.cls f.sub 0x3FFF false false (some f.addr) 0 l.image)

/-- Steps 1 to 5 of R325; a graph that did not complete normally makes no NEXT request (R370). -/
def State.completeGraph (s : State) (home e : Nat) (l : LaunchEntry) : State :=
  let s1 := s.writeStatus home l
  let s2 := if l.state = 0 then s1.requestAll home l.ctx l.arg l.hdr.next else s1
  let s3 := s2.finishCmds l.gdone
  let s4 := s3.postEvent l.ctx (eventEntry 1 l.image l.statusWord s.gtc.toNat)
  let s5 := (s4.freeNodes l.nodes).setDep home e .free
  s5.updCtx l.ctx fun x => { x with
    regions := x.regions.map fun p => if p.2.owner = (home, e) then (p.1, { p.2 with copy := [] }) else p }

/-- A node has finished: DONE or CANCELLED. -/
def State.nodeOver (s : State) (p : Nat × Nat) : Bool :=
  match s.node? p.1 p.2 with
  | some n => decide (n.st = .done) || decide (n.st = .cancelled)
  | none => true

/-- A graph whose every node has finished completes (R325, R370). -/
def State.checkGraph (s : State) (home e : Nat) : State :=
  match s.launch? home e with
  | none => s
  | some l => if l.launched && l.nodes.all s.nodeOver then s.completeGraph home e l else s

/-- Send a message for each successor of a node (R322, R370). -/
def State.sendSucc (s : State) (d : Nat) (n : NodeEntry) (err : Bool) (cause : Nat) : State :=
  match s.launch? n.home n.launch with
  | none => s
  | some l => { s with msgs := s.msgs ++ n.nr.succ.filterMap fun i =>
      (l.nodes[i]?).map fun p => ⟨d, p.1, p.2, 1, err, cause⟩ }

/-! ## Stopping a runner -/

/-- Withdraw the deferrals of a core (R118, R369). -/
def State.withdraw (s : State) (n : Nat) : State :=
  { s with deferrals := s.deferrals.filter fun d => match d.who with
    | .pld c _ => decide (c ≠ n)
    | .plda c _ _ => decide (c ≠ n) }

/-- A core falls idle; what is outstanding on it is dropped. -/
def State.vacate (s : State) (n : Nat) : State :=
  let s2 := s.withdraw n
  { (s2.updCore n fun c => { c with
      run := .idle, fused := false, openBatch := [], accs := [], holdAcc := [], holdAll := [], holdStore := []
      holdTake := [], group := none, served := [], heldBy := none, cfgBy := none, pacer := {}, ports := [], banks := [], fab := {}, drained := false
      preempt := false, stopMask := none, late := 0, again := [], entry := false, pausedPorts := [], ldc := 0, stc := 0, cpc := 0, tlc := 0
      btc := 0, gang := [], mcIssued := 0, lastOf := [], gangArrivals := 0, seen := [] }) with
    cmds := s2.cmds.filter fun k => decide (k.owner ≠ Owner.core n) }

/-- A runner leaves its core: windows are written back, and the fabric load ends (R22, R104, R369). -/
def State.leaveCore (s : State) (n : Nat) : State := ((s.flushCore n).endLoad n).vacate n

/-- Every listed core. -/
def State.leaveCores (s : State) : List Nat → State
  | [] => s
  | n :: r => (s.leaveCore n).leaveCores r

/-- Free save slots (R329). -/
def State.freeSlots (s : State) (k : Nat) : List Nat → State
  | [] => s
  | i :: r => (s.updCtx k fun x => { x with slots := SMap.del x.slots i }).freeSlots k r

/-- Cancel a node (R369, R370, R395): it stops, passes error tokens to its successors, and may complete its graph. -/
def State.cancelNode (s : State) (d e cause : Nat) : State :=
  match s.node? d e with
  | none => s
  | some n =>
    if n.st = .done ∨ n.st = .cancelled then s
    else
      let s1 := if n.st = .run then s.leaveCores n.cores else s
      let s2 := { s1 with cmds := s1.cmds.filter fun k => decide (k.owner ≠ Owner.node d e) }
      let s3 := s2.freeSlots n.ctx n.slots
      let s4 := s3.setDep d e (.node { n with st := .cancelled, cores := [], slots := [], fixed := [], preemptAt := none })
      let s5 := match s4.launch? n.home n.launch with
        | none => s4
        | some l => s4.setDep n.home n.launch (.launch { l with state := if l.state = 0 then cause else l.state })
      let s6 := s5.trace n.ctx 4 (agentWord 8 d 0) 0 0xFFFFFFFF 0 (nodeHandle d e) cause
      (s6.sendSucc d n true cause).checkGraph n.home n.launch

/-- Cancel the node a core runs; a core that runs no node of a table is only stopped. -/
def State.cancelCore (s : State) (n cause : Nat) : State :=
  match s.coreNode? n with
  | some _ => s.cancelNode (s.core n).nodeDie (s.core n).nodeEntry cause
  | none => s.leaveCore n

/-! ## Faults of agents -/

/-- The three outcomes of a fault record (R376). -/
inductive Sev where
  | fatal
  | paused
  | reported
deriving DecidableEq, Repr

/-- A record of an agent of core n (kinds 0–5). -/
def State.coreRec (s : State) (n kind unit cls code : Nat) (sev : Sev) (addr : Option Nat) (soff opc restart : Nat) : FaultRec :=
  let c := s.core n
  ⟨s.gtc, agentWord kind n unit, (if (s.coreNode? n).isSome then c.handle else 0x3FFF), c.ctx, decide (sev = .fatal),
    decide (sev = .paused), addr, causeWord c.hm cls code, c.pc.toNat, soff, opc, restart, s.imageOf c.nodeDie c.nodeEntry,
    c.fab.imgId.toNat⟩

/-- A fault of an agent of core n: the record, and for a fatal fault the cancellation of the node (R376). -/
def State.coreFault (s : State) (n kind unit cls code : Nat) (sev : Sev) (addr : Option Nat) (soff opc restart : Nat) : State :=
  let s1 := s.report (s.core n).ctx (s.coreRec n kind unit cls code sev addr soff opc restart)
  if sev = .fatal then s1.cancelCore n 1 else s1

/-- Class of a command's faults (R377). -/
def cmdClass (opc : Nat) : Nat :=
  if opc < 0x40 then 3 else if opc < 0x50 then 8 else if opc < 0x60 then 9 else if opc < 0x70 then 0xB
  else if opc < 0x80 then 0xA else if opc < 0x90 then 0xC else if opc < 0xA0 then 0xD else 3

/-- The die whose engines serve a command's issuer. -/
def Cmd.die (k : Cmd) : Nat :=
  match k.owner with
  | .core n => n / 16
  | .node d _ => d

/-- KIND of the agent that executes a command (R365); COPY forms are copy channels. -/
def Cmd.kind (k : Cmd) : Nat :=
  let o := k.opc.toNat
  if 0x10 ≤ o ∧ o < 0x20 then 1 else if o < 0x30 then 0 else if o < 0x40 then 5 else if o < 0x45 then 2 else if o < 0x50 then 4
  else if o < 0x60 then 6 else if o < 0x70 then 11 else if o < 0x80 then 7 else if o < 0x90 then 9
  else if o < 0xA0 then 8 else 0

/-- LOC of the agent that executes a command (R365): the core, the die, HD, or the merging stack of the die. -/
def Cmd.loc (k : Cmd) : Nat :=
  if k.kind ≤ 5 then (match k.owner with | .core n => n | .node d _ => d)
  else if k.kind = 9 then 4
  else if k.kind = 11 then 2 * k.die
  else k.die

/-- UNIT of a command's agent: its copy channel, the port or the bank it names (R365). -/
def Cmd.unit (k : Cmd) : Nat :=
  let o := k.opc.toNat
  if 0x30 ≤ o ∧ o < 0x40 then k.w3.toNat / 2 ^ 30
  else if 0x10 ≤ o ∧ o ≤ 0x12 then k.w3.toNat / 2 ^ 28
  else if 0x40 ≤ o ∧ o ≤ 0x46 then k.w3.toNat / 2 ^ 31 else 0

/-- A fault of a command (R377): the record, and the cancellation of its node or its pause. -/
def State.cmdFaultAs (s : State) (k : Cmd) (kind loc : Nat) (cls sub : Nat) (sev : Sev) (addr : Option Nat) (restart : Nat) : State :=
  let node := match k.owner with
    | .core n => if (s.coreNode? n).isSome then (s.core n).handle else 0x3FFF
    | .node d e => nodeHandle d e
  let image := match k.owner with
    | .core n => s.imageOf (s.core n).nodeDie (s.core n).nodeEntry
    | .node d e => s.imageOf d e
  let hm := match k.owner with | .core n => (s.core n).hm | .node _ _ => false
  let img := match k.owner with | .core n => (s.core n).fab.imgId.toNat | .node _ _ => 0
  let s1 := s.report k.ctx ⟨s.gtc, agentWord kind loc k.unit, node, k.ctx, decide (sev = .fatal), decide (sev = .paused), addr,
    causeWord hm cls (sub * 256 + k.opc.toNat), k.pc.toNat, k.soff.toNat, k.opc.toNat, restart, image, img⟩
  match sev with
  | .fatal => (match k.owner with | .core n => s1.cancelCore n 1 | .node d e => s1.cancelNode d e 1)
  | .paused => s1.updCmd k.id fun j => { j with state := .paused }
  | .reported => s1

/-- A fault of a command by its own agent. -/
def State.cmdFault (s : State) (k : Cmd) (sub : Nat) (addr : Option Nat) (restart : Nat) : State :=
  s.cmdFaultAs k k.kind k.loc (cmdClass k.opc.toNat) sub .fatal addr restart

/-- A memory fault of a command: recoverable ones pause it (R401–R403); an access that only waits is made again (R409). -/
def State.cmdMemFault (s : State) (k : Cmd) (f : MemFault) (restart : Nat) : State :=
  if f.waits then s else s.cmdFaultAs k k.kind k.loc f.cls f.sub (if f.fatal then .fatal else .paused) (some f.addr) restart

/-- A memory fault of a scalar access of core n (R401, R403): a recoverable one pauses the core at the instruction. -/
def State.scalarMemFault (s : State) (n : Nat) (f : MemFault) (soff : BitVec 32) (opc : BitVec 8) : State :=
  if f.waits then s else
  let s1 := s.coreFault n 0 0 f.cls (f.sub * 256 + opc.toNat) (if f.fatal then .fatal else .paused) (some f.addr) soff.toNat 0 0
  if f.fatal then s1 else s1.updCore n fun c => { c with run := .paused }

/-! ## Taking an exception and returning from one (R184, R185, R364) -/

/-- Enter the trap handler: EPC, CAUSE and SOFF (R184). -/
def Core.enterHandler (c : Core) (epc : BitVec 32) (cls : BitVec 8) (code : BitVec 16) : Core :=
  { c with epc := epc, cls := cls, code := code, hm := true, soff := 0, entry := false, group := none }

/-- Leave the trap handler (R185). -/
def Core.leaveHandler (c : Core) : Core := { c with hm := false, soff := c.epc, group := none }

/-- A program-detected fault of core n, or a TRAP: the handler is entered, unless HANDLER is 0, the core is in handler
mode, or the use is always reported; then a fatal record cancels the node (R364, R378). -/
def State.exception (s : State) (n : Nat) (epc : BitVec 32) (cls : BitVec 8) (code : BitVec 16) (always : Bool) (opc : Nat) : State :=
  let c := s.core n
  if always || c.hm || decide (c.handler = 0#64) then s.coreFault n 0 0 cls.toNat code.toNat .fatal none c.soff.toNat opc 0
  else s.setCore n (c.enterHandler epc cls code)

/-- A reserved use of class 0x02 by a command of an opcode, or by an instruction, whose opcode is 0 here (R365, R378). -/
def State.reservedAs (s : State) (n code opc : Nat) : State :=
  s.exception n (s.core n).soff 2#8 (BitVec.ofNat 16 code) (decide (code = 3) || decide (code = 4) || decide (code = 9)) opc

/-- A reserved use by an instruction. -/
def State.reservedUse (s : State) (n code : Nat) : State := s.reservedAs n code 0

/-- An illegal encoding of class 0x01 (R373). -/
def State.illegal (s : State) (n sub op opc : Nat) : State :=
  s.exception n (s.core n).soff 1#8 (BitVec.ofNat 16 (sub * 256 + op)) false opc

/-! ## Issue -/

/-- The control core issues: it runs, no HURDLE holds it, no CFG command waits to install, it has not stopped at a safe
point (R167, R203, R221, R368). -/
def Core.issues (c : Core) : Bool :=
  decide (c.run = .running) && decide (c.heldBy = none) && decide (c.cfgBy = none) && decide (c.stopMask = none)

/-- Move past an instruction of k words. -/
def Core.next (c : Core) (k : Nat) : Core := { c with soff := c.soff + BitVec.ofNat 32 k, entry := false }

def State.advance (s : State) (n k : Nat) : State := s.updCore n (·.next k)

/-- Issue of a scalar instruction on the core whose turn it is (R167, R378): reserved register fields are class 0x02, a
value still to arrive holds the instruction, and otherwise `k` acts on the core's number and contents. -/
def State.issue (s : State) (fields reads : List Reg) (masks : List Nat) (k : Nat → Core → State) :
    Host.Outcome State Fault Refusal :=
  let n := s.cur
  let c := s.core n
  if !c.issues then .next s
  else if fields.any fun r => decide (58 ≤ r.toNat) then .next (s.reservedUse n 1)
  else if (reads.any fun r => s.regPending n r.toNat) || (masks.any fun m => s.maskPending n m) then .next s
  else .next (k n c)

end Sys2Proof.Machine
end

