-- ==== Sys2Proof/Machine/Operands.lean ====
section
/-! DEFINITION. Operand forms of the control core (R146–R155, R169–R182): immediates, the arithmetic of the ALU forms,
bit fields, effective addresses, and the streams instructions are fetched from. -/

namespace Sys2Proof.Machine

/-! ## Immediates (R150) -/

def imm14 (i : BitVec 14) : Word := i.signExtend 64
def uimm14 (i : BitVec 14) : Word := i.zeroExtend 64
def imm20 (i : BitVec 20) : Word := i.signExtend 64
def imm13 (i : BitVec 13) : Word := i.signExtend 64

/-! ## ALU results (R169, R170, R172) -/

/-- Bits 127:64 of the signed product. -/
def mulhW (a b : Word) : Word := BitVec.ofInt 64 (a.toInt * b.toInt / 2 ^ 64)

/-- Bits 127:64 of the unsigned product. -/
def mulhuW (a b : Word) : Word := BitVec.ofNat 64 (a.toNat * b.toNat / 2 ^ 64)

/-- Signed quotient truncated toward zero; all ones by zero (R170). -/
def divW (a b : Word) : Word := if b = 0#64 then BitVec.allOnes 64 else BitVec.ofInt 64 (a.toInt.tdiv b.toInt)

def divuW (a b : Word) : Word := if b = 0#64 then BitVec.allOnes 64 else BitVec.ofNat 64 (a.toNat / b.toNat)

/-- Signed remainder with the sign of the dividend; the dividend by zero (R170). -/
def remW (a b : Word) : Word := if b = 0#64 then a else BitVec.ofInt 64 (a.toInt.tmod b.toInt)

def remuW (a b : Word) : Word := if b = 0#64 then a else BitVec.ofNat 64 (a.toNat % b.toNat)

/-- Shift amount: the low six bits (R169). -/
def shamt (b : Word) : Nat := b.toNat % 64

def minW (a b : Word) : Word := if a.toInt ≤ b.toInt then a else b
def maxW (a b : Word) : Word := if a.toInt ≤ b.toInt then b else a
def minuW (a b : Word) : Word := if a.toNat ≤ b.toNat then a else b
def maxuW (a b : Word) : Word := if a.toNat ≤ b.toNat then b else a

/-- Leading zero bits of a value of w bits. -/
def clzNat (w x : Nat) : Nat := if x = 0 then w else w - 1 - Nat.log2 x

/-- Trailing zero bits, at most the fuel. -/
def ctzNat : Nat → Nat → Nat
  | 0, _ => 0
  | f + 1, x => if x % 2 = 1 then 0 else 1 + ctzNat f (x / 2)

/-- One bits among the low `fuel` bits. -/
def popcNat : Nat → Nat → Nat
  | 0, _ => 0
  | f + 1, x => x % 2 + popcNat f (x / 2)

def clzW (a : Word) : Word := BitVec.ofNat 64 (clzNat 64 a.toNat)
def ctzW (a : Word) : Word := BitVec.ofNat 64 (ctzNat 64 a.toNat)
def popcW (a : Word) : Word := BitVec.ofNat 64 (popcNat 64 a.toNat)

/-- SignExtend(a, w) and ZeroExtend(a, w) to 64 bits (R6). -/
def sextW (a : Word) (w : Nat) : Word := BitVec.ofInt 64 (sx a.toNat w)
def zextW (a : Word) (w : Nat) : Word := BitVec.ofNat 64 (a.toNat % 2 ^ w)

/-- a + b × scale (R151). -/
def leaW (scale : Nat) (a b : Word) : Word := a + b * BitVec.ofNat 64 scale

/-- BFXU: width bits from pos; bits of a above 63 read as zero (R172). -/
def bfxuW (a : Word) (width pos : Nat) : Word := BitVec.ofNat 64 (a.toNat / 2 ^ pos % 2 ^ width)

/-- BFX: the field, sign-extended (R172). -/
def bfxW (a : Word) (width pos : Nat) : Word := BitVec.ofInt 64 (sx (a.toNat / 2 ^ pos) width)

/-- BFI: the field bits at or above 64 are dropped (R172). -/
def bfiW (old a : Word) (width pos : Nat) : Word :=
  let m := BitVec.ofNat 64 ((2 ^ width - 1) * 2 ^ pos)
  (old &&& ~~~m) ||| ((a <<< pos) &&& m)

/-! ## Effective addresses (R176, R178) -/

/-- Size in bytes of a size code (R149). -/
def sizeOf (s : BitVec 2) : Nat := 2 ^ s.toNat

/-- Base plus scaled offset, MEM form. -/
def eaMem (base : Word) (off : BitVec 14) (n : Nat) : Word := base + off.signExtend 64 * BitVec.ofNat 64 n

/-- Base plus index, MEMX form. -/
def eaMemx (base idx : Word) (n : Nat) (c : BitVec 1) : Word := base + idx * BitVec.ofNat 64 (if c = 0#1 then n else 1)

/-- Base plus offset, presence form. -/
def eaPres (base : Word) (off : BitVec 12) : Word := base + off.signExtend 64 * 8#64

/-- Bits 63:56 of an effective address are zero (R94). -/
def eaOk (ea : Word) : Bool := decide (ea.toNat < 2 ^ 56)

/-! ## Streams (R144, R145, R181, R186, R373) -/

/-- Base address and length in words of the stream being executed. -/
def Core.stream (c : Core) : Nat × Nat :=
  if c.hm then (c.handler.toNat, c.hlen) else (c.pc.toNat + c.record.strmOff, c.record.strmLen)

/-- Part of a store is performed in the aligned group of a physical address, and part is not. -/
def Access.tears (a : Access) (pa : Nat) : Bool :=
  (decide (a.kind = .store) || decide (a.kind = .mstore))
    && (let left := (a.pas.zip (List.range a.pas.length)).filterMap fun p =>
          if p.1 / 16 = pa / 16 then some (a.left.any fun q => decide (q.1 ≤ p.2 ∧ p.2 < q.1 + q.2)) else none
        left.any (· = true) && !left.all (· = true))

/-- Memory as a fetch of a group sees it: not while part of a store to the group is performed (R145). -/
def State.readGroup (s : State) (k va : Nat) : Except MemFault (List Byte) :=
  match translate (s.pages k) va Need.fetch with
  | .error f => .error f
  | .ok pa => if s.cores.any fun e => e.2.accs.any (·.tears pa) then .error (.again va) else s.loadEx k va 16

/-- The aligned 16-byte group that holds word idx of the stream, fetched indivisibly (R145): the group fetched last, or
what memory holds at its fetch. Which groups a store to the stream is seen in the rule does not define; here it is seen in
each group fetched after it (log 60). -/
def State.fetchGroup (s : State) (n idx : Nat) : Except MemFault (List Byte) :=
  let c := s.core n
  match c.group with
  | some (g, bs) => if g = idx / 4 then .ok bs else s.readGroup c.ctx (c.stream.1 + idx / 4 * 16)
  | none => s.readGroup c.ctx (c.stream.1 + idx / 4 * 16)

/-- The group that holds word idx is the one fetched last. -/
def State.keepGroup (s : State) (n idx : Nat) : State :=
  match s.fetchGroup n idx with
  | .ok bs => s.updCore n fun c => { c with group := some (idx / 4, bs) }
  | .error _ => s

/-- The group is one 128-bit command (R144). -/
def groupIsCmd (bs : List Byte) : Bool := decide ((bs.getD 3 0).toNat / 16 = 0xF)

/-- A branch target outside the stream, or on W1–W3 of a command (R373). A group that cannot be fetched faults when it is
reached (R403). -/
def State.badTarget (s : State) (n : Nat) (t : Int) : Bool :=
  let c := s.core n
  if t < 0 ∨ (c.stream.2 : Int) ≤ t then true
  else if t % 4 = 0 then false
  else match s.fetchGroup n t.toNat with
    | .ok bs => groupIsCmd bs
    | .error _ => false

/-- The group of a branch target cannot be fetched yet: the branch waits for it (R145, R409). -/
def State.targetWaits (s : State) (n : Nat) (t : Int) : Bool :=
  decide (0 ≤ t ∧ t < ((s.core n).stream.2 : Int) ∧ t % 4 ≠ 0)
    && (match s.fetchGroup n t.toNat with
      | .ok _ => false
      | .error f => f.waits)

/-- Branch target of a signed word offset (R181). -/
def branchTarget (soff : BitVec 32) (off : Int) : Int := (soff.toNat : Int) + off

end Sys2Proof.Machine
end

