-- ==== Sys2Proof/Machine/Flags.lean ====
section
/-! DEFINITION. Every flag computation of the control core: the conditions of compares (R150, R173), the predicate
operations (R174), and FSTAT (R79, R80). -/

namespace Sys2Proof.Machine

/-- Condition codes of CMP and CMPI (R150): 0 EQ, 1 NE, 2 LT, 3 LE, 4 LTU, 5 LEU. -/
def condHolds (cc : Nat) (a b : Word) : Bool :=
  match cc with
  | 0 => decide (a = b)
  | 1 => decide (a ≠ b)
  | 2 => decide (a.toInt < b.toInt)
  | 3 => decide (a.toInt ≤ b.toInt)
  | 4 => decide (a.toNat < b.toNat)
  | _ => decide (a.toNat ≤ b.toNat)

/-- 1 or 0 as a register value (R146). -/
def bit64 (b : Bool) : Word := if b then 1#64 else 0#64

/-- Write predicate i, and ll with the same value as 1 or 0 (R146, R173, R174, R194). -/
def State.writePred (s : State) (n i : Nat) (v : Bool) : State := (s.updCore n (·.setPred i v)).writeReg n 56 (bit64 v)

/-- FSTAT as MFS reads it (R79). -/
def Core.fstat (c : Core) : Word := BitVec.ofNat 64 (c.lflags.toNat * 256 + c.flags.toNat)

/-- Raise flags in bits 5:0 and in LFLAGS (R80). -/
def Core.raise (c : Core) (f : Flags) : Core := { c with flags := c.flags ||| f, lflags := c.lflags ||| f }

def State.raise (s : State) (n : Nat) (f : Flags) : State := if f = 0#6 then s else s.updCore n (·.raise f)

/-- MTS to FSTAT: bits 13:8 and 5:0 (R193). -/
def Core.setFstat (c : Core) (v : Word) : Core :=
  { c with flags := BitVec.ofNat 6 v.toNat, lflags := BitVec.ofNat 6 (v.toNat / 256) }

/-- CAUSE as MFS reads it (R187). -/
def Core.causeReg (c : Core) : Word := BitVec.ofNat 64 (causeWord c.hm c.cls.toNat c.code.toNat)

/-- MTS to CAUSE: bits 23:0, HM unchanged (R187, R193). -/
def Core.setCause (c : Core) (v : Word) : Core :=
  { c with code := BitVec.ofNat 16 v.toNat, cls := BitVec.ofNat 8 (v.toNat / 65536) }

/-- GANG (R23). -/
def Core.gangReg (c : Core) : Word := BitVec.ofNat 64 (c.gangBase % 16 * 256 + c.sizeM1 % 16 * 16 + c.rank % 16)

end Sys2Proof.Machine
end

