-- ==== Sys2Proof/Machine/Fab.lean ====
section
/-! DEFINITION. The elastic fabric (03_fabric.md, R39–R66): configuration words, channels as registers and queues with one
source each, forks, segment counters, anti-tokens, hops, and iteration boundaries.

Every place a token can stand has a number: router outputs 4r + d, element outputs 1024 + r, operator outputs 1280 + r (T)
and 1536 + r (F), input registers 2048 + 8r + k (a, b, c, predicate, operator inputs CA and CB), island inputs
4096 + 2n + i, OUT and TAKE ports 4160 + p, and as sources IN and FEED ports 4192 + p, and the gang edge links that come
in at a side and position 4224 + 16 · side + position. -/

namespace Sys2Proof.Machine

/-! ## Places -/

def outPlace (r d : Nat) : Nat := 4 * r + d
def elemPlace (r : Nat) : Nat := 1024 + r
def ctlT (r : Nat) : Nat := 1280 + r
def ctlF (r : Nat) : Nat := 1536 + r
def inPlace (r k : Nat) : Nat := 2048 + 8 * r + k
def islePlace (n i : Nat) : Nat := 4096 + 2 * n + i
def sinkPlace (p : Nat) : Nat := 4160 + p
def feedPlace (p : Nat) : Nat := 4192 + p
def linkPlace (side pos : Nat) : Nat := 4224 + 16 * side + pos
/-- The place is a gang edge link. -/
def isLink (x : Nat) : Bool := decide (4224 ≤ x ∧ x < 4288)
/-- No source. -/
def nowhere : Nat := 65535

/-! ## Tokens (R39) -/

def Token.isData (t : Token) : Bool := decide (t.kind = 0#5)
def Token.ofData (d : BitVec 32) : Token := ⟨0#5, d⟩
/-- Length prefix of level l. -/
def Token.prefixOf (l count : Nat) : Token := ⟨BitVec.ofNat 5 (4 + l % 4), BitVec.ofNat 32 count⟩
/-- Rank marker n. -/
def Token.marker (n : Nat) : Token := ⟨BitVec.ofNat 5 (8 + n % 8), 0#32⟩
/-- Level of a length prefix. -/
def Token.level? (t : Token) : Option Nat := if t.kind.toNat / 4 = 1 then some (t.kind.toNat % 4) else none
/-- Rank of a marker. -/
def Token.rank? (t : Token) : Option Nat := if t.kind.toNat / 8 = 1 then some (t.kind.toNat % 8) else none

/-! ## Words (R161, R162) -/

def Core.word (c : Core) (r : Nat) : Nat := (SMap.get 0#64 c.fab.elems r).toNat
def Core.route (c : Core) (r : Nat) : Nat := (SMap.get 0#64 c.fab.routes r).toNat

def wOp (w : Nat) : Nat := w / 2 ^ 56
def wFmt (w : Nat) : Nat := w / 2 ^ 52 % 16
def wE (w : Nat) : Bool := w.testBit 51
def wSegi (w : Nat) : Bool := w.testBit 50
def wSego (w : Nat) : Bool := w.testBit 49
/-- Source link of input k: a, b, c, predicate. -/
def wSrc (w k : Nat) : Nat := w / 2 ^ (46 - 2 * k) % 4
def wPmode (w : Nat) : Nat := w / 2 ^ 38 % 4
def wSat (w : Nat) : Bool := w.testBit 37
def wImmb (w : Nat) : Bool := w.testBit 36
def wRm (w : Nat) : RMode := RMode.ofBits (BitVec.ofNat 2 (w / 2 ^ 32))
def wImm (w : Nat) : Nat := w % 2 ^ 32

def rCtl (w : Nat) : Nat := w / 2 ^ 61
/-- Source code of operator input CA (0) or CB (1). -/
def rIn (w k : Nat) : Nat := w / 2 ^ (58 - 3 * k) % 8
/-- Source code of output d: N, E, S, W. -/
def rOut (w d : Nat) : Nat := w / 2 ^ (52 - 3 * d) % 8
def rClvl (w : Nat) : Nat := w / 2 ^ 40 % 8
def rCinit (w : Nat) : Nat := w % 2 ^ 32

/-- The operation takes input b as an operand (R231). -/
def opHasB (op : Nat) : Bool :=
  decide (op ∈ [0x01, 0x02, 0x03, 0x04, 0x05, 0x06, 0x09, 0x0A, 0x0B, 0x0D, 0x0E, 0x0F, 0x10, 0x11, 0x12, 0x13, 0x14, 0x15,
    0x16, 0x18, 0x19, 0x1A, 0x1B, 0x20, 0x21, 0x22, 0x23, 0x24, 0x25, 0x30, 0x31, 0x32, 0x33, 0x60, 0x61, 0x62, 0x71, 0x72,
    0x74, 0x80, 0x81])

/-- The operation takes input c (R231). -/
def opHasC (op : Nat) : Bool := decide (op ∈ [0x04, 0x16, 0x18, 0x19, 0x23, 0x60, 0x72])

/-- AUTO of a memory-port element (R242). -/
def wAuto (w : Nat) : Bool := decide (wOp w = 0x70 ∨ wOp w = 0x71) && w.testBit 4

/-- Input k of an element is a channel: operands, then the predicate (R230, R242). -/
def usesInput (w k : Nat) : Bool :=
  let op := wOp w
  if op = 0 then false
  else match k with
    | 0 => true
    | 1 => opHasB op && !wImmb w && !(decide (op = 0x71) && wAuto w)
    | 2 => opHasC op && (decide (op ≠ 0x72) || decide (wImm w / 32 % 16 = 9))
    | 3 => decide (wPmode w ≠ 0)
    | _ => false

/-- Operand inputs of an element that are channels, in order. -/
def operands (w : Nat) : List Nat := [0, 1, 2].filter (usesInput w)

/-- Latency L of an operation (R231). -/
def opLatency (w : Nat) : Nat :=
  let op := wOp w
  if op = 0x03 ∨ op = 0x04 ∨ op = 0x23 ∨ op = 0x41 then 4
  else if op = 0x18 ∨ op = 0x19 ∨ (0x20 ≤ op ∧ op ≤ 0x22) then 3
  else if op = 0x28 ∨ op = 0x29 then 8
  else if op = 0x2A ∨ op = 0x2B then 10
  else if op = 0x40 ∨ op = 0x42 then 2
  else if op = 0x50 ∧ 7 ≤ wFmt w then 3
  else 1

def isMemOp (op : Nat) : Bool := decide (0x70 ≤ op ∧ op ≤ 0x74)

/-- Results an element may hold (R42). -/
def elemRoom (w : Nat) : Nat := if isMemOp (wOp w) then 128 else opLatency w + 1

/-! ## Ports at the edge (R160, R202, R207) -/

def Port.role (p : Port) : Nat := p.w3.toNat / 2 ^ 25 % 8
def Port.esz (p : Port) : Nat := p.w3.toNat / 2 ^ 23 % 4
def Port.sx (p : Port) : Bool := p.w3.getLsbD 22
def Port.compat (p : Port) : Bool := p.w3.getLsbD 21
def Port.segl (p : Port) : Nat := p.w3.toNat / 2 ^ 18 % 8
def Port.disc (p : Port) : Bool := p.w3.getLsbD 17
def Port.side (p : Port) : Nat := p.w3.toNat / 2 ^ 15 % 4
def Port.pos (p : Port) : Nat := p.w3.toNat / 2 ^ 11 % 16
def Port.hint (p : Port) : BitVec 2 := BitVec.ofNat 2 (p.w0.toNat / 256)

def Core.port (c : Core) (p : Nat) : Port := SMap.get {} c.ports p
def Core.setPort (c : Core) (p : Nat) (x : Port) : Core := { c with ports := SMap.put c.ports p x }

/-- The edge router of a side and position. -/
def edgeRouter (side pos : Nat) : Nat :=
  match side with
  | 0 => pos
  | 1 => 16 * pos + 15
  | 2 => 240 + pos
  | _ => 16 * pos

/-- The first port of one of two roles attached at a place (R160). That the lowest number wins where two ports of one direction
share a place is the model's (log 88). -/
def Core.portAt (c : Core) (side pos r1 r2 : Nat) : Option Nat :=
  (List.range 16).find? fun p =>
    let x := c.port p
    decide (x.role = r1 ∨ x.role = r2) && decide (x.side = side) && decide (x.pos = pos)

/-- The member, side and position at the other end of the edge link of a member of a gang (R23, R40). -/
def Core.linkEnd (c : Core) (side pos : Nat) : Option (Nat × Nat × Nat) :=
  if c.gang.length < 2 then none else Config.edgeLink c.gang.length c.rank side pos

/-- The source of a router's inbound link: the facing output of a neighbour, or at the edge a port or a gang's edge link. That a
port shuts out the edge link of its place is the model's (log 88). -/
def Core.inbound (c : Core) (r d : Nat) : Nat :=
  let row := r / 16
  let col := r % 16
  let port := fun pos => match c.portAt d pos 1 3 with
    | some p => feedPlace p
    | none => if (c.linkEnd d pos).isSome then linkPlace d pos else nowhere
  match d with
  | 0 => if row = 0 then port col else outPlace (r - 16) 2
  | 1 => if col = 15 then port row else outPlace (r + 1) 3
  | 2 => if row = 15 then port col else outPlace (r + 16) 0
  | _ => if col = 0 then port row else outPlace (r - 1) 1

/-- The router that an output leads to, none at the edge. -/
def neighbour (r d : Nat) : Option Nat :=
  match d with
  | 0 => if r / 16 = 0 then none else some (r - 16)
  | 1 => if r % 16 = 15 then none else some (r + 1)
  | 2 => if r / 16 = 15 then none else some (r + 16)
  | _ => if r % 16 = 0 then none else some (r - 1)

/-! ## Islands' sites (R163) -/

def Core.island (c : Core) (n : Nat) : Nat := (SMap.get 0#64 c.fab.islands n).toNat
def islMode (w : Nat) : Nat := w / 2 ^ 61
def islIn (w i : Nat) : Bool := w.testBit (55 - i)
def islOut (w i : Nat) : Bool := w.testBit (53 - i)
def islSrc (w i : Nat) : Nat := w / 2 ^ (50 - 2 * i) % 4
def islInRouter (w i : Nat) : Nat := w / 2 ^ (40 - 8 * i) % 256
def islOutRouter (w i : Nat) : Nat := w / 2 ^ (24 - 8 * i) % 256

/-! ## Sources and destinations -/

/-- What a 3-bit source code of router r names (R162). -/
def Core.srcCode (c : Core) (r code : Nat) : Nat :=
  match code with
  | 1 => c.inbound r 0
  | 2 => c.inbound r 1
  | 3 => c.inbound r 2
  | 4 => c.inbound r 3
  | 5 => elemPlace r
  | 6 => ctlT r
  | 7 => ctlF r
  | _ => nowhere

/-- The one source of a place. -/
def Core.srcOf (c : Core) (dst : Nat) : Nat :=
  if dst < 1024 then c.srcCode (dst / 4) (rOut (c.route (dst / 4)) (dst % 4))
  else if dst < 2048 then nowhere
  else if dst < 4096 then
    let r := (dst - 2048) / 8
    let k := (dst - 2048) % 8
    if k < 4 then (if usesInput (c.word r) k then c.inbound r (wSrc (c.word r) k) else nowhere)
    else if k < 6 then
      (if rCtl (c.route r) = 0 ∨ (rCtl (c.route r) = 5 ∧ k = 5) then nowhere else c.srcCode r (rIn (c.route r) (k - 4)))
    else nowhere
  else if dst < 4128 then
    let n := (dst - 4096) / 2
    let i := dst % 2
    let w := c.island n
    if islMode w ≠ 0 ∧ islIn w i then c.inbound (islInRouter w i) (islSrc w i) else nowhere
  else if 4160 ≤ dst ∧ dst < 4176 then
    let p := c.port (dst - 4160)
    if p.role = 2 ∨ p.role = 4 then
      (if c.portAt p.side p.pos 2 4 = some (dst - 4160) then outPlace (edgeRouter p.side p.pos) p.side else nowhere)
    else nowhere
  else nowhere

/-- Places near a router that its links and outputs may feed. -/
def placesAt (r : Nat) : List Nat :=
  [outPlace r 0, outPlace r 1, outPlace r 2, outPlace r 3, inPlace r 0, inPlace r 1, inPlace r 2, inPlace r 3,
    inPlace r 4, inPlace r 5]

/-- The router at which a source's branches lie, if inside the array. -/
def Core.forkRouter (c : Core) (src : Nat) : Option Nat :=
  if src < 1024 then neighbour (src / 4) (src % 4)
  else if src < 1280 then some (src - 1024)
  else if src < 1536 then some (src - 1280)
  else if src < 2048 then some (src - 1536)
  else if 4192 ≤ src ∧ src < 4208 then some (edgeRouter (c.port (src - 4192)).side (c.port (src - 4192)).pos)
  else if isLink src then some (edgeRouter ((src - 4224) / 16) (src % 16))
  else none

/-- The destinations of a source; several make a fork (R41, R162). -/
def Core.destsOf (c : Core) (src : Nat) : List Nat :=
  let near := match c.forkRouter src with
    | some r => placesAt r ++ (List.range 32).map (4096 + ·)
    | none => (List.range 16).map sinkPlace
  near.filter fun d => decide (c.srcOf d = src)

/-! ## Queues -/

def Core.queue (c : Core) (x : Nat) : List Slot :=
  if 4192 ≤ x ∧ x < 4208 then (c.port (x - 4192)).fifo.map .tok
  else if 4160 ≤ x ∧ x < 4176 then (c.port (x - 4160)).fifo.map .tok
  else SMap.get [] c.fab.q x

/-- The tokens among slots. -/
def slotToks : List Slot → List Token
  | [] => []
  | .tok t :: r => t :: slotToks r
  | .wait _ :: r => slotToks r

def Core.setQueue (c : Core) (x : Nat) (q : List Slot) : Core :=
  if 4192 ≤ x ∧ x < 4208 then c.setPort (x - 4192) { c.port (x - 4192) with fifo := slotToks q }
  else if 4160 ≤ x ∧ x < 4176 then c.setPort (x - 4160) { c.port (x - 4160) with fifo := slotToks q }
  else { c with fab := { c.fab with q := SMap.set [] c.fab.q x q } }

def Core.rev (c : Core) (x : Nat) : Nat := SMap.get 0 c.fab.rev x
def Core.setRev (c : Core) (x v : Nat) : Core := { c with fab := { c.fab with rev := SMap.set 0 c.fab.rev x v } }
/-- Anti-tokens held at an output or an input port (R59, R60); an LPOUT's stand in its HELD field (R63). -/
def Core.heldAt (c : Core) (x : Nat) : Nat :=
  if 4192 ≤ x ∧ x < 4208 then (c.port (x - 4192)).held
  else if 1024 ≤ x ∧ x < 1280 ∧ wOp (c.word (x - 1024)) = 0x91 then SMap.get 0 c.pacer.held (wImm (c.word (x - 1024)) % 8)
  else SMap.get 0 c.fab.held x
def Core.setHeld (c : Core) (x v : Nat) : Core :=
  if 4192 ≤ x ∧ x < 4208 then c.setPort (x - 4192) { c.port (x - 4192) with held := v }
  else if 1024 ≤ x ∧ x < 1280 ∧ wOp (c.word (x - 1024)) = 0x91 then
    { c with pacer := { c.pacer with held := SMap.set 0 c.pacer.held (wImm (c.word (x - 1024)) % 8) v } }
  else { c with fab := { c.fab with held := SMap.set 0 c.fab.held x v } }
def Core.cancels (c : Core) (x : Nat) : Nat := SMap.get 0 c.fab.cancel x
def Core.setCancels (c : Core) (x v : Nat) : Core := { c with fab := { c.fab with cancel := SMap.set 0 c.fab.cancel x v } }
def Core.took (c : Core) (x : Nat) : List Nat := SMap.get [] c.fab.took x
def Core.setTook (c : Core) (x : Nat) (l : List Nat) : Core := { c with fab := { c.fab with took := SMap.set [] c.fab.took x l } }
def Core.est (c : Core) (x : Nat) : ElemState := SMap.get {} c.fab.est x
def Core.setEst (c : Core) (x : Nat) (e : ElemState) : Core := { c with fab := { c.fab with est := SMap.set {} c.fab.est x e } }

/-- Tokens a place may hold: one, but for TAKE and FEED FIFOs and gang edge links (R40, R211, R212). -/
def Core.room (c : Core) (x : Nat) : Nat :=
  if 4160 ≤ x ∧ x < 4176 then (if (c.port (x - 4160)).role = 4 then 16 else 1)
  else if 4192 ≤ x ∧ x < 4208 then (if (c.port (x - 4192)).role = 3 then 16 else 1)
  else if 1024 ≤ x ∧ x < 1280 then elemRoom (c.word (x - 1024))
  else if isLink x then 4
  else 1

/-- Remove the first data token of a queue; none when a deferred result comes first or there is none. -/
def dropData : List Slot → Option (List Slot)
  | [] => none
  | .wait _ :: _ => none
  | .tok t :: r => if t.isData then some r else (dropData r).map (.tok t :: ·)

/-- The source is the output of an element, an operator or a port: control tokens there have not entered a register. -/
def isOutput (x : Nat) : Bool := decide (1024 ≤ x ∧ x < 2048) || decide (4192 ≤ x ∧ x < 4208)

/-- A token has left a place: for a router output, its MOVE of this clk (R419). -/
def Core.depart (c : Core) (x : Nat) : Core :=
  if x < 1024 ∧ x ∉ c.departed then { c with departed := x :: c.departed } else c

/-- Bring a source to rest: held anti-tokens annihilate its next data results, cancelled branches lose their copies, a
token every branch has taken leaves, and an unconnected output discards (R41, R44, R59, R61). -/
def Core.settle (x : Nat) : Nat → Core → Core
  | 0, c => c
  | f + 1, c =>
    let q := c.queue x
    let ds := c.destsOf x
    match (if isOutput x ∧ c.heldAt x ≠ 0 ∧ c.took x = [] then dropData q else none) with
    | some q' => Core.settle x f ((c.setQueue x q').setHeld x (c.heldAt x - 1))
    | none =>
      match q with
      | .tok t :: r =>
        let cancelled := if t.isData then ds.filter fun d => decide (c.cancels d ≠ 0) && decide (d ∉ c.took x) else []
        let c1 := (cancelled.foldl (fun c d => c.setCancels d (c.cancels d - 1)) c).setTook x (c.took x ++ cancelled)
        if (ds = [] ∧ 1024 ≤ x ∧ x < 2048) ∨ (ds ≠ [] ∧ ds.all fun d => decide (d ∈ c1.took x)) then
          Core.settle x f (((c1.setQueue x r).setTook x []).depart x)
        else c1
      | _ => c

/-- Fuel that settles any queue of the fabric. -/
def settleFuel : Nat := 300

/-- Push results at a source and settle. -/
def Core.push (c : Core) (x : Nat) (ts : List Token) : Core := Core.settle x settleFuel (c.setQueue x (c.queue x ++ ts.map .tok))

/-- The token in a one-deep input register. -/
def Core.input (c : Core) (x : Nat) : Option Token :=
  match c.queue x with
  | .tok t :: _ => some t
  | _ => none

/-- Take the token of an input register. -/
def Core.pop (c : Core) (x : Nat) : Core := c.setQueue x ((c.queue x).drop 1)

/-! ## Segment counters (R46) -/

def Core.segs (c : Core) (x : Nat) : List Nat := SMap.get [0, 0, 0, 0] c.fab.seg x
def Core.setSegs (c : Core) (x : Nat) (l : List Nat) : Core :=
  { c with fab := { c.fab with seg := SMap.set [0, 0, 0, 0] c.fab.seg x l } }

/-- One member of level l passes; a counter that reaches zero is a member of the next level. The levels that reach zero
are listed. -/
def segStep (l : List Nat) (lvl : Nat) : Nat → List Nat × List Nat
  | 0 => (l, [])
  | f + 1 =>
    let v := l.getD lvl 0
    if v = 0 then (l, [])
    else
      let l' := l.set lvl (v - 1)
      if v = 1 then let (l2, z) := segStep l' (lvl + 1) f; (l2, lvl :: z) else (l', [])

/-- A data token passes. -/
def segData (l : List Nat) : List Nat × List Nat := segStep l 0 4

/-- A length prefix passes: its level's counter loads; a count of 0 is an ended segment. -/
def segPrefix (l : List Nat) (lvl count : Nat) : List Nat × List Nat :=
  if count = 0 then let (l2, z) := segStep (l.set lvl 0) (lvl + 1) 4; (l2, lvl :: z) else (l.set lvl count, [])

/-- An input register's counters see a token. -/
def Core.segSee (c : Core) (x : Nat) (t : Token) : Core :=
  if t.isData then c.setSegs x (segData (c.segs x)).1
  else match t.level? with
    | some l => c.setSegs x (segPrefix (c.segs x) l t.data.toNat).1
    | none => c

/-! ## Faults of the fabric (R381) -/

/-- A fabric run-time fault of core n at a site. -/
def State.fabFault (s : State) (n site unit op sub : Nat) (sev : Sev) (count : Nat) : State :=
  s.coreFault n 1 unit 5 (sub * 256 + op) sev none 0xFFFFFFFF op (site + count * 2 ^ 32 + (s.core n).ictr.toNat * 2 ^ 64)

/-- What an act of the fabric comes to. -/
inductive FabRes where
  /-- Its conditions do not hold: nothing happens. -/
  | idle
  | ok (c : Core) (f : Flags)
  /-- A fatal fault of a site, for an element opcode, with a subcode of R381; 2¹⁶ + p stands for port p. -/
  | bad (site op sub : Nat)
deriving DecidableEq, Repr

/-- Tokens of feeding commands that have left the FIFO, counted off in order: the commands done and those left. -/
def feedsOff : Nat → List (Nat × Nat) → List Nat × List (Nat × Nat)
  | _, [] => ([], [])
  | out, (id, k) :: r =>
    if k = 0 then let (d, l) := feedsOff out r; (d, (id, 0) :: l)
    else if k ≤ out then let (d, l) := feedsOff (out - k) r; (id :: d, l) else ([], (id, k - out) :: r)

/-- Tokens a list of feeding commands has still to send. -/
def feedsTotal (l : List (Nat × Nat)) : Nat := (l.map (·.2)).sum

/-- Region of an MM.ACC or MM.OUT: rows, columns, first row, first column (R270, R271). -/
def Cmd.regM (k : Cmd) : Nat := k.c.toNat % 256 + 1
def Cmd.regN (k : Cmd) : Nat := k.c.toNat / 2 ^ 8 % 256 + 1
def Cmd.regRow (k : Cmd) : Nat := k.c.toNat / 2 ^ 16 % 256
def Cmd.regCol (k : Cmd) : Nat := k.c.toNat / 2 ^ 24 % 256

/-- Bank of a matrix command. -/
def Cmd.bank (k : Cmd) : Nat := k.w3.toNat / 2 ^ 31

/-- Port of an MM.OUT (R271). -/
def Cmd.outPort (k : Cmd) : Nat := k.w3.toNat / 2 ^ 27 % 16

/-- Key of a bank word, and the word. -/
def accKey (bank i j : Nat) : Nat := 65536 * bank + 256 * i + j
def Core.accWord (c : Core) (bank i j : Nat) : BitVec 32 := SMap.get 0#32 c.mx.acc (accKey bank i j)

/-- RLX of a bank. -/
def Core.rlx (c : Core) (bank : Nat) : Bool := if bank = 0 then c.mx.rlx0 else c.mx.rlx1

/-- A bank word as it is written out: bits 3:0 unspecified for a finite value of a relaxed bank (R93; log 5). -/
def Core.outWord (c : Core) (bank i j free : Nat) : BitVec 32 :=
  let w := c.accWord bank i j
  if c.rlx bank && decide (w.toNat / 2 ^ 23 % 256 ≠ 255) then
    BitVec.ofNat 32 (w.toNat / 16 * 16 + (Config.freeBits free).toNat % 16)
  else w

/-- Tokens an MM.OUT sends in all. -/
def Cmd.outTotal (k : Cmd) (compat : Bool) : Nat := if compat then k.regM * k.regN + k.regM else 1 + k.regM * (k.regN + 1)

/-- Token t of an MM.OUT (R271). -/
def Core.outToken (c : Core) (k : Cmd) (compat : Bool) (free t : Nat) : Token :=
  let word := fun (i j : Nat) => Token.ofData (c.outWord k.bank (k.regRow + i) (k.regCol + j) free)
  let i := (if compat then t else t - 1) / (k.regN + 1)
  let j := (if compat then t else t - 1) % (k.regN + 1)
  if compat then (if j = k.regN then Token.marker (if i + 1 = k.regM then 1 else 0) else word i j)
  else if t = 0 then Token.prefixOf 1 k.regM
  else if j = 0 then Token.prefixOf 0 k.regN
  else word i (j - 1)

/-- The MM.OUT that has tokens still to place in the FIFO of port p; x0 counts those placed. -/
def State.outPending (s : State) (n p : Nat) : Option Cmd :=
  s.cmds.find? fun k => decide (k.owner = Owner.core n) && decide (k.opc = 0x46#8) && decide (k.state = .started)
    && decide (k.outPort = p) && decide (k.x0 < k.outTotal ((s.core n).port p).compat)

/-- Tokens of a command in the FIFO of port p that have not begun to pass into the edge router (R262). -/
def Core.outHeld (c : Core) (p id : Nat) : Nat :=
  let x := c.port p
  let rest := (feedsOff (feedsTotal x.feeds - x.fifo.length) x.feeds).2
  let k := ((rest.find? fun e => decide (e.1 = id)).map (·.2)).getD 0
  if rest.head?.map (·.1) = some id ∧ c.took (feedPlace p) ≠ [] then k - 1 else k

/-- Tokens of an MM.OUT that have passed from the FIFO into the edge router: DONE (R262). -/
def Core.outDone (c : Core) (k : Cmd) : Nat := k.x0 - c.outHeld k.outPort k.id

/-- The bank word that token t of an MM.OUT carries. -/
def Cmd.outCell (k : Cmd) (compat : Bool) (t : Nat) : Option (Nat × Nat) :=
  let u := if compat then t else t - 1
  let j := u % (k.regN + 1)
  if compat then (if j = k.regN then none else some (k.regRow + u / (k.regN + 1), k.regCol + j))
  else if t = 0 ∨ j = 0 then none else some (k.regRow + u / (k.regN + 1), k.regCol + j - 1)

/-- A read of a bank word whose parity is wrong (R407): the node is cancelled. -/
def State.badWord (s : State) (k : Cmd) (word : Nat) : State := s.cmdFaultAs k 4 k.loc 0xE 6 .fatal none word

/-- The parity of a bank word is wrong. -/
def Core.accBad (c : Core) (bank i j : Nat) : Bool := SMap.get false c.mx.bad (accKey bank i j)

/-- One more token of a command stands in the FIFO. -/
def feedOne (id : Nat) : List (Nat × Nat) → List (Nat × Nat)
  | [] => [(id, 1)]
  | (i, k) :: r => if i = id then (i, k + 1) :: r else (i, k) :: feedOne id r

/-- Where the next token of a command stands in a FIFO: after those it has there, and those of commands before it. -/
def feedPlaceIn (id : Nat) : List (Nat × Nat) → Nat
  | [] => 0
  | (i, k) :: r => if i = id then k else k + feedPlaceIn id r

/-- Place tokens of an MM.OUT in its FIFO while there is room (R271), those discarded at a pre-emption before the tokens of later
commands (R263). -/
def State.refill (n p : Nat) : Nat → State → State
  | 0, s => s
  | f + 1, s =>
    match s.outPending n p with
    | none => s
    | some k =>
      let c := s.core n
      let x := c.port p
      if 16 ≤ x.fifo.length then s
      else if (match k.outCell x.compat k.x0 with | some p => c.accBad k.bank p.1 p.2 | none => false) then
        s.badWord k (k.bank * 2 ^ 17 + 2 ^ 16 + c.outDone k)
      else
        let t := c.outToken k x.compat s.free k.x0
        let at_ := feedPlaceIn k.id x.feeds - (feedsTotal x.feeds - x.fifo.length)
        let c1 := Core.settle (feedPlace p) settleFuel (c.setPort p { x with
          fifo := x.fifo.take at_ ++ t :: x.fifo.drop at_, feeds := feedOne k.id x.feeds })
        State.refill n p f { (s.setCore n { c1 with drained := false, moved := s.gtc }).updCmd k.id fun j => { j with x0 := j.x0 + 1 } with
          free := s.free + 1 }

/-- A feeding command all of whose tokens have left the FIFO is complete, unless it is an MM.OUT with more to place. -/
def State.feedOver (s : State) (compat : Bool) (id : Nat) : Bool :=
  match s.cmd? id with
  | some k => decide (k.opc ≠ 0x46#8) || decide (k.outTotal compat ≤ k.x0)
  | none => false

/-- A started COPY.DEM is attached to port p of core n (R210, R215). -/
def State.demBusy (s : State) (n p : Nat) : Bool :=
  s.cmds.any fun k => decide (k.owner = Owner.core n) && decide (k.opc = 0x32#8) && decide (k.state ≠ .issued)
    && decide (k.w3.toNat / 2 ^ 21 % 16 = p)

/-- Commands that complete as a port's FIFO drains or its stream ends (R210, R211, R271). -/
def State.portDone (s : State) (n p : Nat) : State :=
  let c := s.core n
  let x := c.port p
  let (done, rest) := feedsOff (feedsTotal x.feeds - x.fifo.length) x.feeds
  let endOf := if x.ended ∧ x.fifo = [] ∧ s.demBusy n p = false then x.bindCmd.toList else []
  let s1 := if done = [] ∧ endOf = [] ∧ rest = x.feeds then s
    else (s.setCore n (c.setPort p { x with feeds := rest, bindCmd := if endOf = [] then x.bindCmd else none })).finishCmds
      (done.filter (s.feedOver x.compat) ++ endOf)
  State.refill n p 64 s1

/-- Every bound port of a core. -/
def State.portsDone (s : State) (n : Nat) : State := ((s.core n).ports.map (·.1)).foldl (fun s p => s.portDone n p) s

/-- A fabric acts: its core runs a node and is not paused at the place. -/
def State.fabricAct (s : State) (n place : Nat) (k : Core → FabRes) : State :=
  let c := s.core n
  if c.run = .idle ∨ place ∈ c.pausedPorts then s
  else match k c with
    | .idle => s
    | .ok c' f => ((s.setCore n { c' with drained := false, moved := s.gtc }).raise n f).portsDone n
    | .bad site op sub =>
      if site < 65536 then s.fabFault n site 0 op sub .fatal 0 else s.fabFault n 0xFFFF (site - 65536) op sub .fatal 0

/-! ## Anti-tokens (R57–R63) -/

/-- Crossing elements (R59): one data token in on each input, one out, no side effect. QNT is none: its members shape the
scale of a whole block, and R346 lets no result depend on when an anti-token meets one (log 65). -/
def crossing (w : Nat) : Bool :=
  let op := wOp w
  decide (wPmode w = 0) && decide (op ≠ 0x41) && (decide (1 ≤ op ∧ op ≤ 0x42) || decide (0x60 ≤ op ∧ op ≤ 0x62) || decide (op = 0x70 ∨ op = 0x73))

/-- Data results an element has started and not yet emitted. -/
def inflight (q : List Slot) : Nat :=
  (q.filter fun s => match s with
    | .tok t => t.isData
    | .wait _ => true).length

/-- The next position; the stream ends after the last (R209). -/
def stepIdx : List Nat → List Nat → List Nat × Bool
  | i :: is, c :: cs => if i + 1 < c then ((i + 1) :: is, false) else let (r, e) := stepIdx is cs; (0 :: r, e)
  | _, _ => ([], true)

/-- The position's element and markers are done. -/
def Port.step (x : Port) : Port :=
  let (i, e) := stepIdx x.idx x.desc.cnt
  { x with idx := i, ctl := 0, past := false, ended := e }

/-- The pattern of an AUTO element's port advances by one firing (R243). -/
def Core.stepAuto (c : Core) (p : Nat) : Core :=
  if (c.port p).ended then c else c.setPort p (c.port p).step

/-- A counter of a source's output or input port overflows (R384): the source's site and opcode, or its port. -/
def Core.antiBad (c : Core) (x : Nat) : FabRes :=
  if x < 1024 then .bad (x / 4) 0 3
  else if x < 1280 then .bad (x - 1024) (wOp (c.word (x - 1024))) 3
  else if x < 2048 then .bad (x % 256) 0 3
  else .bad (65536 + (x - feedPlace 0)) 0 3

/-- The anti-token of destination `dst` reaches the output of element `r` (R59). Input places whose reverse slot must be
free are checked by the caller. -/
def Core.antiAtElem (c : Core) (r : Nat) : FabRes :=
  let w := c.word r
  let x := elemPlace r
  let gone := inflight (c.queue x) + (c.est r).buf.length
  let hold : FabRes := if 7 ≤ c.heldAt x then c.antiBad x else .ok (Core.settle x settleFuel (c.setHeld x (c.heldAt x + 1))) Flags.none
  if c.heldAt x < gone then hold
  else if crossing w then
    let ins := (operands w).map (inPlace r)
    -- a control token at an input stands before the data token of the next firing
    if ins.any fun i => (match c.input i with | some t => !t.isData | none => false) then .idle
    else if ins.any fun i => decide (c.input i = none) && decide (c.rev i ≠ 0) then .idle
    else
      let c1 := ins.foldl (fun c i =>
        let c' := match c.input i with
          | some _ => c.pop i
          | none => c.setRev i (c.rev i + 1)
        c'.setSegs i (segData (c.segs i)).1) c
      -- the pattern of an AUTO element advances by each of its firings (R243)
      .ok (if wAuto w then c1.stepAuto (wImm w % 16) else c1) Flags.none
  else hold

/-- An anti-token enters the reverse side of a source: a router register passes it on, an element applies R59, every other
output and input port holds it. -/
def Core.antiAtSource (c : Core) (x : Nat) : FabRes :=
  if x < 1024 then (if c.rev x = 0 then .ok (c.setRev x 1) Flags.none else .idle)
  else if x < 1280 then c.antiAtElem (x - 1024)
  else if x = nowhere then .ok c Flags.none
  else if isLink x then
    match dropData (c.queue x) with
    | some q => .ok (Core.settle x settleFuel (c.setQueue x q)) Flags.none
    | none => if c.rev x = 0 then .ok (c.setRev x 1) Flags.none else .idle
  else if 7 ≤ c.heldAt x then c.antiBad x
  else .ok (Core.settle x settleFuel (c.setHeld x (c.heldAt x + 1))) Flags.none

/-- The branch can still lose the source's head: a data token it has not taken (R58). -/
def Core.meets (c : Core) (src dst : Nat) : Bool :=
  match c.queue src with
  | .tok t :: _ => t.isData && decide (dst ∉ c.took src)
  | _ => false

/-- ANTI_TOKEN_ARRIVAL: the anti-token in the reverse slot of `dst` moves up to its source (R57–R61). A fork branch whose
counter is full faults at the router of the fork (R384). -/
def Core.antiStep (c : Core) (dst : Nat) : FabRes :=
  if c.rev dst = 0 then .idle
  else
    let src := c.srcOf dst
    let c1 := c.setRev dst (c.rev dst - 1)
    if src = nowhere then .idle
    else if c.meets src dst then .ok (Core.settle src settleFuel (c1.setTook src (dst :: c1.took src))) Flags.none
    else
      let ds := c.destsOf src
      if ds.length ≤ 1 then c1.antiAtSource src
      else if 7 ≤ c.cancels dst then .bad ((c.forkRouter src).getD (src % 256)) 0 3
      else
        let c2 := c1.setCancels dst (c.cancels dst + 1)
        if ds.all fun d => decide (c2.cancels d ≠ 0) then
          (ds.foldl (fun c d => c.setCancels d (c.cancels d - 1)) c2).antiAtSource src
        else .ok c2 Flags.none

/-! ## Hops (R40, R41, R64) -/

/-- CFG.PATCH commands of a core not yet complete, in issue order. -/
def State.patches (s : State) (n : Nat) : List Cmd :=
  s.cmds.filter fun k => decide (k.owner = Owner.core n) && decide (k.opc = 1#8)

/-- A routing word with its switch fields replaced by those of a patch entry. -/
def patchWord (w : BitVec 64) (e : Nat) : BitVec 64 :=
  let f := fun (k : Nat) => e / 2 ^ (9 - 3 * k) % 8 * 2 ^ (52 - 3 * k)
  (w &&& ~~~(BitVec.ofNat 64 (0xFFF * 2 ^ 43))) ||| BitVec.ofNat 64 (f 0 + f 1 + f 2 + f 3)

/-- Routing words after the entries of a list, in order. -/
def patchRoutes (m : SMap (BitVec 64)) : List Nat → SMap (BitVec 64)
  | [] => m
  | e :: r => patchRoutes (SMap.set 0#64 m (e / 2 ^ 24) (patchWord (SMap.get 0#64 m (e / 2 ^ 24)) e)) r

/-- The routing words a CFG.PATCH meets: those of the earlier ones have taken effect (R64). -/
def State.routesBefore (s : State) (n id : Nat) : SMap (BitVec 64) :=
  ((s.patches n).filter fun k => decide (k.id < id)).foldl (fun m k => patchRoutes m k.list) (s.core n).fab.routes

/-- An output that the entries of a list switch, from the routing words they meet. -/
def switches (m : SMap (BitVec 64)) (es : List Nat) (x : Nat) : Bool :=
  es.any fun e => decide (e / 2 ^ 24 = x / 4)
    && decide (e / 2 ^ (9 - 3 * (x % 4)) % 8 ≠ rOut (SMap.get 0#64 m (x / 4)).toNat (x % 4))

/-- Outputs of a core that a CFG.PATCH not yet complete switches (R64). -/
def State.patched (s : State) (n dst : Nat) : Bool :=
  decide (dst < 1024) && (s.patches n).any fun k => switches (s.routesBefore n k.id) k.list dst

/-- A port takes a token: its data bits enter the checksum (R423). -/
def Port.take (x : Port) (t : Token) : Port := { x with crc := crcToken x.crc t.data, taken := x.taken + 1 }

/-- A token enters a destination; a TAKE port takes it there. -/
def Core.enter (c : Core) (dst : Nat) (t : Token) : Core :=
  let c1 := c.setQueue dst (c.queue dst ++ [.tok t])
  if 4160 ≤ dst ∧ dst < 4176 ∧ (c1.port (dst - 4160)).role = 4 then
    c1.setPort (dst - 4160) ((c1.port (dst - 4160)).take t)
  else c1

/-- The next token of a source moves into one destination (R40, R41), meeting an anti-token there (R58). -/
def Core.hopStep (c : Core) (dst : Nat) : FabRes :=
  let src := c.srcOf dst
  match c.queue src with
  | .tok t :: _ =>
    if dst ∈ c.took src then .idle
    else if t.isData ∧ c.rev dst ≠ 0 then
      .ok (Core.settle src settleFuel ((c.setRev dst (c.rev dst - 1)).setTook src (dst :: c.took src))) Flags.none
    else if c.room dst ≤ (c.queue dst).length then .idle
    else
      let c1 := c.enter dst t
      .ok (Core.settle dst settleFuel (Core.settle src settleFuel (c1.setTook src (dst :: c1.took src)))) Flags.none
  | _ => .idle

/-! ## Iteration boundaries (R32, R55) -/

/-- Places that a token moves to from a place, through a channel, an element, an operator or an island. -/
def Core.leadsTo (c : Core) (x : Nat) : List Nat :=
  if x < 2048 ∨ isLink x ∨ (4192 ≤ x ∧ x < 4208) then c.destsOf x
  else if x < 4096 then
    let r := (x - 2048) / 8
    if (x - 2048) % 8 < 4 then [elemPlace r] else [ctlT r, ctlF r]
  else if x < 4128 then
    let w := c.island ((x - 4096) / 2)
    [elemPlace (islOutRouter w 0), elemPlace (islOutRouter w 1)]
  else []

/-- Places reached from a list of sources through registers, elements, operators and islands. -/
def Core.reach (c : Core) : Nat → List Nat → List Nat
  | 0, seen => seen
  | f + 1, seen =>
    let new := (seen.flatMap c.leadsTo).filter fun y => decide (y ∉ seen)
    if new = [] then seen else Core.reach c f (seen ++ new.dedup)

/-- Places downstream of the elements with an operation, their outputs included. -/
def Core.pastOp (c : Core) (op : Nat) : List Nat :=
  c.reach 2048 ((c.fab.elems.filter fun e => decide (wOp e.2.toNat = op)).map fun e => elemPlace e.1)

/-- Places downstream of the LPOUT elements. -/
def Core.downstream (c : Core) : List Nat := c.pastOp 0x91

/-- The fabric is empty in the sense of R55. -/
def Core.fabricEmpty (c : Core) : Bool :=
  c.fab.q.all (fun e => decide (e.2 = [])) && c.fab.rev.all (fun e => decide (e.2 = 0))
    && c.ports.all (fun e => decide (e.2.fifo = []))
    && c.fab.est.all (fun e => decide (1024 ≤ e.1) || (!(e.2.busy && decide (wOp (c.word e.1) / 16 = 5)) && decide (e.2.buf = [])))
    && c.ports.all (fun e => !(decide (e.2.role = 1 ∨ e.2.role = 2)) || e.2.ended
        || (decide (e.2.idx = [0, 0, 0, 0]) && decide (e.2.ctl = 0) && !e.2.past))

/-- A CARRY with no input i is about to emit its initial value (R45). -/
def Core.carryDue (c : Core) : Bool :=
  c.fab.routes.any fun e => decide (rCtl e.2.toNat = 3) && decide (rIn e.2.toNat 0 = 0) && !(c.est (1024 + e.1)).busy

/-- Every port stream and every element of the fabric load has completed (R203): nothing is left that could move. -/
def Core.loadComplete (c : Core) : Bool :=
  c.fabricEmpty && c.ports.all (fun e => !(decide (e.2.role = 1 ∨ e.2.role = 2)) || e.2.ended)
    && decide (c.pausedPorts = []) && decide (c.pacer.flight = 0) && !c.carryDue

/-- The fabric load has ended: it is complete, or quiescent with its surplus gone (R203, R383; log 37). -/
def Core.loadOver (c : Core) : Bool := c.drained || c.loadComplete

/-- The fabric load is at an iteration boundary (R55). -/
def Core.atBoundary (c : Core) : Bool :=
  if c.pacer.k = 0 then c.fabricEmpty
  else c.pacer.whold && decide (c.pacer.flight = 0)
    && (let past := c.downstream
      past.all (fun x => decide (c.queue x = []) || decide (4160 ≤ x ∧ x < 4176))
        && c.fab.elems.all fun e => decide (elemPlace e.1 ∉ past) || decide ((c.est e.1).buf = []))

end Sys2Proof.Machine
end

