-- ==== Sys2Proof/Machine/Control.lean ====
section
/-! DEFINITION. Control flow, traps, fences, waits, special registers and tile masks (08_control_core.md, R180–R194). -/

namespace Sys2Proof.Machine

/-! ## Branches, calls and loops (R181, R182) -/

/-- Continue at word t of the stream. -/
def Core.goto (c : Core) (t : Int) : Core := { c with soff := BitVec.ofInt 32 t, entry := false }

/-- A branch whose target its encoding carries: a bad target faults whether or not it would be taken (R373). -/
def State.issueTo (s : State) (t : Int) (op : Nat) (fields reads : List Reg) (k : Nat → Core → State) :
    Host.Outcome State Fault Refusal :=
  if (s.core s.cur).issues && s.targetWaits s.cur t then .next s
  else if (s.core s.cur).issues && s.badTarget s.cur t then .next (s.illegal s.cur 4 op 0)
  else s.issue fields reads [] k

/-- Target of a word offset from the branch on the core whose turn it is (R181). -/
def State.target (s : State) (off : Int) : Int := branchTarget (s.core s.cur).soff off

/-- Branch when `take` holds of the core. -/
def branchIf (take : Core → Bool) (o : BitVec 21) (s : State) : Host.Outcome State Fault Refusal :=
  s.issueTo (s.target o.toInt) 0x14 [] [] fun n c =>
    if take c then s.setCore n (c.goto (s.target o.toInt)) else s.advance n 1

def execBp (p : PredIdx) (o : BitVec 21) (s : State) := branchIf (·.pred p.toNat) o s
def execBnp (p : PredIdx) (o : BitVec 21) (s : State) := branchIf (fun c => !c.pred p.toNat) o s
def execJ (o : BitVec 21) (s : State) := branchIf (fun _ => true) o s

/-- CALL writes g47 only (R181). -/
def execCall (neg : BitVec 1) (p : PredIdx) (o : BitVec 21) (s : State) : Host.Outcome State Fault Refusal :=
  s.issueTo (s.target o.toInt) 0x15 [] [] fun n c =>
    if c.pred p.toNat != decide (neg = 1#1) then
      (s.writeReg n 47 ((c.soff + 1).zeroExtend 64)).updCore n (·.goto (s.target o.toInt))
    else s.advance n 1

/-- LOOP decrements d, not ll (R182). -/
def execLoop (d : Reg) (i : BitVec 20) (s : State) : Host.Outcome State Fault Refusal :=
  s.issueTo (s.target i.toInt) 0x07 [d] [d] fun n c =>
    let v := c.reg d.toNat - 1#64
    let s1 := s.writeReg n d.toNat v
    if v ≠ 0#64 then s1.updCore n (·.goto (s.target i.toInt)) else s1.advance n 1

/-- Jump to the word index in bits 31:0 of a register; a bad target faults when the jump executes (R181, R373). -/
def jumpReg (a : Reg) (s : State) : Host.Outcome State Fault Refusal :=
  s.issue [a] [a] [] fun n c =>
    let t : Int := ((c.reg a.toNat).toNat % 2 ^ 32 : Nat)
    if s.targetWaits n t then s else if s.badTarget n t then s.illegal n 4 0x17 0 else s.setCore n (c.goto t)

def execJr (a : Reg) (s : State) := jumpReg a s
def execRet (s : State) := jumpReg 47#6 s

/-- Closing the open batch would not raise BTC past 63 (R28). -/
def Core.mayClose (c : Core) : Bool := decide (c.openBatch = []) || decide (c.btc ≠ 63#6)

/-! ## NOP, HALT, SAFE (R183, R189) -/

def execNop (s : State) : Host.Outcome State Fault Refusal := s.issue [] [] [] fun n _ => s.advance n 1

/-- HALT closes the open batch, and nothing further issues (R183). -/
def execHalt (s : State) : Host.Outcome State Fault Refusal :=
  s.issue [] [] [] fun n c => if c.mayClose then s.setCore n { (c.closeBatch).next 1 with run := .halted } else s

/-- SAFE stops the core for a pending pre-emption at an iteration boundary (R189); in handler mode it acts as NOP (R185). -/
def execSafe (i : BitVec 12) (s : State) : Host.Outcome State Fault Refusal :=
  s.issue [] [] [] fun n c =>
    if c.hm then s.advance n 1
    else match c.record.masks[i.toNat]? with
      | none => s.reservedUse n 2
      | some m => s.setCore n { c.next 1 with stopMask := if c.preempt && c.atBoundary then some m else none }

/-! ## Traps (R184, R185) -/

/-- TRAP: EPC names the word after it; inside the handler it is a reserved use (R378). -/
def execTrap (code : BitVec 16) (s : State) : Host.Outcome State Fault Refusal :=
  s.issue [] [] [] fun n c => if c.hm then s.reservedUse n 4 else s.exception n (c.soff + 1) 0#8 code false 0

/-- ERET, a reserved use outside handler mode (R185, R378). -/
def execEret (s : State) : Host.Outcome State Fault Refusal :=
  s.issue [] [] [] fun n c => if c.hm then s.setCore n c.leaveHandler else s.reservedUse n 3

/-! ## Fences and waits (R128, R180, R190) -/

/-- Ids of the outstanding accesses an .acq fence orders: loads, PLDs and value-returning AMOs. -/
def Core.loadIds (c : Core) : List Nat := (c.accs.filter (·.inLdc)).map (·.id)

/-- Ids of every outstanding access. -/
def Core.accIds (c : Core) : List Nat := c.accs.map (·.id)

/-- Some of the listed accesses are outstanding. -/
def Core.outstanding (c : Core) (ids : List Nat) : Bool := c.accs.any fun a => decide (a.id ∈ ids)

/-- Two accesses touch one aligned 8-byte word. -/
def Access.overlaps (a b : Access) : Bool := a.pas.any fun p => b.pas.any fun q => decide (p / 8 = q / 8)

/-- Nothing that must be performed before the access is outstanding: older accesses to its words (R123), the accesses a
release or an acquire puts before it (R125). -/
def Core.mayPerform (c : Core) (a : Access) : Bool :=
  (c.accs.all fun b => decide (a.id ≤ b.id) || !b.overlaps a) && !c.outstanding a.waits

/-- A store of core n that will be performed at home slices only, and waits for nothing of its own and for no older access to
its words. -/
def State.showable (s : State) (n : Nat) (a : Access) : Bool :=
  (decide (a.kind = .store) || decide (a.kind = .mstore)) && (s.core n).mayPerform a && a.takes.all s.cmdDone
    && (decide (a.pol ≠ 0#2) || !((List.range a.pas.length).any fun i => (s.findWindow n (a.va + i)).isSome))

/-- A release at a scope (R125): at CORE scope it orders the stores before it for the core's own agents only, which see
them from now on, and other agents may see them later than what follows the release; the other scopes are performed at the
home slice alike (R124), so there every access before the release is performed before what follows it (log 21). -/
def State.publish (s : State) (n : Nat) (scope : BitVec 2) : State :=
  if scope = 0#2 then s.updCore n fun c => { c with accs := c.accs.map fun a => if s.showable n a then { a with shown := true } else a }
  else s

/-- Ids of the accesses that what follows a release still waits for. -/
def Core.unseenIds (c : Core) : List Nat := (c.accs.filter fun a => !a.shown).map (·.id)

/-- A fence holds the instructions it orders until the accesses before it are performed at its scope (R128, R180). -/
def fence (rel : Bool) (scope : BitVec 2) (f : Core → Core) (s : State) : Host.Outcome State Fault Refusal :=
  s.issue [] [] [] fun n _ => (if rel then s.publish n scope else s).updCore n fun c => (f c).next 1

def Core.releaseIds (c : Core) (scope : BitVec 2) : List Nat := if scope = 0#2 then c.unseenIds else c.accIds

def execFenceAcq (scope : BitVec 2) (s : State) := fence false scope (fun c => { c with holdAll := c.holdAll ++ c.loadIds }) s
def execFenceRel (scope : BitVec 2) (s : State) :=
  fence true scope (fun c => { c with holdStore := c.holdStore ++ c.releaseIds scope }) s
def execFenceFull (scope : BitVec 2) (s : State) :=
  fence true scope (fun c => { c with holdAll := c.holdAll ++ c.releaseIds scope }) s

/-- Every counter is at or below its allowance. -/
def Core.countersWithin (c : Core) (l st cp t b : BitVec 4) : Bool :=
  decide (c.ldc.toNat ≤ l.toNat) && decide (c.stc.toNat ≤ st.toNat) && decide (c.cpc.toNat ≤ cp.toNat)
    && decide (c.tlc.toNat ≤ t.toNat) && decide (c.btc.toNat ≤ b.toNat)

/-- WAIT closes the open batch, then holds the core until the counters are within the allowances (R190). -/
def execWait (l st cp t b : BitVec 4) (s : State) : Host.Outcome State Fault Refusal :=
  s.issue [] [] [] fun n c =>
    let c' := if c.mayClose then c.closeBatch else c
    s.setCore n (if c'.openBatch = [] ∧ c'.countersWithin l st cp t b = true then c'.next 1 else c')

/-! ## Special registers (R192, R193) -/

/-- The value MFS reads, by register number. -/
def State.specialReg (s : State) (n num : Nat) : Word :=
  let c := s.core n
  match num with
  | 0 => s.gtc
  | 1 => BitVec.ofNat 64 n
  | 2 => c.gangReg
  | 3 => BitVec.ofNat 64 c.handle
  | 4 => c.ictr
  | 5 => c.soff.zeroExtend 64
  | 6 => c.epc.zeroExtend 64
  | 7 => c.causeReg
  | 8 => c.fstat
  | 9 => BitVec.ofNat 64 (c.ctx % 4)
  | _ => c.pc

def execMfs (d : Reg) (num : BitVec 6) (s : State) : Host.Outcome State Fault Refusal :=
  s.issue [d] [] [] fun n _ =>
    if 11 ≤ num.toNat then s.reservedUse n 6
    else (s.writeReg n d.toNat (s.specialReg n num.toNat)).advance n 1

/-- MTS writes EPC, CAUSE and FSTAT only (R193). -/
def execMts (a : Reg) (num : BitVec 6) (s : State) : Host.Outcome State Fault Refusal :=
  s.issue [a] [a] [] fun n c =>
    let v := c.reg a.toNat
    match num.toNat with
    | 6 => s.setCore n ({ c with epc := BitVec.ofNat 32 v.toNat }.next 1)
    | 7 => s.setCore n ((c.setCause v).next 1)
    | 8 => s.setCore n ((c.setFstat v).next 1)
    | num => if 11 ≤ num then s.reservedUse n 6 else s.reservedUse n 7

/-! ## Tile masks and the trace marker (R194) -/

/-- Write one bit of a mask, named by a[7:0]. -/
def maskBit (v : Bool) (a : Reg) (m : MaskIdx) (s : State) : Host.Outcome State Fault Refusal :=
  s.issue [a] [a] [m.toNat] fun n c =>
    (s.writeMask n m.toNat (setBit (c.mask m.toNat) ((c.reg a.toNat).toNat % 256) v)).advance n 1

def execMset (a : Reg) (m : MaskIdx) (s : State) := maskBit true a m s
def execMclr (a : Reg) (m : MaskIdx) (s : State) := maskBit false a m s

def execMtst (a : Reg) (p : PredIdx) (m : MaskIdx) (s : State) : Host.Outcome State Fault Refusal :=
  s.issue [a] [a] [m.toNat] fun n c =>
    (s.writePred n p.toNat ((c.mask m.toNat).getLsbD ((c.reg a.toNat).toNat % 256))).advance n 1

/-- TRACE.S writes a MARK record keyed by its issue tick, with DATA1 = 0. -/
def execTraceS (v : BitVec 16) (s : State) : Host.Outcome State Fault Refusal :=
  s.issue [] [] [] fun n c => (s.traceCore n 1 v.toNat 0 c.soff.toNat).advance n 1

end Sys2Proof.Machine
end

