-- ==== Sys2Proof/Machine/Access.lean ====
section
/-! DEFINITION. Scalar loads, stores, presence operations, AMOs and mask transfers: their issue (R176–R179, R194), and
their performance later (R123–R130, R177, R112, R117). -/

namespace Sys2Proof.Machine

/-! ## Issue -/

/-- What an access asks for. -/
structure Request where
  kind : AccKind
  need : Need
  ea : Word
  size : Nat
  /-- The address must be aligned to the size (R196). -/
  aligned : Bool
  pol : BitVec 2
  dst : Nat
  val : BitVec 256
  cmp : Word
  inLdc : Bool
  inStc : Bool
  acq : Bool
  rel : Bool
  scope : BitVec 2
  opc : Nat
deriving DecidableEq, Repr

/-- The aligned pieces of at most 8 bytes of an access of n bytes at va, from its byte `off` on (R123; log 61). -/
def piecesFrom (va : Nat) : Nat → Nat → Nat → List (Nat × Nat)
  | 0, _, _ => []
  | f + 1, off, n =>
    if n = 0 then []
    else
      let l := if (va + off) % 8 = 0 ∧ 8 ≤ n then 8 else if (va + off) % 4 = 0 ∧ 4 ≤ n then 4
        else if (va + off) % 2 = 0 ∧ 2 ≤ n then 2 else 1
      (off, l) :: piecesFrom va f (off + l) (n - l)

/-- The access a request becomes. -/
def Core.access (c : Core) (r : Request) (pas : List Nat) : Access where
  id := c.nextAcc
  kind := r.kind
  va := r.ea.toNat
  pas := pas
  pol := r.pol
  dst := r.dst
  val := r.val
  cmp := r.cmp
  waits := (c.holdAcc.filter fun i => c.outstanding [i]) ++ (if r.rel then c.releaseIds r.scope else [])
  takes := c.holdTake
  left := piecesFrom r.ea.toNat r.size 0 r.size
  got := 0
  shown := false
  inLdc := r.inLdc
  inStc := r.inStc
  deferred := false
  refused := false
  soff := c.soff
  opc := BitVec.ofNat 8 r.opc

/-- A mask that an MLD will write no longer takes an earlier MLD's value (R167). -/
def Core.claimMask (c : Core) (m : Nat) : Core :=
  if m = 0 then c else { c with accs := c.accs.map fun a => if a.targetsMask m then { a with dst := 0 } else a }

/-- Issue of an access (R28, R167, R180, R402): held by a fence or a full counter; class 0x02 faults; translation of every
page; then it is outstanding. -/
def State.startAccess (s : State) (n : Nat) (r : Request) : State :=
  let c := s.core n
  if c.outstanding c.holdAll || (r.inStc && c.outstanding c.holdStore)
      || (r.inLdc && decide (c.ldc = 63#6)) || (r.inStc && decide (c.stc = 63#6)) then s
  else if !eaOk r.ea then s.reservedUse n 8
  else if r.aligned && decide (r.ea.toNat % r.size ≠ 0) then s.reservedUse n 5
  else match translateRange (s.pages c.ctx) r.ea.toNat r.need r.size with
    | .error f => s.scalarMemFault n f c.soff (BitVec.ofNat 8 r.opc)
    | .ok pas =>
      let s0 := if r.rel then s.publish n r.scope else s
      let a := (s0.core n).access r pas
      let s1 := if r.inLdc ∧ r.kind ≠ .mload then s0.claimReg n r.dst else s0
      s1.updCore n fun c1 =>
        let c2 := if r.kind = .mload then c1.claimMask r.dst else c1
        { c2.next 1 with
          accs := c2.accs ++ [a]
          nextAcc := c2.nextAcc + 1
          holdAcc := if r.acq then c2.holdAcc ++ [a.id] else c2.holdAcc
          ldc := if r.inLdc then c2.ldc + 1 else c2.ldc
          stc := if r.inStc then c2.stc + 1 else c2.stc }

/-- A load of n bytes into d. -/
def loadReq (signed : Bool) (pol : BitVec 2) (d : Reg) (ea : Word) (size opc : Nat) : Request :=
  ⟨.load signed, Need.read, ea, size, false, pol, d.toNat, 0, 0, true, false, false, false, 0, opc⟩

/-- A store of n bytes. -/
def storeReq (pol : BitVec 2) (v : Word) (ea : Word) (size opc : Nat) : Request :=
  ⟨.store, Need.write, ea, size, false, pol, 57, v.zeroExtend 256, 0, false, true, false, false, 0, opc⟩

/-- LD and LDS, MEM form (R176). -/
def ldForm (signed : Bool) (sz : Nat) (pol : BitVec 2) (opc : Nat) (d a : Reg) (o : BitVec 14) (s : State) :
    Host.Outcome State Fault Refusal :=
  s.issue [d, a] [a] [] fun n c => s.startAccess n (loadReq signed pol d (eaMem (c.reg a.toNat) o sz) sz opc)

/-- ST, MEM form: the source is the d field (R176). -/
def stForm (sz : Nat) (pol : BitVec 2) (opc : Nat) (v a : Reg) (o : BitVec 14) (s : State) :
    Host.Outcome State Fault Refusal :=
  s.issue [v, a] [v, a] [] fun n c => s.startAccess n (storeReq pol (c.reg v.toNat) (eaMem (c.reg a.toNat) o sz) sz opc)

def execLdsB (d a : Reg) (o : BitVec 14) (s : State) := ldForm true 1 0#2 0x18 d a o s
def execLdsH (d a : Reg) (o : BitVec 14) (s : State) := ldForm true 2 0#2 0x19 d a o s
def execLdsW (d a : Reg) (o : BitVec 14) (s : State) := ldForm true 4 0#2 0x1A d a o s
def execLdsBByp (d a : Reg) (o : BitVec 14) (s : State) := ldForm true 1 1#2 0x1C d a o s
def execLdsHByp (d a : Reg) (o : BitVec 14) (s : State) := ldForm true 2 1#2 0x1D d a o s
def execLdsWByp (d a : Reg) (o : BitVec 14) (s : State) := ldForm true 4 1#2 0x1E d a o s
def execLdsBStr (d a : Reg) (o : BitVec 14) (s : State) := ldForm true 1 2#2 0x20 d a o s
def execLdsHStr (d a : Reg) (o : BitVec 14) (s : State) := ldForm true 2 2#2 0x21 d a o s
def execLdsWStr (d a : Reg) (o : BitVec 14) (s : State) := ldForm true 4 2#2 0x22 d a o s
def execLdB (d a : Reg) (o : BitVec 14) (s : State) := ldForm false 1 0#2 0x24 d a o s
def execLdH (d a : Reg) (o : BitVec 14) (s : State) := ldForm false 2 0#2 0x25 d a o s
def execLdW (d a : Reg) (o : BitVec 14) (s : State) := ldForm false 4 0#2 0x26 d a o s
def execLdD (d a : Reg) (o : BitVec 14) (s : State) := ldForm false 8 0#2 0x27 d a o s
def execLdBByp (d a : Reg) (o : BitVec 14) (s : State) := ldForm false 1 1#2 0x28 d a o s
def execLdHByp (d a : Reg) (o : BitVec 14) (s : State) := ldForm false 2 1#2 0x29 d a o s
def execLdWByp (d a : Reg) (o : BitVec 14) (s : State) := ldForm false 4 1#2 0x2A d a o s
def execLdDByp (d a : Reg) (o : BitVec 14) (s : State) := ldForm false 8 1#2 0x2B d a o s
def execLdBStr (d a : Reg) (o : BitVec 14) (s : State) := ldForm false 1 2#2 0x2C d a o s
def execLdHStr (d a : Reg) (o : BitVec 14) (s : State) := ldForm false 2 2#2 0x2D d a o s
def execLdWStr (d a : Reg) (o : BitVec 14) (s : State) := ldForm false 4 2#2 0x2E d a o s
def execLdDStr (d a : Reg) (o : BitVec 14) (s : State) := ldForm false 8 2#2 0x2F d a o s
def execStB (v a : Reg) (o : BitVec 14) (s : State) := stForm 1 0#2 0x30 v a o s
def execStH (v a : Reg) (o : BitVec 14) (s : State) := stForm 2 0#2 0x31 v a o s
def execStW (v a : Reg) (o : BitVec 14) (s : State) := stForm 4 0#2 0x32 v a o s
def execStD (v a : Reg) (o : BitVec 14) (s : State) := stForm 8 0#2 0x33 v a o s
def execStBByp (v a : Reg) (o : BitVec 14) (s : State) := stForm 1 1#2 0x34 v a o s
def execStHByp (v a : Reg) (o : BitVec 14) (s : State) := stForm 2 1#2 0x35 v a o s
def execStWByp (v a : Reg) (o : BitVec 14) (s : State) := stForm 4 1#2 0x36 v a o s
def execStDByp (v a : Reg) (o : BitVec 14) (s : State) := stForm 8 1#2 0x37 v a o s
def execStBStr (v a : Reg) (o : BitVec 14) (s : State) := stForm 1 2#2 0x38 v a o s
def execStHStr (v a : Reg) (o : BitVec 14) (s : State) := stForm 2 2#2 0x39 v a o s
def execStWStr (v a : Reg) (o : BitVec 14) (s : State) := stForm 4 2#2 0x3A v a o s
def execStDStr (v a : Reg) (o : BitVec 14) (s : State) := stForm 8 2#2 0x3B v a o s

/-- MEMX loads (R152, R176). -/
def memxLoad (signed : Bool) (d a b : Reg) (sz pol : BitVec 2) (sc : BitVec 1) (s : State) :
    Host.Outcome State Fault Refusal :=
  s.issue [d, a, b] [a, b] [] fun n c =>
    s.startAccess n (loadReq signed pol d (eaMemx (c.reg a.toNat) (c.reg b.toNat) (sizeOf sz) sc) (sizeOf sz) 2)

def execMemxLd (d a b : Reg) (sz pol : BitVec 2) (sc : BitVec 1) (s : State) := memxLoad false d a b sz pol sc s
def execMemxLds (d a b : Reg) (sz pol : BitVec 2) (sc : BitVec 1) (s : State) := memxLoad true d a b sz pol sc s

def execMemxSt (d a b : Reg) (sz pol : BitVec 2) (sc : BitVec 1) (s : State) : Host.Outcome State Fault Refusal :=
  s.issue [d, a, b] [d, a, b] [] fun n c =>
    s.startAccess n (storeReq pol (c.reg d.toNat) (eaMemx (c.reg a.toNat) (c.reg b.toNat) (sizeOf sz) sc) (sizeOf sz) 2)

/-- PLD, an acquire when it completes (R130, R178). -/
def execPld (d a : Reg) (sc : BitVec 2) (o : BitVec 12) (s : State) : Host.Outcome State Fault Refusal :=
  s.issue [d, a] [a] [] fun n c =>
    s.startAccess n ⟨.pld, Need.pread, eaPres (c.reg a.toNat) o, 8, true, 1#2, d.toNat, 0, 0, true, false, true, false, sc, 0x11⟩

/-- PST, a release (R178). -/
def execPst (v a : Reg) (sc : BitVec 2) (o : BitVec 12) (s : State) : Host.Outcome State Fault Refusal :=
  s.issue [v, a] [v, a] [] fun n c =>
    s.startAccess n ⟨.pst, Need.pwrite, eaPres (c.reg a.toNat) o, 8, true, 1#2, 57, (c.reg v.toNat).zeroExtend 256, 0,
      false, true, false, true, sc, 0x12⟩

/-- PCLR, a release (R178). -/
def execPclr (a : Reg) (sc : BitVec 2) (o : BitVec 12) (s : State) : Host.Outcome State Fault Refusal :=
  s.issue [a] [a] [] fun n c =>
    s.startAccess n ⟨.pclr, Need.pwrite, eaPres (c.reg a.toNat) o, 8, true, 1#2, 57, 0, 0, false, true, false, true, sc, 0x13⟩

/-- MLD: a load of 32 bytes under the default policy (R194). -/
def execMld (a : Reg) (m : MaskIdx) (s : State) : Host.Outcome State Fault Refusal :=
  s.issue [a] [a] [] fun n c =>
    s.startAccess n ⟨.mload, Need.read, c.reg a.toNat, 32, true, 0#2, m.toNat, 0, 0, true, false, false, false, 0, 0x17⟩

/-- MST: a store of 32 bytes (R194). -/
def execMst (a : Reg) (m : MaskIdx) (s : State) : Host.Outcome State Fault Refusal :=
  s.issue [a] [a] [m.toNat] fun n c =>
    s.startAccess n ⟨.mstore, Need.write, c.reg a.toNat, 32, true, 0#2, 0, c.mask m.toNat, 0, false, true, false, false, 0, 0x17⟩

/-- An AMO of op code `op` on w bytes; order bit 0 acquires, bit 1 releases (R127, R129, R179). -/
def amoForm (op : BitVec 4) (w : Nat) (d a b : Reg) (sc o : BitVec 2) (s : State) : Host.Outcome State Fault Refusal :=
  s.issue [d, a, b] (if op = 9#4 then [d, a, b] else [a, b]) [] fun n c =>
    s.startAccess n ⟨.amo op, Need.rw, c.reg a.toNat, w, true, 1#2, d.toNat, (c.reg b.toNat).zeroExtend 256, c.reg d.toNat,
      decide (d ≠ 57#6), true, o.getLsbD 0, o.getLsbD 1, sc, if w = 4 then 4 else 5⟩

def execAmoAddW (d a b : Reg) (sc o : BitVec 2) (s : State) := amoForm 0#4 4 d a b sc o s
def execAmoMinW (d a b : Reg) (sc o : BitVec 2) (s : State) := amoForm 1#4 4 d a b sc o s
def execAmoMaxW (d a b : Reg) (sc o : BitVec 2) (s : State) := amoForm 2#4 4 d a b sc o s
def execAmoMinuW (d a b : Reg) (sc o : BitVec 2) (s : State) := amoForm 3#4 4 d a b sc o s
def execAmoMaxuW (d a b : Reg) (sc o : BitVec 2) (s : State) := amoForm 4#4 4 d a b sc o s
def execAmoAndW (d a b : Reg) (sc o : BitVec 2) (s : State) := amoForm 5#4 4 d a b sc o s
def execAmoOrW (d a b : Reg) (sc o : BitVec 2) (s : State) := amoForm 6#4 4 d a b sc o s
def execAmoXorW (d a b : Reg) (sc o : BitVec 2) (s : State) := amoForm 7#4 4 d a b sc o s
def execAmoSwapW (d a b : Reg) (sc o : BitVec 2) (s : State) := amoForm 8#4 4 d a b sc o s
def execAmoCasW (d a b : Reg) (sc o : BitVec 2) (s : State) := amoForm 9#4 4 d a b sc o s
def execAmoAddD (d a b : Reg) (sc o : BitVec 2) (s : State) := amoForm 0#4 8 d a b sc o s
def execAmoMinD (d a b : Reg) (sc o : BitVec 2) (s : State) := amoForm 1#4 8 d a b sc o s
def execAmoMaxD (d a b : Reg) (sc o : BitVec 2) (s : State) := amoForm 2#4 8 d a b sc o s
def execAmoMinuD (d a b : Reg) (sc o : BitVec 2) (s : State) := amoForm 3#4 8 d a b sc o s
def execAmoMaxuD (d a b : Reg) (sc o : BitVec 2) (s : State) := amoForm 4#4 8 d a b sc o s
def execAmoAndD (d a b : Reg) (sc o : BitVec 2) (s : State) := amoForm 5#4 8 d a b sc o s
def execAmoOrD (d a b : Reg) (sc o : BitVec 2) (s : State) := amoForm 6#4 8 d a b sc o s
def execAmoXorD (d a b : Reg) (sc o : BitVec 2) (s : State) := amoForm 7#4 8 d a b sc o s
def execAmoSwapD (d a b : Reg) (sc o : BitVec 2) (s : State) := amoForm 8#4 8 d a b sc o s
def execAmoCasD (d a b : Reg) (sc o : BitVec 2) (s : State) := amoForm 9#4 8 d a b sc o s

/-! ## Performance -/

/-- The value an AMO writes, none for a failed CAS (R179); w is the width in bits. -/
def amoNew (op w old x cmp : Nat) : Option Nat :=
  match op with
  | 0 => some ((old + x) % 2 ^ w)
  | 1 => some (if sx old w ≤ sx x w then old else x)
  | 2 => some (if sx old w ≤ sx x w then x else old)
  | 3 => some (Nat.min old x)
  | 4 => some (Nat.max old x)
  | 5 => some (old &&& x)
  | 6 => some (old ||| x)
  | 7 => some (old ^^^ x)
  | 8 => some x
  | _ => if old = cmp then some x else none

/-- An AMO at the home slice on bytes at a physical address: the old value (R129). -/
def State.homeAmo (s : State) (va pa bytes op x cmp : Nat) : Except MemFault (State × Nat) :=
  match s.homeReads va ((List.range bytes).map (pa + ·)) with
  | .error f => .error f
  | .ok bs =>
    let old := leNat bs
    match amoNew op (8 * bytes) old (x % 2 ^ (8 * bytes)) (cmp % 2 ^ (8 * bytes)) with
    | none => .ok (s, old)
    | some v => .ok ({ s.keepHosts pa bytes with mem := s.mem.writeNat pa bytes v }, old)

/-- The AMO's turn has come: room for its log record in record mode, its logged turn in replay (R422, R424). -/
def State.amoTurn (s : State) (k pa agent : Nat) : Bool :=
  match s.traceMode k with
  | 1 => s.traceRoom k
  | 2 => match s.nextLog k 11 fun _ d0 => decide (homeSlice d0 = homeSlice pa) with
    | none => true
    | some i => decide (s.logData k i = (pa, agent))
  | _ => true

/-- Log an AMO performed, or consume its record, as MODE stood before it (R422, R424); AGENT is the AMO's (log 22). -/
def State.amoLog (s : State) (mode k pa agent pc soff img : Nat) : State :=
  match mode with
  | 1 => s.trace k 11 agent pc soff img pa agent
  | 2 => match s.nextLog k 11 fun _ d0 => decide (homeSlice d0 = homeSlice pa) with
    | none => s
    | some i => s.consumeLog k i
  | _ => s

/-- An access is done: its counters fall. -/
def State.accessDone (s : State) (n : Nat) (a : Access) : State :=
  s.updCore n fun c => { c with
    moved := s.gtc
    accs := c.accs.filter fun b => decide (b.id ≠ a.id)
    holdAcc := c.holdAcc.filter fun i => decide (i ≠ a.id)
    holdAll := c.holdAll.filter fun i => decide (i ≠ a.id)
    holdStore := c.holdStore.filter fun i => decide (i ≠ a.id)
    ldc := if a.inLdc then c.ldc - 1 else c.ldc
    stc := if a.inStc then c.stc - 1 else c.stc }

/-- Replace an outstanding access. -/
def State.setAccess (s : State) (n : Nat) (a : Access) : State :=
  s.updCore n fun c => { c with accs := c.accs.map fun b => if b.id = a.id then a else b }

/-- A performed access whose result is a register value. -/
def State.landAccess (s : State) (n : Nat) (a : Access) (v : Word) : State := (s.landReg n a.dst v).accessDone n a

/-- The value of a load of w bits. -/
def loadValue (signed : Bool) (w v : Nat) : Word := if signed then BitVec.ofInt 64 (sx v w) else BitVec.ofNat 64 v

/-- Perform a presence load: a full word's data, a deferral, or a refusal by a full table (R112, R117). -/
def State.performPld (s : State) (n : Nat) (a : Access) : Except MemFault State :=
  let pa := a.pas.headD 0
  match s.homeReads a.va a.pas with
  | .error f => .error f
  | .ok bs =>
    if s.isFull pa then .ok (s.landAccess n a (BitVec.ofNat 64 (leNat bs)))
    else if 4096 ≤ s.deferCount (homeSlice pa) then .ok (s.setAccess n { a with refused := true })
    else .ok { s.setAccess n { a with deferred := true, refused := false } with
      deferrals := s.deferrals ++ [⟨s.nextDeferral, pa / 8, .pld n a.id, none⟩]
      nextDeferral := s.nextDeferral + 1 }

/-- The piece performed next, of those left in no defined order (R123): a free choice where there are several. -/
def State.pickPiece (s : State) (a : Access) : Option (Nat × Nat) × State :=
  match a.left with
  | [] => (none, s)
  | [p] => (some p, s)
  | p :: q :: r =>
    let (i, s1) := s.draw
    ((p :: q :: r)[(Config.freeWord i).toNat % (r.length + 2)]?, s1)

/-- The access without a piece. -/
def Access.without (a : Access) (p : Nat × Nat) : Access := { a with left := a.left.filter fun x => decide (x ≠ p) }

/-- Read one piece of a load or MLD of core n. -/
def State.loadPiece (s : State) (n : Nat) (a : Access) (p : Nat × Nat) : Except MemFault (State × Access) :=
  match s.loadBytes (some n) a.pol (a.va + p.1) ((a.pas.drop p.1).take p.2) with
  | .error f => .error f
  | .ok (s', bs) => .ok (s', { a.without p with got := a.got ||| BitVec.ofNat 256 (leNat bs * 2 ^ (8 * p.1)) })

/-- Write one piece of a store or MST of core n; that it has been published does not show it to itself. -/
def State.storePiece (s : State) (n : Nat) (a : Access) (p : Nat × Nat) : Except MemFault (State × Access) :=
  let bs := a.pas.zip (leBytes a.pas.length a.val.toNat)
  ((s.setAccess n { a with shown := false }).storeBytes (some n) a.pol a.va a.pas.length (a.va + p.1) ((bs.drop p.1).take p.2)).map fun s' => (s', a.without p)

/-- After a piece: the access is done with its last piece, which `f` settles. -/
def State.pieced (n : Nat) (f : State → Access → State) : State × Access → State
  | (s, a) => if a.left = [] then f s a else s.setAccess n a

/-- Perform an access of core n, or a piece of a wide or unaligned one (R103, R106, R113, R114, R123, R124, R177–R179). -/
def State.perform (s0 : State) (n : Nat) (a : Access) : Except MemFault State :=
  let pa := a.pas.headD 0
  match s0.pickPiece a with
  | (none, s) => .ok (s.accessDone n a)
  | (some p, s) => match a.kind with
    | .load signed => (s.loadPiece n a p).map (State.pieced n fun s a =>
        s.landAccess n a (loadValue signed (8 * a.pas.length) a.got.toNat))
    | .mload => (s.loadPiece n a p).map (State.pieced n fun s a => (s.updCore n fun c => { c with
        masks := if a.dst = 0 then c.masks else SMap.set 0#256 c.masks a.dst a.got }).accessDone n a)
    | .store => (s.storePiece n a p).map (State.pieced n fun s a => s.accessDone n a)
    | .mstore => (s.storePiece n a p).map (State.pieced n fun s a => s.accessDone n a)
    | .amo op =>
      let c := s.core n
      let agent := agentWord 0 n 0
      if !s.amoTurn c.ctx pa agent then .ok s
      else match s.homeAmo a.va pa a.pas.length op.toNat a.val.toNat a.cmp.toNat with
        | .error f => .error f
        | .ok (s', old) =>
          let s1 := s'.amoLog (s.traceMode c.ctx) c.ctx pa agent c.pc.toNat a.soff.toNat c.fab.imgId.toNat
          .ok (s1.landAccess n a (BitVec.ofNat 64 old))
    | .pld => s.performPld n a
    | .pst => (s.fillWord a.va pa (BitVec.ofNat 64 a.val.toNat)).map (·.accessDone n a)
    | .pclr => match s.blocked a.va pa with
      | some f => .error f
      | none => .ok ((s.setFull pa false).accessDone n a)

/-- What an access needs of its page. -/
def AccKind.need : AccKind → Need
  | .load _ => Need.read
  | .mload => Need.read
  | .store => Need.write
  | .mstore => Need.write
  | .amo _ => Need.rw
  | .pld => Need.pread
  | .pst => Need.pwrite
  | .pclr => Need.pwrite

/-- The physical addresses of an access none of whose pieces is performed, translated anew (R118). -/
def State.translated (s : State) (n : Nat) (a : Access) : Except MemFault (List Nat) :=
  translateRange (s.pages (s.core n).ctx) a.va a.kind.need (a.left.map (·.2)).sum

/-- An access of a resumed core that found no mapping is issued again (R118, R403). -/
def State.issueAgain (s : State) (n : Nat) (a : Access) : State :=
  match s.translated n a with
  | .ok pas => s.setAccess n { a with pas := pas }
  | .error f => if (s.core n).run = .paused then s else s.scalarMemFault n f a.soff a.opc

/-- Perform the access with an id, if it may be performed and stands as `refused` says. -/
def State.tryAccess (s : State) (n id : Nat) (refused : Bool) : State :=
  let c := s.core n
  match c.accs.find? fun a => decide (a.id = id) with
  | none => s
  | some a =>
    if a.pas = [] then s.issueAgain n a
    else if a.deferred || (a.refused != refused) || !c.mayPerform a || !a.takes.all s.cmdDone || a.pas.any s.copying then s
    else match s.perform n a with
      | .ok s' => s'
      | .error f => s.scalarMemFault n f a.soff a.opc

/-- SCALAR_ACCESS_COMPLETE: an outstanding access is performed at the level its policy names (R177). -/
def execScalarAccessComplete (core acc : Nat) (s : State) : Host.Outcome State Fault Refusal :=
  .next (s.tryAccess core acc false)

/-- What the place held for a PLDA becomes. -/
def Core.putSlot (c : Core) (site id : Nat) (out : Slot) : Core :=
  let x := elemPlace site
  Core.settle x settleFuel (c.setQueue x ((c.queue x).map fun q => if q = .wait id then out else q))

/-- The result of a PLDA takes the place held for it: bits 31:0 of the word (R243). -/
def Core.fillSlot (c : Core) (site id : Nat) (v : Word) : Core :=
  c.putSlot site id (.tok (Token.ofData (BitVec.ofNat 32 v.toNat)))

/-- A deferred presence load whose word was filled returns the filling value (R112). -/
def State.landDeferral (s : State) (slot : Nat) : State :=
  match s.deferrals.find? fun d => decide (d.id = slot) with
  | none => s
  | some d => match d.filled with
    | none => s
    | some v =>
      let s1 := { s with deferrals := s.deferrals.filter fun e => decide (e.id ≠ slot) }
      match d.who with
      | .pld n id => match (s1.core n).accs.find? fun a => decide (a.id = id) with
        | none => s1
        | some a => s1.landAccess n a v
      | .plda n site _ => s1.updCore n fun c => { c.fillSlot site slot v with drained := false, moved := s.gtc }

/-- PLD_DEFERRED_COMPLETE (R112, R35). -/
def execPldDeferredComplete (slot : Nat) (s : State) : Host.Outcome State Fault Refusal := .next (s.landDeferral slot)

end Sys2Proof.Machine
end

