-- ==== Sys2Proof/Machine/Alu.lean ====
section
/-! DEFINITION. Arithmetic, logic, immediates, bit fields, compares, predicates and selection (08_control_core.md,
R169–R175). -/

namespace Sys2Proof.Machine

/-! ## Shared shapes -/

/-- A form reading a and b, writing d and ll. -/
def alu2 (f : Word → Word → Word) (d a b : Reg) (s : State) : Host.Outcome State Fault Refusal :=
  s.issue [d, a, b] [a, b] [] fun n c =>
    (s.writeRes n d.toNat (f (c.reg a.toNat) (c.reg b.toNat))).advance n 1

/-- A form reading a only, writing d and ll. -/
def alu1 (f : Word → Word) (d a : Reg) (s : State) : Host.Outcome State Fault Refusal :=
  s.issue [d, a] [a] [] fun n c => (s.writeRes n d.toNat (f (c.reg a.toNat))).advance n 1

/-- A constant into d and ll. -/
def alu0 (v : Word) (d : Reg) (s : State) : Host.Outcome State Fault Refusal :=
  s.issue [d] [] [] fun n _ => (s.writeRes n d.toNat v).advance n 1

/-- A compare of two values into a predicate and ll. -/
def cmp2 (cc : Nat) (p : PredIdx) (a b : Reg) (s : State) : Host.Outcome State Fault Refusal :=
  s.issue [a, b] [a, b] [] fun n c =>
    (s.writePred n p.toNat (condHolds cc (c.reg a.toNat) (c.reg b.toNat))).advance n 1

/-- A compare with an immediate. -/
def cmp1 (cc : Nat) (p : PredIdx) (a : Reg) (i : BitVec 13) (s : State) : Host.Outcome State Fault Refusal :=
  s.issue [a] [a] [] fun n c => (s.writePred n p.toNat (condHolds cc (c.reg a.toNat) (imm13 i))).advance n 1

/-- A predicate operation: the destination's negate bit stores the complement (R174). -/
def predOp (f : Bool → Bool → Bool) (d a b : PredField) (s : State) : Host.Outcome State Fault Refusal :=
  s.issue [] [] [] fun n c =>
    (s.writePred n (d.toNat % 16) (f (c.predField a) (c.predField b) != d.getLsbD 4)).advance n 1

/-! ## The ALU major (R169, R170) -/

def execAdd (d a b : Reg) (s : State) := alu2 (· + ·) d a b s
def execSub (d a b : Reg) (s : State) := alu2 (· - ·) d a b s
def execMul (d a b : Reg) (s : State) := alu2 (· * ·) d a b s
def execMulh (d a b : Reg) (s : State) := alu2 mulhW d a b s
def execMulhu (d a b : Reg) (s : State) := alu2 mulhuW d a b s
def execDiv (d a b : Reg) (s : State) := alu2 divW d a b s
def execDivu (d a b : Reg) (s : State) := alu2 divuW d a b s
def execRem (d a b : Reg) (s : State) := alu2 remW d a b s
def execRemu (d a b : Reg) (s : State) := alu2 remuW d a b s
def execAnd (d a b : Reg) (s : State) := alu2 (· &&& ·) d a b s
def execOr (d a b : Reg) (s : State) := alu2 (· ||| ·) d a b s
def execXor (d a b : Reg) (s : State) := alu2 (· ^^^ ·) d a b s
def execAndn (d a b : Reg) (s : State) := alu2 (fun x y => x &&& ~~~y) d a b s
def execShl (d a b : Reg) (s : State) := alu2 (fun x y => x <<< shamt y) d a b s
def execShr (d a b : Reg) (s : State) := alu2 (fun x y => x >>> shamt y) d a b s
def execSar (d a b : Reg) (s : State) := alu2 (fun x y => x.sshiftRight (shamt y)) d a b s
def execMin (d a b : Reg) (s : State) := alu2 minW d a b s
def execMax (d a b : Reg) (s : State) := alu2 maxW d a b s
def execMinu (d a b : Reg) (s : State) := alu2 minuW d a b s
def execMaxu (d a b : Reg) (s : State) := alu2 maxuW d a b s
def execClz (d a : Reg) (s : State) := alu1 clzW d a s
def execCtz (d a : Reg) (s : State) := alu1 ctzW d a s
def execPopc (d a : Reg) (s : State) := alu1 popcW d a s
def execSext (d a : Reg) (w : BitVec 6) (s : State) := alu1 (fun x => sextW x (w.toNat + 1)) d a s
def execZext (d a : Reg) (w : BitVec 6) (s : State) := alu1 (fun x => zextW x (w.toNat + 1)) d a s
def execMov (d a : Reg) (s : State) := alu1 id d a s
def execLeaX1 (d a b : Reg) (s : State) := alu2 (leaW 1) d a b s
def execLeaX2 (d a b : Reg) (s : State) := alu2 (leaW 2) d a b s
def execLeaX4 (d a b : Reg) (s : State) := alu2 (leaW 4) d a b s
def execLeaX8 (d a b : Reg) (s : State) := alu2 (leaW 8) d a b s

/-! ## Immediates (R171) -/

def execAddi (d a : Reg) (i : BitVec 14) (s : State) := alu1 (· + imm14 i) d a s
def execAndi (d a : Reg) (i : BitVec 14) (s : State) := alu1 (· &&& uimm14 i) d a s
def execOri (d a : Reg) (i : BitVec 14) (s : State) := alu1 (· ||| uimm14 i) d a s
def execXori (d a : Reg) (i : BitVec 14) (s : State) := alu1 (· ^^^ uimm14 i) d a s
def execShli (d a : Reg) (k : BitVec 6) (s : State) := alu1 (· <<< k.toNat) d a s
def execShri (d a : Reg) (k : BitVec 6) (s : State) := alu1 (· >>> k.toNat) d a s
def execSari (d a : Reg) (k : BitVec 6) (s : State) := alu1 (·.sshiftRight k.toNat) d a s
def execLi (d : Reg) (i : BitVec 20) (s : State) := alu0 (imm20 i) d s
def execLui (d : Reg) (i : BitVec 20) (s : State) := alu0 (imm20 i <<< 14) d s

/-! ## Bit fields (R172) -/

def execBfx (d a : Reg) (w p : BitVec 6) (s : State) := alu1 (fun x => bfxW x (w.toNat + 1) p.toNat) d a s
def execBfxu (d a : Reg) (w p : BitVec 6) (s : State) := alu1 (fun x => bfxuW x (w.toNat + 1) p.toNat) d a s

/-- BFI reads d as a source before it writes it (R7, R172). -/
def execBfi (d a : Reg) (w p : BitVec 6) (s : State) : Host.Outcome State Fault Refusal :=
  s.issue [d, a] [d, a] [] fun n c =>
    (s.writeRes n d.toNat (bfiW (c.reg d.toNat) (c.reg a.toNat) (w.toNat + 1) p.toNat)).advance n 1

/-! ## Compares, predicates, selection (R173–R175) -/

def execCmpEq (p : PredIdx) (a b : Reg) (s : State) := cmp2 0 p a b s
def execCmpNe (p : PredIdx) (a b : Reg) (s : State) := cmp2 1 p a b s
def execCmpLt (p : PredIdx) (a b : Reg) (s : State) := cmp2 2 p a b s
def execCmpLe (p : PredIdx) (a b : Reg) (s : State) := cmp2 3 p a b s
def execCmpLtu (p : PredIdx) (a b : Reg) (s : State) := cmp2 4 p a b s
def execCmpLeu (p : PredIdx) (a b : Reg) (s : State) := cmp2 5 p a b s
def execCmpiEq (p : PredIdx) (a : Reg) (i : BitVec 13) (s : State) := cmp1 0 p a i s
def execCmpiNe (p : PredIdx) (a : Reg) (i : BitVec 13) (s : State) := cmp1 1 p a i s
def execCmpiLt (p : PredIdx) (a : Reg) (i : BitVec 13) (s : State) := cmp1 2 p a i s
def execCmpiLe (p : PredIdx) (a : Reg) (i : BitVec 13) (s : State) := cmp1 3 p a i s
def execCmpiLtu (p : PredIdx) (a : Reg) (i : BitVec 13) (s : State) := cmp1 4 p a i s
def execCmpiLeu (p : PredIdx) (a : Reg) (i : BitVec 13) (s : State) := cmp1 5 p a i s
def execPand (d a b : PredField) (s : State) := predOp (· && ·) d a b s
def execPor (d a b : PredField) (s : State) := predOp (· || ·) d a b s
def execPxor (d a b : PredField) (s : State) := predOp (· != ·) d a b s
def execPnot (d a : PredField) (s : State) := predOp (fun x _ => !x) d a 0#5 s

def execSel (d a b : Reg) (p : PredField) (s : State) : Host.Outcome State Fault Refusal :=
  s.issue [d, a, b] [a, b] [] fun n c =>
    (s.writeRes n d.toNat (if c.predField p then c.reg a.toNat else c.reg b.toNat)).advance n 1

end Sys2Proof.Machine
end

