-- ==== Sys2Proof/Machine/Elem.lean ====
section
/-! DEFINITION. Elementwise elements (10_element_ops.md, R229–R237, R240, R241): what every firing shares, and the integer,
floating-point, conversion and early-firing operations. -/

namespace Sys2Proof.Machine

/-! ## Values (R42, R68, R232) -/

/-- Width and signedness of the integer format of an element. -/
def intFmt (fmt : Nat) : Nat × Bool := (IntFmt.ofCode fmt).getD (32, true)

/-- Decode(x[w−1:0], FMT) of an integer element. -/
def intVal (fmt : Nat) (x : BitVec 32) : Int :=
  let (w, signed) := intFmt fmt
  if signed then sx x.toNat w else ((x.toNat % 2 ^ w : Nat) : Int)

/-- v[w−1:0], sign-extended for a signed format and zero-extended for any other. -/
def intExt (fmt : Nat) (v : Int) : BitVec 32 :=
  let (w, signed) := intFmt fmt
  if signed then BitVec.ofInt 32 (sx (lowBits v w) w) else BitVec.ofNat 32 (lowBits v w)

/-- The w-bit pattern of an integer element's input. -/
def pattern (fmt : Nat) (x : BitVec 32) : Nat := x.toNat % 2 ^ (intFmt fmt).1

/-- The floating format of an element. -/
def floatFmt (fmt : Nat) : FloatFmt := (FloatFmt.ofCode fmt).getD FloatFmt.fp32

/-- The format is a floating one an element computes in. -/
def isFloatFmt (fmt : Nat) : Bool := decide (7 ≤ fmt ∧ fmt ≤ 9)

/-- A comparison result: the full token 1 or 0. -/
def bit32 (b : Bool) : BitVec 32 := if b then 1#32 else 0#32

/-! ## Firing -/

/-- A result with its flags. -/
abbrev ElemRes := BitVec 32 × Flags

/-- What an element computes from its word and its operands a, b and c. -/
abbrev ElemFn := Nat → BitVec 32 → BitVec 32 → BitVec 32 → ElemRes

/-- What the inputs of an element allow. -/
inductive Firing where
  /-- Not enough tokens, or no room. -/
  | idle
  | bad (sub : Nat)
  /-- A control token was forwarded or a predicate's discarded. -/
  | passed (c : Core)
  /-- A predicate of zero: operands popped (R50). -/
  | skipped (c : Core) (a : BitVec 32)
  /-- Operands taken, to be computed with. -/
  | fires (c : Core) (a b x : BitVec 32)
deriving DecidableEq, Repr

/-- Data bits of operand k of an element: its token among the listed inputs, the immediate for b with IMMB, else zero. -/
def operandBits (w : Nat) (ins : List (Nat × Token)) (k : Nat) : BitVec 32 :=
  match ins.find? fun p => decide (p.1 = k) with
  | some p => p.2.data
  | none => if k = 1 ∧ wImmb w then BitVec.ofNat 32 (wImm w % 2 ^ fmtWidth (wFmt w)) else 0#32

/-- A data firing's effect on segment counters of the listed inputs, and the levels that end there. -/
def Core.segAll (c : Core) (r : Nat) (ks : List Nat) : Core × List (List Nat) :=
  (ks.foldl (fun c k => c.setSegs (inPlace r k) (segData (c.segs (inPlace r k))).1) c,
    ks.map fun k => (segData (c.segs (inPlace r k))).2)

/-- In native mode counters that reach zero at a firing do so at every input (R382). -/
def segsAgree (w : Nat) (zs : List (List Nat)) : Bool :=
  wSegi w || zs.all fun z => decide (some z = zs.head?)

/-- A control token at the predicate input whose match the element has passed already is discarded (R50). -/
def Core.predOwed (c : Core) (r : Nat) : Option Core :=
  match c.input (inPlace r 3) with
  | some t =>
    if t.isData then none
    else
      let e := c.est r
      match e.owed.dropWhile fun u => decide (u.kind ≠ t.kind) with
      | [] => none
      | _ :: rest => some ((c.pop (inPlace r 3)).setEst r { e with owed := rest })
  | none => none

/-- Every operand input holds a token (R48, R50, R382). -/
def Core.fireFull (c : Core) (r : Nat) (ins : List (Nat × Token)) : Firing :=
  let w := c.word r
  let ks := ins.map (·.1)
  let popAll := fun (c : Core) => ks.foldl (fun c k => c.pop (inPlace r k)) c
  let p := c.input (inPlace r 3)
  let bits := operandBits w ins
  if ins.all fun i => i.2.isData then
    let (c1, zs) := c.segAll r ks
    let take := fun (c : Core) => (popAll c).setEst r { c.est r with owed := [] }
    if wPmode w = 0 then
      (if segsAgree w zs then .fires (popAll c1) (bits 0) (bits 1) (bits 2) else .bad 1)
    else match p with
      | none => .idle
      | some q =>
        if !q.isData || !segsAgree w zs then .bad 1
        else if q.data = 0#32 then .skipped (take (c1.pop (inPlace r 3))) (bits 0)
        else .fires (take (c1.pop (inPlace r 3))) (bits 0) (bits 1) (bits 2)
  else match ins with
    | [] => .idle
    | (_, t) :: _ =>
      if ins.any fun i => decide (i.2.kind ≠ t.kind) then .bad 1
      else
        let c1 := popAll (ins.foldl (fun c i => c.segSee (inPlace r i.1) i.2) c)
        let done := fun (c : Core) => Firing.passed (c.push (elemPlace r) [t])
        if wPmode w = 0 then done c1
        else match p with
          | none => done (c1.setEst r { c1.est r with owed := (c1.est r).owed ++ [t] })
          | some q =>
            if q.isData then done c1
            else if q.kind = t.kind then done ((c1.pop (inPlace r 3)).setEst r { c1.est r with owed := [] })
            else .bad 1

/-- The inputs owed an anti-token if an early-firing element may fire now on the inputs it holds (R56). That EAND, EOR and EMUX
look at all 32 bits at a narrow format too is the model's (R240; log 90). -/
def earlyOwed (w : Nat) (ks : List Nat) (ins : List (Nat × Token)) : Option (List Nat) :=
  let tok := fun k => (ins.find? fun p => decide (p.1 = k)).map (·.2)
  let absent := ks.filter fun k => decide (tok k = none)
  let zero := fun (t : Token) => if wOp w = 3 then decide (intVal (wFmt w) t.data = 0) else decide (t.data = 0#32)
  if absent = [] ∨ ins.any (fun i => !i.2.isData) then none
  else if wOp w = 0x60 then
    match tok 2 with
    | none => none
    | some t => if (if t.data = 0#32 then 0 else 1) ∈ absent then none else some absent
  else if ins.any fun i => if wOp w = 0x62 then !zero i.2 else zero i.2 then some absent
  else none

/-- An early firing may use its predicate: there is none, or it is here and not zero. With one of zero the operands are
popped, so the firing waits for all of them (R50, R56; log 68). -/
def Core.predHere (c : Core) (r : Nat) : Bool :=
  decide (wPmode (c.word r) = 0) || (match c.input (inPlace r 3) with
    | some q => q.isData && decide (q.data ≠ 0#32)
    | none => false)

/-- An early firing takes its predicate. -/
def Core.takePred (c : Core) (r : Nat) : Core :=
  if wPmode (c.word r) = 0 then c else (c.pop (inPlace r 3)).setEst r { c.est r with owed := [] }

/-- An early firing: inputs held and the predicate are taken, and an anti-token enters the reverse slot of each other input
(R50, R56, R57). -/
def Core.fireEarly (c : Core) (r : Nat) (ins : List (Nat × Token)) : Firing :=
  let w := c.word r
  match earlyOwed w (operands w) ins with
  | none => .idle
  | some owed =>
    if !c.predHere r || owed.any fun k => decide (c.rev (inPlace r k) ≠ 0) then .idle
    else
      let (c1, zs) := c.segAll r (operands w)
      if !segsAgree w zs then .bad 1
      else
        let c2 := (ins.foldl (fun c i => c.pop (inPlace r i.1)) c1).takePred r
        let bits := operandBits w ins
        .fires (owed.foldl (fun c k => c.setRev (inPlace r k) 1) c2) (bits 0) (bits 1) (bits 2)

/-- What an element of several operands does with the tokens at its inputs. -/
def Core.firing (c : Core) (r : Nat) : Firing :=
  let w := c.word r
  let ks := operands w
  let ins := ks.filterMap fun k => (c.input (inPlace r k)).map fun t => (k, t)
  match (if wPmode w = 0 then none else c.predOwed r) with
  | some c1 => .passed c1
  | none =>
    if elemRoom w ≤ (c.queue (elemPlace r)).length then .idle
    else if ins.length = ks.length then c.fireFull r ins
    else if wE w then c.fireEarly r ins
    else .idle

/-- A result of a predicate of zero: nothing in mode DROP, operand a in mode KEEP (R50). -/
def Core.skip (c : Core) (r : Nat) (a : BitVec 32) : Core :=
  if wPmode (c.word r) = 2 then c.push (elemPlace r) [Token.ofData a] else c

/-- Firing of an elementwise element (R42, R48, R50, R56). -/
def Core.fireWise (f : ElemFn) (r : Nat) (c : Core) : FabRes :=
  let w := c.word r
  match c.firing r with
  | .idle => .idle
  | .bad sub => .bad r (wOp w) sub
  | .passed c1 => .ok c1 Flags.none
  | .skipped c1 a => .ok (c1.skip r a) Flags.none
  | .fires c1 a b x =>
    let (v, fl) := f w a b x
    .ok (c1.push (elemPlace r) [Token.ofData v]) fl

/-- Site r of core n holds an operation of the list. -/
def State.hasOp (s : State) (n r : Nat) (ops : List Nat) : Bool :=
  decide (r < 256) && decide (wOp ((s.core n).word r) ∈ ops)

/-- Firing of an elementwise element as a step. -/
def wise (op : Nat) (f : ElemFn) (core site : Nat) (s : State) : Host.Outcome State Fault Refusal :=
  .next (if s.hasOp core site [op] then s.fabricAct core (elemPlace site) (Core.fireWise f site) else s)

/-! ## Integer operations (R232, R233) -/

/-- A result without flags from the element's values. -/
def intFn (f : Int → Int → Int → Int) : ElemFn := fun w a b x =>
  let m := wFmt w
  (intExt m (f (intVal m a) (intVal m b) (intVal m x)), Flags.none)

/-- A result from the w-bit patterns. -/
def patFn (f : Nat → Nat → Nat → Nat) : ElemFn := fun w a b _ =>
  let m := wFmt w
  (intExt m (f (intFmt m).1 (pattern m a) (pattern m b) : Nat), Flags.none)

/-- A shift: width, value and pattern of a, and s = b[5:0]. -/
def shiftFn (f : Nat → Int → Nat → Nat → Int) : ElemFn := fun w a b _ =>
  let m := wFmt w
  (intExt m (f (intFmt m).1 (intVal m a) (pattern m a) (b.toNat % 64)), Flags.none)

/-- A comparison of values, and one of patterns. -/
def cmpFn (f : Int → Int → Bool) : ElemFn := fun w a b _ => (bit32 (f (intVal (wFmt w) a) (intVal (wFmt w) b)), Flags.none)
def cmpuFn (f : Nat → Nat → Bool) : ElemFn := fun w a b _ => (bit32 (f (pattern (wFmt w) a) (pattern (wFmt w) b)), Flags.none)

/-- An exact result clamped to the format, with SAT when it clamps. -/
def satFn (f : Int → Int → Int) : ElemFn := fun w a b _ =>
  let m := wFmt w
  let v := f (intVal m a) (intVal m b)
  let (lo, hi) := intRange (intFmt m).1 (intFmt m).2
  (intExt m (satInt v lo hi), if lo ≤ v ∧ v ≤ hi then Flags.none else Flags.sat)

/-- Arithmetic shift of the w-bit pattern of a signed reading, copies of bit w−1 entering. -/
def sarInt (w p s : Nat) : Int := sx p w / ((2 ^ s : Nat) : Int)

/-- Lanes of a packed operand (R233). -/
def lane (signed : Bool) (w k : Nat) (x : BitVec 32) : Int :=
  let v := x.toNat / 2 ^ (w * k) % 2 ^ w
  if signed then sx v w else (v : Int)

/-- DOT4 and DOT2: c + Σ a_k × b_k, clamped with SATO (R91, R233). -/
def dotFn (lanes width : Nat) : ElemFn := fun w a b x =>
  let signed := (intFmt (wFmt w)).2
  let v := x.toInt + ((List.range lanes).map fun k => lane signed width k a * lane signed width k b).sum
  let (lo, hi) := intRange 32 true
  if wSat w then (BitVec.ofInt 32 (satInt v lo hi), if lo ≤ v ∧ v ≤ hi then Flags.none else Flags.sat)
  else (BitVec.ofInt 32 v, Flags.none)

/-! ## Floating-point operations (R234) -/

/-- A rounded result from the decoded operands: what `f` yields under the element's mode, with its own flags. -/
def floatFn (f : RMode → XR → XR → XR → XR × Flags) : ElemFn := fun w a b x =>
  let m := floatFmt (wFmt w)
  let d := fun (y : BitVec 32) => m.decode (y.toNat % 2 ^ fmtWidth (wFmt w))
  let (v, f1) := f (wRm w) (d a) (d b) (d x)
  let (r, f2) := m.round v (wRm w)
  (BitVec.ofNat 32 r, f1 ||| f2)

/-- a × b + c, exact (R77, R234). That a product of 0 and infinity raises INV beside a NaN c too is the model's (log 91). -/
def fmaX (rm : RMode) (a b c : XR) : XR × Flags :=
  let (p, f1) := XR.mul a b
  let (v, f2) := XR.add p c rm
  (v, f1 ||| f2)

/-- The lesser or greater of two, NaN with either NaN (R234). -/
def fminX (a b : XR) : XR := if a.isNaN || b.isNaN then .nan else if XR.rank a b = .gt then b else a
def fmaxX (a b : XR) : XR := if a.isNaN || b.isNaN then .nan else if XR.rank a b = .lt then b else a

def frcpX : XR → XR × Flags
  | .nan => (.nan, Flags.none)
  | .inf n => (.fin n 0 0, Flags.none)
  | .fin n m e => if m = 0 then (.inf n, Flags.dz) else (recipFin n m e, Flags.none)

def frsqX : XR → XR × Flags
  | .nan => (.nan, Flags.none)
  | .inf n => if n then (.nan, Flags.inv) else (.fin false 0 0, Flags.none)
  | .fin n m e =>
    if m = 0 then (.inf n, Flags.none) else if n then (.nan, Flags.inv) else (rsqrtFin m e, Flags.none)

def fexp2X : XR → XR × Flags
  | .nan => (.nan, Flags.none)
  | .inf n => if n then (.fin false 0 0, Flags.none) else (.inf false, Flags.none)
  | .fin n m e => if m = 0 then (.fin false 1 0, Flags.none) else (exp2Fin n m e, Flags.none)

def flog2X : XR → XR × Flags
  | .nan => (.nan, Flags.none)
  | .inf n => if n then (.nan, Flags.inv) else (.inf false, Flags.none)
  | .fin n m e =>
    if m = 0 then (.inf true, Flags.dz) else if n then (.nan, Flags.inv) else (log2Fin m e, Flags.none)

/-- FCMP: IEEE comparison; NaN is unordered and unequal (R234). -/
def fcmpFn (f : Ordering → Bool) (onNan : Bool) : ElemFn := fun w a b _ =>
  let m := floatFmt (wFmt w)
  let d := fun (y : BitVec 32) => m.decode (y.toNat % 2 ^ fmtWidth (wFmt w))
  (bit32 (if (d a).isNaN || (d b).isNaN then onNan else f (XR.cmp (d a) (d b))), Flags.none)

/-- MAC: integer, or FMA on a floating format. -/
def macFn : ElemFn := fun w a b x =>
  if isFloatFmt (wFmt w) then floatFn fmaX w a b x else intFn (fun a b c => a * b + c) w a b x

/-! ## Conversions (R81, R235, R237) -/

/-- CVT from format `src` to FMT (R81, R235). -/
def cvtFn : ElemFn := fun w a _ _ =>
  let src := wImm w % 16
  let dst := wFmt w
  let x := a.toNat % 2 ^ fmtWidth src
  match FloatFmt.ofCode dst, FloatFmt.ofCode src with
  | some m, some k =>
    if src = dst then (BitVec.ofNat 32 (if (k.decode x).isNaN then k.canonNaN else x), Flags.none)
    else let (r, f) := m.round (k.decode x) (wRm w); (BitVec.ofNat 32 r, f)
  | some m, none => let (r, f) := m.round (decodeFmt x src) (wRm w); (BitVec.ofNat 32 r, f)
  | none, some k =>
    let (v, f) := toIntFmt (k.decode x) (intFmt dst).1 (intFmt dst).2 (wRm w)
    (intExt dst v, f)
  | none, none =>
    let v := intVal src a
    let (lo, hi) := intRange (intFmt dst).1 (intFmt dst).2
    if wSat w ∧ ¬(lo ≤ v ∧ v ≤ hi) then (intExt dst (satInt v lo hi), Flags.sat) else (intExt dst v, Flags.none)

/-- DQN: code × scale as FP32 (R237); a QC4 block of scale 0 is +0 (R84). -/
def dqnFn : ElemFn := fun w a _ _ =>
  let m := wFmt w
  let sc := a.toNat / 256 % 256
  let out := fun (v : XR) (f : Flags) => let (r, g) := FloatFmt.fp32.round v (wRm w); (BitVec.ofNat 32 r, f ||| g)
  if m = 0xD then
    if sc = 0 then (0#32, Flags.none)
    else
      let (v, f) := XR.mul (qc4Value a.toNat) (.fin false sc (-8))
      let (u, g) := XR.mul v (FloatFmt.fp32.decode (wImm w))
      out u (f ||| g)
  else if sc = 255 then out .nan Flags.none
  else
    let (v, f) := XR.mul (decodeFmt a.toNat m) (.fin false 1 ((sc : Int) - 127))
    out v f

/-! ## The rows -/

def execElemAdd (core site : Nat) (s : State) := wise 0x01 (intFn fun a b _ => a + b) core site s
def execElemSub (core site : Nat) (s : State) := wise 0x02 (intFn fun a b _ => a - b) core site s
def execElemMul (core site : Nat) (s : State) := wise 0x03 (intFn fun a b _ => a * b) core site s
def execElemMac (core site : Nat) (s : State) := wise 0x04 macFn core site s
def execElemMin (core site : Nat) (s : State) := wise 0x05 (intFn fun a b _ => if a ≤ b then a else b) core site s
def execElemMax (core site : Nat) (s : State) := wise 0x06 (intFn fun a b _ => if a ≤ b then b else a) core site s
def execElemAbs (core site : Nat) (s : State) := wise 0x07 (intFn fun a _ _ => if a < 0 then -a else a) core site s
def execElemNeg (core site : Nat) (s : State) := wise 0x08 (intFn fun a _ _ => -a) core site s
def execElemAnd (core site : Nat) (s : State) := wise 0x09 (patFn fun _ a b => a &&& b) core site s
def execElemOr (core site : Nat) (s : State) := wise 0x0A (patFn fun _ a b => a ||| b) core site s
def execElemXor (core site : Nat) (s : State) := wise 0x0B (patFn fun _ a b => a ^^^ b) core site s
def execElemNot (core site : Nat) (s : State) := wise 0x0C (patFn fun w a _ => 2 ^ w - 1 - a) core site s
def execElemShl (core site : Nat) (s : State) :=
  wise 0x0D (shiftFn fun w _ p k => if w ≤ k then 0 else (p * 2 ^ k : Nat)) core site s
def execElemShr (core site : Nat) (s : State) := wise 0x0E (shiftFn fun _ _ p k => (p / 2 ^ k : Nat)) core site s
def execElemSar (core site : Nat) (s : State) := wise 0x0F (shiftFn fun w _ p k => sarInt w p k) core site s
def execElemCmpEq (core site : Nat) (s : State) := wise 0x10 (cmpFn fun a b => decide (a = b)) core site s
def execElemCmpNe (core site : Nat) (s : State) := wise 0x11 (cmpFn fun a b => decide (a ≠ b)) core site s
def execElemCmpLt (core site : Nat) (s : State) := wise 0x12 (cmpFn fun a b => decide (a < b)) core site s
def execElemCmpLe (core site : Nat) (s : State) := wise 0x13 (cmpFn fun a b => decide (a ≤ b)) core site s
def execElemCmpLtu (core site : Nat) (s : State) := wise 0x14 (cmpuFn fun a b => decide (a < b)) core site s
def execElemCmpLeu (core site : Nat) (s : State) := wise 0x15 (cmpuFn fun a b => decide (a ≤ b)) core site s
/-- SEL delivers a token's data bits in the element's format (R42, R233). -/
def selFn : ElemFn := fun w a b x =>
  let v := if x = 0#32 then a else b
  (match IntFmt.ofCode (wFmt w) with
    | some _ => intExt (wFmt w) (intVal (wFmt w) v)
    | none => BitVec.ofNat 32 (v.toNat % 2 ^ fmtWidth (wFmt w)), Flags.none)
def execElemSel (core site : Nat) (s : State) := wise 0x16 selFn core site s
def execElemDot4 (core site : Nat) (s : State) := wise 0x18 (dotFn 4 8) core site s
def execElemDot2 (core site : Nat) (s : State) := wise 0x19 (dotFn 2 16) core site s
def execElemSatadd (core site : Nat) (s : State) := wise 0x1A (satFn (· + ·)) core site s
def execElemSatsub (core site : Nat) (s : State) := wise 0x1B (satFn (· - ·)) core site s
/-- Leading zeros and one bits of the w-bit pattern; the width is the fuel. -/
def clzFn : ElemFn := patFn fun w a _ => if a = 0 then w else w - 1 - Nat.log2 a
def popcFn : ElemFn := patFn fun w a _ => ((List.range w).filter fun i => a.testBit i).length
def execElemClz (core site : Nat) (s : State) := wise 0x1C clzFn core site s
def execElemPopc (core site : Nat) (s : State) := wise 0x1D popcFn core site s

def execFadd (core site : Nat) (s : State) := wise 0x20 (floatFn fun rm a b _ => XR.add a b rm) core site s
def execFsub (core site : Nat) (s : State) := wise 0x21 (floatFn fun rm a b _ => XR.add a b.negate rm) core site s
def execFmul (core site : Nat) (s : State) := wise 0x22 (floatFn fun _ a b _ => XR.mul a b) core site s
def execFma (core site : Nat) (s : State) := wise 0x23 (floatFn fmaX) core site s
def execFmin (core site : Nat) (s : State) := wise 0x24 (floatFn fun _ a b _ => (fminX a b, Flags.none)) core site s
def execFmax (core site : Nat) (s : State) := wise 0x25 (floatFn fun _ a b _ => (fmaxX a b, Flags.none)) core site s
def execFabs (core site : Nat) (s : State) := wise 0x26 (floatFn fun _ a _ _ => (a.abs, Flags.none)) core site s
def execFneg (core site : Nat) (s : State) := wise 0x27 (floatFn fun _ a _ _ => (a.negate, Flags.none)) core site s
def execFrcp (core site : Nat) (s : State) := wise 0x28 (floatFn fun _ a _ _ => frcpX a) core site s
def execFrsq (core site : Nat) (s : State) := wise 0x29 (floatFn fun _ a _ _ => frsqX a) core site s
def execFexp2 (core site : Nat) (s : State) := wise 0x2A (floatFn fun _ a _ _ => fexp2X a) core site s
def execFlog2 (core site : Nat) (s : State) := wise 0x2B (floatFn fun _ a _ _ => flog2X a) core site s
def execFcmpEq (core site : Nat) (s : State) := wise 0x30 (fcmpFn (· == .eq) false) core site s
def execFcmpNe (core site : Nat) (s : State) := wise 0x31 (fcmpFn (· != .eq) true) core site s
def execFcmpLt (core site : Nat) (s : State) := wise 0x32 (fcmpFn (· == .lt) false) core site s
def execFcmpLe (core site : Nat) (s : State) := wise 0x33 (fcmpFn (· != .gt) false) core site s
def execCvt (core site : Nat) (s : State) := wise 0x40 cvtFn core site s
def execDqn (core site : Nat) (s : State) := wise 0x42 dqnFn core site s
def execEmux (core site : Nat) (s : State) := wise 0x60 selFn core site s
def execEand (core site : Nat) (s : State) :=
  wise 0x61 (fun _ a b _ => (bit32 (decide (a ≠ 0#32) && decide (b ≠ 0#32)), Flags.none)) core site s
def execEor (core site : Nat) (s : State) :=
  wise 0x62 (fun _ a b _ => (bit32 (decide (a ≠ 0#32) || decide (b ≠ 0#32)), Flags.none)) core site s

end Sys2Proof.Machine
end

