-- ==== Sys2Proof/WellFormed.lean ====
section
/-! DEFINITION. Which terms of `Instr` the encodings admit (R148–R159, R165, R373): codes that are not reserved and fields
that must be zero, and for events an agent that exists. -/

namespace Sys2Proof

/-- ACT of a HURDLE (R202, R220). -/
def CmdWords.hurdleAct (w : CmdWords) : Nat := w.w3.toNat / 2 ^ 28 % 4

/-- SCOPE of a HURDLE (R202, R220). -/
def CmdWords.hurdleScope (w : CmdWords) : Nat := w.w3.toNat / 2 ^ 30

/-- DIR of a COPY.IND (R202, R214). -/
def CmdWords.indScatter (w : CmdWords) : Bool := w.w3.getLsbD 28

/-- OP of a SCATTER (R279). -/
def CmdWords.scatterOp (w : CmdWords) : Nat := w.w3.toNat / 2 ^ 10 % 8

/-- A reserved field code of a command word (R373): NW 3, HINT 0b11, MM.ACC VAR 3–15 and MF 3, a format code of 0xE or
0xF in W3. -/
def CmdWords.reservedCode (w : CmdWords) (opc : Nat) : Bool :=
  decide (w.nw = 3#2) || decide (w.hint = 3#2)
  || (decide (opc = 0x45) && (decide (3 ≤ w.var.toNat) || decide (w.w3.toNat / 2 ^ 29 % 4 = 3)))
  || (decide (opc = 0x51) && decide (0xE ≤ w.w3.toNat / 2 ^ 6 % 16))
  || ((decide (opc = 0x60) || decide (opc = 0x61)) && decide (0xE ≤ w.w3.toNat / 2 ^ 22 % 16))

/-- The bits of W3 that must be zero, by opcode (R202, R267–R271, R278–R283, R289, R297, R306–R313, R326). Those of MM.ARM are
checked at its start instead, as fields of the matrix engine (R386; log 73). -/
def w3Zero (opc : Nat) : Nat :=
  match opc with
  | 0x00 => 0xFFFFFFFF
  | 0x01 => 0xFFFFFE00
  | 0x02 => 0xFFFFFFFF
  | 0x03 => 0xFFFFFFFF
  | 0x04 => 0xFFFFFFF0
  | 0x10 => 0x000007FF
  | 0x11 => 0x0003FFFF
  | 0x12 => 0x07FFFFFF
  | 0x20 => 0xFFFFFFFF
  | 0x21 => 0x00003FFF
  | 0x30 => 0x0FFFFFFF
  | 0x31 => 0x20000FFF
  | 0x32 => 0x201FFFFF
  | 0x33 => 0x03FFFFFF
  | 0x40 => 0x1FFFFFFF
  | 0x41 => 0x1FFFFFFF
  | 0x42 => 0x1FFFFFFF
  | 0x43 => 0x1FFFFFFF
  | 0x45 => 0x1FFFFFFF
  | 0x46 => 0x07FFFFFF
  | 0x50 => 0x00001FFF
  | 0x51 => 0x0000000F
  | 0x52 => 0x1FFFFFFF
  | 0x53 => 0x0003FFFF
  | 0x60 => 0x000FFFFF
  | 0x61 => 0x000FFFFF
  | 0x70 => 0x7FFFFFFF
  | 0x71 => 0x7FFFFFFF
  | 0x80 => 0xFFFFFFFF
  | 0x81 => 0x0FFFFFFF
  | 0x82 => 0x7FFFFFFF
  | 0x90 => 0x0FFFFFFF
  | 0x91 => 0x7FFFFFFF
  | 0x92 => 0xFFFFFF00
  | 0xA0 => 0xFFFE0000
  | _ => 0

/-- The W1 fields a command uses, bit 4 for a down to bit 0 for e (R201 and the engine chapters). -/
def CmdWords.used (w : CmdWords) (opc : Nat) : Nat :=
  match opc with
  | 0x00 => 16
  | 0x01 => 16
  | 0x02 => 16
  | 0x03 => 16
  | 0x10 => 16
  | 0x11 => let n := w.w3.toNat / 2 ^ 25 % 8
            if n = 0 then 0 else if n = 1 then 16 else if n = 2 then 24 else if n = 3 then 28 else if n = 4 then 30 else 31
  | 0x12 => 16
  | 0x30 => if w.w3.getLsbD 28 then 31 else 28
  | 0x31 => 31
  | 0x32 => 30
  | 0x33 => 31
  | 0x40 => 31
  | 0x41 => 31
  | 0x42 => 31
  | 0x43 => 31
  | 0x44 => 24
  | 0x45 => if w.var = 0#4 then 4 else 28
  | 0x46 => 4
  | 0x50 => if w.w3.getLsbD 29 then 15 else 31
  | 0x51 => if w.w3.getLsbD 29 then 15 else 31
  | 0x52 => 31
  | 0x53 => 31
  | 0x60 => 31
  | 0x61 => 31
  | 0x70 => 16
  | 0x71 => 16
  | 0x80 => 24
  | 0x81 => 31
  | 0x82 => 24
  | 0x90 => 30
  | 0x91 => 24
  | 0x92 => 16
  | 0xA0 => if w.w3.getLsbD 16 then 16 else 0
  | _ => 0

/-- Commands whose HINT is zero (R199, R306). -/
def hintZero (opc : Nat) : Bool :=
  (decide (opc < 0x30) && decide (opc ≠ 0x10)) || decide (opc = 0x80) || decide (0x91 ≤ opc)

/-- Commands whose PRIO is zero (R199, R306, R310, R313). -/
def prioZero (opc : Nat) : Bool :=
  decide (opc < 0x30) || (decide (0x80 ≤ opc) && decide (opc < 0x90)) || decide (0x91 ≤ opc)

/-- Every must-be-zero field of a command holds zero (R157, R199, R201, R202, R219, R220, R267). -/
def CmdWords.zeroFields (w : CmdWords) (opc : Nat) : Bool :=
  let u := w.used opc
  decide (w.w3.toNat &&& w3Zero opc = 0)
  && (u.testBit 4 || decide (w.a = 0#6)) && (u.testBit 3 || decide (w.b = 0#6)) && (u.testBit 2 || decide (w.c = 0#6))
  && (u.testBit 1 || decide (w.d = 0#6)) && (u.testBit 0 || decide (w.e = 0#6))
  && (decide (opc = 0x30) || decide (w.mode = 0#2))
  && (decide (opc = 0x45) || (decide (opc = 0x21) && decide (w.var.toNat < 2)) || decide (w.var = 0#4))
  && (!hintZero opc || decide (w.hint = 0#2)) && (!prioZero opc || decide (w.prio = 0#2))
  && (decide (opc ≠ 0x20) || decide (w.nw = 0#2))
  && (decide (opc ≠ 0x21) || decide (w.hurdleScope = 2) || decide (w.w3.toNat / 2 ^ 14 % 2 ^ 14 = 0))

/-- A command of this opcode is admitted (R373). -/
def CmdWords.admitted (w : CmdWords) (opc : Nat) : Bool := !w.reservedCode opc && w.zeroFields opc

/-- The terms the encodings admit. -/
def Instr.wf : Instr → Bool
  | .memxLd _ _ _ _ p _ => decide (p ≠ 3#2)
  | .memxLds _ _ _ s p _ => decide (p ≠ 3#2) && decide (s ≠ 3#2)
  | .memxSt _ _ _ _ p _ => decide (p ≠ 3#2)
  | .bp p _ => decide (p ≠ 0#4)
  | .drain p => decide (p.toNat < 5)
  | .cfgLoad w => w.admitted 0x00
  | .cfgPatch w => w.admitted 0x01
  | .cfgReconf w => w.admitted 0x02
  | .cfgIter w => w.admitted 0x03
  | .pace w => w.admitted 0x04
  | .portBind w => w.admitted 0x10
  | .portFeed w => w.admitted 0x11
  | .portTake w => w.admitted 0x12
  | .batch w => w.admitted 0x20
  | .hurdleArriveWait w => w.admitted 0x21 && (decide (w.hurdleAct ≠ 1) && decide (w.hurdleAct ≠ 2))
  | .hurdleArrive w => w.admitted 0x21 && decide (w.hurdleAct = 1)
  | .hurdleWait w => w.admitted 0x21 && decide (w.hurdleAct = 2)
  | .copy w => w.admitted 0x30 && (decide (w.mode ≠ 1#2) && decide (w.mode ≠ 2#2))
  | .copyFill w => w.admitted 0x30 && decide (w.mode = 1#2)
  | .copyWfill w => w.admitted 0x30 && decide (w.mode = 2#2)
  | .copyMc w => w.admitted 0x31
  | .copyDem w => w.admitted 0x32
  | .copyIndGather w => w.admitted 0x33 && !w.indScatter
  | .copyIndScatter w => w.admitted 0x33 && w.indScatter
  | .mm w => w.admitted 0x40
  | .mmSp w => w.admitted 0x41
  | .mmBsr w => w.admitted 0x42
  | .mmCsr w => w.admitted 0x43
  | .mmArm w => w.admitted 0x44
  | .mmAccZero w => w.admitted 0x45 && decide (w.var = 0#4)
  | .mmAccLoad w => w.admitted 0x45 && decide (w.var = 1#4)
  | .mmAccStore w => w.admitted 0x45 && decide (w.var = 2#4)
  | .mmOut w => w.admitted 0x46
  | .gather w => w.admitted 0x50
  | .scatterAdd w => w.admitted 0x51 && (decide (w.scatterOp = 0) || decide (5 ≤ w.scatterOp))
  | .scatterMin w => w.admitted 0x51 && decide (w.scatterOp = 1)
  | .scatterMax w => w.admitted 0x51 && decide (w.scatterOp = 2)
  | .scatterFirst w => w.admitted 0x51 && decide (w.scatterOp = 3)
  | .scatterLast w => w.admitted 0x51 && decide (w.scatterOp = 4)
  | .intersect w => w.admitted 0x52
  | .ixCount w => w.admitted 0x53
  | .selTopk w => w.admitted 0x60
  | .selColk w => w.admitted 0x61
  | .auc w => w.admitted 0x70
  | .aucPrice w => w.admitted 0x71
  | .dpost w => w.admitted 0x80
  | .xsend w => w.admitted 0x81
  | .xwait w => w.admitted 0x82
  | .place w => w.admitted 0x90
  | .glaunch w => w.admitted 0x91
  | .nodeSig w => w.admitted 0x92
  | .traceMark w => w.admitted 0xA0
  | .scalarAccessComplete core _ => decide (core < 64)
  | .pldReissue core _ => decide (core < 64)
  | .pacerAdmit core => decide (core < 64)
  | .iterationComplete core => decide (core < 64)
  | .batonReturn core => decide (core < 64)
  | .antiTokenArrival core _ => decide (core < 64)
  | .inPortSend core port => decide (core < 64) && decide (port < 16)
  | .outPortWrite core port => decide (core < 64) && decide (port < 16)
  | .fabricQuiescent core => decide (core < 64)
  | .nodeDispatch die => decide (die < 4)
  | .nodeComplete die entry => decide (die < 4) && decide (entry < 4096)
  | .decrementMessage src dst => decide (src < 4) && decide (dst < 4)
  | .errorToken src dst => decide (src < 4) && decide (dst < 4)
  | .launchRequest die => decide (die < 4)
  | .graphLaunch die => decide (die < 4)
  | .autoPreempt die entry => decide (die < 4) && decide (entry < 4096)
  | .preemptSave die entry => decide (die < 4) && decide (entry < 4096)
  | .walkerWindow core => decide (core < 64)
  | .effectivePriorityReaches3 die entry => decide (die < 4) && decide (entry < 4096)
  | .ident win _ => decide (win < 5)
  | .query win _ => decide (win < 5)
  | .querySetTkoff win _ => decide (win < 5)
  | .querySetAgeing win _ => decide (win < 5)
  | .querySetSaveArea win _ => decide (win < 5)
  | .querySetPreempt win _ => decide (win < 5)
  | .querySetDeviceId win _ => decide (win < 5)
  | .map win _ => decide (win < 5)
  | .unmap win _ => decide (win < 5)
  | .inval win _ => decide (win < 5)
  | .pin win _ => decide (win < 5)
  | .unpin win _ => decide (win < 5)
  | .loadgraph win _ _ => decide (win < 5)
  | .launch win _ => decide (win < 5)
  | .cancel win _ => decide (win < 5)
  | .snapshot win _ => decide (win < 5)
  | .restore win _ _ => decide (win < 5)
  | .resetContext win _ => decide (win < 5)
  | .resetModule win _ => decide (win < 5)
  | .attest win _ => decide (win < 5)
  | .stopat win _ => decide (win < 5)
  | .badcode win _ => decide (win < 5)
  | .elemAdd core site => decide (core < 64) && decide (site < 256)
  | .elemSub core site => decide (core < 64) && decide (site < 256)
  | .elemMul core site => decide (core < 64) && decide (site < 256)
  | .elemMac core site => decide (core < 64) && decide (site < 256)
  | .elemMin core site => decide (core < 64) && decide (site < 256)
  | .elemMax core site => decide (core < 64) && decide (site < 256)
  | .elemAbs core site => decide (core < 64) && decide (site < 256)
  | .elemNeg core site => decide (core < 64) && decide (site < 256)
  | .elemAnd core site => decide (core < 64) && decide (site < 256)
  | .elemOr core site => decide (core < 64) && decide (site < 256)
  | .elemXor core site => decide (core < 64) && decide (site < 256)
  | .elemNot core site => decide (core < 64) && decide (site < 256)
  | .elemShl core site => decide (core < 64) && decide (site < 256)
  | .elemShr core site => decide (core < 64) && decide (site < 256)
  | .elemSar core site => decide (core < 64) && decide (site < 256)
  | .elemCmpEq core site => decide (core < 64) && decide (site < 256)
  | .elemCmpNe core site => decide (core < 64) && decide (site < 256)
  | .elemCmpLt core site => decide (core < 64) && decide (site < 256)
  | .elemCmpLe core site => decide (core < 64) && decide (site < 256)
  | .elemCmpLtu core site => decide (core < 64) && decide (site < 256)
  | .elemCmpLeu core site => decide (core < 64) && decide (site < 256)
  | .elemSel core site => decide (core < 64) && decide (site < 256)
  | .elemDot4 core site => decide (core < 64) && decide (site < 256)
  | .elemDot2 core site => decide (core < 64) && decide (site < 256)
  | .elemSatadd core site => decide (core < 64) && decide (site < 256)
  | .elemSatsub core site => decide (core < 64) && decide (site < 256)
  | .elemClz core site => decide (core < 64) && decide (site < 256)
  | .elemPopc core site => decide (core < 64) && decide (site < 256)
  | .fadd core site => decide (core < 64) && decide (site < 256)
  | .fsub core site => decide (core < 64) && decide (site < 256)
  | .fmul core site => decide (core < 64) && decide (site < 256)
  | .fma core site => decide (core < 64) && decide (site < 256)
  | .fmin core site => decide (core < 64) && decide (site < 256)
  | .fmax core site => decide (core < 64) && decide (site < 256)
  | .fabs core site => decide (core < 64) && decide (site < 256)
  | .fneg core site => decide (core < 64) && decide (site < 256)
  | .frcp core site => decide (core < 64) && decide (site < 256)
  | .frsq core site => decide (core < 64) && decide (site < 256)
  | .fexp2 core site => decide (core < 64) && decide (site < 256)
  | .flog2 core site => decide (core < 64) && decide (site < 256)
  | .fcmpEq core site => decide (core < 64) && decide (site < 256)
  | .fcmpNe core site => decide (core < 64) && decide (site < 256)
  | .fcmpLt core site => decide (core < 64) && decide (site < 256)
  | .fcmpLe core site => decide (core < 64) && decide (site < 256)
  | .cvt core site => decide (core < 64) && decide (site < 256)
  | .qnt core site => decide (core < 64) && decide (site < 256)
  | .dqn core site => decide (core < 64) && decide (site < 256)
  | .rsum core site => decide (core < 64) && decide (site < 256)
  | .rmax core site => decide (core < 64) && decide (site < 256)
  | .rmin core site => decide (core < 64) && decide (site < 256)
  | .rarg core site => decide (core < 64) && decide (site < 256)
  | .rcnt core site => decide (core < 64) && decide (site < 256)
  | .emux core site => decide (core < 64) && decide (site < 256)
  | .eand core site => decide (core < 64) && decide (site < 256)
  | .eor core site => decide (core < 64) && decide (site < 256)
  | .lda core site => decide (core < 64) && decide (site < 256)
  | .sta core site => decide (core < 64) && decide (site < 256)
  | .amoa core site => decide (core < 64) && decide (site < 256)
  | .plda core site => decide (core < 64) && decide (site < 256)
  | .psta core site => decide (core < 64) && decide (site < 256)
  | .segn core site => decide (core < 64) && decide (site < 256)
  | .smark core site => decide (core < 64) && decide (site < 256)
  | .sconv core site => decide (core < 64) && decide (site < 256)
  | .lpin core site => decide (core < 64) && decide (site < 256)
  | .lpout core site => decide (core < 64) && decide (site < 256)
  | .steer core site => decide (core < 64) && decide (site < 256)
  | .merge core site => decide (core < 64) && decide (site < 256)
  | .carry core site => decide (core < 64) && decide (site < 256)
  | .invar core site => decide (core < 64) && decide (site < 256)
  | .drop core site => decide (core < 64) && decide (site < 256)
  | .lutn core island => decide (core < 64) && decide (island < 16)
  | .matchFire core island => decide (core < 64) && decide (island < 16)
  | _ => true

end Sys2Proof
end

