-- ==== Sys2Proof/Machine/Cmds.lean ====
section
/-! DEFINITION. Stream commands: issue (R24–R29, R157, R197–R201), the conditions under which one starts (R197), and what
every family's start and completion shares. -/

namespace Sys2Proof.Machine

/-! ## Queues (R198, R264, R275, R292, R298, R314, R326) -/

/-- Queues of a command: fabric ports 0–15, copy channels 16–19, the partial-reconfiguration port 20, the Pacer 21,
synchronisation 22, matrix queues 24–27 by PRIO, index 30, select 31, assignment 32, exchange 33, placer 34. CFG.LOAD and
CFG.RECONF are in every one. -/
def queuesOf (opc prio : Nat) (w3 : BitVec 32) : List Nat :=
  let w := w3.toNat
  let ch := 16 + w / 2 ^ 30
  if opc = 0 ∨ opc = 2 then List.range 35
  else if opc = 1 then [20]
  else if opc = 3 ∨ opc = 4 then [21]
  else if 0x10 ≤ opc ∧ opc ≤ 0x12 then [w / 2 ^ 28]
  else if opc = 0x32 then [ch, w / 2 ^ 21 % 16]
  else if 0x30 ≤ opc ∧ opc ≤ 0x33 then [ch]
  else if opc = 0x21 ∨ opc = 0x91 ∨ opc = 0x92 then [22]
  else if opc = 0x46 then [24 + prio, w / 2 ^ 27 % 16]
  else if 0x40 ≤ opc ∧ opc < 0x46 then [24 + prio]
  else if (opc = 0x50 ∨ opc = 0x51) ∧ w.testBit 29 then [30, w / 2 ^ 25 % 16]
  else if 0x50 ≤ opc ∧ opc < 0x60 then [30]
  else if 0x60 ≤ opc ∧ opc < 0x70 then [31]
  else if 0x70 ≤ opc ∧ opc < 0x80 then [32]
  else if 0x80 ≤ opc ∧ opc < 0x90 then [33]
  else if opc = 0x90 then [34]
  else []

/-- What AFTER looks at: the command's queues, and for the matrix engine the engine, number 28 (R139, R265). -/
def afterKeys (opc prio : Nat) (w3 : BitVec 32) : List Nat :=
  queuesOf opc prio w3 ++ (if 0x40 ≤ opc ∧ opc < 0x50 then [28] else [])

def Cmd.queues (k : Cmd) : List Nat := queuesOf k.opc.toNat k.prio k.w3

/-! ## Issue -/

/-- Registers a command reads at issue (R157, R201): the fields it uses, but for the destination of PORT.TAKE. -/
def readsOf (w : CmdWords) (opc : Nat) : List Reg :=
  let u := w.used opc
  if opc = 0x12 then []
  else [(4, w.a), (3, w.b), (2, w.c), (1, w.d), (0, w.e)].filterMap fun p => if u.testBit p.1 then some p.2 else none

/-- A used register field holds 58–63 (R378). -/
def badField (w : CmdWords) (opc : Nat) : Bool :=
  let u := w.used opc
  [(4, w.a), (3, w.b), (2, w.c), (1, w.d), (0, w.e)].any fun p => u.testBit p.1 && decide (58 ≤ p.2.toNat)

/-- The value of a field, zero for one the command does not use. -/
def Core.operand (c : Core) (u i : Nat) (r : Reg) : Word := if u.testBit i then c.reg r.toNat else 0#64

/-- Both guards and the tile-mask bit are true (R26, R147). -/
def Core.guardsHold (c : Core) (w : CmdWords) : Bool :=
  c.predField w.ga && c.predField w.gb && (c.mask w.mi.toNat).getLsbD w.tix.toNat

/-- Incomplete producers of a tag of core n, oldest first (R24, R25). -/
def State.producers (s : State) (n : Nat) (tag : BitVec 6) : List Nat :=
  (s.cmds.filter fun k => decide (k.owner = Owner.core n) && decide (k.tag = some tag)).map (·.id)

/-- The command a wait-tag is bound to: the latest incomplete producer (R24). -/
def State.bindTag (s : State) (n : Nat) (tag : BitVec 6) : List Nat :=
  match (s.producers n tag).getLast? with
  | some i => [i]
  | none => []

/-- The participants of a COPY.MC as its own mask and RK name them (R216). -/
def mcParticipates (rank : Nat) (e : Word) (w3 : BitVec 32) : Bool :=
  decide (rank < 16) && (e.getLsbD rank || decide (w3.toNat / 2 ^ 21 % 16 = rank))

/-- An address lies in one of the core's windows (R103, R107). -/
def State.inWindow (s : State) (n va : Nat) : Bool := (s.findWindow n va).isSome

/-- The scalar accesses that the release of a command's issue puts before the command's own (R132). A PLD is none: a command
runs on under one that is deferred (18_prog_auction.md; log 14). -/
def Core.releasedIds (c : Core) : List Nat := (c.accs.filter fun a => decide (a.kind ≠ .pld)).map (·.id)

/-- The command as it issues. The list of a BATCH holds the producers of its wait-tags. That the acquire of an earlier PORT.TAKE
holds no later command is the model's (R133, R212; log 93). -/
def State.newCmd (s : State) (n opc : Nat) (w : CmdWords) : Cmd :=
  let c := s.core n
  let u := w.used opc
  let prio := w.prio.toNat
  let prev := if w.after then (afterKeys opc prio w.w3).filterMap fun q =>
      (c.lastOf.find? fun e => decide (e.1 = q)).map (·.2) else []
  { id := s.nextCmd
    owner := .core n
    ctx := c.ctx
    pc := c.pc
    soff := c.soff
    opc := BitVec.ofNat 8 opc
    var := w.var
    mode := w.mode
    hint := w.hint
    prio := prio
    a := if opc = 0x12 then 0#64 else c.operand u 4 w.a
    b := c.operand u 3 w.b
    c := c.operand u 2 w.c
    d := c.operand u 1 w.d
    e := c.operand u 0 w.e
    areg := w.a
    w3 := w.w3
    waits := ((if 1 ≤ w.nw.toNat then s.bindTag n w.wa else []) ++ (if w.nw = 2#2 then s.bindTag n w.wb else [])
      ++ (prev.filter fun i => !s.cmdDone i) ++ (if opc = 0x20 then c.openBatch else [])).dedup
    accs := if opc ∈ [0x03, 0x04, 0x12, 0x20, 0xA0] then [] else c.releasedIds
    tag := if w.dv then some w.dt else none
    batch := if joinsBatch opc then some c.batchNo else none
    state := .issued
    tWait := none
    done := 0
    sub := if opc = 0x31 then c.mcIssued else 0
    x0 := 0
    x1 := 0
    list := if opc = 0x20 then ((if 1 ≤ w.nw.toNat then s.bindTag n w.wa else []) ++ (if w.nw = 2#2 then s.bindTag n w.wb else [])) else []
    auction := {}
    mask := c.mask (if opc = 0x44 then w.w3.toNat % 8 else w.mi.toNat)
    arm := none }

/-- The issue must wait (R25, R28): a full counter, or a third producer of its done-tag. -/
def State.issueStalls (s : State) (n opc : Nat) (w : CmdWords) : Bool :=
  let c := s.core n
  let joined := joinsBatch opc
  let closes := w.close || decide (opc = 0x20) || (joined && decide (31 ≤ c.openBatch.length))
  (countsCpc opc && decide (c.cpc = 63#6)) || (countsTlc opc && decide (c.tlc = 63#6))
    || (decide (opc = 0x12) && decide (c.ldc = 63#6))
    || (w.dv && decide (2 ≤ (s.producers n w.dt).length))
    || (closes && (joined || decide (c.openBatch ≠ [])) && decide (c.btc = 63#6))

/-- A core after a command has joined its queues, counters and batch (R28, R29). -/
def Core.issued (c : Core) (k : Cmd) (close : Bool) : Core :=
  let opc := k.opc.toNat
  let c1 := { c with
    lastOf := (afterKeys opc k.prio k.w3).foldl (fun m q => SMap.put m q k.id) c.lastOf
    cpc := if countsCpc opc then c.cpc + 1 else c.cpc
    tlc := if countsTlc opc then c.tlc + 1 else c.tlc
    ldc := if opc = 0x12 then c.ldc + 1 else c.ldc
    holdTake := if opc = 0x12 then c.holdTake ++ [k.id] else c.holdTake
    mcIssued := if opc = 0x31 then c.mcIssued + 1 else c.mcIssued
    cfgBy := if opc = 0 ∨ opc = 2 then some k.id else c.cfgBy
    heldBy := if opc = 0x21 ∧ k.var.getLsbD 0 ∧ k.w3.toNat / 2 ^ 28 % 4 ≠ 1 then some k.id else c.heldBy
    openBatch := if joinsBatch opc then c.openBatch ++ [k.id] else c.openBatch }
  (if close || decide (opc = 0x20) || decide (32 ≤ c1.openBatch.length) then c1.closeBatch else c1).next 4

/-- The routers' list a CFG.PATCH will switch, as it stands at issue (R64). -/
def State.peekPatch (s : State) (k : Cmd) : List Nat :=
  let n := k.w3.toNat % 512
  match s.uncopied.load ⟨k.ctx, none, none⟩ 1#2 k.a.toNat (4 * n) with
  | .error _ => []
  | .ok (_, bs) => (List.range n).map fun i => leNat ((bs.drop (4 * i)).take 4)

/-- The issue of a command whose guards hold. -/
def State.issueActing (s : State) (n opc : Nat) (w : CmdWords) : State :=
  let c := s.core n
  let k0 := s.newCmd n opc w
  let k := if opc = 1 then { k0 with list := s.peekPatch k0 } else k0
  let s1 := { s.setCore n (c.issued k w.close) with nextCmd := s.nextCmd + 1 }
  let s2 := if opc = 0x12 then s1.claimReg n w.a.toNat else s1
  if opc = 0x20 ∧ c.openBatch = [] then s2
  else { s2 with cmds := s2.cmds ++ [k] }

/-- A command that retires at issue: only its CLOSE bit acts (R26). -/
def Core.retired (c : Core) (w : CmdWords) : Core := (if w.close then c.closeBatch else c).next 4

/-- Issue of a stream command (R157, R197): handler-mode and register faults, stalls, the retirement of a command whose
guards do not hold, and otherwise the command enters its queues. Two orders the spec leaves open (log 70): a use of class
0x02 faults before the guards are evaluated, as R373 states for class 0x01 only; and a command guarded off retires without
the stall of R25, although R26 makes it a producer of its done-tag as it issues. -/
def issueCmd (opc : Nat) (w : CmdWords) (s : State) : Host.Outcome State Fault Refusal :=
  let n := s.cur
  let c := s.core n
  if !c.issues then .next s
  else if badField w opc then .next (s.reservedAs n 1 opc)
  else if c.hm && (decide (opc = 0 ∨ opc = 2) || (decide (opc = 0x21) && w.var.getLsbD 0)) then .next (s.reservedAs n 9 opc)
  else if c.outstanding c.holdAll || c.outstanding c.holdStore then .next s
  else if (readsOf w opc).any (fun r => s.regPending n r.toNat) || s.maskPending n w.mi.toNat
      || (decide (opc = 0x44) && s.maskPending n (w.w3.toNat % 8)) then .next s
  else if !c.guardsHold w then
    .next (if w.close && !c.mayClose then s else s.setCore n (c.retired w))
  else if opc = 0x31 ∧ !mcParticipates c.rank (c.operand (w.used opc) 0 w.e) w.w3 then
    .next (if w.close && !c.mayClose then s
      else s.setCore n { c.retired w with mcIssued := c.mcIssued + 1 })
  else if s.issueStalls n opc w then .next s
  else .next (s.issueActing n opc w)

/-! ## Start (R197) -/

/-- The command is a HURDLE that holds every later command until it completes (R220). -/
def Cmd.holdsLater (k : Cmd) : Bool := decide (k.opc = 0x21#8) && decide (k.w3.toNat / 2 ^ 28 % 4 ≠ 1)

/-- Two commands of one owner, the first issued earlier. -/
def Cmd.before (j k : Cmd) : Bool := decide (j.owner = k.owner) && decide (j.id < k.id)

/-- Its batch has closed (R29). -/
def State.batchClosed (s : State) (k : Cmd) : Bool :=
  match k.owner with
  | .core n => decide (k.id ∉ (s.core n).openBatch)
  | .node _ _ => true

/-- The scalar accesses before its issue have been performed: the command's own accesses follow them, not its start (R132,
R197). -/
def State.accsDone (s : State) (k : Cmd) : Bool :=
  match k.owner with
  | .core n => !(s.core n).outstanding k.accs
  | .node _ _ => true

/-- The pre-emption of its runner stops commands from starting (R328): the runner has stopped. -/
def State.ownerRuns (s : State) (k : Cmd) : Bool :=
  match k.owner with
  | .core n => decide ((s.core n).run ≠ .idle)
  | .node d e => match s.node? d e with
    | some x => decide (x.st = .run)
    | none => false

/-- A command lets later ones of its queue start: it has started, and with it an MM.ARM's last entry (R264). An exchange
command paused before its start has no `list` yet. -/
def Cmd.letsPass (j : Cmd) : Bool :=
  decide (j.state ≠ .issued) && (decide (j.opc ≠ 0x44#8) || decide (j.b.toNat ≤ j.done))
    && !(decide (j.opc.toNat / 16 = 8) && decide (j.list = []))

/-- The core of a command, if a runner's. -/
def Cmd.core? (k : Cmd) : Option Nat :=
  match k.owner with
  | .core n => some n
  | .node _ _ => none

/-- Bytes of an arm entry at its offset (R269). -/
def entryField (bs : List Byte) (off n : Nat) : Nat := leNat ((bs.drop off).take n)

/-- Read an arm's entry i, which is a command of its own (R269). -/
def State.armEntry (s : State) (arm : Cmd) (i : Nat) : Except MemFault (State × List Byte) :=
  s.load ⟨arm.ctx, arm.core?, some arm.id⟩ arm.hint ((arm.a.toNat + 64 * i) % 2 ^ 64) 64

/-- Some entry that an arm has still to start acts and passes a test, or cannot be told. -/
def State.armAhead (s : State) (arm : Cmd) (test : List Byte → Bool) : Bool :=
  decide (arm.opc = 0x44#8) && (List.range (Nat.min 65535 arm.b.toNat)).any fun i => decide (arm.done ≤ i)
    && (match s.armEntry arm i with
      | .error _ => true
      | .ok (_, bs) => arm.mask.getLsbD (entryField bs 0x2E 1) && test bs)

/-- An earlier arm holds the later commands of a port that an MM.OUT of one of its entries still to start names: the entry stands in
the port's queue where its arm stands (R264, R271; log 74). -/
def State.armHolds (s : State) (j k : Cmd) : Bool :=
  s.armAhead j fun bs => decide (entryField bs 0x2C 1 = 0x46) && decide (entryField bs 0x28 4 / 2 ^ 27 % 16 ∈ k.queues)

/-- A CFG.LOAD or CFG.RECONF starts after every earlier command, those in no queue included; a BATCH starts once the producers of
its own wait-tags have completed (R198). -/
def State.hasBegun (s : State) (j : Cmd) : Bool := j.letsPass || (decide (j.opc = 0x20#8) && j.list.all s.cmdDone)

/-- An earlier command of the owner does not hold the start of k (R197, R198). -/
def State.passes (s : State) (j k : Cmd) : Bool :=
  !j.holdsLater && (if k.opc = 0#8 ∨ k.opc = 2#8 then s.hasBegun j else (j.letsPass || !j.queues.any fun q => decide (q ∈ k.queues)) && !s.armHolds j k)

/-- The conditions of R197 that every command shares. -/
def State.mayStart (s : State) (k : Cmd) : Bool :=
  decide (k.state = .issued) && s.ownerRuns k && k.waits.all s.cmdDone && s.batchClosed k
    && s.cmds.all (fun j => !j.before k || s.passes j k)

/-- A started command may make its accesses. -/
def State.runs (s : State) (k : Cmd) : Bool := decide (k.state = .started) && s.accsDone k

/-- Earlier commands of the owner that are incomplete. -/
def State.earlier (s : State) (k : Cmd) : List Cmd := s.cmds.filter fun j => j.before k

/-- The command is now started. -/
def State.started (s : State) (k : Cmd) : State := s.updCmd k.id fun j => { j with state := .started }

/-- Bits 63:56 of an address operand are zero (R94, R378). -/
def addrOk (v : Word) : Bool := decide (v.toNat < 2 ^ 56)

/-- The agent that makes a command's accesses: through its core's windows for a runner's copy or matrix command. -/
def Cmd.windowAgent (k : Cmd) : Agent :=
  match k.owner with
  | .core n => ⟨k.ctx, some n, some k.id⟩
  | .node _ _ => ⟨k.ctx, none, some k.id⟩

/-- An agent that never reads a window (R134). -/
def Cmd.homeAgent (k : Cmd) : Agent := ⟨k.ctx, none, some k.id⟩

/-- Raise flags in the issuer (R80): the runner's FSTAT, or the launch's flags for an engine node (R325). A command that a
saved runner left in its engine, its rank in `batch`, raises them in the runner's save slot. -/
def State.raiseFor (s : State) (k : Cmd) (f : Flags) : State :=
  match k.owner with
  | .core n => s.raise n f
  | .node d e => match s.node? d e with
    | none => s
    | some x =>
      if x.nr.kind = 0 then
        let i := x.slots.getD (k.batch.getD 0) 64
        s.updCtx x.ctx fun c => { c with slots := c.slots.map fun p =>
          if p.1 = i then (i, { p.2 with core := p.2.core.raise f }) else p }
      else match s.launch? x.home x.launch with
        | none => s
        | some l => s.setDep x.home x.launch (.launch { l with flags := l.flags ||| f })

/-- Effective priority: PRIO plus one for each 4,096 ticks waited, up to 3 (R264). -/
def State.effPrio (s : State) (k : Cmd) : Nat :=
  Nat.min 3 (k.prio + (match k.tWait with
    | none => 0
    | some t => (s.gtc - t).toNat / 4096))

/-- Among commands that may proceed, `k` is the one of highest effective priority, earliest issued among equals (R264). -/
def State.bestOf (s : State) (rivals : List Cmd) (k : Cmd) : Bool :=
  rivals.all fun j => decide (j.id = k.id) || decide (s.effPrio j < s.effPrio k)
    || (decide (s.effPrio j = s.effPrio k) && decide (k.id < j.id))

end Sys2Proof.Machine
end

