-- ==== Sys2Proof/Machine/Ports.lean ====
section
/-! DEFINITION. The fabric memory ports (09_stream_commands.md, R207–R212): bindings and windows, patterns, IN and OUT
streams, FEED and TAKE. -/

namespace Sys2Proof.Machine

/-! ## Descriptors and bindings (R204, R207, R208, R210) -/

/-- A descriptor from its 64 bytes (R208); reserved bytes are ignored (R2). -/
def parseDesc (bs : List Byte) : PortDesc :=
  let at_ := fun (o k : Nat) => leNat ((bs.drop o).take k)
  { base := BitVec.ofNat 64 (at_ 0 8)
    cnt := [at_ 8 4, at_ 12 4, at_ 16 4, at_ 20 4]
    str := [sx (at_ 24 4) 32, sx (at_ 28 4) 32, sx (at_ 32 4) 32, sx (at_ 36 4) 32]
    wbase := BitVec.ofNat 64 (at_ 40 8)
    wlen := BitVec.ofNat 16 (at_ 48 2) }

/-- Element size in bytes; 0 stands for the half byte (R207). -/
def eszBytes (e : Nat) : Nat := match e with | 0 => 0 | 1 => 1 | 2 => 2 | _ => 4

/-- Role of a binding image. -/
def bindRole (w3 : BitVec 32) : Nat := w3.toNat / 2 ^ 25 % 8

/-- Why a binding cannot take effect. -/
inductive BindErr where
  /-- Class and subcode, and the address reported. -/
  | bad (cls sub : Nat) (addr : Option Nat)
  | mem (f : MemFault)
deriving DecidableEq, Repr

/-- Check a binding and read its descriptor (R204, R207, R208, R379). -/
def State.readBind (s : State) (n : Nat) (w3 : BitVec 32) (va : Nat) : Except BindErr (State × PortDesc) :=
  let role := bindRole w3
  if role = 7 then .error (.bad 3 1 none)
  else if 4 < w3.toNat / 2 ^ 18 % 8 then .error (.bad 3 2 none)
  else if role = 0 then .ok (s, {})
  else if 2 ^ 56 ≤ va then .error (.bad 3 2 none)
  else if va % 64 ≠ 0 then .error (.bad 3 3 (some va))
  else match s.load ⟨(s.core n).ctx, some n, none⟩ 0#2 va 64 with
    | .error f => .error (.mem f)
    | .ok (s', bs) =>
      let d := parseDesc bs
      let size := eszBytes (w3.toNat / 2 ^ 23 % 4)
      if 128 < d.wlen.toNat then .error (.bad 3 2 (some va))
      else if d.wlen ≠ 0 ∧ d.wbase.toNat % 1024 ≠ 0 then .error (.bad 3 3 (some va))
      else if size ≠ 0 ∧ d.base.toNat % size ≠ 0 then .error (.bad 3 3 (some va))
      else .ok (s', d)

/-- Window of a binding: base and length in bytes, length 0 for none (R102). -/
def windowOf (w3 : BitVec 32) (d : PortDesc) : Nat × Nat :=
  if bindRole w3 = 0 ∨ d.wlen = 0 then (0, 0) else (d.wbase.toNat, 1024 * d.wlen.toNat)

/-- Two address ranges overlap. -/
def rangesMeet (a la b lb : Nat) : Bool := decide (la ≠ 0) && decide (lb ≠ 0) && decide (a < b + lb) && decide (b < a + la)

/-- Cores whose windows the bindings of core n must not overlap (R102, R107). -/
def Core.windowCores (c : Core) (n : Nat) : List Nat := if c.fused then c.gang else [n]

/-- A window would overlap another bank's (R405). -/
def State.windowClash (s : State) (n p base len : Nat) : Bool :=
  ((s.core n).windowCores n).any fun k => (s.core k).banks.any fun e =>
    !(decide (k = n) && decide (e.1 = p)) && rangesMeet base len e.2.base e.2.len

/-- A fresh port under a binding; its checksum goes on (R423). -/
def Port.rebind (x : Port) (w0 w3 : BitVec 32) (d : PortDesc) : Port :=
  let role := bindRole w3
  { w0 := w0, w3 := w3, desc := d, crc := x.crc, taken := x.taken
    ended := if role = 1 ∨ role = 2 ∨ role = 5 then decide (0 ∈ d.cnt) else true }

/-- Give bank p its window, written back and invalidated first where the window changes (R104, R210). -/
def State.bindWindow (s : State) (n p : Nat) (w : Nat × Nat) : State :=
  let k := s.bank n p
  if k.base = w.1 ∧ k.len = w.2 then s
  else (s.flushBank n p).setBank n p ⟨w.1, w.2, []⟩

/-- The binding takes effect. -/
def State.applyBind (s : State) (n p : Nat) (w0 w3 : BitVec 32) (d : PortDesc) : Except BindErr State :=
  let w := windowOf w3 d
  if s.windowClash n p w.1 w.2 then .error (.bad 7 4 (some w.1))
  else .ok ((s.bindWindow n p w).updCore n fun c => c.setPort p ((c.port p).rebind w0 w3 d))

/-- Sites of memory-port elements that name port p (R242). -/
def Core.elemsNaming (c : Core) (p : Nat) : List Nat :=
  (c.fab.elems.filter fun e => isMemOp (wOp e.2.toNat) && decide (wImm e.2.toNat % 16 = p)).map (·.1)

/-- The current stream of a port has ended (R210). -/
def State.streamQuiet (s : State) (n p : Nat) : Bool :=
  let c := s.core n
  let x := c.port p
  (match x.role with
    | 1 => x.ended && decide (x.fifo = [])
    | 2 => x.ended
    | 3 => decide (x.fifo = [])
    | 4 => decide (x.fifo = [])
    | 5 => (c.elemsNaming p).all fun r => decide (c.queue (elemPlace r) = [])
    | _ => true)
  && !s.demBusy n p

/-- Port of a port command. -/
def Cmd.port (k : Cmd) : Nat := k.w3.toNat / 2 ^ 28

/-- An earlier PORT.BIND of the port that has not taken effect. -/
def State.bindPending (s : State) (k : Cmd) (p : Nat) : Bool :=
  s.cmds.any fun j => j.before k && decide (j.opc = 0x10#8) && decide (j.port = p) && decide (j.sub = 0)

/-- A started PORT.BIND takes effect once the current stream has ended; one of role IN or OUT completes when the new
stream ends (R210). -/
def State.tryBind (s : State) (n : Nat) (k : Cmd) : State :=
  let p := k.port
  if !s.runs k || s.bindPending k p || !s.streamQuiet n p || s.flushWaits n then s
  else match s.readBind n k.w3 k.a.toNat with
    | .error (.mem f) => s.cmdMemFault k f 0
    | .error (.bad cls sub addr) => s.cmdFaultAs k k.kind k.loc cls sub .fatal addr 0
    | .ok (s1, d) => match s1.applyBind n p (BitVec.ofNat 32 (k.hint.toNat * 256)) k.w3 d with
      | .error (.mem f) => s1.cmdMemFault k f 0
      | .error (.bad cls sub addr) => s1.cmdFaultAs k k.kind k.loc cls sub .fatal addr 0
      | .ok s2 =>
        let x := (s2.core n).port p
        if (x.role = 1 ∨ x.role = 2) ∧ !x.ended then
          (s2.updCmd k.id fun j => { j with sub := 1, state := .started }).updCore n fun c =>
            c.setPort p { c.port p with bindCmd := some k.id }
        else s2.finishCmd k.id

/-- PORT.BIND starts (R207, R379). -/
def State.startBind (s : State) (n : Nat) (k : Cmd) : State :=
  if bindRole k.w3 = 7 then s.cmdFault k 1 none 0
  else if 4 < k.w3.toNat / 2 ^ 18 % 8 then s.cmdFault k 2 none 0
  else if bindRole k.w3 ≠ 0 ∧ !addrOk k.a then s.cmdFault k 2 none 0
  else if bindRole k.w3 ≠ 5 ∧ (s.core n).elemsNaming k.port ≠ [] then s.cmdFault k 4 none 0
  else (s.started k).tryBind n { k with state := .started }

/-- A PORT.BIND in progress goes on (R210). -/
def State.goBind (s : State) (n : Nat) (k : Cmd) : State :=
  if k.sub = 0 then s.tryBind n k else if s.streamQuiet n k.port then s.finishCmd k.id else s

/-! ## FEED and TAKE (R211, R212) -/

/-- Tokens of a PORT.FEED, in order. -/
def feedTokens (k : Cmd) : List Token :=
  let w := k.w3.toNat
  let data := ([k.a, k.b, k.c, k.d, k.e].take (w / 2 ^ 25 % 8)).map fun v => Token.ofData (BitVec.ofNat 32 v.toNat)
  let data' := match data with
    | t :: r => if w.testBit 24 then Token.prefixOf (w / 2 ^ 22 % 4) t.data.toNat :: r else data
    | [] => []
  data' ++ (if w.testBit 21 then [Token.marker (w / 2 ^ 18 % 8)] else [])

/-- PORT.FEED starts when its port is bound FEED and has room for all its tokens (R211), which carry a release (R133). -/
def State.startFeed (s : State) (n : Nat) (k : Cmd) : State :=
  let p := k.port
  let x := (s.core n).port p
  let cnt := k.w3.toNat / 2 ^ 25 % 8
  let ts := feedTokens k
  if s.bindPending k p then s
  else if cnt = 0 ∨ 5 < cnt then s.cmdFault k 2 none 0
  else if x.role ≠ 3 then s.cmdFault k 4 none 0
  else if (s.outPending n p).isSome || !s.accsDone k then s
  else if 16 < x.fifo.length + ts.length then s
  else ((s.started k).updCore n fun c => { Core.settle (feedPlace p) settleFuel
      (c.setPort p { x with fifo := x.fifo ++ ts, feeds := x.feeds ++ [(k.id, ts.length)] }) with drained := false, moved := s.gtc }).portDone n p

/-- The first token a TAKE delivers and what is left; with SKIP control tokens before it are popped. -/
def takeToken (skip : Bool) : List Token → Option Token × List Token
  | [] => (none, [])
  | t :: r => if skip && !t.isData then takeToken skip r else (some t, r)

/-- PORT.TAKE starts on a port bound TAKE (R212). -/
def State.startTake (s : State) (n : Nat) (k : Cmd) : State :=
  if s.bindPending k k.port then s
  else if ((s.core n).port k.port).role ≠ 4 then s.cmdFault k 4 none 0
  else s.started k

/-- Earlier commands that consume the same TAKE port are incomplete. -/
def State.takersBefore (s : State) (k : Cmd) (p : Nat) : Bool :=
  s.cmds.any fun j => j.before k && (decide (j.opc = 0x12#8) || decide (j.opc = 0x50#8) || decide (j.opc = 0x51#8))
    && decide (p ∈ j.queues)

/-- PORT.TAKE pops a token into its register when the FIFO holds one (R167, R212). -/
def State.goTake (s : State) (n : Nat) (k : Cmd) : State :=
  let p := k.port
  if s.takersBefore k p then s
  else
    let c := s.core n
    let x := c.port p
    let (t, rest) := takeToken (k.w3.getLsbD 27) x.fifo
    let s1 := s.setCore n (c.setPort p { x with fifo := rest })
    match t with
    | none => s1
    | some t => (s1.landReg n k.areg.toNat (BitVec.ofNat 64 (t.kind.toNat * 2 ^ 32 + t.data.toNat))).finishCmd k.id

/-! ## Patterns (R209) -/

/-- Offset of a position, in elements. -/
def Port.off (x : Port) : Int := ((x.idx.zip x.desc.str).map fun p => (p.1 : Int) * p.2).sum

/-- Address of an element offset, and the bit position of a half byte (R70). -/
def Port.addrOf (x : Port) (off : Int) : Nat × Nat :=
  match eszBytes x.esz with
  | 0 => (((x.desc.base.toNat : Int) + off / 2) % 2 ^ 64 |>.toNat, if off % 2 = 0 then 0 else 4)
  | k => (((x.desc.base.toNat : Int) + off * k) % 2 ^ 64 |>.toNat, 0)

/-- Bytes an element access touches. -/
def Port.accLen (x : Port) : Nat := Nat.max 1 (eszBytes x.esz)

/-- Prefix levels due before the data of the position, outermost first. -/
def Port.levels (x : Port) : List Nat :=
  if x.compat then [] else ((List.range (Nat.min x.segl 4)).filter fun l => (x.idx.take (l + 1)).all (· = 0)).reverse

/-- Rank of the marker due after the data of the position. -/
def Port.rankDue (x : Port) : Option Nat :=
  if x.compat then ((List.range (Nat.min x.segl 4)).filter fun l =>
    ((x.idx.zip x.desc.cnt).take (l + 1)).all fun p => decide (p.1 + 1 = p.2)).getLast?
  else none

/-- After the data of a position: the marker first in compatible mode. -/
def Port.afterData (x : Port) : Port := if x.rankDue.isSome then { x with past := true } else x.step

/-- Value of an element read from its bytes (R207, R209). -/
def Port.value (x : Port) (bs : List Byte) (nib : Nat) : BitVec 32 :=
  let v := leNat bs
  match eszBytes x.esz with
  | 0 => let q := v / 2 ^ nib % 16; if x.sx then BitVec.ofInt 32 (Sys2Proof.sx q 4) else BitVec.ofNat 32 q
  | k => if x.sx then BitVec.ofInt 32 (Sys2Proof.sx v (8 * k)) else BitVec.ofNat 32 v

/-- Read the element at an offset of a port's array. -/
def State.readElem (s : State) (n : Nat) (x : Port) (off : Int) : Except MemFault (State × BitVec 32) :=
  let (va, nib) := x.addrOf off
  match s.load ⟨(s.core n).ctx, some n, none⟩ x.hint va x.accLen with
  | .error f => .error f
  | .ok (s', bs) => .ok (s', x.value bs nib)

/-- Write the element at an offset of a port's array: its low bits. -/
def State.writeElem (s : State) (n : Nat) (x : Port) (off : Int) (v : BitVec 32) : Except MemFault State :=
  let (va, nib) := x.addrOf off
  let g : Agent := ⟨(s.core n).ctx, some n, none⟩
  match eszBytes x.esz with
  | 0 => match translate (s.pages g.ctx) va Need.write with
    | .error f => .error f
    | .ok pa => match s.loadByte g.core x.hint va pa with
      | .error f => .error f
      | .ok (s1, b) =>
        let keep := b.toNat - b.toNat / 2 ^ nib % 16 * 2 ^ nib
        s1.storeByte g.core x.hint va pa (BitVec.ofNat 8 (keep + v.toNat % 16 * 2 ^ nib)) false false
  | k => s.store g x.hint va (leBytes k v.toNat)

/-- RESTART of a port: i0–i3 as four 32-bit words (R209). -/
def Port.restart (x : Port) : Nat :=
  x.idx.getD 0 0 + x.idx.getD 1 0 * 2 ^ 32 + x.idx.getD 2 0 * 2 ^ 64 + x.idx.getD 3 0 * 2 ^ 96

/-- A memory fault of a port: it pauses at its position, or the node is cancelled (R403); an access that only waits is made
again (R409). -/
def State.portMemFault (s : State) (n p place : Nat) (f : MemFault) : State :=
  if f.waits then s else
  let s1 := s.coreFault n 1 p f.cls (f.sub * 256) (if f.fatal then .fatal else .paused) (some f.addr) 0xFFFFFFFF 0
    ((s.core n).port p).restart
  if f.fatal then s1 else s1.updCore n fun c => { c with pausedPorts := place :: c.pausedPorts }

/-- A segment mismatch at an OUT port (R382). -/
def State.portMismatch (s : State) (n p : Nat) : State := s.fabFault n 0xFFFF p 0 1 .fatal 0

/-! ## COPY.DEM's gate on an IN port (R215) -/

/-- The started COPY.DEM that feeds port p of core n, or once it has completed the port's own note of it: the order of the visits
stays fixed (R215, R379). -/
def State.demOf (s : State) (n p : Nat) : Option Cmd :=
  match s.cmds.find? fun k => decide (k.owner = Owner.core n) && decide (k.opc = 0x32#8) && decide (k.state ≠ .issued)
    && decide (k.w3.toNat / 2 ^ 21 % 16 = p) with
  | some k => some k
  | none => ((s.core n).port p).dem.map fun k => { k with owner := .core n, done := k.d.toNat * k.c.toNat }

/-- SLOTS of a ring command. -/
def Cmd.slots (k : Cmd) : Nat := k.w3.toNat / 2 ^ 25 % 16 + 1

/-- Slot of a ring that holds an address. -/
def Cmd.slotOf (k : Cmd) (va : Nat) : Option Nat :=
  if k.c = 0#64 ∨ va < k.b.toNat ∨ k.b.toNat + k.slots * k.c.toNat ≤ va then none else some ((va - k.b.toNat) / k.c.toNat)

/-- What the gate says of a port's next read: go, wait for the chunk, or the visit leaves the ring or its order. -/
inductive Gate where
  | go
  | wait
  | bad
deriving DecidableEq, Repr

/-- The gate of a COPY.DEM on the read at the port's position; x0 holds the visits ended before it started. -/
def demGate (k : Cmd) (x : Port) : Gate :=
  let v := x.visits - k.x0
  match k.slotOf (x.addrOf x.off).1 with
  | none => .bad
  | some t =>
    if t ≠ v % k.slots then .bad
    else if v < k.d.toNat ∧ k.done < (v + 1) * k.c.toNat then .wait else .go

/-- The visit ends when the next read is in another slot or the stream ends. -/
def demVisit (k : Cmd) (before after : Port) : Port :=
  if after.ended ∨ k.slotOf (after.addrOf after.off).1 ≠ k.slotOf (before.addrOf before.off).1 then
    { after with visits := after.visits + 1 }
  else after

/-! ## IN and OUT streams (R209) -/

/-- IN_PORT_SEND: the next token of the pattern enters the port's edge register. -/
def State.inSend (s : State) (n p : Nat) : State :=
  let c := s.core n
  let x := c.port p
  if c.run = .idle ∨ feedPlace p ∈ c.pausedPorts ∨ x.role ≠ 1 ∨ x.ended ∨ x.fifo ≠ [] ∨ (c.pacer.whold ∧ c.pacer.k ≠ 0) then s
  else
    let put := fun (s : State) (x : Port) (ts : List Token) =>
      (s.updCore n fun c => { Core.settle (feedPlace p) settleFuel (c.setPort p { x with fifo := ts }) with drained := false, moved := s.gtc }).portDone n p
    match x.levels[x.ctl]? with
    | some l => put s { x with ctl := x.ctl + 1 } [Token.prefixOf l (x.desc.cnt.getD l 0)]
    | none =>
      if x.past then put s x.step [Token.marker (x.rankDue.getD 0)]
      else
        let dem := s.demOf n p
        let next := fun (x : Port) => match dem with
          | some k =>
            let y := x.afterData
            { y with visits := (demVisit k x (if y.past then y.step else y)).visits }
          | none => x.afterData
        match (match dem with | some k => demGate k x | none => .go) with
        | .wait => s
        | .bad => match dem with
          | some k => s.cmdFault k 7 (some (x.addrOf x.off).1) (k.done / Nat.max 1 k.c.toNat)
          | none => s
        | .go =>
          if x.held ≠ 0 then put s { next x with held := x.held - 1 } []
          else match s.readElem n x x.off with
            | .error f => s.portMemFault n p (feedPlace p) f
            | .ok (s1, v) => put s1 (next x) [Token.ofData v]

def execInPortSend (core port : Nat) (s : State) : Host.Outcome State Fault Refusal := .next (s.inSend core port)

/-- OUT_PORT_WRITE: the port takes a token and checks it against its pattern, or writes it (R209, R382). -/
def State.outWrite (s : State) (n p : Nat) : State :=
  let c := s.core n
  let x := c.port p
  match x.fifo with
  | [] => s
  | t :: rest =>
    if c.run = .idle ∨ sinkPlace p ∈ c.pausedPorts ∨ x.role ≠ 2 ∨ x.ended then s
    else
      let put := fun (s : State) (x : Port) =>
        (s.updCore n fun c => { c.setPort p ({ x with fifo := rest }.take t) with drained := false, moved := s.gtc }).portDone n p
      match x.levels[x.ctl]? with
      | some l => if t = Token.prefixOf l (x.desc.cnt.getD l 0) then put s { x with ctl := x.ctl + 1 } else s.portMismatch n p
      | none =>
        if x.past then (if t.rank? = x.rankDue then put s x.step else s.portMismatch n p)
        else if !t.isData then s.portMismatch n p
        else match s.writeElem n x x.off t.data with
          | .error f => s.portMemFault n p (sinkPlace p) f
          | .ok s1 => put s1 x.afterData

def execOutPortWrite (core port : Nat) (s : State) : Host.Outcome State Fault Refusal := .next (s.outWrite core port)

/-! ## Issue -/

def execPortBind (w : CmdWords) (s : State) := issueCmd 0x10 w s
def execPortFeed (w : CmdWords) (s : State) := issueCmd 0x11 w s
def execPortTake (w : CmdWords) (s : State) := issueCmd 0x12 w s

end Sys2Proof.Machine
end

