-- ==== Sys2Proof/Machine/Copies.lean ====
section
/-! DEFINITION. The copy commands (09_stream_commands.md, R213–R218): COPY and its fills, COPY.IND, COPY.DEM and COPY.MC,
moved piece by piece. A piece lies in one aligned 8-byte word of the source and one of the destination (R123); each word of
the destination is written whole, once the bytes its row has there are read. -/

namespace Sys2Proof.Machine

/-- Bytes per row, slot or chunk. -/
def Cmd.rowLen (k : Cmd) : Nat := k.c.toNat

/-- Rows, indices or chunks of a copy command. -/
def Cmd.rows (k : Cmd) : Nat :=
  if k.opc = 0x30#8 then (if k.w3.getLsbD 28 then k.d.toNat else 1) else k.d.toNat

/-- Bytes the command writes. -/
def Cmd.total (k : Cmd) : Nat := k.rows * k.rowLen

/-- Row strides of a COPY: source and destination (R213). -/
def Cmd.srcStride (k : Cmd) : Int := if k.w3.getLsbD 28 then sx k.e.toNat 32 else 0
def Cmd.dstStride (k : Cmd) : Int := if k.w3.getLsbD 28 then sx (k.e.toNat / 2 ^ 32) 32 else 0

/-- Index size of a COPY.IND in bytes (R214). -/
def Cmd.indSize (k : Cmd) : Nat := 2 * 2 ^ (k.w3.toNat / 2 ^ 26 % 4)

/-- PF of a COPY or COPY.IND. -/
def Cmd.fills (k : Cmd) : Bool := (decide (k.opc = 0x30#8) || decide (k.opc = 0x33#8)) && k.w3.getLsbD 29

/-- An address as 64 bits. -/
def wrapVa (x : Int) : Nat := (x % 2 ^ 64).toNat

/-- Source address of byte q of row r; x0 holds the index of a COPY.IND's row. -/
def Cmd.srcVa (k : Cmd) (r q : Nat) : Nat :=
  match k.opc.toNat with
  | 0x30 => wrapVa (k.a.toNat + r * k.srcStride + q)
  | 0x33 => if k.w3.getLsbD 28 then wrapVa (k.b.toNat + r * k.rowLen + q) else wrapVa (k.e.toNat + k.x0 * k.rowLen + q)
  | _ => wrapVa (k.a.toNat + r * k.rowLen + q)

/-- Destination address of byte q of row r. -/
def Cmd.dstVa (k : Cmd) (r q : Nat) : Nat :=
  match k.opc.toNat with
  | 0x30 => wrapVa (k.b.toNat + r * k.dstStride + q)
  | 0x33 => if k.w3.getLsbD 28 then wrapVa (k.e.toNat + k.x0 * k.rowLen + q) else wrapVa (k.b.toNat + r * k.rowLen + q)
  | _ => wrapVa (k.b.toNat + r % k.slots * k.rowLen + q)

/-- A fill, whose bytes come from its operands (R213). -/
def Cmd.isFill (k : Cmd) : Bool := decide (k.opc = 0x30#8) && decide (k.mode = 1#2 ∨ k.mode = 2#2)

/-- Length of the piece that begins at byte q of row r. -/
def Cmd.pieceLen (k : Cmd) (r q : Nat) : Nat :=
  Nat.min (Nat.min (8 - k.dstVa r q % 8) (if k.isFill then 8 else 8 - k.srcVa r q % 8)) (k.rowLen - q)

/-- DIR of a COPY.IND: its destination rows are named by indices. -/
def Cmd.scatters (k : Cmd) : Bool := decide (k.opc = 0x33#8) && k.w3.getLsbD 28

/-- The command's destination is a ring (R215, R216). -/
def Cmd.isRing (k : Cmd) : Bool := decide (k.opc = 0x31#8 ∨ k.opc = 0x32#8)

/-- Destination row r covers the byte at an address. -/
def Cmd.rowHas (k : Cmd) (r va : Nat) : Bool := decide (k.dstVa r 0 ≤ va) && decide (va < k.dstVa r 0 + k.rowLen)

/-- Destination row r has a byte in the word of an address. -/
def Cmd.rowMeets (k : Cmd) (r va : Nat) : Bool :=
  decide (k.dstVa r 0 / 8 ≤ va / 8) && decide (va / 8 * 8 < k.dstVa r 0 + k.rowLen)

/-- The bytes the command writes in all include the one at an address: by rows, or for a gather or a ring as one range; for a
scatter, by the indices that `list` holds of it and row r. -/
def Cmd.writes (k : Cmd) (r va : Nat) : Bool :=
  if k.scatters then k.rowHas r va || k.list.any fun x => { k with x0 := x }.rowHas r va
  else if k.opc = 0x30#8 then (List.range k.rows).any fun i => k.rowHas i va
  else decide (k.b.toNat ≤ va) && decide (va < k.b.toNat + (if k.isRing then Nat.min k.rows k.slots else k.rows) * k.rowLen)

/-- The command writes every byte of the sector of an address (R103, R408). -/
def Cmd.writesSector (k : Cmd) (r va : Nat) : Bool :=
  coversSector (k.dstVa r 0) k.rowLen va || (List.range 128).all fun i => k.writes r (va / 128 * 128 + i)

/-- Another row writes to the word of an address too, so that the word is written once its last row has been read: no word
ends mixed from two commands (R139). A ring's chunks stand alone, for each is its consumer's before the next one is written
(`State.putRing`); a scatter's rows are unknown until their indices are read, and those that do not fill whole words are
written after the last (log 71). -/
def Cmd.sharesWord (k : Cmd) (r va : Nat) : Bool :=
  if k.isRing then false
  else if k.scatters then decide (k.rowLen % 8 ≠ 0) || decide (k.e.toNat % 8 ≠ 0)
  else (List.range k.rows).any fun i => decide (i ≠ r) && k.rowMeets i va

/-- No later row than r writes to the word of an address. -/
def Cmd.lastRow (k : Cmd) (r va : Nat) : Bool :=
  !k.scatters && (List.range k.rows).all fun i => decide (i ≤ r) || !k.rowMeets i va

/-- The agent of a copy that works through a core's windows. -/
def Cmd.copyAgent (k : Cmd) (core : Option Nat) : Agent := ⟨k.ctx, core, some k.id⟩

/-- The bytes of a piece: read at the source, or the fill (R213). -/
def State.pieceBytes (s : State) (src : Option Nat) (k : Cmd) (r q len : Nat) : Except MemFault (State × List Byte) :=
  if !k.isFill then s.load (k.copyAgent src) k.hint (k.srcVa r q) len
  else if k.mode = 1#2 then .ok (s, List.replicate len (BitVec.ofNat 8 k.a.toNat))
  else .ok (s, (List.range len).map fun i => BitVec.ofNat 8 (k.a.toNat / 2 ^ (8 * ((k.dstVa r q + i) % 8))))

/-- Command id writes listed bytes of one word in one act; `whole` tells the addresses whose sectors it writes in full. -/
def State.putBytes (s : State) (g : Agent) (id : Nat) (pol : BitVec 2) (whole : Nat → Bool) :
    List (Nat × Byte) → Except MemFault State
  | [] => .ok s
  | (va, v) :: rest => match translate (s.pagesFor g) va Need.write with
    | .error f => .error f
    | .ok pa =>
      let (s1, last) := s.cover (some id) (whole va) va pa 1
      match s1.storeByte g.core pol va pa v (whole va) last with
      | .error f => .error f
      | .ok s2 => s2.putBytes g id pol whole rest

/-- Bytes read for the word of an address and not yet written. -/
def Cmd.staged (k : Cmd) (va : Nat) : List (Nat × Byte) := k.buf.filter fun e => decide (e.1 / 8 = va / 8)

/-- A command keeps bytes for consecutive addresses until the words they lie in are written. -/
def Cmd.stage (k : Cmd) (va : Nat) (bs : List Byte) : SMap Byte :=
  ((List.range bs.length).zip bs).foldl (fun m p => SMap.put m (va + p.1) p.2) k.buf

/-- Every byte of row r in the word of an address has been read. -/
def Cmd.rowStaged (k : Cmd) (r va : Nat) : Bool := (List.range 8).all fun i =>
  !k.rowHas r (va / 8 * 8 + i) || k.buf.any fun e => decide (e.1 = va / 8 * 8 + i)

/-- The word of an address is due: all of its row is there, and where other rows write it too, the last of them; for a presence
filling, its eight bytes (R116, R139). -/
def Cmd.wordDue (k : Cmd) (r va : Nat) : Bool :=
  if k.sharesWord r va then (k.lastRow r va && k.rowStaged r va) || (k.fills && decide ((k.staged va).length = 8))
  else k.rowStaged r va

/-- Slots of a ring with a byte in the word of an address. -/
def Cmd.slotsAt (k : Cmd) (va : Nat) : Nat := ((List.range (Nat.min k.rows k.slots)).filter fun i => k.rowMeets i va).length

/-- Write the bytes of a ring's chunk in the word of an address. Where the word holds the end of one chunk and the beginning
of the next, the command notes what it has written there; a word that another command has written since is written again
with all of it, so that it ends with the bytes of one of them (R139). -/
def State.putRing (s : State) (g : Agent) (root own : Cmd) (r va : Nat) (es : List (Nat × Byte)) : Except MemFault State :=
  let put := fun es => (s.keepPages g va es.length).putBytes g own.id root.hint (root.writesSector r) es
  if root.slotsAt va ≤ 1 then put es
  else
    let half := es.foldl (fun m e => SMap.put m e.1 e.2) own.half
    let mine := half.filter fun e => decide (e.1 / 8 = va / 8)
    let full := (List.range 8).all fun i => !root.writes r (va / 8 * 8 + i) || mine.any fun e => decide (e.1 = va / 8 * 8 + i)
    (put (if va / 8 ∈ own.torn then mine else es)).map fun s1 => s1.updCmd own.id fun j => { j with
      half := half, torn := if full then j.torn.filter fun w => decide (w ≠ va / 8) else j.torn }

/-- Write the bytes kept for the word of an address. -/
def State.flushWord (s : State) (dst : Option Nat) (k : Cmd) (r va : Nat) : Except MemFault State :=
  let es := k.staged va
  let g := k.copyAgent dst
  let s1 := s.tear (some k.id) g (va / 8 * 8) 8
  (if k.fills then s1.storeFill g (k.writesSector r) (va / 8 * 8) (es.map (·.2))
    else if k.isRing then s1.putRing g k k r va es
    else s1.putBytes g k.id k.hint (k.writesSector r) es).map fun s2 =>
      s2.updCmd k.id fun j => { j with buf := j.buf.filter fun e => decide (e.1 / 8 ≠ va / 8) }

/-- Move one piece; both its addresses are translated before either access (R402). The word it belongs to is written once it is
due. -/
def State.movePiece (s : State) (src dst : Option Nat) (k : Cmd) (r q : Nat) : Except MemFault State :=
  let len := k.pieceLen r q
  let va := k.dstVa r q
  match translateRange (s.pagesFor (k.copyAgent dst)) va (if k.fills then Need.pwrite else Need.write) len with
  | .error f => .error f
  | .ok _ => match (s.keepPages (k.copyAgent dst) va len).pieceBytes src k r q len with
    | .error f => .error f
    | .ok (s1, bs) =>
      let k1 := { k with buf := k.stage va bs }
      let s2 := s1.updCmd k.id fun j => { j with buf := k1.buf }
      if k1.wordDue r va then s2.flushWord dst k1 r va else .ok s2

/-- The index of row r of a COPY.IND, read when the row begins (R214). -/
def State.readIndex (s : State) (k : Cmd) (r : Nat) : Except MemFault (State × Nat) :=
  s.loadNat k.windowAgent k.hint (wrapVa (k.a.toNat + r * k.indSize)) k.indSize

/-- A row of a COPY.IND begins: its index is read, and its rows at both ends are translated before any of it moves
(R214, R402, R403). -/
def State.beginRow (s : State) (k : Cmd) (r : Nat) : Except MemFault (State × Nat) :=
  match s.readIndex k r with
  | .error f => .error f
  | .ok (s1, x) =>
    let k1 := { k with x0 := x }
    let g := k.windowAgent
    match translateRange (s1.pagesFor g) (k1.srcVa r 0) Need.read k.rowLen with
    | .error f => .error f
    | .ok _ => match translateRange (s1.pagesFor g) (k1.dstVa r 0) (if k.fills then Need.pwrite else Need.write) k.rowLen with
      | .error f => .error f
      | .ok _ => .ok (((s1.keepPages g (k1.srcVa r 0) k.rowLen).keepPages g (k1.dstVa r 0) k.rowLen), x)

/-- The rows a scatter will write, as its list of indices stands when its first row begins: they tell the sectors it writes in
full, and no row's own index, which is read with the row (R103, R214). -/
def State.peekRows (s : State) (k : Cmd) : State :=
  if !k.scatters || decide (k.list ≠ []) then s
  else s.updCmd k.id fun j => { j with list := (List.range k.rows).filterMap fun r => match s.readIndex k r with
    | .ok (_, x) => some x
    | .error _ => none }

/-- RESTART of a copy at byte i (R403). -/
def Cmd.copyRestart (k : Cmd) (i : Nat) : Nat :=
  let c := Nat.max 1 k.rowLen
  if k.opc = 0x30#8 then i / c + i % c * 2 ^ 64 else i / c

/-- The command after its piece at `done`; the list of a COPY holds the pieces moved out of order. -/
def Cmd.pieceDone (k : Cmd) (len : Nat) : Cmd :=
  { k with done := k.done + len, list := if k.opc = 0x30#8 then k.list.filter fun i => decide (i ≠ k.done) else k.list }

/-- Byte `done` lies in a chunk that the ring's free-slot notices let the copy write (R215). -/
def State.ringOpen (s : State) (n : Nat) (k : Cmd) : Bool :=
  let j := k.done / Nat.max 1 k.rowLen
  decide (k.opc ≠ 0x32#8) || decide (j < k.slots)
    || decide (j - k.slots + 1 ≤ ((s.core n).port (k.w3.toNat / 2 ^ 21 % 16)).visits - k.x0)

/-! ## The copy channels (R218) -/

/-- Cores of the runner's gang in rank order; a core outside a gang stands alone. -/
def Core.members (c : Core) (n : Nat) : List Nat := if c.gang = [] then [n] else c.gang

/-- RK of a COPY.MC. -/
def Cmd.rootRank (k : Cmd) : Nat := k.w3.toNat / 2 ^ 21 % 16

/-- The COPY.MC of ordinal `k.sub` on core m. -/
def State.mcOn (s : State) (k : Cmd) (m : Nat) : Option Cmd :=
  s.cmds.find? fun j => decide (j.owner = Owner.core m) && decide (j.opc = 0x31#8) && decide (j.sub = k.sub)

/-- Participants of a multicast, as its root's command names them: cores with their rank. -/
def Cmd.mcCores (root : Cmd) (members : List Nat) : List (Nat × Nat) :=
  (members.zip (List.range members.length)).filter fun p => root.e.getLsbD p.2 || decide (p.2 = root.rootRank)

/-- The root of a multicast stands on the core of rank RK. -/
def State.isRoot (s : State) (n : Nat) (k : Cmd) : Bool := (((s.core n).members n)[k.rootRank]?) = some n

/-- IPC of a COPY.MC: iterations per chunk. -/
def Cmd.ipc (k : Cmd) : Nat := k.w3.toNat / 2 ^ 12 % 256 + 1

/-- The next chunk of a member's ring may be written (R217). -/
def State.mcOpen (s : State) (m : Nat) (root j : Cmd) : Bool :=
  let chunk := j.done / Nat.max 1 root.rowLen
  !root.w3.getLsbD 20 || decide (chunk < root.slots)
    || decide (j.x0 + (chunk - root.slots + 1) * root.ipc ≤ (s.core m).ictr.toNat)

/-- A started copy of core n has a piece that could move now. -/
def State.servable (s : State) (n : Nat) (k : Cmd) : Bool :=
  decide (k.owner = Owner.core n) && s.runs k
    && (match k.opc.toNat with
      | 0x30 => true
      | 0x32 => decide (k.total ≤ k.done) || s.ringOpen n k
      | 0x33 => true
      | 0x31 => s.isRoot n k && (k.mcCores ((s.core n).members n)).any fun p => match s.mcOn k p.1 with
        | some j => decide (j.done < k.total) && s.runs j && s.mcOpen p.1 k j
        | none => false
      | _ => false)

/-- It has been started for 4,096 ticks without being served since. -/
def State.copyAged (s : State) (k : Cmd) : Bool := decide (4096 ≤ (s.gtc - k.tServed).toNat)

/-- Priority at which a copy is served. -/
def State.copyPrio (s : State) (k : Cmd) : Nat := if s.copyAged k then 3 else k.prio

/-- How long ago a copy was served, by the order of services; one never served comes last. -/
def Core.servedAt (c : Core) (id : Nat) : Nat := c.served.idxOf id

/-- Copy k of core n may be served now (R218): no servable copy is of higher priority, and equal ones take turns. How many
pieces a turn has the rule does not say: the copy served last may go on until another has waited 4,096 ticks, and else
the one served longest ago is next (log 72). -/
def State.copyTurn (s : State) (n : Nat) (k : Cmd) : Bool :=
  let c := s.core n
  s.cmds.all fun j => decide (j.id = k.id) || !s.servable n j || decide (s.copyPrio j < s.copyPrio k)
    || (decide (s.copyPrio j = s.copyPrio k)
      && (if c.served.head? = some k.id then !s.copyAged j
        else decide (c.served.head? = some j.id) || decide (c.servedAt j.id < c.servedAt k.id)
          || (decide (c.servedAt j.id = c.servedAt k.id) && decide (k.id < j.id))))

/-- A copy has been served. -/
def State.serve (s : State) (n id : Nat) : State :=
  (s.updCmd id fun j => { j with tServed := s.gtc }).updCore n fun c => { c with
    served := id :: c.served.filter fun i => decide (i ≠ id) }

/-- Up to `f` pieces of a started COPY, COPY.IND or COPY.DEM of core n in element order, while it is served; it completes
after the last. -/
def State.copyRun (n id : Nat) : Nat → State → State
  | 0, s => s
  | f + 1, s =>
    match s.cmd? id with
    | none => s
    | some k =>
      if !s.runs k then s
      else if k.total ≤ k.done then
        (match k.buf with
        | [] => s.finishCmd id
        | (va, _) :: _ => match s.flushWord (some n) k 0 va with
          | .error e => s.cmdMemFault k e (k.copyRestart k.done)
          | .ok s1 => State.copyRun n id f s1)
      else if !s.ringOpen n k || !s.copyTurn n k then s
      else
        let c := Nat.max 1 k.rowLen
        let r := k.done / c
        let q := k.done % c
        let step := fun (s : State) (k : Cmd) =>
          if k.opc = 0x30#8 ∧ k.done ∈ k.list then State.copyRun n id f (s.updCmd id fun j => j.pieceDone (k.pieceLen r q))
          else match s.movePiece (some n) (some n) k r q with
            | .error e => if e.waits then s else
                (s.updCmd id fun j => { j with done := if j.opc = 0x30#8 then j.done else r * c }).cmdMemFault k e (k.copyRestart k.done)
            | .ok s1 => State.copyRun n id f ((s1.serve n id).updCmd id fun j => j.pieceDone (k.pieceLen r q))
        if k.opc = 0x33#8 ∧ q = 0 then
          match s.beginRow k r with
          | .error e => s.cmdMemFault k e (k.copyRestart k.done)
          | .ok (s1, x) =>
            let s2 := (s1.peekRows k).updCmd id fun j => { j with x0 := x }
            step s2 ((s2.cmd? id).getD k)
        else step s k

/-- Finish what there is to move: enough fuel for every piece, every word kept back and the completion. -/
def State.copyGo (s : State) (n : Nat) (k : Cmd) : State := State.copyRun n k.id (2 * (k.total - k.done) + k.buf.length + 2) s

/-- Every byte of the word of an address is among those a COPY writes. -/
def Cmd.wordWhole (k : Cmd) (va : Nat) : Bool := (List.range 8).all fun i => k.writes 0 (va / 8 * 8 + i)

/-- A presence-filling destination that does not cover whole words (R116, R405): a word at the end of some row of a COPY,
the range of a gather, a row of a scatter. -/
def Cmd.fillMisaligned (k : Cmd) : Bool :=
  k.fills && (if k.scatters then decide (k.rowLen % 8 ≠ 0) || decide (k.e.toNat % 8 ≠ 0)
    else if k.opc = 0x33#8 then decide (k.total % 8 ≠ 0) || decide (k.b.toNat % 8 ≠ 0)
    else !(decide (k.rowLen % 8 = 0) && decide (k.dstStride % 8 = 0) && decide (k.b.toNat % 8 = 0))
      && (List.range k.rows).any fun r => !k.wordWhole (k.dstVa r 0) || !k.wordWhole (k.dstVa r (k.rowLen - 1)))

/-- A copy is now started: it waits to be served from this tick on (R218). -/
def State.copyStarted (s : State) (k : Cmd) : State := (s.started k).updCmd k.id fun j => { j with tServed := s.gtc }

/-- COPY and COPY.IND start (R213, R214, R227, R379). -/
def State.startCopy (s : State) (k : Cmd) : State :=
  if k.opc = 0x30#8 ∧ k.mode = 3#2 then s.cmdFault k 1 none 0
  else if k.opc = 0x33#8 ∧ k.w3.toNat / 2 ^ 26 % 4 = 3 then s.cmdFault k 1 none 0
  else if !addrOk k.b || (!addrOk k.a && (decide (k.opc ≠ 0x30#8) || decide (k.mode = 0#2)))
      || (!addrOk k.e && decide (k.opc = 0x33#8)) then s.cmdFault k 2 none 0
  else if k.total = 0 then (s.started k).finishCmd k.id
  else if k.fillMisaligned then
    s.cmdFaultAs k k.kind k.loc 7 3 .fatal (some (if k.scatters then k.e else k.b).toNat) 0
  else s.copyStarted k

/-- COPY.DEM starts on a port bound IN (R215, R379); a binding still to take effect comes first. -/
def State.startDem (s : State) (n : Nat) (k : Cmd) : State :=
  let p := k.w3.toNat / 2 ^ 21 % 16
  let x := (s.core n).port p
  if s.bindPending k p then s
  else if !addrOk k.a || !addrOk k.b then s.cmdFault k 2 none 0
  else if x.role ≠ 1 then s.cmdFault k 4 none 0
  else if k.total = 0 then (s.started k).finishCmd k.id
  else
    let j := { k with x0 := x.visits }
    ((s.copyStarted k).updCmd k.id fun j => { j with x0 := x.visits }).updCore n fun c =>
      c.setPort p { c.port p with dem := some j }

/-! ## COPY.MC (R216, R217) -/

/-- A COPY.MC starts with every participant's command, when all have met the conditions of R197; with no chunk it completes
at its start (R227). -/
def State.startMc (s : State) (n : Nat) (k : Cmd) : State :=
  let ms := (s.core n).members n
  if (k.e.toNat % 2 ^ 16) / 2 ^ ms.length ≠ 0 ∨ ms.length ≤ k.rootRank then s.cmdFault k 2 none 0
  else if !addrOk k.a || !addrOk k.b then s.cmdFault k 2 none 0
  else if !s.isRoot n k then s
  else
    let ps := k.mcCores ms
    let js := ps.map fun p => s.mcOn k p.1
    if js.all fun j => (match j with | some j => s.mayStart j | none => false) then
      let s1 := ps.foldl (fun s p => match s.mcOn k p.1 with
        | none => s
        | some j => (s.copyStarted j).updCmd j.id fun i => { i with
            x0 := (s.core p.1).pacer.admitted
            done := if k.e.getLsbD p.2 then 0 else k.total }) s
      if k.total = 0 then s1.finishCmds ((ps.filterMap fun p => s1.mcOn k p.1).map (·.id)) else s1
    else s

/-- The first of `len` offsets from i whose byte of the source is not there. -/
def Cmd.mcMissing (root : Cmd) (i len : Nat) : Option Nat :=
  ((List.range len).map (i + ·)).find? fun x => !root.buf.any fun e => decide (e.1 = x)

/-- Read the part of a multicast's source that begins at offset i and lies in one word: read once, and kept until every member's
ring has it (R123, R216). -/
def State.mcFetch (s : State) (n : Nat) (root : Cmd) (i : Nat) : Except MemFault State :=
  let va := wrapVa (root.a.toNat + i : Nat)
  let len := Nat.min (8 - va % 8) (root.rowLen - i % Nat.max 1 root.rowLen)
  (s.load (root.copyAgent (some n)) root.hint va len).map fun r => r.1.updCmd root.id fun j => { j with
    buf := ((List.range len).zip r.2).foldl (fun m p => SMap.put m (i + p.1) p.2) j.buf }

/-- Bytes of chunks that every member's ring has are kept no longer. -/
def State.mcDrop (s : State) (n : Nat) (root : Cmd) : State :=
  let c := Nat.max 1 root.rowLen
  let ds := (root.mcCores ((s.core n).members n)).filterMap fun p => (s.mcOn root p.1).map fun j => j.done / c * c
  s.updCmd root.id fun j => { j with buf := j.buf.filter fun e => ds.any fun d => decide (d ≤ e.1) }

/-- Length of the part of a multicast's chunk that begins at offset i and lies in one word of the rings. -/
def Cmd.mcLen (root : Cmd) (i : Nat) : Nat :=
  let c := Nat.max 1 root.rowLen
  Nat.min (8 - root.dstVa (i / c) (i % c) % 8) (root.rowLen - i % c)

/-- Write one word's part at offset i into the ring of member core m, whose command is `own`. -/
def State.mcPut (s : State) (m : Nat) (root own : Cmd) (i : Nat) : Except MemFault State :=
  let c := Nat.max 1 root.rowLen
  let va := root.dstVa (i / c) (i % c)
  let len := root.mcLen i
  let g := root.copyAgent (some m)
  (s.tear (some own.id) g va len).putRing g root own (i / c) va (((List.range len).map (va + ·)).zip (SMap.getList 0 root.buf i len))

/-- A fault of a multicast at the next piece of a member's ring: the member starts again at its chunk (R403). -/
def State.mcFault (s : State) (root own : Cmd) (e : MemFault) : State :=
  let c := Nat.max 1 root.rowLen
  if e.waits then s
  else (s.updCmd own.id fun j => { j with done := j.done / c * c }).cmdMemFault root e (own.done / c)

/-- Up to `f` acts of a multicast for the ring of member core m, while the root's channel is served: a part of the source is
read, or a word's part written. -/
def State.mcRun (n m rootId : Nat) : Nat → State → State
  | 0, s => s
  | f + 1, s =>
    match s.cmd? rootId with
    | none => s
    | some root => match s.mcOn root m with
      | none => s
      | some j =>
        if !s.runs root ∨ !s.runs j ∨ root.total ≤ j.done ∨ !s.mcOpen m root j ∨ !s.copyTurn n root then s
        else
          let c := Nat.max 1 root.rowLen
          let len := root.mcLen j.done
          match translateRange (s.pagesFor (root.copyAgent (some m))) (root.dstVa (j.done / c) (j.done % c)) Need.write len with
          | .error e => s.mcFault root j e
          | .ok _ => match root.mcMissing j.done len with
            | some x => (match s.mcFetch n root x with
              | .error e => s.mcFault root j e
              | .ok s1 => State.mcRun n m rootId f (s1.serve n rootId))
            | none => match s.mcPut m root j j.done with
              | .error e => s.mcFault root j e
              | .ok s1 => State.mcRun n m rootId f (((s1.serve n rootId).updCmd j.id fun i =>
                  { i with done := i.done + len }).mcDrop n root)

/-- A multicast goes on as far as its rings allow; when every chunk is in every ring, each participant's command
completes (R216). -/
def State.mcGo (s : State) (n : Nat) (k : Cmd) : State :=
  if !s.isRoot n k then s
  else
    let ps := k.mcCores ((s.core n).members n)
    let s1 := ps.foldl (fun s p => State.mcRun n p.1 k.id (3 * k.total + 1) s) s
    let js := ps.filterMap fun p => s1.mcOn k p.1
    if (match s1.cmd? k.id with | some r => decide (r.state = .started) | none => false)
        && js.all fun j => decide (k.total ≤ j.done) then s1.finishCmds (js.map (·.id)) else s1

/-- Iteration number `i` of core m's Pacer, counted from the fabric load's first, waits for a chunk of a joined multicast
(R217). -/
def State.batonJoined (s : State) (m i : Nat) : Bool :=
  s.cmds.any fun j => decide (j.owner = Owner.core m) && decide (j.opc = 0x31#8) && decide (j.state ≠ .issued)
    && (match ((s.core m).members m)[j.rootRank]? with
      | none => false
      | some r => match s.mcOn j r with
        | none => false
        | some root => root.w3.getLsbD 20 && root.e.getLsbD (s.core m).rank
            && decide (j.x0 ≤ i ∧ i < j.x0 + root.d.toNat * root.ipc)
            && decide (j.done < ((i - j.x0) / root.ipc + 1) * root.rowLen))

/-! ## Single pieces -/

/-- One piece of a started copy: the next in element order, or for a COPY any other that begins at byte i and whose pages
translate. Accesses to one word keep the element order (R121), and so does a presence filling, a release of what comes
before it (R130). -/
def State.pieceStep (s : State) (id i : Nat) : State :=
  match s.cmd? id with
  | none => s
  | some k => match k.owner with
    | .node _ _ => s
    | .core n =>
      if !s.runs k then s
      else if k.opc = 0x31#8 then (match ((s.core n).members n)[k.rootRank]? with
        | none => s
        | some r => match s.mcOn k r with
          | none => s
          | some root => if i = k.done then State.mcRun r n root.id 1 s else s)
      else if k.opc ≠ 0x30#8 ∧ k.opc ≠ 0x32#8 ∧ k.opc ≠ 0x33#8 then s
      else if i = k.done then State.copyRun n id 1 s
      else
        let c := Nat.max 1 k.rowLen
        if k.opc ≠ 0x30#8 ∨ k.fills ∨ k.total ≤ i ∨ i < k.done ∨ i ∈ k.list
            ∨ (i % c ≠ 0 ∧ k.dstVa (i / c) (i % c) % 8 ≠ 0 ∧ (k.isFill ∨ k.srcVa (i / c) (i % c) % 8 ≠ 0))
            ∨ k.sharesWord (i / c) (k.dstVa (i / c) (i % c)) ∨ !s.copyTurn n k then s
        else match s.movePiece (some n) (some n) k (i / c) (i % c) with
          | .error _ => s
          | .ok s1 => (s1.serve n id).updCmd id fun j => { j with list := i :: j.list }

/-! ## Issue -/

/-- Words with the mode that names a COPY variant (R201, R213). -/
def withMode (m : BitVec 2) (w : CmdWords) : CmdWords := if w.mode = 3#2 ∧ m = 0#2 then w else { w with mode := m }

def execCopy (w : CmdWords) (s : State) := issueCmd 0x30 (withMode 0#2 w) s
def execCopyFill (w : CmdWords) (s : State) := issueCmd 0x30 (withMode 1#2 w) s
def execCopyWfill (w : CmdWords) (s : State) := issueCmd 0x30 (withMode 2#2 w) s
def execCopyMc (w : CmdWords) (s : State) := issueCmd 0x31 w s
def execCopyDem (w : CmdWords) (s : State) := issueCmd 0x32 w s
/-- DIR of a COPY.IND (R214). -/
def withDir (scatter : Bool) (w : CmdWords) : CmdWords := { w with w3 := setBit w.w3 28 scatter }
def execCopyIndGather (w : CmdWords) (s : State) := issueCmd 0x33 (withDir false w) s
def execCopyIndScatter (w : CmdWords) (s : State) := issueCmd 0x33 (withDir true w) s

end Sys2Proof.Machine
end

