-- ==== Sys2Proof/Machine/Matrix.lean ====
section
/-! DEFINITION. The matrix engine (11_matrix_engine.md, R253–R273; R82–R93): descriptors and operands, k-steps, overtaking,
arms and the write-out path. -/

namespace Sys2Proof.Machine

/-- Run a reading function over a list, the state threaded through. -/
def thread {α β ε : Type} (f : State → α → Except ε (State × β)) : State → List α → Except ε (State × List β)
  | s, [] => .ok (s, [])
  | s, a :: r => match f s a with
    | .error e => .error e
    | .ok (s1, b) => match thread f s1 r with
      | .error e => .error e
      | .ok (s2, bs) => .ok (s2, b :: bs)

/-! ## Descriptors (R255, R257, R258) -/

/-- A tensor descriptor. -/
structure Tensor where
  base : Nat
  rstr : Int
  sbase : Nat
  gbase : Nat
  klen : Nat
  fmt : Nat
  fmtHi : Nat
  sch : Nat
  xen : Bool
  schHi : Nat
  xv : Nat
  meta0 : Nat
  meta1 : Nat
  sparse : Nat
deriving DecidableEq, Repr

/-- A descriptor from its 64 bytes as one number. -/
def Tensor.ofNat (v : Nat) : Tensor :=
  let f := fun (off n : Nat) => v / 2 ^ (8 * off) % 2 ^ (8 * n)
  { base := f 0 8, rstr := sx (f 8 8) 64, sbase := f 0x10 8, gbase := f 0x18 8, klen := f 0x20 4
    fmt := f 0x24 1 % 16, fmtHi := f 0x24 1 / 16, sch := f 0x25 1 % 4, xen := (f 0x25 1).testBit 2, schHi := f 0x25 1 / 8
    xv := f 0x26 2, meta0 := f 0x28 8, meta1 := f 0x30 8, sparse := f 0x38 1 }

/-- The format is an integer one. -/
def Tensor.isInt (t : Tensor) : Bool := decide (4 ≤ t.fmt ∧ t.fmt ≤ 6)

/-- A row of the table of R257. -/
def Tensor.rowOk (t : Tensor) : Bool :=
  (decide (t.fmt = 0xA ∨ t.fmt = 0xB ∨ t.fmt = 0xC) && decide (t.sch ≤ 1)) || (decide (t.fmt = 0xD) && decide (t.sch = 2))
    || (decide (t.fmt = 8 ∨ t.fmt = 9) && decide (t.sch = 0)) || (t.isInt && decide (t.sch = 0))

/-- Width of an element in bits. -/
def Tensor.width (t : Tensor) : Nat := fmtWidth t.fmt

/-- Scale block size: 32 for MX, 64 for QC4, and 64 where there is none. -/
def Tensor.blockSize (t : Tensor) : Nat := if t.sch = 1 then 32 else 64

/-- Mb, Nb and Ne of an MM.SP operand (R258). -/
def Tensor.mb (t : Tensor) : Nat := if t.sparse.testBit 4 then 8 else 4
def Tensor.nb (t : Tensor) : Nat := t.sparse % 16
def Tensor.ne (t : Tensor) : Nat := 2 ^ (t.sparse / 2 ^ 5 % 4)
/-- Block size of an MM.BSR operand (R259). -/
def Tensor.bs (t : Tensor) : Nat := if t.sparse.testBit 0 then 32 else 16

/-! ## Command fields (R267) -/

def Cmd.i0 (k : Cmd) : Nat := k.c.toNat % 2 ^ 32
def Cmd.j0 (k : Cmd) : Nat := k.c.toNat / 2 ^ 32
def Cmd.k0 (k : Cmd) : Nat := k.d.toNat % 2 ^ 32
def Cmd.klen (k : Cmd) : Nat := k.d.toNat / 2 ^ 32
def Cmd.tileM (k : Cmd) : Nat := k.e.toNat / 2 ^ 32 % 256 + 1
def Cmd.tileN (k : Cmd) : Nat := k.e.toNat / 2 ^ 40 % 256 + 1
def Cmd.zero (k : Cmd) : Bool := k.w3.getLsbD 30
def Cmd.rlx (k : Cmd) : Bool := k.w3.getLsbD 29
/-- The threshold T: NaN and negative values are 0 (R92). -/
def Cmd.threshold (k : Cmd) : XR :=
  let v := FloatFmt.fp32.decode (k.e.toNat % 2 ^ 32)
  if v.isNaN || v.neg? then .fin false 0 0 else v
/-- k-steps of an MM form. -/
def Cmd.ksteps (k : Cmd) : Nat := k.klen / 64

def isMm (opc : Nat) : Bool := decide (0x40 ≤ opc ∧ opc ≤ 0x43)
/-- A command that occupies the array, the write-out path, or either. -/
def Cmd.onArray (k : Cmd) : Bool := isMm k.opc.toNat
def Cmd.onWriteOut (k : Cmd) : Bool := decide (k.opc = 0x45#8) || decide (k.opc = 0x46#8)

/-- A's and B's descriptors as read when the command started. -/
def Cmd.tA (k : Cmd) : Tensor := Tensor.ofNat (k.list.getD 0 0)
def Cmd.tB (k : Cmd) : Tensor := Tensor.ofNat (k.list.getD 1 0)

/-! ## Checks at start (R386) -/

/-- Must-be-zero fields of a descriptor, and SPARSE where the form gives it no meaning (R255); its reserved bytes are
ignored (R2). -/
def tensorZeroOk (opc : Nat) (isA : Bool) (t : Tensor) : Bool :=
  decide (t.fmtHi = 0) && decide (t.schHi = 0)
    && (if isA ∧ opc = 0x41 then decide (t.sparse < 128) else if isA ∧ opc = 0x42 then decide (t.sparse < 2) else decide (t.sparse = 0))

/-- Operands accepted by the form (R257, R259, R260). -/
def operandsOk (opc : Nat) (a b : Tensor) : Bool :=
  let plain := fun (t : Tensor) => decide (t.sch = 0) && decide (t.width ≠ 4)
  a.rowOk && b.rowOk && (a.isInt == b.isInt) && (decide (opc < 0x42) || (plain a && plain b))

/-- Ranges and multiples of R255, R258–R260 and R267. -/
def rangesOk (k : Cmd) (a b : Tensor) : Bool :=
  let opc := k.opc.toNat
  let scaled := fun (t : Tensor) => decide (t.sch = 0) || decide (t.klen % t.blockSize = 0)
  decide (k.tileN ≤ 192) && decide (k.k0 % 64 = 0) && decide (k.klen % 64 = 0) && decide (k.klen ≤ 2 ^ 20)
    && decide (k.k0 + k.klen ≤ a.klen)
    && (if opc = 0x43 then decide (k.j0 + k.tileN ≤ b.klen) else decide (k.k0 + k.klen ≤ b.klen))
    && scaled a && scaled b
    && (decide (opc ≠ 0x41) || (decide (1 ≤ a.nb ∧ a.nb ≤ a.mb) && decide (a.sparse / 2 ^ 5 % 4 ≤ 2)
      && decide (k.k0 % (16 * a.mb) = 0) && decide (k.klen % (16 * a.mb) = 0)))
    && (decide (opc ≠ 0x42) || (decide (k.i0 % a.bs = 0) && decide (k.tileM % a.bs = 0)))

/-- Subcode of the first check an MM form fails once its descriptors are read. -/
def mmErr (k : Cmd) : Option Nat :=
  let a := k.tA
  let b := k.tB
  if !tensorZeroOk k.opc.toNat true a || !tensorZeroOk k.opc.toNat false b then some 1
  else if !operandsOk k.opc.toNat a b then some 6
  else if !rangesOk k a b then some 2
  else none

/-! ## Elements and scales (R82–R84, R256) -/

/-- The value of an element's bits. -/
def Tensor.value (t : Tensor) (x : Nat) : XR :=
  if t.fmt = 0xD then qc4Value x else if t.fmt = 0xC then decodeX x t.xen t.xv else decodeFmt x t.fmt

/-- Read element number `idx` of a packed run at `base`. -/
def State.readPacked (s : State) (k : Cmd) (t : Tensor) (base : Int) (idx : Nat) : Except MemFault (State × XR) :=
  let bytes := t.width / 8
  if t.width = 4 then
    (s.loadNat k.windowAgent k.hint (wrapVa (base + (idx / 2 : Nat))) 1).map fun p => (p.1, t.value (p.2 / 2 ^ (4 * (idx % 2)) % 16))
  else (s.loadNat k.windowAgent k.hint (wrapVa (base + (idx * bytes : Nat))) bytes).map fun p => (p.1, t.value p.2)

/-- Element (row, kk) of a dense operand. -/
def State.readDense (s : State) (k : Cmd) (t : Tensor) (row kk : Nat) : Except MemFault (State × XR) :=
  s.readPacked k t ((t.base : Int) + row * t.rstr) kk

/-- The block factor of an operand at a row and K index: none for an MX scale of NaN. -/
def State.readFactor (s : State) (k : Cmd) (t : Tensor) (row kk : Nat) : Except MemFault (State × Option XR) :=
  if t.sch = 0 then .ok (s, some (.fin false 1 0))
  else
    let idx := row * (t.klen / t.blockSize) + kk / t.blockSize
    match s.loadNat k.windowAgent k.hint (wrapVa ((t.sbase : Int) + idx)) 1 with
    | .error f => .error f
    | .ok (s1, c) =>
      if t.sch = 1 then .ok (s1, if c = 255 then none else some (.fin false 1 ((c : Int) - 127)))
      else if c = 0 then .ok (s1, some (.fin false 0 0))
      else match s1.loadNat k.windowAgent k.hint (wrapVa ((t.gbase : Int) + (4 * (idx / 256) : Nat))) 4 with
        | .error f => .error f
        | .ok (s2, g) => .ok (s2, some (XR.mul (.fin false c (-8)) (FloatFmt.fp32.decode g)).1)

/-! ## Rows of A in one k-step -/

/-- Why a k-step stops: a memory fault of the A or B pipe, or bad metadata. -/
inductive MxErr where
  | memA (f : MemFault)
  | memB (f : MemFault)
  | bad
deriving DecidableEq, Repr

/-- A memory fault as the A pipe's or the B pipe's. -/
def asA {α : Type} : Except MemFault α → Except MxErr α
  | .ok a => .ok a
  | .error f => .error (.memA f)
def asB {α : Type} : Except MemFault α → Except MxErr α
  | .ok a => .ok a
  | .error f => .error (.memB f)

/-- Set bits of x below position i. -/
def bitsBelow (x i : Nat) : Nat := popcNat i x

/-- Kept elements of row `row` of an MM.SP operand among one block of 16 at block index q16 (R258). -/
def State.spBlock (s : State) (k : Cmd) (row q16 : Nat) : Except MxErr (State × List (Nat × XR)) :=
  let t := k.tA
  let groups := t.klen / (16 * t.mb)
  let g := q16 / t.mb
  let q := q16 % t.mb
  match asA (s.loadNat k.windowAgent k.hint (wrapVa ((t.meta0 : Int) + (row * groups + g : Nat))) 1) with
  | .error e => .error e
  | .ok (s1, bb) =>
    if popcNat 8 bb ≠ t.nb ∨ bb / 2 ^ t.mb ≠ 0 then .error .bad
    else if !bb.testBit q then .ok (s1, [])
    else
      let n := bitsBelow bb q
      match (if t.ne = 4 then .ok (s1, 0xFFFF) else
          asA (s1.loadNat k.windowAgent k.hint (wrapVa ((t.meta1 : Int) + (2 * ((row * groups + g) * t.nb + n) : Nat))) 2)) with
      | .error e => .error e
      | .ok (s2, eb) =>
        if (List.range 4).any fun i => decide (popcNat 4 (eb / 2 ^ (4 * i) % 16) ≠ t.ne) then .error .bad
        else
          let at_ := fun (p : Nat) => (g * t.nb + n) * (4 * t.ne) + bitsBelow eb p
          thread (fun s p => (asA (s.readPacked k t ((t.base : Int) + row * t.rstr) (at_ p))).map fun r => (r.1, (16 * q16 + p, r.2)))
            s2 ((List.range 16).filter fun p => eb.testBit p)

/-- The stored blocks or entries from p on with columns from `from_` on and below `to_`, each read by `read` before the next
column is: columns must rise strictly and stay below `lim`. No entry after that of column `to_` − 1 can lie in the range, so the
scan does not reach it (R259, R427). -/
def State.scanCols {α : Type} (s : State) (k : Cmd) (from_ to_ lim : Nat) (read : State → Nat → Nat → Except MxErr (State × α))
    (prev : Option Nat) (p : Nat) : Nat → Except MxErr (State × List α)
  | 0 => .ok (s, [])
  | f + 1 => match asA (s.loadNat k.windowAgent k.hint (wrapVa ((k.tA.meta1 : Int) + (4 * p : Nat))) 4) with
    | .error e => .error e
    | .ok (s1, c) =>
      if decide (lim ≤ c) || (match prev with | some v => decide (c ≤ v) | none => false) then .error .bad
      else if to_ ≤ c then .ok (s1, [])
      else match (if from_ ≤ c then (read s1 p c).map fun r => (r.1, [r.2]) else .ok (s1, [])) with
        | .error e => .error e
        | .ok (s2, x) =>
          if c + 1 = to_ then .ok (s2, x)
          else match s2.scanCols k from_ to_ lim read (some c) (p + 1) f with
            | .error e => .error e
            | .ok (s3, r) => .ok (s3, x ++ r)

/-- The pointers of block row or row r. -/
def State.rowPtrs (s : State) (k : Cmd) (r : Nat) : Except MxErr (State × Nat × Nat) :=
  match asA (s.loadNat k.windowAgent k.hint (wrapVa ((k.tA.meta0 : Int) + (4 * r : Nat))) 4) with
  | .error e => .error e
  | .ok (s1, lo) => match asA (s1.loadNat k.windowAgent k.hint (wrapVa ((k.tA.meta0 : Int) + (4 * (r + 1) : Nat))) 4) with
    | .error e => .error e
    | .ok (s2, hi) => if hi < lo then .error .bad else .ok (s2, lo, hi)

/-- Kept positions and values of row i of the tile in the k-step that begins at kk, in increasing K, for every form but MM.BSR
(R256–R260). -/
def State.rowA (s : State) (k : Cmd) (kk i : Nat) : Except MxErr (State × List (Nat × XR)) :=
  let t := k.tA
  let row := k.i0 + i
  match k.opc.toNat with
  | 0x40 => thread (fun s d => (asA (s.readDense k t row (kk + d))).map fun r => (r.1, (kk + d, r.2))) s (List.range 64)
  | 0x41 => (thread (fun s q => s.spBlock k row (kk / 16 + q)) s (List.range 4)).map fun r => (r.1, r.2.flatten)
  | _ => match s.rowPtrs k row with
    | .error e => .error e
    | .ok (s1, lo, hi) =>
      s1.scanCols k kk (kk + 64) t.klen (fun s p c => (asA (s.readPacked k t t.base p)).map fun r => (r.1, (c, r.2))) none lo (hi - lo)

/-- The rows of stored block p at block column c (R259). -/
def State.blockRows (s : State) (k : Cmd) (p c : Nat) : Except MxErr (State × List (List (Nat × XR))) :=
  let t := k.tA
  thread (fun s r => thread (fun s d => (asA (s.readPacked k t t.base (p * t.bs * t.bs + r * t.bs + d))).map fun v =>
    (v.1, (c * t.bs + d, v.2))) s (List.range t.bs)) s (List.range t.bs)

/-- The rows of block row b of an MM.BSR, its blocks read one after another (R259, R427). -/
def State.blockRowA (s : State) (k : Cmd) (kk b : Nat) : Except MxErr (State × List (List (Nat × XR))) :=
  let t := k.tA
  match s.rowPtrs k b with
  | .error e => .error e
  | .ok (s1, lo, hi) =>
    (s1.scanCols k (kk / t.bs) (kk / t.bs + 64 / t.bs) (t.klen / t.bs) (fun s p c => s.blockRows k p c) none lo (hi - lo)).map fun r =>
      (r.1, (List.range t.bs).map fun i => r.2.flatMap fun x => x.getD i [])

/-- The rows of the tile in one k-step. -/
def State.rowsA (s : State) (k : Cmd) (kk : Nat) : Except MxErr (State × List (List (Nat × XR))) :=
  if k.opc = 0x42#8 then
    (thread (fun s b => s.blockRowA k kk (k.i0 / k.tA.bs + b)) s (List.range (k.tileM / k.tA.bs))).map fun r => (r.1, r.2.flatten)
  else thread (fun s i => s.rowA k kk i) s (List.range k.tileM)

/-- Element (j, kk) of B; for MM.CSR, B is K × N (R256, R260). -/
def State.elemB (s : State) (k : Cmd) (j kk : Nat) : Except MxErr (State × XR) :=
  if k.opc = 0x43#8 then asB (s.readDense k k.tB kk (k.j0 + j)) else asB (s.readDense k k.tB (k.j0 + j) kk)

/-! ## Sums (R86, R87, R90, R92) -/

/-- The exact sum of products over the extended reals; infinities of both signs are invalid (R86). -/
def sumX (ps : List XR) : XR × Flags :=
  let pos := ps.any fun p => decide (p = .inf false)
  let neg := ps.any fun p => decide (p = .inf true)
  let f := if pos && neg then Flags.inv else Flags.none
  if ps.any XR.isNaN || (pos && neg) then (.nan, f)
  else match ps with
    | [] => (.fin false 0 0, f)
    | p :: r => (r.foldl (fun a b => (XR.add a b .rne).1) p, f)

/-- One block of R86 added to an accumulator: kept A values and B values at the same K, and the factors. -/
def blockAdd (acc : BitVec 32) (ab : List (XR × XR)) (fa fb : Option XR) : BitVec 32 × Flags :=
  match ab, fa, fb with
  | [], _, _ => (acc, Flags.none)
  | _, some x, some y =>
    let ps := ab.map fun p => XR.mul p.1 p.2
    let f0 := ps.foldl (fun f p => f ||| p.2) Flags.none
    let (p, f1) := sumX (ps.map (·.1))
    let (g, f2) := XR.mul x y
    let (pf, f3) := XR.mul p g
    let (v, f4) := XR.add (FloatFmt.fp32.decode acc.toNat) pf .rne
    let (r, f5) := FloatFmt.fp32.round v .rne
    (BitVec.ofNat 32 r, f0 ||| f1 ||| f2 ||| f3 ||| f4 ||| f5)
  | _, _, _ => (BitVec.ofNat 32 FloatFmt.fp32.canonNaN, Flags.none)

/-- The A value with its factor is below the threshold (R92). -/
def belowT (t : XR) (v : XR) (f : Option XR) : Bool :=
  match f with
  | none => false
  | some g =>
    let w := (XR.mul v g).1
    !w.isNaN && decide (XR.cmp w.abs t = .lt)

/-- Exact integer sum of products. -/
def intSum (ab : List (XR × XR)) : Int :=
  ab.foldl (fun a p => a + (match (XR.mul p.1 p.2).1 with
    | .fin n m e => roundIntFin n m e .rz
    | _ => 0)) 0

/-! ## Bank state -/

/-- Write a bank word, with its parity (R407). -/
def Core.setAcc (c : Core) (b i j : Nat) (v : BitVec 32) : Core :=
  { c with mx := { c.mx with
      acc := SMap.set 0#32 c.mx.acc (accKey b i j) v
      bad := SMap.set false c.mx.bad (accKey b i j) false } }
def Core.workWord (c : Core) (b i j : Nat) : BitVec 48 := SMap.get 0#48 c.mx.work (accKey b i j)
def Core.setWork (c : Core) (b i j : Nat) (v : BitVec 48) : Core :=
  { c with mx := { c.mx with work := SMap.set 0#48 c.mx.work (accKey b i j) v } }
def Core.setRlx (c : Core) (b : Nat) (v : Bool) : Core :=
  { c with mx := if b = 0 then { c.mx with rlx0 := v } else { c.mx with rlx1 := v } }

/-- Every (row, column) of a region of m × n. -/
def region (m n : Nat) : List (Nat × Nat) := (List.range m).flatMap fun i => (List.range n).map fun j => (i, j)

/-- The progress word of a bank (R262): ENTRY, KDONE, RLX and VALID. -/
def State.bankWord (s : State) (n b : Nat) : Nat :=
  let r := ((s.core n).rlx b).toNat * 2
  match s.cmds.find? fun k => decide (k.owner = Owner.core n) && (k.onArray || k.onWriteOut) && decide (k.state ≠ .issued)
      && decide (k.bank = b) with
  | some k => (if k.arm.isSome then k.x1 / 16 % 65536 else 0) * 2 ^ 32 + (if k.onArray then k.done * 4 + 1 else 0) + r
  | none => r

/-- The progress word of the write-out path (R262). -/
def State.writeOutWord (s : State) (n : Nat) : Nat :=
  match s.cmds.find? fun k => decide (k.owner = Owner.core n) && k.onWriteOut && decide (k.state ≠ .issued) with
  | some k => k.bank * 2 ^ 17 + 2 ^ 16 + (if k.opc = 0x46#8 then (s.core n).outDone k else k.done) % 65536
  | none => 0

/-! ## Start (R264–R266) -/

/-- Started matrix commands of a core that are incomplete, apart from arms and the command itself. -/
def State.mxBusy (s : State) (n : Nat) (k : Cmd) : List Cmd :=
  s.cmds.filter fun j => decide (j.owner = Owner.core n) && (j.onArray || j.onWriteOut) && decide (j.state ≠ .issued)
    && decide (j.id ≠ k.id)

/-- The array operation X that Y = k overtakes (R266): x1 holds X's effective priority at its start in its low four bits,
x0 the operation it overtook, plus one. -/
def State.overtakes (s : State) (n : Nat) (k : Cmd) : Option Cmd :=
  match (s.mxBusy n k).filter (·.onArray) with
  | [x] => if x.bank ≠ k.bank ∧ x.x1 % 16 < s.effPrio k ∧ x.x0 = 0 then some x else none
  | _ => none

/-- The bank is free, and the array or the write-out path, or the array by overtaking (R265, R266). -/
def State.mxFree (s : State) (n : Nat) (k : Cmd) : Bool :=
  let busy := s.mxBusy n k
  busy.all (fun j => decide (j.bank ≠ k.bank))
    && (if k.onArray then !(busy.any (·.onArray)) || (s.overtakes n k).isSome else !(busy.any (·.onWriteOut)))

/-! ### Arms (R269) -/

/-- An arm's next entry as a command. -/
def armCmd (arm : Cmd) (id : Nat) (bs : List Byte) : Cmd :=
  let f := entryField bs
  { arm with
    id := id, opc := BitVec.ofNat 8 (f 0x2C 1), var := BitVec.ofNat 4 (f 0x2D 1), mode := 0
    a := BitVec.ofNat 64 (f 0 8), b := BitVec.ofNat 64 (f 8 8), c := BitVec.ofNat 64 (f 0x10 8), d := BitVec.ofNat 64 (f 0x18 8)
    e := BitVec.ofNat 64 (f 0x20 8), w3 := BitVec.ofNat 32 (f 0x28 4)
    waits := [], tag := none, accs := [], batch := none, state := .issued, done := 0, sub := 0, x0 := 0, x1 := 0
    list := [], arm := some arm.id, tlb := [], buf := [], covered := [], half := [], torn := [] }

/-- Must-be-zero fields of an entry, with those of its command's VAR and W3 (R267, R269–R271); its reserved bytes are
ignored (R2). -/
def entryZeroOk (bs : List Byte) : Bool :=
  let f := entryField bs
  let opc := f 0x2C 1
  let var := f 0x2D 1
  let w3 := f 0x28 4
  if isMm opc then decide (var = 0) && decide (w3 % 2 ^ 29 = 0)
  else if opc = 0x45 then decide (var ≤ 2) && decide (w3 % 2 ^ 29 = 0) && decide (w3 / 2 ^ 29 % 4 ≠ 3)
  else decide (var = 0) && decide (w3 % 2 ^ 27 = 0)

/-- OPC cells an entry may hold. -/
def entryOpcOk (opc : Nat) : Bool := isMm opc || decide (opc = 0x45 ∨ opc = 0x46)

/-- Read the arm's next entry. -/
def State.readArm (s : State) (arm : Cmd) : Except MemFault (State × List Byte) := s.armEntry arm arm.done

/-- The next entry of a started arm, when it can be read, acts and is well formed. -/
def State.armHead (s : State) (arm : Cmd) : Option Cmd :=
  if arm.opc = 0x44#8 ∧ s.runs arm ∧ arm.done < arm.b.toNat then
    match s.readArm arm with
    | .error _ => none
    | .ok (_, bs) =>
      if arm.mask.getLsbD (entryField bs 0x2E 1) && entryOpcOk (entryField bs 0x2C 1) && entryZeroOk bs then some (armCmd arm arm.id bs)
      else none
  else none

/-- An MM.OUT's own conditions: the binding of its port is in effect, the commands of the port issued before it have
started, and the FIFO has room (R264, R271). An arm's entry stands in its port's queue where its arm stands (log 74). A
port not bound FEED holds nothing up: the command then faults as it starts. -/
def State.outReady (s : State) (n : Nat) (k : Cmd) : Bool :=
  let x := (s.core n).port k.outPort
  decide (k.opc ≠ 0x46#8) || (!s.bindPending k k.outPort
    && s.cmds.all (fun j => !j.before k || j.letsPass || decide (k.outPort ∉ j.queues))
    && (decide (x.role ≠ 3) || (decide (x.fifo.length < 16) && decide (s.outPending n k.outPort = none))))

/-- Commands of core n's engine that could start now: heads of its queues and next entries of arms (R264). -/
def State.mxRivals (s : State) (n : Nat) : List Cmd :=
  ((s.cmds.filter fun j => decide (j.owner = Owner.core n) && (j.onArray || j.onWriteOut) && s.mayStart j)
    ++ (s.cmds.filterMap fun j => if j.owner = Owner.core n then s.armHead j else none)).filter fun j => s.mxFree n j && s.outReady n j

/-- Note the tick from which each tile command has waited with the conditions of R197 met (R264). -/
def State.noteReady (s : State) : State :=
  { s with cmds := s.cmds.map fun k =>
      if k.tWait = none ∧ 0x40 ≤ k.opc.toNat ∧ k.opc.toNat < 0x80 ∧ s.mayStart k ∧ s.outReady (k.core?.getD 0) k then
        { k with tWait := some s.gtc }
      else k }

/-- A command enters the engine, remembering what it overtook and its effective priority. -/
def State.mxBegin (s : State) (n : Nat) (k : Cmd) : State :=
  let past := match (if k.onArray then s.overtakes n k else none) with | some x => x.id + 1 | none => 0
  let p := s.effPrio k
  s.updCmd k.id fun j => { j with state := .started, x0 := if j.onArray then past else 0, x1 := j.x1 + p }

/-- Checks of an MM form's registers before its descriptors are read. -/
def mmRegErr (k : Cmd) : Option (Nat × Option Nat) :=
  if !addrOk k.a || !addrOk k.b then some (2, none)
  else if k.a.toNat % 64 ≠ 0 then some (3, some k.a.toNat)
  else if k.b.toNat % 64 ≠ 0 then some (3, some k.b.toNat)
  else if k.e.toNat / 2 ^ 48 ≠ 0 then some (2, none)
  else none

/-- Checks of an MM.ACC or MM.OUT (R270, R271, R386). -/
def regionErr (k : Cmd) : Option Nat :=
  let mf := k.w3.toNat / 2 ^ 29 % 4
  if k.opc = 0x45#8 ∧ k.var ≠ 2#4 ∧ mf ≠ 0 then some 1
  else if k.c.toNat / 2 ^ 32 ≠ 0 then some 2
  else if 256 < k.regRow + k.regM ∨ 192 < k.regCol + k.regN then some 2
  else if k.opc = 0x45#8 ∧ k.var ≠ 0#4 ∧ !addrOk k.a then some 2
  else none

/-- Set a tile up: ZERO and RLX (R268), the working registers (R90); with klen = 0 only ZERO acts (R272). -/
def Core.mxSetUp (c : Core) (k : Cmd) : Core :=
  let isInt := k.tA.isInt
  (region k.tileM k.tileN).foldl (fun c p =>
    if isInt then c.setWork k.bank p.1 p.2 (if k.zero then 0#48 else (c.accWord k.bank p.1 p.2).signExtend 48)
    else if k.zero then c.setAcc k.bank p.1 p.2 0#32 else c)
    (if isInt ∧ k.klen ≠ 0 then c.setRlx k.bank false else c)

/-- Some bank word of a tile has a wrong parity. -/
def Core.tileBad (c : Core) (k : Cmd) : Bool := (region k.tileM k.tileN).any fun p => c.accBad k.bank p.1 p.2

/-- A tile is set up once; an integer operation again as it restarts (R263). Without ZERO it reads the bank's words. -/
def State.mxSetUp (s : State) (n : Nat) (k : Cmd) : Except State State :=
  if k.sub ≠ 0 then .ok s
  else if k.tA.isInt && !k.zero && (s.core n).tileBad k then .error (s.badWord k (s.bankWord n k.bank))
  else .ok ((s.updCmd k.id fun j => { j with sub := 1 }).updCore n (·.mxSetUp k))

/-- Read both descriptors as the command starts, check them, and set the tile up. A fault of the checks leaves RESTART
zero (R377). -/
def State.mxPrepare (s : State) (n : Nat) (k : Cmd) : Except State State :=
  if k.list ≠ [] then s.mxSetUp n k
  else match s.load k.windowAgent k.hint k.a.toNat 64 with
    | .error f => .error (s.cmdMemFault k f (s.bankWord n k.bank))
    | .ok (s1, ba) => match s1.load k.windowAgent k.hint k.b.toNat 64 with
      | .error f => .error (s1.cmdMemFault k f (s.bankWord n k.bank))
      | .ok (s2, bb) =>
        let k1 := { k with list := [leNat ba, leNat bb] }
        match mmErr k1 with
        | some sub => .error (s2.cmdFault k sub none 0)
        | none => (s2.updCmd k.id fun j => { j with list := k1.list }).mxSetUp n k1

/-- An MM form, MM.ACC or MM.OUT that the engine has chosen starts, if its own checks pass (R265–R271). -/
def State.enterMx (s : State) (n : Nat) (k : Cmd) : State :=
  if k.onArray then
    match mmRegErr k with
    | some (sub, a) => s.cmdFault k sub a 0
    | none =>
      let s1 := s.mxBegin n k
      match s1.cmd? k.id with
      | none => s1
      | some k1 => if s1.accsDone k1 then (match s1.mxPrepare n k1 with
          | .error s2 => s2
          | .ok s2 => s2)
        else s1
  else match regionErr k with
    | some sub => s.cmdFault k sub none 0
    | none =>
      if k.opc = 0x46#8 then
        if ((s.core n).port k.outPort).role ≠ 3 then s.cmdFault k 4 none 0 else (s.mxBegin n k).portDone n k.outPort
      else s.mxBegin n k

/-- An MM form, MM.ACC or MM.OUT starts when the engine chooses it (R264). -/
def State.startMx (s : State) (n : Nat) (k : Cmd) : State :=
  if !s.mxFree n k || !s.outReady n k || !s.bestOf (s.mxRivals n) k then s else s.enterMx n k

/-- MM.ARM starts (R269, R386). -/
def State.startArm (s : State) (k : Cmd) : State :=
  if k.w3.toNat / 8 ≠ 0 then s.cmdFault k 1 none 0
  else if !addrOk k.a then s.cmdFault k 2 none 0
  else if k.a.toNat % 64 ≠ 0 then s.cmdFault k 3 (some k.a.toNat) 0
  else if k.b.toNat = 0 ∨ 65535 < k.b.toNat then s.cmdFault k 2 none 0
  else s.updCmd k.id fun j => { j with state := .started, tWait := some s.gtc }

/-- The arm's index moves past an entry; the list's page is translated afresh for the next one (R141, R261). -/
def State.armNext (s : State) (arm : Cmd) : State :=
  s.updCmd arm.id fun j => { j with done := j.done + 1, tWait := some s.gtc, tlb := [] }

/-- The progress word with an arm's entry index. -/
def armWord (arm : Cmd) : Nat := arm.done * 2 ^ 32

/-- ARM_ENTRY_START: a started arm's next entry is read and starts, or completes at once where its mask bit is false
(R269). Low four bits of an entry's x1 are its priority, the rest its index. -/
def State.armStep (s : State) (n : Nat) (arm : Cmd) : State :=
  if arm.opc ≠ 0x44#8 ∨ !s.runs arm ∨ arm.b.toNat ≤ arm.done then s
  else match s.readArm arm with
    | .error f => s.cmdMemFault arm f (armWord arm)
    | .ok (s1, bs) =>
      if !arm.mask.getLsbD (entryField bs 0x2E 1) then s1.armNext arm
      else if !entryOpcOk (entryField bs 0x2C 1) then s1.cmdFault arm 0x10 none (armWord arm)
      else if !entryZeroOk bs then s1.cmdFault arm 1 none (armWord arm)
      else
        let e := { armCmd arm s1.nextCmd bs with x1 := arm.done * 16 }
        -- the entry ranks where its arm stands in the order of issue
        let e0 := { e with id := arm.id }
        if !s1.mxFree n e || !s1.outReady n e0 || !s1.bestOf (s1.mxRivals n) e0 then s
        else State.enterMx { s1.armNext arm with cmds := (s1.armNext arm).cmds ++ [e], nextCmd := s1.nextCmd + 1 } n e

/-- ARM_ENTRY_START. -/
def execArmEntryStart (cmd : Nat) (s : State) : Host.Outcome State Fault Refusal :=
  .next (match s.cmd? cmd with
    | none => s
    | some k => match k.owner with
      | .core n => s.armStep n k
      | .node _ _ => s)

/-! ## k-steps (R254, R263, R268) -/

/-- Kept positions of A in a k-step, row by row, and the B values at every K index some row keeps. -/
def State.kstepRead (s : State) (k : Cmd) (kk : Nat) :
    Except MxErr (State × List (List (Nat × XR)) × List (Nat × List XR)) :=
  match s.rowsA k kk with
  | .error e => .error e
  | .ok (s1, rows) =>
    let used := (List.range 64).map (kk + ·) |>.filter fun q => rows.any fun r => r.any fun p => decide (p.1 = q)
    match thread (fun s q => (thread (fun s j => s.elemB k j q) s (List.range k.tileN)).map fun r => (r.1, (q, r.2))) s1 used with
    | .error e => .error e
    | .ok (s2, bs) => .ok (s2, rows, bs)

/-- Factors of rows 0 to m − 1 of an operand at a K index. -/
def State.factors (s : State) (k : Cmd) (t : Tensor) (row0 m kk : Nat) : Except MemFault (State × List (Option XR)) :=
  thread (fun s i => s.readFactor k t (row0 + i) kk) s (List.range m)

/-- Values of a row of A and column j of B at K indices q with lo ≤ q < lo + len. -/
def pairsAt (row : List (Nat × XR)) (bs : List (Nat × List XR)) (j lo len : Nat) : List (XR × XR) :=
  (row.filter fun p => decide (lo ≤ p.1 ∧ p.1 < lo + len)).map fun p =>
    (p.2, (((bs.find? fun b => decide (b.1 = p.1)).map (·.2)).getD []).getD j .nan)

/-- Summation block length of a floating form (R86). -/
def sumBlock (k : Cmd) : Nat := if k.tA.sch = 1 ∨ k.tB.sch = 1 then 32 else 64

/-- The factors of each block of a k-step, for the rows of A and of B. -/
def State.kstepFactors (s : State) (k : Cmd) (kk : Nat) :
    Except MxErr (State × List (Nat × List (Option XR) × List (Option XR))) :=
  thread (fun s b =>
    let lo := kk + b * sumBlock k
    match asA (s.factors k k.tA k.i0 k.tileM lo) with
    | .error e => .error e
    | .ok (s1, fa) => match (if k.opc = 0x43#8 then .ok (s1, (List.range k.tileN).map fun _ => some (.fin false 1 0))
        else asB (s1.factors k k.tB k.j0 k.tileN lo)) with
      | .error e => .error e
      | .ok (s2, fb) => .ok (s2, (lo, fa, fb))) s (List.range (64 / sumBlock k))

/-- One element of a floating tile over the blocks of a k-step. -/
def floatElem (k : Cmd) (row : List (Nat × XR)) (bs : List (Nat × List XR))
    (fs : List (Nat × List (Option XR) × List (Option XR))) (i j : Nat) (acc : BitVec 32) : BitVec 32 × Flags :=
  fs.foldl (fun st b =>
    let fa := b.2.1.getD i none
    let kept := row.filter fun p => !belowT k.threshold p.2 fa
    let (r, f) := blockAdd st.1 (pairsAt kept bs j b.1 (sumBlock k)) fa (b.2.2.getD j none)
    (r, st.2 ||| f)) (acc, Flags.none)

/-- The products of a k-step added to the bank or its working registers. -/
def kstepAdd (k : Cmd) (kk : Nat) (rows : List (List (Nat × XR))) (bs : List (Nat × List XR))
    (fs : List (Nat × List (Option XR) × List (Option XR))) (c : Core) : Core × Flags :=
  (region k.tileM k.tileN).foldl (fun st p =>
    let row := rows.getD p.1 []
    if k.tA.isInt then
      (st.1.setWork k.bank p.1 p.2 (st.1.workWord k.bank p.1 p.2 + BitVec.ofInt 48 (intSum (pairsAt row bs p.2 kk 64))), st.2)
    else
      let (v, f) := floatElem k row bs fs p.1 p.2 (st.1.accWord k.bank p.1 p.2)
      (st.1.setAcc k.bank p.1 p.2 v, st.2 ||| f)) (c, Flags.none)

/-- A k-step that cannot be read, unless it only waits: an integer operation restarts from its first (R263, R386). -/
def State.kstepErr (s : State) (n : Nat) (k : Cmd) (e : MxErr) : State :=
  let s1 := if k.tA.isInt then s.updCmd k.id fun j => { j with done := 0, sub := 0 } else s
  let word := s1.bankWord n k.bank
  match e with
  | .memA f => if f.waits then s else s1.cmdFaultAs k 2 k.loc f.cls f.sub (if f.fatal then .fatal else .paused) (some f.addr) word
  | .memB f => if f.waits then s else s1.cmdFaultAs k 3 k.loc f.cls f.sub (if f.fatal then .fatal else .paused) (some f.addr) word
  | .bad => s1.cmdFaultAs k 2 k.loc 8 7 .fatal none word

/-- An operation that some other has overtaken stays paused (R266). -/
def State.overtaken (s : State) (k : Cmd) : Bool := s.cmds.any fun j => j.onArray && decide (j.owner = k.owner) && decide (j.x0 = k.id + 1)

/-- One k-step of a started MM form. -/
def State.kstep (s : State) (n : Nat) (k0 : Cmd) : State :=
  if !k0.onArray ∨ !s.runs k0 ∨ s.overtaken k0 then s
  else match s.mxPrepare n k0 with
    | .error s1 => s1
    | .ok s1 => match s1.cmd? k0.id with
      | none => s1
      | some k =>
        if k.ksteps ≤ k.done then s1
        else
          let kk := k.k0 + 64 * k.done
          match s1.kstepRead k kk with
          | .error e => s1.kstepErr n k e
          | .ok (s2, rows, bs) => match s2.kstepFactors k kk with
            | .error e => s2.kstepErr n k e
            | .ok (s3, fs) => if !k.tA.isInt && (s3.core n).tileBad k then s3.badWord k (s3.bankWord n k.bank) else
              let (c, f) := kstepAdd k kk rows bs fs (s3.core n)
              ((s3.setCore n c).raiseFor k f).updCmd k.id fun j => { j with done := j.done + 1 }

/-- KSTEP_COMPLETE: a k-step's products are in the bank and KDONE advances (R263). -/
def execKstepComplete (cmd : Nat) (s : State) : Host.Outcome State Fault Refusal :=
  .next (match s.cmd? cmd with
    | none => s
    | some k => match k.owner with
      | .core n => s.kstep n k
      | .node _ _ => s)

/-- Sat(value, −2^31, 2^31 − 1) of a working register, raising SAT when it clamps (R90). -/
def satWork (v : BitVec 48) : BitVec 32 × Flags :=
  let (lo, hi) := intRange 32 true
  (BitVec.ofInt 32 (satInt v.toInt lo hi), if lo ≤ v.toInt ∧ v.toInt ≤ hi then Flags.none else Flags.sat)

/-- An MM form whose k-steps are done completes (R268). -/
def State.goMm (s : State) (n : Nat) (k : Cmd) : State :=
  if k.list = [] ∨ k.sub = 0 then (match s.mxPrepare n k with
    | .error s1 => s1
    | .ok s1 => s1)
  else if k.done < k.ksteps then s
  else if k.tA.isInt then
    let (c, f) := (region k.tileM k.tileN).foldl (fun st p =>
      let (v, f) := satWork (st.1.workWord k.bank p.1 p.2)
      ((st.1.setAcc k.bank p.1 p.2 v).setWork k.bank p.1 p.2 0#48, st.2 ||| f)) (s.core n, Flags.none)
    ((s.setCore n c).raiseFor k f).finishCmd k.id
  else (if k.rlx ∧ k.klen ≠ 0 then s.updCore n fun c => c.setRlx k.bank true else s).finishCmd k.id

/-! ## MM.ACC (R93, R270) -/

/-- Address of element j of row i of an MM.ACC, and its size in memory. -/
def Cmd.accSize (k : Cmd) : Nat := if k.w3.toNat / 2 ^ 29 % 4 = 0 then 4 else 2
def Cmd.accVa (k : Cmd) (i j : Nat) : Nat := wrapVa ((k.a.toNat : Int) + i * sx k.b.toNat 64 + (k.accSize * j : Nat))

/-- The bytes in memory of row i of an MM.ACC include the one at an address. -/
def Cmd.accRowHas (k : Cmd) (i va : Nat) : Bool :=
  decide (k.accVa i 0 ≤ va) && decide (va < k.accVa i 0 + k.accSize * k.regN)

/-- The stored bytes of element x, with the flags of its conversion. Unspecified bits are of the run of free values that the
command took at its first element. -/
def Core.accOut (c : Core) (k : Cmd) (x : Nat) : List Byte × Flags :=
  let row := k.regRow + x / k.regN
  let col := k.regCol + x % k.regN
  let mf := k.w3.toNat / 2 ^ 29 % 4
  if mf = 0 then (leBytes 4 (c.outWord k.bank row col (k.list.headD 0 + x)).toNat, Flags.none)
  else
    let r := (if mf = 1 then FloatFmt.bf16 else FloatFmt.fp16).round (FloatFmt.fp32.decode (c.accWord k.bank row col).toNat) .rne
    (leBytes 2 r.1, r.2)

/-- Words of memory that element x has a byte in. -/
def Cmd.accWords (k : Cmd) (x : Nat) : List Nat :=
  let va := k.accVa (x / k.regN) (x % k.regN)
  [va / 8, (va + k.accSize - 1) / 8].dedup

/-- All that an MM.ACC stores in word w: of two elements at one byte the later. -/
def Core.accBytes (c : Core) (k : Cmd) (w : Nat) : SMap Byte :=
  ((List.range (k.regM * k.regN)).filter fun x => decide (w ∈ k.accWords x)).foldl (fun m x =>
    let va := k.accVa (x / k.regN) (x % k.regN)
    let bs := (c.accOut k x).1
    ((List.range bs.length).zip bs).foldl (fun m p => if (va + p.1) / 8 = w then SMap.put m (va + p.1) p.2 else m) m) []

/-- Storing element x reads a bank word whose parity is wrong: its own, or another's that lies in the same word of memory. -/
def Core.accReadBad (c : Core) (k : Cmd) (x : Nat) : Bool := (List.range (k.regM * k.regN)).any fun y =>
  c.accBad k.bank (k.regRow + y / k.regN) (k.regCol + y % k.regN) && (k.accWords y).any fun w => decide (w ∈ k.accWords x)

/-- Store element x: each word it is the first to have a byte in is written whole, with the bytes of every element there, so
that no word mixes the bytes of two commands and DONE counts elements stored (R139, R262). -/
def State.accStore (s : State) (n : Nat) (k : Cmd) (x : Nat) : Except MemFault State :=
  let g := k.windowAgent
  match translateRange (s.pagesFor g) (k.accVa (x / k.regN) (x % k.regN)) Need.write k.accSize with
  | .error f => .error f
  | .ok _ =>
    let whole := fun v => (List.range 128).all fun b => (List.range k.regM).any fun r => k.accRowHas r (v / 128 * 128 + b)
    let first := (k.accWords x).filter fun w => (List.range x).all fun y => decide (w ∉ k.accWords y)
    first.foldl (fun (r : Except MemFault State) w => match r with
      | .error f => .error f
      | .ok s => ((s.keepPages g (8 * w) 8).tear (some k.id) g (8 * w) 8).putBytes g k.id k.hint whole ((s.core n).accBytes k w)) (.ok s)

/-- Element x is done. -/
def State.accNext (s : State) (k : Cmd) : State := s.updCmd k.id fun j => { j with done := j.done + 1, buf := [] }

/-- LOAD of element x: a read for each word it lies in (R123). -/
def State.accLoad (s : State) (n : Nat) (k : Cmd) (x : Nat) : Except MemFault State :=
  let va := k.accVa (x / k.regN) (x % k.regN) + k.buf.length
  let len := Nat.min (8 - va % 8) (4 - k.buf.length)
  match s.load k.windowAgent k.hint va len with
  | .error f => .error f
  | .ok (s1, bs) =>
    let all := k.stage va bs
    if all.length < 4 then .ok (s1.updCmd k.id fun j => { j with buf := all })
    else .ok ((s1.updCore n fun c => c.setAcc k.bank (k.regRow + x / k.regN) (k.regCol + x % k.regN)
      (BitVec.ofNat 32 (leNat (all.map (·.2))))).accNext k)

/-- The next element of an MM.ACC, or the next part of it. -/
def State.accElem (s : State) (n : Nat) (k : Cmd) : Except MemFault State :=
  let x := k.done
  match k.var.toNat with
  | 0 => .ok ((s.updCore n fun c => c.setAcc k.bank (k.regRow + x / k.regN) (k.regCol + x % k.regN) 0#32).accNext k)
  | 1 => s.accLoad n k x
  | _ => (s.accStore n k x).map fun s1 => (s1.raiseFor k ((s.core n).accOut k x).2).accNext k

/-- A store form takes its run of free values as it begins (R93; log 5). -/
def State.accBegin (s : State) (k : Cmd) : State :=
  if k.var ≠ 2#4 ∨ k.list ≠ [] then s
  else { s.updCmd k.id fun j => { j with list := [s.free] } with free := s.free + k.regM * k.regN }

/-- Up to `f` elements of an MM.ACC, and its completion. -/
def State.accRun (n id : Nat) : Nat → State → State
  | 0, s => s
  | f + 1, s =>
    match ((s.cmd? id).map s.accBegin).bind fun s1 => (s1.cmd? id).map fun k => (s1, k) with
    | none => s
    | some (s, k) =>
      if !s.runs k then s
      else if k.regM * k.regN ≤ k.done then
        (if k.var = 2#4 then s else s.updCore n fun c => c.setRlx k.bank false).finishCmd id
      else if k.var = 2#4 && (s.core n).accReadBad k k.done then
        s.badWord k (s.writeOutWord n)
      else match s.accElem n k with
        | .error e => if e.waits then s else
            s.cmdFaultAs k 4 k.loc e.cls e.sub (if e.fatal then .fatal else .paused) (some e.addr) (s.writeOutWord n)
        | .ok s1 => State.accRun n id f s1

/-- The rest of an MM.ACC. -/
def State.accGo (s : State) (n : Nat) (k : Cmd) : State := State.accRun n k.id (2 * (k.regM * k.regN - k.done) + 2) s

/-- An MM.ARM whose last entry has completed completes (R269). -/
def State.goArm (s : State) (k : Cmd) : State :=
  if k.b.toNat ≤ k.done ∧ s.cmds.all fun j => decide (j.arm ≠ some k.id) then s.finishCmd k.id else s

/-! ## Issue -/

def execMm (w : CmdWords) (s : State) := issueCmd 0x40 w s
def execMmSp (w : CmdWords) (s : State) := issueCmd 0x41 w s
def execMmBsr (w : CmdWords) (s : State) := issueCmd 0x42 w s
def execMmCsr (w : CmdWords) (s : State) := issueCmd 0x43 w s
def execMmArm (w : CmdWords) (s : State) := issueCmd 0x44 w s
/-- The VAR that names an MM.ACC form (R270). -/
def withVar (v : BitVec 4) (w : CmdWords) : CmdWords := { w with var := v }
def execMmAccZero (w : CmdWords) (s : State) := issueCmd 0x45 (withVar 0#4 w) s
def execMmAccLoad (w : CmdWords) (s : State) := issueCmd 0x45 (withVar 1#4 w) s
def execMmAccStore (w : CmdWords) (s : State) := issueCmd 0x45 (withVar 2#4 w) s
def execMmOut (w : CmdWords) (s : State) := issueCmd 0x46 w s

end Sys2Proof.Machine
end

