-- ==== Sys2Proof/Machine/Index.lean ====
section
/-! DEFINITION. The index engine (12_index_engine.md, R274–R286; R387): GATHER, SCATTER, INTERSECT and IX.COUNT. -/

namespace Sys2Proof.Machine

/-! ## Fields -/

/-- ISZ in bytes. -/
def Cmd.isz (k : Cmd) : Nat := 2 * 2 ^ (k.w3.toNat / 2 ^ 30)
/-- n, R and the table bound of a GATHER or SCATTER (R278). -/
def Cmd.reqs (k : Cmd) : Nat := k.d.toNat % 2 ^ 32
def Cmd.rowBytes (k : Cmd) : Nat := k.c.toNat % 2 ^ 32
def Cmd.bound (k : Cmd) : Nat := k.c.toNat / 2 ^ 32
/-- Window or vector size, SRC and PORT. -/
def Cmd.winSize (k : Cmd) : Nat := k.w3.toNat / 2 ^ 13 % 4096 + 1
def Cmd.fromPort (k : Cmd) : Bool := k.w3.getLsbD 29
def Cmd.srcPort (k : Cmd) : Nat := k.w3.toNat / 2 ^ 25 % 16
/-- OP, FMT, ACC and PF of a SCATTER (R279). -/
def Cmd.scOp (k : Cmd) : Nat := k.w3.toNat / 2 ^ 10 % 8
def Cmd.scFmt (k : Cmd) : Nat := k.w3.toNat / 2 ^ 6 % 16
def Cmd.scAcc (k : Cmd) : Bool := k.w3.getLsbD 5
def Cmd.scFill (k : Cmd) : Bool := k.w3.getLsbD 4
/-- Bins of an IX.COUNT (R283). -/
def Cmd.bins (k : Cmd) : Nat := k.w3.toNat / 2 ^ 18 % 4096 + 1
/-- GATHER or SCATTER. -/
def Cmd.grouped (k : Cmd) : Bool := decide (k.opc = 0x50#8) || decide (k.opc = 0x51#8)
def Cmd.onIndex (k : Cmd) : Bool := decide (0x50 ≤ k.opc.toNat ∧ k.opc.toNat ≤ 0x53)

/-- Element size of a SCATTER format, 0 outside R279. -/
def scSize (fmt : Nat) : Nat := if fmt = 0 ∨ fmt = 1 ∨ fmt = 7 then 4 else if fmt = 8 ∨ fmt = 9 then 2 else 0

/-- The progress word of R284. -/
def Cmd.ixWord (k : Cmd) : Nat := k.done * 2 ^ 32 + (if k.state = .issued then 0 else 2 ^ 13) + k.sub

/-! ## Start (R286, R387, R405) -/

/-- A range of addresses meets a window of the issuing core (R277). -/
def State.meetsWindow (s : State) (k : Cmd) (va len : Nat) : Bool :=
  match k.core? with
  | none => false
  | some n => ((s.core n).windowCores n).any fun m => (s.core m).banks.any fun e => rangesMeet va len e.2.base e.2.len

/-- The first of a list of (address, alignment) that is misaligned. -/
def misaligned (l : List (Nat × Nat)) : Option Nat := (l.find? fun p => decide (p.1 % p.2 ≠ 0)).map (·.1)

/-- Addresses with the alignment the form states for them. -/
def Cmd.ixAligned (k : Cmd) : List (Nat × Nat) :=
  match k.opc.toNat with
  | 0x50 => [(k.e.toNat, 4)]
  | 0x51 => [(k.e.toNat, if k.scFill then 8 else scSize k.scFmt)]
  | 0x52 => [(k.c.toNat, 16), (k.e.toNat, 8)]
  | _ => [(k.a.toNat, k.isz), (k.b.toNat, 4), (k.c.toNat, 4), (k.e.toNat, 4)]

/-- Ranges that may not meet a window of the issuing core. -/
def Cmd.ixRanges (k : Cmd) : List (Nat × Nat) :=
  let list := if k.fromPort then [] else [(k.a.toNat, k.reqs * k.isz)]
  -- rows of a table without a bound are told by the list (`State.openGroup`)
  let table := (k.e.toNat, k.bound * k.rowBytes)
  match k.opc.toNat with
  | 0x50 => table :: list
  | 0x51 => table :: (k.b.toNat, k.reqs * k.rowBytes) :: list
  | 0x52 => [(k.a.toNat, k.reqs * k.isz), (k.b.toNat, k.d.toNat / 2 ^ 32 * k.isz),
      (k.c.toNat, 16 * Nat.min k.reqs (k.d.toNat / 2 ^ 32)), (k.e.toNat, 8)]
  | _ => [(k.a.toNat, k.d.toNat * k.isz), (k.b.toNat, 4 * k.bins), (k.c.toNat, 4 * (k.bins + 1)),
      (k.e.toNat, if k.e = 0#64 then 0 else 4 * k.d.toNat)]

/-- Address operands of the form. -/
def Cmd.ixAddrs (k : Cmd) : List Word :=
  if k.grouped then (if k.fromPort then [k.b, k.e] else [k.a, k.b, k.e]) else [k.a, k.b, k.c, k.e]

/-- R of a GATHER or SCATTER is in range (R278, R279, R281). -/
def Cmd.rowOk (k : Cmd) : Bool :=
  let r := k.rowBytes
  let es := if k.opc = 0x50#8 then 4 else scSize k.scFmt
  decide (es ≠ 0) && decide (r % es = 0) && decide (es ≤ r) && decide (r ≤ 65536)
    && (decide (k.opc = 0x50#8) || !k.scFill || decide (r % 8 = 0))

/-- The first check an index command fails: class, subcode, address. -/
def State.ixErr (s : State) (k : Cmd) : Option (Nat × Nat × Option Nat) :=
  if 3 = k.w3.toNat / 2 ^ 30 ∨ (k.opc = 0x51#8 ∧ 4 < k.scOp) then some (9, 1, none)
  else if k.grouped ∧ (k.d.toNat / 2 ^ 32 ≠ 0 ∨ !k.rowOk) then some (9, 2, none)
  else if k.ixAddrs.any fun v => !addrOk v then some (9, 2, none)
  else if k.opc = 0x51#8 ∧ k.scAcc ∧ (3 ≤ k.scOp ∨ k.scFill) then some (9, 5, none)
  else if k.grouped ∧ k.fromPort ∧ k.isz ≠ 4 then some (9, 5, none)
  else if k.grouped && k.fromPort && !(match k.core? with
      | none => false
      | some n => decide (((s.core n).port k.srcPort).role = 4)) then some (9, 4, none)
  else match misaligned k.ixAligned with
    | some a => some (9, 3, some a)
    | none => ((k.ixRanges).find? fun p => s.meetsWindow k p.1 p.2).map fun p => (7, 5, some p.1)

/-- An index command starts; a GATHER or SCATTER of no request completes (R285). -/
def State.startIx (s : State) (k : Cmd) : State :=
  if k.grouped && k.fromPort && s.bindPending k k.srcPort then s
  else match s.ixErr k with
    | some (cls, sub, a) => s.cmdFaultAs k k.kind k.loc cls sub .fatal a 0
    | none => if k.grouped ∧ k.reqs = 0 then (s.started k).finishCmd k.id else s.started k

/-! ## Groups (R274, R275) -/

/-- H(x). -/
def ixHash (x : Nat) : Nat :=
  (x % 4096) ^^^ (x / 2 ^ 12 % 4096) ^^^ (x / 2 ^ 24 % 4096) ^^^ (x / 2 ^ 36 % 4096) ^^^ (x / 2 ^ 48 % 4096) ^^^ (x / 2 ^ 60 % 16)

/-- The distinct members of a list, in order of first appearance. -/
def firsts (xs : List Nat) : List Nat := xs.foldl (fun acc x => if x ∈ acc then acc else acc ++ [x]) []

/-- One more index fits a group that already names `seen`. -/
def ixFits (r : Nat) (seen : List Nat) (x : Nat) : Bool :=
  decide (x ∈ seen) || (decide ((seen.filter fun y => decide (ixHash y = ixHash x)).length < 16)
    && decide ((seen.length + 1) * r ≤ 2 ^ 22))

/-- How many leading requests fit one group. -/
def fitLen (r : Nat) : List Nat → List Nat → Nat
  | _, [] => 0
  | seen, x :: xs => if ixFits r seen x then fitLen r (if x ∈ seen then seen else seen ++ [x]) xs + 1 else 0

/-- Requests of the next group at most. -/
def Cmd.want (k : Cmd) : Nat := Nat.min k.winSize (k.reqs - k.done)

/-- The data tokens of a FIFO as indices. -/
def dataOf (ts : List Token) : List Nat := (ts.filter (·.isData)).map (·.data.toNat)

/-- A FIFO without its first m data tokens, and without the control tokens before them. -/
def dropIndices : Nat → List Token → List Token
  | 0, ts => ts
  | _ + 1, [] => []
  | m + 1, t :: ts => if t.isData then dropIndices m ts else dropIndices (m + 1) ts

/-- Indices at hand for the command's next group from its port: those taken, then those in the FIFO. -/
def State.portIndices (s : State) (k : Cmd) : List Nat :=
  match k.core? with
  | none => k.list
  | some n => (k.list ++ dataOf ((s.core n).port k.srcPort).fifo).take k.want

/-- A port list has its group at hand: all of it, or more than fits. -/
def State.portReady (s : State) (k : Cmd) : Bool :=
  let xs := s.portIndices k
  decide (k.want ≤ xs.length) || decide (fitLen k.rowBytes [] xs < xs.length)

/-- The command may take the engine's next group; x1 is 1 while a group of it is in work, and 2 after a pre-emption in the
middle of one. -/
def State.ixMay (s : State) (k : Cmd) : Bool :=
  k.onIndex && s.runs k
    && (!k.grouped || (decide (k.done < k.reqs)
      && (decide (k.x1 ≠ 0) || !k.fromPort || (s.portReady k && !s.takersBefore k k.srcPort))))

/-- The command has the engine: a group of it is in work, or it is paused on a recoverable fault (R275, R368). -/
def Cmd.ixHolds (k : Cmd) : Bool :=
  k.onIndex && (decide (k.state = .paused) || (decide (k.state = .started) && decide (k.x1 = 1)))

/-- It is the command's turn: no other command has the engine of the die, and none goes before it (R275). -/
def State.ixTurn (s : State) (k : Cmd) : Bool :=
  let others := s.cmds.filter fun j => decide (j.die = k.die) && decide (j.id ≠ k.id)
  s.ixMay k && others.all (fun j => !j.ixHolds) && (decide (k.x1 = 1) || s.bestOf (others.filter s.ixMay) k)

/-- Read a run of entries of isz bytes (R276). -/
def State.readList (s : State) (k : Cmd) (va n : Nat) : Except MemFault (State × List Nat) :=
  thread (fun s i => s.loadNat k.homeAgent k.hint (wrapVa ((va : Int) + (i * k.isz : Nat))) k.isz) s (List.range n)

/-- A fault of class 0x09 met while the command runs (R387): RESTART holds the progress word and the offending index. -/
def State.ixFault (s : State) (k : Cmd) (sub bad : Nat) : State := s.cmdFault k sub none (k.ixWord + bad % 2 ^ 64 * 2 ^ 64)

/-- Take m data tokens from the command's port; while the group needs more, every control token is among them (R276). -/
def State.takeIndices (s : State) (k : Cmd) (m : Nat) (more : Bool) : State :=
  match k.core? with
  | none => s
  | some n =>
    let x := (s.core n).port k.srcPort
    let left := dropIndices m x.fifo
    s.setCore n ((s.core n).setPort k.srcPort { x with fifo := if more then left.filter (·.isData) else left })

/-- Indices taken from a port for a group that has not opened stand in the FIFO again as the command is pre-empted: it
resumes at request REQ, and no token beyond that is taken (R284). -/
def State.returnIndices (s : State) (k : Cmd) : State :=
  match k.core? with
  | none => s
  | some n =>
    if !k.grouped || !k.fromPort || decide (k.x1 ≠ 0) then s
    else
      let x := (s.core n).port k.srcPort
      (s.setCore n ((s.core n).setPort k.srcPort { x with
        fifo := (k.list.map fun v => Token.ofData (BitVec.ofNat 32 v)) ++ x.fifo })).updCmd k.id fun j => { j with list := [] }

def Cmd.rowVa (k : Cmd) (x : Nat) : Nat := wrapVa ((k.e.toNat : Int) + (x * k.rowBytes : Nat))

/-- The group is fixed: its indices are checked against the bound before its first write, and with no bound the rows they name
against the windows (R277, R387, R405). -/
def State.openGroup (s : State) (k : Cmd) (xs : List Nat) : State :=
  let m := fitLen k.rowBytes [] xs
  if k.opc = 0x51#8 ∧ !k.scAcc ∧ m < xs.length then s.ixFault k 0x10 (xs.getD m 0)
  else
    let g := xs.take m
    match (if k.bound = 0 then none else g.find? fun x => decide (k.bound ≤ x)) with
    | some x => s.ixFault k 0x11 x
    | none => match (if k.bound = 0 then g.find? fun x => s.meetsWindow k (k.rowVa x) k.rowBytes else none) with
    | some x => s.cmdFaultAs k k.kind k.loc 7 5 .fatal (some (k.rowVa x)) k.ixWord
    | none => s.updCmd k.id fun j => { j with list := g, x1 := 1, sub := 0 }

/-- Begin the next group: read its requests, or take its tokens as they come. -/
def State.beginGroup (s : State) (k : Cmd) : State :=
  if k.fromPort then
    let xs := s.portIndices k
    if s.takersBefore k k.srcPort then s
    else if s.portReady k then
      (s.takeIndices k (fitLen k.rowBytes [] xs - k.list.length) false).openGroup k xs
    else (s.takeIndices k (xs.length - k.list.length) true).updCmd k.id fun j => { j with list := xs }
  else match s.readList k (wrapVa ((k.a.toNat : Int) + (k.done * k.isz : Nat))) k.want with
    | .error f => s.cmdMemFault k f k.ixWord
    | .ok (s1, xs) => s1.openGroup k xs

/-- Requests of the group that name row x. -/
def Cmd.namers (k : Cmd) (x : Nat) : List Nat := (List.range k.list.length).filter fun j => decide (k.list.getD j 0 = x)

/-- Address of the row of request j of the group at b. -/
def Cmd.reqVa (k : Cmd) (j : Nat) : Nat := wrapVa ((k.b.toNat : Int) + ((k.done + j) * k.rowBytes : Nat))

/-! ## GATHER (R278) -/

/-- Translate every destination row of the listed requests. -/
def State.destsOk (s : State) (k : Cmd) : List Nat → Except MemFault State
  | [] => .ok s
  | j :: js => match translateRange (s.pagesFor k.windowAgent) (k.reqVa j) Need.write k.rowBytes with
    | .error f => .error f
    | .ok _ => (s.keepPages k.windowAgent (k.reqVa j) k.rowBytes).destsOk k js

/-- Row x, read once, and the rows it goes to translated. -/
def State.gatherRow (s : State) (k : Cmd) (x : Nat) : Except MemFault (State × Nat × List Byte) :=
  match s.load k.homeAgent k.hint (k.rowVa x) k.rowBytes with
  | .error f => .error f
  | .ok (s1, bs) => (s1.destsOk k (k.namers x)).map fun s2 => (s2, x, bs)

/-- Write the listed requests' rows. -/
def State.gatherWrite (s : State) (k : Cmd) (buf : List (Nat × List Byte)) : List Nat → Except MemFault State
  | [] => .ok s
  | j :: js => match s.store k.windowAgent k.hint (k.reqVa j) (((buf.find? fun p => decide (p.1 = k.list.getD j 0)).map (·.2)).getD []) with
    | .error f => .error f
    | .ok s1 => s1.gatherWrite k buf js

/-- The group is complete. -/
def State.closeGroup (s : State) (k : Cmd) : State :=
  s.updCmd k.id fun j => { j with done := j.done + j.list.length, list := [], x1 := 0, sub := 0 }

/-- A GATHER's group: every row is read before any is written (R278), so a fault finds none written (R284). -/
def State.gatherGroup (s : State) (k : Cmd) : State :=
  match thread (fun s x => s.gatherRow k x) s (firsts k.list) with
  | .error f => s.cmdMemFault k f k.ixWord
  | .ok (s1, buf) => match s1.gatherWrite k buf (List.range k.list.length) with
    | .error f => s1.cmdMemFault k f k.ixWord
    | .ok s2 => s2.closeGroup k

/-! ## SCATTER (R279–R281) -/

/-- Left and right operand combined by OP on a format (R279, R234). -/
def scCombine (op fmt a b : Nat) : Nat × Flags :=
  match op with
  | 3 => (a, Flags.none)
  | 4 => (b, Flags.none)
  | _ =>
    match FloatFmt.ofCode fmt with
    | some m =>
      let x := m.decode a
      let y := m.decode b
      let (v, f1) := if op = 0 then XR.add x y .rne else (if op = 1 then fminX x y else fmaxX x y, Flags.none)
      let (r, f2) := m.round v .rne
      (r, f1 ||| f2)
    | none =>
      let v := fun (x : Nat) => if fmt = 0 then sx x 32 else (x : Int)
      if op = 0 then ((a + b) % 2 ^ 32, Flags.none)
      else if op = 1 then (if v a ≤ v b then a else b, Flags.none)
      else (if v a ≤ v b then b else a, Flags.none)

/-- The elements of a row. -/
def rowElems (es : Nat) (n : Nat) (bs : List Byte) : List Nat := (List.range n).map fun i => leNat ((bs.drop (es * i)).take es)

/-- Two rows combined element by element. -/
def combineRows (op fmt : Nat) (u v : List Nat) : List Nat × Flags :=
  let r := (u.zip v).map fun p => scCombine op fmt p.1 p.2
  (r.map (·.1), r.foldl (fun f p => f ||| p.2) Flags.none)

/-- The combined value of row x over its requests in increasing order. -/
def State.scatterValue (s : State) (k : Cmd) (x : Nat) : Except MemFault (State × List Nat × Flags) :=
  let es := scSize k.scFmt
  match thread (fun s j => s.load k.homeAgent k.hint (k.reqVa j) k.rowBytes) s (k.namers x) with
  | .error f => .error f
  | .ok (s1, rows) =>
    match rows.map (rowElems es (k.rowBytes / es)) with
    | [] => .ok (s1, [], Flags.none)
    | u :: us =>
      let r := us.foldl (fun st v => let c := combineRows k.scOp k.scFmt st.1 v; (c.1, st.2 ||| c.2)) (u, Flags.none)
      .ok (s1, r.1, r.2)

/-- Combine into the table element by element, each indivisibly at its home slice (R279). -/
def State.accumulate (s : State) (k : Cmd) (va : Nat) : List Nat → Except MemFault (State × Flags)
  | [] => .ok (s, Flags.none)
  | u :: us =>
    let es := scSize k.scFmt
    match s.loadNat k.homeAgent k.hint va es with
    | .error f => .error f
    | .ok (s1, old) =>
      let (v, f) := scCombine k.scOp k.scFmt old u
      match s1.store k.homeAgent k.hint va (leBytes es v) with
      | .error e => .error e
      | .ok s2 => match s2.accumulate k (va + es) us with
        | .error e => .error e
        | .ok (s3, g) => .ok (s3, f ||| g)

/-- Write one row of a SCATTER; its pages are translated first. -/
def State.scatterRow (s : State) (k : Cmd) (x : Nat) : Except MemFault State :=
  let va := k.rowVa x
  let need := if k.scAcc then Need.rw else if k.scFill then Need.pwrite else Need.write
  match s.scatterValue k x with
  | .error f => .error f
  | .ok (s1, u, f) => match translateRange (s1.pagesFor k.homeAgent) va need k.rowBytes with
    | .error e => .error e
    | .ok _ =>
      let bytes := (u.map fun v => leBytes (scSize k.scFmt) v).flatten
      if k.scAcc then (s1.accumulate k va u).map fun r => r.1.raiseFor k (f ||| r.2)
      else if k.scFill then (s1.storeFill k.homeAgent (coversSector va bytes.length) va bytes).map fun s2 => s2.raiseFor k f
      else (s1.store k.homeAgent k.hint va bytes).map fun s2 => s2.raiseFor k f

/-- Rows of a SCATTER's group in first-appearance order from row `sub`; a fault stops at the row it meets (R284). -/
def State.scatterRows (s : State) (k : Cmd) : List Nat → State
  | [] => s.closeGroup k
  | x :: xs => match s.scatterRow k x with
    | .error f =>
      match s.cmd? k.id with
      | none => s
      | some j => s.cmdMemFault j f j.ixWord
    | .ok s1 => (s1.updCmd k.id fun j => { j with sub := j.sub + 1 }).scatterRows k xs

/-- The group in work. -/
def State.workGroup (s : State) (k : Cmd) : State :=
  if k.x1 = 0 ∨ k.state ≠ .started then s
  else if k.opc = 0x50#8 then s.gatherGroup k else s.scatterRows k ((firsts k.list).drop k.sub)

/-- INDEX_GROUP_COMPLETE: the engine takes a command's next group and finishes it (R275); a list that still comes from
its port only takes its tokens. -/
def State.indexGroup (s : State) (k : Cmd) : State :=
  if !k.grouped ∨ !s.runs k ∨ k.reqs ≤ k.done then s
  else if s.ixTurn k then
    let s1 := if k.x1 = 0 then s.beginGroup k else s.updCmd k.id fun j => { j with x1 := 1 }
    match s1.cmd? k.id with
    | none => s1
    | some k1 => s1.workGroup k1
  else if k.fromPort ∧ k.x1 = 0 ∧ !s.portReady k then s.beginGroup k
  else s

def execIndexGroupComplete (cmd : Nat) (s : State) : Host.Outcome State Fault Refusal :=
  .next (match s.cmd? cmd with
    | none => s
    | some k => s.indexGroup k)

/-! ## INTERSECT (R282) -/

/-- Entry i of a list. -/
def State.listEntry (s : State) (k : Cmd) (va : Word) (i : Nat) : Except MemFault (State × Nat) :=
  s.loadNat k.homeAgent k.hint (wrapVa ((va.toNat : Int) + (i * k.isz : Nat))) k.isz

/-- How a walk over two lists ends. -/
inductive Walk where
  | done (s : State) (m : Nat)
  | unsorted (s : State) (key : Nat)
  | mem (s : State) (f : MemFault)
deriving DecidableEq, Repr

/-- An entry at index i does not rise above the one before it. -/
def fallsBack (prev : Option Nat) (x : Nat) : Bool := match prev with | some p => decide (x ≤ p) | none => false

/-- The walk of R282 from (i, j) with m entries written; px and py are the entries before. -/
def State.walk (k : Cmd) : Nat → State → Nat → Nat → Nat → Option Nat → Option Nat → Walk
  | 0, s, _, _, m, _, _ => .done s m
  | f + 1, s, i, j, m, px, py =>
    if k.reqs ≤ i ∨ k.d.toNat / 2 ^ 32 ≤ j then .done s m
    else match s.listEntry k k.a i with
      | .error e => .mem s e
      | .ok (s1, x) => match s1.listEntry k k.b j with
        | .error e => .mem s e
        | .ok (s2, y) =>
          if fallsBack px x then .unsorted s2 x
          else if fallsBack py y then .unsorted s2 y
          else if x < y then State.walk k f s2 (i + 1) j m (some x) py
          else if y < x then State.walk k f s2 i (j + 1) m px (some y)
          else match s2.store k.homeAgent k.hint (wrapVa ((k.c.toNat : Int) + (16 * m : Nat))) (leBytes 8 x ++ leBytes 4 i ++ leBytes 4 j) with
            | .error e => .mem s2 e
            | .ok s3 => State.walk k f s3 (i + 1) (j + 1) (m + 1) (some x) (some y)

/-- INTERSECT runs and completes; it restarts from its beginning (R284). -/
def State.goIntersect (s : State) (k : Cmd) : State :=
  if !s.ixTurn k then s
  else match State.walk k (k.reqs + k.d.toNat / 2 ^ 32 + 1) s 0 0 0 none none with
    | .unsorted s1 key => s1.ixFault k 7 key
    | .mem s1 f => s1.cmdMemFault k f k.ixWord
    | .done s1 m =>
      match (if k.w3.getLsbD 29 then s1.storeFill k.homeAgent (fun _ => false) k.e.toNat (leBytes 8 m)
          else s1.store k.homeAgent k.hint k.e.toNat (leBytes 8 m)) with
      | .error f => s1.cmdMemFault k f k.ixWord
      | .ok s2 => s2.finishCmd k.id

/-! ## IX.COUNT (R283) -/

/-- Counts and ranks of the keys, the key out of bounds if any. -/
def countKeys (bins ones : Nat) : List Nat → SMap Nat → List Nat → Except Nat (SMap Nat × List Nat)
  | [], h, r => .ok (h, r.reverse)
  | k :: ks, h, r =>
    if k = ones then countKeys bins ones ks h (0xFFFFFFFF :: r)
    else if bins ≤ k then .error k
    else countKeys bins ones ks (SMap.put h k ((SMap.get 0 h k + 1) % 2 ^ 32)) (SMap.get 0 h k :: r)

/-- Running sums from a start. -/
def offsets : Nat → List Nat → List Nat
  | a, [] => [a % 2 ^ 32]
  | a, h :: hs => a % 2 ^ 32 :: offsets (a + h) hs

/-- Store UINT32 words. -/
def State.storeWords (s : State) (k : Cmd) (va : Word) (ws : List Nat) : Except MemFault State :=
  s.store k.homeAgent k.hint va.toNat (ws.map (leBytes 4)).flatten

/-- IX.COUNT runs and completes; it restarts from its beginning (R284). -/
def State.goCount (s : State) (k : Cmd) : State :=
  if !s.ixTurn k then s
  else match s.readList k k.a.toNat k.d.toNat with
    | .error f => s.cmdMemFault k f k.ixWord
    | .ok (s0, keys) =>
      match countKeys k.bins (2 ^ (8 * k.isz) - 1) keys [] [] with
      | .error bad => s0.ixFault k 0x12 bad
      | .ok (h, ranks) =>
        let hist := (List.range k.bins).map fun i => SMap.get 0 h i
        match s0.storeWords k k.b hist with
        | .error f => s0.cmdMemFault k f k.ixWord
        | .ok s1 => match s1.storeWords k k.c (offsets 0 hist) with
          | .error f => s1.cmdMemFault k f k.ixWord
          | .ok s2 => match (if k.e = 0#64 then .ok s2 else s2.storeWords k k.e ranks) with
            | .error f => s2.cmdMemFault k f k.ixWord
            | .ok s3 => s3.finishCmd k.id

/-- A GATHER or SCATTER whose last group is complete completes. -/
def State.goGrouped (s : State) (k : Cmd) : State := if k.reqs ≤ k.done then s.finishCmd k.id else s

/-! ## Issue -/

/-- The OP that names a SCATTER form (R279); codes 5–7 stay as FIRST's word has them. -/
def withOp (op : Nat) (w : CmdWords) : CmdWords :=
  if op = 0 ∧ 4 < w.w3.toNat / 2 ^ 10 % 8 then w
  else { w with w3 := setBit (setBit (setBit w.w3 10 (op.testBit 0)) 11 (op.testBit 1)) 12 (op.testBit 2) }

def execGather (w : CmdWords) (s : State) := issueCmd 0x50 w s
def execScatterAdd (w : CmdWords) (s : State) := issueCmd 0x51 (withOp 0 w) s
def execScatterMin (w : CmdWords) (s : State) := issueCmd 0x51 (withOp 1 w) s
def execScatterMax (w : CmdWords) (s : State) := issueCmd 0x51 (withOp 2 w) s
def execScatterFirst (w : CmdWords) (s : State) := issueCmd 0x51 (withOp 3 w) s
def execScatterLast (w : CmdWords) (s : State) := issueCmd 0x51 (withOp 4 w) s
def execIntersect (w : CmdWords) (s : State) := issueCmd 0x52 w s
def execIxCount (w : CmdWords) (s : State) := issueCmd 0x53 w s

end Sys2Proof.Machine
end

