-- ==== Sys2Proof/Machine/Select.lean ====
section
/-! DEFINITION. The select units (13_assignment.md, R287–R292; R388): SEL.TOPK and SEL.COLK. -/

namespace Sys2Proof.Machine

/-- A command of a unit that started before a pre-emption and waits for the unit again: x1 is 2 until it has it (R328). -/
def Cmd.awaits (k : Cmd) : Bool := decide (k.state ≠ .issued) && decide (k.x1 = 2)

/-- Nothing of a unit's other commands is in work, paused ones included (R368), and the command is its choice among those that
may start or go on (R264, R292, R298). -/
def State.unitChooses (s : State) (same : Cmd → Bool) (k : Cmd) : Bool :=
  (s.cmds.all fun j => !same j || decide (j.id = k.id) || decide (j.state = .issued) || j.awaits)
    && s.bestOf (s.cmds.filter fun j => same j && (s.mayStart j || (j.awaits && s.runs j))) k

/-- A started command has the unit, or takes it again. -/
def State.unitTurn (s : State) (same : Cmd → Bool) (k : Cmd) : Bool :=
  s.runs k && (decide (k.x1 ≠ 2) || s.unitChooses same k)

/-- It has the unit from now on. -/
def State.unitTaken (s : State) (k : Cmd) : State := s.updCmd k.id fun j => { j with x1 := 0 }

/-! ## Fields (R289) -/

def Cmd.isSel (k : Cmd) : Bool := decide (k.opc = 0x60#8) || decide (k.opc = 0x61#8)
def Cmd.selN (k : Cmd) : Nat := k.b.toNat % 2 ^ 32
def Cmd.selW (k : Cmd) : Nat := k.b.toNat / 2 ^ 32
def Cmd.selK (k : Cmd) : Nat := k.w3.toNat / 2 ^ 26 + 1
def Cmd.selFmt (k : Cmd) : Nat := k.w3.toNat / 2 ^ 22 % 16
def Cmd.selSoft (k : Cmd) : Bool := k.w3.getLsbD 21
/-- Index size in bytes. -/
def Cmd.selIsz (k : Cmd) : Nat := if k.w3.getLsbD 20 then 4 else 2
/-- Element size, 0 for a format outside R289. -/
def Cmd.selSize (k : Cmd) : Nat := if k.selFmt = 7 then 4 else if k.selFmt = 8 ∨ k.selFmt = 9 then 2 else 0
def Cmd.topk (k : Cmd) : Bool := decide (k.opc = 0x60#8)
/-- Lines, and candidates of each (R290). -/
def Cmd.lines (k : Cmd) : Nat := if k.topk then k.selN else k.selW
def Cmd.cands (k : Cmd) : Nat := if k.topk then k.selW else k.selN
/-- Address of candidate x of line l. -/
def Cmd.scoreVa (k : Cmd) (l x : Nat) : Nat :=
  let r := if k.topk then l else x
  let j := if k.topk then x else l
  wrapVa ((k.a.toNat : Int) + (r * k.c.toNat + j * k.selSize : Nat))

/-! ## Start (R301, R388, R405) -/

/-- Output ranges: indices, and weights where e is not 0. -/
def Cmd.selOuts (k : Cmd) : List (Nat × Nat) :=
  (k.d.toNat, k.lines * k.selK * k.selIsz) :: (if k.e = 0#64 then [] else [(k.e.toNat, k.lines * k.selK * 4)])

/-- Score rows as ranges. -/
def Cmd.scoreRows (k : Cmd) : List (Nat × Nat) :=
  (List.range k.selN).map fun r => (wrapVa ((k.a.toNat : Int) + (r * k.c.toNat : Nat)), k.selW * k.selSize)

/-- Two of the ranges of a list overlap. -/
def someMeet : List (Nat × Nat) → Bool
  | [] => false
  | p :: ps => (ps.any fun q => rangesMeet p.1 p.2 q.1 q.2) || someMeet ps

/-- Some score lies outside the HBM4E region. -/
def State.outsideHbm (s : State) (k : Cmd) : Bool :=
  (List.range k.lines).any fun l => (List.range k.cands).any fun x =>
    match translate (s.pagesFor k.homeAgent) (k.scoreVa l x) Need.read with
    | .ok pa => !inHbm pa
    | .error _ => false

/-- The first check a SEL form fails. -/
def State.selErr (s : State) (k : Cmd) : Option (Nat × Nat × Option Nat) :=
  if k.selSize = 0 then some (0xB, 6, none)
  else if k.selN = 0 ∨ 2 ^ 24 < k.selN ∨ k.selW = 0 ∨ 2 ^ 24 < k.selW ∨ (k.selIsz = 2 ∧ 65535 < k.cands)
      ∨ k.c.toNat % k.selSize ≠ 0 then some (0xB, 2, none)
  else if [k.a, k.d, k.e].any fun v => !addrOk v then some (0xB, 2, none)
  else match misaligned [(k.a.toNat, k.selSize), (k.d.toNat, k.selIsz), (k.e.toNat, 4)] with
    | some a => some (0xB, 3, some a)
    | none => match (k.scoreRows ++ k.selOuts).find? fun p => s.meetsWindow k p.1 p.2 with
      | some p => some (7, 5, some p.1)
      | none =>
        if someMeet k.selOuts || (k.selOuts.any fun o => k.scoreRows.any fun r => rangesMeet o.1 o.2 r.1 r.2) || s.outsideHbm k
        then some (0xB, 5, none) else none

/-- A SEL form starts when the units choose it. -/
def State.startSel (s : State) (k : Cmd) : State :=
  if !s.unitChooses Cmd.isSel k then s
  else match s.selErr k with
    | some (cls, sub, a) => s.cmdFaultAs k k.kind k.loc cls sub .fatal a 0
    | none => s.started k

/-! ## Ranking (R288) -/

/-- Candidate p ranks before q. -/
def ranksFirst (p q : Nat × XR) : Bool :=
  match XR.rank p.2 q.2 with
  | .gt => true
  | .lt => false
  | .eq => decide (p.1 < q.1)

/-- Insert a candidate into a list in order of rank. -/
def insertRank (p : Nat × XR) : List (Nat × XR) → List (Nat × XR)
  | [] => [p]
  | q :: qs => if ranksFirst p q then p :: q :: qs else q :: insertRank p qs

/-- Candidates in order of rank. -/
def byRank (ps : List (Nat × XR)) : List (Nat × XR) := ps.foldr insertRank []

/-! ## Weights (R291) -/

/-- Bounds of e^(s − s0) for s ≤ s0 from f fraction bits: 1 and 0 exactly where they are the value, and otherwise the
approximation less and more f⁴ of its last places, which its series and their constant stay well within (log 6); below the
range of the approximation, 0 and an upper bound. -/
def softTerm (f : Nat) (s0 v : XR) : XR × XR :=
  match (XR.add s0 v.negate .rne).1 with
  | .fin _ m e =>
    if m = 0 then (.fin false 1 0, .fin false 1 0)
    else
      let r := expNeg f m e
      let q := r.2 - (f : Int)
      (if r.2 < -140000 then .fin false 0 0 else .fin false (r.1 - f ^ 4) q, .fin false (r.1 + f ^ 4) q)
  | _ => (.fin false 0 0, .fin false 0 0)

/-- The quotient of two non-negative finite values. -/
def softQuot : XR → XR → XR
  | .fin _ a d, .fin _ b e => if a = 0 then .fin false 0 0 else quotFin false a d b e
  | _, _ => .nan

/-- The two FP32 numbers, with their flags, that the bounds of weight i from f fraction bits round to. -/
def softBounds (vs : List XR) (i f : Nat) : (Nat × Flags) × (Nat × Flags) :=
  let ts := vs.map (softTerm f (vs.headD .nan))
  let sum := fun (g : XR × XR → XR) => ts.foldl (fun a t => (XR.add a (g t) .rne).1) (.fin false 0 0)
  let t := ts.getD i (.nan, .nan)
  -- a value below the approximation's range rounds as its upper bound does
  (FloatFmt.fp32.round (softQuot (if t.1.isZero then t.2 else t.1) (sum (·.2))) .rne,
    FloatFmt.fp32.round (softQuot t.2 (sum (·.1))) .rne)

/-- Weight i: the number both bounds round to, from as many fraction bits as that takes, doubled up to n times; a weight that
is not exact is transcendental, so that some number of bits tells it. -/
def softWeight (vs : List XR) (i : Nat) : Nat → Nat → Nat × Flags
  | 0, f =>
    let b := softBounds vs i f
    if b.1 = b.2 then b.1 else if Config.softUp (vs.map fun v => (FloatFmt.fp32.round v .rne).1) i then b.2 else b.1
  | n + 1, f =>
    let b := softBounds vs i f
    if b.1 = b.2 then b.1 else softWeight vs i n (2 * f)

/-- Softmax over the chosen scores, best first: each weight is the exact value rounded once. -/
def softmax (vs : List XR) : List (Nat × Flags) :=
  let m := FloatFmt.fp32
  if (vs.any XR.isNaN) || (vs.all fun v => decide (v = .inf true)) then vs.map fun _ => (m.canonNaN, Flags.inv)
  else if vs.head? = some (.inf false) then
    let c := (vs.filter fun v => decide (v = .inf false)).length
    vs.map fun v => if v = .inf false then m.round (softQuot (.fin false 1 0) (.fin false c 0)) .rne else (0, Flags.none)
  else (List.range vs.length).map fun i => softWeight vs i 24 fxBits

/-- The weights of a line's chosen scores. -/
def Cmd.weights (k : Cmd) (vs : List XR) : List (Nat × Flags) :=
  if k.selSoft then softmax vs else vs.map fun v => ((FloatFmt.fp32.round v .rne).1, Flags.none)

/-! ## Running (R290, R292) -/

/-- The scores of a line. -/
def State.lineScores (s : State) (k : Cmd) (l : Nat) : Except MemFault (State × List (Nat × XR)) :=
  thread (fun s x => (s.loadNat k.homeAgent 1#2 (k.scoreVa l x) k.selSize).map fun r => (r.1, (x, decodeFmt r.2 k.selFmt))) s
    (List.range k.cands)

/-- Stack whose line a faulting score read touched, for LOC (R365). -/
def State.scoreStack (s : State) (k : Cmd) (f : MemFault) : Nat :=
  match translate (s.pages k.ctx) f.addr {} with
  | .ok pa => homeStack pa
  | .error _ => k.loc

/-- Write a line's index and weight words from its scores. -/
def State.selLine (s : State) (k : Cmd) (l : Nat) (cs : List (Nat × XR)) : Except MemFault State :=
  let top := (byRank cs).take k.selK
  let pad := k.selK - top.length
  let ix := top.map (·.1) ++ List.replicate pad (2 ^ (8 * k.selIsz) - 1)
  let ws := k.weights (top.map (·.2))
  let wt := ws.map (·.1) ++ List.replicate pad 0
  let f := ws.foldl (fun f p => f ||| p.2) Flags.none
  match s.store k.homeAgent k.hint (wrapVa ((k.d.toNat : Int) + (l * k.selK * k.selIsz : Nat))) (ix.map (leBytes k.selIsz)).flatten with
  | .error e => .error e
  | .ok s2 =>
    if k.e = 0#64 then .ok s2
    else (s2.store k.homeAgent k.hint (wrapVa ((k.e.toNat : Int) + (l * k.selK * 4 : Nat))) (wt.map (leBytes 4)).flatten).map
      fun s3 => s3.raiseFor k f

/-- Lines of a SEL form; a fault leaves what is written standing, and the command restarts from its first line. -/
def State.selLines (s : State) (k : Cmd) : List Nat → State
  | [] => s.finishCmd k.id
  | l :: ls => match s.lineScores k l with
    | .error f => if f.waits then s else s.cmdFaultAs k k.kind (s.scoreStack k f) f.cls f.sub (if f.fatal then .fatal else .paused) (some f.addr) 0
    | .ok (s1, cs) => match s1.selLine k l cs with
      | .error f => s1.cmdMemFault k f 0
      | .ok s2 => s2.selLines k ls

/-- A started SEL form runs over every line and completes. -/
def State.goSel (s : State) (k : Cmd) : State :=
  if s.unitTurn Cmd.isSel k then (s.unitTaken k).selLines k (List.range k.lines) else s

def execSelTopk (w : CmdWords) (s : State) := issueCmd 0x60 w s
def execSelColk (w : CmdWords) (s : State) := issueCmd 0x61 w s

end Sys2Proof.Machine
end

