-- ==== Sys2Proof/Machine/Auction.lean ====
section
/-! DEFINITION. The assignment engine (13_assignment.md, R293–R301; R388, R389, R405): AUC and AUC.PRICE. -/

namespace Sys2Proof.Machine

/-! ## Descriptor (R293) -/

/-- An auction descriptor. -/
structure AucDesc where
  sbase : Nat
  rstr : Nat
  pbase : Nat
  cbase : Nat
  abase : Nat
  stbase : Nat
  eps : Nat
  res : Nat
  rows : Nat
  cols : Nat
  limit : Nat
deriving DecidableEq, Repr

/-- A descriptor from its 64 bytes. -/
def AucDesc.of (bs : List Byte) : AucDesc :=
  let f := entryField bs
  ⟨f 0 8, f 8 8, f 0x10 8, f 0x18 8, f 0x20 8, f 0x28 8, f 0x30 4, f 0x34 4, f 0x38 2, f 0x3A 1, f 0x3C 4⟩

def Cmd.isAuc (k : Cmd) : Bool := decide (k.opc = 0x70#8) || decide (k.opc = 0x71#8)
/-- Commands of one die's engine. -/
def sameAuc (k j : Cmd) : Bool := j.isAuc && decide (j.die = k.die)
def Cmd.pz (k : Cmd) : Bool := k.w3.getLsbD 31
/-- The command is AUC.PRICE. -/
def Cmd.priceOnly (k : Cmd) : Bool := decide (k.opc = 0x71#8)

/-- The value of an FP32 encoding. -/
def f32 (x : Nat) : XR := FloatFmt.fp32.decode x

/-- Finite. -/
def isFinite (v : XR) : Bool := !v.isNaN && !v.isInf

/-- EPS, RES, sizes and addresses are in range (R388). -/
def AucDesc.rangesOk (d : AucDesc) : Bool :=
  decide (1 ≤ d.rows ∧ d.rows ≤ 256) && decide (1 ≤ d.cols ∧ d.cols ≤ 64)
    && decide (1 ≤ d.limit ∧ d.limit < 2 ^ 16) && decide (d.rstr % 4 = 0)
    && isFinite (f32 d.eps) && !(f32 d.eps).isZero && !(f32 d.eps).neg? && isFinite (f32 d.res)
    && [d.sbase, d.pbase, d.cbase, d.abase, d.stbase].all fun a => decide (a < 2 ^ 56)

/-- Outputs as ranges. -/
def AucDesc.outs (d : AucDesc) (price : Bool) : List (Nat × Nat) :=
  (d.abase, (if price then 16 else 2) * d.rows) :: (d.stbase, 8) :: (if price then [] else [(d.pbase, 4 * d.cols)])

/-- What an output may not overlap: scores, descriptor, capacities. -/
def AucDesc.ins (d : AucDesc) (va : Nat) : List (Nat × Nat) :=
  (va, 64) :: (d.cbase, 2 * d.cols)
    :: (List.range d.rows).map fun r => (wrapVa ((d.sbase : Int) + (r * d.rstr : Nat)), 4 * d.cols)

/-- Outputs overlap an input or one another (R301). -/
def AucDesc.overlaps (d : AucDesc) (va : Nat) (price : Bool) : Bool :=
  someMeet (d.outs price) || (d.outs price).any fun o => (d.ins va).any fun i => rangesMeet o.1 o.2 i.1 i.2

/-- Why an auction cannot begin. -/
inductive AucErr where
  | bad (sub : Nat) (addr : Option Nat)
  | mem (f : MemFault)
deriving DecidableEq, Repr

/-- A run of n values of a size. -/
def State.readRun (s : State) (k : Cmd) (va size n : Nat) : Except MemFault (State × List Nat) :=
  thread (fun s i => s.loadNat k.homeAgent 1#2 (wrapVa ((va : Int) + (size * i : Nat))) size) s (List.range n)

/-- Address of score (r, j). -/
def AucDesc.scoreVa (d : AucDesc) (r j : Nat) : Nat := wrapVa ((d.sbase : Int) + (r * d.rstr + 4 * j : Nat))

/-- Some score lies outside the HBM4E region (R301, R388). -/
def State.aucOutside (s : State) (k : Cmd) (d : AucDesc) : Bool :=
  (List.range d.rows).any fun r => (List.range d.cols).any fun j =>
    match translate (s.pagesFor k.homeAgent) (d.scoreVa r j) Need.read with
    | .ok pa => !inHbm pa
    | .error _ => false

/-- Scores, capacities and starting prices (R293, R297). -/
def State.readAuction (s : State) (k : Cmd) (d : AucDesc) : Except MemFault (State × Auction) :=
  match thread (fun s r => s.readRun k (d.scoreVa r 0) 4 d.cols) s (List.range d.rows) with
  | .error f => .error f
  | .ok (s1, sc) => match s1.readRun k d.cbase 2 d.cols with
    | .error f => .error f
    | .ok (s2, caps) => match (if k.pz then .ok (s2, List.replicate d.cols 0) else s2.readRun k d.pbase 4 d.cols) with
      | .error f => .error f
      | .ok (s3, ps) => .ok (s3, ⟨sc, caps, ps, List.replicate d.rows .unassigned, 0, d.eps, d.res, d.limit⟩)

/-- Values an auction accepts (R294, R388). -/
def Auction.ok (a : Auction) : Bool :=
  (a.scores.all fun r => r.all fun x => isFinite (f32 x) || decide (f32 x = .inf true))
    && (a.caps.all fun c => decide (1 ≤ c ∧ c ≤ 256)) && a.prices.all fun p => isFinite (f32 p)

/-- The status word's page has P (R301). -/
def State.inPresence (s : State) (k : Cmd) (va : Nat) : Bool :=
  match (s.pagesFor k.homeAgent).find? (·.covers va) with
  | some p => p.presence
  | none => true

/-- Checks of the descriptor, then everything the engine reads (R388). -/
def State.prepareAuc (s : State) (k : Cmd) (d : AucDesc) : Except AucErr (State × Auction) :=
  if !d.rangesOk then .error (.bad 2 none)
  else match misaligned [(d.abase, if k.priceOnly then 16 else 2), (d.stbase, 8)] with
    | some a => .error (.bad 3 (some a))
    | none =>
      if !s.inPresence k d.stbase || d.overlaps k.a.toNat k.priceOnly || s.aucOutside k d then .error (.bad 5 none)
      else match s.readAuction k d with
        | .error f => .error (.mem f)
        | .ok (s1, a) => if a.ok then .ok (s1, a) else .error (.bad 2 none)

/-! ## Status (R296, R388, R405) -/

/-- A faulting AUC form still fills an empty status word of a P page, with STATUS 2. -/
def State.failStatus (s : State) (k : Cmd) (stbase : Nat) : State :=
  if stbase % 8 ≠ 0 then s
  else match translate (s.pagesFor k.homeAgent) stbase Need.pwrite with
    | .error _ => s
    | .ok pa => match s.fillNow stbase pa 0x20000#64 with
      | .error _ => s
      | .ok s1 => s1

/-- The progress word of R299. -/
def Cmd.aucWord (k : Cmd) : Nat := k.auction.round * 2 ^ 16 + (if k.state = .issued then 0 else 1)

/-- The engine reads what the auction needs; `list` keeps the output addresses from then on. A fault of the checks leaves
RESTART zero (R377). -/
def State.loadAuc (s : State) (k : Cmd) : State :=
  match s.load k.homeAgent 1#2 k.a.toNat 64 with
  | .error f => s.cmdMemFault k f k.aucWord
  | .ok (s0, bs) =>
    let d := AucDesc.of bs
    match s0.prepareAuc k d with
    | .error (.bad sub a) => (s0.failStatus k d.stbase).cmdFault k sub a 0
    | .error (.mem f) => (if f.fatal then s0.failStatus k d.stbase else s0).cmdMemFault k f k.aucWord
    | .ok (s1, a) => s1.updCmd k.id fun j => { j with auction := a, list := [d.abase, d.pbase, d.stbase] }

/-- AUC and AUC.PRICE start when the die's engine chooses them (R298). -/
def State.startAuc (s : State) (k : Cmd) : State :=
  if !s.unitChooses (sameAuc k) k then s
  else if !addrOk k.a then s.cmdFault k 2 none 0
  else if k.a.toNat % 64 ≠ 0 then s.cmdFault k 3 (some k.a.toNat) 0
  else if s.accsDone k then (s.started k).loadAuc { k with state := .started } else s.started k

/-! ## Bids (R294) -/

/-- A row's evaluation. -/
structure Bid where
  /-- The column bid for, none for a residual row. -/
  col : Option Nat
  v1 : Nat
  v2 : Nat
  bid : Nat
  flags : Flags
deriving DecidableEq, Repr

/-- Net values of a row, with the flags of their roundings. -/
def netValues (a : Auction) (i : Nat) : List (Nat × Flags) :=
  ((a.scores.getD i []).zip a.prices).map fun p =>
    FloatFmt.fp32.round (XR.add (f32 p.1) (f32 p.2).negate .rne).1 .rne

/-- Greatest of the listed (column, value) pairs, the lowest column among equals. -/
def greatest : List (Nat × Nat) → Option (Nat × Nat)
  | [] => none
  | p :: ps => some (ps.foldl (fun b q => if XR.cmp (f32 q.2) (f32 b.2) = .gt then q else b) p)

/-- The bid of row i from the prices at the start of the round. -/
def Auction.bidOf (a : Auction) (i : Nat) : Bid :=
  let ns := netValues a i
  let f := ns.foldl (fun f n => f ||| n.2) Flags.none
  let el := ((List.range ns.length).zip (ns.map (·.1))).filter fun p => decide (f32 p.2 ≠ .inf true)
  match greatest el with
  | none => ⟨none, 0xFF800000, 0, 0, f⟩
  | some (j, v1) =>
    let v2 := ((greatest (el.filter fun p => decide (p.1 ≠ j))).map (·.2)).getD a.res
    if XR.cmp (f32 v1) (f32 a.res) = .lt then ⟨none, v1, 0, 0, f⟩
    else
      -- of equal net values, +∞ among them, the difference is 0: the bid is price + ε
      let d := if XR.cmp (f32 v1) (f32 v2) = .eq then .fin false 0 0 else (XR.add (f32 v1) (f32 v2).negate .rne).1
      let p := (XR.add (f32 (a.prices.getD j 0)) d .rne).1
      let (b, g) := FloatFmt.fp32.round (XR.add p (f32 a.eps) .rne).1 .rne
      ⟨some j, v1, v2, b, f ||| g⟩

/-! ## Merging (R295) -/

/-- Held and new bids of column j, best first: higher bid, then lower row. -/
def insertBid (p : Nat × Nat) : List (Nat × Nat) → List (Nat × Nat)
  | [] => [p]
  | q :: qs =>
    match XR.rank (f32 p.2) (f32 q.2) with
    | .gt => p :: q :: qs
    | .lt => q :: insertBid p qs
    | .eq => if p.1 < q.1 then p :: q :: qs else q :: insertBid p qs

/-- Bids on column j: (row, bid). -/
def bidsOn (rows : List RowState) (bids : List (Option Bid)) (j : Nat) : List (Nat × Nat) :=
  ((List.range rows.length).zip (rows.zip bids)).filterMap fun p =>
    match p.2.1 with
    | .held c b => if c = j then some (p.1, b) else none
    | .residual => none
    | .unassigned => match p.2.2 with
      | some x => if x.col = some j then some (p.1, x.bid) else none
      | none => none

/-- What column j keeps. -/
def kept (a : Auction) (bids : List (Option Bid)) (j : Nat) : List (Nat × Nat) :=
  ((bidsOn a.rows bids j).foldr insertBid []).take (a.caps.getD j 0)

/-- One evaluation of every unassigned row and the merge of every column: the auction after it and its flags. -/
def Auction.play (a : Auction) : Auction × Flags :=
  let bids := (List.range a.rows.length).map fun i => if a.rows.getD i .residual = .unassigned then some (a.bidOf i) else none
  let keeps := (List.range a.caps.length).map (kept a bids)
  let rows := (List.range a.rows.length).map fun i =>
    match bids.getD i none with
    | some b => if b.col = none then RowState.residual
        else match ((List.range keeps.length).zip keeps).findSome? fun c => (c.2.find? fun p => decide (p.1 = i)).map fun p => (c.1, p.2) with
          | some (c, x) => .held c x
          | none => .unassigned
    | none => match a.rows.getD i .residual with
      | .held c x => if (keeps.getD c []).any fun p => decide (p.1 = i) then .held c x else .unassigned
      | r => r
  let prices := ((List.range a.prices.length).zip a.prices).map fun p =>
    let ks := keeps.getD p.1 []
    if ks.length = a.caps.getD p.1 0 then (ks.getLast?.map (·.2)).getD p.2 else p.2
  let some_ := bids.any fun b => match b with | some x => x.col.isSome | none => false
  ({ a with rows := rows, prices := prices, round := if some_ then a.round + 1 else a.round },
    bids.foldl (fun f b => match b with | some x => f ||| x.flags | none => f) Flags.none)

/-- Some row is neither assigned nor residual. -/
def Auction.pending (a : Auction) : Bool := a.rows.any fun r => decide (r = .unassigned)

/-- AUCTION_ROUND: one round of a started AUC (R294–R296). -/
def State.auctionRound (s : State) (k : Cmd) : State :=
  if k.opc ≠ 0x70#8 ∨ !s.unitTurn (sameAuc k) k then s
  else if k.list = [] then (s.unitTaken k).loadAuc k
  else if k.auction.pending && decide (k.auction.round < k.auction.limit) then
    let r := k.auction.play
    ((s.unitTaken k).updCmd k.id fun j => { j with auction := r.1 }).raiseFor k r.2
  else s

def execAuctionRound (cmd : Nat) (s : State) : Host.Outcome State Fault Refusal :=
  .next (match s.cmd? cmd with
    | none => s
    | some k => s.auctionRound k)

/-! ## Outputs (R296, R297) -/

/-- An assignment word. -/
def RowState.word : RowState → Nat
  | .unassigned => 0xFFFE
  | .residual => 0xFFFF
  | .held c _ => c

/-- A bid record of AUC.PRICE. -/
def Bid.record (b : Bid) : List Byte :=
  leBytes 2 (b.col.getD 0xFFFF) ++ leBytes 2 0 ++ leBytes 4 b.v1 ++ leBytes 4 (if b.col.isSome then b.v2 else 0)
    ++ leBytes 4 (if b.col.isSome then b.bid else 0)

/-- The status word. -/
def statusWord (nres nasg status rounds : Nat) : Nat := nres * 2 ^ 48 + nasg * 2 ^ 32 + status * 2 ^ 16 + rounds

/-- Store outputs in order. -/
def State.storeOuts (s : State) (k : Cmd) : List (Nat × List Byte) → Except MemFault State
  | [] => .ok s
  | (va, bs) :: r => match s.store k.homeAgent k.hint va bs with
    | .error f => .error f
    | .ok s1 => s1.storeOuts k r

/-- A memory fault of the output pass: a fatal one still fills an empty status word with STATUS 2 (R388); after a
recoverable one AUC resumes with its output pass, and AUC.PRICE from its beginning (R299, R403). -/
def State.aucOutFault (s : State) (k : Cmd) (f : MemFault) : State :=
  if f.waits then s
  else if f.fatal then (s.failStatus k (k.list.getD 2 0)).cmdMemFault k f k.aucWord
  else (s.cmdMemFault k f k.aucWord).updCmd k.id fun j => if k.priceOnly then { j with list := [], auction := {} } else j

/-- Write the outputs and the status word last; a full status word is reported and stays (R405). -/
def State.endAuc (s : State) (k : Cmd) (outs : List (Nat × List Byte)) (word : Nat) : State :=
  match s.storeOuts k outs with
  | .error f => s.aucOutFault k f
  | .ok s1 =>
    let st := k.list.getD 2 0
    match translate (s1.pagesFor k.homeAgent) st Need.pwrite with
    | .error f => s1.aucOutFault k f
    | .ok pa => match s1.fillWord st pa (BitVec.ofNat 64 word) with
      | .ok s2 => s2.finishCmd k.id
      | .error f =>
        if f.cls = 7 then (s1.cmdFaultAs k k.kind k.loc 7 1 .reported (some st) k.aucWord).finishCmd k.id
        else s1.aucOutFault k f

/-- A started AUC whose rounds are over writes its outputs and completes. -/
def State.goAuc (s : State) (k : Cmd) : State :=
  let a := k.auction
  if !s.unitTurn (sameAuc k) k then s
  else if k.list = [] then (s.unitTaken k).loadAuc k
  else if a.pending && decide (a.round < a.limit) then s
  else
    let nres := (a.rows.filter fun r => decide (r = .residual)).length
    let nasg := (a.rows.filter fun r => decide (r.word < 0xFFFE)).length
    (s.unitTaken k).endAuc k [(k.list.getD 0 0, (a.rows.map fun r => leBytes 2 r.word).flatten),
      (k.list.getD 1 0, (a.prices.map (leBytes 4)).flatten)] (statusWord nres nasg a.pending.toNat a.round)

/-- A started AUC.PRICE evaluates one bid round over every row and completes (R297). -/
def State.goAucPrice (s : State) (k : Cmd) : State :=
  if !s.unitTurn (sameAuc k) k then s
  else if k.list = [] then (s.unitTaken k).loadAuc k
  else
    let bids := (List.range k.auction.rows.length).map k.auction.bidOf
    let nasg := (bids.filter fun b => b.col.isSome).length
    let f := bids.foldl (fun f b => f ||| b.flags) Flags.none
    ((s.unitTaken k).raiseFor k f).endAuc k [(k.list.getD 0 0, (bids.map Bid.record).flatten)]
      (statusWord (bids.length - nasg) nasg 0 0)

def execAuc (w : CmdWords) (s : State) := issueCmd 0x70 w s
def execAucPrice (w : CmdWords) (s : State) := issueCmd 0x71 w s

end Sys2Proof.Machine
end

