-- ==== Sys2Proof/Machine/Streams.lean ====
section
/-! DEFINITION. Elements that hold state between firings: reductions (R238), QNT (R236), segment operations (R245–R247),
the Pacer and its elements (R51–R53, R63, R248). -/

namespace Sys2Proof.Machine

/-- A step of element r alone on its first input, with room for a result. -/
def Core.single (c : Core) (r : Nat) (k : Token → FabRes) : FabRes :=
  if elemRoom (c.word r) ≤ (c.queue (elemPlace r)).length then .idle
  else match c.input (inPlace r 0) with
    | none => .idle
    | some t => k t

/-- A step of an element as an event. -/
def siteStep (op : Nat) (f : Nat → Core → FabRes) (core site : Nat) (s : State) : Host.Outcome State Fault Refusal :=
  .next (if s.hasOp core site [op] then s.fabricAct core (elemPlace site) (f site) else s)

/-! ## Reductions (R48, R89, R238) -/

/-- The member order of a reduction: greater or lesser, NaN apart (R234, R238). -/
def memberCmp (fmt : Nat) (x y : BitVec 32) : Ordering :=
  if isFloatFmt fmt then XR.rank (decodeFmt x.toNat fmt) (decodeFmt y.toNat fmt) else compare (intVal fmt x) (intVal fmt y)

def memberNaN (fmt : Nat) (x : BitVec 32) : Bool := isFloatFmt fmt && (decodeFmt x.toNat fmt).isNaN

/-- Integer or floating encoding of an extended real that is an infinity, or of an integer bound. -/
def extreme (fmt : Nat) (greatest : Bool) : BitVec 32 :=
  if isFloatFmt fmt then BitVec.ofNat 32 ((floatFmt fmt).round (.inf !greatest) .rne).1
  else intExt fmt (if greatest then (intRange (intFmt fmt).1 (intFmt fmt).2).2 else (intRange (intFmt fmt).1 (intFmt fmt).2).1)

/-- The state of a reduction before its first member; a floating sum starts at −0 under RD (R89). -/
def redInit (w : Nat) : ElemState :=
  let fmt := wFmt w
  { val := if wOp w = 0x50 ∧ isFloatFmt fmt ∧ wRm w = .rd then BitVec.ofNat 32 (2 ^ (fmtWidth fmt - 1)) else 0#32 }

/-- The least member is sought. -/
def redLeast (w : Nat) : Bool := decide (wOp w = 0x52) || (decide (wOp w = 0x53) && w.testBit 3)

/-- One member joins: n counts members, k is the position and val the value of the best so far (R238). That RCNT looks at all
32 bits of a member at a narrow format too is the model's (log 90). -/
def redMember (w : Nat) (e : ElemState) (x : BitVec 32) : ElemState × Flags :=
  let fmt := wFmt w
  let op := wOp w
  let e1 := { e with busy := true, n := e.n + 1 }
  if op = 0x50 then
    if isFloatFmt fmt then
      let m := floatFmt fmt
      let (v, f1) := XR.add (m.decode e.val.toNat) (m.decode (x.toNat % 2 ^ fmtWidth fmt)) (wRm w)
      let (r, f2) := m.round v (wRm w)
      ({ e1 with val := BitVec.ofNat 32 r }, f1 ||| f2)
    else ({ e1 with val := intExt fmt (intVal fmt e.val + intVal fmt x) }, Flags.none)
  else if op = 0x54 then ({ e1 with val := if w.testBit 3 || decide (x ≠ 0#32) then e.val + 1 else e.val }, Flags.none)
  else
    let better := decide (e.n = 0) || (!memberNaN fmt e.val
      && (memberNaN fmt x || decide (memberCmp fmt x e.val = if redLeast w then .lt else .gt)))
    ((if better then { e1 with k := e.n, val := x } else e1), Flags.none)

/-- Result of a segment (R238). -/
def redResult (w : Nat) (e : ElemState) : BitVec 32 :=
  let fmt := wFmt w
  if wOp w = 0x53 then (if e.n = 0 then 0xFFFFFFFF#32 else BitVec.ofNat 32 e.k)
  else if wOp w = 0x51 ∨ wOp w = 0x52 then
    if e.n = 0 then extreme fmt (decide (wOp w = 0x52))
    else if isFloatFmt fmt then
      BitVec.ofNat 32 (if memberNaN fmt e.val then (floatFmt fmt).canonNaN else e.val.toNat % 2 ^ fmtWidth fmt)
    else intExt fmt (intVal fmt e.val)
  else e.val

/-- Firing of a reduction of level or rank l: members are gathered, inner control tokens consumed, the result emitted
as its segment closes, and outer control tokens forwarded l + 1 levels lower. -/
def Core.fireRed (r : Nat) (c : Core) : FabRes :=
  let w := c.word r
  let l := wImm w % 8
  let x := inPlace r 0
  let e0 := c.est r
  let e := { (if e0.busy then e0 else redInit w) with taken := e0.taken + 1 }
  c.single r fun t =>
    let c1 := c.pop x
    let close := fun (c : Core) (e : ElemState) (after : List Token) =>
      (c.setEst r {}).push (elemPlace r) (Token.ofData (redResult w e) :: after)
    if t.isData then
      let (sg, zs) := segData (c.segs x)
      let (e1, f) := redMember w e t.data
      let c2 := c1.setSegs x sg
      .ok (if !wSegi w ∧ l ∈ zs then close c2 e1 [] else c2.setEst r e1) f
    else match t.level?, t.rank? with
      | some n, _ =>
        let (sg, zs) := segPrefix (c.segs x) n t.data.toNat
        let c2 := c1.setSegs x sg
        if l < n then .ok (c2.push (elemPlace r) [Token.prefixOf (n - l - 1) t.data.toNat]) Flags.none
        else if l ∈ zs then .ok (close c2 e []) Flags.none
        else .ok (c2.setEst r { e with busy := true }) Flags.none
      | none, some n =>
        if n < l then .ok (c1.setEst r { e0 with taken := e.taken }) Flags.none
        else .ok (close c1 e (if l < n then [Token.marker (n - l - 1)] else [])) Flags.none
      | none, none => .ok c1 Flags.none

def execRsum (core site : Nat) (s : State) := siteStep 0x50 Core.fireRed core site s
def execRmax (core site : Nat) (s : State) := siteStep 0x51 Core.fireRed core site s
def execRmin (core site : Nat) (s : State) := siteStep 0x52 Core.fireRed core site s
def execRarg (core site : Nat) (s : State) := siteStep 0x53 Core.fireRed core site s
def execRcnt (core site : Nat) (s : State) := siteStep 0x54 Core.fireRed core site s

/-! ## QNT (R236) -/

/-- The greater magnitude of two. -/
def maxMag (a b : XR) : XR := if XR.cmp a.abs b.abs = .lt then b.abs else a.abs

/-- floor(log2) of a finite nonzero value. -/
def floorLog2 : XR → Int
  | .fin _ m e => (Nat.log2 m : Int) + e
  | _ => 0

/-- v × 2^k. -/
def scaleX (v : XR) (k : Int) : XR :=
  match v with
  | .fin n m e => .fin n m (e + k)
  | v => v

/-- Round to an element format where overflow gives the signed largest finite, with OVF and INX. -/
def roundClamp (m : FloatFmt) (v : XR) (rm : RMode) : Nat × Flags :=
  let (r, f) := m.round v rm
  if f &&& Flags.ovf ≠ 0#6 then (m.withSign v.neg? m.maxFin, Flags.ovf ||| Flags.inx) else (r, f)

/-- Distance of v·2^8 from level i of the codebook times sc × S. -/
def qc4Dist (v : XR) (sc : Nat) (sup : XR) (i : Nat) : XR :=
  let l := (XR.mul (XR.mul (qc4Value i) (.fin false sc 0)).1 sup).1
  (XR.add (scaleX v 8) l.negate .rne).1.abs

/-- The codebook level nearest v / (sc × S × 2^−8), ties to the lower code. -/
def qc4Nearest (v : XR) (sc : Nat) (sup : XR) : Nat :=
  (List.range 16).foldl (fun best i => if XR.cmp (qc4Dist v sc sup i) (qc4Dist v sc sup best) = .lt then i else best) 0

/-- Scale code and element codes of a block of FP32 members (R236). With S not positive and finite the codes are free
(log 24): `free` numbers them. -/
def qntBlock (w free : Nat) (vs : List XR) : Nat × List Nat × Flags :=
  let mx := decide (wFmt w ≠ 0xD)
  let amax := vs.foldl maxMag (.fin false 0 0)
  if vs.any fun v => v.isNaN || v.isInf then (if mx then 255 else 0, vs.map fun _ => 0, Flags.inv)
  else if amax.isZero then (0, vs.map fun _ => 0, Flags.none)
  else if mx then
    let m := floatFmt (wFmt w)
    let emax : Int := if wFmt w = 0xA then 8 else if wFmt w = 0xB then 15 else 2
    let e := max (floorLog2 amax - emax) (-127)
    let cs := vs.map fun v => roundClamp m (scaleX v (-e)) (wRm w)
    ((e + 127).toNat, cs.map (·.1), cs.foldl (fun f p => f ||| p.2) Flags.none)
  else
    let sup := FloatFmt.fp32.decode (wImm w)
    match sup, amax with
    | .fin false sm se, .fin _ am ae =>
      if sm = 0 then (0, (List.range vs.length).map fun i => (Config.freeByte free i).toNat % 16, Flags.inv)
      else match quotFin false am (ae + 8) sm se with
        | .fin _ qm qe =>
          let n := roundIntFin false qm qe .rne
          let sc := (satInt n 1 255).toNat
          (sc, vs.map fun v => qc4Nearest v sc sup,
            if 255 < n then Flags.ovf else if n < 1 then Flags.unf else Flags.none)
        | _ => (0, [], Flags.none)
    | _, _ => (0, (List.range vs.length).map fun i => (Config.freeByte free i).toNat % 16, Flags.inv)

/-- A token that a predicate of zero kept stands among a block's members with this kind. -/
def keptKind : BitVec 5 := 31#5

/-- Replace each member among the buffered tokens by its coded token, in order. -/
def qntEmit (sc : Nat) : List Token → List Nat → List Token
  | [], _ => []
  | t :: r, cs =>
    if t.kind = keptKind then Token.ofData t.data :: qntEmit sc r cs
    else match cs with
      | [] => []
      | c :: cs' => Token.ofData (BitVec.ofNat 32 (sc * 256 + c)) :: qntEmit sc r cs'

/-- The open block is complete: its members leave. -/
def Core.qntFlush (c : Core) (r free : Nat) : Core × Flags :=
  let w := c.word r
  let e := c.est r
  let vs := (e.buf.filter fun t => decide (t.kind ≠ keptKind)).map fun t => FloatFmt.fp32.decode t.data.toNat
  let (sc, cs, f) := qntBlock w free vs
  ((c.setEst r { e with buf := [], n := 0 }).push (elemPlace r) (qntEmit sc e.buf cs), f)

/-- Block size. -/
def qntSize (w : Nat) : Nat := if wFmt w = 0xD then 64 else 32

/-- Firing of QNT: members gather; the block's last, the segment's last or a control token closes the block. -/
def Core.fireQnt (free r : Nat) (c : Core) : FabRes :=
  let w := c.word r
  let x := inPlace r 0
  let e := c.est r
  match (match c.input x with
    | some t => !t.isData && decide (e.buf ≠ []) && decide ((c.queue (elemPlace r)).length < elemRoom w)
    | none => false) with
  | true => let (c1, f) := c.qntFlush r free; .ok c1 f
  | false =>
    let ends := !wSegi w && decide (0 ∈ (segData (c.segs x)).2)
    match c.firing r with
    | .idle => .idle
    | .bad sub => .bad r (wOp w) sub
    | .passed c1 => .ok c1 Flags.none
    | .skipped c1 a =>
      let e1 := c1.est r
      let c2 := if wPmode w = 2 then c1.setEst r { e1 with buf := e1.buf ++ [⟨keptKind, a⟩] } else c1
      if ends then (let (c3, f) := c2.qntFlush r free; .ok c3 f) else .ok c2 Flags.none
    | .fires c1 a _ _ =>
      let e1 := c1.est r
      let c2 := c1.setEst r { e1 with buf := e1.buf ++ [Token.ofData a], n := e1.n + 1 }
      if ends ∨ qntSize w ≤ e1.n + 1 then (let (c3, f) := c2.qntFlush r free; .ok c3 f) else .ok c2 Flags.none

def execQnt (core site : Nat) (s : State) : Host.Outcome State Fault Refusal :=
  .next (if s.hasOp core site [0x41] then
    let s1 := s.fabricAct core (elemPlace site) (Core.fireQnt s.free site)
    { s1 with free := s1.free + 1 } else s)

/-! ## SEGN (R245) -/

/-- SEGN's segment is complete: the corrected prefix, then the buffer. -/
def Core.segnDone (c : Core) (r : Nat) (e : ElemState) : Core :=
  (c.setEst r {}).push (elemPlace r) (Token.prefixOf 0 e.buf.length :: e.buf)

/-- Go on with a segment of which n tokens of p are still to come. -/
def Core.segnOn (c : Core) (r : Nat) (e : ElemState) : Core := if e.n = 0 then c.segnDone r e else c.setEst r e

/-- Firing of SEGN. Data tokens outside any level-0 segment are kept or dropped by their predicates (log 25). -/
def Core.fireSegn (r : Nat) (c : Core) : FabRes :=
  let w := c.word r
  let xa := inPlace r 0
  let xp := inPlace r 1
  let e := c.est r
  let bad : FabRes := .bad r (wOp w) 1
  if elemRoom w ≤ (c.queue (elemPlace r)).length then .idle
  else if wSegi w then
    let c1 := match c.input xp with | some _ => c.pop xp | none => c
    match c.input xa with
    | some t => .ok ((c1.pop xa).push (elemPlace r) [t]) Flags.none
    | none => if (c.input xp).isSome then .ok c1 Flags.none else .idle
  else match c.input xp with
    | none => .idle
    | some p =>
      if p.isData then
        if p.data = 0#32 then
          (if e.busy then .ok ((c.pop xp).segnOn r { e with n := e.n - 1, taken := e.taken + 1 }) Flags.none else .ok (c.pop xp) Flags.none)
        else match c.input xa with
          | none => .idle
          | some t =>
            if !t.isData then bad
            else if !e.busy then .ok (((c.pop xp).pop xa).push (elemPlace r) [t]) Flags.none
            else if 4096 ≤ e.buf.length then .bad r (wOp w) 6
            else .ok (((c.pop xp).pop xa).segnOn r { e with n := e.n - 1, taken := e.taken + 1, buf := e.buf ++ [t] }) Flags.none
      else match c.input xa with
        | none => .idle
        | some t =>
          if t.kind ≠ p.kind ∨ e.busy then bad
          else
            let c1 := (c.pop xp).pop xa
            if p.level? = some 0 then .ok (c1.segnOn r { busy := true, n := p.data.toNat, taken := 1 }) Flags.none
            else .ok (c1.push (elemPlace r) [t]) Flags.none

def execSegn (core site : Nat) (s : State) := siteStep 0x80 Core.fireSegn core site s

/-! ## SMARK (R246) -/

/-- A segment of n members begins: its prefix in native mode; an empty one is whole. -/
def Core.smarkOpen (c : Core) (r n : Nat) : Core :=
  let w := c.word r
  let c1 := c.setEst r { busy := decide (n ≠ 0), n := n }
  if !wSego w then c1.push (elemPlace r) [Token.prefixOf 0 n]
  else if n = 0 then c1.push (elemPlace r) [Token.marker 0] else c1

/-- A member passes; the segment's last ends it. -/
def Core.smarkMember (c : Core) (r : Nat) (t : Token) : Core :=
  let w := c.word r
  let e := c.est r
  let last := decide (e.n ≤ 1)
  (c.setEst r { e with busy := !last, n := e.n - 1 }).push (elemPlace r) (t :: if last && wSego w then [Token.marker 0] else [])

/-- Firing of SMARK (R246): a control token on a or b is a fault (R381). R246 gives IMM no meaning at N = 0; segments that take
no a are the model's there (log 87). -/
def Core.fireSmark (r : Nat) (c : Core) : FabRes :=
  let w := c.word r
  let xa := inPlace r 0
  let xb := inPlace r 1
  let control := fun (t : Option Token) => match t with | some t => !t.isData | none => false
  if elemRoom w ≤ (c.queue (elemPlace r)).length then .idle
  else if control (c.input xa) || (!wImmb w && control (c.input xb)) then .bad r (wOp w) 5
  else if (c.est r).busy then
    match c.input xa with
    | none => .idle
    | some t => .ok ((c.pop xa).smarkMember r t) Flags.none
  else if wImmb w then
    match c.input xa with
    | none => .idle
    | some t =>
      let n := wImm w % 65536
      if n = 0 then .ok (c.smarkOpen r 0) Flags.none else .ok (((c.smarkOpen r n).pop xa).smarkMember r t) Flags.none
  else match c.input xb with
    | none => .idle
    | some t => .ok ((c.pop xb).smarkOpen r t.data.toNat) Flags.none

def execSmark (core site : Nat) (s : State) := siteStep 0x81 Core.fireSmark core site s

/-! ## SCONV (R49, R247) -/

/-- The marker that closes the highest of the levels that end, if any. -/
def closingMarker (zs : List Nat) : List Token :=
  match zs.getLast? with
  | some n => [Token.marker n]
  | none => []

/-- Cut a list at markers of rank l or above, each cut without its marker; what follows the last is a segment too. -/
def cutAt (l : Nat) : List Token → List Token → List (List Token)
  | [], acc => [acc]
  | t :: r, acc => if (t.rank?.getD 0 ≥ l) && t.rank?.isSome then acc :: cutAt l r [] else cutAt l r (acc ++ [t])

/-- A segment of level l in native mode: its prefix, then what it holds (R49). Where a closing marker of rank 1 or more has no
member before it, the spec does not say which of an empty segment and one empty nested segment it stands for; the one empty
nested segment is the model's (log 87). -/
def nativeSeg : Nat → List Token → List Token
  | 0, ts => Token.prefixOf 0 ts.length :: ts
  | l + 1, ts =>
    let parts := cutAt l ts []
    Token.prefixOf (l + 1) parts.length :: parts.flatMap (nativeSeg l)

/-- Firing of SCONV: native to compatible drops prefixes and marks closings; compatible to native buffers each top-level
segment until its closing marker, whose rank gives the level of its outermost prefix (log 23); equal modes pass tokens unchanged. -/
def Core.fireSconv (r : Nat) (c : Core) : FabRes :=
  let w := c.word r
  let x := inPlace r 0
  let e := c.est r
  let top := (Config.sconvTop (BitVec.ofNat 64 w)).val
  c.single r fun t =>
    let c1 := c.pop x
    if wSegi w = wSego w then .ok (c1.push (elemPlace r) [t]) Flags.none
    else if !wSegi w then
      if t.isData then
        let (sg, zs) := segData (c.segs x)
        .ok ((c1.setSegs x sg).push (elemPlace r) (t :: closingMarker zs)) Flags.none
      else match t.level? with
        | some l =>
          let (sg, zs) := segPrefix (c.segs x) l t.data.toNat
          .ok ((c1.setSegs x sg).push (elemPlace r) (closingMarker zs)) Flags.none
        | none => .ok c1 Flags.none
    else match t.rank? with
      | some n =>
        -- a marker of rank 4–7 closes a segment of level 3 (R49)
        if top ≤ Nat.min n 3 then
          .ok ((c1.setEst r {}).push (elemPlace r) (nativeSeg (Nat.min n 3) e.buf)) Flags.none
        else if 4096 ≤ e.buf.length then .bad r (wOp w) 6
        else .ok (c1.setEst r { e with buf := e.buf ++ [t] }) Flags.none
      | none =>
        if 4096 ≤ e.buf.length then .bad r (wOp w) 6
        else .ok (c1.setEst r { e with buf := e.buf ++ [t] }) Flags.none

def execSconv (core site : Nat) (s : State) := siteStep 0x82 Core.fireSconv core site s

/-! ## The Pacer (R51–R53, R63, R248) -/

/-- Sites of an operation. -/
def Core.sitesOf (c : Core) (op : Nat) : List Nat := (c.fab.elems.filter fun e => decide (wOp e.2.toNat = op)).map (·.1)

/-- An LPIN's next token, with room to pass it. -/
def Core.lpReady (c : Core) (r : Nat) : Option Token :=
  if elemRoom (c.word r) ≤ (c.queue (elemPlace r)).length then none else c.input (inPlace r 0)

/-- A token passes an LPIN or LPOUT unchanged. -/
def Core.lpPass (c : Core) (r : Nat) : Core :=
  match c.input (inPlace r 0) with
  | none => c
  | some t => ((c.pop (inPlace r 0)).segSee (inPlace r 0) t).push (elemPlace r) [t]

/-- An iteration can be admitted: a baton is available, none are withheld, and every LPIN holds its next data token. -/
def Core.mayAdmit (c : Core) : Bool :=
  let ins := c.sitesOf 0x90
  decide (c.pacer.flight < c.pacer.k) && !c.pacer.whold && decide (ins ≠ [])
    && ins.all fun r => match c.lpReady r with
      | some t => t.isData
      | none => false

/-- An admission: every LPIN passes its data token in one step, and one baton goes (R51). -/
def Core.letIn (c : Core) : FabRes :=
  if c.mayAdmit then
    let c1 := (c.sitesOf 0x90).foldl Core.lpPass c
    .ok { c1 with pacer := { c1.pacer with flight := c1.pacer.flight + 1, admitted := c1.pacer.admitted + 1 } } Flags.none
  else .idle

/-- The Pacer admits an iteration unless a joined multicast's chunk for it is still to come (R51, R217). -/
def State.pacerAdmit (s : State) (n : Nat) (joined : Bool) : State :=
  if joined then s else s.fabricAct n (elemPlace (((s.core n).sitesOf 0x90).headD 0)) Core.letIn

/-- LPIN passes a control token on its own; a data token passes when its iteration is admitted (R51). -/
def Core.fireLpin (r : Nat) (c : Core) : FabRes :=
  match c.lpReady r with
  | some t => if t.isData then .idle else .ok (c.lpPass r) Flags.none
  | none => .idle

/-- LPOUT passes a token; a data token counts for its iteration, and meets a held anti-token as it leaves (R51, R63). -/
def Core.fireLpout (r : Nat) (c : Core) : FabRes :=
  let i := wImm (c.word r) % 8
  match c.lpReady r with
  | some t =>
    let c1 := if t.isData then { c with pacer := { c.pacer with passed := SMap.put c.pacer.passed i (SMap.get 0 c.pacer.passed i + 1) } }
      else c
    .ok (c1.lpPass r) Flags.none
  | none => .idle

def execLpout (core site : Nat) (s : State) := siteStep 0x91 Core.fireLpout core site s

/-- Every LPOUT has passed a data token for the next iteration to complete. -/
def Core.mayComplete (c : Core) : Bool :=
  let outs := c.sitesOf 0x91
  decide (outs ≠ []) && decide (c.pacer.completed < c.pacer.admitted)
    && outs.all fun r => decide (c.pacer.completed < SMap.get 0 c.pacer.passed (wImm (c.word r) % 8))

/-- ITERATION_COMPLETE: ICTR rises and the baton starts back (R52). -/
def execIterationComplete (core : Nat) (s : State) : Host.Outcome State Fault Refusal :=
  let c := s.core core
  .next (if c.run ≠ .idle ∧ c.mayComplete then
    s.setCore core { c with
      ictr := c.ictr + 1
      pacer := { c.pacer with completed := c.pacer.completed + 1, returning := c.pacer.returning + 1 } }
    else s)

/-- BATON_RETURN: a baton reaches the LPINs; beyond K it is retired (R52). -/
def execBatonReturn (core : Nat) (s : State) : Host.Outcome State Fault Refusal :=
  let c := s.core core
  .next (if c.run ≠ .idle ∧ c.pacer.returning ≠ 0 then
    s.setCore core { c with pacer := { c.pacer with returning := c.pacer.returning - 1, flight := c.pacer.flight - 1 } }
    else s)

end Sys2Proof.Machine
end

