-- ==== Sys2Proof/Machine/Exchange.lean ====
section
/-! DEFINITION. The exchange unit (14_exchange.md, R302–R317; R390–R394, R404, R422, R424): rounds, the arbiter's calendar,
sending, receiving and the end of a round. -/

namespace Sys2Proof.Machine

/-! ## Rounds, arbiters, system time -/

/-- System time, GTC + TKOFF (R14). -/
def State.sysTime (s : State) : Nat := (s.gtc + s.tkoff).toNat

def State.round (s : State) (k gid : Nat) : Round := SMap.get {} (s.ctx k).rounds gid
def State.setRound (s : State) (k gid : Nat) (r : Round) : State :=
  s.updCtx k fun x => { x with rounds := SMap.put x.rounds gid r }
def State.arbiter (s : State) (k gid : Nat) : Arbiter := SMap.get {} (s.ctx k).arbs gid
def State.setArbiter (s : State) (k gid : Nat) (a : Arbiter) : State :=
  s.updCtx k fun x => { x with arbs := SMap.put x.arbs gid a }

/-- Member that hosts the active arbiter, as this device knows it. -/
def State.activeArb (s : State) (row : DemandRow) : Nat :=
  let t := (s.arbiter row.ctx row.gid).takenBy
  if t = 0 then row.arb else t - 1

/-- This device's row for the group, when it hosts the active arbiter. -/
def State.arbiterHere (s : State) (k gid : Nat) : Option DemandRow :=
  match (s.round k gid).row with
  | some r => if s.activeArb r = r.member then some r else none
  | none => none

/-- Send. -/
def State.emit (s : State) (o : Outbound) : State := { s with outbox := s.outbox ++ [o] }
def State.emitAll (s : State) (os : List Outbound) : State := { s with outbox := s.outbox ++ os }

/-- The device of a member of a group (R304). -/
def State.device (s : State) (k gid m : Nat) : Option Nat := (s.round k gid).members[m]?

/-- The members of a group other than one of them. -/
def othersOf (n me : Nat) : List Nat := (List.range n).filter fun m => decide (m ≠ me)

/-- A calendar runs: its last phase has not ended. -/
def State.calRuns (s : State) (k gid : Nat) : Bool :=
  let r := s.round k gid
  decide (r.cal.ticks ≠ []) && decide (s.sysTime < r.cal.ticks.getLastD 0)

/-- A fault record of the exchange unit outside any node. -/
def State.unitReport (s : State) (k cls sub : Nat) (fatal paused : Bool) (addr : Option Nat) (restart : Nat) : State :=
  s.report k ⟨s.gtc, agentWord 9 4 0, 0x3FFF, k, fatal, paused, addr, causeWord false cls (sub * 256), 0, 0xFFFFFFFF, 0, restart, 0, 0⟩

/-- The round is over on this device (R305); late packets are reported once, with their number (R392). -/
def State.closeRound (s : State) (k gid : Nat) : State :=
  let r := s.round k gid
  let granted := r.cal.grants.foldl (fun a g => a + g.bytes) 0
  let s1 := if r.late = 0 then s else s.unitReport k 0xC 0x10 false false none r.late
  s1.setRound k gid { num := r.num + 1, row := r.row, members := r.members, unusedLast := granted - r.sent }

/-! ## The group descriptor (R304, R390) -/

/-- A group descriptor. -/
structure Group where
  gid : Nat
  n : Nat
  self : Nat
  arb : Nat
  stby : Nat
  exp : Nat
  rate : Nat
  membase : Nat
  sltbase : Nat
  guard : Nat
  lead : Nat
deriving DecidableEq, Repr

def Group.of (bs : List Byte) : Group :=
  let f := entryField bs
  ⟨f 0 2, f 2 2, f 4 2, f 6 2, f 8 2, f 0xA 2, f 0xC 4, f 0x10 8, f 0x18 8, f 0x20 4, f 0x24 4⟩

/-- The descriptor is inside R304. -/
def Group.ok (g : Group) : Bool :=
  decide (2 ≤ g.n ∧ g.n ≤ 256) && decide (g.self < g.n) && decide (g.arb < g.n) && decide (g.stby < g.n) && decide (g.arb ≠ g.stby)
    && decide (1 ≤ g.exp ∧ g.exp ≤ 256) && decide (1 ≤ g.rate ∧ g.rate ≤ 1600) && decide (g.guard < 2 ^ 16) && decide (g.lead ≤ 2 ^ 20)

/-! ## Start -/

def Cmd.isExchange (k : Cmd) : Bool := decide (k.opc.toNat / 16 = 8)
/-- n, RS, QF, IBF and RD of an XSEND (R310). -/
def Cmd.sendN (k : Cmd) : Nat := k.c.toNat % 2 ^ 32
def Cmd.rowIn (k : Cmd) : Nat := k.d.toNat % 2 ^ 32
def Cmd.qf (k : Cmd) : Nat := k.w3.toNat / 2 ^ 30
def Cmd.inSize (k : Cmd) : Nat := if k.w3.getLsbD 29 then 2 else 4
def Cmd.rd (k : Cmd) : Bool := k.w3.getLsbD 28

/-- Addresses with their alignment. -/
def Cmd.xAligned (k : Cmd) : List (Nat × Nat) :=
  match k.opc.toNat with
  | 0x80 => [(k.a.toNat, 64), (k.b.toNat, 4)]
  | 0x81 => [(k.a.toNat, 64), (k.b.toNat, 16), (k.e.toNat, 8)]
  | _ => [(k.a.toNat, 64), (k.b.toNat, 64)]

/-- Ranges that may not meet a window of the issuing core (R405); how long a DPOST's row is its group's descriptor tells. -/
def Cmd.xRanges (k : Cmd) : List (Nat × Nat) :=
  match k.opc.toNat with
  | 0x80 => [(k.a.toNat, 64), (k.b.toNat, 4)]
  | 0x81 => [(k.a.toNat, 64), (k.b.toNat, 16 * k.sendN), (k.e.toNat, 8)]
  | _ => [(k.a.toNat, 64), (k.b.toNat, 64)]

/-- RS and n are in range (R310, R390). -/
def Cmd.sendOk (k : Cmd) : Bool :=
  decide (k.c.toNat ≤ 2 ^ 24) && decide (4 ≤ k.d.toNat ∧ k.d.toNat ≤ 2 ^ 20)
    && (decide (k.qf = 0) || decide (k.rowIn % (32 * k.inSize) = 0))

/-- Checks of the registers of an exchange command. -/
def State.xErr (s : State) (k : Cmd) : Option (Nat × Nat × Option Nat) :=
  if k.xAligned.any fun p => decide (2 ^ 56 ≤ p.1) then some (0xC, 2, none)
  else if k.opc = 0x81#8 ∧ !k.sendOk then some (0xC, 2, none)
  else match misaligned k.xAligned with
    | some a => some (0xC, 3, some a)
    | none => (k.xRanges.find? fun p => s.meetsWindow k p.1 p.2).map fun p => (7, 5, some p.1)

/-- The row of a DPOST as it is sent: counts in whole quanta (R306, R391). -/
def Group.row (g : Group) (ctx : Nat) (r : Round) (counts : List Nat) : DemandRow :=
  { ctx := ctx, gid := g.gid, round := r.num, member := g.self, n := g.n, arb := g.arb, stby := g.stby, exp := g.exp
    rate := g.rate, guard := g.guard, lead := g.lead, counts := counts.map fun c => (c + 4095) / 4096 * 4096
    unused := r.unusedLast }

/-! ## The calendar (R307, R308) -/

/-- Insert a nonzero entry (value, source, destination) in descending value, then ascending source and destination. -/
def insertEntry (e : Nat × Nat × Nat) : List (Nat × Nat × Nat) → List (Nat × Nat × Nat)
  | [] => [e]
  | x :: xs =>
    if x.1 < e.1 ∨ (x.1 = e.1 ∧ (e.2.1 < x.2.1 ∨ (e.2.1 = x.2.1 ∧ e.2.2 < x.2.2))) then e :: x :: xs else x :: insertEntry e xs

/-- Nonzero entries of a matrix, in order. -/
def entries (d : List (List Nat)) : List (Nat × Nat × Nat) :=
  ((region d.length d.length).filterMap fun p =>
    let v := (d.getD p.1 []).getD p.2 0
    if v = 0 then none else some (v, p.1, p.2)).foldr insertEntry []

/-- Entries chosen greedily: no two of one source or of one destination. -/
def choose : List (Nat × Nat × Nat) → List (Nat × Nat × Nat) → List (Nat × Nat × Nat)
  | [], acc => acc.reverse
  | e :: es, acc => if acc.any fun x => decide (x.2.1 = e.2.1 ∨ x.2.2 = e.2.2) then choose es acc else choose es (e :: acc)

/-- One phase: its length in quanta and its grants (source, destination, quanta). -/
structure Phase where
  len : Nat
  grants : List (Nat × Nat × Nat)
deriving DecidableEq, Repr

/-- Take the grants of a phase off the matrix. -/
def deduct (d : List (List Nat)) (l : Nat) (ch : List (Nat × Nat × Nat)) : List (List Nat) :=
  (List.range d.length).map fun s => (List.range d.length).map fun t =>
    let v := (d.getD s []).getD t 0
    if ch.any fun x => decide (x.2.1 = s ∧ x.2.2 = t) then v - Nat.min v l else v

/-- Up to `f` phases of a demand matrix, and TRUNC. -/
def decompose : Nat → List (List Nat) → List Phase × Bool
  | 0, d => ([], decide (entries d ≠ []))
  | f + 1, d =>
    match choose (entries d) [] with
    | [] => ([], false)
    | c :: cs =>
      let l := cs.foldl (fun m x => Nat.min m x.1) c.1
      let r := decompose f (deduct d l (c :: cs))
      (⟨l, (c :: cs).map fun x => (x.2.1, x.2.2, Nat.min x.1 l)⟩ :: r.1, r.2)

/-- Start ticks of the phases and the end of the last. -/
def phaseTicks (rate guard : Nat) : Nat → List Phase → List Nat
  | t, [] => [t]
  | t, p :: ps => t :: phaseTicks rate guard (t + (p.len * 4096 + rate - 1) / rate + guard) ps

/-- The matrix of quanta: zero diagonal (R307). -/
def demandMatrix (rows : List DemandRow) (n : Nat) : List (List Nat) :=
  (List.range n).map fun s => (List.range n).map fun t =>
    if s = t then 0
    else (((rows.find? fun r => decide (r.member = s)).map (·.counts)).getD []).getD t 0 / 4096

/-- What the arbiter sends member m. -/
def calendarFor (round t0 rate guard : Nat) (ps : List Phase) (trunc : Bool) (m : Nat) : Calendar :=
  let ticks := phaseTicks rate guard t0 ps
  let num := (List.range ps.length).zip ps
  { round := round, ticks := ticks, trunc := trunc, copyOf := none
    grants := num.flatMap fun p => (p.2.grants.filter fun g => decide (g.1 = m)).map fun g =>
      ⟨p.1, ticks.getD p.1 0, g.2.1, g.2.2 * 4096⟩
    senders := firsts (num.flatMap fun p => (p.2.grants.filter fun g => decide (g.2.1 = m)).map (·.1)) }

/-! ## DPOST completes (R306, R422) -/

/-- The started DPOST of a group. -/
def State.dpostOf (s : State) (k gid : Nat) : Option Cmd :=
  s.cmds.find? fun j => decide (j.opc = 0x80#8) && decide (j.ctx = k) && decide (j.sub = gid) && decide (j.list ≠ [])

/-- One GRANT record for each grant (R416). -/
def State.logGrants (s : State) (k : Nat) (j : Cmd) (num : Nat) : List Grant → State
  | [] => s
  | g :: gs => (s.trace k 12 (agentWord 9 4 0) j.pc.toNat j.soff.toNat
      (match j.core? with | some n => (s.core n).fab.imgId.toNat | none => 0) num
      (g.bytes % 2 ^ 32 * 2 ^ 32 + g.dst % 256 * 2 ^ 16 + g.phase % 512)).logGrants k j num gs

/-- DPOST completes once its grants are here and, in record mode, logged. -/
def State.tryDpost (s : State) (k gid : Nat) : State :=
  let r := s.round k gid
  match s.dpostOf k gid with
  | none => s
  | some j =>
    if r.cal.ticks = [] ∨ !s.traceRoomFor k r.cal.grants.length then s
    else
      let s1 := if s.traceMode k = 1 then s.logGrants k j r.num r.cal.grants else s
      (s1.setRound k gid { s1.round k gid with posted := true }).finishCmd j.id

/-- A device keeps member m's calendar of a round, and those of older rounds no longer. -/
def State.keepCalendar (s : State) (k gid m : Nat) (c : Calendar) : State :=
  let a := s.arbiter k gid
  s.setArbiter k gid { a with
    cals := SMap.put (a.cals.filter fun e => decide (e.2.round = c.round)) m { c with copyOf := none } }

/-- The standby receives its arbiter's copy of a member's calendar: the rows of that round have one (R308). -/
def State.arriveCopy (s : State) (k gid m : Nat) (c : Calendar) : State :=
  if (match (s.round k gid).row with | some w => decide (w.stby = w.member) | none => true) then
    let s1 := s.keepCalendar k gid m c
    let a := s1.arbiter k gid
    s1.setArbiter k gid { a with rows := a.rows.filter fun r => decide (r.round ≠ c.round) }
  else s

/-- A member's grants for its open round arrive. -/
def State.arriveGrants (s : State) (k gid : Nat) (c : Calendar) : State :=
  let r := s.round k gid
  if r.isOpen && decide (r.num = c.round) && decide (r.cal.ticks = []) && decide (c.ticks ≠ []) && (s.dpostOf k gid).isSome then
    let s1 := s.setRound k gid { r with cal := c }
    (match r.row with
      | some w => if w.stby = w.member then s1.keepCalendar k gid w.member c else s1
      | none => s1).tryDpost k gid
  else s

/-- GRANT_SEQUENCE_ARRIVAL: a member's own grants, or at the standby a copy of some member's. -/
def execGrantSequenceArrival (ctx gid : Nat) (cal : Calendar) (s : State) : Host.Outcome State Fault Refusal :=
  .next (match cal.copyOf with
    | none => s.arriveGrants ctx gid cal
    | some m => s.arriveCopy ctx gid m cal)

/-! ## The arbiter (R307, R308, R391, R394) -/

/-- The fields every row must share with the arbiter's own. -/
def sameGroup (a b : DemandRow) : Bool :=
  decide (a.n = b.n ∧ a.arb = b.arb ∧ a.stby = b.stby ∧ a.exp = b.exp ∧ a.rate = b.rate ∧ a.guard = b.guard ∧ a.lead = b.lead)

/-- The standby that the active arbiter of a group still has (R394). -/
def State.standbyOf (s : State) (own : DemandRow) : Option Nat :=
  if (s.arbiter own.ctx own.gid).takenBy = 0 then some own.stby else none

/-- Send the standby a copy (R308). -/
def State.mirror (s : State) (own : DemandRow) (o : Option Nat → Outbound) : State :=
  match s.standbyOf own with
  | some m => s.emit (o (s.device own.ctx own.gid m))
  | none => s

/-- With every row of the round here and alike, the arbiter sends each member its grants. -/
def State.tryCalendar (s : State) (k gid : Nat) : State :=
  match s.arbiterHere k gid with
  | none => s
  | some own =>
    let a := s.arbiter k gid
    let rows := a.rows.filter fun r => decide (r.round = own.round)
    if (rows.all fun r => sameGroup own r) && (List.range own.n).all fun m => rows.any fun r => decide (r.member = m) then
      let d := decompose 512 (demandMatrix rows own.n)
      let cal := calendarFor own.round (s.sysTime + own.lead) own.rate own.guard d.1 d.2
      let cals := (List.range own.n).map fun m => (m, cal m)
      let s1 := (s.setArbiter k gid { a with rows := [], cals := cals }).emitAll
        ((othersOf own.n own.member).map fun m => .grants (s.device k gid m) k m gid (cal m))
      (s1.mirror own fun d => .mirrorCals d k gid (cals.map fun p => { p.2 with copyOf := some p.1 })).arriveGrants k gid (cal own.member)
    else s

/-- The active arbiter of a group on this device, as its own row or, before its first one, another member's row names it. -/
def State.arbiterOf (s : State) (k gid : Nat) : Option DemandRow :=
  match (s.round k gid).row with
  | some _ => s.arbiterHere k gid
  | none => ((s.arbiter k gid).rows.find? fun r => !r.mirror).map fun r => { r with member := s.activeArb r }

/-- A demand row reaches the arbiter, which sends its standby a copy (R308); a row sent again after a takeover may be here
as such a copy, or its round have a calendar that the old arbiter did not deliver to the member (R394; log 82). -/
def State.arriveRow (s : State) (row : DemandRow) : State :=
  let a := s.arbiter row.ctx row.gid
  match (if a.takenBy = row.member + 1 ∨ a.takenBy = 0 ∨ row.mirror then none
      else a.cals.find? fun e => decide (e.1 = row.member) && decide (e.2.round = row.round)) with
  | some e => s.emit (.grants (s.device row.ctx row.gid row.member) row.ctx row.member row.gid e.2)
  | none =>
  if a.rows.any fun r => decide (r.member = row.member ∧ r.round = row.round) then s.tryCalendar row.ctx row.gid
  else
    let s1 := s.setArbiter row.ctx row.gid { a with
      rows := a.rows ++ [row], firstTick := if a.rows = [] then s.gtc else a.firstTick }
    let s2 := match (if row.mirror then none else s1.arbiterOf row.ctx row.gid) with
      | some own => s1.mirror own fun d => .mirrorRow d { row with mirror := true }
      | none => s1
    s2.tryCalendar row.ctx row.gid

/-- DEMAND_ROW_ARRIVAL: at the active arbiter, or as a copy at its standby. -/
def execDemandRowArrival (row : DemandRow) (s : State) : Host.Outcome State Fault Refusal := .next (s.arriveRow row)

/-- Send a row to the active arbiter, on this device or another. -/
def State.postRow (s : State) (row : DemandRow) : State :=
  let s1 := s.emit (.demand (s.device row.ctx row.gid (s.activeArb row)) row)
  if s.activeArb row = row.member then s1.arriveRow row else s1

/-- A DPOST of the group that has no calendar faults (R391). -/
def State.failDpost (s : State) (k gid : Nat) : State :=
  match s.dpostOf k gid with
  | none => s
  | some j => if (s.round k gid).cal.ticks = [] then (s.closeRound k gid).cmdFault j 0x13 none 0 else s

/-- ABANDON_NOTICE. -/
def execAbandonNotice (ctx gid : Nat) (s : State) : Host.Outcome State Fault Refusal := .next (s.failDpost ctx gid)

/-- ROUND_ABANDON: rows that differ from the arbiter's own, or one missing for 2^30 ticks (R391). -/
def execRoundAbandon (ctx gid round : Nat) (s : State) : Host.Outcome State Fault Refusal :=
  .next (match s.arbiterOf ctx gid with
    | none => s
    | some own =>
      let a := s.arbiter ctx gid
      let rows := a.rows.filter fun r => decide (r.round = round)
      let differ := s.arbiterHere ctx gid = some own && decide (own.round = round) && rows.any fun r => !sameGroup own r
      let missing := decide (rows ≠ []) && decide (2 ^ 30 ≤ (s.gtc - a.firstTick).toNat)
      if differ || missing then
        ((s.setArbiter ctx gid { a with rows := a.rows.filter fun r => decide (r.round ≠ round) }).emitAll
          ((othersOf own.n own.member).map fun m => .abandon (s.device ctx gid m) ctx gid m)).failDpost ctx gid
      else s)

/-- ARBITER_ANSWERS_NOTHING: 2^30 ticks after the DPOST started (x0). -/
def execArbiterAnswersNothing (ctx gid : Nat) (s : State) : Host.Outcome State Fault Refusal :=
  .next (match s.dpostOf ctx gid with
    | none => s
    | some j => if 2 ^ 30 ≤ (s.gtc - BitVec.ofNat 64 j.x0).toNat then s.failDpost ctx gid else s)

/-! ## Heartbeats and takeover (R394) -/

/-- The active arbiter sends a heartbeat to its standby, if the group still has one. -/
def State.beat (s : State) (k gid : Nat) : State :=
  match s.arbiterOf k gid with
  | none => s
  | some own =>
    if (s.arbiter k gid).takenBy ≠ 0 then s
    else (s.setArbiter k gid { s.arbiter k gid with lastBeat := s.gtc }).emit (.beat (s.device k gid own.stby) k gid own.stby)

/-- Heartbeats due since the last one: phase starts of the calendar, then one every 2^20 ticks. -/
def State.beatsDue (s : State) (k gid : Nat) : Nat :=
  let r := s.round k gid
  let last := (s.arbiter k gid).lastBeat
  let from_ := (last + s.tkoff).toNat
  let starts := (r.cal.ticks.dropLast.filter fun t => decide (from_ < t ∧ t ≤ s.sysTime)).length
  let idle := Nat.max from_ (r.cal.ticks.getLastD 0)
  starts + (s.sysTime - idle) / 2 ^ 20

/-- HEARTBEAT: the active arbiter sends one while no calendar runs; the standby notes one that arrives. -/
def execHeartbeat (ctx gid : Nat) (s : State) : Host.Outcome State Fault Refusal :=
  .next (match s.arbiterOf ctx gid with
    | some _ => if !s.calRuns ctx gid && decide (1 ≤ s.beatsDue ctx gid) then s.beat ctx gid else s
    | none => match (s.round ctx gid).row with
      | none => s
      | some r => if r.stby = r.member then s.setArbiter ctx gid { s.arbiter ctx gid with lastBeat := s.gtc } else s)

/-- The firmware of a member probes the device of the active arbiter (R303). -/
def State.probeArb (s : State) (k gid : Nat) : State :=
  match (s.round k gid).row with
  | none => s
  | some w =>
    if s.activeArb w = w.member then s
    else (s.setArbiter k gid { s.arbiter k gid with probed := s.gtc }).emit
      (.ask (s.device k gid (s.activeArb w)) k gid (s.gtc + s.tkoff))

/-- Once per second after a group's set-up each member probes again. -/
def State.probeAll (s : State) : State :=
  (List.range 4).foldl (fun s k => ((s.ctx k).rounds.map (·.1)).foldl (fun s gid =>
    if 1000000000 ≤ (s.gtc - (s.arbiter k gid).probed).toNat then s.probeArb k gid else s) s) s

/-- A member learns of a takeover: it reports subcode 0x14, aligns TKOFF to the new arbiter, and resends a row without a
calendar. -/
def State.takeover (s : State) (k gid old new : Nat) : State :=
  let s1 := s.setArbiter k gid { s.arbiter k gid with takenBy := new + 1 }
  let s2 := s1.unitReport k 0xC 0x14 false false none (old % 65536 + new % 65536 * 65536)
  let s3 := s2.probeArb k gid
  let r := s3.round k gid
  match r.row with
  | some row => if r.isOpen && decide (r.cal.ticks = []) && (s3.dpostOf k gid).isSome then s3.postRow row else s3
  | none => s3

/-- TAKEOVER_NOTICE. -/
def execTakeoverNotice (ctx gid old new : Nat) (s : State) : Host.Outcome State Fault Refusal := .next (s.takeover ctx gid old new)

/-- ARBITER_TAKEOVER: the standby, after three missed heartbeats, when no calendar runs. -/
def execArbiterTakeover (ctx gid : Nat) (s : State) : Host.Outcome State Fault Refusal :=
  .next (match (s.round ctx gid).row with
    | none => s
    | some r =>
      if r.stby = r.member ∧ (s.arbiter ctx gid).takenBy = 0 ∧ 3 ≤ s.beatsDue ctx gid ∧ !s.calRuns ctx gid then
        (s.emitAll ((othersOf r.n r.member).map fun m => .takeover (s.device ctx gid m) ctx gid m)).takeover ctx gid r.arb r.member
      else s)

/-- TKOFF_PROBE: the answer to a probe comes back, and system time becomes the arbiter's, half the round trip later than its answer (R303). -/
def execTkoffProbe (remote roundTrip : Word) (s : State) : Host.Outcome State Fault Refusal :=
  .next { s with tkoff := remote + BitVec.ofNat 64 (roundTrip.toNat / 2) - s.gtc }

/-- TIMESTAMPED_PROBE: the arbiter's device answers with its system time (R303). -/
def execTimestampedProbe (member : Nat) (s : State) : Host.Outcome State Fault Refusal :=
  .next (s.emit (.probe member (s.gtc + s.tkoff)))

/-! ## DPOST starts (R306, R424) -/

/-- A phase does not follow the one before. -/
def notAfter (prev : Option Nat) (p : Nat) : Bool := match prev with | some q => decide (p ≤ q) | none => false

/-- The grants of a round in the log, up to the first that does not follow on (R424). -/
def State.loggedGrants (s : State) (k num : Nat) : Nat → Option Nat → State × List Grant
  | 0, _ => (s, [])
  | f + 1, prev =>
    match s.nextLog k 12 fun _ _ => true with
    | none => (s, [])
    | some i =>
      let d := s.logData k i
      let g : Grant := ⟨d.2 % 512, 0, d.2 / 2 ^ 16 % 256, d.2 / 2 ^ 32⟩
      if decide (d.1 ≠ num) || notAfter prev g.phase then (s, [])
      else
        let r := (s.consumeLog k i).loggedGrants k num f (some g.phase)
        (r.1, g :: r.2)

/-- The next GRANT record of a context names a round that this group and every other of the context has passed: no DPOST can use it
(R426). -/
def State.grantForeign (s : State) (k gid num : Nat) : Bool :=
  match s.nextLog k 12 fun _ _ => true with
  | none => false
  | some i =>
    let d := (s.logData k i).1
    decide (d < num) && (s.ctx k).rounds.all fun e => decide (e.1 = gid) || decide (d < e.2.num)

/-- The calendar of logged grants from this round's own T0: a phase lasts as its grant's bytes need. Who sends to this member the
log does not say: the listed ones, of whom the round expects a marker each (R312; log 82). -/
def replayCalendar (num t0 rate guard : Nat) (gs : List Grant) (senders : List Nat) : Calendar :=
  let m := gs.foldl (fun m g => Nat.max m (g.phase + 1)) 0
  let ps := (List.range m).map fun p =>
    Phase.mk (((gs.find? fun g => decide (g.phase = p)).map fun g => g.bytes / 4096).getD 0) []
  let ticks := phaseTicks rate guard t0 ps
  ⟨num, ticks, false, gs.map fun g => { g with start := ticks.getD g.phase 0 }, senders, none⟩

/-- The round opens and the row is posted; in replay the logged grants answer it. The first round of a group sets it up:
system time is aligned to the arbiter's (R303). -/
def State.openRound (s : State) (k : Cmd) (g : Group) (members counts : List Nat) : State :=
  let r := s.round k.ctx g.gid
  let row := g.row k.ctx r counts
  let s1 := (s.updCmd k.id fun j => { j with state := .started, list := [1], sub := g.gid, x0 := s.gtc.toNat }).setRound k.ctx g.gid
    { num := r.num, isOpen := true, row := some row, members := members, unusedLast := r.unusedLast }
  let s1 := if r.row = none then
      (s1.setArbiter k.ctx g.gid { s1.arbiter k.ctx g.gid with lastBeat := s.gtc }).probeArb k.ctx g.gid
    else s1
  if s.traceMode k.ctx ≠ 2 then s1.postRow row
  else if s1.grantForeign k.ctx g.gid r.num then (s1.divergeUnit k.ctx (agentWord 9 4 0)).postRow row
  else
    let l := s1.loggedGrants k.ctx r.num 512 none
    let senders := ((Config.replaySenders s.free).filter fun m => decide (m < g.n ∧ m ≠ g.self)).dedup
    { l.1 with free := l.1.free + 1 }.arriveGrants k.ctx g.gid
      (replayCalendar r.num (s.sysTime + g.lead) g.rate g.guard l.2 senders)

/-! ## Quantise on send (R311) -/

/-- Element format and emax of QF. -/
def qfFormat (qf : Nat) : FloatFmt × Int :=
  if qf = 1 then (.e4m3, 8) else if qf = 2 then (.e5m2, 15) else (.e2m1, 2)

/-- One block: codes, scale, and whether it held a NaN or an infinity. -/
def quantBlock (qf : Nat) (vs : List XR) : List Nat × Nat × Bool :=
  let amax := vs.foldl maxMag (.fin false 0 0)
  if vs.any fun v => v.isNaN || v.isInf then (vs.map fun _ => 0, 255, true)
  else if amax.isZero then (vs.map fun _ => 0, 0, false)
  else
    let (m, emax) := qfFormat qf
    let e := max (floorLog2 amax - emax) (-127)
    (vs.map fun v => (roundClamp m (scaleX v (-e)) .rne).1, (e + 127).toNat, false)

/-- A list cut into runs of 32. -/
def blocksOf {α : Type} : Nat → List α → List (List α)
  | 0, _ => []
  | f + 1, l => if l.isEmpty then [] else l.take 32 :: blocksOf f (l.drop 32)

/-- Two codes a byte, the first in the low half (R70). -/
def packNibbles : List Nat → List Byte
  | a :: b :: r => BitVec.ofNat 8 (a % 16 + b % 16 * 16) :: packNibbles r
  | [a] => [BitVec.ofNat 8 (a % 16)]
  | [] => []

/-- The output row of a source row, and XQNAN. -/
def Cmd.outRow (k : Cmd) (bs : List Byte) : List Byte × Bool :=
  if k.qf = 0 then (bs, false)
  else
    let w := k.inSize
    let m := if w = 2 then FloatFmt.bf16 else FloatFmt.fp32
    let vs := (rowElems w (k.rowIn / w) bs).map m.decode
    let qs := (blocksOf vs.length vs).map (quantBlock k.qf)
    let codes := (qs.map (·.1)).flatten
    ((if k.qf = 3 then packNibbles codes else codes.map (BitVec.ofNat 8)) ++ qs.map fun q => BitVec.ofNat 8 q.2.1,
      qs.any fun q => q.2.2)

/-- RSO. -/
def Cmd.rowOut (k : Cmd) : Nat :=
  if k.qf = 0 then k.rowIn
  else let re := k.rowIn / k.inSize; (if k.qf = 3 then re / 2 else re) + re / 32

/-! ## Sending (R309, R310) -/

/-- Payload of a phase may still be sent: it is more than GUARD ticks before the next phase's start (R309). -/
def State.phaseOpen (s : State) (r : Round) (phase : Nat) : Bool :=
  decide (s.sysTime + (r.row.map (·.guard)).getD 0 < r.cal.ticks.getD (phase + 1) 0)

/-- Bytes of a grant that rows may still take. -/
def State.grantLeft (s : State) (r : Round) (g : Grant) : Nat :=
  if s.phaseOpen r g.phase then g.bytes - SMap.get 0 r.used g.phase else 0

/-- Remaining grant bytes to member m. -/
def State.leftTo (s : State) (r : Round) (m : Nat) : Nat :=
  (r.cal.grants.filter fun g => decide (g.dst = m)).foldl (fun a g => a + s.grantLeft r g) 0

/-- Packets of at most 4,096 bytes. -/
def packetsOf : Nat → Nat → List Byte → List (Nat × List Byte)
  | 0, _, _ => []
  | f + 1, off, bs => if bs.isEmpty then [] else (off, bs.take 4096) :: packetsOf f (off + 4096) (bs.drop 4096)

/-- Spread a row over the grants to member m in phase order. -/
def State.spread (s : State) (k : Cmd) (r : Round) (m slot off : Nat) (bs : List Byte) : List Grant → Round × Nat
  | [] => (r, 0)
  | g :: gs =>
    let here := bs.take (s.grantLeft r g)
    let ps := (packetsOf here.length off here).map fun p =>
      Queued.mk g.phase k.id m ⟨k.ctx, k.sub, r.num, g.phase, k.list.getD 1 0, BitVec.ofNat 64 (slot + p.1), p.2⟩
    let r1 := { r with used := SMap.put r.used g.phase (SMap.get 0 r.used g.phase + here.length), queue := r.queue ++ ps }
    let n := s.spread k r1 m slot (off + here.length) (bs.drop here.length) gs
    (n.1, ps.length + n.2)

/-- Queued packets of a round that are lost: their bytes are not sent, and no acknowledgement of them comes. -/
def Round.lose (r : Round) : List Queued → Round
  | [] => r
  | q :: qs =>
    let n := q.pkt.bytes.length
    Round.lose { r with sent := r.sent - n, sentTo := SMap.put r.sentTo q.dst (SMap.get 0 r.sentTo q.dst - n) } qs

/-- Packets of phases that have begun leave; those whose phase is over for sending are lost to the round, and their bytes are
unused (R309). -/
def State.release (s : State) (k gid : Nat) : State :=
  let r := s.round k gid
  let due := r.queue.filter fun q => decide (q.phase < r.phase)
  let lost := due.filter fun q => !s.phaseOpen r q.phase
  let s1 := (s.setRound k gid ({ r with queue := r.queue.filter fun q => decide (r.phase ≤ q.phase) }.lose lost)).emitAll
    ((due.filter fun q => s.phaseOpen r q.phase).map fun q => .packet (s.device k gid q.dst) q.dst q.cmd q.pkt)
  { s1 with cmds := s1.cmds.map fun j => { j with x1 := j.x1 - (lost.filter fun q => decide (q.cmd = j.id)).length } }

/-- Send a row to member m. -/
def State.sendRow (s : State) (k : Cmd) (m slot : Nat) (bs : List Byte) : State :=
  let r := s.round k.ctx k.sub
  let sp := s.spread k r m slot 0 bs (r.cal.grants.filter fun g => decide (g.dst = m))
  ((s.setRound k.ctx k.sub { sp.1 with
      sentTo := SMap.put r.sentTo m (SMap.get 0 r.sentTo m + bs.length), sent := r.sent + bs.length }).updCmd k.id
    fun j => { j with x1 := j.x1 + sp.2 }).release k.ctx k.sub

/-- The command's turn at the round's grants: the XSENDs of the round that started before it have been through their entries
(R305). -/
def State.sendTurn (s : State) (k : Cmd) : Bool :=
  ((s.round k.ctx k.sub).xsends.takeWhile fun i => decide (i ≠ k.id)).all fun i => match s.cmd? i with
    | some j => decide (j.sendN ≤ j.done)
    | none => true

/-- Outcome of one entry. -/
inductive Entry where
  | skip
  | badEntry
  | done (s : State)
  | mem (s : State) (f : MemFault)
deriving DecidableEq, Repr

/-- Write an entry's DEFER bit back. -/
def State.putDefer (s : State) (k : Cmd) (va dst : Nat) (defer : Bool) : Except MemFault State :=
  s.store k.homeAgent k.hint (va + 8) (leBytes 2 (dst % 2 ^ 15 + defer.toNat * 2 ^ 15))

/-- Entry `done` of an XSEND; `list` holds N, SELF, EXP, SLTBASE and the members with held entries. -/
def State.sendEntry (s : State) (k : Cmd) : Entry :=
  let va := wrapVa ((k.b.toNat : Int) + (16 * k.done : Nat))
  match s.load k.homeAgent k.hint va 16 with
  | .error f => .mem s f
  | .ok (s, bs) =>
    let src := entryField bs 0 8
    let dst := entryField bs 8 2
    let x := entryField bs 10 2
    let m := dst % 256
    if k.rd && !dst.testBit 15 then .skip
    else if k.list.getD 0 0 ≤ m ∨ k.list.getD 2 0 ≤ x ∨ dst / 256 % 128 ≠ 0 then .badEntry
    else
      let self := decide (m = k.list.getD 1 0)
      let r := s.round k.ctx k.sub
      if !self && (decide (m ∈ k.list.drop 4) || decide (s.leftTo r m < k.rowOut)) then
        match s.putDefer k va dst true with
        | .error f => .mem s f
        | .ok s1 => .done (s1.updCmd k.id fun j => { j with list := j.list ++ [m] })
      else match s.loadNat k.homeAgent k.hint (wrapVa ((k.list.getD 3 0 : Int) + (8 * (m * k.list.getD 2 0 + x) : Nat))) 8 with
        | .error f => .mem s f
        | .ok (s, base) =>
          let slot := wrapVa ((base : Int) + (entryField bs 12 4 * k.rowOut : Nat))
          match s.load k.homeAgent k.hint src k.rowIn with
          | .error f => .mem s f
          | .ok (s, row) =>
            let (out, nan) := k.outRow row
            match translateRange (s.pagesFor k.homeAgent) (va + 8) Need.write 2 with
            | .error f => .mem s f
            | .ok _ =>
              match (if self then s.store k.homeAgent k.hint slot out else .ok (s.sendRow k m slot out)) with
              | .error f => .mem s f
              | .ok s1 => match s1.putDefer k va dst false with
                | .error f => .mem s f
                | .ok s2 => .done ((s2.updCtx k.ctx fun c => { c with xqnan := c.xqnan || nan }).updCmd k.id
                    fun j => { j with x0 := j.x0 + 1 })

/-- Up to `f` entries of an XSEND, in list order. -/
def State.sendRun (id : Nat) : Nat → State → State
  | 0, s => s
  | f + 1, s =>
    match s.cmd? id with
    | none => s
    | some k =>
      if !s.runs k ∨ k.sendN ≤ k.done ∨ !s.sendTurn k then s
      else match s.sendEntry k with
        | .skip => State.sendRun id f (s.updCmd id fun j => { j with done := j.done + 1 })
        | .badEntry => s.cmdFault k 7 none k.done
        | .mem s1 e => if e.waits then s else s1.cmdMemFault k e k.done
        | .done s1 => State.sendRun id f (s1.updCmd id fun j => { j with done := j.done + 1 })

/-- XSEND goes through its entries, writes its result word, and completes when every packet is acknowledged. -/
def State.goXsend (s : State) (k : Cmd) : State :=
  let s1 := State.sendRun k.id (k.sendN - k.done) s
  match s1.cmd? k.id with
  | none => s1
  | some j =>
    if j.state ≠ .started ∨ j.done < j.sendN then s1
    else if j.done = j.sendN then
      match s1.store j.homeAgent j.hint j.e.toNat (leBytes 4 j.x0 ++ leBytes 4 (j.list.drop 4).length) with
      | .error f => s1.cmdMemFault j f j.done
      | .ok s2 =>
        if j.x1 = 0 then s2.finishCmd j.id else s2.updCmd j.id fun i => { i with done := i.done + 1 }
    else if j.x1 = 0 then s1.finishCmd j.id else s1

/-- PACKET_ACK_RECEIVE: packets that have left are acknowledged. -/
def execPacketAckReceive (cmd count : Nat) (s : State) : Host.Outcome State Fault Refusal :=
  .next (match s.cmd? cmd with
    | none => s
    | some k =>
      let waiting := ((s.round k.ctx k.sub).queue.filter fun q => decide (q.cmd = cmd)).length
      if k.opc = 0x81#8 ∧ count + waiting ≤ k.x1 then s.updCmd cmd fun j => { j with x1 := j.x1 - count } else s)

/-- UET_RETRANSMIT: a packet that left and was not acknowledged leaves again (R404). -/
def execUetRetransmit (p : Packet) (s : State) : Host.Outcome State Fault Refusal :=
  .next (match s.outbox.find? fun o => (match o with
      | .packet _ _ c q => decide (q = p) && (s.cmd? c).any fun k => decide (0 < k.x1)
      | _ => false) with
    | some o => s.emit o
    | none => s)

/-- PHASE_START: the next phase begins at its tick; what waits for it leaves, and the active arbiter sends a heartbeat. -/
def execPhaseStart (ctx gid : Nat) (s : State) : Host.Outcome State Fault Refusal :=
  let r := s.round ctx gid
  .next (if r.isOpen && r.posted && decide (r.phase + 1 < r.cal.ticks.length) && decide (r.cal.ticks.getD r.phase 0 ≤ s.sysTime) then
      ((s.setRound ctx gid { r with phase := r.phase + 1 }).release ctx gid).beat ctx gid
    else s)

/-- ROUND_END: at the end of the last phase each member granted to gets its marker (R312). -/
def execRoundEnd (ctx gid : Nat) (s : State) : Host.Outcome State Fault Refusal :=
  let r := s.round ctx gid
  .next (if r.isOpen && r.posted && !r.ended && decide (r.phase + 1 = r.cal.ticks.length)
        && decide (r.cal.ticks.getLastD 0 ≤ s.sysTime) then
      (s.setRound ctx gid { r with ended := true }).emitAll ((firsts (r.cal.grants.map (·.dst))).map fun m =>
        .marker (s.device ctx gid m) ctx m gid r.num (SMap.get 0 r.sentTo m))
    else s)

/-! ## Receiving (R312, R392, R404) -/

/-- A packet of a phase taken now is late (R392). -/
def State.isLate (s : State) (r : Round) (phase : Nat) : Bool :=
  let n := r.cal.ticks.length - 1
  let last := r.cal.ticks.getLastD 0
  let dur := last - r.cal.ticks.getD (n - 1) 0
  decide (n ≠ 0) && decide ((if phase + 2 ≤ n then r.cal.ticks.getD (phase + 2) 0 else last + (phase + 2 - n) * dur) < s.sysTime)

/-- A received packet's bytes count for its round. -/
def State.countPacket (s : State) (p : Packet) : State :=
  let r := s.round p.ctx p.gid
  if r.isOpen && decide (r.num = p.round) then
    s.setRound p.ctx p.gid { r with
      recvBy := SMap.put r.recvBy p.src (SMap.get 0 r.recvBy p.src + p.bytes.length), recv := r.recv + p.bytes.length }
  else s

/-- Note a late packet as it is taken. -/
def State.noteLate (s : State) (p : Packet) : State :=
  let r := s.round p.ctx p.gid
  if r.isOpen && decide (r.num = p.round) && s.isLate r p.phase then s.setRound p.ctx p.gid { r with late := r.late + 1 } else s

/-- Write a packet; none when a recoverable fault keeps it. -/
def State.writePacket (s : State) (p : Packet) : Option State × State :=
  match s.store ⟨p.ctx, none, none⟩ 1#2 p.slot.toNat p.bytes with
  | .ok s1 => (some (s1.countPacket p), s)
  | .error f => if f.waits then (none, s) else
    let s1 := s.unitReport p.ctx f.cls f.sub f.fatal (!f.fatal) (some f.addr) 0
    if f.fatal then
      let r := s1.round p.ctx p.gid
      (some ((if r.isOpen && decide (r.num = p.round) then s1.setRound p.ctx p.gid { r with lost := true } else s1).countPacket p), s)
    else (none, s1)

/-- Bytes in the receive-hold buffer of a context. -/
def State.heldBytes (s : State) (k : Nat) : Nat := (s.ctx k).recvHold.foldl (fun a p => a + p.bytes.length) 0

/-- DISPATCH_PACKET_RECEIVE: written and acknowledged, or held where its own slot faults, or left unacknowledged by a full hold
buffer or a channel that is being copied (R404, R409). -/
def State.receive (s : State) (p : Packet) : State :=
  if ((s.ctx p.ctx).recvHold ≠ [] ∧ 2 ^ 26 < s.heldBytes p.ctx + p.bytes.length) ∨ s.rangeCopying p.ctx p.slot.toNat p.bytes.length then s
  else match (s.noteLate p).writePacket p with
    | (some s1, _) => s1.emit (.ack p)
    | (none, s1) => (s1.updCtx p.ctx fun x => { x with recvHold := x.recvHold ++ [p] }).emit (.ack p)

def execDispatchPacketReceive (p : Packet) (s : State) : Host.Outcome State Fault Refusal := .next (s.receive p)

/-- Held packets are written in the order they arrived, until one faults again (R404); as one act of the resumption they pass
through a channel that is being copied (log 52). -/
def State.drainHold (k : Nat) : List Packet → State → State
  | [], s => s.updCtx k fun x => { x with recvHold := [] }
  | p :: ps, s => match s.uncopied.writePacket p with
    | (some s1, _) => State.drainHold k ps { s1 with channels := s.channels }
    | (none, s1) => { s1 with channels := s.channels }.updCtx k fun x => { x with recvHold := p :: ps }

/-- END_OF_ROUND_MARKER. -/
def execEndOfRoundMarker (ctx gid member bytes : Nat) (s : State) : Host.Outcome State Fault Refusal :=
  let r := s.round ctx gid
  .next (if r.isOpen then s.setRound ctx gid { r with markers := SMap.put r.markers member (bytes + 1) } else s)

/-! ## The end of a round (R313, R393) -/

/-- Every expected marker has arrived and every announced byte is written. -/
def State.allReceived (s : State) (k : Nat) (r : Round) (gid : Nat) : Bool :=
  (r.cal.senders.all fun m => decide (1 ≤ SMap.get 0 r.markers m ∧ SMap.get 0 r.markers m - 1 ≤ SMap.get 0 r.recvBy m))
    && (s.ctx k).recvHold.all fun p => !(decide (p.gid = gid) && decide (p.round = r.num))

/-- The round record. -/
def State.roundRecord (s : State) (k : Nat) (r : Round) : List Byte :=
  let granted := r.cal.grants.foldl (fun a g => a + g.bytes) 0
  leBytes 4 r.num ++ leBytes 2 (r.cal.ticks.length - 1) ++ leBytes 1 ((s.ctx k).xqnan.toNat + 2 * r.cal.trunc.toNat) ++ leBytes 1 0
    ++ leBytes 8 r.sent ++ leBytes 8 r.recv ++ leBytes 8 (granted - r.sent) ++ leBytes 8 (r.cal.ticks.headD 0)
    ++ leBytes 8 s.sysTime ++ leBytes 16 0

/-- XWAIT completes when the conditions of R313 hold. -/
def State.goXwait (s : State) (k : Cmd) : State :=
  let r := s.round k.ctx k.sub
  let sending := s.cmds.any fun j => decide (j.opc = 0x81#8) && decide (j.ctx = k.ctx) && decide (j.sub = k.sub) && decide (j.list ≠ [])
  if !r.ended || sending || !s.allReceived k.ctx r k.sub then s
  else match s.store k.homeAgent k.hint k.b.toNat (s.roundRecord k.ctx r) with
    | .error f => s.cmdMemFault k f 0
    | .ok s1 =>
      let s2 := if k.w3.getLsbD 31 then s1.updCtx k.ctx fun x => { x with xqnan := false } else s1
      let s3 := s2.closeRound k.ctx k.sub
      if r.lost then s3.cmdFault k 0x11 none 0 else s3.finishCmd k.id

/-- PEER_LOST: a marker missing 2^30 ticks after the last phase ended faults XWAIT. -/
def execPeerLost (ctx gid : Nat) (s : State) : Host.Outcome State Fault Refusal :=
  let r := s.round ctx gid
  .next (match s.cmds.find? fun j => decide (j.opc = 0x82#8) && decide (j.ctx = ctx) && decide (j.sub = gid) && decide (j.list ≠ []) with
    | none => s
    | some k =>
      if (r.cal.senders.any fun m => decide (SMap.get 0 r.markers m = 0)) && decide (r.cal.ticks.getLastD 0 + 2 ^ 30 ≤ s.sysTime)
      then (s.closeRound ctx gid).cmdFault k 0x12 none 0 else s)

/-! ## Start (R305, R390) -/

/-- Some entry of an XSEND's list has DEFER set; one that cannot be read is left to the run. -/
def State.anyDefer (s : State) (k : Cmd) : Bool :=
  (List.range k.sendN).any fun i =>
    match s.loadNat k.homeAgent k.hint (wrapVa ((k.b.toNat : Int) + (16 * i + 8 : Nat))) 2 with
    | .ok (_, dst) => dst.testBit 15
    | .error _ => true

/-- An XSEND starts in its round; one with nothing to send completes with result word 0 (R316). -/
def State.startXsend (s : State) (k : Cmd) (g : Group) : State :=
  let r := s.round k.ctx g.gid
  let s1 := (s.updCmd k.id fun j => { j with state := .started, sub := g.gid, list := [g.n, g.self, g.exp, g.sltbase] }).setRound
    k.ctx g.gid { r with xsends := r.xsends ++ [k.id] }
  if decide (k.sendN = 0) || (k.rd && !s.anyDefer k) then
    match s1.store k.homeAgent k.hint k.e.toNat (leBytes 8 0) with
    | .error f => s1.cmdMemFault k f 0
    | .ok s2 => s2.finishCmd k.id
  else s1

/-- An exchange command's start: checks, descriptor, and what the form needs of its round (R305). -/
def State.startExchange (s : State) (k : Cmd) : State :=
  match s.xErr k with
  | some (cls, sub, a) => s.cmdFaultAs k k.kind k.loc cls sub .fatal a 0
  | none => if !s.accsDone k then s else match s.load k.homeAgent k.hint k.a.toNat 64 with
    | .error f => s.cmdMemFault k f 0
    | .ok (s1, bs) =>
      let g := Group.of bs
      let r := s1.round k.ctx g.gid
      if !g.ok then s1.cmdFault k 2 none 0
      else if k.opc = 0x80#8 ∧ s1.meetsWindow k k.b.toNat (4 * g.n) then s1.cmdFaultAs k k.kind k.loc 7 5 .fatal (some k.b.toNat) 0
      else match k.opc.toNat with
        | 0x80 =>
          if r.isOpen then s
          else match s1.readRun k g.membase 2 g.n with
            | .error f => s1.cmdMemFault k f 0
            | .ok (s2, members) => match s2.readRun k k.b.toNat 4 g.n with
              | .error f => s2.cmdMemFault k f 0
              | .ok (s3, counts) => s3.openRound k g members counts
        | 0x81 => if !r.isOpen ∨ !r.posted then s else s1.startXsend k g
        | _ =>
          if !r.isOpen ∨ !r.posted then s
          else s1.updCmd k.id fun j => { j with state := .started, sub := g.gid, list := [1] }

/-! ## Issue -/

def execDpost (w : CmdWords) (s : State) := issueCmd 0x80 w s
def execXsend (w : CmdWords) (s : State) := issueCmd 0x81 w s
def execXwait (w : CmdWords) (s : State) := issueCmd 0x82 w s

end Sys2Proof.Machine
end

