-- ==== Sys2Proof/Machine/FabricEvents.lean ====
section
/-! DEFINITION. Fabric events that reach beyond one element: admission (R51, R217), memory-port elements (R242–R244),
router control operators (R45, R239), LUT islands (R65, R66, R249), anti-tokens (R57–R63) and quiescence (R383). -/

namespace Sys2Proof.Machine

/-! ## Admission -/

/-- PACER_ADMIT (R51). -/
def execPacerAdmit (core : Nat) (s : State) : Host.Outcome State Fault Refusal :=
  .next (s.pacerAdmit core (s.batonJoined core (s.core core).pacer.admitted))

/-- LPIN: a control token passes in order; the data token of an admitted iteration passes with its admission, at every
LPIN in the same step (R51, R248). -/
def execLpin (core site : Nat) (s : State) : Host.Outcome State Fault Refusal :=
  .next (if s.hasOp core site [0x90] then
    (match (s.core core).lpReady site with
      | none => s
      | some t => if t.isData then s.pacerAdmit core (s.batonJoined core (s.core core).pacer.admitted)
        else s.fabricAct core (elemPlace site) (Core.fireLpin site))
    else s)

/-! ## Memory-port elements -/

/-- A memory fault of the element at site r, at index i (R403); an access that only waits is made again (R409). -/
def State.elemMemFault (s : State) (n r : Nat) (i : Int) (f : MemFault) : State :=
  if f.waits then s else
  let w := (s.core n).word r
  let s1 := s.coreFault n 1 (wImm w % 16) f.cls (f.sub * 256 + wOp w) (if f.fatal then .fatal else .paused) (some f.addr)
    0xFFFFFFFF (wOp w) ((i % 2 ^ 32).toNat + r * 2 ^ 32)
  if f.fatal then s1 else s1.updCore n fun c => { c with pausedPorts := elemPlace r :: c.pausedPorts }

/-- What a firing's access comes to. -/
inductive MemRes where
  /-- The access waits: it is issued again later (R117, R424). -/
  | wait
  | fault (f : MemFault)
  /-- The state, and the slot its output takes. -/
  | done (s : State) (out : Slot)

/-- The value i as an output token. -/
def indexTok (i : Int) : Slot := .tok (Token.ofData (BitVec.ofInt 32 i))

/-- AMO op of an AMOA (R242). -/
def wAop (w : Nat) : Nat := wImm w / 32 % 16

/-- The firing's access is a release at a wider scope than CORE: an AMOA with .rel or .full, and every PSTA (R127, R242, R243). -/
def wWideRel (w : Nat) : Bool :=
  decide (wImm w / 2 ^ 9 % 4 ≠ 0) && (decide (wOp w = 0x74) || (decide (wOp w = 0x72) && decide (2 ≤ wImm w / 2 ^ 11 % 4)))

/-- Such a release covers every store that the agents of the core see (R125, R142; log 21). -/
def State.settleRelease (s : State) (n w : Nat) : State := if wWideRel w then s.settleAll n else s

/-- PLDA: the word's data, or a place in the slice's deferral table; a full table holds the access (R112, R117). -/
def State.pldaAccess (s : State) (n r va : Nat) : MemRes :=
  match translate (s.pages (s.core n).ctx) va Need.pread with
  | .error f => .fault f
  | .ok pa => match (s.settleShown n pa).homeReads va ((List.range 8).map (pa + ·)) with
    | .error f => .fault f
    | .ok bs =>
      if s.isFull pa then .done s (.tok (Token.ofData (BitVec.ofNat 32 (leNat bs))))
      else if 4096 ≤ s.deferCount (homeSlice pa) then .wait
      else .done { s with
        deferrals := s.deferrals ++ [⟨s.nextDeferral, pa / 8, .plda n r va, none⟩]
        nextDeferral := s.nextDeferral + 1 } (.wait s.nextDeferral)

/-- A PLDA of a resumed core is issued again for the place it holds; it stays to be issued again while its slice refuses
it, and its element pauses on a recoverable fault (R117, R118, R403). -/
def State.pldaAgain (s : State) (n r id va : Nat) : State :=
  if elemPlace r ∈ (s.core n).pausedPorts then s
  else match s.pldaAccess n r va with
    | .wait => s
    | .fault f =>
      s.elemMemFault n r (((va : Int) - ((s.core n).port (wImm ((s.core n).word r) % 16)).desc.base.toNat) / 8) f
    | .done s1 out => s1.updCore n fun c => { c.putSlot r id out with
        again := c.again.filter fun e => decide (e.2.1 ≠ id), drained := false, moved := s.gtc }

/-- Every PLDA listed. -/
def State.pldasAgain (s : State) (n : Nat) : List (Nat × Nat × Nat) → State
  | [] => s
  | (r, id, va) :: l => (s.pldaAgain n r id va).pldasAgain n l

/-- PLD_REISSUE: a PLD whose slice refused it is issued again (R117). -/
def execPldReissue (core acc : Nat) (s : State) : Host.Outcome State Fault Refusal :=
  .next (match (s.core core).again.find? fun e => decide (e.2.1 = acc) with
    | some (r, id, va) => s.pldaAgain core r id va
    | none => s.tryAccess core acc true)

/-- AMOA: the AMO of R179 on 4 bytes at the home slice, in its logged turn (R243, R422, R424). -/
def State.amoaAccess (s : State) (n w va : Nat) (v cmp : BitVec 32) : MemRes :=
  let c := s.core n
  match translateRange (s.pages c.ctx) va Need.rw 4 with
  | .error f => .fault f
  | .ok pas =>
    let pa := pas.headD 0
    let agent := agentWord 1 n (wImm w % 16)
    if !s.amoTurn c.ctx pa agent ∨ (wWideRel w ∧ s.shownWaits n) then .wait
    else match ((s.settleRelease n w).settleShown n pa).homeAmo va pa 4 (wAop w) v.toNat cmp.toNat with
      | .error f => .fault f
      | .ok (s1, old) => .done (s1.amoLog (s.traceMode c.ctx) c.ctx pa agent c.pc.toNat 0xFFFFFFFF c.fab.imgId.toNat)
          (.tok (Token.ofData (BitVec.ofNat 32 old)))

/-- The access of a firing with operands a, v and cmp at index i (R243). -/
def State.elemAccess (s : State) (n r : Nat) (i : Int) (v cmp : BitVec 32) : MemRes :=
  let w := (s.core n).word r
  let x := (s.core n).port (wImm w % 16)
  let at_ := fun (k : Nat) => wrapVa (x.desc.base.toNat + k * i)
  match wOp w with
  | 0x70 => match s.readElem n x i with
    | .error f => .fault f
    | .ok (s1, v) => .done s1 (.tok (Token.ofData v))
  | 0x71 => match s.writeElem n x i v with
    | .error f => .fault f
    | .ok s1 => .done s1 (indexTok i)
  | 0x72 => s.amoaAccess n w (at_ 4) v cmp
  | 0x73 => s.pldaAccess n r (at_ 8 / 8 * 8)
  | _ =>
    let va := at_ 8 / 8 * 8
    match translate (s.pages (s.core n).ctx) va Need.pwrite with
    | .error f => .fault f
    | .ok pa =>
      if wWideRel w ∧ s.shownWaits n then .wait
      else match ((s.settleRelease n w).settleShown n pa).fillWord va pa (v.zeroExtend 64) with
        | .error f => .fault f
        | .ok s1 => .done s1 (indexTok i)

/-- Firing of a memory-port element: behind a PLDA of its own still to be issued again it waits (R117, R244); an exhausted AUTO pattern makes no access (R381); a firing whose predicate is zero
performs none (R241). -/
def State.fireMem (s : State) (n r : Nat) : State :=
  let c := s.core n
  let w := c.word r
  let p := wImm w % 16
  let x := c.port p
  let auto := wAuto w
  if c.run = .idle ∨ elemPlace r ∈ c.pausedPorts ∨ (c.again.any fun e => decide (e.1 = r)) then s
  else match c.firing r with
    | .idle => s
    | .bad sub => s.fabFault n r 0 (wOp w) sub .fatal 0
    | .passed c1 => s.setCore n { c1 with drained := false, moved := s.gtc }
    | .skipped c1 a =>
      if auto ∧ x.ended then s.fabFault n r 0 (wOp w) 4 .fatal 0
      else
        let c2 := if auto then c1.stepAuto p else c1
        s.setCore n { c2.skip r a with drained := false, moved := s.gtc }
    | .fires c1 a b cmp =>
      if auto ∧ x.ended then s.fabFault n r 0 (wOp w) 4 .fatal 0
      else
        let i := if auto then x.off else a.toInt
        match s.elemAccess n r i (if auto then a else b) cmp with
        | .wait => s
        | .fault f => s.elemMemFault n r i f
        | .done s1 out => s1.updCore n fun cNow =>
          -- the access changes banks and published stores only; the inputs taken and the pattern's step are those of c1
          let c2 := { (if auto then c1.stepAuto p else c1) with banks := cNow.banks, accs := cNow.accs, drained := false, moved := s.gtc }
          Core.settle (elemPlace r) settleFuel (c2.setQueue (elemPlace r) (c2.queue (elemPlace r) ++ [out]))

def memStep (op core site : Nat) (s : State) : Host.Outcome State Fault Refusal :=
  .next (if s.hasOp core site [op] then s.fireMem core site else s)

def execLda (core site : Nat) (s : State) := memStep 0x70 core site s
def execSta (core site : Nat) (s : State) := memStep 0x71 core site s
def execAmoa (core site : Nat) (s : State) := memStep 0x72 core site s
def execPlda (core site : Nat) (s : State) := memStep 0x73 core site s
def execPsta (core site : Nat) (s : State) := memStep 0x74 core site s

/-! ## Control operators (R45, R239) -/

/-- An operator's output register is free. -/
def Core.ctlFree (c : Core) (x : Nat) : Bool := decide (c.queue x = [])

/-- An operator acts at a router that hosts it. -/
def ctlStep (op : Nat) (f : Nat → Core → FabRes) (core site : Nat) (s : State) : Host.Outcome State Fault Refusal :=
  .next (if site < 256 ∧ rCtl ((s.core core).route site) = op then s.fabricAct core (ctlT site) (f site) else s)

/-- STEER: data by the predicate, control tokens to both outputs with their match on p discarded. -/
def Core.steer (r : Nat) (c : Core) : FabRes :=
  match c.input (inPlace r 4), c.input (inPlace r 5) with
  | some p, some d =>
    let c1 := (c.pop (inPlace r 4)).pop (inPlace r 5)
    if p.isData != d.isData then .bad r 0 1
    else if d.isData then
      let x := if p.data = 0#32 then ctlF r else ctlT r
      if c.ctlFree x then .ok (c1.push x [d]) Flags.none else .idle
    else if p.kind ≠ d.kind then .bad r 0 1
    else if c.ctlFree (ctlT r) && c.ctlFree (ctlF r) then .ok ((c1.push (ctlT r) [d]).push (ctlF r) [d]) Flags.none
    else .idle
  | _, _ => .idle

def execSteer (core site : Nat) (s : State) := ctlStep 1 Core.steer core site s

/-- An input holds a data token. -/
def heldData : Option Token → Bool
  | some t => t.isData
  | none => false

/-- The input a MERGE takes a data token from by R45's alternation, 0 for a and 1 for b; est.k is 1 after a. -/
def Core.mergeChoice (c : Core) (r : Nat) : Option Nat :=
  match heldData (c.input (inPlace r 4)), heldData (c.input (inPlace r 5)) with
  | true, true => some (if (c.est (1024 + r)).k = 1 then 1 else 0)
  | true, false => some 0
  | false, true => some 1
  | false, false => none

/-- MERGE takes the data token of input i (R45). That a take while only one input holds a token counts in the alternation is the
model's (log 30). -/
def Core.mergeTake (r i : Nat) (c : Core) : FabRes :=
  match c.input (inPlace r (4 + i)) with
  | some t =>
    if c.ctlFree (ctlT r) && t.isData then
      .ok (((c.pop (inPlace r (4 + i))).setEst (1024 + r) { c.est (1024 + r) with k := 1 - i }).push (ctlT r) [t]) Flags.none
    else .idle
  | none => .idle

/-- Both inputs present control tokens: matching ones are taken together. -/
def Core.mergeControl (r : Nat) (c : Core) : FabRes :=
  match c.input (inPlace r 4), c.input (inPlace r 5) with
  | some a, some b =>
    if a.isData ∨ b.isData then .idle
    else if a.kind ≠ b.kind then .bad r 0 1
    else if c.ctlFree (ctlT r) then .ok (((c.pop (inPlace r 4)).pop (inPlace r 5)).push (ctlT r) [a]) Flags.none
    else .idle
  | _, _ => .idle

/-- A MERGE decision in record mode is gathered, 64 to a record (R422). -/
def State.mergeLog (s : State) (n r i : Nat) : State :=
  let c := s.core n
  let e := c.est (1024 + r)
  let k := e.logged + 1
  let bits := e.logBits + i * 2 ^ e.logged
  if k < 64 then s.setCore n (c.setEst (1024 + r) { e with logged := k, logBits := bits })
  else (s.setCore n (c.setEst (1024 + r) { e with logged := 0, logBits := 0 })).trace c.ctx 10 (agentWord 1 n 0) c.pc.toNat
    0xFFFFFFFF c.fab.imgId.toNat (64 * 256 + r) bits

/-- The record of the running fabric load that a MERGE replays next, and its next decision (R424). -/
def State.mergeReplay (s : State) (n r : Nat) : Option (Nat × Nat × Nat) :=
  let c := s.core n
  match s.nextLog c.ctx 10 fun a d => decide (a = agentWord 1 n 0) && decide (d % 256 = r) with
  | none => none
  | some i =>
    if !s.thisLoad c.ctx n i then none
    else
      let (d0, d1) := s.logData c.ctx i
      some (i, d0 / 256 % 256, d1 / 2 ^ (c.est (1024 + r)).replay % 2)

/-- A record of the running load of this core that names a router without a MERGE cannot be used (R426). Where the log holds no
end of the load, such a record may be of a later one. -/
def State.mergeForeign (s : State) (n : Nat) : Bool :=
  let c := s.core n
  s.loadLogged c.ctx n && (match s.nextLog c.ctx 10 fun a d => decide (a = agentWord 1 n 0) && decide (rCtl (c.route (d % 256)) ≠ 2) with
    | some i => s.thisLoad c.ctx n i
    | none => false)

/-- MERGE: in replay the logged input, else R45's choice, gathered in record mode (R45, R239, R422, R424). -/
def State.merge (s : State) (n r : Nat) : State :=
  let c := s.core n
  let mode := s.traceMode c.ctx
  match Core.mergeControl r c with
  | .idle =>
    if mode = 2 ∧ s.mergeForeign n then s.diverge n r
    else match (if mode = 2 then s.mergeReplay n r else none) with
      | some (i, cnt, d) =>
        match Core.mergeTake r d c with
        | .ok _ _ =>
          let s1 := s.fabricAct n (ctlT r) (Core.mergeTake r d)
          let done := (c.est (1024 + r)).replay + 1
          let s2 := s1.updCore n fun c => c.setEst (1024 + r)
            { c.est (1024 + r) with replay := if cnt ≤ done then 0 else done }
          if cnt ≤ done then s2.consumeLog c.ctx i else s2
        | _ => s
      | none => match c.mergeChoice r with
        | none => s
        | some i =>
          match Core.mergeTake r i c with
          | .ok _ _ =>
            if mode = 1 ∧ 63 ≤ (c.est (1024 + r)).logged ∧ !s.traceRoom c.ctx then s
            else
              let s1 := s.fabricAct n (ctlT r) (Core.mergeTake r i)
              if mode = 1 ∧ c.run ≠ .idle then s1.mergeLog n r i else s1
          | _ => s
  | _ => s.fabricAct n (ctlT r) (Core.mergeControl r)

def execMerge (core site : Nat) (s : State) : Host.Outcome State Fault Refusal :=
  .next (if site < 256 ∧ rCtl ((s.core core).route site) = 2 ∧ (s.core core).run ≠ .idle then s.merge core site else s)

/-- CARRY: the initial value, then the back-edge; a control token on b makes the next output initial again. -/
def Core.carry (r : Nat) (c : Core) : FabRes :=
  let w := c.route r
  let e := c.est (1024 + r)
  if !c.ctlFree (ctlT r) then .idle
  else if !e.busy then
    if rIn w 0 = 0 then .ok ((c.setEst (1024 + r) { e with busy := true }).push (ctlT r) [Token.ofData (BitVec.ofNat 32 (rCinit w))]) Flags.none
    else match c.input (inPlace r 4) with
      | none => .idle
      | some t =>
        if !t.isData then .bad r 0 5
        else .ok (((c.pop (inPlace r 4)).setEst (1024 + r) { e with busy := true }).push (ctlT r) [t]) Flags.none
  else match c.input (inPlace r 5) with
    | none => .idle
    | some t =>
      let c1 := c.pop (inPlace r 5)
      .ok ((if t.isData then c1 else c1.setEst (1024 + r) { e with busy := false }).push (ctlT r) [t]) Flags.none

def execCarry (core site : Nat) (s : State) := ctlStep 3 Core.carry core site s

/-- The level or rank of a control token. -/
def Token.order (t : Token) : Option Nat := if t.isData then none else t.level? <|> t.rank?

/-- INVAR: a copy of v for each data token of q; v is taken when it is needed, and released by control tokens of CLVL. -/
def Core.invar (r : Nat) (c : Core) : FabRes :=
  let e := c.est (1024 + r)
  let v := c.input (inPlace r 4)
  if !c.ctlFree (ctlT r) then .idle
  else if (match v with | some t => !t.isData | none => false) then .bad r 0 5
  else match c.input (inPlace r 5) with
    | none => .idle
    | some q =>
      let c1 := c.pop (inPlace r 5)
      if !q.isData then
        .ok ((if q.order = some (rClvl (c.route r)) then c1.setEst (1024 + r) { e with busy := false } else c1).push (ctlT r) [q])
          Flags.none
      else if e.busy then .ok (c1.push (ctlT r) [Token.ofData e.val]) Flags.none
      else match v with
        | none => .idle
        | some t => .ok (((c1.pop (inPlace r 4)).setEst (1024 + r) { e with busy := true, val := t.data }).push (ctlT r)
            [Token.ofData t.data]) Flags.none

def execInvar (core site : Nat) (s : State) := ctlStep 4 Core.invar core site s

/-- DROP: data tokens are discarded, control tokens forwarded. -/
def Core.dropOp (r : Nat) (c : Core) : FabRes :=
  match c.input (inPlace r 4) with
  | none => .idle
  | some t =>
    if t.isData then .ok (c.pop (inPlace r 4)) Flags.none
    else if c.ctlFree (ctlT r) then .ok ((c.pop (inPlace r 4)).push (ctlT r) [t]) Flags.none else .idle

def execDrop (core site : Nat) (s : State) := ctlStep 5 Core.dropOp core site s

/-! ## LUT islands (R65, R66, R163, R249) -/

def Core.cell (c : Core) (n j : Nat) : Nat := (SMap.get 0#64 c.fab.cells (64 * n + j)).toNat
def cellTT (w : Nat) : Nat := w / 2 ^ 48
def cellIn (w k : Nat) : Nat := w / 2 ^ (16 + 8 * k) % 256
def cellSE (w : Nat) : Bool := w.testBit 15
def cellInit (w : Nat) : Bool := w.testBit 14
def cellSite (w : Nat) : Nat := w / 2 ^ 12 % 4
def cellBit (w : Nat) : Nat := w / 2 ^ 7 % 32

/-- The bit an input code names: lanes of the two tokens, cell outputs, constants (R163). That a lane of an input site the
island does not enable reads 0 is the model's (log 89). -/
def cellCode (lanes : Nat) (outs : Nat) (code : Nat) : Bool :=
  if code < 64 then lanes.testBit code else if code < 128 then outs.testBit (code - 64) else decide (code = 0x81)

/-- A cell's truth table at its inputs. -/
def cellEval (lanes outs w : Nat) : Bool :=
  let b := fun k => (cellCode lanes outs (cellIn w k)).toNat * 2 ^ k
  (cellTT w).testBit (b 0 + b 1 + b 2 + b 3)

/-- Outputs of the cells after one pass: state cells deliver their stored bits. -/
def Core.cellPass (c : Core) (n lanes outs : Nat) : Nat :=
  (List.range 64).foldl (fun acc j =>
    let w := c.cell n j
    let v := if cellSE w then SMap.get false c.fab.bits (64 * n + j) else cellEval lanes outs w
    acc + v.toNat * 2 ^ j) 0

/-- Outputs once every path, of at most 8 cells, has settled. -/
def Core.cellOuts (c : Core) (n lanes : Nat) : Nat → Nat → Nat
  | 0, outs => outs
  | f + 1, outs => c.cellOuts n lanes f (c.cellPass n lanes outs)

/-- The token of output site i (R163, R249). That cells which drive one bit are ORed is the model's (log 89). -/
def Core.pack (c : Core) (n i outs : Nat) : Token :=
  Token.ofData (BitVec.ofNat 32 ((List.range 64).foldl (fun acc j =>
    let w := c.cell n j
    if cellSite w = i + 1 ∧ outs.testBit j ∧ !acc.testBit (cellBit w) then acc + 2 ^ cellBit w else acc) 0))

/-- Each state bit takes its truth table's value. -/
def Core.cellStore (c : Core) (n lanes outs : Nat) : Core :=
  { c with fab := { c.fab with bits := (List.range 64).foldl (fun m j =>
      let w := c.cell n j
      if cellSE w then SMap.set false m (64 * n + j) (cellEval lanes outs w) else m) c.fab.bits } }

/-- The initial values of an island's state bits. -/
def Core.cellReset (c : Core) (n : Nat) : Core :=
  { c with fab := { c.fab with bits := (List.range 64).foldl (fun m j =>
      let w := c.cell n j
      SMap.set false m (64 * n + j) (cellSE w && cellInit w)) c.fab.bits } }

/-- Firing of island n: one token from each input site, matched control tokens forwarded to each output site. How many
results an output site holds before the island stops firing R65 does not say: two here, one for each of its clk (log 66). The
lanes of a disabled input site read 0 (log 89). -/
def Core.fireIsland (n : Nat) (c : Core) : FabRes :=
  let w := c.island n
  let ins := [0, 1].filter (islIn w ·)
  let outs := [0, 1].filter (islOut w ·)
  let toks := ins.filterMap fun i => (c.input (islePlace n i)).map fun t => (i, t)
  let x := fun i => elemPlace (islOutRouter w i)
  let popAll := fun (c : Core) => ins.foldl (fun c i => c.pop (islePlace n i)) c
  if ins = [] ∨ toks.length < ins.length then .idle
  else if outs.any fun i => decide (2 ≤ (c.queue (x i)).length) then .idle
  else if toks.all fun p => p.2.isData then
    let zs := ins.map fun i => (segData (c.segs (islePlace n i))).2
    if !(w.testBit 56) && zs.any (fun z => decide (some z ≠ zs.head?)) then .bad (0x100 + n) 0 1
    else
      let c1 := popAll (ins.foldl (fun c i => c.setSegs (islePlace n i) (segData (c.segs (islePlace n i))).1) c)
      let lanes := (toks.map fun p => p.2.data.toNat * 2 ^ (32 * p.1)).sum
      let o := c1.cellOuts n lanes 9 0
      .ok (outs.foldl (fun c i => c.push (x i) [c.pack n i o]) (c1.cellStore n lanes o)) Flags.none
  else match toks with
    | [] => .idle
    | (_, t) :: _ =>
      if toks.any fun p => decide (p.2.kind ≠ t.kind) then .bad (0x100 + n) 0 1
      else
        let c1 := popAll (toks.foldl (fun c p => c.segSee (islePlace n p.1) p.2) c)
        let c2 := if w.testBit 60 ∧ t.order = some (w / 2 ^ 57 % 8) then c1.cellReset n else c1
        .ok (outs.foldl (fun c i => c.push (x i) [t]) c2) Flags.none

/-- An island fires in its mode. -/
def islandStep (mode core island : Nat) (s : State) : Host.Outcome State Fault Refusal :=
  .next (if island < 16 ∧ islMode ((s.core core).island island) = mode then
    s.fabricAct core (islePlace island 0) (Core.fireIsland island) else s)

def execLutn (core island : Nat) (s : State) := islandStep 1 core island s
def execMatchFire (core island : Nat) (s : State) := islandStep 2 core island s

/-! ## Anti-tokens -/

/-- The member core and the output register at the other end of the edge link into place `dst` of core n, where both cores
run and no port takes what leaves there (R40; log 64): that a port shuts out the edge link of its place is the model's (log 88). -/
def State.linkFrom (s : State) (n dst : Nat) : Option (Nat × Nat) :=
  let c := s.core n
  match c.linkEnd ((dst - 4224) / 16) (dst % 16) with
  | none => none
  | some (rank, side, pos) => match c.gang[rank]? with
    | none => none
    | some m =>
      let f := s.core m
      if c.run = .idle ∨ f.run = .idle ∨ (f.portAt side pos 2 4).isSome then none else some (m, outPlace (edgeRouter side pos) side)

/-- A fabric has moved. -/
def State.stir (s : State) (n : Nat) (f : Core → Core) : State :=
  s.updCore n fun c => { f c with drained := false, moved := s.gtc }

/-- A token crosses a gang's edge link into place `dst` of core n, which holds up to 4, or meets an anti-token there
(R40, R58). -/
def State.linkHop (s : State) (n dst : Nat) : State :=
  match s.linkFrom n dst with
  | none => s
  | some (m, x) => match (s.core m).queue x with
    | .tok t :: r =>
      let c := s.core n
      let s1 := s.stir m fun f => (f.setQueue x r).depart x
      if t.isData ∧ c.rev dst ≠ 0 then s1.stir n fun c => c.setRev dst (c.rev dst - 1)
      else if c.room dst ≤ (c.queue dst).length then s
      else s1.stir n fun c => Core.settle dst settleFuel (c.enter dst t)
    | _ => s

/-- An anti-token crosses a gang's edge link from place `dst` of core n, or meets a token there (R57, R58); an output that a
CFG.PATCH switches takes none (R64). -/
def State.linkAnti (s : State) (n dst : Nat) : State :=
  match s.linkFrom n dst with
  | none => s
  | some (m, x) =>
    let f := s.core m
    if (s.core n).rev dst = 0 ∨ s.patched m x then s
    else
      let s1 := s.stir n fun c => c.setRev dst (c.rev dst - 1)
      match f.queue x with
      | .tok t :: r =>
        if t.isData then s1.stir m fun f => (f.setQueue x r).depart x
        else if f.rev x = 0 then s1.stir m fun f => f.setRev x 1 else s
      | _ => if f.rev x = 0 then s1.stir m fun f => f.setRev x 1 else s

/-- A token hops into a place: from its source in the fabric, or over a gang's edge link (R40, R64). -/
def State.hopAct (s : State) (n dst : Nat) : State :=
  if isLink dst then s.linkHop n dst
  else if s.patched n dst then s else s.fabricAct n dst (·.hopStep dst)

/-- ANTI_TOKEN_ARRIVAL: the anti-token in the reverse slot of place `dst` moves to its source (R57–R63); a path that a
CFG.PATCH switches takes none (R64). -/
def execAntiTokenArrival (core dst : Nat) (s : State) : Host.Outcome State Fault Refusal :=
  .next (if isLink dst then s.linkAnti core dst
    else if s.patched core ((s.core core).srcOf dst) then s
    else s.fabricAct core dst (·.antiStep dst))

/-! ## Quiescence (R383) -/

/-- Every place of the fabric that a token can move into. -/
def allDests : List Nat :=
  ((List.range 256).flatMap fun r => placesAt r) ++ (List.range 32).map (4096 + ·) ++ (List.range 16).map sinkPlace

/-- A token can hop into the place, or an anti-token leave it. -/
def State.placeMoves (s : State) (n dst : Nat) : Bool :=
  let c := s.core n
  (!s.patched n dst && (match c.hopStep dst with | .idle => false | _ => true))
    || (!s.patched n (c.srcOf dst) && (match c.antiStep dst with | .idle => false | _ => true))

/-- An act would come to something. -/
def FabRes.moves : FabRes → Bool
  | .idle => false
  | _ => true

/-- The element at a site fires with nothing else changed. -/
def Core.elemMoves (c : Core) (r : Nat) : Bool :=
  let op := wOp (c.word r)
  if op = 0 then false
  else if op = 0x41 then (c.fireQnt 0 r).moves
  else if 0x50 ≤ op ∧ op ≤ 0x54 then (c.fireRed r).moves
  else if op = 0x80 then (c.fireSegn r).moves
  else if op = 0x81 then (c.fireSmark r).moves
  else if op = 0x82 then (c.fireSconv r).moves
  else if op = 0x90 then (c.fireLpin r).moves
  else if op = 0x91 then (c.fireLpout r).moves
  else match c.firing r with
    | .idle => false
    | _ => true

/-- The router operator at a site acts with nothing else changed. -/
def Core.ctlMoves (c : Core) (r : Nat) : Bool :=
  match rCtl (c.route r) with
  | 1 => (c.steer r).moves
  | 2 => (c.mergeChoice r).isSome && c.ctlFree (ctlT r) || (c.mergeControl r).moves
  | 3 => (c.carry r).moves
  | 4 => (c.invar r).moves
  | 5 => (c.dropOp r).moves
  | _ => false

/-- What an element or operator at a site would do with nothing else changed. -/
def Core.siteMoves (c : Core) (r : Nat) : Bool := c.ctlMoves r || c.elemMoves r

/-- A port can move a token. -/
def State.portMoves (s : State) (n p : Nat) : Bool :=
  let c := s.core n
  let x := c.port p
  (decide (x.role = 1) && !x.ended && decide (x.fifo = []) && !(c.pacer.whold && decide (c.pacer.k ≠ 0))
    && (match s.demOf n p with
      | some k => decide (demGate k x ≠ .wait) || decide (x.ctl < x.levels.length) || x.past
      | none => true))
    || (decide (x.role = 2) && !x.ended && decide (x.fifo ≠ []))

/-- A token or an anti-token can cross the edge link into place `dst` of core n. -/
def State.linkMoves (s : State) (n dst : Nat) : Bool :=
  match s.linkFrom n dst with
  | none => false
  | some (m, x) =>
    let c := s.core n
    let f := s.core m
    let anti := decide (c.rev dst ≠ 0) && !s.patched m x
    match f.queue x with
    | .tok t :: _ => (t.isData && decide (c.rev dst ≠ 0)) || decide ((c.queue dst).length < c.room dst) || (anti && decide (f.rev x = 0))
    | _ => anti && decide (f.rev x = 0)

/-- Nothing can cross an edge link of the core's gang. -/
def State.linksStill (s : State) (n : Nat) : Bool :=
  (s.core n).gang.all fun m => (List.range 64).all fun i => !s.linkMoves m (4224 + i)

/-- 4,096 clk of R12 in ticks. -/
def quietTicks : Nat := 1024

/-- Nothing of the fabric can move, nothing is outstanding, nothing is paused, and nothing has moved for 4,096 clk. -/
def State.fabricStill (s : State) (n : Nat) : Bool :=
  let c := s.core n
  decide (c.moved.toNat + quietTicks ≤ s.gtc.toNat) && decide (c.pausedPorts = []) && decide (c.accs = []) && c.fab.q.all (fun e => e.2.all fun q => match q with
      | .tok _ => true
      | .wait _ => false)
    && decide (c.pacer.returning = 0) && !c.mayAdmit && !c.mayComplete
    && (List.range 16).all (fun p => !s.portMoves n p)
    && (List.range 256).all (fun r => !c.siteMoves r)
    && (List.range 16).all (fun i => match c.fireIsland i with | .idle => true | _ => decide (islMode (c.island i) = 0))
    && allDests.all (fun d => !s.placeMoves n d) && s.linksStill n

/-- The core waits for its fabric load to end (R383). -/
def State.waitsFabric (s : State) (n : Nat) : Bool :=
  let c := s.core n
  decide (c.run = .halted) || (match c.cfgBy.bind s.cmd? with
    | some k => decide (k.state ≠ .issued)
    | none => false)

/-- Positions of a port's pattern from its next one on. -/
def Port.positionsLeft (x : Port) : Nat :=
  if x.ended then 0
  else
    let n := fun i => x.desc.cnt.getD i 1
    let total := n 0 * n 1 * n 2 * n 3
    let at_ := x.idx.getD 0 0 + n 0 * (x.idx.getD 1 0 + n 1 * (x.idx.getD 2 0 + n 2 * x.idx.getD 3 0))
    -- a position whose element has moved and whose marker is still due is none of them
    total - at_ - x.past.toNat

/-- Ports whose FIFOs the transition leaves alone: those a CFG.RECONF does not rebind (R203). -/
def State.keptPorts (s : State) (n : Nat) : List Nat :=
  let c := s.core n
  match c.cfgBy.bind s.cmd? with
  | some k => if k.opc = 2#8 then (List.range 16).filter fun p => decide (p ∉ k.list) else []
  | none => []

/-- Tokens of the fabric apart from the ports. -/
def Core.surplusInside (c : Core) : Nat :=
  (c.fab.q.map fun e => e.2.length).sum + (c.fab.est.map fun e => if 1024 ≤ e.1 then 0 else e.2.buf.length).sum

/-- Tokens and positions a port would lose. -/
def Core.surplusPort (c : Core) (p : Nat) (kept : Bool) : Nat :=
  let x := c.port p
  (if kept ∧ (x.role = 3 ∨ x.role = 4) then 0 else x.fifo.length) + (if x.role = 1 ∨ x.role = 2 then x.positionsLeft else 0)

/-- Discard the surplus and end short streams, reporting what no DISC covers (R383). -/
def State.discardSurplus (s : State) (n : Nat) : State :=
  let c := s.core n
  let kept := s.keptPorts n
  let bound := (List.range 16).filter fun p => decide ((c.port p).role ≠ 0)
  let inside := if bound.all fun p => (c.port p).disc then 0 else c.surplusInside
  let ports := (bound.map fun p => if (c.port p).disc then 0 else c.surplusPort p (decide (p ∈ kept))).sum
  let s1 := if inside + ports = 0 then s else s.fabFault n 0xFFFF 0 0 2 .reported (inside + ports)
  let s2 := s1.updCore n fun c => { c with
    drained := true
    fab := { c.fab with q := [], took := [], rev := [], est := c.fab.est.map fun e => (e.1, { e.2 with buf := [] }) }
    ports := c.ports.map fun e => (e.1, { e.2 with
      ended := if e.2.role = 1 ∨ e.2.role = 2 then true else e.2.ended
      fifo := if e.1 ∈ kept ∧ (e.2.role = 3 ∨ e.2.role = 4) then e.2.fifo else [] }) }
  s2.portsDone n

/-- FABRIC_QUIESCENT: after 4,096 clk with no activity the surplus goes and the transition may proceed (R383). -/
def execFabricQuiescent (core : Nat) (s : State) : Host.Outcome State Fault Refusal :=
  .next (if (s.core core).run ≠ .idle ∧ s.waitsFabric core ∧ !(s.core core).drained ∧ s.fabricStill core
    then s.discardSurplus core else s)

end Sys2Proof.Machine
end

