-- ==== Sys2Proof/Machine/Image.lean ====
section
/-! DEFINITION. Save images (15_scheduling.md, R328, R329; R32, R53, R55, R118, R189, R262, R263): where a pre-empted member
stops, what its image holds, and its resumption from the image. -/

namespace Sys2Proof.Machine

/-! ## Where a member stops (R32, R328) -/

/-- Live mask with every register. -/
def allLive : Word := BitVec.ofNat 64 (2 ^ 57 - 1)

/-- The live mask of the point at which a member has stopped, if it stands at one. R185 has a pre-emption wait for the handler's
end and R32, R328 make a paused or halted core's point a safe one; that such a core is saved in handler mode too is the
model's (log 92). -/
def Core.stopLive (c : Core) : Option Word :=
  match c.run with
  | .idle => none
  | .halted => some 0#64
  | .paused => some allLive
  | .running =>
    if c.heldBy ≠ none ∨ c.cfgBy ≠ none then some allLive else c.stopMask

/-- The member stands at a safe point with its fabric load at an iteration boundary. -/
def Core.atStop (c : Core) : Bool := c.stopLive.isSome && c.atBoundary

/-- An outstanding access that nothing holds: no deferral or refusal, no access or PORT.TAKE that comes before it. -/
def State.mayStill (s : State) (n : Nat) (a : Access) : Bool :=
  !a.deferred && !a.refused && (s.core n).mayPerform a && a.takes.all s.cmdDone

/-- The member can be saved: it has stopped; what it has issued before is performed, for the save is a release at DEV scope,
but for accesses that wait for a presence word or a token; and no index command is inside a group (R125, R284, R328). -/
def State.atSave (s : State) (n : Nat) : Bool :=
  (s.core n).atStop && (s.core n).accs.all (fun a => !s.mayStill n a)
    && s.cmds.all fun k => !(decide (k.owner = Owner.core n) && k.onIndex && decide (k.state = .started) && decide (k.x1 = 1))

/-! ## The image (R329) -/

/-- Bytes of one member's image. -/
def imageSize : Nat := 425984

/-- Address of a slot of a context's save area. -/
def State.slotVa (s : State) (k slot : Nat) : Nat := (s.ctx k).saveBase.toNat + imageSize * slot

/-- Wait counters. -/
def Core.counterWord (c : Core) : Nat :=
  c.ldc.toNat + 2 ^ 6 * c.stc.toNat + 2 ^ 12 * c.cpc.toNat + 2 ^ 18 * c.tlc.toNat + 2 ^ 24 * c.btc.toNat

/-- The Pacer state word (R53). -/
def Pacer.word (p : Pacer) : Nat :=
  p.k % 16 + 2 ^ 4 * (p.flight % 16) + 2 ^ 11 * p.whold.toNat
    + (List.range 4).foldl (fun a i => a + 2 ^ (12 + 3 * i) * (SMap.get 0 p.held i % 8)) 0

/-- A tile-table word: the pending producers of a tag, numbered by their places among the incomplete commands. -/
def tagWord (cmds : List Cmd) (tag : Nat) : Nat :=
  let ps := (cmds.zip (List.range cmds.length)).filterMap fun p =>
    if p.1.tag = some (BitVec.ofNat 6 tag) then some (p.2 % 256) else none
  match ps with
  | [] => 0
  | [a] => 2 ^ 8 * a + 1
  | a :: b :: _ => 2 ^ 16 * b + 2 ^ 8 * a + 2

/-- The bytes of a descriptor (R208). -/
def PortDesc.bytes (d : PortDesc) : List Byte :=
  leBytes 8 d.base.toNat ++ d.cnt.flatMap (leBytes 4) ++ d.str.flatMap (fun v => leBytes 4 (v % 2 ^ 32).toNat)
    ++ leBytes 8 d.wbase.toNat ++ leBytes 2 d.wlen.toNat ++ leBytes 14 0

/-- A port's 64 bytes: the binding image with W1 zero, i0–i3, and a part the device lays out. -/
def portImage (c : Core) (free : Nat → Byte) (p : Nat) : List Byte :=
  let x := c.port p
  let w3 := if x.w3 = 0#32 then p * 2 ^ 28 else x.w3.toNat
  leBytes 4 (0xF1000000 + x.hint.toNat * 256) ++ leBytes 4 0 ++ leBytes 4 0 ++ leBytes 4 w3
    ++ x.idx.flatMap (leBytes 4) ++ (List.range 32).map fun i => free (0x620 + 64 * p + i)

/-- An accumulator bank, row by row. -/
def bankImage (c : Core) (b : Nat) : List Byte :=
  (List.range 256).flatMap fun i => (List.range 192).flatMap fun j => leBytes 4 (c.accWord b i j).toNat

/-- The image of a member: `live` the mask of its stop, `prog` the progress words, `free` the bytes the manual leaves
open. -/
def Core.image (c : Core) (cmds : List Cmd) (live : Word) (prog : List Nat) (free : Nat → Byte) : List Byte :=
  let gap := fun (off len : Nat) => (List.range len).map fun i => free (off + i)
  ([c.pc.toNat, c.soff.toNat, c.ictr.toNat, c.pacer.word, c.fstat.toNat, c.epc.toNat, c.causeReg.toNat, live.toNat,
      c.counterWord, c.preds.toNat / 2 * 2 + 1, c.handle, 0].flatMap (leBytes 8))
    ++ ((List.range 7).flatMap fun m => leBytes 32 (c.mask (m + 1)).toNat)
    ++ ((List.range 57).flatMap fun r => if live.getLsbD r then leBytes 8 (c.reg r).toNat else gap (0x140 + 8 * r) 8)
    ++ gap 0x308 0xF8
    ++ ((List.range 64).flatMap fun t => leBytes 8 (tagWord cmds t))
    ++ ((List.range 16).flatMap (portImage c free))
    ++ prog.flatMap (leBytes 8) ++ gap (0xA00 + 8 * prog.length) (256 - 8 * prog.length)
    ++ gap 0xB00 16384
    ++ ((List.range 16).flatMap fun p => (c.port p).desc.bytes)
    ++ gap 0x4F00 12544
    ++ bankImage c 0 ++ bankImage c 1

/-- Progress words of a core: both banks, the write-out path, the assignment engine, then each started GATHER or SCATTER in
issue order, as many as the area holds; the others' progress stands with the saved commands (R329). The order within the area is
the device's (log 42). -/
def State.progWords (s : State) (n : Nat) : List Nat :=
  let mine := s.cmds.filter fun k => decide (k.owner = Owner.core n) && decide (k.state ≠ .issued)
  [s.bankWord n 0, s.bankWord n 1, s.writeOutWord n, (((mine.find? Cmd.isAuc).map Cmd.aucWord).getD 0)]
    ++ ((mine.filter Cmd.grouped).map Cmd.ixWord).take 28

/-! ## Saving a member -/

/-- A command that goes on in its engine while its runner is saved: an exchange command under way, and a GLAUNCH whose
request is made. -/
def Cmd.outlives (k : Cmd) : Bool :=
  decide (k.state ≠ .issued) && ((k.isExchange && decide (k.list ≠ [])) || decide (k.opc = 0x91#8))

/-- A command at its restart point: an integer array operation starts again from its first k-step (R263), an AUC.PRICE from
its beginning (R299), a paused GATHER or SCATTER in its group (R284), and a SEL or AUC waits for its unit again. What it has read
and not yet written, and the mappings it uses, stay (R38, R140, R141). -/
def Cmd.atRest (k : Cmd) : Cmd :=
  let k1 := { k with
    state := if k.state = .paused then (if k.isExchange then .issued else .started) else k.state }
  if k.onArray && decide (k.list ≠ []) && k.tA.isInt then { k1 with done := 0, sub := 0 }
  else if k.isAuc && k.priceOnly then { k1 with list := [], auction := {}, x1 := if k.state = .issued then k.x1 else 2 }
  else if (k.isAuc || k.isSel) && decide (k.state ≠ .issued) then { k1 with x1 := 2 }
  else if k.onIndex && decide (k.x1 = 1) then { k1 with x1 := 2 }
  else k1

/-- The member as it will resume: nothing paused, no stop, its PLDs to be issued again (R118), windows empty. -/
def Core.atRest (c : Core) : Core :=
  { c with
    run := if c.run = .paused then .running else c.run
    preempt := false, stopMask := none, late := 0, pausedPorts := [], cfgBy := none
    pacer := { c.pacer with whold := false }
    flags := 0, lflags := 0
    accs := c.accs.map fun a => { a with deferred := false, refused := false }
    banks := c.banks.map fun e => (e.1, { e.2 with sectors := [] }) }

/-- A CFG.LOAD or CFG.RECONF that has issued and not begun to install counts as not issued (R32). -/
def State.unissueCfg (s : State) (n : Nat) : State :=
  match (s.core n).cfgBy.bind s.cmd? with
  | none => s
  | some k => { s.updCore n (fun c => { c with soff := k.soff, cfgBy := none }) with
      cmds := s.cmds.filter fun j => decide (j.id ≠ k.id) }

/-! ## What has not passed an LPIN (R55; log 63) -/

/-- Places past the LPINs, and those that tokens reach over a gang's edge links, whose ports are another member's. -/
def Core.pastEntry (c : Core) : List Nat :=
  c.reach 2048 (((c.fab.elems.filter fun e => decide (wOp e.2.toNat = 0x90)).map fun e => elemPlace e.1)
    ++ if c.gang.length < 2 then [] else (List.range 64).map (4224 + ·))

/-- A place of an OUT or TAKE port, a FEED FIFO, or one of those: what stands there is kept. -/
def Core.keeps (c : Core) (past : List Nat) (x : Nat) : Bool :=
  decide (x ∈ past) || decide (4160 ≤ x ∧ x < 4176) || isLink x
    || (decide (4192 ≤ x ∧ x < 4208) && decide ((c.port (x - 4192)).role ≠ 1))

/-- Tokens that an element has taken from an input place into state it starts anew without: its buffer, and what a reduction or
SEGN has taken of its open segment. -/
def Core.gathered (c : Core) (x : Nat) : Nat :=
  let r := (x - 2048) / 8
  let op := wOp (c.word r)
  let e := c.est r
  if x < 2048 ∨ 4096 ≤ x ∨ 4 ≤ (x - 2048) % 8 then 0
  else if op / 16 = 5 then e.taken
  else if op = 0x80 then (if x % 8 = 1 then e.taken else if e.busy then 1 + e.buf.length else 0)
  else e.buf.length

/-- The greatest of a list of numbers, 0 of none. -/
def largestOf : List Int → Int
  | [] => 0
  | x :: r => r.foldl max x

/-- An output that holds anti-tokens itself instead of passing them on (R59): every element's or operator's but a crossing
element's. -/
def Core.holdsAnti (c : Core) (x : Nat) : Bool := decide (1024 ≤ x ∧ x < 2048) && !(decide (x < 1280) && crossing (c.word (x - 1024)))

/-- Tokens between a place and where they are kept, less those already counted as gone by the anti-tokens, cancellations and
copies taken on the way; of several branches the greatest, since a fork gives up a token only when every branch has it. -/
def Core.net (c : Core) (past : List Nat) : Nat → Nat → Int
  | 0, _ => 0
  | f + 1, x =>
    if c.keeps past x then 0
    else if 2048 ≤ x ∧ x < 4160 then
      ((c.queue x).length + c.gathered x : Nat) + largestOf ((c.leadsTo x).map (c.net past f))
    else
      let v := ((c.queue x).length : Int) - c.heldAt x
        + largestOf ((c.destsOf x).map fun d => c.net past f d - c.rev d - c.cancels d - (decide (d ∈ c.took x)).toNat)
      if c.holdsAnti x then max v 0 else v

/-- The same of one branch of a source. -/
def Core.branchNet (c : Core) (past : List Nat) (x d : Nat) : Int :=
  c.net past 2048 d - c.rev d - c.cancels d - (decide (d ∈ c.took x)).toNat

/-- The same of all of a source's branches. -/
def Core.branchesNet (c : Core) (past : List Nat) (x : Nat) : Int := largestOf ((c.destsOf x).map (c.branchNet past x))

/-- The index before this one, and whether there is one. -/
def backIdx : List Nat → List Nat → List Nat × Bool
  | i :: is, c :: cs => if 0 < i then ((i - 1) :: is, true) else let (r, e) := backIdx is cs; ((c - 1) :: r, e)
  | _, _ => ([], false)

/-- One token back in a pattern: the inverse of sending one (R209). -/
def Port.back (x : Port) : Port :=
  if x.past then { x with past := false }
  else if 0 < x.ctl then { x with ctl := x.ctl - 1 }
  else
    let (i, e) := backIdx x.idx x.desc.cnt
    if !e && !x.ended then x
    else
      let y := { x with idx := i, ended := false }
      if y.rankDue.isSome then { y with past := true } else { y with ctl := y.levels.length }

/-- One token back for a port that a COPY.DEM feeds: a data token sent again may begin its visit again (R215). -/
def demBack (k : Cmd) (x : Port) : Port :=
  let y := x.back
  if x.past ∨ (x.ctl = 0 ∧ !y.past ∧ y ≠ x) then
    let after := if x.past then x.step else x
    { y with visits := y.visits - ((demVisit k y after).visits - after.visits) }
  else y

/-- An input port once what stands behind it is discarded: back by as many tokens as it has sent beyond those that have passed,
or holding an anti-token for each that is already counted as gone. -/
def State.portBack (s : State) (n p : Nat) (past : List Nat) (x : Port) : Port :=
  let v := (x.fifo.length : Int) - x.held + (s.core n).branchesNet past (feedPlace p)
  let back := match s.demOf n p with
    | some k => demBack k
    | none => Port.back
  { (List.range v.toNat).foldl (fun y _ => back y) x with fifo := [], held := (-v).toNat }

/-- The pattern of an AUTO element's port m firings back, or on (R243). -/
def Port.autoBack (m : Int) (x : Port) : Port :=
  let back := fun (x : Port) =>
    let (i, e) := backIdx x.idx x.desc.cnt
    if !e && !x.ended then x else { x with idx := i, ended := false }
  let on := fun (x : Port) => if x.ended then x else x.step
  (List.range (-m).toNat).foldl (fun x _ => on x) ((List.range m.toNat).foldl (fun x _ => back x) x)

/-- Elements before the LPINs with an AUTO pattern go back with the tokens they have sent. -/
def Core.autosBack (c : Core) (past rs : List Nat) : Core :=
  rs.foldl (fun c' r =>
    let p := wImm (c.word r) % 16
    if wAuto (c.word r) then c'.setPort p ((c'.port p).autoBack (c.net past 2048 (elemPlace r))) else c') c

/-- What a MERGE before the LPINs keeps: its decisions for the log and those it has replayed, without those whose tokens are
discarded (R422, R424, R425). -/
def Core.mergeRest (c : Core) (past : List Nat) (r : Nat) : ElemState :=
  let e := c.est (1024 + r)
  let m := (c.net past 2048 (ctlT r)).toNat
  if rCtl (c.route r) = 2 then
    { logged := e.logged - m, logBits := e.logBits % 2 ^ (e.logged - m), replay := e.replay - m }
  else {}

/-- Anti-tokens that the output x, before the LPINs, still holds. -/
def Core.heldAfter (c : Core) (past : List Nat) (x : Nat) : Nat :=
  if c.holdsAnti x then (-((c.queue x).length - c.heldAt x + c.branchesNet past x)).toNat else 0

/-- Tokens still to come that a branch of a source has had already (R61). A FEED port's tokens do not come again. -/
def Core.cancelsAfter (c : Core) (past : List Nat) (x d : Nat) : Nat :=
  let m := c.branchesNet past x
  ((if 4192 ≤ x ∧ (c.port (x - 4192)).role ≠ 1 then min m 0 else m) - c.branchNet past x d).toNat

/-- Anti-tokens and cancellations before the LPINs, once the tokens there are discarded: each stands where the token it is for
will come from (R55, R60, R346). -/
def Core.antisBack (c : Core) (past : List Nat) : Core :=
  let srcs := ((List.range 2048) ++ (List.range 16).map feedPlace).filter fun x => x ∉ past
  let feeds := (List.range 16).filter fun p => decide ((c.port p).role = 3)
  let c1 := feeds.foldl (fun c' p => c'.setPort p { c'.port p with held := (c.port p).held + (-(c.branchesNet past (feedPlace p))).toNat }) c
  { c1 with fab := { c1.fab with
      rev := c.fab.rev.filter fun e => c.keeps past e.1
      held := (srcs.filter fun x => decide (x < 2048)).foldl (fun m x => SMap.set 0 m x (c.heldAfter past x)) c.fab.held
      cancel := srcs.foldl (fun m x => (c.destsOf x).foldl (fun m d => SMap.set 0 m d (c.cancelsAfter past x d)) m) c.fab.cancel } }

/-- Tokens that have not passed an LPIN are discarded, the IN ports step back by them, and elements and islands before the
LPINs return to their initial state (R55). -/
def State.discardBefore (s : State) (n : Nat) : State :=
  let c := s.core n
  if c.pacer.k = 0 then s
  else
    let past := c.pastEntry
    let before := fun (r : Nat) => decide (elemPlace r ∉ past) && decide (wOp (c.word r) ≠ 0x90)
    let opBefore := fun (r : Nat) => decide (ctlT r ∉ past) && decide (ctlF r ∉ past)
    let islBefore := fun (i : Nat) => decide (islMode (c.island i) ≠ 0)
      && ([0, 1].filter (islOut (c.island i))).all fun k => decide (elemPlace (islOutRouter (c.island i) k) ∉ past)
    let sites := List.range 256
    let c1 := (c.antisBack past).autosBack past (sites.filter before)
    let c2 := { c1 with
      ports := c1.ports.map fun e => if e.2.role = 1 then (e.1, s.portBack n e.1 past e.2) else e
      fab := { c1.fab with
        q := c.fab.q.filter fun e => c.keeps past e.1
        took := c.fab.took.filter fun e => c.keeps past e.1 && !decide (4192 ≤ e.1 ∧ e.1 < 4208)
        est := (sites.filter opBefore).foldl (fun m r => SMap.set {} m (1024 + r) (c.mergeRest past r))
          (c.fab.est.filter fun e => decide (1024 ≤ e.1) || !before e.1)
        seg := c.fab.seg.filter fun e =>
          !(if 4096 ≤ e.1 then islBefore ((e.1 - 4096) / 2)
            else if (e.1 - 2048) % 8 < 4 then before ((e.1 - 2048) / 8) else opBefore ((e.1 - 2048) / 8)) } }
    s.setCore n (((List.range 16).filter islBefore).foldl Core.cellReset c2)

/-- The counts of a feed list without m of one command. -/
def feedLess (id m : Nat) : List (Nat × Nat) → List (Nat × Nat)
  | [] => []
  | (i, k) :: r => if i = id then (i, k - m) :: r else (i, k) :: feedLess id m r

/-- A FIFO without the last m tokens of a command, by what each command has there. -/
def dropFeed (id m : Nat) : List (Nat × Nat) → List Token → List Token
  | [], ts => ts
  | (i, k) :: r, ts => if i = id then ts.take (k - m) ++ ts.drop k else ts.take k ++ dropFeed id m r (ts.drop k)

/-- Tokens of an MM.OUT that stand in its port's FIFO are discarded, and it resumes at token DONE (R263). -/
def State.returnTokens (s : State) (n : Nat) (k : Cmd) : State :=
  let c := s.core n
  let p := k.outPort
  let x := c.port p
  let m := c.outHeld p k.id
  let feeds := (feedsOff (feedsTotal x.feeds - x.fifo.length) x.feeds).2
  if k.opc ≠ 0x46#8 ∨ m = 0 then s
  else (s.setCore n (c.setPort p { x with
      fifo := dropFeed k.id m feeds x.fifo, feeds := feedLess k.id m feeds })).updCmd k.id fun j => { j with x0 := j.x0 - m }

/-- A core's commands go to their restart points. -/
def State.restCmds (s : State) (n : Nat) : State :=
  let mine := s.cmds.filter fun k => decide (k.owner = Owner.core n)
  let s1 := mine.foldl (fun s k => (s.returnIndices k).returnTokens n k) s
  { s1 with cmds := s1.cmds.map fun (k : Cmd) => if k.owner = Owner.core n ∧ !k.outlives then k.atRest else k }

/-! ## Saving -/

/-- Deferrals of a core that have been filled land first (R112, R118). -/
def State.landFilled (s : State) (n : Nat) : State :=
  ((s.deferrals.filter fun d => d.filled.isSome && (match d.who with
    | .pld m _ => decide (m = n)
    | .plda m _ _ => decide (m = n))).map (·.id)).foldl State.landDeferral s

/-- PLDAs of a core that wait for their words, as (site, number, address). -/
def State.pldas (s : State) (n : Nat) : List (Nat × Nat × Nat) :=
  s.deferrals.filterMap fun d => match d.who with
    | .plda m site va => if m = n ∧ .wait d.id ∈ (s.core n).queue (elemPlace site) then some (site, d.id, va) else none
    | .pld _ _ => none

/-- Write a member's image into its slot and put the member aside (R328 step 3, R329). -/
def State.saveMember (s : State) (d e rank n slot : Nat) : Except MemFault State :=
  let live := (s.core n).stopLive.getD 0#64
  let s0 := ((((s.landFilled n).flushCore n).unissueCfg n).discardBefore n).restCmds n
  let c := s0.core n
  let mine := s0.cmds.filter fun k => decide (k.owner = Owner.core n)
  let bs := c.image mine (live ||| c.late) (s0.progWords n) (Config.freeByte s0.free)
  match s0.store ⟨c.ctx, none, none⟩ 1#2 (s0.slotVa c.ctx slot) bs with
  | .error f => .error f
  | .ok s1 =>
    let c1 := c.atRest
    let keep : Saved := ⟨{ c1 with again := c1.again ++ s0.pldas n }, mine.filter (!·.outlives), mine.map (·.id)⟩
    let s2 := { s1.updCtx c.ctx (fun x => { x with slots := SMap.put x.slots slot keep }) with
      free := s1.free + 1
      cmds := s1.cmds.map fun (k : Cmd) =>
        if k.owner = Owner.core n ∧ k.outlives then { k with owner := .node d e, batch := some rank } else k }
    .ok (s2.vacate n)

/-- Every member, in rank order. -/
def State.saveMembers (s : State) (d e : Nat) : Nat → List (Nat × Nat) → Except MemFault State
  | _, [] => .ok s
  | rank, (n, slot) :: r => match s.saveMember d e rank n slot with
    | .error f => .error f
    | .ok s1 => s1.saveMembers d e (rank + 1) r

/-! ## Resuming a member -/

/-- Port p from its part of the image and its descriptor copy; the rest is the device's own. -/
def Port.restored (x : Port) (p : Nat) (bs ds : List Byte) : Port :=
  let f := entryField bs
  let w3 := f 12 4
  { x with
    w0 := BitVec.ofNat 32 (f 0 4 / 256 % 4 * 256), w3 := if w3 = p * 2 ^ 28 then 0 else BitVec.ofNat 32 w3
    idx := [f 16 4, f 20 4, f 24 4, f 28 4], desc := parseDesc ds }

/-- The words of a bank that differ from zero, under the keys of `accKey`. -/
def bankOf (b : Nat) (bs : List Byte) : SMap (BitVec 32) :=
  ((List.range 256).flatMap fun i => (List.range 192).map fun j =>
    (accKey b i j, BitVec.ofNat 32 (entryField bs (4 * (192 * i + j)) 4))).filter fun e => decide (e.2 ≠ 0#32)

/-- The Pacer from its word. -/
def Pacer.restored (p : Pacer) (w : Nat) : Pacer :=
  { p with k := w % 16, flight := w / 2 ^ 4 % 16, whold := false
           held := ((List.range 4).map fun i => (i, w / 2 ^ (12 + 3 * i) % 8)).filter fun e => decide (e.2 ≠ 0) }

/-- A core from its image: what the manual lays out, the rest as the device kept it (R329). -/
def Core.restored (c : Core) (bs : List Byte) : Core :=
  let f := entryField bs
  let w := fun (off : Nat) => BitVec.ofNat 64 (f off 8)
  let counter := fun (k : Nat) => BitVec.ofNat 6 (f 0x40 8 / 2 ^ (6 * k))
  { ((c.setFstat (w 0x20)).raise c.flags) with
    pc := w 0
    soff := BitVec.ofNat 32 (f 8 4)
    ictr := w 0x10
    pacer := c.pacer.restored (f 0x18 8)
    epc := BitVec.ofNat 32 (f 0x28 4)
    hm := (w 0x30).getLsbD 63
    cls := BitVec.ofNat 8 (f 0x32 1)
    code := BitVec.ofNat 16 (f 0x30 2)
    ldc := counter 0
    stc := counter 1
    cpc := counter 2
    tlc := counter 3
    btc := counter 4
    preds := BitVec.ofNat 16 (f 0x48 2 / 2 * 2)
    nodeDie := f 0x50 8 / 4096 % 4
    nodeEntry := f 0x50 8 % 4096
    masks := ((List.range 7).map fun m => (m + 1, BitVec.ofNat 256 (f (0x60 + 32 * m) 32))).filter fun e => decide (e.2 ≠ 0#256)
    regs := ((List.range 57).map fun r => (r, w (0x140 + 8 * r))).filter fun e => decide (e.2 ≠ 0#64)
    ports := ((List.range 16).map fun p =>
      (p, (c.port p).restored p ((bs.drop (0x600 + 64 * p)).take 64) ((bs.drop (0x4B00 + 64 * p)).take 64))).filter
        fun e => decide (e.2 ≠ {})
    mx := { c.mx with
      acc := bankOf 0 (bs.drop 0x8000) ++ bankOf 1 (bs.drop 0x38000)
      rlx0 := (f 0xA00 8).testBit 1
      rlx1 := (f 0xA08 8).testBit 1 } }

/-- The tags of the commands numbered in a tile table (R329). -/
def tagFrom (bs : List Byte) (num : Nat) : Option (BitVec 6) :=
  ((List.range 64).find? fun t =>
    let w := entryField bs (0x400 + 8 * t) 8
    (decide (1 ≤ w % 4) && decide (w / 2 ^ 8 % 256 = num % 256)) || (decide (2 ≤ w % 4) && decide (w / 2 ^ 16 % 256 = num % 256))).map
    (BitVec.ofNat 6)

/-- A started command with the progress its word holds (R262, R284, R299); `ix` is its place among the GATHERs and SCATTERs. -/
def Cmd.fromWord (k : Cmd) (bs : List Byte) (ix : Nat) : Cmd :=
  let w := fun (i : Nat) => entryField bs (0xA00 + 8 * i) 8
  let bank := w k.bank
  let k1 := if k.arm.isSome && (k.onArray || k.onWriteOut) then { k with x1 := bank / 2 ^ 32 % 2 ^ 16 * 16 + k.x1 % 16 } else k
  if k.state = .issued then k
  else if k.onArray then { k1 with done := bank / 4 % 2 ^ 15 }
  else if k.opc = 0x46#8 then { k1 with x0 := w 2 % 2 ^ 16 }
  else if k.onWriteOut then { k1 with done := w 2 % 2 ^ 16 }
  else if k.isAuc && !k.priceOnly then { k with auction := { k.auction with round := w 3 / 2 ^ 16 } }
  else if k.grouped && decide (ix < 28) then { k with done := w (4 + ix) / 2 ^ 32, sub := w (4 + ix) % 2 ^ 13 }
  else k

/-- Saved commands with their tags and progress as the image holds them; `nums` numbers all that were incomplete. -/
def restoreCmds (bs : List Byte) (nums : List Nat) : Nat → List Cmd → List Cmd
  | _, [] => []
  | ix, k :: r =>
    let started := k.grouped && decide (k.state ≠ .issued)
    { k.fromWord bs ix with tag := tagFrom bs (nums.idxOf k.id) } :: restoreCmds bs nums (if started then ix + 1 else ix) r

/-- Insert a command among others by number. -/
def insertCmd (k : Cmd) : List Cmd → List Cmd
  | [] => [k]
  | j :: r => if k.id < j.id then k :: j :: r else j :: insertCmd k r

/-- An access of a resumed core, at the addresses its page maps to now; none while there is no such page (R118, R403). -/
def State.accessAgain (s : State) (n : Nat) (a : Access) : Access :=
  { a with pas := match s.translated n a with
      | .ok pas => pas
      | .error _ => [] }

/-- A BATCH whose commands completed while its runner was saved completes with it (R219). -/
def State.sweepBatches (s : State) (n : Nat) : State :=
  { s with cmds := s.cmds.filter fun j =>
      !(decide (j.owner = Owner.core n) && decide (j.opc = 0x20#8) && j.waits.all s.cmdDone) }

/-- A member resumes on core n from its slot, which becomes free (R32, R329): what waited for presence words is issued again
(R118). -/
def State.resumeMember (s : State) (k d e rank n slot : Nat) (cores : List Nat) : Except MemFault State :=
  match s.load ⟨k, none, none⟩ 1#2 (s.slotVa k slot) imageSize with
  | .error f => .error f
  | .ok (s1, bs) =>
    match (s1.ctx k).slots.find? fun p => decide (p.1 = slot) with
    | none => .ok s1
    | some (_, v) =>
      let c := { v.core.restored bs with gangBase := cores.headD 0 % 16, gang := cores, rank := rank }
      let back := s1.cmds.map fun (j : Cmd) =>
        if j.owner = Owner.node d e ∧ j.batch = some rank then
          { j with owner := .core n, batch := none, tag := tagFrom bs (v.nums.idxOf j.id) } else j
      let mine := (restoreCmds bs v.nums 0 v.cmds).map fun (j : Cmd) => { j with owner := .core n }
      let s2 := { s1.setCore n c with cmds := mine.foldl (fun l j => insertCmd j l) back }
      let s3 := s2.updCore n fun c => { c with accs := c.accs.map (s2.accessAgain n) }
      .ok ((((s3.sweepBatches n).pldasAgain n c.again).portsDone n).freeSlots k [slot])

/-- Every member, in rank order. -/
def State.resumeMembers (s : State) (k d e : Nat) (cores : List Nat) : Nat → List (Nat × Nat) → Except MemFault State
  | _, [] => .ok s
  | rank, (n, slot) :: r => match s.resumeMember k d e rank n slot cores with
    | .error f => .error f
    | .ok s1 => s1.resumeMembers k d e cores (rank + 1) r

end Sys2Proof.Machine
end

