-- ==== Sys2Proof/Machine/Record.lean ====
section
/-! DEFINITION. Configuration records and images: their layout (R20, R160–R164, R204), the checks made before anything is
installed (R375, R380), and their installation (R21, R203). -/

namespace Sys2Proof.Machine

/-- Why a record cannot be installed. -/
inductive RecErr where
  | mem (f : MemFault)
  /-- A configuration fault: subcode, element opcode, address of the word, RESTART (R380). -/
  | cfg (sub op addr restart : Nat)
  /-- A window overlap at an address (R405). -/
  | window (addr : Nat)
deriving DecidableEq, Repr

/-- Consecutive little-endian values of `n` bytes. -/
def chunks (n : Nat) : Nat → List Byte → List Nat
  | 0, _ => []
  | k + 1, bs => leNat (bs.take n) :: chunks n k (bs.drop n)

/-- Number a list of 64-bit words from `i`, leaving out zeros. -/
def wordMap (i : Nat) : List Nat → SMap (BitVec 64)
  | [] => []
  | w :: r => if w = 0 then wordMap (i + 1) r else (i, BitVec.ofNat 64 w) :: wordMap (i + 1) r

/-! ## The header (R20, R375) -/

/-- A field of the header. -/
def hdrField (bs : List Byte) (off n : Nat) : Nat := leNat ((bs.drop off).take n)

/-- Header faults: FORM, offsets and counts, then reserved fields. -/
def headerErr (va : Nat) (bs : List Byte) : Option RecErr :=
  let f := hdrField bs
  let bad := fun (sub off : Nat) => some (RecErr.cfg sub 0 (va + off) 0xFFFF)
  if f 0 4 ≠ 1 then bad 1 0
  else if f 4 4 % 64 ≠ 0 then bad 1 4
  else if f 0xC 4 % 16 ≠ 0 then bad 1 0xC
  else if 16 < f 0x10 2 then bad 1 0x10
  else if f 0x14 4 % 16 ≠ 0 then bad 1 0x14
  else if 4096 < f 0x1C 2 then bad 1 0x1C
  else if f 0x20 4 % 8 ≠ 0 then bad 1 0x20
  else if f 0x12 1 / 16 ≠ 0 ∨ f 0x13 1 ≠ 0 then bad 0xA 0x10
  else if f 0x1E 2 ≠ 0 then bad 0xA 0x1C
  else if f 0x24 4 ≠ 0 then bad 0xA 0x24
  else match (List.range 4).find? fun i => decide (f (0x30 + 4 * i) 4 ≠ 0) with
    | some i => bad 0xA (0x30 + 4 * i)
    | none => none

/-! ## The binding table (R204) -/

/-- The first word of an entry that is not as R204 says, as its offset: W0, then W2, then W3 (its role and its SEGL among them). -/
def entryBad (w0 w2 w3 : Nat) : Option Nat :=
  if w0 / 2 ^ 28 ≠ 0xF ∨ w0 / 2 ^ 20 % 256 ≠ 0x10 ∨ w0 &&& 0x3CF ≠ 0 then some 0
  else if w2 ≠ 0 then some 8
  else if w3 % 2 ^ 11 ≠ 0 ∨ bindRole (BitVec.ofNat 32 w3) = 7 ∨ 4 < w3 / 2 ^ 18 % 8 then some 0xC
  else none

/-- The first field of a descriptor that is not as R208 says for an element size, as its offset: BASE, WBASE, WLEN. -/
def descBad (esz : Nat) (d : PortDesc) : Option Nat :=
  if eszBytes esz ≠ 0 ∧ d.base.toNat % eszBytes esz ≠ 0 then some 0
  else if d.wlen ≠ 0#16 ∧ d.wbase.toNat % 1024 ≠ 0 then some 0x28
  else if 128 < d.wlen.toNat then some 0x30
  else none

/-- Check and read the entry at `va` of the record at `base`. -/
def State.readEntry (s : State) (k base va : Nat) (bs : List Byte) : Except RecErr BindEntry :=
  let w := chunks 4 4 bs
  let w3 := w.getD 3 0
  let b3 := BitVec.ofNat 32 w3
  match entryBad (w.getD 0 0) (w.getD 2 0) w3 with
  | some off => .error (.cfg 0xB 0 (va + off) 0xFFFF)
  | none =>
    if bindRole b3 = 0 then .ok ⟨w3 / 2 ^ 28, b3, {}⟩
    else
      let a := ((base : Int) + sx (w.getD 1 0) 32) % 2 ^ 64 |>.toNat
      if a % 64 ≠ 0 ∨ 2 ^ 56 ≤ a then .error (.cfg 0xB 0 (va + 4) 0xFFFF)
      else match s.load ⟨k, none, none⟩ 1#2 a 64 with
        | .error f => .error (.mem f)
        | .ok (_, ds) =>
          let d := parseDesc ds
          match descBad (w3 / 2 ^ 23 % 4) d with
          | some off => .error (.cfg 0xB 0 (a + off) 0xFFFF)
          | none => .ok ⟨w3 / 2 ^ 28, b3, d⟩

/-- Every entry of a table, in order. -/
def State.readEntries (s : State) (k base va : Nat) : Nat → List Byte → Except RecErr (List BindEntry)
  | 0, _ => .ok []
  | n + 1, bs => match s.readEntry k base va (bs.take 16) with
    | .error e => .error e
    | .ok x => match s.readEntries k base (va + 16) n (bs.drop 16) with
      | .error e => .error e
      | .ok xs => .ok (x :: xs)

/-! ## Element words (R161, R164, R231, R252) -/

/-- Cells of R164 that hold an operation. -/
def opExists (op : Nat) : Bool :=
  decide (op ≤ 0x16) || decide (0x18 ≤ op ∧ op ≤ 0x1D) || decide (0x20 ≤ op ∧ op ≤ 0x2B) || decide (0x30 ≤ op ∧ op ≤ 0x33)
    || decide (0x40 ≤ op ∧ op ≤ 0x42) || decide (0x50 ≤ op ∧ op ≤ 0x54) || decide (0x60 ≤ op ∧ op ≤ 0x62)
    || decide (0x70 ≤ op ∧ op ≤ 0x74) || decide (0x80 ≤ op ∧ op ≤ 0x82) || decide (0x90 ≤ op ∧ op ≤ 0x91)

/-- Format codes an operation's row accepts (R231); 0xD is a format of QNT and DQN only (R67), so no operation whose row says
that FMT has no part in it takes it either (log 67). -/
def fmtOk (op fmt : Nat) : Bool :=
  if fmt ≥ 0xE ∨ (fmt = 0xD ∧ op ≠ 0x41 ∧ op ≠ 0x42) then false
  else if op = 0 ∨ 0x80 ≤ op then true
  else if op = 0x04 ∨ op = 0x16 ∨ op = 0x60 ∨ (0x50 ≤ op ∧ op ≤ 0x54) then decide (fmt ≤ 9)
  else if op = 0x18 then decide (fmt = 4 ∨ fmt = 5)
  else if op = 0x19 then decide (fmt = 2 ∨ fmt = 3)
  else if op < 0x20 ∨ op = 0x61 ∨ op = 0x62 then decide (fmt ≤ 6)
  else if op < 0x40 then isFloat fmt
  else if op = 0x40 then decide (fmt ≤ 0xC)
  else if op = 0x41 ∨ op = 0x42 then decide (0xA ≤ fmt ∧ fmt ≤ 0xD)
  else decide (fmt = 0)
where
  /-- FP32, FP16, BF16. -/
  isFloat (fmt : Nat) : Bool := decide (7 ≤ fmt ∧ fmt ≤ 9)

/-- Operations that accept E (R56). -/
def eOk (op fmt : Nat) : Bool := decide (0x60 ≤ op ∧ op ≤ 0x62) || (decide (op = 0x03) && decide (fmt ≤ 6))

/-- Operations that accept IMMB: they take input b and give IMM no other meaning, and SMARK (R230). -/
def immbOk (op : Nat) : Bool := (opHasB op && decide (op < 0x70)) || decide (op = 0x81)

/-- Operations that accept a predicate (R241). -/
def predOk (op : Nat) : Bool := (decide (1 ≤ op) && decide (op < 0x50)) || isMemOp op

/-- IMM fields that R235–R247 require to be zero (R380). -/
def immZeroOk (w : Nat) : Bool :=
  let op := wOp w
  let imm := wImm w
  if op = 0x40 ∨ (0x50 ≤ op ∧ op ≤ 0x54) then decide (imm / 16 = 0)
  else if isMemOp op then decide (imm / 2 ^ 13 = 0)
  else if op = 0x80 ∨ op = 0x82 ∨ (op = 0x41 ∧ wFmt w ≠ 0xD) then decide (imm = 0)
  else true

/-- The fault of an element word by itself. -/
def elemErr (w : Nat) : Option Nat :=
  let op := wOp w
  let fmt := wFmt w
  if !opExists op then some 2
  else if wE w ∧ op = 0x03 ∧ 7 ≤ fmt ∧ fmt ≤ 9 then some 4
  else if !fmtOk op fmt then some 3
  else if op = 0x40 ∧ 0xC < wImm w % 16 then some 3
  else if wE w && !eOk op fmt then some 4
  else if (wImmb w && !immbOk op) || decide (wPmode w = 3) || (decide (wPmode w ≠ 0) && !predOk op) then some 5
  else if wSegi w ≠ wSego w ∧ op ≠ 0x82 then some 6
  else if (decide (0x72 ≤ op ∧ op ≤ 0x74) && w.testBit 4) || (decide (op = 0x72) && decide (10 ≤ wAop w)) then some 7
  else if w.testBit 48 || w.testBit 35 || w.testBit 34 || !immZeroOk w then some 0xA
  else none
where
  /-- AOP of an AMOA (R242). -/
  wAop (w : Nat) : Nat := w / 32 % 16

/-- The first fault among element words in site order, at the address of its word. -/
def elemsErr (va i : Nat) : List Nat → Option RecErr
  | [] => none
  | w :: r => match elemErr w with
    | some sub => some (.cfg sub (wOp w) (va + 8 * i) i)
    | none => elemsErr va (i + 1) r

/-- Memory-port elements: the port bound ELEM, and named once. -/
def portElemsErr (va : Nat) (elem : Nat → Bool) (i : Nat) (seen : List Nat) : List Nat → Option RecErr
  | [] => none
  | w :: r =>
    let p := wImm w % 16
    if isMemOp (wOp w) then
      if !elem p ∨ p ∈ seen then some (.cfg 7 (wOp w) (va + 8 * i) i) else portElemsErr va elem (i + 1) (p :: seen) r
    else portElemsErr va elem (i + 1) seen r

/-- LPIN and LPOUT elements: indices apart and within R51. -/
def lpIndexErr (va i : Nat) (ins outs : List Nat) : List Nat → Option RecErr
  | [] => none
  | w :: r =>
    let k := wImm w % 8
    if wOp w = 0x90 then
      if k ∈ ins then some (.cfg 8 0x90 (va + 8 * i) i) else lpIndexErr va (i + 1) (k :: ins) outs r
    else if wOp w = 0x91 then
      if k ∈ outs ∨ 4 ≤ k then some (.cfg 8 0x91 (va + 8 * i) i) else lpIndexErr va (i + 1) ins (k :: outs) r
    else lpIndexErr va (i + 1) ins outs r

/-- LPINs without LPOUTs, LPOUTs without LPINs, or either against PACE (R51). -/
def lpPaceErr (va pace : Nat) (ws : List Nat) : Option RecErr :=
  let i := ws.any fun w => decide (wOp w = 0x90)
  let o := ws.any fun w => decide (wOp w = 0x91)
  if i != o || (i != decide (pace ≠ 0)) then some (.cfg 8 0 (va + 0x10) 0xFFFF) else none

/-! ## Routing words (R162) -/

/-- The fault of a routing word by itself. -/
def routeErr (w : Nat) : Option Nat :=
  if 6 ≤ rCtl w ∨ 6 ≤ rIn w 0 ∨ 6 ≤ rIn w 1 then some 2 else if w / 2 ^ 32 % 256 ≠ 0 then some 0xA else none

def routesErr (va i : Nat) : List Nat → Option RecErr
  | [] => none
  | w :: r => match routeErr w with
    | some sub => some (.cfg sub 0 (va + 8 * i) i)
    | none => routesErr va (i + 1) r

/-- The router output an output takes its token from, when its source is an inbound link inside the array. -/
def chainStep (route : Nat → Nat) (x : Nat) : Option Nat :=
  let r := x / 4
  match rOut (route r) (x % 4) with
  | 1 => (neighbour r 0).map fun q => outPlace q 2
  | 2 => (neighbour r 1).map fun q => outPlace q 3
  | 3 => (neighbour r 2).map fun q => outPlace q 0
  | 4 => (neighbour r 3).map fun q => outPlace q 1
  | _ => none

/-- The chain from `at_` leads back to `x` within the fuel. -/
def chainsBack (route : Nat → Nat) (x : Nat) : Nat → Nat → Bool
  | 0, _ => false
  | f + 1, at_ => match chainStep route at_ with
    | none => false
    | some y => decide (y = x) || chainsBack route x f y

/-- A router output that lies on a routing cycle. -/
def routingCycle (route : Nat → Nat) : Option Nat := (List.range 1024).find? fun x => chainsBack route x 1024 x

/-! ## Islands (R163, R249) -/

/-- The fault of a cell word by itself. -/
def cellErr (lutn : Bool) (w : Nat) : Option Nat :=
  if (List.range 4).any fun k => decide (0x81 < w / 2 ^ (16 + 8 * k) % 256) then some 2
  else if w / 2 ^ 12 % 4 = 3 then some 2
  else if lutn && w.testBit 15 then some 9
  else if w % 128 ≠ 0 then some 0xA
  else none

def cellsErr (lutn : Bool) (va n : Nat) : List Nat → Option RecErr
  | [] => none
  | w :: r => match cellErr lutn w with
    | some sub => some (.cfg sub 0 va (0x100 + n))
    | none => cellsErr lutn (va + 8) n r

/-- Lengths of the longest paths of combinational cells that end at each cell, after one more pass. -/
def depthPass (ws : List Nat) (ds : List Nat) : List Nat :=
  ws.map fun w => if w.testBit 15 then 0
    else 1 + ((List.range 4).map fun k =>
      let code := w / 2 ^ (16 + 8 * k) % 256
      if 64 ≤ code ∧ code < 128 then ds.getD (code - 64) 0 else 0).foldl Nat.max 0

/-- Repeat a pass. -/
def depths (ws : List Nat) : Nat → List Nat → List Nat
  | 0, ds => ds
  | n + 1, ds => depths ws n (depthPass ws ds)

/-- A combinational cycle or a path longer than 8 cells. -/
def deepPath (ws : List Nat) : Bool := (depths ws 9 (ws.map fun _ => 0)).any fun d => decide (9 ≤ d)

/-- Output sites of an island in use. An island of MODE 0 is off and has none, whatever its SEN bits, so that the rules on
idle PEs and shared sites do not apply to it; R163 does not say (log 66). -/
def islSites (w : Nat) : List Nat :=
  if islMode w = 0 then [] else ([0, 1].filter (islOut w ·)).map (islOutRouter w ·)

/-- The fault of an island block: its word, its cells, its output sites. -/
def islandErr (va n : Nat) (elems : List Nat) (taken : List Nat) (w : Nat) (cells : List Nat) : Option RecErr :=
  let bad := fun (sub : Nat) => some (RecErr.cfg sub 0 va (0x100 + n))
  let outs := islSites w
  if 2 < islMode w then bad 2
  else if w % 2 ^ 16 ≠ 0 then bad 0xA
  else match cellsErr (decide (islMode w = 1)) (va + 8) n cells with
    | some e => some e
    | none =>
      if outs.any (fun r => decide (wOp (elems.getD r 0) ≠ 0) || decide (r ∈ taken)) || (decide (outs.length = 2) && decide (outs.dedup.length = 1))
      then bad 9
      else if deepPath cells then bad 9 else none

/-- The islands present, in increasing number: their words, cells, and the first fault. -/
def readIslands (va : Nat) (elems : List Nat) (taken : List Nat) :
    List Nat → List Byte → Except RecErr (SMap (BitVec 64) × SMap (BitVec 64))
  | [], _ => .ok ([], [])
  | n :: ns, bs =>
    let w := leNat (bs.take 8)
    let cells := chunks 8 64 (bs.drop 8)
    match islandErr va n elems taken w cells with
    | some e => .error e
    | none => match readIslands (va + 520) elems (islSites w ++ taken) ns (bs.drop 520) with
      | .error e => .error e
      | .ok (is, cs) => .ok ((n, BitVec.ofNat 64 w) :: is, wordMap (64 * n) cells ++ cs)

/-! ## The whole record -/

/-- Islands of a LUTMASK. -/
def islandsOf (mask : Nat) : List Nat := (List.range 16).filter fun n => mask.testBit n

/-- The first fault of a list. -/
def firstErr : List (Option RecErr) → Option RecErr
  | [] => none
  | some e :: _ => some e
  | none :: r => firstErr r

/-- Where the bytes of a record come from: n bytes at an address. -/
abbrev RecSource := Nat → Nat → Except MemFault (List Byte)

/-- A record read from a copy of its parts. -/
def copySource (parts : List (Nat × List Byte)) : RecSource := fun va n =>
  match parts.find? fun p => decide (p.1 ≤ va) && decide (va + n ≤ p.1 + p.2.length) with
  | some p => .ok ((p.2.drop (va - p.1)).take n)
  | none => .error ⟨6, 1, false, va⟩

/-- Read and check the configuration image (R160, R375). -/
def readImage (rd : RecSource) (base : Nat) (hdr : List Byte) (elem : Nat → Bool) :
    Except RecErr (BitVec 32 × List Nat × List Nat × SMap (BitVec 64) × SMap (BitVec 64)) :=
  let va := base + hdrField hdr 4 4
  match rd va 64 with
  | .error f => .error (.mem f)
  | .ok h =>
    let ns := islandsOf (hdrField h 4 2)
    let len := 4160 + 520 * ns.length
    match firstErr [if hdrField h 0 4 ≠ 1 then some (.cfg 1 0 va 0xFFFF) else none,
      if hdrField hdr 8 4 ≠ len then some (.cfg 1 0 (base + 8) 0xFFFF) else none,
      if hdrField h 6 2 ≠ 0 then some (.cfg 0xA 0 (va + 4) 0xFFFF) else none,
      ((List.range 13).find? fun i => decide (hdrField h (0xC + 4 * i) 4 ≠ 0)).map fun i =>
        .cfg 0xA 0 (va + 0xC + 4 * i) 0xFFFF] with
    | some e => .error e
    | none => match rd (va + 64) (len - 64) with
      | .error f => .error (.mem f)
      | .ok bs =>
        let es := chunks 8 256 bs
        let rs := chunks 8 256 (bs.drop 2048)
        let pace := hdrField hdr 0x12 1 % 16
        match firstErr [elemsErr (va + 0x40) 0 es, portElemsErr (va + 0x40) elem 0 [] es, lpIndexErr (va + 0x40) 0 [] [] es,
          lpPaceErr base pace es, routesErr (va + 0x840) 0 rs,
          (routingCycle fun r => rs.getD r 0).map fun x => .cfg 0xC 0 (va + 0x840 + 8 * (x / 4)) (x / 4)] with
        | some e => .error e
        | none => match readIslands (va + 0x1040) es [] ns (bs.drop 4096) with
          | .error e => .error e
          | .ok (is, cs) => .ok (BitVec.ofNat 32 (hdrField h 8 4), es, rs, is, cs)

/-- Live masks have the 57 bits of R30. -/
def liveMask (v : Nat) : Word := BitVec.ofNat 64 (v % 2 ^ 57)

/-- Read and check the record at `va` for context k, its parts from a source and its descriptors from memory (R208); `elem0`
says which ports stay bound ELEM outside its table. -/
def State.readRecordFrom (s : State) (rd : RecSource) (k va : Nat) (elem0 : Nat → Bool) : Except RecErr Loaded :=
  match rd va 64 with
  | .error f => .error (.mem f)
  | .ok h => match headerErr va h with
    | some e => .error e
    | none =>
      let f := hdrField h
      match rd (va + f 0xC 4) (16 * f 0x10 2) with
      | .error f => .error (.mem f)
      | .ok tb => match s.readEntries k va (va + f 0xC 4) (f 0x10 2) tb with
        | .error e => .error e
        | .ok binds =>
          let elem := fun p => match binds.reverse.find? fun b => decide (b.port = p) with
            | some b => decide (bindRole b.w3 = 5)
            | none => elem0 p
          match rd (va + f 0x20 4) (8 * f 0x1C 2) with
          | .error f => .error (.mem f)
          | .ok ms => match readImage rd va h elem with
            | .error e => .error e
            | .ok (img, es, rs, is, cs) => .ok
              { hdr := {
                  strmOff := f 0x14 4
                  strmLen := f 0x18 4
                  pace := f 0x12 1 % 16
                  entryMask := liveMask (f 0x28 8)
                  masks := (chunks 8 (f 0x1C 2) ms).map liveMask }
                binds := binds
                imgId := img
                elems := wordMap 0 es
                routes := wordMap 0 rs
                islands := is
                cells := cs }

/-- Read and check the record at `va` in memory. -/
def State.readRecord (s : State) (k va : Nat) (elem0 : Nat → Bool) : Except RecErr Loaded :=
  s.readRecordFrom (s.loadEx k) k va elem0

/-! ## Installation (R21, R203) -/

/-- Unbind the banks listed, each written back and invalidated (R104). -/
def State.unbindBanks (s : State) (n : Nat) : List Nat → State
  | [] => s
  | p :: r => (s.bindWindow n p (0, 0)).unbindBanks n r

/-- The binding a table gives port p: its last entry. -/
def bindingOf (bs : List BindEntry) (p : Nat) : Option BindEntry := bs.reverse.find? fun b => decide (b.port = p)

/-- Banks whose window changes as a record is installed, or that become unbound; with `keep`, a port that its table does
not bind keeps its own (R104, R203). -/
def State.banksChanged (s : State) (n : Nat) (bs : List BindEntry) (keep : Bool) : List Nat :=
  (List.range 16).filter fun p =>
    let w := ((s.bank n p).base, (s.bank n p).len)
    match bindingOf bs p with
    | some b => decide (windowOf b.w3 b.desc ≠ w)
    | none => !keep && decide (w ≠ (0, 0))

/-- Every port of a core is unbound; its checksum goes on (R203, R423). -/
def Core.unbindPorts (c : Core) : Core :=
  { c with ports := c.ports.map fun e => (e.1, { crc := e.2.crc, taken := e.2.taken }) }

/-- Apply the bindings of a table in order; a window overlap stops it (R405). -/
def State.applyBinds (s : State) (n : Nat) : List BindEntry → Except RecErr State
  | [] => .ok s
  | b :: r => match s.applyBind n b.port 0#32 b.w3 b.desc with
    | .error (.bad _ _ a) => .error (.window (a.getD 0))
    | .error (.mem f) => .error (.mem f)
    | .ok s1 => s1.applyBinds n r

/-- Initial values of the state bits of the cells listed. -/
def initBits (cells : SMap (BitVec 64)) : SMap Bool :=
  (cells.filter fun e => e.2.getLsbD 15 && e.2.getLsbD 14).map fun e => (e.1, true)

/-- The new image and Pacer; the record begins at SOFF 0 (R203, R66). -/
def Core.installed (c : Core) (va : Nat) (l : Loaded) : Core :=
  { c with
    fab := { elems := l.elems, routes := l.routes, islands := l.islands, cells := l.cells, imgId := l.imgId, bits := initBits l.cells }
    pacer := { k := l.hdr.pace, whold := c.preempt }
    lflags := 0
    ictr := 0
    pc := BitVec.ofNat 64 va
    soff := 0
    record := l.hdr
    cfgBy := none
    drained := false
    entry := true
    group := none
    pausedPorts := [] }

/-- Install a checked record on core n: with `keep`, ports its table does not bind stay as they are; else every port is
unbound first, and a bank whose window stays keeps its contents (R104, R203). -/
def State.install (s : State) (n va : Nat) (l : Loaded) (keep : Bool) : Except RecErr State :=
  let s1 := if keep then s else (s.unbindBanks n (s.banksChanged n l.binds false)).updCore n Core.unbindPorts
  match s1.applyBinds n l.binds with
  | .error e => .error e
  | .ok s2 => .ok (s2.updCore n fun c => { c.installed va l with moved := s.gtc })

/-! ## CFG.LOAD and CFG.RECONF (R203) -/

/-- Ports of a binding table that can be read, for the FIFOs a CFG.RECONF keeps (R383). -/
def State.tablePorts (s : State) (k va : Nat) : List Nat :=
  match s.loadEx k va 64 with
  | .error _ => []
  | .ok h => match s.loadEx k (va + hdrField h 0xC 4) (16 * Nat.min 16 (hdrField h 0x10 2)) with
    | .error _ => []
    | .ok tb => (chunks 16 (Nat.min 16 (hdrField h 0x10 2)) tb).map fun e => e / 2 ^ 124 % 16

/-- CFG.LOAD and CFG.RECONF start: the address is checked (R378, R379). -/
def State.startCfg (s : State) (k : Cmd) : State :=
  if !addrOk k.a then s.cmdFault k 2 none 0
  else if k.a.toNat % 1024 ≠ 0 then s.cmdFault k 3 none 0
  else s.updCmd k.id fun j => { j with state := .started, list := s.tablePorts k.ctx k.a.toNat }

/-- A record cannot be installed: a fault of the command on core n (R375, R403, R405). -/
def State.cfgErr (s : State) (n : Nat) (k : Cmd) : RecErr → State
  | .mem f => s.cmdMemFault k f 0
  | .cfg sub op addr restart => s.coreFault n 0 0 4 (sub * 256 + op) .fatal (some addr) k.soff.toNat k.opc.toNat restart
  | .window a => s.cmdFaultAs k k.kind k.loc 7 4 .fatal (some a) 0

/-- Reading a record only waits (R409). -/
def recWaits : Except RecErr Loaded → Bool
  | .error (.mem f) => f.waits
  | _ => false

/-- CFG.LOAD or CFG.RECONF goes on: everything earlier complete, the fabric load ended, then the record is checked and
installed (R135, R203, R375). -/
def State.goCfg (s : State) (n : Nat) (k : Cmd) : State :=
  let c := s.core n
  -- with a pre-emption pending at a boundary the core has stopped here (R32)
  if s.earlier k ≠ [] ∨ c.accs ≠ [] ∨ !c.loadOver ∨ (c.preempt ∧ c.atBoundary) ∨ s.flushWaits n ∨ s.endWaits n then s
  else
    let keep := decide (k.opc = 2#8)
    let elem0 := fun (p : Nat) => keep && decide ((c.port p).role = 5)
    let first := s.readRecord k.ctx k.a.toNat elem0
    -- the banks that change are written back before the record is read for its installation
    let changed := match first with
      | .ok l => s.banksChanged n l.binds keep
      | .error _ => List.range 16
    if recWaits first then s else
    let s := s.flushBanks n changed
    match s.readRecord k.ctx k.a.toNat elem0 with
    | .error e => s.cfgErr n k e
    | .ok l => match (s.endLoad n).install n k.a.toNat l keep with
      | .error e => s.cfgErr n k e
      | .ok s1 => s1.finishCmd k.id

/-! ## CFG.PATCH (R64, R205) -/

/-- A configuration fault of a CFG.PATCH (R380). -/
def State.patchFault (s : State) (n : Nat) (k : Cmd) (sub addr : Nat) : State :=
  s.coreFault n 0 0 4 (sub * 256) .fatal (some addr) k.soff.toNat 1 0xFFFF

/-- A started CFG.PATCH reads its list whole and checks it, once the accesses before its issue have been performed (R132, R205,
R375). -/
def State.readPatch (s : State) (n : Nat) (k : Cmd) : State :=
  let cnt := k.w3.toNat % 512
  if !s.accsDone k then s
  else match s.load k.windowAgent k.hint k.a.toNat (4 * cnt) with
    | .error f => s.cmdMemFault k f 0
    | .ok (s1, bs) =>
      let es := chunks 4 cnt bs
      let m0 := s.routesBefore n k.id
      let cyclic := fun (i : Nat) => (routingCycle fun r => (SMap.get 0#64 (patchRoutes m0 (es.take i)) r).toNat).isSome
      match (List.range cnt).find? fun i => decide (es.getD i 0 / 2 ^ 12 % 4096 ≠ 0) with
      | some i => s1.patchFault n k 0xA (k.a.toNat + 4 * i)
      | none =>
        -- the offending entry is the first from which on the routes stay cyclic
        if cyclic cnt then
          s1.patchFault n k 0xC (k.a.toNat + 4 * (((List.range cnt).filter fun i => !cyclic i).getLast?.getD 0))
        else s1.updCmd k.id fun j => { j with sub := 1, list := es }

/-- CFG.PATCH starts (R205, R379). -/
def State.startPatch (s : State) (n : Nat) (k : Cmd) : State :=
  let cnt := k.w3.toNat % 512
  if cnt = 0 ∨ 256 < cnt then s.cmdFault k 2 none 0
  else if !addrOk k.a then s.cmdFault k 2 none 0
  else if k.a.toNat % 4 ≠ 0 then s.cmdFault k 3 (some k.a.toNat) 0
  else (s.started k).readPatch n { k with state := .started }

/-- CFG.PATCH takes effect, after every earlier one, once the switched paths are empty and record no cancellation; the
sources its paths had and have now come to rest on the branches left to them (R41, R64). -/
def State.goPatch (s : State) (n : Nat) (k : Cmd) : State :=
  if k.sub = 0 then s.readPatch n k else
  let c := s.core n
  let xs := (List.range 1024).filter (switches c.fab.routes k.list)
  let free := fun (x : Nat) => decide (c.queue x = []) && decide (c.rev x = 0) && decide (c.cancels x = 0)
  if (s.patches n).any (fun j => decide (j.id < k.id)) || !xs.all free then s
  else
    let c1 := { c with fab := { c.fab with routes := patchRoutes c.fab.routes k.list } }
    (s.setCore n ((xs.map c.srcOf ++ xs.map c1.srcOf).foldl (fun c x => Core.settle x settleFuel c) c1)).finishCmd k.id

end Sys2Proof.Machine
end

