-- ==== Sys2Proof/Machine/Sync.lean ====
section
/-! DEFINITION. Configuration, Pacer, batch, hurdle and marker commands (09_stream_commands.md, R203–R206, R219–R223, R226),
and DRAIN (R119, R191). -/

namespace Sys2Proof.Machine

/-! ## DRAIN (R119, R191) -/

/-- A binding issued before a command, on a core whose windows it may name, has still to take effect. -/
def State.windowsChange (s : State) (n : Nat) (k : Cmd) : Bool :=
  s.cmds.any fun j => decide (j.opc = 0x10#8) && decide (j.sub = 0) && decide (j.id < k.id)
    && (match j.owner with
      | .core m => decide (m ∈ (s.core n).windowCores n)
      | .node _ _ => false)

/-- The address of a copy's destination, and its policy, where they are known: those of a multicast are its root's. -/
def State.copyDst (s : State) (n : Nat) (k : Cmd) : Option (Nat × BitVec 2) :=
  if k.opc = 0x31#8 then (((s.core n).members n)[k.rootRank]?).bind fun r => (s.mcOn k r).map fun j => (j.b.toNat, j.hint)
  else some ((if k.scatters then k.e else k.b).toNat, k.hint)

/-- The paths of DRAIN that cover a command (R119): copies by their destination, on both where a binding or the root's command is
still to tell; the store form of MM.ACC also as an entry that an arm has still to start (log 69). -/
def State.drainPaths (s : State) (n : Nat) (k : Cmd) : List Nat :=
  let window := fun (va : Nat) (pol : BitVec 2) => decide (pol = 0#2) && s.inWindow n va
  match k.opc.toNat with
  | 0x44 => if s.armAhead k fun bs => decide (entryField bs 0x2C 1 = 0x45) && decide (entryField bs 0x2D 1 = 2) then [4] else []
  | 0x45 => if k.var = 2#4 then [4] else []
  | 0x50 => if s.windowsChange n k || window k.b.toNat k.hint then [2] else []
  | 0x81 => [3]
  | _ =>
    if !countsCpc k.opc.toNat then []
    else if k.fills then [1]
    else if s.windowsChange n k then [0, 1]
    else match s.copyDst n k with
      | none => [0, 1]
      | some (va, pol) => if window va pol then [0] else [1]

/-- DRAIN closes the open batch, then holds the core until no earlier command on its path is incomplete (R119, R191). -/
def execDrain (p : BitVec 3) (s : State) : Host.Outcome State Fault Refusal :=
  s.issue [] [] [] fun n c =>
    if !c.mayClose then s
    else
      let c1 := c.closeBatch
      if s.cmds.any fun k => decide (k.owner = Owner.core n) && decide (p.toNat ∈ s.drainPaths n k) then s.setCore n c1
      else s.setCore n (c1.next 1)

/-! ## Commands that complete as they start (R206, R219, R226) -/

/-- CFG.ITER writes ICTR. -/
def State.startIter (s : State) (n : Nat) (k : Cmd) : State := (s.updCore n fun c => { c with ictr := k.a }).finishCmd k.id

/-- PACE sets K (R52, R379). -/
def State.startPace (s : State) (n : Nat) (k : Cmd) : State :=
  let v := k.w3.toNat % 16
  if v = 0 then s.cmdFault k 2 none 0
  else if (s.core n).record.pace = 0 then s.cmdFault k 5 none 0
  else (s.updCore n fun c => { c with pacer := { c.pacer with k := v } }).finishCmd k.id

/-- TRACE.MARK writes a MARK record keyed by its start tick (R226, R417). -/
def State.startMark (s : State) (n : Nat) (k : Cmd) : State :=
  let v := if k.w3.getLsbD 16 then k.a.toNat else 0
  (s.traceCore n 1 (k.w3.toNat % 65536) v k.soff.toNat).finishCmd k.id

/-- A BATCH starts; it completes with the commands it was bound to at issue (R219). -/
def State.startBatch (s : State) (k : Cmd) : State := (s.started k).finishCmd k.id

/-! ## Hurdles (R220–R223) -/

def Cmd.scope (k : Cmd) : Nat := k.w3.toNat / 2 ^ 30
def Cmd.act (k : Cmd) : Nat := k.w3.toNat / 2 ^ 28 % 4
def Cmd.hid (k : Cmd) : Nat := k.w3.toNat / 2 ^ 22 % 64
def Cmd.hcount (k : Cmd) : Nat := k.w3.toNat / 2 ^ 14 % 256

/-- Key of a die-level hurdle in its context. -/
def Cmd.hkey (k : Cmd) : Nat := 64 * k.die + k.hid

def State.hurdle (s : State) (k : Cmd) : Hurdle := SMap.get {} (s.ctx k.ctx).hurdles k.hkey
def State.setHurdle (s : State) (k : Cmd) (h : Hurdle) : State :=
  s.updCtx k.ctx fun x => { x with hurdles := SMap.set {} x.hurdles k.hkey h }

/-- A HURDLE starts (R220, R379). -/
def State.startHurdle (s : State) (k : Cmd) : State :=
  if k.scope = 3 ∨ k.act = 3 ∨ (k.scope = 0 ∧ k.act ≠ 0) then s.cmdFault k 1 none 0
  else if k.scope = 2 ∧ k.hcount = 0 then s.cmdFault k 2 none 0
  else s.started k

/-- What a waiting HURDLE waits for has come: sub is 1 once it waits, x0 its arrival number or generation. -/
def State.hurdleMet (s : State) (k : Cmd) : Bool :=
  decide (k.sub = 1) && (match k.core? with
    | none => true
    | some n => match k.scope with
      | 1 => ((s.core n).members n).all fun m => decide (k.x0 ≤ (s.core m).gangArrivals)
      | 2 => decide (k.x0 < (s.hurdle k).generation)
      | _ => true)

/-- Complete every waiting HURDLE whose wait is over. -/
def State.releaseHurdles (s : State) : State :=
  s.finishCmds ((s.cmds.filter fun k => decide (k.opc = 0x21#8) && decide (k.state = .started) && s.hurdleMet k).map (·.id))

/-- A HURDLE waits from now on, unless it only arrives. -/
def State.waitAt (s : State) (k : Cmd) (v : Nat) : State :=
  if k.act = 1 then s.finishCmd k.id else s.updCmd k.id fun j => { j with sub := 1, x0 := v }

/-- Arrival at a die-level hurdle: the last one completes the generation (R222). -/
def State.arriveDie (s : State) (n : Nat) (k : Cmd) : State :=
  let h := s.hurdle k
  let exp := if h.arrivals = 0 then k.hcount else h.expected
  if exp ≠ k.hcount then s.cmdFault k 5 none 0
  else
    let gen := h.generation
    let h' : Hurdle := if h.arrivals + 1 = exp then ⟨0, 0, gen + 1⟩ else ⟨h.arrivals + 1, exp, gen⟩
    let s1 := (s.setHurdle k h').updCore n fun c => { c with seen := SMap.put c.seen k.hid ⟨gen, true⟩ }
    s1.waitAt k gen

/-- Earlier HURDLEs of the runner at the same scope and ID that have still to arrive. -/
def State.arrivesBefore (s : State) (k : Cmd) : Bool :=
  s.cmds.any fun j => j.before k && decide (j.opc = 0x21#8) && decide (j.scope = k.scope) && decide (j.act ≠ 2)
    && decide (j.sub = 0) && (decide (k.scope ≠ 2) || decide (j.hid = k.hid))

/-- The wait of a wait-only HURDLE begins (R220, R222). -/
def State.waitOnly (s : State) (n : Nat) (k : Cmd) : State :=
  let c := s.core n
  if s.arrivesBefore k then s
  else if k.scope = 1 then (if c.gangArrivals = 0 then s.finishCmd k.id else s.waitAt k c.gangArrivals)
  else
    let seen := SMap.get {} c.seen k.hid
    s.waitAt k (if seen.arrived then seen.generation else (s.hurdle k).generation)

/-- A started HURDLE goes on: it arrives once every earlier command has completed, and completes as R220 states. -/
def State.goHurdle (s : State) (n : Nat) (k : Cmd) : State :=
  if k.sub = 1 then s.releaseHurdles
  else if k.act = 2 then (s.waitOnly n k).releaseHurdles
  else if s.earlier k ≠ [] then s
  else match k.scope with
    | 0 => s.finishCmd k.id
    | 1 =>
      let v := (s.core n).gangArrivals + 1
      ((s.updCore n fun c => { c with gangArrivals := v }).waitAt k v).releaseHurdles
    | _ => (s.arriveDie n k).releaseHurdles

/-! ## Issue -/

/-- W3 with the ACT a HURDLE form names; the reserved code 3 stays. -/
def withAct (a : Nat) (w : CmdWords) : CmdWords :=
  if a = 0 ∧ w.hurdleAct = 3 then w
  else { w with w3 := setBit (setBit w.w3 28 (a == 1)) 29 (a == 2) }

def execCfgLoad (w : CmdWords) (s : State) := issueCmd 0x00 w s
def execCfgPatch (w : CmdWords) (s : State) := issueCmd 0x01 w s
def execCfgReconf (w : CmdWords) (s : State) := issueCmd 0x02 w s
def execCfgIter (w : CmdWords) (s : State) := issueCmd 0x03 w s
def execPace (w : CmdWords) (s : State) := issueCmd 0x04 w s
def execBatch (w : CmdWords) (s : State) := issueCmd 0x20 w s
def execHurdleArriveWait (w : CmdWords) (s : State) := issueCmd 0x21 (withAct 0 w) s
def execHurdleArrive (w : CmdWords) (s : State) := issueCmd 0x21 (withAct 1 w) s
def execHurdleWait (w : CmdWords) (s : State) := issueCmd 0x21 (withAct 2 w) s
def execTraceMark (w : CmdWords) (s : State) := issueCmd 0xA0 w s

end Sys2Proof.Machine
end

