-- ==== Sys2Proof/Machine/Graph.lean ====
section
/-! DEFINITION. The graph engines (15_scheduling.md, R318–R328; R367–R371, R395–R399, R403, R422, R424): graph images,
launches, decrements, dispatch, completion, cancellation, pre-emption and the placer. -/

namespace Sys2Proof.Machine

/-! ## Graph images (R318, R319, R396) -/

/-- A header from its 64 bytes. -/
def GraphHdr.of (bs : List Byte) : GraphHdr :=
  let f := entryField bs
  { nnodes := f 4 2, join := f 6 1, home := f 7 1 % 4, nodeOff := f 8 4, hlen := f 0xD 3, handler := f 0x10 8
    status := f 0x18 8, htab := f 0x20 8, next := (List.range (Nat.min 3 (f 0xC 1))).map fun i => f (0x28 + 8 * i) 8 }

/-- The image and its header are inside R318. -/
def hdrOk (image : Nat) (bs : List Byte) : Bool :=
  let f := entryField bs
  decide (image % 64 = 0) && decide (f 0 4 = 1) && decide (1 ≤ f 4 2 ∧ f 4 2 ≤ 4096) && decide (1 ≤ f 6 1) && decide (f 7 1 < 4)
    && decide (f 8 4 % 64 = 0) && decide (f 0xC 1 ≤ 3) && decide (f 0x10 8 % 16 = 0)
    && decide (f 0x18 8 % 8 = 0) && decide (f 0x20 8 % 8 = 0) && (decide (f 0xD 3 = 0) == decide (f 0x10 8 = 0))

/-- Opcodes a node of a kind may carry, in order. -/
def kindOps (kind : Nat) (ops : List Nat) : Bool :=
  match kind with
  | 0 => decide (ops = [])
  | 1 => decide (ops.length = 1) && ops.all fun o => decide (0x50 ≤ o ∧ o ≤ 0x53)
  | 2 => decide (ops.length = 1) && ops.all fun o => decide (o = 0x70 ∨ o = 0x71)
  | 3 => decide (ops.length = 1) && ops.all fun o => decide (o = 0x60 ∨ o = 0x61)
  | _ => decide (ops ∈ [[0x82], [0x81, 0x82], [0x80, 0x81, 0x82]])

/-- An engine command is inside the layout of R269 and its command's own fields; reserved bytes are ignored (R2, R319). -/
def engineCmdOk (bs : List Byte) : Bool :=
  let f := entryField bs
  let opc := f 0x2C 1
  let w3 := f 0x28 4
  let fmt := if opc = 0x51 then w3 / 2 ^ 6 % 16 else if opc / 16 = 6 then w3 / 2 ^ 22 % 16 else 0
  decide (f 0x2D 1 = 0) && decide (f 0x2F 1 % 4 < 3) && decide (w3 &&& w3Zero opc = 0) && decide (fmt < 0xE)
    && !(hintZero opc && decide (f 0x2F 1 % 4 ≠ 0)) && !(decide (opc / 2 = 0x28) && w3.testBit 29)

/-- A node record from its 256 bytes and its successor list; none outside R319. -/
def NodeRec.of (nnodes : Nat) (bs : List Byte) (succ : List Nat) : Option NodeRec :=
  let f := entryField bs
  let kind := f 0 1
  let placed := (f 4 1).testBit 1
  let fuse := (f 4 1).testBit 0
  let cmds := (List.range (Nat.min 3 (f 6 1))).map fun i => (bs.drop (0x40 + 64 * i)).take 64
  let gang := if kind = 0 then placed || (decide (1 ≤ f 3 1 ∧ f 3 1 ≤ 16) && (!fuse || decide (f 3 1 = 4))) else decide (f 3 1 = 0) && !fuse
  if kind ≤ 4 ∧ f 1 1 < 4 ∧ f 2 1 < 4 ∧ gang ∧ f 4 1 < 4 ∧ (placed → f 5 1 < 64) ∧ f 6 1 ≤ 3 ∧ f 8 2 ≤ 4095
      ∧ kindOps kind (cmds.map fun c => entryField c 0x2C 1) ∧ cmds.all engineCmdOk ∧ (∀ i ∈ succ, i < nnodes) then
    some { kind := kind, die := f 1 1, cls := f 2 1, gsize := f 3 1, fuse := fuse && !placed, placed := placed
           region := f 5 1, npred := f 8 2, succ := succ, record := f 0x10 8, narg := BitVec.ofNat 64 (f 0x18 8), cmds := cmds }
  else none

/-- Why a graph does not launch: a memory fault at a node, 0xFFFF for the header, or a rejection. -/
inductive GraphErr where
  | mem (f : MemFault) (node : Nat)
  | bad (sub : Nat)
deriving DecidableEq, Repr

/-- UINT16 values. -/
def halves (n : Nat) (bs : List Byte) : List Nat := chunks 2 n bs

/-- The successor list of a record: NSUCC and SUCCOFF are checked, then it is read. -/
def State.readSucc (s : State) (k image : Nat) (bs : List Byte) : Except GraphErr (List Nat) :=
  let f := entryField bs
  if 4095 < f 0xA 2 ∨ f 0xC 4 % 2 ≠ 0 then .error (.bad 2)
  else match s.loadEx k (image + f 0xC 4) (2 * f 0xA 2) with
    | .error e => .error (.mem e 0)
    | .ok ss => .ok (halves (f 0xA 2) ss)

/-- Records n … of a graph. -/
def State.readNodes (s : State) (k image nodeOff nnodes : Nat) : Nat → Nat → Except GraphErr (List NodeRec)
  | 0, _ => .ok []
  | c + 1, n => match s.loadEx k (image + nodeOff + 256 * n) 256 with
    | .error e => .error (.mem e n)
    | .ok bs => match s.readSucc k image bs with
      | .error (.mem e _) => .error (.mem e n)
      | .error (.bad b) => .error (.bad b)
      | .ok ss => match NodeRec.of nnodes bs ss with
        | none => .error (.bad 2)
        | some r => (s.readNodes k image nodeOff nnodes c (n + 1)).map (r :: ·)

/-- Remove the nodes all of whose predecessors are removed: `left` holds the nodes that remain. -/
def strip (recs : List NodeRec) : Nat → List Nat → List Nat
  | 0, left => left
  | f + 1, left =>
    strip recs f (left.filter fun i => left.any fun j => decide (i ∈ (recs.getD j {}).succ))

/-- The successor lists form a cycle. -/
def hasCycle (recs : List NodeRec) : Bool := decide (strip recs recs.length (List.range recs.length) ≠ [])

/-- Nodes of a die. -/
def nodesOn (recs : List NodeRec) (d : Nat) : Nat := (recs.filter fun r => decide (r.die = d)).length

/-- Read and check a graph whose count has reached 0 (R396). -/
def State.readGraph (s : State) (k image home : Nat) : Except GraphErr (GraphHdr × List NodeRec) :=
  match s.loadEx k image 64 with
  | .error e => .error (.mem e 0xFFFF)
  | .ok hb =>
    let h := GraphHdr.of hb
    if !hdrOk image hb then .error (.bad 2)
    else match s.readNodes k image h.nodeOff h.nnodes h.nnodes 0 with
      | .error e => .error e
      | .ok recs =>
        if hasCycle recs then .error (.bad 0x15)
        else if (List.range 4).any fun d => decide (4096 < nodesOn recs d + (if d = home then 1 else 0)) then .error (.bad 0x16)
        else .ok (h, recs)

/-! ## Launches (R321, R396) -/

/-- The lowest free entry of a die at or above an index. -/
def State.freeEntry (s : State) (d : Nat) : Option Nat := (List.range 4096).find? fun e => decide (s.dep d e = .free)

/-- The context may not dispatch: it is frozen (R367) or held by a SNAPSHOT (R412). -/
def State.holds (s : State) (k : Nat) : Bool := s.frozen k || (s.ctx k).holdDispatch

/-- A graph is rejected: STATE 4 (R396). -/
def State.rejectGraph (s : State) (home e : Nat) (l : LaunchEntry) : State :=
  s.completeGraph home e { l with state := 4, launched := true }

/-- A graph whose count has reached 0 is read and checked; a recoverable fault pauses the launch, and a channel that is being copied
makes it wait (R396, R403, R409). -/
def State.checkLaunch (s : State) (home e : Nat) (l : LaunchEntry) : State :=
  match s.readGraph l.ctx l.image home with
  | .ok (h, recs) => s.setDep home e (.launch { l with hdr := h, recs := recs, paused := false })
  | .error (.bad sub) =>
    let hdr := match s.loadEx l.ctx l.image 64 with | .ok hb => GraphHdr.of hb | .error _ => {}
    (s.report l.ctx (s.engineRec l.ctx home 0xD sub 0x3FFF true false none 0 l.image)).rejectGraph home e { l with hdr := hdr }
  | .error (.mem f n) => if f.waits then s else
    let s1 := s.report l.ctx (s.engineRec l.ctx home f.cls f.sub 0x3FFF f.fatal (!f.fatal) (some f.addr) n l.image)
    if f.fatal then s1.rejectGraph home e l else s1.setDep home e (.launch { l with paused := true })

/-- The launch entry of a context that still gathers requests for an image. -/
def State.gathering (s : State) (home k image : Nat) : Option (Nat × LaunchEntry) :=
  (s.die home).deps.findSome? fun p => match p.2 with
    | .launch l => if l.ctx = k ∧ l.image = image ∧ l.count ≠ 0 then some (p.1, l) else none
    | _ => none

/-- GDONE of a GLAUNCH (R224). -/
def Cmd.gdone (k : Cmd) : Bool := k.w3.getLsbD 31

/-- The GLAUNCH of an accepted request: without GDONE it completes, with GDONE it waits for the graph. -/
def State.accepted (s : State) : Option Nat → State × List Nat
  | none => (s, [])
  | some id => match s.cmd? id with
    | none => (s, [])
    | some k => if k.gdone then (s, [id]) else (s.finishCmd id, [])

/-- The LAUNCH of an accepted request completes (R354). -/
def State.launchOk (s : State) : Option Nat → State
  | none => s
  | some w => match (s.ctx w).inFlight with
    | none => s
    | some f => (s.updCtx w fun x => { x with inFlight := none }).answer w f.seq 0 []

/-- A request reaches its home die: it counts down its launch entry, the first one taking the entry (R321). While the context
is frozen it is accepted and held: the graph whose count it brings to 0 is read and reserved after the freeze (R367). -/
def State.takeRequest (s : State) (r : LaunchReq) : Option State :=
  let put := fun (s : State) (e : Nat) (l : LaunchEntry) =>
    let (s1, g) := (s.launchOk r.win).accepted r.gdone
    let y := s1.die r.home
    let l1 := { l with count := l.count - 1, arg := r.arg, gdone := l.gdone ++ g, order := y.launchOrder }
    let s2 := s1.setDep r.home e (.launch l1)
    if l1.count = 0 then
      let s3 := s2.setDie r.home { s2.die r.home with launchOrder := y.launchOrder + 1 }
      if s3.frozen r.ctx then s3 else s3.checkLaunch r.home e l1
    else s2
  match s.gathering r.home r.ctx r.image with
  | some (e, l) => some (put s e l)
  | none => (s.freeEntry r.home).map fun e => put s e
      { ctx := r.ctx, image := r.image, count := Nat.max 1 r.join, arg := r.arg, gdone := [], launched := false, order := 0
        hdr := {}, recs := [], nodes := [], handles := 0, state := 0, flags := 0, paused := false }

/-- LAUNCH_REQUEST: the first request for the die for which there is a launch entry (R321, R367). -/
def execLaunchRequest (die : Nat) (s : State) : Host.Outcome State Fault Refusal :=
  match s.reqs.find? fun r => decide (r.home = die) && (s.takeRequest r).isSome with
  | none => .next s
  | some r => .next (({ s with reqs := s.reqs.erase r }.takeRequest r).getD s)

/-! ## Dispatch of engine nodes (R319, R323) -/

/-- The command of an engine node's entry. -/
def engineCmd (x : NodeEntry) (d e id : Nat) (first : Bool) (bs : List Byte) : Cmd :=
  let f := entryField bs
  let w := fun (off : Nat) => BitVec.ofNat 64 (f off 8)
  let opc := f 0x2C 1
  { id := id, owner := .node d e, ctx := x.ctx, pc := 0, soff := 0xFFFFFFFF, opc := BitVec.ofNat 8 opc, var := 0, mode := 0
    hint := BitVec.ofNat 2 (f 0x2F 1), prio := if opc / 16 = 8 then 0 else x.nr.cls
    a := w 0, b := w 8, c := w 0x10, d := w 0x18, e := w 0x20, areg := 57, w3 := BitVec.ofNat 32 (f 0x28 4)
    waits := [], tag := none, accs := [], batch := none, state := .issued
    tWait := if first then some x.tReady else none
    done := 0, sub := 0, x0 := 0, x1 := 0, list := [], auction := {}, mask := 0, arm := none }

/-- The next command of an engine node enters its engine. -/
def State.enterEngine (s : State) (d e : Nat) (x : NodeEntry) : State :=
  match x.nr.cmds[x.cmdsDone]? with
  | none => s
  | some bs =>
    { s.setDep d e (.node { x with cmdsDone := x.cmdsDone + 1 }) with
      cmds := s.cmds ++ [engineCmd x d e s.nextCmd (x.cmdsDone == 0) bs]
      nextCmd := s.nextCmd + 1 }

/-- The logged dispatch that comes next on a die for a context in replay: its record, handle and cores (R424). -/
def State.loggedDispatch (s : State) (k d : Nat) : Option (Nat × Nat × List Nat) :=
  (s.nextLog k 3 fun a _ => decide (a = agentWord 8 d 0)).map fun i =>
    let (h, m) := s.logData k i
    (i, h, ((List.range 16).filter fun b => m.testBit b).map fun b => 16 * (m / 2 ^ 16 % 4) + b)

/-- The node's graph has launched: its handles are written (R321). -/
def State.launched (s : State) (x : NodeEntry) : Bool :=
  match s.launch? x.home x.launch with
  | some l => l.launched
  | none => true

/-- A node's context lets it be dispatched now: nothing holds it, its log has room, and in replay it is the logged one.
A pre-empted node resumes in either run without a record of its own (R425). -/
def State.mayDispatch (s : State) (d e : Nat) (x : NodeEntry) : Bool :=
  !s.holds x.ctx && !x.held && s.launched x && (decide (x.st = .saved) || (s.traceRoom x.ctx
    && (decide (s.traceMode x.ctx ≠ 2) || (match s.loggedDispatch x.ctx d with
      | some (_, h, _) => decide (h = nodeHandle d e)
      | none => false))))

/-- Die and mask of cores, as DISPATCH records them (R416). -/
def coreMask (d : Nat) (cores : List Nat) : Nat :=
  (match cores with | [] => d | c :: _ => c / 16) * 2 ^ 16 + cores.foldl (fun m c => m + 2 ^ (c % 16)) 0

/-- The DISPATCH record of a node, or in replay its consumption. -/
def State.logDispatch (s : State) (k d e : Nat) (cores : List Nat) : State :=
  if s.traceMode k = 2 then
    match s.loggedDispatch k d with
    | some (i, _, _) => s.consumeLog k i
    | none => s
  else s.trace k 3 (agentWord 8 d 0) 0 0xFFFFFFFF 0 (nodeHandle d e) (coreMask d cores)

/-- A READY engine node is dispatched (R323). -/
def State.dispatchEngine (s : State) (d e : Nat) : State :=
  match s.node? d e with
  | none => s
  | some x =>
    if x.nr.kind ≠ 0 ∧ x.st = .ready ∧ s.mayDispatch d e x then
      let x1 := { x with st := .run, dispatched := s.gtc }
      ((s.logDispatch x.ctx d e []).setDep d e (.node x1)).enterEngine d e x1
    else s

/-- Entries of a die that hold nodes. -/
def State.nodeIxs (s : State) (d : Nat) : List Nat :=
  (s.die d).deps.filterMap fun p => match p.2 with | .node _ => some p.1 | _ => none

/-- Every READY engine node that may be dispatched. -/
def State.dispatchEngines (s : State) : State :=
  (List.range 4).foldl (fun s d => (s.nodeIxs d).foldl (fun s e => s.dispatchEngine d e) s) s

/-- A node enters READY; an engine node is dispatched at once (R322, R323). -/
def State.becomeReady (s : State) (d e : Nat) (x : NodeEntry) : State :=
  (s.setDep d e (.node { x with st := .ready, count := 0, tReady := s.gtc })).dispatchEngine d e

/-! ## Reservation, handles and launch (R321) -/

/-- A new node entry. -/
def newNode (l : LaunchEntry) (home le ix : Nat) (r : NodeRec) : NodeEntry :=
  { st := .wait, ctx := l.ctx, count := r.npred, home := home, launch := le, nix := ix, nr := r, tReady := 0, cores := []
    slots := [], fixed := [], ran := [], preemptAt := none, dispatched := 0, held := false, cmdsDone := 0 }

/-- Reserve an entry for each record from index `ix`; none when a die has too few. -/
def State.reserveNodes (s : State) (l : LaunchEntry) (home le : Nat) : Nat → List NodeRec → Option (State × List (Nat × Nat))
  | _, [] => some (s, [])
  | ix, r :: rs => match s.freeEntry r.die with
    | none => none
    | some e => ((s.setDep r.die e (.node (newNode l home le ix r))).reserveNodes l home le (ix + 1) rs).map fun p =>
        (p.1, (r.die, e) :: p.2)

/-- Write the handles still to be written; the first fault, with how many stand. -/
def State.writeHandles (s : State) (l : LaunchEntry) : Nat → List (Nat × Nat) → State × Nat × Option MemFault
  | n, [] => (s, n, none)
  | n, (d, e) :: r =>
    match s.store ⟨l.ctx, none, none⟩ 1#2 (l.hdr.htab + 8 * n) (leBytes 8 (nodeHandle d e)) with
    | .error f => (s, n, some f)
    | .ok s1 => s1.writeHandles l (n + 1) r

/-- Nodes with NPRED = 0 enter READY; an engine node that a signal made READY before its graph launched is dispatched. -/
def State.readyRoots (s : State) : List (Nat × Nat) → State
  | [] => s
  | (d, e) :: r => (match s.node? d e with
    | some x => if x.count = 0 ∧ x.st = NodeSt.wait then s.becomeReady d e x else s.dispatchEngine d e
    | none => s).readyRoots r

/-- Steps 2 and 3 of R321 for a reserved graph, whose nodes may all have been cancelled before its handles stood. -/
def State.activate (s : State) (home e : Nat) (l : LaunchEntry) : State :=
  let (s1, n, fault) := if l.hdr.htab = 0 then (s, 0, none) else s.writeHandles l l.handles (l.nodes.drop l.handles)
  match fault with
  | none => ((s1.setDep home e (.launch { l with launched := true, handles := n, paused := false })).readyRoots l.nodes).checkGraph home e
  | some f => if f.waits then s1.setDep home e (.launch { l with handles := n }) else
    let s2 := s1.report l.ctx (s1.engineRec l.ctx home f.cls f.sub 0x3FFF f.fatal (!f.fatal) (some f.addr) n l.image)
    if f.fatal then s2.rejectGraph home e { l with handles := n }
    else s2.setDep home e (.launch { l with handles := n, paused := true })

/-- The launch entries of a die whose counts have reached 0; those of a frozen context, one that a fault pauses among them,
are held, and other contexts are unaffected (R367). -/
def State.launchable (s : State) (die : Nat) : List (Nat × LaunchEntry) :=
  (s.die die).deps.filterMap fun p => match p.2 with
    | .launch l => if l.count = 0 ∧ !l.launched ∧ !l.paused ∧ !s.frozen l.ctx then some (p.1, l) else none
    | _ => none

/-- The one whose count reached 0 first among those not reserved. -/
def firstOrder : List (Nat × LaunchEntry) → Option (Nat × LaunchEntry)
  | [] => none
  | x :: r => some (r.foldl (fun a b => if b.2.order < a.2.order then b else a) x)

/-- GRAPH_LAUNCH: a launch that waited goes on, or the next graph takes its entries (R321). -/
def execGraphLaunch (die : Nat) (s : State) : Host.Outcome State Fault Refusal :=
  let ls := s.launchable die
  match ls.find? fun p => decide (p.2.recs = []) with
  | some (e, l) => .next (s.checkLaunch die e l)
  | none => match ls.find? fun p => decide (p.2.nodes ≠ []) with
    | some (e, l) => .next (s.activate die e l)
    | none => match firstOrder ls with
      | none => .next s
      | some (e, l) => match s.reserveNodes l die e 0 l.recs with
        | none => .next s
        | some (s1, ns) =>
          let l1 := { l with nodes := ns }
          .next ((s1.setDep die e (.launch l1)).activate die e l1)

/-! ## Decrements and error tokens (R322, R370, R397) -/

/-- A decrement of a node entry; `opc` is 0x92 for a NODE.SIG. Underflow is a fatal record; a DONE target stays as it is
(R376, R397). -/
def State.decrement (s : State) (d e amount opc : Nat) : State :=
  match s.node? d e with
  | none => s
  | some x =>
    let under := s.report x.ctx { s.engineRec x.ctx d 0xD 0x17 (nodeHandle d e) true false none 0 (s.imageOf d e) with
      cause := causeWord false 0xD (0x1700 + opc), opc := opc }
    match x.st with
    | .cancelled => s
    | .done => under
    | .wait =>
      if amount ≤ x.count ∧ x.count ≠ 0 then
        if amount = x.count then s.becomeReady d e x else s.setDep d e (.node { x with count := x.count - amount })
      else under.cancelNode d e 1
    | _ => under.cancelNode d e 1

/-- The first message from one graph engine to another. -/
def State.firstMsg (s : State) (src dst : Nat) : Option GraphMsg :=
  s.msgs.find? fun m => decide (m.src = src) && decide (m.dst = dst)

/-- DECREMENT_MESSAGE: messages between two dies are applied in the order sent (R322). -/
def execDecrementMessage (src dst : Nat) (s : State) : Host.Outcome State Fault Refusal :=
  match s.firstMsg src dst with
  | none => .next s
  | some m => .next (if m.err then s else { s with msgs := s.msgs.erase m }.decrement dst m.entry m.amount 0)

/-- ERROR_TOKEN: the node is cancelled (R370). -/
def execErrorToken (src dst : Nat) (s : State) : Host.Outcome State Fault Refusal :=
  match s.firstMsg src dst with
  | none => .next s
  | some m => .next (if m.err then { s with msgs := s.msgs.erase m }.cancelNode dst m.entry m.cause else s)

/-! ## Completion (R22, R136, R322) -/

/-- A node reaches DONE. -/
def State.completeNode (s : State) (d e : Nat) (x : NodeEntry) : State :=
  let s1 := s.leaveCores x.cores
  let s2 := s1.setDep d e (.node { x with st := .done, cores := [], fixed := [], preemptAt := none })
  let s3 := s2.trace x.ctx 4 (agentWord 8 d 0) 0 0xFFFFFFFF 0 (nodeHandle d e) 0
  (s3.sendSucc d x false 0).checkGraph x.home x.launch

/-- A member has halted and nothing of it is outstanding (R22). -/
def State.memberOver (s : State) (n : Nat) : Bool :=
  let c := s.core n
  decide (c.run = .halted) && decide (c.accs = []) && c.loadOver && s.cmds.all fun k => decide (k.owner ≠ Owner.core n)

/-- An engine node whose command has completed enters its next one. -/
def State.nodeAdvance (s : State) (d e : Nat) : State :=
  match s.node? d e with
  | none => s
  | some x =>
    if x.nr.kind ≠ 0 ∧ x.st = .run ∧ x.cmdsDone < x.nr.cmds.length ∧ s.cmds.all (fun k => decide (k.owner ≠ Owner.node d e)) then
      s.enterEngine d e x
    else s

/-- NODE_COMPLETE: a node of cores completes once its members are over, their windows can be written back and the choices of their
fabric loads logged (R409, R422). -/
def execNodeComplete (die entry : Nat) (s : State) : Host.Outcome State Fault Refusal :=
  match s.node? die entry with
  | none => .next s
  | some x =>
    if x.st ≠ .run then .next s
    else if x.nr.kind = 0 then
      .next (if x.cores.all fun n => s.memberOver n && !s.flushWaits n && !s.endWaits n then s.completeNode die entry x else s)
    else if s.cmds.any fun k => decide (k.owner = Owner.node die entry) then .next s
    else if x.cmdsDone < x.nr.cmds.length then .next (s.nodeAdvance die entry)
    else .next (s.completeNode die entry x)

/-! ## Cancelling graphs (R371, R398) -/

/-- Cancel the listed nodes. -/
def State.cancelNodes (s : State) (cause : Nat) : List (Nat × Nat) → State
  | [] => s
  | (d, e) :: r => (s.cancelNode d e cause).cancelNodes cause r

/-- Cancel a graph whose count has reached 0. -/
def State.cancelGraph (s : State) (home e cause : Nat) : State :=
  match s.launch? home e with
  | none => s
  | some l =>
    if l.count ≠ 0 then s
    else
      let l1 := { l with launched := true, state := if l.state = 0 then cause else l.state }
      let s1 := s.setDep home e (.launch l1)
      if l1.nodes = [] then s1.completeGraph home e l1 else s1.cancelNodes cause l1.nodes

/-- Launch entries that a test accepts, as (die, entry). -/
def State.launchesOf (s : State) (p : LaunchEntry → Bool) : List (Nat × Nat) :=
  (List.range 4).flatMap fun d => (s.die d).deps.filterMap fun q => match q.2 with
    | .launch l => if p l then some (d, q.1) else none
    | _ => none

/-- Cancel the listed graphs. -/
def State.cancelGraphs (s : State) (cause : Nat) : List (Nat × Nat) → State
  | [] => s
  | (d, e) :: r => (s.cancelGraph d e cause).cancelGraphs cause r

/-! ## Ranking runner nodes (R324) -/

/-- Ageing exponent of a context (R324, R356). -/
def State.ageing (s : State) (k : Nat) : Nat := (s.ctx k).ageing

/-- Effective priority of a waiting node. -/
def State.nodePrio (s : State) (x : NodeEntry) : Nat :=
  Nat.min 3 (x.nr.cls + (s.gtc - x.tReady).toNat / 2 ^ s.ageing x.ctx)

/-- A READY or SAVED runner node that nothing holds. -/
def State.waits (s : State) (x : NodeEntry) : Bool :=
  decide (x.nr.kind = 0) && decide (x.st = .ready ∨ x.st = .saved) && !s.holds x.ctx && !x.held && s.launched x

/-- The waiting runner nodes of a die. -/
def State.waiting (s : State) (d : Nat) : List (Nat × Nat × NodeEntry) :=
  (s.die d).deps.filterMap fun p => match p.2 with
    | .node x => if s.waits x then some (d, p.1, x) else none
    | _ => none

/-- One node ranks before another: priority, then time ready, then entry, then die. -/
def State.ranksBefore (s : State) (a b : Nat × Nat × NodeEntry) : Bool :=
  let pa := s.nodePrio a.2.2
  let pb := s.nodePrio b.2.2
  let ta := a.2.2.tReady.toNat
  let tb := b.2.2.tReady.toNat
  decide (pb < pa) || (decide (pa = pb) && (decide (ta < tb) || (decide (ta = tb) && (decide (a.2.1 < b.2.1)
    || (decide (a.2.1 = b.2.1) && decide (a.1 < b.1))))))

/-- Insert a node by rank. -/
def State.insertNode (s : State) (a : Nat × Nat × NodeEntry) : List (Nat × Nat × NodeEntry) → List (Nat × Nat × NodeEntry)
  | [] => [a]
  | b :: r => if s.ranksBefore a b then a :: b :: r else b :: s.insertNode a r

/-- Nodes in rank order. -/
def State.ranked (s : State) (l : List (Nat × Nat × NodeEntry)) : List (Nat × Nat × NodeEntry) :=
  l.foldr s.insertNode []

/-- A core is idle. -/
def State.idle (s : State) (n : Nat) : Bool := decide ((s.core n).run = .idle)

/-- The cores of a placement region (R327). -/
def Region.cores (r : Region) : List Nat := (List.range r.size).map fun i => 16 * r.die + r.base + i

/-- The region of a placed node. -/
def State.regionOf (s : State) (x : NodeEntry) : Region := SMap.get {} (s.ctx x.ctx).regions x.nr.region

/-- The least power of two not below n. -/
def powerAbove (n : Nat) : Nat := ((List.range 5).map (2 ^ ·)).find? (fun p => decide (n ≤ p)) |>.getD 16

/-- The blocks of cores a node may take, lowest first (R324). -/
def State.blocks (s : State) (d : Nat) (x : NodeEntry) : List (List Nat) :=
  if x.nr.placed then [if x.st = .saved then x.ran else (s.regionOf x).cores]
  else
    let size := x.nr.gsize
    let step := powerAbove size
    ((List.range 16).filter fun b => decide (b % step = 0 ∧ b + size ≤ 16)).map fun b =>
      (List.range size).map fun i => 16 * d + b + i

/-- The cores a node has fixed; a PLACED one fixes its region. -/
def State.fixedOf (s : State) (d : Nat) (x : NodeEntry) : List Nat :=
  if x.fixed = [] then [] else if x.nr.placed then (s.blocks d x).headD [] else x.fixed

/-- The READY and SAVED runner nodes of a die that have fixed cores, whatever holds their context: the cores are held until
the node dispatches. -/
def State.fixers (s : State) (d : Nat) : List (Nat × Nat × NodeEntry) :=
  (s.die d).deps.filterMap fun p => match p.2 with
    | .node x => if x.nr.kind = 0 ∧ (x.st = .ready ∨ x.st = .saved) ∧ x.fixed ≠ [] then some (d, p.1, x) else none
    | _ => none

/-- Core n is held for a waiting node that ranks before `a` and has fixed it. -/
def State.heldFor (s : State) (a : Nat × Nat × NodeEntry) (n : Nat) : Bool :=
  (List.range 4).any fun d => (s.fixers d).any fun b =>
    decide (n ∈ s.fixedOf b.1 b.2.2) && !(decide (b.1 = a.1) && decide (b.2.1 = a.2.1))
      && (!decide (n ∈ s.fixedOf a.1 a.2.2) || s.ranksBefore b a)

/-- The cores a waiting node can take now. -/
def State.coresFor (s : State) (a : Nat × Nat × NodeEntry) : Option (List Nat) :=
  let x := a.2.2
  let bs := if x.fixed = [] then s.blocks a.1 x else [s.fixedOf a.1 x]
  bs.find? fun b => b.all fun n => s.idle n && !s.heldFor a n

/-- Idle cores of a block. -/
def State.idleIn (s : State) (b : List Nat) : Nat := (b.filter s.idle).length

/-- The block holding the most idle cores, the lowest among equals. -/
def State.bestBlock (s : State) : List (List Nat) → List Nat
  | [] => []
  | b :: r => r.foldl (fun a c => if s.idleIn a < s.idleIn c then c else a) b

/-- A waiting node of effective priority 3 fixes the cores it will take (R324). -/
def State.fixBlock (s : State) (d e : Nat) (x : NodeEntry) : State :=
  if s.waits x ∧ s.nodePrio x = 3 ∧ x.fixed = [] then
    s.setDep d e (.node { x with fixed := s.bestBlock (s.blocks d x) })
  else s

/-- EFFECTIVE_PRIORITY_REACHES_3. -/
def execEffectivePriorityReaches3 (die entry : Nat) (s : State) : Host.Outcome State Fault Refusal :=
  match s.node? die entry with
  | none => .next s
  | some x => .next (s.fixBlock die entry x)

/-! ## Dispatch of runner nodes (R323, R324, R327) -/

/-- A member as it begins: g0, g1, g2 and the gang; everything else of R323 is zero. The accumulators keep what they
hold. -/
def freshCore (old : Core) (x : NodeEntry) (l : LaunchEntry) (d e rank : Nat) (cores : List Nat) : Core :=
  let regs := [(0, l.arg), (1, x.nr.narg), (2, BitVec.ofNat 64 (nodeHandle d e))]
  { run := .running
    ctx := x.ctx
    nodeDie := d
    nodeEntry := e
    gangBase := cores.headD 0 % 16
    sizeM1 := cores.length - 1
    rank := rank
    gang := cores
    fused := x.nr.fuse
    regs := regs.filter fun p => decide (p.2 ≠ 0#64)
    mx := old.mx
    handler := BitVec.ofNat 64 l.hdr.handler
    hlen := l.hdr.hlen }

/-- Every member in rank order begins. -/
def State.beginMembers (s : State) (x : NodeEntry) (l : LaunchEntry) (d e : Nat) (cores : List Nat) : Nat → List Nat → State
  | _, [] => s
  | rank, n :: r => (s.updCore n fun c => freshCore c x l d e rank cores).beginMembers x l d e cores (rank + 1) r

/-- Install the record on every member; the first fault. -/
def State.installAll (s : State) (va : Nat) (ld : Loaded) : List Nat → Except RecErr State
  | [] => .ok s
  | n :: r => match s.install n va ld false with
    | .error e => .error e
    | .ok s1 => s1.installAll va ld r

/-- A dispatch that cannot be made: a recoverable fault holds the node, any other one cancels it (R323, R375, R403). -/
def State.dispatchErr (s : State) (d e : Nat) (x : NodeEntry) (err : RecErr) : State :=
  let rec_ := fun (cls code : Nat) (fatal : Bool) (addr restart : Nat) =>
    s.report x.ctx { s.engineRec x.ctx d cls 0 (nodeHandle d e) fatal (!fatal) (some addr) restart (s.imageOf d e) with
      cause := causeWord false cls code }
  match err with
  | .mem f => if f.waits then s else
    if f.fatal then (rec_ f.cls (f.sub * 256) true f.addr x.nix).cancelNode d e 1
    else (rec_ f.cls (f.sub * 256) false f.addr x.nix).setDep d e (.node { x with held := true, fixed := [] })
  | .cfg sub op addr restart => (rec_ 4 (sub * 256 + op) true addr restart).cancelNode d e 1
  | .window a => (rec_ 7 0x400 true a 0).cancelNode d e 1

/-- The record a READY node installs, at its address: from the copy that PLACE made, or from memory; descriptors are read at
the binding in either case (R208, R323, R327). -/
def State.recordFor (s : State) (x : NodeEntry) : Nat × Except RecErr Loaded :=
  let r := s.regionOf x
  let va := if x.nr.placed then r.recVa else x.nr.record
  (va, if va % 1024 ≠ 0 then .error (.cfg 1 0 va 0xFFFF)
    else if x.nr.placed ∧ r.copy ≠ [] then s.readRecordFrom (copySource r.copy) x.ctx va fun _ => false
    else s.readRecord x.ctx va fun _ => false)

/-- A READY runner node takes its cores (R323). -/
def State.startRunner (s : State) (d e : Nat) (x : NodeEntry) (l : LaunchEntry) (cores : List Nat) : State :=
  let x1 := { x with st := .run, cores := cores, ran := cores, fixed := [], dispatched := s.gtc }
  if cores = [] then ((s.logDispatch x.ctx d e []).setDep d e (.node x1)).completeNode d e x1
  else match s.recordFor x with
    | (_, .error err) => s.dispatchErr d e x err
    | (va, .ok ld) =>
      let s1 := ((s.logDispatch x.ctx d e cores).setDep d e (.node x1)).beginMembers x l d e cores 0 cores
      match s1.installAll va ld cores with
      | .error err => s1.dispatchErr d e x1 err
      | .ok s2 => s2

/-- A SAVED runner node resumes from its images (R328, R329); a fault in reading one is as for a record. -/
def State.resumeRunner (s : State) (d e : Nat) (x : NodeEntry) (cores : List Nat) : State :=
  match s.resumeMembers x.ctx d e cores 0 (cores.zip x.slots) with
  | .error f => s.dispatchErr d e x (.mem f)
  | .ok s1 => (if s1.traceMode x.ctx = 0 then s1.logDispatch x.ctx d e cores else s1).setDep d e
      (.node { x with st := .run, cores := cores, ran := cores, slots := [], fixed := [], dispatched := s.gtc })

/-- Put a waiting runner node onto cores. -/
def State.dispatchOnto (s : State) (a : Nat × Nat × NodeEntry) (cores : List Nat) : State :=
  let (d, e, x) := a
  if x.st = .saved then s.resumeRunner d e x cores
  else match s.launch? x.home x.launch with
    | none => s
    | some l => s.startRunner d e x l cores

/-- The cores a node takes: the logged ones in replay, once idle; a pre-empted node resumes on its own choice (R425). -/
def State.choice (s : State) (a : Nat × Nat × NodeEntry) : Option (List Nat) :=
  if s.traceMode a.2.2.ctx = 2 ∧ a.2.2.st ≠ .saved then
    match s.loggedDispatch a.2.2.ctx a.1 with
    | some (_, _, cores) => if cores.all s.idle then some cores else none
    | none => none
  else s.coresFor a

/-- Fix blocks for the nodes of priority 3 that find no cores. -/
def State.fixBlocks (s : State) : List (Nat × Nat × NodeEntry) → State
  | [] => s
  | a :: r => (if (s.coresFor a).isNone then s.fixBlock a.1 a.2.1 a.2.2 else s).fixBlocks r

/-- The next DISPATCH record of a die names another die's node, or for a READY node cores that it cannot take: the graph engine
cannot use it (R426). -/
def State.dispatchForeign (s : State) (k d : Nat) : Bool :=
  match s.loggedDispatch k d with
  | none => false
  | some (_, h, cores) => decide (h / 4096 ≠ d) || (match s.node? d (h % 4096) with
    | some x => decide (x.ctx = k) && decide (x.st = .ready)
        && (if x.nr.kind ≠ 0 then decide (cores ≠ []) else decide (cores ∉ s.blocks d x))
    | none => false)

/-- Contexts in replay whose next DISPATCH of a die is of no use diverge. -/
def State.checkDispatches (s : State) (d : Nat) : State :=
  ((List.range 4).filter fun k => decide (s.traceMode k = 2) && s.dispatchForeign k d).foldl (fun s k =>
    s.divergeUnit k (agentWord 8 d 0)) s

/-- NODE_DISPATCH: the best-ranked waiting runner node of the die that finds its cores is put onto them, after the die's
READY engine nodes (R323, R324). -/
def execNodeDispatch (die : Nat) (s : State) : Host.Outcome State Fault Refusal :=
  let s0 := (s.nodeIxs die).foldl (fun s e => s.dispatchEngine die e) (s.checkDispatches die)
  let s1 := s0.fixBlocks (s0.ranked (s0.waiting die))
  match (s1.ranked (s1.waiting die)).findSome? fun a =>
      if s1.mayDispatch a.1 a.2.1 a.2.2 then (s1.choice a).map fun c => (a, c) else none with
  | none => .next s1
  | some (a, c) => .next (s1.dispatchOnto a c)

/-! ## Pre-emption (R32, R328, R329, R398) -/

/-- Running runner nodes of a context, as (die, entry, node). -/
def State.running (s : State) (k : Nat) : List (Nat × Nat × NodeEntry) :=
  (List.range 4).flatMap fun d => (s.die d).deps.filterMap fun p => match p.2 with
    | .node x => if x.nr.kind = 0 ∧ x.st = .run ∧ x.ctx = k then some (d, p.1, x) else none
    | _ => none

/-- Save slots of a context neither taken nor promised to a pending pre-emption. -/
def State.slotsLeft (s : State) (k : Nat) : Nat :=
  64 - (s.ctx k).slots.length - ((s.running k).filter fun a => decide (a.2.2.preemptAt ≠ none)).foldl
    (fun n a => n + a.2.2.cores.length) 0

/-- A node can be saved (R328). -/
def State.savable (s : State) (x : NodeEntry) : Bool :=
  decide ((s.ctx x.ctx).saveBase ≠ 0#64) && decide (x.preemptAt = none) && decide (x.cores.length ≤ s.slotsLeft x.ctx)

/-- Step 1 of R328: a node's members are asked to stop. -/
def State.requestPreempt (s : State) (d e : Nat) (x : NodeEntry) : State :=
  x.cores.foldl (fun s n => s.updCore n fun c =>
      { c with preempt := true, pacer := { c.pacer with whold := true } })
    (s.setDep d e (.node { x with preemptAt := some s.gtc }))

/-- A victim comes before another: lowest CLASS, then latest dispatch, then lowest die and entry. -/
def victimBefore (a b : Nat × Nat × NodeEntry) : Bool :=
  let x := a.2.2
  let y := b.2.2
  decide (x.nr.cls < y.nr.cls) || (decide (x.nr.cls = y.nr.cls) && (decide (y.dispatched.toNat < x.dispatched.toNat)
    || (decide (x.dispatched = y.dispatched) && decide (4096 * a.1 + a.2.1 < 4096 * b.1 + b.2.1))))

/-- Insert a victim by order. -/
def insertVictim (a : Nat × Nat × NodeEntry) : List (Nat × Nat × NodeEntry) → List (Nat × Nat × NodeEntry)
  | [] => [a]
  | b :: r => if victimBefore a b then a :: b :: r else b :: insertVictim a r

/-- Pre-empt each node of a list for which slots remain. -/
def State.preemptEach (s : State) : List (Nat × Nat × NodeEntry) → State
  | [] => s
  | (d, e, x) :: r => (if s.savable x then s.requestPreempt d e x else s).preemptEach r

/-- Places of the running nodes whose pre-emption is pending. -/
def State.pendingSaves (s : State) (k : Nat) : List (Nat × Nat) :=
  ((s.running k).filter fun a => decide (a.2.2.preemptAt ≠ none)).map fun a => (a.1, a.2.1)

/-- A request from the firmware pre-empts the running runner nodes of a context (R328). -/
def State.preemptContext (s : State) (k : Nat) : State :=
  let s1 := s.preemptEach ((s.running k).foldr insertVictim [])
  let before := s.pendingSaves k
  s1.updCtx k fun x => { x with preemptReq :=
    (x.preemptReq.filter fun p => decide (p ∈ before)) ++ (s1.pendingSaves k).filter fun p => decide (p ∉ before) }

/-- AUTO_PREEMPT: a node that has stood at priority 3 for 2^A ticks with no cores makes the engine pre-empt a node of
another context on its die (R328). -/
def execAutoPreempt (die entry : Nat) (s : State) : Host.Outcome State Fault Refusal :=
  match s.node? die entry with
  | none => .next s
  | some x =>
    let a := (die, entry, x)
    let step := 2 ^ s.ageing x.ctx
    let here := fun (y : NodeEntry) => y.cores.any fun n => (s.blocks die x).any fun b => b.any fun m => decide (m / 16 = n / 16)
    let others := ((List.range 4).filter fun k => decide (k ≠ x.ctx)).flatMap s.running
    if !s.waits x ∨ (s.gtc - x.tReady).toNat < (4 - x.nr.cls) * step ∨ (s.coresFor a).isSome
        ∨ others.any (fun b => here b.2.2 && decide (b.2.2.preemptAt ≠ none)) then .next s
    else match (others.filter fun b => here b.2.2 && s.savable b.2.2).foldr insertVictim [] with
      | [] => .next s
      | (d, e, y) :: _ => .next (s.requestPreempt d e y)

/-- The lowest free slots of a context. -/
def State.lowSlots (s : State) (k n : Nat) : List Nat :=
  ((List.range 64).filter fun i => !((s.ctx k).slots.any fun p => decide (p.1 = i))).take n

/-- PREEMPT_SAVE: every member stands at its stop; the images are written and the cores fall idle (R328). -/
def execPreemptSave (die entry : Nat) (s : State) : Host.Outcome State Fault Refusal :=
  match s.node? die entry with
  | none => .next s
  | some x =>
    if x.st ≠ .run ∨ x.preemptAt = none ∨ !(x.cores.all fun n => s.atSave n && !s.flushWaits n) then .next s
    else
      let slots := s.lowSlots x.ctx x.cores.length
      let s0 := x.cores.foldl State.flushCore s
      match s0.saveMembers die entry 0 (x.cores.zip slots) with
      | .error f => if f.waits then .next s else .next ((s0.report x.ctx (s0.engineRec x.ctx die f.cls f.sub (nodeHandle die entry) true false (some f.addr) 0
          (s0.imageOf die entry))).cancelNode die entry 1)
      | .ok s1 =>
        let s2 := s1.setDep die entry (.node { x with
          st := .saved, cores := [], slots := slots, preemptAt := none, tReady := s.gtc, fixed := [] })
        let s3 := s2.updCtx x.ctx fun c => { c with preemptReq := c.preemptReq.filter fun p => decide (p ≠ (die, entry)) }
        .next (s3.trace x.ctx 5 (agentWord 8 die 0) 0 0xFFFFFFFF 0 (nodeHandle die entry) s.gtc.toNat)

/-- A record of each listed member (R398). -/
def State.timeoutRecs (s : State) (k : Nat) : List Nat → State
  | [] => s
  | n :: r => (s.report k (s.coreRec n 0 0 0xD 0x1900 .fatal none 0xFFFFFFFF 0 0)).timeoutRecs k r

/-- PREEMPT_TIMEOUT: every runner of the context that has not saved is stopped with a record (R398). -/
def execPreemptTimeout (ctx : Nat) (s : State) : Host.Outcome State Fault Refusal :=
  let late := (s.running ctx).any fun a => match a.2.2.preemptAt with
    | some t => decide (2 ^ 24 ≤ (s.gtc - t).toNat)
    | none => false
  if !late then .next s
  else .next ((s.timeoutRecs ctx ((s.running ctx).flatMap fun a => a.2.2.cores)).cancelGraphs 5
    (s.launchesOf fun l => decide (l.ctx = ctx) && decide (l.count = 0)))

/-! ## The freeze lifts (R367, R368) -/

/-- A host LAUNCH of an image answers BADARG: its header cannot be read, or the image has a field outside R318, R319 or R330
(R372, R396). A cycle and a die's capacity are left to the home die. -/
def State.launchBad (s : State) (k image : Nat) : Bool :=
  match s.uncopied.readGraph k image 4 with
  | .ok _ => false
  | .error (.bad sub) => decide (sub = 2)
  | .error (.mem f n) => f.fatal && decide (n = 0xFFFF)

/-- BADARG (R353). -/
def stBadArg : Nat := 2

/-- The LAUNCH of a window completes with BADARG. -/
def State.launchRefused (s : State) (w : Nat) : State :=
  match (s.ctx w).inFlight with
  | none => s
  | some f => (s.updCtx w fun x => { x with inFlight := none }).answer w f.seq stBadArg []

/-- Requests held for a freeze are made again; those of a host LAUNCH find out first whether the image can be used (R396). -/
def State.remake (s : State) : List LaunchReq → State
  | [] => s
  | r :: rs => (match r.win with
    | some w => if s.launchBad r.ctx r.image then s.launchRefused w else s.requestLaunch r.home r.ctx r.image r.arg r.gdone r.win
    | none => s.requestLaunch r.home r.ctx r.image r.arg r.gdone r.win).remake rs

/-- A paused command goes on; an exchange command paused before it began starts anew. -/
def Cmd.resumed (k : Cmd) : Cmd :=
  if k.state = .paused then { k with state := if k.isExchange ∧ k.list = [] then .issued else .started } else k

/-- A dependence entry of context k after the lift. -/
def DepEntry.lifted (k : Nat) : DepEntry → DepEntry
  | .node x => .node (if x.ctx = k then { x with held := false } else x)
  | .launch l => .launch (if l.ctx = k then { l with paused := false } else l)
  | .free => .free

/-- A core of context k after the lift. -/
def Core.lifted (k : Nat) (now : Word) (c : Core) : Core :=
  if c.ctx = k then { c with
      run := if c.run = .paused then .running else c.run
      -- with a pre-emption pending at a boundary the core has stopped at the instruction (R32)
      stopMask := if c.run = .paused ∧ c.preempt ∧ c.atBoundary then some allLive else c.stopMask
      pausedPorts := []
      moved := now } else c

/-- A die after the lift. -/
def Die.lifted (k : Nat) (d : Die) : Die := { d with deps := d.deps.map fun q => (q.1, q.2.lifted k) }

/-- Every paused agent of the context resumes from its restart point. -/
def State.liftFreeze (s : State) (k : Nat) : State :=
  let s1 := { s with
    cores := s.cores.map fun (p : Nat × Core) => (p.1, p.2.lifted k s.gtc)
    cmds := s.cmds.map fun (j : Cmd) => if j.ctx = k then j.resumed else j
    dies := s.dies.map fun (p : Nat × Die) => (p.1, p.2.lifted k) }
  let reqs := (s1.ctx k).heldReqs
  let s2 := (s1.updCtx k fun x => { x with heldReqs := [] }).remake reqs
  (State.drainHold k (s2.ctx k).recvHold s2).dispatchEngines

/-! ## PLACE (R326, R327, R399) -/

def Cmd.experts (k : Cmd) : Nat := k.d.toNat
def Cmd.dies (k : Cmd) : List Nat := (List.range 4).filter fun d => (k.w3.toNat / 2 ^ 28).testBit d

/-- The expert the next core goes to: greatest h / n, the lowest among equals. -/
def nextExpert (h n : List Nat) : Option Nat :=
  (List.range h.length).foldl (fun best x =>
    if h.getD x 0 = 0 ∨ 16 ≤ n.getD x 0 then best
    else match best with
      | none => some x
      | some y => if h.getD y 0 * n.getD x 0 < h.getD x 0 * n.getD y 0 then some x else some y) none

/-- Cores granted one by one while they last. -/
def grantCores (h : List Nat) : Nat → List Nat → List Nat
  | 0, n => n
  | f + 1, n => match nextExpert h n with
    | none => n
    | some y => grantCores h f (n.set y (n.getD y 0 + 1))

/-- The cores of each expert before they are laid on dies. -/
def coreCounts (h : List Nat) (p : Nat) : List Nat :=
  let n := h.map fun v => if v = 0 then 0 else 1
  grantCores h (p - n.sum) n

/-- Insert an expert by descending n, then ascending x. -/
def insertExpert (n : List Nat) (x : Nat) : List Nat → List Nat
  | [] => [x]
  | y :: r => if n.getD y 0 < n.getD x 0 ∨ (n.getD y 0 = n.getD x 0 ∧ x < y) then x :: y :: r else y :: insertExpert n x r

/-- The die with most free cores, the lowest among equals. -/
def freestDie (used : SMap Nat) : List Nat → Nat
  | [] => 0
  | d :: r => r.foldl (fun a b => if SMap.get 0 used b < SMap.get 0 used a then b else a) d

/-- Lay the experts' regions on the dies: expert, die, base, size. -/
def layRegions (dies : List Nat) (n : List Nat) : SMap Nat → List Nat → List (Nat × Nat × Nat × Nat)
  | _, [] => []
  | used, x :: r =>
    let d := freestDie used dies
    let u := SMap.get 0 used d
    let size := Nat.min (n.getD x 0) (16 - u)
    (x, d, u, size) :: layRegions dies n (SMap.put used d (u + size)) r

/-- What stops a PLACE. -/
inductive PlaceErr where
  | mem (f : MemFault)
  | bad (addr : Option Nat)
deriving DecidableEq, Repr

/-- The parts of a record from its header: binding table, live masks and image, as address and length (R20). -/
def recordParts (va : Nat) (h : List Byte) : List (Nat × Nat) :=
  [(va, 64), (va + hdrField h 0xC 4, 16 * hdrField h 0x10 2), (va + hdrField h 0x20 4, 8 * hdrField h 0x1C 2),
    (va + hdrField h 4 4, Nat.max 64 (hdrField h 8 4))]

/-- Bytes of a copy. -/
def copySize (c : List (Nat × List Byte)) : Nat := (c.map fun p => p.2.length).sum

/-- Bytes that record copies take of the 32 MiB configuration cache of a die (R11, R327). -/
def State.cached (s : State) (d : Nat) : Nat :=
  (s.ctxs.map fun c => (c.2.regions.map fun p => if p.2.die = d then copySize p.2.copy else 0).sum).sum

/-- Read the parts of a record from pages with EX. -/
def State.copyParts (s : State) (k : Nat) : List (Nat × Nat) → Except MemFault (List (Nat × List Byte))
  | [] => .ok []
  | (va, n) :: r => match s.loadEx k va n with
    | .error f => .error f
    | .ok bs => (s.copyParts k r).map ((va, bs) :: ·)

/-- The chosen records' addresses and copies, a copy only where it fits its die's cache: address 0 and a page that is not EX
are faults (R327, R399). `used` holds the bytes taken of each die's cache. -/
def State.placeRecords (s : State) (k : Cmd) (owner : Nat × Nat) :
    SMap Nat → List (Nat × Nat × Nat × Nat) → Except PlaceErr (List (Nat × Region))
  | _, [] => .ok []
  | used, (x, d, b, size) :: r =>
    match s.loadNat k.homeAgent k.hint (wrapVa ((k.b.toNat : Int) + (8 * (16 * x + size - 1) : Nat))) 8 with
    | .error f => .error (.mem f)
    | .ok (s0, va) =>
      if va = 0 then .error (.bad (some va))
      else match translate (s0.pagesFor k.homeAgent) va Need.fetch with
        | .error _ => .error (.bad (some va))
        | .ok _ => match s0.loadEx k.ctx va 64 with
          | .error f => .error (.mem f)
          | .ok h =>
            let parts := recordParts va h
            let total := (parts.map (·.2)).sum
            let fits := decide (SMap.get 0 used d + total ≤ 2 ^ 25)
            match (if fits then s0.copyParts k.ctx parts else .ok []) with
            | .error f => .error (.mem f)
            | .ok c =>
              (s0.placeRecords k owner (if fits then SMap.put used d (SMap.get 0 used d + total) else used) r).map fun l =>
                (x, ⟨d, b, size, va, c, owner⟩) :: l

/-- A region table entry (R326). -/
def Region.entry (r : Region) : List Byte :=
  if r.size = 0 then leBytes 16 0
  else leBytes 1 r.die ++ leBytes 1 r.base ++ leBytes 1 r.size ++ leBytes 5 0 ++ leBytes 8 r.recVa

/-- PLACE starts (R377, R378, R399). -/
def State.startPlace (s : State) (k : Cmd) : State :=
  if !addrOk k.a ∨ !addrOk k.b ∨ !addrOk k.c ∨ k.experts = 0 ∨ 64 < k.experts then s.cmdFault k 2 none 0
  else if k.dies = [] then s.cmdFault k 0x1A none 0
  else s.started k

/-- Home die and launch entry of the graph of a command's node. -/
def State.ownerGraph (s : State) (k : Cmd) : Nat × Nat :=
  match (match k.owner with
    | .core n => s.coreNode? n
    | .node d e => s.node? d e) with
  | some x => (x.home, x.launch)
  | none => (4, 0)

/-- PLACE goes on: everything is read and checked, then the table and the placement registers are written. -/
def State.goPlace (s : State) (k : Cmd) : State :=
  match s.load k.homeAgent k.hint k.a.toNat (4 * k.experts) with
  | .error f => s.cmdMemFault k f 0
  | .ok (s1, bs) =>
    let h := chunks 4 k.experts bs
    let p := 16 * k.dies.length
    if p < (h.filter fun v => decide (v ≠ 0)).length then s.cmdFault k 0x1A none 0
    else
      let n := coreCounts h p
      let xs := ((List.range k.experts).filter fun x => decide (n.getD x 0 ≠ 0)).foldr (insertExpert n) []
      let laid := layRegions k.dies n [] xs
      let inOrder := (List.range k.experts).filterMap fun x => laid.find? fun q => decide (q.1 = x)
      match s1.placeRecords k (s1.ownerGraph k) ((List.range 4).map fun d => (d, s1.cached d)) inOrder with
      | .error (.mem f) => s1.cmdMemFault k f 0
      | .error (.bad a) => s1.cmdFault k 0x1A a 0
      | .ok rs =>
        let reg := fun (x : Nat) => ((rs.find? fun e => decide (e.1 = x)).map (·.2)).getD {}
        match s1.store k.homeAgent k.hint k.c.toNat ((List.range k.experts).flatMap fun x => (reg x).entry) with
        | .error f => s1.cmdMemFault k f 0
        | .ok s2 =>
          (s2.updCtx k.ctx fun x => { x with
            regions := (List.range k.experts).foldl (fun m i => SMap.put m i (reg i)) x.regions }).finishCmd k.id

/-! ## GLAUNCH and NODE.SIG (R224, R225, R397) -/

/-- The launch request of a GLAUNCH, once the accesses before its issue have been performed (R132, R224). -/
def State.askGlaunch (s : State) (k : Cmd) : State :=
  if s.accsDone k then (s.updCmd k.id fun j => { j with sub := 1 }).requestLaunch k.die k.ctx k.a.toNat k.b (some k.id) none else s

/-- GLAUNCH starts: the request is made on the issuing die. -/
def State.startGlaunch (s : State) (k : Cmd) : State :=
  if !addrOk k.a then s.cmdFault k 2 none 0
  else if k.a.toNat % 64 ≠ 0 then s.cmdFault k 3 (some k.a.toNat) 0
  else (s.started k).askGlaunch k

/-- A started GLAUNCH whose request waited makes it. -/
def State.goGlaunch (s : State) (k : Cmd) : State := if k.sub = 0 then s.askGlaunch k else s

/-- NODE.SIG starts once every earlier command has completed. -/
def State.startSig (s : State) (k : Cmd) : State :=
  if s.earlier k ≠ [] then s
  else if k.w3.toNat % 256 = 0 then s.cmdFault k 2 none 0
  else s.started k

/-- The graph engine of the named die applies the decrement of a NODE.SIG. -/
def State.goSig (s : State) (k : Cmd) : State :=
  let h := k.a.toNat
  match s.node? (h / 4096) (h % 4096) with
  | some x =>
    if h < 2 ^ 14 ∧ x.ctx = k.ctx then (s.finishCmd k.id).decrement (h / 4096) (h % 4096) (k.w3.toNat % 256) 0x92
    else s.cmdFault k 5 none 0
  | none => s.cmdFault k 5 none 0

def execPlace (w : CmdWords) (s : State) := issueCmd 0x90 w s
def execGlaunch (w : CmdWords) (s : State) := issueCmd 0x91 w s
def execNodeSig (w : CmdWords) (s : State) := issueCmd 0x92 w s

end Sys2Proof.Machine
end

