-- ==== Sys2Proof/Machine/Firmware.lean ====
section
/-! DEFINITION. The firmware of the management core and its command windows (21_host_firmware.md, R350–R361; R140, R141,
R371, R372, R411–R413, R421): events, the commands, snapshots, resets, the stop at a tick and boot. -/

namespace Sys2Proof.Machine

/-! ## Windows (R351, R352) -/

/-- The bytes of a window's command block that the host writes. -/
def HostWindow.block (w : HostWindow) : List Byte :=
  leBytes 2 w.code.toNat ++ leBytes 2 w.flags.toNat ++ leBytes 4 w.seq.toNat
    ++ (List.range 7).flatMap fun i => leBytes 8 (SMap.get 0#64 w.args i).toNat

/-- A block replaced. -/
def HostWindow.withBlock (w : HostWindow) (bs : List Byte) : HostWindow :=
  let f := entryField bs
  { w with code := BitVec.ofNat 16 (f 0 2), flags := BitVec.ofNat 16 (f 2 2), seq := BitVec.ofNat 32 (f 4 4)
           args := ((List.range 7).map fun i => (i, BitVec.ofNat 64 (f (8 + 8 * i) 8))).filter fun p => decide (p.2 ≠ 0#64) }

/-- The 4 KiB page of a window as a host reads it (R351); reserved bytes read as zero (R2). -/
def HostWindow.page (w : HostWindow) : List Byte :=
  w.block ++ leBytes 2 w.status.toNat ++ leBytes 2 0 ++ leBytes 4 w.rseq.toNat
    ++ ((List.range 7).flatMap fun i => leBytes 8 (SMap.get 0#64 w.res i).toNat)
    ++ leBytes 4 w.doorbell.toNat ++ leBytes 4 w.eprod.toNat ++ leBytes 4 w.econs.toNat ++ leBytes 116 0
    ++ ((List.range 60).flatMap fun i => leBytes 64 (SMap.get 0#512 w.events i).toNat)

/-- Bytes of `old` with those of `new` laid over them from an offset. -/
def overlay (old : List Byte) (off : Nat) (new : List Byte) : List Byte :=
  (old.zip (List.range old.length)).map fun p => if off ≤ p.2 then new.getD (p.2 - off) p.1 else p.1

/-- WINDOW_REGISTER_WRITE: the fields a host writes take the bytes; every other byte is ignored (R2, R351). Window 4 is the
command block of the side-band port (R359). -/
def execWindowRegisterWrite (ctx off : Nat) (bytes : List Byte) (s : State) : Host.Outcome State Fault Refusal :=
  if 5 ≤ ctx ∨ (ctx < 4 ∧ s.hostDown) then .next s
  else
    let w := s.win ctx
    .next (s.setWin ctx (w.withBlock ((overlay w.page off bytes).take 64)))

def HostWindow.arg (w : HostWindow) (i : Nat) : Word := SMap.get 0#64 w.args i
/-- FLAGS bits SET and FORCE. -/
def HostWindow.set (w : HostWindow) : Bool := w.flags.getLsbD 0
def HostWindow.force (w : HostWindow) : Bool := w.flags.getLsbD 1

/-- STATUS codes (R353). -/
def stOk : Nat := 0
def stBadCode : Nat := 1
def stPinned : Nat := 3
def stNoSpace : Nat := 4
def stBadSig : Nat := 5
def stAborted : Nat := 6
def stDown : Nat := 7

/-- A command is in flight in a window. -/
def State.busy (s : State) (win : Nat) : Bool := decide (win < 4) && decide ((s.ctx win).inFlight ≠ none)

/-- Commands the side-band port accepts (R359). -/
def sideBand (w : HostWindow) : Bool :=
  decide (w.code = 0xD#16) || decide (w.code = 0xE#16) || decide (w.code = 0xF#16)
    || (decide (w.code = 2#16) && decide (0x100 ≤ (w.arg 0).toNat))

/-- A doorbell is written with `seq`, the block standing in the window being one that `is` accepts; `run` performs it and
answers (R352, R372). A side-band request is never discarded: one is in flight at a time (R359). A reserved FLAGS bit that is set
stays in the window and makes the command BADARG, as R372 lists it, where R351 has the window's reserved fields follow R2: the
model's choice (log 75). -/
def doorbell (win : Nat) (seq : BitVec 32) (is : HostWindow → Bool) (run : HostWindow → State → State) (s : State) :
    Host.Outcome State Fault Refusal :=
  let w := s.win win
  let rung := s.setWin win { w with doorbell := seq }
  if 5 ≤ win then .next s
  else if win < 4 ∧ (s.busy win ∨ seq = w.rseq) then .next rung
  else if !is w ∨ (win = 4 ∧ !sideBand w) then .next s
  -- with refused certificates every ATTEST is BADSIG, whatever else is wrong with it (R361)
  else if 4 ≤ w.flags.toNat ∧ !(s.certsRefused && decide (w.code = 0xE#16)) then .next (rung.answer win seq stBadArg [])
  else if win < 4 ∧ s.hostDown ∧ !sideBand w then .next (rung.answer win seq stDown [])
  else .next (run w rung)

/-- Command codes of R354. -/
def knownCode (c : BitVec 16) : Bool := decide (1 ≤ c.toNat ∧ c.toNat ≤ 0xF)

/-- BADCODE: a doorbell with a code that does not exist or that the port refuses; one written while a command is in flight
is discarded (R352, R354, R359). -/
def execBadcode (win : Nat) (seq : BitVec 32) (s : State) : Host.Outcome State Fault Refusal :=
  let w := s.win win
  let rung := s.setWin win { w with doorbell := seq }
  if 5 ≤ win then .next s
  else if win < 4 ∧ (s.busy win ∨ seq = w.rseq) then .next rung
  else if knownCode w.code ∧ (win ≠ 4 ∨ sideBand w) then .next s
  else .next (rung.answer win seq stBadCode [])

/-- The window holds a command code. -/
def codeIs (c : Nat) (w : HostWindow) : Bool := decide (w.code.toNat = c)

/-! ## Events consumed (R351, R367) -/

/-- Events of a context that the host has consumed, from ECONS; a value beyond EPROD or behind the ring counts as EPROD. -/
def State.consumedTo (s : State) (k : Nat) (v : BitVec 32) : BitVec 32 × Nat :=
  let x := s.ctx k
  let w := s.win k
  let made := x.evCount - x.evHeld.length
  let back := (w.eprod - v).toNat
  if back ≤ 60 then (v, made - back) else (w.eprod, made)

/-- ECONS_WRITE: consumed notices free their slots, held events are written, and with the last notice the freeze lifts
(R358, R366, R367). -/
def execEconsWrite (ctx : Nat) (value : BitVec 32) (s : State) : Host.Outcome State Fault Refusal :=
  if 4 ≤ ctx ∨ s.hostDown then .next s
  else
    let (v, n) := s.consumedTo ctx value
    let s1 := s.setWin ctx { s.win ctx with econs := v }
    let s2 := s1.updCtx ctx fun x => { x with ring := { x.ring with notices := x.ring.notices.filter fun p => decide (n ≤ p.2) } }
    let s3 := s2.deliverEvents ctx 60
    .next (if s.frozen ctx && !s3.frozen ctx then s3.liftFreeze ctx else s3)

/-! ## CXL.mem (R350, R366, R408, R421) -/

/-- HOST_MEM_READ: bytes of HBM leave by the host link, marked when a sector of them is poisoned; a channel that is being copied
takes no access (R409). -/
def execHostMemRead (hpa len : Nat) (s : State) : Host.Outcome State Fault Refusal :=
  let pa := hpa - Config.hostBase
  let at_ := (List.range len).map (pa + ·)
  if s.hostDown ∨ hpa < Config.hostBase ∨ hbmEnd < pa + len ∨ at_.any s.copying then .next s
  else .next { s with outbox := s.outbox ++ [.hostData pa (at_.map s.mem.read) (at_.any s.poisoned)] }

/-- Write bytes at a physical address; sectors covered whole lose their poison (R408). -/
def State.blockWrite (s : State) (pa : Nat) (bs : List Byte) : State :=
  { s with
    mem := s.mem.writeBytes pa bs
    poison := s.poison.filter fun p => !(decide (pa ≤ 128 * p.1) && decide (128 * p.1 + 128 ≤ pa + bs.length)) }

/-- HOST_MEM_WRITE. -/
def execHostMemWrite (hpa : Nat) (bytes : List Byte) (s : State) : Host.Outcome State Fault Refusal :=
  let pa := hpa - Config.hostBase
  if s.hostDown ∨ hpa < Config.hostBase ∨ hbmEnd < pa + bytes.length ∨ ((List.range bytes.length).map (pa + ·)).any s.copying then
    .next s
  else .next (s.blockWrite pa bytes)

/-- Physical address of a host physical address (R94). -/
def hostPa (h : Word) : Nat := hostMem + h.toNat % hostMem

/-! ## IDENT and QUERY (R354, R355) -/

/-- IDENT. -/
def execIdent (win : Nat) (seq : BitVec 32) (s : State) : Host.Outcome State Fault Refusal :=
  doorbell win seq (codeIs 1) (fun _ s => s.answer win seq stOk
    [s.devId.zeroExtend 64, s.fwVersion, BitVec.ofNat 64 hbmEnd, BitVec.ofNat 64 (Nat.min Config.cxlBytes 0x40000000000),
      BitVec.ofNat 64 win]) s

/-- A graph of some context that `p` accepts is launched. -/
def State.launchedIn (s : State) (p : Nat → Bool) : Bool := (s.launchesOf fun l => p l.ctx && decide (l.count = 0)) ≠ []

/-- A node that the latest request pre-empts is still to be saved. -/
def State.preempting (s : State) (k : Nat) : Bool :=
  let now := s.pendingSaves k
  (s.ctx k).preemptReq.any fun p => decide (p ∈ now)

/-- The value of a parameter (R355). -/
def State.parameter (s : State) (win : Nat) (p : Nat) : Option Word :=
  match p with
  | 0 => some s.tkoff
  | 1 => some (BitVec.ofNat 64 (s.ageing win))
  | 2 => some (s.ctx win).saveBase
  | 3 => some (if s.preempting win then 1 else 0)
  | 4 => some (s.devId.zeroExtend 64)
  | p => if 0x100 ≤ p ∧ p < 0x114 then some (SMap.get 0#64 s.monitors (p - 0x100)) else none

/-- The block is QUERY, reading or naming a parameter that no SET writes. -/
def isQuery (w : HostWindow) : Bool := codeIs 2 w && !(w.set && decide ((w.arg 0).toNat ≤ 4))

/-- The block is QUERY with SET of a parameter. -/
def setsParam (p : Nat) (w : HostWindow) : Bool := codeIs 2 w && w.set && decide ((w.arg 0).toNat = p)

/-- QUERY. -/
def execQuery (win : Nat) (seq : BitVec 32) (s : State) : Host.Outcome State Fault Refusal :=
  doorbell win seq isQuery (fun w s =>
    match (if w.set then none else s.parameter win (w.arg 0).toNat) with
    | some v => s.answer win seq stOk [v]
    | none => s.answer win seq stBadArg []) s

/-- QUERY with SET: `f` gives the state written, or nothing when the value is refused. -/
def querySet (p win : Nat) (seq : BitVec 32) (f : Word → State → Option State) (s : State) :
    Host.Outcome State Fault Refusal :=
  doorbell win seq (setsParam p) (fun w s =>
    match f (w.arg 1) s with
    | some s1 => s1.answer win seq stOk []
    | none => s.answer win seq stBadArg []) s

def execQuerySetTkoff (win : Nat) (seq : BitVec 32) (s : State) : Host.Outcome State Fault Refusal :=
  querySet 0 win seq (fun v s => some { s with tkoff := v }) s

def execQuerySetAgeing (win : Nat) (seq : BitVec 32) (s : State) : Host.Outcome State Fault Refusal :=
  querySet 1 win seq (fun v s => if 40 < v.toNat then none else some (s.updCtx win fun x => { x with ageing := v.toNat })) s

def execQuerySetSaveArea (win : Nat) (seq : BitVec 32) (s : State) : Host.Outcome State Fault Refusal :=
  querySet 2 win seq (fun v s =>
    if v.toNat % 65536 ≠ 0 ∨ !addrOk v ∨ s.launchedIn (· == win) then none
    else some (s.updCtx win fun x => { x with saveBase := v })) s

def execQuerySetPreempt (win : Nat) (seq : BitVec 32) (s : State) : Host.Outcome State Fault Refusal :=
  querySet 3 win seq (fun v s =>
    if (s.ctx win).saveBase = 0#64 then none else some (if v = 1#64 then s.preemptContext win else s)) s

def execQuerySetDeviceId (win : Nat) (seq : BitVec 32) (s : State) : Host.Outcome State Fault Refusal :=
  querySet 4 win seq (fun v s =>
    if 65536 ≤ v.toNat ∨ s.launchedIn (fun _ => true) then none else some { s with devId := BitVec.ofNat 16 v.toNat }) s

/-! ## Mappings (R95, R96, R111, R140, R141, R354) -/

/-- log2 of a page size by its code; none for the reserved one. -/
def pageBits (code : Nat) : Option Nat := match code with | 0 => some 16 | 1 => some 21 | 2 => some 27 | _ => none

/-- The page overlaps a range. -/
def Page.touches (p : Page) (va len : Nat) : Bool := decide (p.va < va + len) && decide (va < p.va + 2 ^ p.bits)

/-- The page lies wholly in a range. -/
def Page.within (p : Page) (va len : Nat) : Bool := decide (va ≤ p.va) && decide (p.va + 2 ^ p.bits ≤ va + len)

/-- Pages of a context that a range touches. -/
def State.touched (s : State) (k va len : Nat) : List Page := (s.pages k).filter fun p => p.touches va len

/-- A range of whole pages of a size, covering no existing page in part (R354, R372). -/
def State.rangeOk (s : State) (k va len size : Nat) : Bool :=
  decide (va % size = 0) && decide (len % size = 0) && decide (va + len ≤ 2 ^ 56) && (s.touched k va len).all fun p => p.within va len

/-- Opcodes whose commands access memory while they run. -/
def touchesMemory (opc : Nat) : Bool :=
  decide (0x30 ≤ opc ∧ opc < 0x80) || decide (opc = 0x81) || decide (opc = 0x90)

/-- An access at a virtual address and the bytes it goes to was made with one of the entries (R140). -/
def usesOld (old : List Page) (va : Nat) (pas : List Nat) : Bool :=
  old.any fun p => p.touches va pas.length && pas.any fun a => decide (p.pa ≤ a) && decide (a < p.pa + 2 ^ p.bits)

/-- Every incomplete command, those of pre-empted members in their slots included: they go on when their node resumes (R38, R140). -/
def State.allCmds (s : State) : List Cmd := s.cmds ++ s.ctxs.flatMap fun x => x.2.slots.flatMap fun v => v.2.cmds

/-- The commands, scalar accesses and deferred PLDAs of a context that use some of the entries (R140). -/
def State.usersOf (s : State) (k : Nat) (old : List Page) (f : InFlight) : InFlight :=
  { f with
    old := old
    cmds := (s.allCmds.filter fun j => decide (j.ctx = k) && j.tlb.any fun p => decide (p ∈ old)).map (·.id)
    accs := s.cores.flatMap fun c =>
      if c.2.ctx = k ∧ c.2.run ≠ .idle then (c.2.accs.filter fun a => usesOld old a.va a.pas).map fun a => (c.1, a.id) else []
    defs := (s.deferrals.filter fun d => match d.who with
      | .plda n _ va => decide ((s.core n).ctx = k) && usesOld old va [8 * d.word]
      | .pld _ _ => false).map (·.id) }

/-- Some user of the removed entries has not finished: a command that still uses one of them, an access or a deferral. -/
def State.stillUsed (s : State) (f : InFlight) : Bool :=
  s.allCmds.any (fun j => decide (j.id ∈ f.cmds) && j.tlb.any fun p => decide (p ∈ f.old))
    || f.accs.any (fun p => decide ((s.core p.1).run ≠ .idle) && (s.core p.1).accs.any fun a => decide (a.id = p.2))
    || s.deferrals.any fun d => decide (d.id ∈ f.defs)

/-- Write back and invalidate the window sectors of pages (R104). -/
def State.flushPages (s : State) (k : Nat) (ps : List Page) : State :=
  ps.foldl (fun s p => s.flushPage k p.va (2 ^ p.bits)) s

/-- A mapping change over a range: the sectors of its pages leave every window, then the pages become `f` of themselves. -/
def State.changePages (s : State) (k va len : Nat) (f : Page → Option Page) : State :=
  (s.flushPages k (s.touched k va len)).updCtx k fun x => { x with
    pages := x.pages.filterMap fun p => if p.touches va len then f p else some p }

/-- Empty the presence words of a physical range (R111). -/
def State.emptyWords (s : State) (pa len : Nat) : State :=
  { s with
    mem := s.mem.filter fun p => !(decide (pa ≤ p.1) && decide (p.1 < pa + len))
    full := s.full.filter fun p => !(decide (pa ≤ 8 * p.1) && decide (8 * p.1 < pa + len))
    poison := s.poison.filter fun p => !(decide (pa ≤ 128 * p.1) && decide (128 * p.1 < pa + len)) }

/-- Frames the firmware keeps for itself: its fault rings and its scan area (R366, R421). -/
def reservedFrames (pa len : Nat) : Bool :=
  (decide (pa < Config.scanArea + 65536 * Config.scanFrames) && decide (Config.scanArea < pa + len))
    || (decide (pa < Config.faultRing 0 + 65536) && decide (Config.faultRing 0 < pa + len))

/-- A mapping command's outcome: a refusal with its STATUS, or the state it makes. -/
inductive MapRes where
  | refuse (status : Nat)
  | done (s : State)

/-- The pages a mapping command names: its page size, virtual address and length. -/
def mapRange (code : Nat) (args : List Word) : Option (Nat × Nat × Nat) :=
  let arg := fun (i : Nat) => (args.getD i 0#64).toNat
  (if code = 3 then pageBits (arg 3 / 16 % 4) else some 16).map fun bits => (bits, arg 0, if code = 3 then arg 2 else arg 1)

/-- MAP, UNMAP, INVAL, PIN or UNPIN with its arguments (R354): the entry is removed or changed at once (R140). MAP over frames
that the firmware reserves finds too few frames (R366, R372; log 76). -/
def State.mapping (s : State) (k code : Nat) (force : Bool) (args : List Word) : MapRes :=
  let arg := fun (i : Nat) => (args.getD i 0#64).toNat
  let attr := BitVec.ofNat 16 (arg 3 % 256)
  match mapRange code args with
  | none => .refuse stBadArg
  | some (bits, va, len) =>
    let size := 2 ^ bits
    if !s.rangeOk k va len size then .refuse stBadArg
    else if code = 3 ∧ (arg 1 % size ≠ 0 ∨ 2 ^ 52 < arg 1 + len) then .refuse stBadArg
    else if code = 3 ∧ attr.getLsbD 6 ∧ hbmEnd < arg 1 + len then .refuse stBadArg
    else if code ≤ 5 ∧ (s.touched k va len).any (·.pin) ∧ !force then .refuse stPinned
    else if code = 3 ∧ reservedFrames (arg 1) len then .refuse stNoSpace
    else .done (match code with
      | 3 =>
        let s1 := s.changePages k va len fun _ => none
        let s2 := if attr.getLsbD 6 then s1.emptyWords (arg 1) len else s1
        s2.updCtx k fun x => { x with pages := x.pages ++ (List.range (len / size)).map fun i =>
          ⟨va + size * i, arg 1 + size * i, bits, attr⟩ }
      | 4 => s.changePages k va len fun _ => none
      | 5 => s.changePages k va len some
      | 6 => s.changePages k va len fun p => some { p with attr := p.attr ||| 0x80#16 }
      | _ => s.changePages k va len fun p => some { p with attr := p.attr &&& ~~~0x80#16 })

/-- A change of mappings goes on: once nothing uses the old entries, the sectors that their last users left leave the windows
and the command completes (R140, R141). -/
def State.changeGo (s : State) (win : Nat) (f : InFlight) : State :=
  if s.stillUsed f then s.updCtx win fun x => { x with inFlight := some f }
  else ((s.flushPages win f.old).updCtx win fun x => { x with inFlight := none }).answer win f.seq stOk f.res

/-- A mapping command begins. -/
def State.mapStart (s : State) (win : Nat) (f : InFlight) : State :=
  match s.mapping win f.code.toNat (f.flags.getLsbD 1) f.args with
  | .refuse st => s.answer win f.seq st []
  | .done s1 =>
    let old := match mapRange f.code.toNat f.args with
      | some (_, va, len) => s.touched win va len
      | none => []
    s1.changeGo win (s.usersOf win old f)

/-- The block as a command in flight. -/
def HostWindow.flight (w : HostWindow) (seq : BitVec 32) : InFlight :=
  { code := w.code, flags := w.flags, seq := seq, args := (List.range 7).map w.arg }

/-- The doorbell of a command that may stay in flight: the command in flight with this number goes on, another one is
discarded. -/
def flightDoorbell (code win : Nat) (seq : BitVec 32) (start go : InFlight → State → State) (s : State) :
    Host.Outcome State Fault Refusal :=
  match (if win < 4 then (s.ctx win).inFlight else none) with
  | some f => if f.code.toNat = code ∧ f.seq = seq then .next (go f s)
    else .next (s.setWin win { s.win win with doorbell := seq })
  | none => doorbell win seq (codeIs code) (fun w s => start (w.flight seq) s) s

/-- The doorbell of a mapping command. -/
def mapDoorbell (code win : Nat) (seq : BitVec 32) (s : State) : Host.Outcome State Fault Refusal :=
  flightDoorbell code win seq (fun f s => s.mapStart win f) (fun f s => s.changeGo win f) s

def execMap (win : Nat) (seq : BitVec 32) (s : State) := mapDoorbell 3 win seq s
def execUnmap (win : Nat) (seq : BitVec 32) (s : State) := mapDoorbell 4 win seq s
def execInval (win : Nat) (seq : BitVec 32) (s : State) := mapDoorbell 5 win seq s
def execPin (win : Nat) (seq : BitVec 32) (s : State) := mapDoorbell 6 win seq s
def execUnpin (win : Nat) (seq : BitVec 32) (s : State) := mapDoorbell 7 win seq s

/-! ## LOADGRAPH (R333, R357, R361) -/

/-- Sections of a .zi image: virtual address, file offset, size, attributes. -/
def sectionsOf : Nat → List (Nat × Nat × Nat) → List (Nat × Nat × Nat × Nat)
  | _, [] => []
  | va, (off, size, attr) :: r => (va, off, size, attr) :: sectionsOf (va + (size + 65535) / 65536 * 65536) r

/-- The sections a header names, from its 112 bytes; none when it is malformed. -/
def ziSections (hdr : List Byte) (len : Nat) : Option (List (Nat × Nat × Nat × Nat)) :=
  let f := entryField hdr
  let base := f 8 8
  let ps := (List.range 6).map fun i => (f (0x10 + 16 * i) 8, f (0x18 + 16 * i) 8, [0xB, 0xB, 0xB, 3, 7, 7].getD i 0)
  let total := ps.foldl (fun a p => a + (p.2.1 + 65535) / 65536 * 65536) 0
  if len < 112 ∨ f 0 4 ≠ 0x3130495A ∨ f 4 4 ≠ 0 ∨ base % 65536 ≠ 0 ∨ 2 ^ 56 < base + total ∨ f 0x60 8 ≠ 0
      ∨ (ps.take 5).any (fun p => decide (len < p.1 + p.2.1)) then none
  else some (sectionsOf base ps)

/-- Map and fill the pages of a section, frame by frame. -/
def State.fillSection (s : State) (k attr : Nat) : Nat → List Byte → List Nat → State
  | _, _, [] => s
  | va, bs, fr :: r =>
    let s1 := (s.blockWrite fr (bs.take 65536)).updCtx k fun x => { x with pages := x.pages ++ [⟨va, fr, 16, BitVec.ofNat 16 attr⟩] }
    s1.fillSection k attr (va + 65536) (bs.drop 65536) r

/-- Frames a section needs. -/
def framesOf (size : Nat) : Nat := (size + 65535) / 65536

/-- Every section in turn, from the frames given. -/
def State.fillSections (s : State) (k hpa : Nat) : List (Nat × Nat × Nat × Nat) → List Nat → State
  | [], _ => s
  | (va, off, size, attr) :: r, frames =>
    let bs := if r = [] then List.replicate size 0#8 else s.mem.readBytes (hpa + off) size
    let n := framesOf size
    State.fillSections ((s.changePages k va (65536 * n) fun _ => none).fillSection k attr va bs (frames.take n)) k hpa r (frames.drop n)

/-- Entries of a context whose frames are in use: its mappings, and those that a change under way has removed (R140). -/
def Context.entries (x : Context) : List Page :=
  x.pages ++ (match x.inFlight with
    | some f => f.old
    | none => [])

/-- A frame the firmware may choose: 64 KiB of HBM that no context uses and the firmware does not keep for itself. -/
def State.freeFrame (s : State) (fr : Nat) : Bool :=
  decide (fr % 65536 = 0) && decide (fr + 65536 ≤ hbmEnd) && !reservedFrames fr 65536 && s.ctxs.all fun c => c.2.entries.all fun p =>
    decide (p.pa + 2 ^ p.bits ≤ fr) || decide (fr + 65536 ≤ p.pa)

/-- The lowest free frames from the i-th one on, up to `need` of them. -/
def State.lowFrames (s : State) : Nat → Nat → Nat → List Nat
  | 0, _, _ => []
  | _ + 1, 0, _ => []
  | f + 1, need + 1, i =>
    if s.freeFrame (65536 * i) then 65536 * i :: s.lowFrames f need (i + 1) else s.lowFrames f (need + 1) (i + 1)

/-- The frames LOADGRAPH takes: the firmware's choice where it is one, else the lowest; none when fewer are free (R357). -/
def State.framesFor (s : State) (need : Nat) (choice : List Nat) : Option (List Nat) :=
  if need ≤ choice.length ∧ choice.all s.freeFrame ∧ choice.dedup = choice then some (choice.take need)
  else
    let l := s.lowFrames (hbmEnd / 65536) need 0
    if l.length = need then some l else none

/-- A host physical address is one: 52 bits (R94, R372; log 79). -/
def hostOk (h : Word) : Bool := decide (h.toNat < 2 ^ 52)

/-- LOADGRAPH begins: pages replaced follow R140, so it completes once nothing uses them. -/
def State.loadStart (s : State) (win : Nat) (frames : List Nat) (f : InFlight) : State :=
  let arg := fun (i : Nat) => f.args.getD i 0#64
  let hpa := hostPa (arg 0)
  let hdr := s.mem.readBytes hpa 112
  match (if hostOk (arg 0) then ziSections hdr (arg 1).toNat else none) with
  | none => s.answer win f.seq stBadArg []
  | some secs =>
    let need := secs.foldl (fun a p => a + framesOf p.2.2.1) 0
    let olds := secs.flatMap fun p => s.touched win p.1 (65536 * framesOf p.2.2.1)
    let part := secs.any fun p => (s.touched win p.1 (65536 * framesOf p.2.2.1)).any fun q => !q.within p.1 (65536 * framesOf p.2.2.1)
    if part then s.answer win f.seq stBadArg []
    else match s.framesFor need frames with
      | none => s.answer win f.seq stNoSpace []
      | some frs =>
        let stored := hdr ++ (secs.take 5).flatMap fun p => s.mem.readBytes (hpa + p.2.1) p.2.2.1
        let s1 := s.fillSections win hpa secs frs
        { s1 with measures := s1.measures ++ [(win, Config.sha384 stored)] }.changeGo win
          { s.usersOf win olds f with res := [BitVec.ofNat 64 (entryField hdr 8 8)] }

/-- LOADGRAPH with the frames that the firmware chooses (R357). -/
def execLoadgraph (win : Nat) (seq : BitVec 32) (frames : List Nat) (s : State) : Host.Outcome State Fault Refusal :=
  flightDoorbell 8 win seq (fun f s => s.loadStart win frames f) (fun f s => s.changeGo win f) s

/-! ## LAUNCH, CANCEL (R354, R371, R396) -/

/-- LAUNCH begins: the firmware reads the header, and the request goes to the home die, which completes the command as it
accepts it (R354). A header that cannot be read or is malformed is BADARG; a recoverable fault holds the request, and the
command with it (R372, R396, R403). So is an image with a malformed node record (log 80). -/
def State.launchStart (s : State) (win : Nat) (f : InFlight) : State :=
  let a := f.args.getD 0 0#64
  let image := a.toNat
  let go := (s.requestLaunch 4 win image (f.args.getD 1 0#64) none (some win)).updCtx win fun x => { x with inFlight := some f }
  if !addrOk a ∨ image % 64 ≠ 0 ∨ s.launchBad win image then s.answer win f.seq stBadArg [] else go

def execLaunch (win : Nat) (seq : BitVec 32) (s : State) : Host.Outcome State Fault Refusal :=
  flightDoorbell 9 win seq (fun f s => s.launchStart win f) (fun _ s => s) s

/-- CANCEL (R371, R372). -/
def execCancel (win : Nat) (seq : BitVec 32) (s : State) : Host.Outcome State Fault Refusal :=
  doorbell win seq (codeIs 0xA) (fun w s =>
    let image := (w.arg 0).toNat
    if !addrOk (w.arg 0) ∨ image % 64 ≠ 0 then s.answer win seq stBadArg []
    else (s.cancelGraphs 2 (s.launchesOf fun l => decide (l.ctx = win) && decide (l.image = image) && decide (l.count = 0))).answer
      win seq stOk []) s

/-! ## Snapshots (R411–R413) -/

/-- A snapshot area as its header describes it. -/
structure SnapArea where
  seq : Nat
  slen : Nat
  peer : Nat
  pseq : Nat
  ranges : List (Nat × Nat)
deriving DecidableEq, Repr

/-- A range that translates for an access, page by page. -/
def State.rangeMapped (s : State) (k : Nat) (need : Need) (va len : Nat) : Bool :=
  (List.range (len / 65536)).all fun i => (match translate (s.pages k) (va + 65536 * i) need with | .ok _ => true | .error _ => false)

/-- Read a header of a snapshot area and check it; the area lies in writable HBM. -/
def State.snapArea (s : State) (k va : Nat) : Option SnapArea :=
  match s.uncopied.load ⟨k, none, none⟩ 1#2 va 64 with
  | .error _ => none
  | .ok (_, h) =>
    let f := entryField h
    match s.uncopied.load ⟨k, none, none⟩ 1#2 (va + 64) (16 * f 4 2) with
    | .error _ => none
    | .ok (_, rb) =>
      let ranges := (List.range (f 4 2)).map fun i => (entryField rb (16 * i) 8, entryField rb (16 * i + 8) 8)
      let inHbmAt := fun (a len : Nat) => (List.range ((len + 65535) / 65536)).all fun i =>
        match translate (s.pages k) (a + 65536 * i) Need.rw with | .ok pa => inHbm pa | .error _ => false
      if va % 65536 = 0 ∧ f 0 4 = 1 ∧ 1 ≤ f 4 2 ∧ f 4 2 ≤ 255 ∧ f 0x18 8 % 65536 = 0
          ∧ ranges.all (fun r => decide (r.1 % 65536 = 0) && decide (r.2 % 65536 = 0))
          ∧ f 0x10 8 = ranges.foldl (fun a r => a + r.2) 0
          ∧ inHbmAt va (65536 + f 0x10 8) ∧ inHbmAt (va + f 0x18 8) (2 * f 0x10 8) then
        some ⟨f 8 8, f 0x10 8, f 0x18 8, f 0x20 8, ranges⟩
      else none

/-- The bytes of ranges, in order. -/
def State.readRanges (s : State) (k : Nat) : List (Nat × Nat) → Except MemFault (List Byte)
  | [] => .ok []
  | (va, len) :: r => match s.uncopied.load ⟨k, none, none⟩ 1#2 va len with
    | .error f => .error f
    | .ok (_, bs) => (s.readRanges k r).map (bs ++ ·)

/-- A store of the firmware's, part of a larger act (log 52). -/
def State.storeNow (s : State) (k va : Nat) (bs : List Byte) : Except MemFault State :=
  (s.uncopied.store ⟨k, none, none⟩ 1#2 va bs).map fun t => { t with channels := s.channels }

/-- Some node of the context runs. -/
def State.anyRuns (s : State) (k : Nat) : Bool :=
  (List.range 4).any fun d => (s.die d).deps.any fun p => match p.2 with
    | .node x => decide (x.ctx = k) && decide (x.st = .run)
    | _ => false

/-- A SNAPSHOT ends: dispatch resumes (R412). -/
def State.endSnapshot (s : State) (win : Nat) (seq : BitVec 32) (status : Nat) (res : List Word) : State :=
  ((s.updCtx win fun x => { x with inFlight := none, holdDispatch := false }).answer win seq status res).dispatchEngines

/-- A SNAPSHOT goes on: once nothing of the context runs, the ranges are copied into OWN, SEQ rises, and OWN goes to the
partner; a third argument of 1 in the command in flight says that it has gone. -/
def State.snapGo (s : State) (win : Nat) (f : InFlight) : State :=
  let area := (f.args.getD 0 0#64).toNat
  let s0 := s.updCtx win fun x => { x with inFlight := some f, holdDispatch := true }
  match s0.snapArea win area with
  | none => s0.endSnapshot win f.seq stBadArg []
  | some a =>
    if s0.anyRuns win ∨ f.args.getD 2 0#64 = 1#64 then s0
    else match s0.readRanges win a.ranges with
      | .error _ => s0.endSnapshot win f.seq stBadArg []
      | .ok bs =>
        match s0.storeNow win (area + 65536) bs with
        | .error _ => s0.endSnapshot win f.seq stBadArg []
        | .ok s1 => match s1.storeNow win (area + 8) (leBytes 8 (a.seq + 1)) with
          | .error _ => s0.endSnapshot win f.seq stBadArg []
          | .ok s2 =>
            { (s2.updCtx win fun x => { x with inFlight := some { f with args := (f.args.set 2 1#64) } }) with
              outbox := s2.outbox ++ [.shard (BitVec.ofNat 16 (f.args.getD 1 0#64).toNat) win (BitVec.ofNat 64 area)
                (BitVec.ofNat 64 (a.seq + 1)) bs] }

/-- SNAPSHOT; its third argument is the model's own and starts at 0. -/
def execSnapshot (win : Nat) (seq : BitVec 32) (s : State) : Host.Outcome State Fault Refusal :=
  match (if win < 4 then (s.ctx win).inFlight else none) with
  | some _ => flightDoorbell 0xB win seq (fun f s => s.snapGo win f) (fun f s => s.snapGo win f) s
  | none => doorbell win seq (codeIs 0xB) (fun w s => s.snapGo win { w.flight seq with args := (w.flight seq).args.set 2 0#64 }) s

/-- PSEQ_ACKNOWLEDGED: the partner has written PSEQ; SNAPSHOT completes with SEQ (R412). -/
def execPseqAcknowledged (ctx : Nat) (s : State) : Host.Outcome State Fault Refusal :=
  match (s.ctx ctx).inFlight with
  | none => .next s
  | some f =>
    if f.code ≠ 0xB#16 ∨ f.args.getD 2 0#64 ≠ 1#64 then .next s
    else .next (s.endSnapshot ctx f.seq stOk
      [BitVec.ofNat 64 (((s.snapArea ctx (f.args.getD 0 0#64).toNat).map (·.seq)).getD 0)])

/-- Address of a partner slot. -/
def SnapArea.slot (a : SnapArea) (area i : Nat) : Nat := area + a.peer + i * a.slen

/-- PARTNER_SHARD_RECEIVE: the shard goes into the slot that PSEQ does not name, then PSEQ is written and acknowledged. -/
def execPartnerShardReceive (ctx : Nat) (area : Word) (seq : Word) (shard : List Byte) (s : State) : Host.Outcome State Fault Refusal :=
  match s.snapArea ctx area.toNat with
  | none => .next s
  | some a =>
    if a.slen ≠ shard.length then .next s
    else match s.storeNow ctx (a.slot area.toNat (1 - a.pseq % 2)) shard with
      | .error _ => .next s
      | .ok s1 => match s1.storeNow ctx (area.toNat + 0x20) (leBytes 8 seq.toNat) with
        | .error _ => .next s
        | .ok s2 => .next { s2 with outbox := s2.outbox ++ [.pseqAck ctx seq] }

/-- PARTNER_SLOT_READ: the newest complete slot goes to the device that restores. -/
def execPartnerSlotRead (ctx : Nat) (area : Word) (device : BitVec 16) (s : State) : Host.Outcome State Fault Refusal :=
  match s.snapArea ctx area.toNat with
  | none => .next s
  | some a => match s.uncopied.load ⟨ctx, none, none⟩ 1#2 (a.slot area.toNat (a.pseq % 2)) a.slen with
    | .error _ => .next s
    | .ok (_, bs) => .next { s with outbox := s.outbox ++ [.shard device ctx area (BitVec.ofNat 64 a.pseq) bs] }

/-- Write a shard's ranges in turn. -/
def State.writeRanges (s : State) (k : Nat) : List (Nat × Nat) → List Byte → Except MemFault State
  | [], _ => .ok s
  | (va, len) :: r, bs => match s.storeNow k va (bs.take len) with
    | .error f => .error f
    | .ok s1 => s1.writeRanges k r (bs.drop len)

/-- RESTORE: `remote` is what the named device answers; everything is checked before anything is written (R413). -/
def execRestore (win : Nat) (seq : BitVec 32) (remote : RemoteShard) (s : State) : Host.Outcome State Fault Refusal :=
  doorbell win seq (codeIs 0xC) (fun w s =>
    let area := (w.arg 0).toNat
    let bad := s.answer win seq stBadArg []
    match s.snapArea win area with
    | none => bad
    | some a =>
      let own := decide ((w.arg 1).toNat = s.devId.toNat)
      match (if own then (s.uncopied.load ⟨win, none, none⟩ 1#2 (area + 65536) a.slen).map (·.2) else .ok remote.bytes) with
      | .error _ => bad
      | .ok bs =>
        if bs.length ≠ a.slen ∨ !(a.ranges.all fun r => s.rangeMapped win Need.write r.1 r.2) then bad
        else match s.writeRanges win a.ranges bs with
          | .error _ => bad
          | .ok s1 => s1.answer win seq stOk [if own then BitVec.ofNat 64 a.seq else remote.seq]) s

/-! ## RESET (R354, R356, R359, R360, R371) -/

/-- Free launch entries. -/
def State.freeLaunches (s : State) : List (Nat × Nat) → State
  | [] => s
  | (d, e) :: r => (s.setDep d e .free).freeLaunches r

/-- RESET of level 0: the context's graphs are cancelled; its entries, mappings, hurdles, placement and rounds go, its
fault ring is emptied and its freeze lifts; frames keep their contents (R371, R413). XSTAT stays (R311). -/
def State.resetCtx (s : State) (k : Nat) : State :=
  let s1 := s.cancelGraphs 3 (s.launchesOf fun l => decide (l.ctx = k) && decide (l.count = 0))
  let s2 := s1.freeLaunches (s1.launchesOf fun l => decide (l.ctx = k))
  let s3 := s2.flushPages k (s2.pages k)
  let x := s3.ctx k
  { s3.setCtx k { evCount := x.evCount, evHeld := x.evHeld, xqnan := x.xqnan } with
    reqs := s3.reqs.filter fun r => decide (r.ctx ≠ k) }

/-- Commands in flight when a reset comes complete with ABORTED if the host link is up (R359, R372). -/
def State.abortFlights (old s : State) : State :=
  if old.hostDown then s
  else (List.range 4).foldl (fun s k => match (old.ctx k).inFlight with
    | some f => s.answer k f.seq stAborted []
    | none => s) s

/-- RESET of level 0: of the window's context. The side-band port accepts it and names no context: every context is reset, and
the commands in flight are aborted (R359; log 77). -/
def execResetContext (win : Nat) (seq : BitVec 32) (s : State) : Host.Outcome State Fault Refusal :=
  doorbell win seq (fun w => codeIs 0xD w && decide (w.arg 0 ≠ 1#64)) (fun w s =>
    if w.arg 0 ≠ 0#64 then s.answer win seq stBadArg []
    else if win = 4 then (s.abortFlights ((List.range 4).foldl State.resetCtx s)).answer win seq stOk []
    else (s.resetCtx win).answer win seq stOk []) s

/-- Host memory when the device resets: with the link down, what the L2 still held of it is lost (R410; log 3). -/
def State.dropHeld (s : State) : Memory :=
  if s.hostDown then
    s.hostOld.foldl (fun m e => if Config.heldLine s.free (e.1 / 128) then m.write e.1 e.2 else m) s.mem
  else s.mem

/-- The ROM firmware boots: it measures itself and an accepted patch image from flash; a refused one leaves it unpatched
(R360, R361). -/
def State.boot (s : State) (patch : PatchImage) (certs : Bool) : State :=
  let taken := patch.present && patch.signed && patch.fresh
  { s with
    flash := patch
    certs := certs
    fwVersion := if taken then patch.version else Config.romVersion
    patchRefused := patch.present && !taken
    certsRefused := !certs
    measures := (4, Config.romMeasure) :: (if taken then [(4, patch.measure)] else []) }

/-- The hottest junction is above 105 °C on some die, or the module draws more than 3,000 W. -/
def tooHot (m : SMap Word) : Bool :=
  ((List.range 5).any fun d => decide (105 * 256 < (SMap.get 0#64 m (4 * d)).toInt))
    || decide (3000 < ((List.range 5).map fun d => (SMap.get 0#64 m (4 * d + 3)).toNat).sum)

/-- The hottest junction of some die is at 115 °C or above (R362). -/
def overheated (m : SMap Word) : Bool := (List.range 5).any fun d => decide (115 * 256 ≤ (SMap.get 0#64 m (4 * d)).toInt)

/-- The module after reset: everything is as at reset but what lies in the memories; the firmware boots from flash, trains
every port and brings up the host link (R360). The monitors stand as they are, and with them what they ask for (R362). -/
def State.rebooted (s : State) : State :=
  { State.reset with
    mem := s.dropHeld, full := s.full, poison := s.poison, agenda := s.agenda, free := s.free + 1, outbox := s.outbox
    monitors := s.monitors, throttled := tooHot s.monitors, power := if overheated s.monitors then .shut else .on
    channels := s.channels, spares := s.spares }.boot s.flash s.certs

/-- RESET of level 1. While the link is down no command in flight can be answered. -/
def execResetModule (win : Nat) (seq : BitVec 32) (s : State) : Host.Outcome State Fault Refusal :=
  doorbell win seq (fun w => codeIs 0xD w && decide (w.arg 0 = 1#64)) (fun _ s =>
    (s.abortFlights s.rebooted).answer win seq stOk []) s

/-! ## ATTEST (R361) -/

/-- What the attestation report holds, in the order R361 lists it; field widths and byte order are the model's (log 78). -/
def State.attested (s : State) (nonce : List Byte) : List Byte :=
  nonce ++ leBytes 2 s.devId.toNat ++ leBytes 8 s.fwVersion.toNat
    ++ (s.measures.flatMap fun m => leBytes 1 m.1 ++ leBytes 48 m.2.toNat) ++ Config.identityCerts

/-- The attestation report: its fields, then both signatures over all of them. -/
def State.attestReport (s : State) (nonce : List Byte) : List Byte :=
  s.attested nonce ++ Config.rsaSign (s.attested nonce) ++ Config.slhSign (s.attested nonce)

/-- ATTEST: BADSIG while the certificates stand refused; else the report goes to host memory, or into the side-band
response. -/
def execAttest (win : Nat) (seq : BitVec 32) (s : State) : Host.Outcome State Fault Refusal :=
  doorbell win seq (codeIs 0xE) (fun w s =>
    if s.certsRefused then s.answer win seq stBadSig []
    else if win < 4 ∧ !(hostOk (w.arg 0) && hostOk (w.arg 1)) then s.answer win seq stBadArg []
    else
      let nonce := if win = 4 then w.block.drop 8 |>.take 48 else s.mem.readBytes (hostPa (w.arg 0)) 48
      let report := s.attestReport nonce
      let s1 := if win = 4 then { s with outbox := s.outbox ++ [.report report] } else s.blockWrite (hostPa (w.arg 1)) report
      s1.answer win seq stOk [BitVec.ofNat 64 report.length]) s

/-! ## The stop at a tick (R421) -/

/-- STOPAT arms a stop; a tick that has passed stands for the next one. -/
def execStopat (win : Nat) (seq : BitVec 32) (s : State) : Host.Outcome State Fault Refusal :=
  doorbell win seq (codeIs 0xF) (fun w s =>
    let t := if (w.arg 0).toNat ≤ s.gtc.toNat then s.gtc + 1 else w.arg 0
    { s with stopAt := some t }.answer win seq stOk [BitVec.ofNat 64 Config.scanArea]) s

/-- A dependence-table word (R320); a launch entry's layout is the device's own. -/
def State.depWord (s : State) (d e : Nat) : List Byte :=
  match s.dep d e with
  | .free => leBytes 8 0
  | .launch _ => (List.range 8).map fun i => Config.freeByte s.free (0x2000000 + 32768 * d + 8 * e + i)
  | .node x =>
    let st := match x.st with | .wait => 1 | .ready => 2 | .run => 3 | .saved => 4 | .done => 5 | .cancelled => 6
    leBytes 8 (st * 2 ^ 61 + x.ctx * 2 ^ 59 + x.nr.cls * 2 ^ 57 + x.count * 2 ^ 45 + x.launch * 2 ^ 33 + x.nix * 2 ^ 21)

/-- The scan image of a die, 64 KiB: its table, then its hurdles in a layout of the device's own. -/
def State.dieScan (s : State) (d : Nat) : List Byte :=
  ((List.range 4096).flatMap (s.depWord d))
    ++ (List.range 32768).map fun i => Config.freeByte s.free (0x3000000 + 65536 * d + i)

/-- The scan image of a core, every register live. -/
def State.coreScan (s : State) (n : Nat) : List Byte :=
  (s.core n).image (s.cmds.filter fun k => decide (k.owner = Owner.core n)) allLive (s.progWords n)
    fun i => Config.freeByte (s.free + 1 + n) i

/-- The scan area's header and core images (R421). -/
def State.scan (s : State) (t : Word) : List Byte :=
  leBytes 8 t.toNat ++ leBytes 8 1 ++ leBytes 48 0 ++ (List.range 64).flatMap s.coreScan

/-- STOP_TICK: at the armed tick the module and the GTC stop, and the scan area is written. -/
def execStopTick (s : State) : Host.Outcome State Fault Refusal :=
  match s.stopAt with
  | none => .next s
  | some t =>
    if s.gtc.toNat < t.toNat then .next s
    else
      let s1 := { s with gtc := t, power := .stopped, scanDone := true, free := s.free + 65 }
      let m := s1.mem.writeBytes Config.scanArea (s.scan t)
      .next { s1 with mem := m.writeBytes (Config.scanArea + 0x1A10000) ((List.range 4).flatMap s.dieScan) }

/-! ## Boot (R360, R361) -/

/-- POWER_ON: the module boots from what it finds in flash. -/
def execPowerOn (patch : PatchImage) (certs : Bool) (s : State) : Host.Outcome State Fault Refusal :=
  .next ({ State.reset with
    mem := s.mem, full := s.full, poison := s.poison
    agenda := s.agenda, free := s.free, outbox := s.outbox, channels := s.channels, spares := s.spares }.boot patch certs)

end Sys2Proof.Machine
end

