-- ==== Sys2Proof/Machine/Links.lean ====
section
/-! DEFINITION. What happens to the module from outside its programs: the links (R101, R410), soft errors (R407–R409),
temperature (R362), and the walker of a fabric load (R420). -/

namespace Sys2Proof.Machine

/-! ## Links (R410) -/

/-- A reported record in every resident context (R409, R410). -/
def State.reportAll (s : State) (kind loc cls sub : Nat) : State :=
  (List.range 4).foldl (fun s k =>
    s.report k ⟨s.gtc, agentWord kind loc 0, 0x3FFF, k, false, false, none, causeWord false cls (256 * sub), 0, 0xFFFFFFFF, 0, 0, 0, 0⟩) s

/-- The first access of a core in flight to storage that cannot be reached. -/
def State.cutOff (s : State) (n : Nat) : Option (Access × MemFault) :=
  (s.core n).accs.findSome? fun a =>
    if a.deferred then none
    else a.pas.findSome? fun pa => (s.linkFault pa).map fun f => (a, ⟨f.1, f.2, true, a.va⟩)

/-- Accesses in flight to storage that cannot be reached any more fault. -/
def State.cutAll (s : State) : List Nat → State
  | [] => s
  | n :: r => match s.cutOff n with
    | none => s.cutAll r
    | some (a, f) => (s.scalarMemFault n f a.soff a.opc).cutAll r

/-- HOST_LINK_DOWN. -/
def execHostLinkDown (s : State) : Host.Outcome State Fault Refusal :=
  .next (if s.hostDown then s else ({ s with hostDown := true }).cutAll (List.range 64))

/-- Write the held events of every context (R358). -/
def State.deliverAll (s : State) : State := (List.range 4).foldl (fun s k => s.deliverEvents k 60) s

/-- HOST_LINK_UP. -/
def execHostLinkUp (s : State) : Host.Outcome State Fault Refusal :=
  .next (if s.hostDown then ({ s with hostDown := false }.deliverAll).reportAll 12 4 0xF 4 else s)

def State.memPort (s : State) (p : Nat) : MemPort := SMap.get {} s.memPorts p

/-- MEMORY_PORT_LINK_DOWN: retraining starts. -/
def execMemoryPortLinkDown (port : Nat) (s : State) : Host.Outcome State Fault Refusal :=
  let p := s.memPort port
  .next (if 4 ≤ port ∨ p.down ∨ p.lost then s
    else ({ s with memPorts := SMap.put s.memPorts port { p with down := true, retrains := 0 } }).cutAll (List.range 64))

/-- MEMORY_PORT_LINK_UP: the retrained port returns. -/
def execMemoryPortLinkUp (port : Nat) (s : State) : Host.Outcome State Fault Refusal :=
  let p := s.memPort port
  .next (if p.down then { s with memPorts := SMap.put s.memPorts port { p with down := false } } else s)

/-- EXPANDER_LOST: three retrains have failed; the range reads as poison. -/
def execExpanderLost (port : Nat) (s : State) : Host.Outcome State Fault Refusal :=
  let p := s.memPort port
  .next (if p.down then { s with memPorts := SMap.put s.memPorts port ⟨false, 3, true⟩ } else s)

/-- EXPANDER_POISON: a sector of the CXL tier comes back poisoned from now on. -/
def execExpanderPoison (pa : Nat) (s : State) : Host.Outcome State Fault Refusal :=
  .next (if inCxl pa then { s with poison := SMap.set .clean s.poison (pa / 128) .expander } else s)

/-- CXL_CACHE_SNOOP: the host reads the line, or takes it and stores bytes from the address on. Either way the L2's copy is no
longer newer than the host's memory, and what the device reads from then on holds the host's stores (R101; log 81). -/
def execCxlCacheSnoop (pa : Nat) (store : Option (List Byte)) (s : State) : Host.Outcome State Fault Refusal :=
  .next (if s.hostDown ∨ !inHost pa then s
    else
      let s1 := { s with hostOld := s.hostOld.filter fun e => decide (e.1 / 128 ≠ pa / 128) }
      match store with
      | none => s1
      | some bs => s1.blockWrite pa (bs.take (128 - pa % 128)))

/-! ## Soft errors (R407–R409) -/

/-- Retire a pseudo-channel: the copy to a spare starts, or no spare remains (R409). -/
def State.retire (s : State) (c : Nat) : State :=
  let x : Channel := SMap.get {} s.channels c
  let stack := c / 512
  if x.copying then s
  else if SMap.get 0 s.spares stack < 2 then
    { s with channels := SMap.put s.channels c { x with recent := [], copying := true }
             spares := SMap.put s.spares stack (SMap.get 0 s.spares stack + 1) }
  else ({ s with channels := SMap.put s.channels c { x with recent := [] } }).reportAll 11 stack 0xE 8

/-- CHANNEL_REMAP_DONE: contents, addresses and poison stay. -/
def execChannelRemapDone (channel : Nat) (s : State) : Host.Outcome State Fault Refusal :=
  let x : Channel := SMap.get {} s.channels channel
  .next (if x.copying then
      ({ s with channels := SMap.put s.channels channel { x with copying := false, remapped := true } }).reportAll 11 (channel / 512) 0xE 7
    else s)

/-- Count a corrected error of a pseudo-channel: 256 of them within 2^30 ticks retire it (R409). -/
def State.countError (s : State) (c : Nat) : State :=
  let x : Channel := SMap.get {} s.channels c
  let recent := s.gtc :: x.recent.filter fun t => decide ((s.gtc - t).toNat ≤ 2 ^ 30)
  let s1 := { s with channels := SMap.put s.channels c { x with recent := recent } }
  if 256 ≤ recent.length then s1.retire c else s1

/-- Context whose access met a soft error, if one did: a core's own storage is met by its runner (log 52). -/
def State.errorCtx (s : State) (e : SoftError) : Option Nat :=
  let core := fun n => if (s.core n).run = .idle then none else some (s.core n).ctx
  match e.place with
  | .l1 n _ _ => core n
  | .regs n => core n
  | .channel n => core n
  | .accum n _ => core n
  | .shared _ k => some k
  | .hbm => e.ctx
  | .l2 _ => e.ctx
  | .tlb => e.ctx

/-- Contexts whose traces a CORRECTED record goes to: the one whose access met the error, or every one (R417). -/
def State.errorCtxs (s : State) (e : SoftError) : List Nat :=
  match s.errorCtx e with
  | none => List.range 4
  | some k => [k]

/-- DATA1 of a CORRECTED record; none where parity alone protects (R407, R416). -/
def softCode : SoftPlace → Option Nat
  | .hbm => some 0
  | .l1 _ _ _ => some 1
  | .l2 _ => some 1
  | .tlb => some 2
  | .regs _ => some 3
  | .shared _ _ => some 3
  | .channel _ => none
  | .accum _ _ => none

/-- CORRECTED_ERROR: the value is right again; the error is counted and traced. -/
def execCorrectedError (e : SoftError) (s : State) : Host.Outcome State Fault Refusal :=
  match softCode e.place with
  | none => .next s
  | some code =>
    let s1 := { s with corrected := s.corrected + 1 }
    let s2 := (s.errorCtxs e).foldl (fun s k =>
      s.trace k 7 (agentWord 10 (homeDie e.pa) 0) 0 0xFFFFFFFF 0 (if code ≤ 1 then e.pa else 0) code) s1
    .next (if e.place = SoftPlace.hbm ∧ inHbm e.pa then s2.countError (channelCode e.pa) else s2)

/-- A sector a bank holds of the home sector of a physical address. -/
def State.heldAt (s : State) (n b pa : Nat) : Option (Nat × Sector) :=
  (s.bank n b).sectors.find? fun e => decide (e.2.home = pa / 128)

/-- UNCORRECTABLE_ERROR. -/
def execUncorrectableError (e : SoftError) (s : State) : Host.Outcome State Fault Refusal :=
  let poison := { s with poison := SMap.set .clean s.poison (e.pa / 128) .soft }
  let core := fun n kind sub => if (s.core n).run = .idle then s else s.coreFault n kind 0 0xE (256 * sub) .fatal none 0xFFFFFFFF 0 0
  .next (match e.place with
  | .hbm => if inHbm e.pa then poison.retire (channelCode e.pa) else s
  | .l2 dirty => if dirty ∧ paExists e.pa then poison else s
  | .l1 n b _ => match s.heldAt n b e.pa with
    | none => s
    | some (v, x) =>
      let k := s.bank n b
      s.setBank n b { k with
        sectors := if x.dirty then SMap.put k.sectors v { x with poisoned := true } else SMap.del k.sectors v }
  | .tlb => s
  | .regs n => core n 0 4
  | .channel n => core n 1 5
  -- the word is bad; its next read finds it (R407)
  | .accum n key => s.updCore n fun c => { c with mx := { c.mx with bad := SMap.set false c.mx.bad key true } }
  | .shared d k => (s.report k (s.engineRec k d 0xE 4 0x3FFF true false none 0 0)).cancelGraphs 1 (s.launchesOf fun l => decide (l.ctx = k)))

/-! ## Temperature (R362) -/

/-- The monitors of a die move; at 115 °C the module shuts down. -/
def State.monitorsMove (s : State) (die : Nat) (temp : Word) (m : DieMonitors) : State :=
  let all := SMap.put (SMap.put (SMap.put (SMap.put s.monitors (4 * die) temp) (4 * die + 1) m.supply) (4 * die + 2) m.osc)
    (4 * die + 3) m.power
  { s with monitors := all, throttled := tooHot all, power := if 115 * 256 ≤ temp.toInt then .shut else s.power }

/-- THERMAL_THROTTLE: the monitors of a die move, and ACLK is lowered or not as they stand; nothing else changes. -/
def execThermalThrottle (die : Nat) (temp : Word) (m : DieMonitors) (s : State) : Host.Outcome State Fault Refusal :=
  .next (if 5 ≤ die then s else s.monitorsMove die temp m)

/-- THERMAL_SHUTDOWN: at 115 °C the module shuts down. -/
def execThermalShutdown (die : Nat) (temp : Word) (s : State) : Host.Outcome State Fault Refusal :=
  if 5 ≤ die ∨ temp.toInt < 115 * 256 then .next s
  else .next { s with monitors := SMap.put s.monitors (4 * die) temp, power := .shut }

/-! ## The walker (R420) -/

def Core.winCount (c : Core) (x : Nat) : ChanCount := SMap.get {} c.chanWin x

/-- The producer of a place: back through the router outputs of its channel. -/
def Core.producer (c : Core) : Nat → Nat → Nat
  | 0, x => x
  | f + 1, x => if x < 1024 then c.producer f (c.srcOf x) else x

/-- The element that produces at a place, by what it reads: input places. -/
def Core.inputsOf (c : Core) (x : Nat) : Option (Nat × List Nat) :=
  let site := x % 256
  if 1024 ≤ x ∧ x < 1280 then
    match (List.range 16).find? fun n => islMode (c.island n) ≠ 0 ∧
        ((islOut (c.island n) 0 ∧ islOutRouter (c.island n) 0 = site) ∨ (islOut (c.island n) 1 ∧ islOutRouter (c.island n) 1 = site)) with
    | some n => some (site, [islePlace n 0, islePlace n 1])
    | none => some (site, [inPlace site 0, inPlace site 1, inPlace site 2, inPlace site 3])
  else if 1280 ≤ x ∧ x < 1792 then some (site, [inPlace site 4, inPlace site 5])
  else none

/-- The place with the greatest count, the first among equals. -/
def longest (count : Nat → Nat) : List Nat → Option Nat
  | [] => none
  | x :: r => some (r.foldl (fun best y => if count best < count y then y else best) x)

/-- The end of a walk: at a port, the site or port, and the last channel. -/
structure WalkEnd where
  port : Bool
  place : Nat
  chan : Nat

/-- Walk back along the emptiest inputs from a channel's last register. -/
def Core.walkBack (c : Core) : Nat → Nat → WalkEnd
  | 0, x => ⟨false, c.producer 1024 x % 256, x⟩
  | f + 1, x =>
    let p := c.producer 1024 x
    if 4192 ≤ p ∧ p < 4208 then ⟨true, p - 4192, x⟩
    else match c.inputsOf p with
      | none => ⟨false, p % 256, x⟩
      | some (site, ins) =>
        let srcs := (ins.map c.srcOf).filter fun y => decide (y ≠ nowhere)
        match longest (fun y => (c.winCount y).empty.toNat) srcs with
        | none => ⟨false, site, x⟩
        | some y => if 32768 < (c.winCount y).empty.toNat then c.walkBack f y else ⟨false, site, x⟩

/-- Places that a place feeds. -/
def Core.fedBy (c : Core) (x : Nat) : List Nat := allDests.filter fun d => decide (c.srcOf d = x)

/-- Forward along a channel to the input it feeds, by the fullest branch. -/
def Core.consumer (c : Core) : Nat → Nat → Nat
  | 0, x => x
  | f + 1, x =>
    if 1024 ≤ x then x
    else match longest (fun y => (c.winCount y).full.toNat) (c.fedBy x) with
      | none => x
      | some y => c.consumer f y

/-- Outputs of the element whose input a place is: its site and producing places. -/
def Core.outputsOf (c : Core) (x : Nat) : Option (Nat × List Nat) :=
  if 2048 ≤ x ∧ x < 4096 then
    let site := (x - 2048) / 8
    some (site, if (x - 2048) % 8 < 4 then [elemPlace site] else [ctlT site, ctlF site])
  else if 4096 ≤ x ∧ x < 4128 then
    let w := c.island ((x - 4096) / 2)
    some (islInRouter w (x % 2), ([0, 1].filter (islOut w)).map fun i => elemPlace (islOutRouter w i))
  else none

/-- Walk forward along the fullest outputs from a channel's first register. -/
def Core.walkOn (c : Core) : Nat → Nat → WalkEnd
  | 0, x => ⟨false, ((c.outputsOf (c.consumer 1024 x)).map (·.1)).getD 0, x⟩
  | f + 1, x =>
    let d := c.consumer 1024 x
    if 4160 ≤ d ∧ d < 4176 then ⟨true, d - 4160, x⟩
    else match c.outputsOf d with
      | none => ⟨false, d / 4 % 256, x⟩
      | some (site, outs) =>
        match longest (fun y => (c.winCount y).full.toNat) (outs.flatMap c.fedBy) with
        | none => ⟨false, site, x⟩
        | some y => if 32768 < (c.winCount y).full.toNat then c.walkOn f y else ⟨false, site, x⟩

/-- A WALK record. -/
def State.walkRecord (s : State) (n dir start : Nat) (e : WalkEnd) : State :=
  let x := (s.core n).winCount e.chan
  s.traceCore n 9 (dir * 2 ^ 17 + e.port.toNat * 2 ^ 16 + e.place % 256 * 256 + start) (x.full.toNat * 2 ^ 32 + x.empty.toNat) 0xFFFFFFFF

/-- The walks of one port. -/
def State.walkPort (s : State) (n p : Nat) : State :=
  let c := s.core n
  let role := (c.port p).role
  if role = 2 ∨ role = 4 then
    let x := c.srcOf (sinkPlace p)
    if 32768 < (c.winCount x).empty.toNat then s.walkRecord n 0 p (c.walkBack 256 x) else s
  else if role = 1 ∨ role = 3 then
    match longest (fun y => (c.winCount y).full.toNat) (c.fedBy (feedPlace p)) with
    | none => s
    | some x => if 32768 < (c.winCount x).full.toNat then s.walkRecord n 1 p (c.walkOn 256 x) else s
  else s

/-- A window of core n ends: the walks of its ports, and the next window begins (R420). -/
def State.endWindow (s : State) (n : Nat) : State :=
  let s1 := if s.traceOn (s.core n).ctx 9 then (List.range 16).foldl (fun s p => s.walkPort n p) s else s
  s1.updCore n fun c => { c with chanWin := [], winClk := 0 }

/-- WALKER_WINDOW: a window of 65,536 clk ends, and the next begins. -/
def execWalkerWindow (core : Nat) (s : State) : Host.Outcome State Fault Refusal :=
  .next (if (s.core core).winClk < 65536 then s else s.endWindow core)

end Sys2Proof.Machine
end

