-- ==== Sys2Proof/Machine/Commands.lean ====
section
/-! DEFINITION. The start and the completion of any stream command (R197), each passed to the rules of its opcode. -/

namespace Sys2Proof.Machine

/-- An engine node whose command has completed enters its next one (R319). -/
def State.advanceOwner (s : State) (k : Cmd) : State :=
  match k.owner with
  | .core _ => s
  | .node d e => s.nodeAdvance d e

/-- Start a command whose common conditions hold, by its opcode; commands that only a runner issues name its core. -/
def State.startOf (s : State) (k : Cmd) : State :=
  let n := k.core?.getD 0
  match k.opc.toNat with
  | 0x00 => s.startCfg k
  | 0x01 => s.startPatch n k
  | 0x02 => s.startCfg k
  | 0x03 => s.startIter n k
  | 0x04 => s.startPace n k
  | 0x10 => s.startBind n k
  | 0x11 => s.startFeed n k
  | 0x12 => s.startTake n k
  | 0x20 => s.startBatch k
  | 0x21 => s.startHurdle k
  | 0x30 => s.startCopy k
  | 0x31 => s.startMc n k
  | 0x32 => s.startDem n k
  | 0x33 => s.startCopy k
  | 0x40 => s.startMx n k
  | 0x41 => s.startMx n k
  | 0x42 => s.startMx n k
  | 0x43 => s.startMx n k
  | 0x44 => s.startArm k
  | 0x45 => s.startMx n k
  | 0x46 => s.startMx n k
  | 0x50 => s.startIx k
  | 0x51 => s.startIx k
  | 0x52 => s.startIx k
  | 0x53 => s.startIx k
  | 0x60 => s.startSel k
  | 0x61 => s.startSel k
  | 0x70 => s.startAuc k
  | 0x71 => s.startAuc k
  | 0x80 => s.startExchange k
  | 0x81 => s.startExchange k
  | 0x82 => s.startExchange k
  | 0x90 => s.startPlace k
  | 0x91 => s.startGlaunch k
  | 0x92 => s.startSig k
  | 0xA0 => s.startMark n k
  | _ => s

/-- Take a started command to its completion, as far as it can go, by its opcode. A GLAUNCH completes with its launch
(R224), a PORT.FEED as its FIFO drains (R211). -/
def State.completeOf (s : State) (k : Cmd) : State :=
  let n := k.core?.getD 0
  match k.opc.toNat with
  | 0x00 => s.goCfg n k
  | 0x01 => s.goPatch n k
  | 0x02 => s.goCfg n k
  | 0x10 => s.goBind n k
  | 0x11 => s.portDone n k.port
  | 0x12 => s.goTake n k
  | 0x21 => s.goHurdle n k
  | 0x30 => s.copyGo n k
  | 0x31 => s.mcGo n k
  | 0x32 => s.copyGo n k
  | 0x33 => s.copyGo n k
  | 0x40 => s.goMm n k
  | 0x41 => s.goMm n k
  | 0x42 => s.goMm n k
  | 0x43 => s.goMm n k
  | 0x44 => s.goArm k
  | 0x45 => s.accGo n k
  | 0x46 => (State.refill n k.outPort 17 s).portDone n k.outPort
  | 0x50 => s.goGrouped k
  | 0x51 => s.goGrouped k
  | 0x52 => s.goIntersect k
  | 0x53 => s.goCount k
  | 0x60 => s.goSel k
  | 0x61 => s.goSel k
  | 0x70 => s.goAuc k
  | 0x71 => s.goAucPrice k
  | 0x80 => s.tryDpost k.ctx k.sub
  | 0x81 => s.goXsend k
  | 0x82 => s.goXwait k
  | 0x90 => s.goPlace k
  | 0x91 => s.goGlaunch k
  | 0x92 => s.goSig k
  | _ => s

/-- COMMAND_START: the command starts once its tags, queue order, batch, hurdles and own conditions hold. -/
def execCommandStart (cmd : Nat) (s : State) : Host.Outcome State Fault Refusal :=
  match s.cmd? cmd with
  | none => .next s
  | some k => if s.mayStart k then .next ((s.startOf k).advanceOwner k) else .next s

/-- COMMAND_COMPLETE: a started command completes, if what it does is done or can be done now; the accesses before its issue come
first (R132). -/
def execCommandComplete (cmd : Nat) (s : State) : Host.Outcome State Fault Refusal :=
  match s.cmd? cmd with
  | none => .next s
  | some k => if s.runs k then .next ((s.completeOf k).advanceOwner k) else .next s

/-- A piece of a started command: of a copy the one that begins at byte i, of an MM.ACC its next element, of an XSEND its
next entry. -/
def State.pieceOf (s : State) (id i : Nat) : State :=
  match s.cmd? id with
  | none => s
  | some k =>
    if !s.runs k then s
    else if k.opc = 0x45#8 then State.accRun (k.core?.getD 0) id 1 s
    else if k.opc = 0x81#8 then State.sendRun id 1 s
    else s.pieceStep id i

end Sys2Proof.Machine
end

