-- ==== Sys2Proof/Machine/Dispatch.lean ====
section
/-! DEFINITION. The dispatch: one arm per constructor of Instr. -/

namespace Sys2Proof.Machine

def exec (i : Instr) (s : State) : Host.Outcome State Fault Refusal :=
  match i with
  | .add x0 x1 x2 => Sys2Proof.Machine.execAdd x0 x1 x2 s
  | .sub x0 x1 x2 => Sys2Proof.Machine.execSub x0 x1 x2 s
  | .mul x0 x1 x2 => Sys2Proof.Machine.execMul x0 x1 x2 s
  | .mulh x0 x1 x2 => Sys2Proof.Machine.execMulh x0 x1 x2 s
  | .mulhu x0 x1 x2 => Sys2Proof.Machine.execMulhu x0 x1 x2 s
  | .div x0 x1 x2 => Sys2Proof.Machine.execDiv x0 x1 x2 s
  | .divu x0 x1 x2 => Sys2Proof.Machine.execDivu x0 x1 x2 s
  | .rem x0 x1 x2 => Sys2Proof.Machine.execRem x0 x1 x2 s
  | .remu x0 x1 x2 => Sys2Proof.Machine.execRemu x0 x1 x2 s
  | .and x0 x1 x2 => Sys2Proof.Machine.execAnd x0 x1 x2 s
  | .or x0 x1 x2 => Sys2Proof.Machine.execOr x0 x1 x2 s
  | .xor x0 x1 x2 => Sys2Proof.Machine.execXor x0 x1 x2 s
  | .andn x0 x1 x2 => Sys2Proof.Machine.execAndn x0 x1 x2 s
  | .shl x0 x1 x2 => Sys2Proof.Machine.execShl x0 x1 x2 s
  | .shr x0 x1 x2 => Sys2Proof.Machine.execShr x0 x1 x2 s
  | .sar x0 x1 x2 => Sys2Proof.Machine.execSar x0 x1 x2 s
  | .min x0 x1 x2 => Sys2Proof.Machine.execMin x0 x1 x2 s
  | .max x0 x1 x2 => Sys2Proof.Machine.execMax x0 x1 x2 s
  | .minu x0 x1 x2 => Sys2Proof.Machine.execMinu x0 x1 x2 s
  | .maxu x0 x1 x2 => Sys2Proof.Machine.execMaxu x0 x1 x2 s
  | .clz x0 x1 => Sys2Proof.Machine.execClz x0 x1 s
  | .ctz x0 x1 => Sys2Proof.Machine.execCtz x0 x1 s
  | .popc x0 x1 => Sys2Proof.Machine.execPopc x0 x1 s
  | .sext x0 x1 x2 => Sys2Proof.Machine.execSext x0 x1 x2 s
  | .zext x0 x1 x2 => Sys2Proof.Machine.execZext x0 x1 x2 s
  | .mov x0 x1 => Sys2Proof.Machine.execMov x0 x1 s
  | .cmpEq x0 x1 x2 => Sys2Proof.Machine.execCmpEq x0 x1 x2 s
  | .cmpNe x0 x1 x2 => Sys2Proof.Machine.execCmpNe x0 x1 x2 s
  | .cmpLt x0 x1 x2 => Sys2Proof.Machine.execCmpLt x0 x1 x2 s
  | .cmpLe x0 x1 x2 => Sys2Proof.Machine.execCmpLe x0 x1 x2 s
  | .cmpLtu x0 x1 x2 => Sys2Proof.Machine.execCmpLtu x0 x1 x2 s
  | .cmpLeu x0 x1 x2 => Sys2Proof.Machine.execCmpLeu x0 x1 x2 s
  | .pand x0 x1 x2 => Sys2Proof.Machine.execPand x0 x1 x2 s
  | .por x0 x1 x2 => Sys2Proof.Machine.execPor x0 x1 x2 s
  | .pxor x0 x1 x2 => Sys2Proof.Machine.execPxor x0 x1 x2 s
  | .pnot x0 x1 => Sys2Proof.Machine.execPnot x0 x1 s
  | .leaX1 x0 x1 x2 => Sys2Proof.Machine.execLeaX1 x0 x1 x2 s
  | .leaX2 x0 x1 x2 => Sys2Proof.Machine.execLeaX2 x0 x1 x2 s
  | .leaX4 x0 x1 x2 => Sys2Proof.Machine.execLeaX4 x0 x1 x2 s
  | .leaX8 x0 x1 x2 => Sys2Proof.Machine.execLeaX8 x0 x1 x2 s
  | .sel x0 x1 x2 x3 => Sys2Proof.Machine.execSel x0 x1 x2 x3 s
  | .memxLd x0 x1 x2 x3 x4 x5 => Sys2Proof.Machine.execMemxLd x0 x1 x2 x3 x4 x5 s
  | .memxLds x0 x1 x2 x3 x4 x5 => Sys2Proof.Machine.execMemxLds x0 x1 x2 x3 x4 x5 s
  | .memxSt x0 x1 x2 x3 x4 x5 => Sys2Proof.Machine.execMemxSt x0 x1 x2 x3 x4 x5 s
  | .bfx x0 x1 x2 x3 => Sys2Proof.Machine.execBfx x0 x1 x2 x3 s
  | .bfxu x0 x1 x2 x3 => Sys2Proof.Machine.execBfxu x0 x1 x2 x3 s
  | .bfi x0 x1 x2 x3 => Sys2Proof.Machine.execBfi x0 x1 x2 x3 s
  | .amoAddW x0 x1 x2 x3 x4 => Sys2Proof.Machine.execAmoAddW x0 x1 x2 x3 x4 s
  | .amoMinW x0 x1 x2 x3 x4 => Sys2Proof.Machine.execAmoMinW x0 x1 x2 x3 x4 s
  | .amoMaxW x0 x1 x2 x3 x4 => Sys2Proof.Machine.execAmoMaxW x0 x1 x2 x3 x4 s
  | .amoMinuW x0 x1 x2 x3 x4 => Sys2Proof.Machine.execAmoMinuW x0 x1 x2 x3 x4 s
  | .amoMaxuW x0 x1 x2 x3 x4 => Sys2Proof.Machine.execAmoMaxuW x0 x1 x2 x3 x4 s
  | .amoAndW x0 x1 x2 x3 x4 => Sys2Proof.Machine.execAmoAndW x0 x1 x2 x3 x4 s
  | .amoOrW x0 x1 x2 x3 x4 => Sys2Proof.Machine.execAmoOrW x0 x1 x2 x3 x4 s
  | .amoXorW x0 x1 x2 x3 x4 => Sys2Proof.Machine.execAmoXorW x0 x1 x2 x3 x4 s
  | .amoSwapW x0 x1 x2 x3 x4 => Sys2Proof.Machine.execAmoSwapW x0 x1 x2 x3 x4 s
  | .amoCasW x0 x1 x2 x3 x4 => Sys2Proof.Machine.execAmoCasW x0 x1 x2 x3 x4 s
  | .amoAddD x0 x1 x2 x3 x4 => Sys2Proof.Machine.execAmoAddD x0 x1 x2 x3 x4 s
  | .amoMinD x0 x1 x2 x3 x4 => Sys2Proof.Machine.execAmoMinD x0 x1 x2 x3 x4 s
  | .amoMaxD x0 x1 x2 x3 x4 => Sys2Proof.Machine.execAmoMaxD x0 x1 x2 x3 x4 s
  | .amoMinuD x0 x1 x2 x3 x4 => Sys2Proof.Machine.execAmoMinuD x0 x1 x2 x3 x4 s
  | .amoMaxuD x0 x1 x2 x3 x4 => Sys2Proof.Machine.execAmoMaxuD x0 x1 x2 x3 x4 s
  | .amoAndD x0 x1 x2 x3 x4 => Sys2Proof.Machine.execAmoAndD x0 x1 x2 x3 x4 s
  | .amoOrD x0 x1 x2 x3 x4 => Sys2Proof.Machine.execAmoOrD x0 x1 x2 x3 x4 s
  | .amoXorD x0 x1 x2 x3 x4 => Sys2Proof.Machine.execAmoXorD x0 x1 x2 x3 x4 s
  | .amoSwapD x0 x1 x2 x3 x4 => Sys2Proof.Machine.execAmoSwapD x0 x1 x2 x3 x4 s
  | .amoCasD x0 x1 x2 x3 x4 => Sys2Proof.Machine.execAmoCasD x0 x1 x2 x3 x4 s
  | .cmpiEq x0 x1 x2 => Sys2Proof.Machine.execCmpiEq x0 x1 x2 s
  | .cmpiNe x0 x1 x2 => Sys2Proof.Machine.execCmpiNe x0 x1 x2 s
  | .cmpiLt x0 x1 x2 => Sys2Proof.Machine.execCmpiLt x0 x1 x2 s
  | .cmpiLe x0 x1 x2 => Sys2Proof.Machine.execCmpiLe x0 x1 x2 s
  | .cmpiLtu x0 x1 x2 => Sys2Proof.Machine.execCmpiLtu x0 x1 x2 s
  | .cmpiLeu x0 x1 x2 => Sys2Proof.Machine.execCmpiLeu x0 x1 x2 s
  | .loop x0 x1 => Sys2Proof.Machine.execLoop x0 x1 s
  | .addi x0 x1 x2 => Sys2Proof.Machine.execAddi x0 x1 x2 s
  | .andi x0 x1 x2 => Sys2Proof.Machine.execAndi x0 x1 x2 s
  | .ori x0 x1 x2 => Sys2Proof.Machine.execOri x0 x1 x2 s
  | .xori x0 x1 x2 => Sys2Proof.Machine.execXori x0 x1 x2 s
  | .shli x0 x1 x2 => Sys2Proof.Machine.execShli x0 x1 x2 s
  | .shri x0 x1 x2 => Sys2Proof.Machine.execShri x0 x1 x2 s
  | .sari x0 x1 x2 => Sys2Proof.Machine.execSari x0 x1 x2 s
  | .li x0 x1 => Sys2Proof.Machine.execLi x0 x1 s
  | .lui x0 x1 => Sys2Proof.Machine.execLui x0 x1 s
  | .pld x0 x1 x2 x3 => Sys2Proof.Machine.execPld x0 x1 x2 x3 s
  | .pst x0 x1 x2 x3 => Sys2Proof.Machine.execPst x0 x1 x2 x3 s
  | .pclr x0 x1 x2 => Sys2Proof.Machine.execPclr x0 x1 x2 s
  | .bp x0 x1 => Sys2Proof.Machine.execBp x0 x1 s
  | .bnp x0 x1 => Sys2Proof.Machine.execBnp x0 x1 s
  | .j x0 => Sys2Proof.Machine.execJ x0 s
  | .call x0 x1 x2 => Sys2Proof.Machine.execCall x0 x1 x2 s
  | .wait x0 x1 x2 x3 x4 => Sys2Proof.Machine.execWait x0 x1 x2 x3 x4 s
  | .nop => Sys2Proof.Machine.execNop s
  | .halt => Sys2Proof.Machine.execHalt s
  | .safe x0 => Sys2Proof.Machine.execSafe x0 s
  | .trap x0 => Sys2Proof.Machine.execTrap x0 s
  | .eret => Sys2Proof.Machine.execEret s
  | .fenceAcq x0 => Sys2Proof.Machine.execFenceAcq x0 s
  | .fenceRel x0 => Sys2Proof.Machine.execFenceRel x0 s
  | .fenceFull x0 => Sys2Proof.Machine.execFenceFull x0 s
  | .drain x0 => Sys2Proof.Machine.execDrain x0 s
  | .jr x0 => Sys2Proof.Machine.execJr x0 s
  | .ret => Sys2Proof.Machine.execRet s
  | .mfs x0 x1 => Sys2Proof.Machine.execMfs x0 x1 s
  | .mts x0 x1 => Sys2Proof.Machine.execMts x0 x1 s
  | .mld x0 x1 => Sys2Proof.Machine.execMld x0 x1 s
  | .mst x0 x1 => Sys2Proof.Machine.execMst x0 x1 s
  | .mset x0 x1 => Sys2Proof.Machine.execMset x0 x1 s
  | .mclr x0 x1 => Sys2Proof.Machine.execMclr x0 x1 s
  | .mtst x0 x1 x2 => Sys2Proof.Machine.execMtst x0 x1 x2 s
  | .traceS x0 => Sys2Proof.Machine.execTraceS x0 s
  | .ldsB x0 x1 x2 => Sys2Proof.Machine.execLdsB x0 x1 x2 s
  | .ldsH x0 x1 x2 => Sys2Proof.Machine.execLdsH x0 x1 x2 s
  | .ldsW x0 x1 x2 => Sys2Proof.Machine.execLdsW x0 x1 x2 s
  | .ldsBByp x0 x1 x2 => Sys2Proof.Machine.execLdsBByp x0 x1 x2 s
  | .ldsHByp x0 x1 x2 => Sys2Proof.Machine.execLdsHByp x0 x1 x2 s
  | .ldsWByp x0 x1 x2 => Sys2Proof.Machine.execLdsWByp x0 x1 x2 s
  | .ldsBStr x0 x1 x2 => Sys2Proof.Machine.execLdsBStr x0 x1 x2 s
  | .ldsHStr x0 x1 x2 => Sys2Proof.Machine.execLdsHStr x0 x1 x2 s
  | .ldsWStr x0 x1 x2 => Sys2Proof.Machine.execLdsWStr x0 x1 x2 s
  | .ldB x0 x1 x2 => Sys2Proof.Machine.execLdB x0 x1 x2 s
  | .ldH x0 x1 x2 => Sys2Proof.Machine.execLdH x0 x1 x2 s
  | .ldW x0 x1 x2 => Sys2Proof.Machine.execLdW x0 x1 x2 s
  | .ldD x0 x1 x2 => Sys2Proof.Machine.execLdD x0 x1 x2 s
  | .ldBByp x0 x1 x2 => Sys2Proof.Machine.execLdBByp x0 x1 x2 s
  | .ldHByp x0 x1 x2 => Sys2Proof.Machine.execLdHByp x0 x1 x2 s
  | .ldWByp x0 x1 x2 => Sys2Proof.Machine.execLdWByp x0 x1 x2 s
  | .ldDByp x0 x1 x2 => Sys2Proof.Machine.execLdDByp x0 x1 x2 s
  | .ldBStr x0 x1 x2 => Sys2Proof.Machine.execLdBStr x0 x1 x2 s
  | .ldHStr x0 x1 x2 => Sys2Proof.Machine.execLdHStr x0 x1 x2 s
  | .ldWStr x0 x1 x2 => Sys2Proof.Machine.execLdWStr x0 x1 x2 s
  | .ldDStr x0 x1 x2 => Sys2Proof.Machine.execLdDStr x0 x1 x2 s
  | .stB x0 x1 x2 => Sys2Proof.Machine.execStB x0 x1 x2 s
  | .stH x0 x1 x2 => Sys2Proof.Machine.execStH x0 x1 x2 s
  | .stW x0 x1 x2 => Sys2Proof.Machine.execStW x0 x1 x2 s
  | .stD x0 x1 x2 => Sys2Proof.Machine.execStD x0 x1 x2 s
  | .stBByp x0 x1 x2 => Sys2Proof.Machine.execStBByp x0 x1 x2 s
  | .stHByp x0 x1 x2 => Sys2Proof.Machine.execStHByp x0 x1 x2 s
  | .stWByp x0 x1 x2 => Sys2Proof.Machine.execStWByp x0 x1 x2 s
  | .stDByp x0 x1 x2 => Sys2Proof.Machine.execStDByp x0 x1 x2 s
  | .stBStr x0 x1 x2 => Sys2Proof.Machine.execStBStr x0 x1 x2 s
  | .stHStr x0 x1 x2 => Sys2Proof.Machine.execStHStr x0 x1 x2 s
  | .stWStr x0 x1 x2 => Sys2Proof.Machine.execStWStr x0 x1 x2 s
  | .stDStr x0 x1 x2 => Sys2Proof.Machine.execStDStr x0 x1 x2 s
  | .scalarAccessComplete x0 x1 => Sys2Proof.Machine.execScalarAccessComplete x0 x1 s
  | .pldDeferredComplete x0 => Sys2Proof.Machine.execPldDeferredComplete x0 s
  | .pldReissue x0 x1 => Sys2Proof.Machine.execPldReissue x0 x1 s
  | .cfgLoad x0 => Sys2Proof.Machine.execCfgLoad x0 s
  | .cfgPatch x0 => Sys2Proof.Machine.execCfgPatch x0 s
  | .cfgReconf x0 => Sys2Proof.Machine.execCfgReconf x0 s
  | .cfgIter x0 => Sys2Proof.Machine.execCfgIter x0 s
  | .pace x0 => Sys2Proof.Machine.execPace x0 s
  | .portBind x0 => Sys2Proof.Machine.execPortBind x0 s
  | .portFeed x0 => Sys2Proof.Machine.execPortFeed x0 s
  | .portTake x0 => Sys2Proof.Machine.execPortTake x0 s
  | .batch x0 => Sys2Proof.Machine.execBatch x0 s
  | .hurdleArriveWait x0 => Sys2Proof.Machine.execHurdleArriveWait x0 s
  | .hurdleArrive x0 => Sys2Proof.Machine.execHurdleArrive x0 s
  | .hurdleWait x0 => Sys2Proof.Machine.execHurdleWait x0 s
  | .copy x0 => Sys2Proof.Machine.execCopy x0 s
  | .copyFill x0 => Sys2Proof.Machine.execCopyFill x0 s
  | .copyWfill x0 => Sys2Proof.Machine.execCopyWfill x0 s
  | .copyMc x0 => Sys2Proof.Machine.execCopyMc x0 s
  | .copyDem x0 => Sys2Proof.Machine.execCopyDem x0 s
  | .copyIndGather x0 => Sys2Proof.Machine.execCopyIndGather x0 s
  | .copyIndScatter x0 => Sys2Proof.Machine.execCopyIndScatter x0 s
  | .mm x0 => Sys2Proof.Machine.execMm x0 s
  | .mmSp x0 => Sys2Proof.Machine.execMmSp x0 s
  | .mmBsr x0 => Sys2Proof.Machine.execMmBsr x0 s
  | .mmCsr x0 => Sys2Proof.Machine.execMmCsr x0 s
  | .mmArm x0 => Sys2Proof.Machine.execMmArm x0 s
  | .armEntryStart x0 => Sys2Proof.Machine.execArmEntryStart x0 s
  | .mmAccZero x0 => Sys2Proof.Machine.execMmAccZero x0 s
  | .mmAccLoad x0 => Sys2Proof.Machine.execMmAccLoad x0 s
  | .mmAccStore x0 => Sys2Proof.Machine.execMmAccStore x0 s
  | .mmOut x0 => Sys2Proof.Machine.execMmOut x0 s
  | .kstepComplete x0 => Sys2Proof.Machine.execKstepComplete x0 s
  | .gather x0 => Sys2Proof.Machine.execGather x0 s
  | .scatterAdd x0 => Sys2Proof.Machine.execScatterAdd x0 s
  | .scatterMin x0 => Sys2Proof.Machine.execScatterMin x0 s
  | .scatterMax x0 => Sys2Proof.Machine.execScatterMax x0 s
  | .scatterFirst x0 => Sys2Proof.Machine.execScatterFirst x0 s
  | .scatterLast x0 => Sys2Proof.Machine.execScatterLast x0 s
  | .indexGroupComplete x0 => Sys2Proof.Machine.execIndexGroupComplete x0 s
  | .intersect x0 => Sys2Proof.Machine.execIntersect x0 s
  | .ixCount x0 => Sys2Proof.Machine.execIxCount x0 s
  | .selTopk x0 => Sys2Proof.Machine.execSelTopk x0 s
  | .selColk x0 => Sys2Proof.Machine.execSelColk x0 s
  | .auc x0 => Sys2Proof.Machine.execAuc x0 s
  | .auctionRound x0 => Sys2Proof.Machine.execAuctionRound x0 s
  | .aucPrice x0 => Sys2Proof.Machine.execAucPrice x0 s
  | .dpost x0 => Sys2Proof.Machine.execDpost x0 s
  | .xsend x0 => Sys2Proof.Machine.execXsend x0 s
  | .xwait x0 => Sys2Proof.Machine.execXwait x0 s
  | .place x0 => Sys2Proof.Machine.execPlace x0 s
  | .glaunch x0 => Sys2Proof.Machine.execGlaunch x0 s
  | .nodeSig x0 => Sys2Proof.Machine.execNodeSig x0 s
  | .traceMark x0 => Sys2Proof.Machine.execTraceMark x0 s
  | .commandStart x0 => Sys2Proof.Machine.execCommandStart x0 s
  | .commandComplete x0 => Sys2Proof.Machine.execCommandComplete x0 s
  | .elemAdd x0 x1 => Sys2Proof.Machine.execElemAdd x0 x1 s
  | .elemSub x0 x1 => Sys2Proof.Machine.execElemSub x0 x1 s
  | .elemMul x0 x1 => Sys2Proof.Machine.execElemMul x0 x1 s
  | .elemMac x0 x1 => Sys2Proof.Machine.execElemMac x0 x1 s
  | .elemMin x0 x1 => Sys2Proof.Machine.execElemMin x0 x1 s
  | .elemMax x0 x1 => Sys2Proof.Machine.execElemMax x0 x1 s
  | .elemAbs x0 x1 => Sys2Proof.Machine.execElemAbs x0 x1 s
  | .elemNeg x0 x1 => Sys2Proof.Machine.execElemNeg x0 x1 s
  | .elemAnd x0 x1 => Sys2Proof.Machine.execElemAnd x0 x1 s
  | .elemOr x0 x1 => Sys2Proof.Machine.execElemOr x0 x1 s
  | .elemXor x0 x1 => Sys2Proof.Machine.execElemXor x0 x1 s
  | .elemNot x0 x1 => Sys2Proof.Machine.execElemNot x0 x1 s
  | .elemShl x0 x1 => Sys2Proof.Machine.execElemShl x0 x1 s
  | .elemShr x0 x1 => Sys2Proof.Machine.execElemShr x0 x1 s
  | .elemSar x0 x1 => Sys2Proof.Machine.execElemSar x0 x1 s
  | .elemCmpEq x0 x1 => Sys2Proof.Machine.execElemCmpEq x0 x1 s
  | .elemCmpNe x0 x1 => Sys2Proof.Machine.execElemCmpNe x0 x1 s
  | .elemCmpLt x0 x1 => Sys2Proof.Machine.execElemCmpLt x0 x1 s
  | .elemCmpLe x0 x1 => Sys2Proof.Machine.execElemCmpLe x0 x1 s
  | .elemCmpLtu x0 x1 => Sys2Proof.Machine.execElemCmpLtu x0 x1 s
  | .elemCmpLeu x0 x1 => Sys2Proof.Machine.execElemCmpLeu x0 x1 s
  | .elemSel x0 x1 => Sys2Proof.Machine.execElemSel x0 x1 s
  | .elemDot4 x0 x1 => Sys2Proof.Machine.execElemDot4 x0 x1 s
  | .elemDot2 x0 x1 => Sys2Proof.Machine.execElemDot2 x0 x1 s
  | .elemSatadd x0 x1 => Sys2Proof.Machine.execElemSatadd x0 x1 s
  | .elemSatsub x0 x1 => Sys2Proof.Machine.execElemSatsub x0 x1 s
  | .elemClz x0 x1 => Sys2Proof.Machine.execElemClz x0 x1 s
  | .elemPopc x0 x1 => Sys2Proof.Machine.execElemPopc x0 x1 s
  | .fadd x0 x1 => Sys2Proof.Machine.execFadd x0 x1 s
  | .fsub x0 x1 => Sys2Proof.Machine.execFsub x0 x1 s
  | .fmul x0 x1 => Sys2Proof.Machine.execFmul x0 x1 s
  | .fma x0 x1 => Sys2Proof.Machine.execFma x0 x1 s
  | .fmin x0 x1 => Sys2Proof.Machine.execFmin x0 x1 s
  | .fmax x0 x1 => Sys2Proof.Machine.execFmax x0 x1 s
  | .fabs x0 x1 => Sys2Proof.Machine.execFabs x0 x1 s
  | .fneg x0 x1 => Sys2Proof.Machine.execFneg x0 x1 s
  | .frcp x0 x1 => Sys2Proof.Machine.execFrcp x0 x1 s
  | .frsq x0 x1 => Sys2Proof.Machine.execFrsq x0 x1 s
  | .fexp2 x0 x1 => Sys2Proof.Machine.execFexp2 x0 x1 s
  | .flog2 x0 x1 => Sys2Proof.Machine.execFlog2 x0 x1 s
  | .fcmpEq x0 x1 => Sys2Proof.Machine.execFcmpEq x0 x1 s
  | .fcmpNe x0 x1 => Sys2Proof.Machine.execFcmpNe x0 x1 s
  | .fcmpLt x0 x1 => Sys2Proof.Machine.execFcmpLt x0 x1 s
  | .fcmpLe x0 x1 => Sys2Proof.Machine.execFcmpLe x0 x1 s
  | .cvt x0 x1 => Sys2Proof.Machine.execCvt x0 x1 s
  | .qnt x0 x1 => Sys2Proof.Machine.execQnt x0 x1 s
  | .dqn x0 x1 => Sys2Proof.Machine.execDqn x0 x1 s
  | .rsum x0 x1 => Sys2Proof.Machine.execRsum x0 x1 s
  | .rmax x0 x1 => Sys2Proof.Machine.execRmax x0 x1 s
  | .rmin x0 x1 => Sys2Proof.Machine.execRmin x0 x1 s
  | .rarg x0 x1 => Sys2Proof.Machine.execRarg x0 x1 s
  | .rcnt x0 x1 => Sys2Proof.Machine.execRcnt x0 x1 s
  | .emux x0 x1 => Sys2Proof.Machine.execEmux x0 x1 s
  | .eand x0 x1 => Sys2Proof.Machine.execEand x0 x1 s
  | .eor x0 x1 => Sys2Proof.Machine.execEor x0 x1 s
  | .lda x0 x1 => Sys2Proof.Machine.execLda x0 x1 s
  | .sta x0 x1 => Sys2Proof.Machine.execSta x0 x1 s
  | .amoa x0 x1 => Sys2Proof.Machine.execAmoa x0 x1 s
  | .plda x0 x1 => Sys2Proof.Machine.execPlda x0 x1 s
  | .psta x0 x1 => Sys2Proof.Machine.execPsta x0 x1 s
  | .segn x0 x1 => Sys2Proof.Machine.execSegn x0 x1 s
  | .smark x0 x1 => Sys2Proof.Machine.execSmark x0 x1 s
  | .sconv x0 x1 => Sys2Proof.Machine.execSconv x0 x1 s
  | .lpin x0 x1 => Sys2Proof.Machine.execLpin x0 x1 s
  | .lpout x0 x1 => Sys2Proof.Machine.execLpout x0 x1 s
  | .steer x0 x1 => Sys2Proof.Machine.execSteer x0 x1 s
  | .merge x0 x1 => Sys2Proof.Machine.execMerge x0 x1 s
  | .carry x0 x1 => Sys2Proof.Machine.execCarry x0 x1 s
  | .invar x0 x1 => Sys2Proof.Machine.execInvar x0 x1 s
  | .drop x0 x1 => Sys2Proof.Machine.execDrop x0 x1 s
  | .lutn x0 x1 => Sys2Proof.Machine.execLutn x0 x1 s
  | .matchFire x0 x1 => Sys2Proof.Machine.execMatchFire x0 x1 s
  | .pacerAdmit x0 => Sys2Proof.Machine.execPacerAdmit x0 s
  | .iterationComplete x0 => Sys2Proof.Machine.execIterationComplete x0 s
  | .batonReturn x0 => Sys2Proof.Machine.execBatonReturn x0 s
  | .antiTokenArrival x0 x1 => Sys2Proof.Machine.execAntiTokenArrival x0 x1 s
  | .inPortSend x0 x1 => Sys2Proof.Machine.execInPortSend x0 x1 s
  | .outPortWrite x0 x1 => Sys2Proof.Machine.execOutPortWrite x0 x1 s
  | .fabricQuiescent x0 => Sys2Proof.Machine.execFabricQuiescent x0 s
  | .nodeDispatch x0 => Sys2Proof.Machine.execNodeDispatch x0 s
  | .nodeComplete x0 x1 => Sys2Proof.Machine.execNodeComplete x0 x1 s
  | .decrementMessage x0 x1 => Sys2Proof.Machine.execDecrementMessage x0 x1 s
  | .errorToken x0 x1 => Sys2Proof.Machine.execErrorToken x0 x1 s
  | .launchRequest x0 => Sys2Proof.Machine.execLaunchRequest x0 s
  | .graphLaunch x0 => Sys2Proof.Machine.execGraphLaunch x0 s
  | .autoPreempt x0 x1 => Sys2Proof.Machine.execAutoPreempt x0 x1 s
  | .preemptSave x0 x1 => Sys2Proof.Machine.execPreemptSave x0 x1 s
  | .preemptTimeout x0 => Sys2Proof.Machine.execPreemptTimeout x0 s
  | .demandRowArrival x0 => Sys2Proof.Machine.execDemandRowArrival x0 s
  | .grantSequenceArrival x0 x1 x2 => Sys2Proof.Machine.execGrantSequenceArrival x0 x1 x2 s
  | .phaseStart x0 x1 => Sys2Proof.Machine.execPhaseStart x0 x1 s
  | .heartbeat x0 x1 => Sys2Proof.Machine.execHeartbeat x0 x1 s
  | .dispatchPacketReceive x0 => Sys2Proof.Machine.execDispatchPacketReceive x0 s
  | .packetAckReceive x0 x1 => Sys2Proof.Machine.execPacketAckReceive x0 x1 s
  | .roundEnd x0 x1 => Sys2Proof.Machine.execRoundEnd x0 x1 s
  | .endOfRoundMarker x0 x1 x2 x3 => Sys2Proof.Machine.execEndOfRoundMarker x0 x1 x2 x3 s
  | .roundAbandon x0 x1 x2 => Sys2Proof.Machine.execRoundAbandon x0 x1 x2 s
  | .abandonNotice x0 x1 => Sys2Proof.Machine.execAbandonNotice x0 x1 s
  | .peerLost x0 x1 => Sys2Proof.Machine.execPeerLost x0 x1 s
  | .arbiterTakeover x0 x1 => Sys2Proof.Machine.execArbiterTakeover x0 x1 s
  | .takeoverNotice x0 x1 x2 x3 => Sys2Proof.Machine.execTakeoverNotice x0 x1 x2 x3 s
  | .tkoffProbe x0 x1 => Sys2Proof.Machine.execTkoffProbe x0 x1 s
  | .econsWrite x0 x1 => Sys2Proof.Machine.execEconsWrite x0 x1 s
  | .windowRegisterWrite x0 x1 x2 => Sys2Proof.Machine.execWindowRegisterWrite x0 x1 x2 s
  | .hostMemRead x0 x1 => Sys2Proof.Machine.execHostMemRead x0 x1 s
  | .hostMemWrite x0 x1 => Sys2Proof.Machine.execHostMemWrite x0 x1 s
  | .ident x0 x1 => Sys2Proof.Machine.execIdent x0 x1 s
  | .query x0 x1 => Sys2Proof.Machine.execQuery x0 x1 s
  | .querySetTkoff x0 x1 => Sys2Proof.Machine.execQuerySetTkoff x0 x1 s
  | .querySetAgeing x0 x1 => Sys2Proof.Machine.execQuerySetAgeing x0 x1 s
  | .querySetSaveArea x0 x1 => Sys2Proof.Machine.execQuerySetSaveArea x0 x1 s
  | .querySetPreempt x0 x1 => Sys2Proof.Machine.execQuerySetPreempt x0 x1 s
  | .querySetDeviceId x0 x1 => Sys2Proof.Machine.execQuerySetDeviceId x0 x1 s
  | .map x0 x1 => Sys2Proof.Machine.execMap x0 x1 s
  | .unmap x0 x1 => Sys2Proof.Machine.execUnmap x0 x1 s
  | .inval x0 x1 => Sys2Proof.Machine.execInval x0 x1 s
  | .pin x0 x1 => Sys2Proof.Machine.execPin x0 x1 s
  | .unpin x0 x1 => Sys2Proof.Machine.execUnpin x0 x1 s
  | .loadgraph x0 x1 x2 => Sys2Proof.Machine.execLoadgraph x0 x1 x2 s
  | .launch x0 x1 => Sys2Proof.Machine.execLaunch x0 x1 s
  | .cancel x0 x1 => Sys2Proof.Machine.execCancel x0 x1 s
  | .snapshot x0 x1 => Sys2Proof.Machine.execSnapshot x0 x1 s
  | .partnerShardReceive x0 x1 x2 x3 => Sys2Proof.Machine.execPartnerShardReceive x0 x1 x2 x3 s
  | .restore x0 x1 x2 => Sys2Proof.Machine.execRestore x0 x1 x2 s
  | .resetContext x0 x1 => Sys2Proof.Machine.execResetContext x0 x1 s
  | .resetModule x0 x1 => Sys2Proof.Machine.execResetModule x0 x1 s
  | .attest x0 x1 => Sys2Proof.Machine.execAttest x0 x1 s
  | .stopat x0 x1 => Sys2Proof.Machine.execStopat x0 x1 s
  | .stopTick => Sys2Proof.Machine.execStopTick s
  | .powerOn x0 x1 => Sys2Proof.Machine.execPowerOn x0 x1 s
  | .hostLinkDown => Sys2Proof.Machine.execHostLinkDown s
  | .hostLinkUp => Sys2Proof.Machine.execHostLinkUp s
  | .memoryPortLinkDown x0 => Sys2Proof.Machine.execMemoryPortLinkDown x0 s
  | .memoryPortLinkUp x0 => Sys2Proof.Machine.execMemoryPortLinkUp x0 s
  | .expanderLost x0 => Sys2Proof.Machine.execExpanderLost x0 s
  | .expanderPoison x0 => Sys2Proof.Machine.execExpanderPoison x0 s
  | .correctedError x0 => Sys2Proof.Machine.execCorrectedError x0 s
  | .uncorrectableError x0 => Sys2Proof.Machine.execUncorrectableError x0 s
  | .channelRemapDone x0 => Sys2Proof.Machine.execChannelRemapDone x0 s
  | .thermalThrottle x0 x1 x2 => Sys2Proof.Machine.execThermalThrottle x0 x1 x2 s
  | .thermalShutdown x0 x1 => Sys2Proof.Machine.execThermalShutdown x0 x1 s
  | .walkerWindow x0 => Sys2Proof.Machine.execWalkerWindow x0 s
  | .badcode x0 x1 => Sys2Proof.Machine.execBadcode x0 x1 s
  | .arbiterAnswersNothing x0 x1 => Sys2Proof.Machine.execArbiterAnswersNothing x0 x1 s
  | .effectivePriorityReaches3 x0 x1 => Sys2Proof.Machine.execEffectivePriorityReaches3 x0 x1 s
  | .pseqAcknowledged x0 => Sys2Proof.Machine.execPseqAcknowledged x0 s
  | .partnerSlotRead x0 x1 x2 => Sys2Proof.Machine.execPartnerSlotRead x0 x1 x2 s
  | .timestampedProbe x0 => Sys2Proof.Machine.execTimestampedProbe x0 s
  | .uetRetransmit x0 => Sys2Proof.Machine.execUetRetransmit x0 s
  | .cxlCacheSnoop x0 x1 => Sys2Proof.Machine.execCxlCacheSnoop x0 x1 s

end Sys2Proof.Machine
end

