-- ==== Sys2Proof/Decode.lean ====
section
/-! DEFINITION. Decoding (07_encodings.md, R144–R159, R165, R373): total on any bytes, refusing by name; after it the
encoder, written from the same tables. -/

namespace Sys2Proof

/-- Why a word is an illegal encoding (R373 subcodes 0–2); the operand is CODE bits 7:0, the major or OPC. -/
inductive DecodeError where
  | reservedCell (op : BitVec 8)
  | reservedCode (op : BitVec 8)
  | mustBeZero (op : BitVec 8)
  | truncated
deriving DecidableEq, Repr

/-- The n-bit field of a word whose low bit is lo. -/
def fieldOf (w : BitVec 32) (lo n : Nat) : BitVec n := BitVec.ofNat n (w.toNat / 2 ^ lo)

/-- The result of a word some of whose bits must be zero (R148). -/
def zeroUnless (w : BitVec 32) (mask : Nat) (op : BitVec 8) (i : Instr) : Except DecodeError Instr :=
  if w.toNat &&& mask = 0 then .ok i else .error (.mustBeZero op)

/-- Major 0x00, by fn (R151). -/
def decodeAlu (w : BitVec 32) : Except DecodeError Instr :=
  let d : Reg := fieldOf w 20 6
  let a : Reg := fieldOf w 14 6
  let b : Reg := fieldOf w 8 6
  let p : PredIdx := fieldOf w 20 4
  let pd : PredField := fieldOf w 20 5
  let pa : PredField := fieldOf w 14 5
  let pb : PredField := fieldOf w 8 5
  match (fieldOf w 0 8).toNat with
  | 0x00 => .ok (.add d a b)
  | 0x01 => .ok (.sub d a b)
  | 0x02 => .ok (.mul d a b)
  | 0x03 => .ok (.mulh d a b)
  | 0x04 => .ok (.mulhu d a b)
  | 0x05 => .ok (.div d a b)
  | 0x06 => .ok (.divu d a b)
  | 0x07 => .ok (.rem d a b)
  | 0x08 => .ok (.remu d a b)
  | 0x10 => .ok (.and d a b)
  | 0x11 => .ok (.or d a b)
  | 0x12 => .ok (.xor d a b)
  | 0x13 => .ok (.andn d a b)
  | 0x14 => .ok (.shl d a b)
  | 0x15 => .ok (.shr d a b)
  | 0x16 => .ok (.sar d a b)
  | 0x20 => .ok (.min d a b)
  | 0x21 => .ok (.max d a b)
  | 0x22 => .ok (.minu d a b)
  | 0x23 => .ok (.maxu d a b)
  | 0x30 => zeroUnless w 0x3F00 0 (.clz d a)
  | 0x31 => zeroUnless w 0x3F00 0 (.ctz d a)
  | 0x32 => zeroUnless w 0x3F00 0 (.popc d a)
  | 0x33 => .ok (.sext d a b)
  | 0x34 => .ok (.zext d a b)
  | 0x35 => zeroUnless w 0x3F00 0 (.mov d a)
  | 0x40 => zeroUnless w 0x3000000 0 (.cmpEq p a b)
  | 0x41 => zeroUnless w 0x3000000 0 (.cmpNe p a b)
  | 0x42 => zeroUnless w 0x3000000 0 (.cmpLt p a b)
  | 0x43 => zeroUnless w 0x3000000 0 (.cmpLe p a b)
  | 0x44 => zeroUnless w 0x3000000 0 (.cmpLtu p a b)
  | 0x45 => zeroUnless w 0x3000000 0 (.cmpLeu p a b)
  | 0x50 => zeroUnless w 0x2082000 0 (.pand pd pa pb)
  | 0x51 => zeroUnless w 0x2082000 0 (.por pd pa pb)
  | 0x52 => zeroUnless w 0x2082000 0 (.pxor pd pa pb)
  | 0x53 => zeroUnless w 0x2083F00 0 (.pnot pd pa)
  | 0x60 => .ok (.leaX1 d a b)
  | 0x61 => .ok (.leaX2 d a b)
  | 0x62 => .ok (.leaX4 d a b)
  | 0x63 => .ok (.leaX8 d a b)
  | _ => .error (.reservedCell 0)

/-- Major 0x02, MEMX (R152). -/
def decodeMemx (w : BitVec 32) : Except DecodeError Instr :=
  let d : Reg := fieldOf w 20 6
  let a : Reg := fieldOf w 14 6
  let b : Reg := fieldOf w 8 6
  let s : BitVec 2 := fieldOf w 4 2
  let p : BitVec 2 := fieldOf w 2 2
  let c : BitVec 1 := fieldOf w 0 1
  if fieldOf w 2 2 = 3#2 then .error (.reservedCode 2)
  else match (fieldOf w 6 2).toNat with
    | 0 => zeroUnless w 2 2 (.memxLd d a b s p c)
    | 1 => if fieldOf w 4 2 = 3#2 then .error (.reservedCode 2) else zeroUnless w 2 2 (.memxLds d a b s p c)
    | 2 => zeroUnless w 2 2 (.memxSt d a b s p c)
    | _ => .error (.reservedCode 2)

/-- Major 0x03, bit fields (R150). -/
def decodeBf (w : BitVec 32) : Except DecodeError Instr :=
  let d : Reg := fieldOf w 20 6
  let a : Reg := fieldOf w 14 6
  let n : BitVec 6 := fieldOf w 6 6
  let p : BitVec 6 := fieldOf w 0 6
  match (fieldOf w 12 2).toNat with
  | 0 => .ok (.bfx d a n p)
  | 1 => .ok (.bfxu d a n p)
  | 2 => .ok (.bfi d a n p)
  | _ => .error (.reservedCode 3)

/-- Majors 0x04 and 0x05 (R153). -/
def decodeAmo (w : BitVec 32) (dbl : Bool) : Except DecodeError Instr :=
  let d : Reg := fieldOf w 20 6
  let a : Reg := fieldOf w 14 6
  let b : Reg := fieldOf w 8 6
  let s : BitVec 2 := fieldOf w 2 2
  let o : BitVec 2 := fieldOf w 0 2
  match (fieldOf w 4 4).toNat with
  | 0 => .ok (if dbl then .amoAddD d a b s o else .amoAddW d a b s o)
  | 1 => .ok (if dbl then .amoMinD d a b s o else .amoMinW d a b s o)
  | 2 => .ok (if dbl then .amoMaxD d a b s o else .amoMaxW d a b s o)
  | 3 => .ok (if dbl then .amoMinuD d a b s o else .amoMinuW d a b s o)
  | 4 => .ok (if dbl then .amoMaxuD d a b s o else .amoMaxuW d a b s o)
  | 5 => .ok (if dbl then .amoAndD d a b s o else .amoAndW d a b s o)
  | 6 => .ok (if dbl then .amoOrD d a b s o else .amoOrW d a b s o)
  | 7 => .ok (if dbl then .amoXorD d a b s o else .amoXorW d a b s o)
  | 8 => .ok (if dbl then .amoSwapD d a b s o else .amoSwapW d a b s o)
  | 9 => .ok (if dbl then .amoCasD d a b s o else .amoCasW d a b s o)
  | _ => .error (.reservedCode (if dbl then 5 else 4))

/-- Major 0x06, CMPI (R150): cond[2] is bit 13, cond[1:0] bits 25:24. -/
def decodeCmpi (w : BitVec 32) : Except DecodeError Instr :=
  let p : PredIdx := fieldOf w 20 4
  let a : Reg := fieldOf w 14 6
  let i : BitVec 13 := fieldOf w 0 13
  match (fieldOf w 13 1).toNat * 4 + (fieldOf w 24 2).toNat with
  | 0 => .ok (.cmpiEq p a i)
  | 1 => .ok (.cmpiNe p a i)
  | 2 => .ok (.cmpiLt p a i)
  | 3 => .ok (.cmpiLe p a i)
  | 4 => .ok (.cmpiLtu p a i)
  | 5 => .ok (.cmpiLeu p a i)
  | _ => .error (.reservedCode 6)

/-- Major 0x17, SYS (R154). -/
def decodeSys (w : BitVec 32) : Except DecodeError Instr :=
  let a : Reg := fieldOf w 14 6
  let m : MaskIdx := fieldOf w 0 3
  let n : BitVec 6 := fieldOf w 0 6
  match (fieldOf w 20 6).toNat with
  | 0x00 => zeroUnless w 0xFFFFF 0x17 .nop
  | 0x01 => zeroUnless w 0xFFFFF 0x17 .halt
  | 0x02 => zeroUnless w 0xFF000 0x17 (.safe (fieldOf w 0 12))
  | 0x03 => zeroUnless w 0xF0000 0x17 (.trap (fieldOf w 0 16))
  | 0x04 => zeroUnless w 0xFFFFF 0x17 .eret
  | 0x05 => match (fieldOf w 0 2).toNat with
    | 1 => zeroUnless w 0xFFFF0 0x17 (.fenceAcq (fieldOf w 2 2))
    | 2 => zeroUnless w 0xFFFF0 0x17 (.fenceRel (fieldOf w 2 2))
    | 3 => zeroUnless w 0xFFFF0 0x17 (.fenceFull (fieldOf w 2 2))
    | _ => .error (.reservedCode 0x17)
  | 0x06 => if 5 ≤ (fieldOf w 0 3).toNat then .error (.reservedCode 0x17)
            else zeroUnless w 0xFFFF8 0x17 (.drain (fieldOf w 0 3))
  | 0x07 => zeroUnless w 0x3FFF 0x17 (.jr a)
  | 0x08 => zeroUnless w 0xFFFFF 0x17 .ret
  | 0x09 => zeroUnless w 0x3FC0 0x17 (.mfs a n)
  | 0x0A => zeroUnless w 0x3FC0 0x17 (.mts a n)
  | 0x0B => zeroUnless w 0x3FF8 0x17 (.mld a m)
  | 0x0C => zeroUnless w 0x3FF8 0x17 (.mst a m)
  | 0x0D => zeroUnless w 0x3FF8 0x17 (.mset a m)
  | 0x0E => zeroUnless w 0x3FF8 0x17 (.mclr a m)
  | 0x0F => zeroUnless w 0x3878 0x17 (.mtst a (fieldOf w 7 4) m)
  | 0x10 => zeroUnless w 0xF0000 0x17 (.traceS (fieldOf w 0 16))
  | _ => .error (.reservedCell 0x17)

/-- A 32-bit instruction, by its major (R149). -/
def decodeWord (w : BitVec 32) : Except DecodeError Instr :=
  let d : Reg := fieldOf w 20 6
  let a : Reg := fieldOf w 14 6
  let b : Reg := fieldOf w 8 6
  let i14 : BitVec 14 := fieldOf w 0 14
  let i20 : BitVec 20 := fieldOf w 0 20
  let o21 : BitVec 21 := fieldOf w 0 21
  let pi : PredIdx := fieldOf w 21 4
  match (fieldOf w 26 6).toNat with
  | 0x00 => decodeAlu w
  | 0x01 => zeroUnless w 0xE0 1 (.sel d a b (fieldOf w 0 5))
  | 0x02 => decodeMemx w
  | 0x03 => decodeBf w
  | 0x04 => decodeAmo w false
  | 0x05 => decodeAmo w true
  | 0x06 => decodeCmpi w
  | 0x07 => .ok (.loop d i20)
  | 0x08 => .ok (.addi d a i14)
  | 0x09 => .ok (.andi d a i14)
  | 0x0A => .ok (.ori d a i14)
  | 0x0B => .ok (.xori d a i14)
  | 0x0C => zeroUnless w 0x3FC0 0x0C (.shli d a (fieldOf w 0 6))
  | 0x0D => zeroUnless w 0x3FC0 0x0D (.shri d a (fieldOf w 0 6))
  | 0x0E => zeroUnless w 0x3FC0 0x0E (.sari d a (fieldOf w 0 6))
  | 0x0F => .ok (.li d i20)
  | 0x10 => .ok (.lui d i20)
  | 0x11 => .ok (.pld d a (fieldOf w 12 2) (fieldOf w 0 12))
  | 0x12 => .ok (.pst d a (fieldOf w 12 2) (fieldOf w 0 12))
  | 0x13 => zeroUnless w 0x3F00000 0x13 (.pclr a (fieldOf w 12 2) (fieldOf w 0 12))
  | 0x14 =>
    if fieldOf w 25 1 = 0#1 then
      (if fieldOf w 21 4 = 0#4 then .ok (.j o21) else .ok (.bp pi o21))
    else .ok (.bnp pi o21)
  | 0x15 => .ok (.call (fieldOf w 25 1) pi o21)
  | 0x16 => zeroUnless w 0x3F00000 0x16
      (.wait (fieldOf w 16 4) (fieldOf w 12 4) (fieldOf w 8 4) (fieldOf w 4 4) (fieldOf w 0 4))
  | 0x17 => decodeSys w
  | 0x18 => .ok (.ldsB d a i14)
  | 0x19 => .ok (.ldsH d a i14)
  | 0x1A => .ok (.ldsW d a i14)
  | 0x1C => .ok (.ldsBByp d a i14)
  | 0x1D => .ok (.ldsHByp d a i14)
  | 0x1E => .ok (.ldsWByp d a i14)
  | 0x20 => .ok (.ldsBStr d a i14)
  | 0x21 => .ok (.ldsHStr d a i14)
  | 0x22 => .ok (.ldsWStr d a i14)
  | 0x24 => .ok (.ldB d a i14)
  | 0x25 => .ok (.ldH d a i14)
  | 0x26 => .ok (.ldW d a i14)
  | 0x27 => .ok (.ldD d a i14)
  | 0x28 => .ok (.ldBByp d a i14)
  | 0x29 => .ok (.ldHByp d a i14)
  | 0x2A => .ok (.ldWByp d a i14)
  | 0x2B => .ok (.ldDByp d a i14)
  | 0x2C => .ok (.ldBStr d a i14)
  | 0x2D => .ok (.ldHStr d a i14)
  | 0x2E => .ok (.ldWStr d a i14)
  | 0x2F => .ok (.ldDStr d a i14)
  | 0x30 => .ok (.stB d a i14)
  | 0x31 => .ok (.stH d a i14)
  | 0x32 => .ok (.stW d a i14)
  | 0x33 => .ok (.stD d a i14)
  | 0x34 => .ok (.stBByp d a i14)
  | 0x35 => .ok (.stHByp d a i14)
  | 0x36 => .ok (.stWByp d a i14)
  | 0x37 => .ok (.stDByp d a i14)
  | 0x38 => .ok (.stBStr d a i14)
  | 0x39 => .ok (.stHStr d a i14)
  | 0x3A => .ok (.stWStr d a i14)
  | 0x3B => .ok (.stDStr d a i14)
  | m => .error (.reservedCell (BitVec.ofNat 8 m))

/-- W0–W3 of a command, with OPC (R156–R158). -/
def unpackCmd (w0 w1 w2 w3 : BitVec 32) : CmdWords where
  ga := fieldOf w0 15 5
  gb := fieldOf w0 10 5
  hint := fieldOf w0 8 2
  prio := fieldOf w0 6 2
  close := decide (fieldOf w0 5 1 = 1#1)
  after := decide (fieldOf w0 4 1 = 1#1)
  var := fieldOf w0 0 4
  a := fieldOf w1 26 6
  b := fieldOf w1 20 6
  c := fieldOf w1 14 6
  d := fieldOf w1 8 6
  e := fieldOf w1 2 6
  mode := fieldOf w1 0 2
  nw := fieldOf w2 30 2
  wa := fieldOf w2 24 6
  wb := fieldOf w2 18 6
  dv := decide (fieldOf w2 17 1 = 1#1)
  dt := fieldOf w2 11 6
  mi := fieldOf w2 8 3
  tix := fieldOf w2 0 8
  w3 := w3

/-- The instruction of a command's opcode and words; the variants of one opcode are told apart by the field that names
them (R159, R213, R214, R220, R270, R279). A reserved code of such a field keeps the opcode's first name: it is found at
start (R377). -/
def cmdInstr (opc : Nat) (w : CmdWords) : Option Instr :=
  match opc with
  | 0x00 => some (.cfgLoad w)
  | 0x01 => some (.cfgPatch w)
  | 0x02 => some (.cfgReconf w)
  | 0x03 => some (.cfgIter w)
  | 0x04 => some (.pace w)
  | 0x10 => some (.portBind w)
  | 0x11 => some (.portFeed w)
  | 0x12 => some (.portTake w)
  | 0x20 => some (.batch w)
  | 0x21 => some (if w.hurdleAct = 1 then .hurdleArrive w else if w.hurdleAct = 2 then .hurdleWait w
                  else .hurdleArriveWait w)
  | 0x30 => some (if w.mode = 1#2 then .copyFill w else if w.mode = 2#2 then .copyWfill w else .copy w)
  | 0x31 => some (.copyMc w)
  | 0x32 => some (.copyDem w)
  | 0x33 => some (if w.indScatter then .copyIndScatter w else .copyIndGather w)
  | 0x40 => some (.mm w)
  | 0x41 => some (.mmSp w)
  | 0x42 => some (.mmBsr w)
  | 0x43 => some (.mmCsr w)
  | 0x44 => some (.mmArm w)
  | 0x45 => some (if w.var = 1#4 then .mmAccLoad w else if w.var = 2#4 then .mmAccStore w else .mmAccZero w)
  | 0x46 => some (.mmOut w)
  | 0x50 => some (.gather w)
  | 0x51 => some (if w.scatterOp = 1 then .scatterMin w else if w.scatterOp = 2 then .scatterMax w
                  else if w.scatterOp = 3 then .scatterFirst w else if w.scatterOp = 4 then .scatterLast w
                  else .scatterAdd w)
  | 0x52 => some (.intersect w)
  | 0x53 => some (.ixCount w)
  | 0x60 => some (.selTopk w)
  | 0x61 => some (.selColk w)
  | 0x70 => some (.auc w)
  | 0x71 => some (.aucPrice w)
  | 0x80 => some (.dpost w)
  | 0x81 => some (.xsend w)
  | 0x82 => some (.xwait w)
  | 0x90 => some (.place w)
  | 0x91 => some (.glaunch w)
  | 0x92 => some (.nodeSig w)
  | 0xA0 => some (.traceMark w)
  | _ => none

/-- A 128-bit command (R156–R159, R373). -/
def decodeCmd (w0 w1 w2 w3 : BitVec 32) : Except DecodeError Instr :=
  let opc := (fieldOf w0 20 8).toNat
  let w := unpackCmd w0 w1 w2 w3
  match cmdInstr opc w with
  | none => .error (.reservedCell (BitVec.ofNat 8 opc))
  | some i =>
    if w.reservedCode opc then .error (.reservedCode (BitVec.ofNat 8 opc))
    else if w.zeroFields opc then .ok i
    else .error (.mustBeZero (BitVec.ofNat 8 opc))

/-- A little-endian 32-bit word at the head of a list of bytes (R1, R144). -/
def wordAt : List Byte → Option (BitVec 32 × List Byte)
  | b0 :: b1 :: b2 :: b3 :: r => some (b3 ++ b2 ++ b1 ++ b0, r)
  | _ => none

/-- The instruction at the head of a list of bytes and its length in 32-bit words (R144). -/
def decode (bs : List Byte) : Except DecodeError (Instr × Nat) :=
  match wordAt bs with
  | none => .error .truncated
  | some (w0, r0) =>
    if fieldOf w0 28 4 = 0xF#4 then
      match wordAt r0 with
      | none => .error .truncated
      | some (w1, r1) => match wordAt r1 with
        | none => .error .truncated
        | some (w2, r2) => match wordAt r2 with
          | none => .error .truncated
          | some (w3, _) => (decodeCmd w0 w1 w2 w3).map (·, 4)
    else (decodeWord w0).map (·, 1)

/-! ## The encoder -/

/-- The 32-bit word of a scalar instruction, field by field (R148–R155); none for a command or an event. -/
def encodeScalar : Instr → Option Nat
  | .add d a b => some (0 + d.toNat * 1048576 + a.toNat * 16384 + b.toNat * 256)
  | .sub d a b => some (1 + d.toNat * 1048576 + a.toNat * 16384 + b.toNat * 256)
  | .mul d a b => some (2 + d.toNat * 1048576 + a.toNat * 16384 + b.toNat * 256)
  | .mulh d a b => some (3 + d.toNat * 1048576 + a.toNat * 16384 + b.toNat * 256)
  | .mulhu d a b => some (4 + d.toNat * 1048576 + a.toNat * 16384 + b.toNat * 256)
  | .div d a b => some (5 + d.toNat * 1048576 + a.toNat * 16384 + b.toNat * 256)
  | .divu d a b => some (6 + d.toNat * 1048576 + a.toNat * 16384 + b.toNat * 256)
  | .rem d a b => some (7 + d.toNat * 1048576 + a.toNat * 16384 + b.toNat * 256)
  | .remu d a b => some (8 + d.toNat * 1048576 + a.toNat * 16384 + b.toNat * 256)
  | .and d a b => some (16 + d.toNat * 1048576 + a.toNat * 16384 + b.toNat * 256)
  | .or d a b => some (17 + d.toNat * 1048576 + a.toNat * 16384 + b.toNat * 256)
  | .xor d a b => some (18 + d.toNat * 1048576 + a.toNat * 16384 + b.toNat * 256)
  | .andn d a b => some (19 + d.toNat * 1048576 + a.toNat * 16384 + b.toNat * 256)
  | .shl d a b => some (20 + d.toNat * 1048576 + a.toNat * 16384 + b.toNat * 256)
  | .shr d a b => some (21 + d.toNat * 1048576 + a.toNat * 16384 + b.toNat * 256)
  | .sar d a b => some (22 + d.toNat * 1048576 + a.toNat * 16384 + b.toNat * 256)
  | .min d a b => some (32 + d.toNat * 1048576 + a.toNat * 16384 + b.toNat * 256)
  | .max d a b => some (33 + d.toNat * 1048576 + a.toNat * 16384 + b.toNat * 256)
  | .minu d a b => some (34 + d.toNat * 1048576 + a.toNat * 16384 + b.toNat * 256)
  | .maxu d a b => some (35 + d.toNat * 1048576 + a.toNat * 16384 + b.toNat * 256)
  | .clz d a => some (48 + d.toNat * 1048576 + a.toNat * 16384)
  | .ctz d a => some (49 + d.toNat * 1048576 + a.toNat * 16384)
  | .popc d a => some (50 + d.toNat * 1048576 + a.toNat * 16384)
  | .sext d a w => some (51 + d.toNat * 1048576 + a.toNat * 16384 + w.toNat * 256)
  | .zext d a w => some (52 + d.toNat * 1048576 + a.toNat * 16384 + w.toNat * 256)
  | .mov d a => some (53 + d.toNat * 1048576 + a.toNat * 16384)
  | .cmpEq p a b => some (64 + p.toNat * 1048576 + a.toNat * 16384 + b.toNat * 256)
  | .cmpNe p a b => some (65 + p.toNat * 1048576 + a.toNat * 16384 + b.toNat * 256)
  | .cmpLt p a b => some (66 + p.toNat * 1048576 + a.toNat * 16384 + b.toNat * 256)
  | .cmpLe p a b => some (67 + p.toNat * 1048576 + a.toNat * 16384 + b.toNat * 256)
  | .cmpLtu p a b => some (68 + p.toNat * 1048576 + a.toNat * 16384 + b.toNat * 256)
  | .cmpLeu p a b => some (69 + p.toNat * 1048576 + a.toNat * 16384 + b.toNat * 256)
  | .pand d a b => some (80 + d.toNat * 1048576 + a.toNat * 16384 + b.toNat * 256)
  | .por d a b => some (81 + d.toNat * 1048576 + a.toNat * 16384 + b.toNat * 256)
  | .pxor d a b => some (82 + d.toNat * 1048576 + a.toNat * 16384 + b.toNat * 256)
  | .pnot d a => some (83 + d.toNat * 1048576 + a.toNat * 16384)
  | .leaX1 d a b => some (96 + d.toNat * 1048576 + a.toNat * 16384 + b.toNat * 256)
  | .leaX2 d a b => some (97 + d.toNat * 1048576 + a.toNat * 16384 + b.toNat * 256)
  | .leaX4 d a b => some (98 + d.toNat * 1048576 + a.toNat * 16384 + b.toNat * 256)
  | .leaX8 d a b => some (99 + d.toNat * 1048576 + a.toNat * 16384 + b.toNat * 256)
  | .sel d a b p => some (67108864 + d.toNat * 1048576 + a.toNat * 16384 + b.toNat * 256 + p.toNat * 1)
  | .memxLd d a b s p c => some (134217728 + d.toNat * 1048576 + a.toNat * 16384 + b.toNat * 256 + s.toNat * 16 + p.toNat * 4 + c.toNat * 1)
  | .memxLds d a b s p c => some (134217792 + d.toNat * 1048576 + a.toNat * 16384 + b.toNat * 256 + s.toNat * 16 + p.toNat * 4 + c.toNat * 1)
  | .memxSt d a b s p c => some (134217856 + d.toNat * 1048576 + a.toNat * 16384 + b.toNat * 256 + s.toNat * 16 + p.toNat * 4 + c.toNat * 1)
  | .bfx d a w p => some (201326592 + d.toNat * 1048576 + a.toNat * 16384 + w.toNat * 64 + p.toNat * 1)
  | .bfxu d a w p => some (201330688 + d.toNat * 1048576 + a.toNat * 16384 + w.toNat * 64 + p.toNat * 1)
  | .bfi d a w p => some (201334784 + d.toNat * 1048576 + a.toNat * 16384 + w.toNat * 64 + p.toNat * 1)
  | .amoAddW d a b s o => some (268435456 + d.toNat * 1048576 + a.toNat * 16384 + b.toNat * 256 + s.toNat * 4 + o.toNat * 1)
  | .amoMinW d a b s o => some (268435472 + d.toNat * 1048576 + a.toNat * 16384 + b.toNat * 256 + s.toNat * 4 + o.toNat * 1)
  | .amoMaxW d a b s o => some (268435488 + d.toNat * 1048576 + a.toNat * 16384 + b.toNat * 256 + s.toNat * 4 + o.toNat * 1)
  | .amoMinuW d a b s o => some (268435504 + d.toNat * 1048576 + a.toNat * 16384 + b.toNat * 256 + s.toNat * 4 + o.toNat * 1)
  | .amoMaxuW d a b s o => some (268435520 + d.toNat * 1048576 + a.toNat * 16384 + b.toNat * 256 + s.toNat * 4 + o.toNat * 1)
  | .amoAndW d a b s o => some (268435536 + d.toNat * 1048576 + a.toNat * 16384 + b.toNat * 256 + s.toNat * 4 + o.toNat * 1)
  | .amoOrW d a b s o => some (268435552 + d.toNat * 1048576 + a.toNat * 16384 + b.toNat * 256 + s.toNat * 4 + o.toNat * 1)
  | .amoXorW d a b s o => some (268435568 + d.toNat * 1048576 + a.toNat * 16384 + b.toNat * 256 + s.toNat * 4 + o.toNat * 1)
  | .amoSwapW d a b s o => some (268435584 + d.toNat * 1048576 + a.toNat * 16384 + b.toNat * 256 + s.toNat * 4 + o.toNat * 1)
  | .amoCasW d a b s o => some (268435600 + d.toNat * 1048576 + a.toNat * 16384 + b.toNat * 256 + s.toNat * 4 + o.toNat * 1)
  | .amoAddD d a b s o => some (335544320 + d.toNat * 1048576 + a.toNat * 16384 + b.toNat * 256 + s.toNat * 4 + o.toNat * 1)
  | .amoMinD d a b s o => some (335544336 + d.toNat * 1048576 + a.toNat * 16384 + b.toNat * 256 + s.toNat * 4 + o.toNat * 1)
  | .amoMaxD d a b s o => some (335544352 + d.toNat * 1048576 + a.toNat * 16384 + b.toNat * 256 + s.toNat * 4 + o.toNat * 1)
  | .amoMinuD d a b s o => some (335544368 + d.toNat * 1048576 + a.toNat * 16384 + b.toNat * 256 + s.toNat * 4 + o.toNat * 1)
  | .amoMaxuD d a b s o => some (335544384 + d.toNat * 1048576 + a.toNat * 16384 + b.toNat * 256 + s.toNat * 4 + o.toNat * 1)
  | .amoAndD d a b s o => some (335544400 + d.toNat * 1048576 + a.toNat * 16384 + b.toNat * 256 + s.toNat * 4 + o.toNat * 1)
  | .amoOrD d a b s o => some (335544416 + d.toNat * 1048576 + a.toNat * 16384 + b.toNat * 256 + s.toNat * 4 + o.toNat * 1)
  | .amoXorD d a b s o => some (335544432 + d.toNat * 1048576 + a.toNat * 16384 + b.toNat * 256 + s.toNat * 4 + o.toNat * 1)
  | .amoSwapD d a b s o => some (335544448 + d.toNat * 1048576 + a.toNat * 16384 + b.toNat * 256 + s.toNat * 4 + o.toNat * 1)
  | .amoCasD d a b s o => some (335544464 + d.toNat * 1048576 + a.toNat * 16384 + b.toNat * 256 + s.toNat * 4 + o.toNat * 1)
  | .cmpiEq p a i => some (402653184 + p.toNat * 1048576 + a.toNat * 16384 + i.toNat * 1)
  | .cmpiNe p a i => some (419430400 + p.toNat * 1048576 + a.toNat * 16384 + i.toNat * 1)
  | .cmpiLt p a i => some (436207616 + p.toNat * 1048576 + a.toNat * 16384 + i.toNat * 1)
  | .cmpiLe p a i => some (452984832 + p.toNat * 1048576 + a.toNat * 16384 + i.toNat * 1)
  | .cmpiLtu p a i => some (402661376 + p.toNat * 1048576 + a.toNat * 16384 + i.toNat * 1)
  | .cmpiLeu p a i => some (419438592 + p.toNat * 1048576 + a.toNat * 16384 + i.toNat * 1)
  | .loop d i => some (469762048 + d.toNat * 1048576 + i.toNat * 1)
  | .addi d a i => some (536870912 + d.toNat * 1048576 + a.toNat * 16384 + i.toNat * 1)
  | .andi d a i => some (603979776 + d.toNat * 1048576 + a.toNat * 16384 + i.toNat * 1)
  | .ori d a i => some (671088640 + d.toNat * 1048576 + a.toNat * 16384 + i.toNat * 1)
  | .xori d a i => some (738197504 + d.toNat * 1048576 + a.toNat * 16384 + i.toNat * 1)
  | .shli d a s => some (805306368 + d.toNat * 1048576 + a.toNat * 16384 + s.toNat * 1)
  | .shri d a s => some (872415232 + d.toNat * 1048576 + a.toNat * 16384 + s.toNat * 1)
  | .sari d a s => some (939524096 + d.toNat * 1048576 + a.toNat * 16384 + s.toNat * 1)
  | .li d i => some (1006632960 + d.toNat * 1048576 + i.toNat * 1)
  | .lui d i => some (1073741824 + d.toNat * 1048576 + i.toNat * 1)
  | .pld d a s o => some (1140850688 + d.toNat * 1048576 + a.toNat * 16384 + s.toNat * 4096 + o.toNat * 1)
  | .pst d a s o => some (1207959552 + d.toNat * 1048576 + a.toNat * 16384 + s.toNat * 4096 + o.toNat * 1)
  | .pclr a s o => some (1275068416 + a.toNat * 16384 + s.toNat * 4096 + o.toNat * 1)
  | .bp p o => some (1342177280 + p.toNat * 2097152 + o.toNat * 1)
  | .bnp p o => some (1375731712 + p.toNat * 2097152 + o.toNat * 1)
  | .j o => some (1342177280 + o.toNat * 1)
  | .call n p o => some (1409286144 + n.toNat * 33554432 + p.toNat * 2097152 + o.toNat * 1)
  | .wait l s c t b => some (1476395008 + l.toNat * 65536 + s.toNat * 4096 + c.toNat * 256 + t.toNat * 16 + b.toNat * 1)
  | .nop => some (1543503872)
  | .halt => some (1544552448)
  | .safe i => some (1545601024 + i.toNat * 1)
  | .trap c => some (1546649600 + c.toNat * 1)
  | .eret => some (1547698176)
  | .fenceAcq s => some (1548746753 + s.toNat * 4)
  | .fenceRel s => some (1548746754 + s.toNat * 4)
  | .fenceFull s => some (1548746755 + s.toNat * 4)
  | .drain p => some (1549795328 + p.toNat * 1)
  | .jr a => some (1550843904 + a.toNat * 16384)
  | .ret => some (1551892480)
  | .mfs d n => some (1552941056 + d.toNat * 16384 + n.toNat * 1)
  | .mts a n => some (1553989632 + a.toNat * 16384 + n.toNat * 1)
  | .mld a m => some (1555038208 + a.toNat * 16384 + m.toNat * 1)
  | .mst a m => some (1556086784 + a.toNat * 16384 + m.toNat * 1)
  | .mset a m => some (1557135360 + a.toNat * 16384 + m.toNat * 1)
  | .mclr a m => some (1558183936 + a.toNat * 16384 + m.toNat * 1)
  | .mtst a p m => some (1559232512 + a.toNat * 16384 + p.toNat * 128 + m.toNat * 1)
  | .traceS v => some (1560281088 + v.toNat * 1)
  | .ldsB d a o => some (1610612736 + d.toNat * 1048576 + a.toNat * 16384 + o.toNat * 1)
  | .ldsH d a o => some (1677721600 + d.toNat * 1048576 + a.toNat * 16384 + o.toNat * 1)
  | .ldsW d a o => some (1744830464 + d.toNat * 1048576 + a.toNat * 16384 + o.toNat * 1)
  | .ldsBByp d a o => some (1879048192 + d.toNat * 1048576 + a.toNat * 16384 + o.toNat * 1)
  | .ldsHByp d a o => some (1946157056 + d.toNat * 1048576 + a.toNat * 16384 + o.toNat * 1)
  | .ldsWByp d a o => some (2013265920 + d.toNat * 1048576 + a.toNat * 16384 + o.toNat * 1)
  | .ldsBStr d a o => some (2147483648 + d.toNat * 1048576 + a.toNat * 16384 + o.toNat * 1)
  | .ldsHStr d a o => some (2214592512 + d.toNat * 1048576 + a.toNat * 16384 + o.toNat * 1)
  | .ldsWStr d a o => some (2281701376 + d.toNat * 1048576 + a.toNat * 16384 + o.toNat * 1)
  | .ldB d a o => some (2415919104 + d.toNat * 1048576 + a.toNat * 16384 + o.toNat * 1)
  | .ldH d a o => some (2483027968 + d.toNat * 1048576 + a.toNat * 16384 + o.toNat * 1)
  | .ldW d a o => some (2550136832 + d.toNat * 1048576 + a.toNat * 16384 + o.toNat * 1)
  | .ldD d a o => some (2617245696 + d.toNat * 1048576 + a.toNat * 16384 + o.toNat * 1)
  | .ldBByp d a o => some (2684354560 + d.toNat * 1048576 + a.toNat * 16384 + o.toNat * 1)
  | .ldHByp d a o => some (2751463424 + d.toNat * 1048576 + a.toNat * 16384 + o.toNat * 1)
  | .ldWByp d a o => some (2818572288 + d.toNat * 1048576 + a.toNat * 16384 + o.toNat * 1)
  | .ldDByp d a o => some (2885681152 + d.toNat * 1048576 + a.toNat * 16384 + o.toNat * 1)
  | .ldBStr d a o => some (2952790016 + d.toNat * 1048576 + a.toNat * 16384 + o.toNat * 1)
  | .ldHStr d a o => some (3019898880 + d.toNat * 1048576 + a.toNat * 16384 + o.toNat * 1)
  | .ldWStr d a o => some (3087007744 + d.toNat * 1048576 + a.toNat * 16384 + o.toNat * 1)
  | .ldDStr d a o => some (3154116608 + d.toNat * 1048576 + a.toNat * 16384 + o.toNat * 1)
  | .stB s a o => some (3221225472 + s.toNat * 1048576 + a.toNat * 16384 + o.toNat * 1)
  | .stH s a o => some (3288334336 + s.toNat * 1048576 + a.toNat * 16384 + o.toNat * 1)
  | .stW s a o => some (3355443200 + s.toNat * 1048576 + a.toNat * 16384 + o.toNat * 1)
  | .stD s a o => some (3422552064 + s.toNat * 1048576 + a.toNat * 16384 + o.toNat * 1)
  | .stBByp s a o => some (3489660928 + s.toNat * 1048576 + a.toNat * 16384 + o.toNat * 1)
  | .stHByp s a o => some (3556769792 + s.toNat * 1048576 + a.toNat * 16384 + o.toNat * 1)
  | .stWByp s a o => some (3623878656 + s.toNat * 1048576 + a.toNat * 16384 + o.toNat * 1)
  | .stDByp s a o => some (3690987520 + s.toNat * 1048576 + a.toNat * 16384 + o.toNat * 1)
  | .stBStr s a o => some (3758096384 + s.toNat * 1048576 + a.toNat * 16384 + o.toNat * 1)
  | .stHStr s a o => some (3825205248 + s.toNat * 1048576 + a.toNat * 16384 + o.toNat * 1)
  | .stWStr s a o => some (3892314112 + s.toNat * 1048576 + a.toNat * 16384 + o.toNat * 1)
  | .stDStr s a o => some (3959422976 + s.toNat * 1048576 + a.toNat * 16384 + o.toNat * 1)
  | _ => none

/-- Opcode and fields of a stream command (R159). -/
def cmdOf : Instr → Option (Nat × CmdWords)
  | .cfgLoad w => some (0, w)
  | .cfgPatch w => some (1, w)
  | .cfgReconf w => some (2, w)
  | .cfgIter w => some (3, w)
  | .pace w => some (4, w)
  | .portBind w => some (16, w)
  | .portFeed w => some (17, w)
  | .portTake w => some (18, w)
  | .batch w => some (32, w)
  | .hurdleArriveWait w => some (33, w)
  | .hurdleArrive w => some (33, w)
  | .hurdleWait w => some (33, w)
  | .copy w => some (48, w)
  | .copyFill w => some (48, w)
  | .copyWfill w => some (48, w)
  | .copyMc w => some (49, w)
  | .copyDem w => some (50, w)
  | .copyIndGather w => some (51, w)
  | .copyIndScatter w => some (51, w)
  | .mm w => some (64, w)
  | .mmSp w => some (65, w)
  | .mmBsr w => some (66, w)
  | .mmCsr w => some (67, w)
  | .mmArm w => some (68, w)
  | .mmAccZero w => some (69, w)
  | .mmAccLoad w => some (69, w)
  | .mmAccStore w => some (69, w)
  | .mmOut w => some (70, w)
  | .gather w => some (80, w)
  | .scatterAdd w => some (81, w)
  | .scatterMin w => some (81, w)
  | .scatterMax w => some (81, w)
  | .scatterFirst w => some (81, w)
  | .scatterLast w => some (81, w)
  | .intersect w => some (82, w)
  | .ixCount w => some (83, w)
  | .selTopk w => some (96, w)
  | .selColk w => some (97, w)
  | .auc w => some (112, w)
  | .aucPrice w => some (113, w)
  | .dpost w => some (128, w)
  | .xsend w => some (129, w)
  | .xwait w => some (130, w)
  | .place w => some (144, w)
  | .glaunch w => some (145, w)
  | .nodeSig w => some (146, w)
  | .traceMark w => some (160, w)
  | _ => none

/-- W0 of a command (R156). -/
def CmdWords.pack0 (opc : Nat) (w : CmdWords) : Nat :=
  0xF * 2 ^ 28 + opc * 2 ^ 20 + w.ga.toNat * 2 ^ 15 + w.gb.toNat * 2 ^ 10 + w.hint.toNat * 2 ^ 8 + w.prio.toNat * 2 ^ 6
    + w.close.toNat * 2 ^ 5 + w.after.toNat * 2 ^ 4 + w.var.toNat

/-- W1 of a command (R157). -/
def CmdWords.pack1 (w : CmdWords) : Nat :=
  w.a.toNat * 2 ^ 26 + w.b.toNat * 2 ^ 20 + w.c.toNat * 2 ^ 14 + w.d.toNat * 2 ^ 8 + w.e.toNat * 2 ^ 2 + w.mode.toNat

/-- W2 of a command (R158). -/
def CmdWords.pack2 (w : CmdWords) : Nat :=
  w.nw.toNat * 2 ^ 30 + w.wa.toNat * 2 ^ 24 + w.wb.toNat * 2 ^ 18 + w.dv.toNat * 2 ^ 17 + w.dt.toNat * 2 ^ 11
    + w.mi.toNat * 2 ^ 8 + w.tix.toNat

/-- The 32-bit words of a scalar instruction or command; none for an event. -/
def encode (i : Instr) : Option (List (BitVec 32)) :=
  match encodeScalar i with
  | some n => some [BitVec.ofNat 32 n]
  | none => match cmdOf i with
    | some (opc, w) => some [BitVec.ofNat 32 (w.pack0 opc), BitVec.ofNat 32 w.pack1, BitVec.ofNat 32 w.pack2, w.w3]
    | none => none

/-- The four bytes of a word, lowest address first (R1). -/
def wordBytes (w : BitVec 32) : List Byte :=
  [fieldOf w 0 8, fieldOf w 8 8, fieldOf w 16 8, fieldOf w 24 8]

/-- Words as the device stores them (R1, R144). -/
def bytesOf : List (BitVec 32) → List Byte
  | [] => []
  | w :: ws => wordBytes w ++ bytesOf ws

/-- The words of an instruction numbered as the opcode table numbers its bits: bit 0 is the least significant bit of the
first word; absent bits are 0. -/
def tableBytes (w : Nat) : List Byte :=
  bytesOf [BitVec.ofNat 32 w, BitVec.ofNat 32 (w / 2 ^ 32), BitVec.ofNat 32 (w / 2 ^ 64), BitVec.ofNat 32 (w / 2 ^ 96)]

/-- What the decoder reads from an instruction of the opcode table whose low `nbits` bits are `w`. -/
def decodeTableWord (nbits w : Nat) : Option Instr :=
  match decode (tableBytes (w % 2 ^ nbits)) with
  | .ok (i, _) => some i
  | .error _ => none

end Sys2Proof
end

