-- ==== Sys2Proof/Machine/Fetch.lean ====
section
/-! DEFINITION. Fetching an instruction (R144, R145, R373, R403), what moves while the module is stopped (R421), and the
placement of one instruction where the machine fetches next. -/

namespace Sys2Proof.Machine

/-- The instruction is one a control core fetches. -/
def isFetched (i : Instr) : Bool := (encode i).isSome

/-- The bytes of an instruction's first word name a command. -/
def isCmdBytes (bs : List Byte) : Bool := groupIsCmd bs

/-- Subcode and CODE byte of a decoding error (R373). -/
def decodeSub : DecodeError → Nat × Nat
  | .reservedCell op => (0, op.toNat)
  | .reservedCode op => (1, op.toNat)
  | .mustBeZero op => (2, op.toNat)
  | .truncated => (5, 0)

/-- OPC of the bytes of a command's W0 (R156). -/
def opcOf (bs : List Byte) : Nat := ((bs.getD 3 0).toNat * 256 + (bs.getD 2 0).toNat) / 16 % 256

/-- The control core reaches the end of its stream (R373): EPC holds the stream's length, and so does SOFF in the record of a
fault that escalates. -/
def State.overrun (s : State) (n : Nat) : State :=
  (s.updCore n fun c => { c with soff := BitVec.ofNat 32 (s.core n).stream.2 }).exception n (BitVec.ofNat 32 (s.core n).stream.2) 1#8 0x500#16 false 0

/-- The instruction at a core's SOFF, or the state after the fault its fetch or encoding raises. A command whose W0 lies
inside the stream and whose other words lie past STRMLEN is read whole and runs, and the overrun is met after it: the spec
does not say which (log 62). -/
def State.fetchInstr (s : State) (n : Nat) : Except State Instr :=
  let c := s.core n
  let at_ := c.soff.toNat
  if c.stream.2 ≤ at_ then .error (s.overrun n)
  else match s.fetchGroup n at_ with
    | .error f => .error (s.scalarMemFault n f c.soff 0)
    | .ok group =>
      let bs := group.drop (4 * (at_ % 4))
      let cmd := isCmdBytes bs
      if cmd && decide (at_ % 4 ≠ 0) then .error (s.illegal n 3 (opcOf bs) (opcOf bs))
      else match decode bs with
        | .ok (i, _) => .ok i
        | .error e => .error (s.illegal n (decodeSub e).1 (decodeSub e).2 (if cmd then (decodeSub e).2 else 0))

/-- Record entry is a safe point (R30, R32): a core with a pending pre-emption stops there before its first instruction. -/
def Core.stopsAtEntry (c : Core) (boundary : Bool) : Bool :=
  c.preempt && c.entry && !c.hm && c.issues && boundary

/-- A core whose HURDLE with HOLD has completed under a pending pre-emption goes on, unless it has stopped there, at an iteration
boundary (R32, R223). -/
def State.letGo (s : State) (n : Nat) (boundary : Bool) : State :=
  let c := s.core n
  match c.heldBy with
  | some id => if s.cmdDone id && !(c.preempt && boundary) then s.setCore n { c with heldBy := none } else s
  | none => s

/-- Acts of the management core and the host that go on while the module is stopped at a tick: every command of a window or the
side-band port is read and answered as far as the firmware alone can (R359, R421). -/
def whileStopped : Instr → Bool
  | .windowRegisterWrite _ _ _ => true
  | .econsWrite _ _ => true
  | .hostMemRead _ _ => true
  | .ident _ _ => true
  | .query _ _ => true
  | .badcode _ _ => true
  | .querySetTkoff _ _ => true
  | .querySetAgeing _ _ => true
  | .querySetSaveArea _ _ => true
  | .querySetPreempt _ _ => true
  | .querySetDeviceId _ _ => true
  | .map _ _ => true
  | .unmap _ _ => true
  | .inval _ _ => true
  | .pin _ _ => true
  | .unpin _ _ => true
  | .loadgraph _ _ _ => true
  | .launch _ _ => true
  | .cancel _ _ => true
  | .snapshot _ _ => true
  | .restore _ _ _ => true
  | .resetContext _ _ => true
  | .stopat _ _ => true
  | .resetModule _ _ => true
  | .attest _ _ => true
  | .hostLinkDown => true
  | .hostLinkUp => true
  | .thermalThrottle _ _ _ => true
  | .thermalShutdown _ _ => true
  | _ => false

/-- Boot or a module reset is what follows a shut-down; the side-band port, by which a reset may be asked for, goes on with
the management core (R359, R360, R362). -/
def boots : Instr → Bool
  | .powerOn _ _ => true
  | .resetModule _ _ => true
  | .windowRegisterWrite ctx _ _ => decide (ctx = 4)
  | .query win _ => decide (win = 4)
  | .attest win _ => decide (win = 4)
  | .badcode win _ => decide (win = 4)
  | .stopat win _ => decide (win = 4)
  | .resetContext win _ => decide (win = 4)
  | _ => false

/-- A core that runs the stream of one 16-byte group at offset 64 of the record at virtual address 0. -/
def Core.atGroup (c : Core) : Core :=
  { c with
    run := .running, hm := false, group := none, heldBy := none, cfgBy := none, stopMask := none, entry := false
    pc := 0, soff := 0, record := { c.record with strmOff := 64, strmLen := 4 } }

/-- The page that holds that record: virtual and physical address 0, valid and executable. -/
def groupPage : Page := ⟨0, 0, 16, 9#16⟩

/-- Bytes stored where the core whose turn it is fetches its next instruction, nothing else due before it. -/
def State.placeGroup (s : State) (bs : List Byte) : State :=
  let c := (s.core s.cur).atGroup
  let s1 := { s.setCore s.cur c with
    power := .on
    stopAt := none
    agenda := []
    mem := s.mem.writeBytes 64 bs
    poison := SMap.set .clean s.poison 0 .clean }
  s1.updCtx c.ctx fun x => { x with pages := groupPage :: x.pages }

end Sys2Proof.Machine
end

