-- ==== Sys2Proof/Machine/Clk.lean ====
section
/-! DEFINITION. One clk of a core's channel counters and samples (R418, R419): what left its register, what the control core
does, and what the element sampled does. -/

namespace Sys2Proof.Machine

/-! ## Channel counters (R419) -/

/-- Add 1 to a count that saturates. -/
def satInc (x : BitVec 32) : BitVec 32 := if x = 0xFFFFFFFF#32 then x else x + 1

/-- Count one clk of a router output. -/
def ChanCount.tick (x : ChanCount) (moved held : Bool) : ChanCount :=
  if moved then { x with move := satInc x.move }
  else if held then { x with full := satInc x.full }
  else { x with empty := satInc x.empty }

/-- Count one clk of every router output: a token has left its register since the last clk, stands in it, or neither. -/
def Core.countClk (c : Core) : Core :=
  let step := fun (m : SMap ChanCount) => (List.range 1024).map fun x =>
    (x, (SMap.get {} m x).tick (decide (x ∈ c.departed)) (decide (c.queue x ≠ [])))
  { c with chan := step c.chan, chanWin := step c.chanWin, departed := [], winClk := c.winClk + 1, clk := c.clk + 1 }

/-! ## Samples (R418) -/

/-- The address of the control core's sample. -/
def Core.sampleAddr (c : Core) : Nat :=
  (if c.hm then c.handler.toNat else c.pc.toNat + c.record.strmOff) + 4 * c.soff.toNat

/-- Registers that an instruction which may continue at its own SOFF reads; none for every other instruction. -/
def branchReads : Instr → Option (List Reg)
  | .bp _ _ => some []
  | .bnp _ _ => some []
  | .j _ => some []
  | .call _ _ _ => some []
  | .loop d _ => some [d]
  | .jr a => some [a]
  | .ret => some [47#6]
  | _ => none

/-- Instructions that hold the control core while they wait. -/
def waitsItself : Instr → Bool
  | .wait _ _ _ _ _ => true
  | .drain _ => true
  | _ => false

/-- Every value still to arrive in a register or mask of core n counts as there. -/
def State.nonePending (s : State) (n : Nat) : State :=
  { s.updCore n fun c => { c with accs := c.accs.map fun a => if a.kind = .mload then { a with dst := 0 } else { a with dst := 57 } } with
    cmds := s.cmds.map fun k => if k.owner = .core n ∧ k.opc = 0x12#8 then { k with areg := 57#6 } else k }

/-- The instruction fetched at core n's SOFF issues in state s: the core goes on, enters or leaves its handler, or stops. -/
def State.wouldIssue (s : State) (n : Nat) (i : Instr) : Bool :=
  match exec i { s with cur := n } with
  | .next t =>
    let c := s.core n
    let c' := t.core n
    decide (c'.soff ≠ c.soff) || decide (c'.pc ≠ c.pc) || (c'.hm != c.hm) || decide (c'.run ≠ c.run)
  | _ => false

/-- The reason of the control core's sample, none in a state that the four reasons of R418 do not describe. -/
def State.coreReason (s : State) (n : Nat) : Option Nat :=
  let c := s.core n
  if c.run = .running ∧ c.heldBy ≠ none then some 2
  else if !c.issues ∨ c.stopsAtEntry c.atBoundary then none
  else match s.fetchInstr n with
    | .error _ => none
    | .ok i =>
      match branchReads i with
      | some rs => some (if rs.any fun r => s.regPending n r.toNat then 1 else 0)
      | none =>
        if s.wouldIssue n i then some 0
        else if waitsItself i then some 2
        else if (s.nonePending n).wouldIssue n i then some 1
        else if (encode i).any fun ws => decide (1 < ws.length) then some 3
        else none

/-- The element at a site fires; one at a memory port also needs its access to go ahead. -/
def State.elemFires (s : State) (n r : Nat) : Bool :=
  if isMemOp (wOp ((s.core n).word r)) then decide ((s.fireMem n r).core n ≠ s.core n)
  else (s.core n).elemMoves r && decide (elemPlace r ∉ (s.core n).pausedPorts)

/-- The reason of an element's sample, none where it only waits for its port's memory: it fires, its output is full, or an
input it needs is empty. -/
def State.elemReason (s : State) (n r : Nat) : Option Nat :=
  let c := s.core n
  if s.elemFires n r then some 8
  else if c.room (elemPlace r) ≤ (c.queue (elemPlace r)).length + (c.est r).buf.length then some 10
  else if c.elemMoves r then none
  else some 9

/-- A reason, or a free one of k from `base` on where R418 gives none. -/
def State.reasonOr (s : State) (base k : Nat) : Option Nat → Nat × State
  | some r => (r, s)
  | none => (base + (Config.freeWord s.free).toNat % k, { s with free := s.free + 1 })

/-- One clk of core n: its channels are counted, and its control core and the element at site clk mod 256 are sampled. A reason
that R418 does not give is a free value. A window of the walker that is full ends first (R420). -/
def State.clkStep (s : State) (n : Nat) : State :=
  let c0 := s.core n
  if c0.run = .idle then s
  else
    let s0 := if c0.winClk < 65536 then s else s.endWindow n
    let c := s0.core n
    let site := c.clk % 256
    let (reason, s1) := s0.reasonOr 0 4 (s0.coreReason n)
    let s2 := (s1.updCore n Core.countClk).sampleEvent n false reason c.sampleAddr
    if wOp (c.word site) = 0 then s2
    else
      let (elem, s3) := s2.reasonOr 8 3 (s0.elemReason n site)
      s3.sampleEvent n true elem (c.pc.toNat + site)

end Sys2Proof.Machine
end

