-- ==== Sys2Proof/Machine/Step.lean ====
section
/-! DEFINITION. One step of the machine: which act is next (log 4), and the machine with a given instruction where it
fetches next. -/

namespace Sys2Proof.Machine

/-- A core's turn: it stops at record entry, stalls, faults in its fetch, or runs the instruction at its SOFF. -/
def coreTurn (n : Nat) (s0 : State) : Host.Outcome State Fault Refusal :=
  let s := s0.letGo n (s0.core n).atBoundary
  let c := s.core n
  if c.stopsAtEntry c.atBoundary then .next (s.setCore n { c with stopMask := some c.record.entryMask })
  else if !c.issues then .next s
  else match s.fetchInstr n with
    | .error s' => .next s'
    | .ok i => exec i { s.keepGroup n c.soff.toNat with cur := n }

/-- One act. -/
def act (a : Act) (s : State) : Host.Outcome State Fault Refusal :=
  match a with
  | .core n => coreTurn n { s with cur := n }
  | .event i => if isFetched i then .next s else exec i s
  | .hop n dst => .next (s.hopAct n dst)
  | .piece id i => .next (s.pieceOf id i)
  | .clk n => .next (s.clkStep n)

/-- Let ticks pass: fault records detected before are written first (R366), waiting commands noted (R264), and after them the
members of a group whose second is over probe again (R303). -/
def tick (dt : Nat) (s : State) : State :=
  let s1 := if s.recsPending && decide (dt ≠ 0) then s.flushAll.noteReady else s.noteReady
  let s2 := { s1 with gtc := s1.gtc + BitVec.ofNat 64 dt }
  if dt = 0 then s2 else s2.probeAll

/-- The core whose turn it is issues after an unstated time (log 4). -/
def idleTick (s : State) : State := tick (Config.elapsed s.free).toNat { s with free := s.free + 1 }

/-- What comes next when the module runs: the first turn of the agenda, or the core whose turn it is. -/
def nextAct (s : State) : Act × State :=
  match s.agenda with
  | ⟨dt, a⟩ :: r => (a, tick dt { s with agenda := r })
  | [] => (.core s.cur, idleTick s)

/-- The armed tick comes no later than the time reached (R421). -/
def stopDue (s : State) : Bool :=
  match s.stopAt with
  | some t => decide (t.toNat ≤ s.gtc.toNat)
  | none => false

/-- A step of a running module: a stop at a tick comes before every act of that tick or a later one. -/
def runStep (s : State) : Host.Outcome State Fault Refusal :=
  let (a, s1) := nextAct s
  if stopDue s1 then exec .stopTick s1 else act a s1

/-- A step of a stopped module: the management core, the side-band port and the host link go on (R421). -/
def stoppedStep (s : State) : Host.Outcome State Fault Refusal :=
  match s.agenda with
  | ⟨_, .event i⟩ :: r => if whileStopped i then exec i { s with agenda := r } else .next { s with agenda := r }
  | _ :: r => .next { s with agenda := r }
  | [] => .next s

/-- A step of a module that its temperature has shut down: boot or a module reset follows, and the side-band port answers
(R359, R362). -/
def shutStep (s : State) : Host.Outcome State Fault Refusal :=
  match s.agenda with
  | ⟨_, .event i⟩ :: r => if boots i then exec i { s with agenda := r } else .fault .shutDown
  | _ => .fault .shutDown

/-- One step of the machine. -/
def step (s : State) : Host.Outcome State Fault Refusal :=
  match s.power with
  | .on => runStep s
  | .stopped => stoppedStep s
  | .shut => shutStep s

/-- `s` with an instruction stored where step fetches next. -/
def State.withFetchWord (s : State) (nbits w : Nat) : State := s.placeGroup (tableBytes (w % 2 ^ nbits))

end Sys2Proof.Machine
end

