-- ==== Sys2Proof/Safety.lean ====
section
/-! DEFINITION. A safe run, and the terms the statements use. A safe run: the module still runs; the spec reports every fault
of a program inside the machine, so a step fails only where the module no longer steps at all (R362). The terms: when an
instruction may issue, and what it leaves of the state before it. -/

namespace Sys2Proof.Machine

/-- The step gives a next state. -/
def Safe (s : State) : Prop := ∃ t, step s = .next t

/-- A number of steps each of which gives a next state. -/
def SafeFor : Nat → State → Prop
  | 0, _ => True
  | k + 1, s => ∃ t, step s = .next t ∧ SafeFor k t

/-! ## Scalar instructions -/

/-- The core whose turn it is. -/
def State.here (s : State) : Core := s.core s.cur

/-- The core whose turn it is issues, none of the register fields is reserved, and no value is still to arrive in a register
or mask that is read (R167, R378). -/
structure State.ready (s : State) (fields reads : List Reg) (masks : List Nat) : Prop where
  issues : s.here.issues = true
  fields : ∀ r ∈ fields, r.toNat < 58
  reads : ∀ r ∈ reads, s.regPending s.cur r.toNat = false
  masks : ∀ m ∈ masks, s.maskPending s.cur m = false

/-- The value register r holds after a list of writes, the first of the list counting; 57 reads zero (R146). -/
def Core.regAfter (c : Core) (ws : List (Nat × Word)) (r : Nat) : Word :=
  if r = 57 then 0#64
  else match ws.find? fun w => decide (w.1 = r) with
    | some w => w.2
    | none => c.reg r

/-- `t` is `s` after the core whose turn it is has written the registers of `ws` and gone on at word `soff`: every other
register, predicate, mask and special register, every flag, the accumulators, the fabric, memory, every other core and the
rest of the machine are as before. Values still to arrive in a register written no longer land there (R167). -/
structure Wrote (s t : State) (ws : List (Nat × Word)) (soff : BitVec 32) : Prop where
  regs : ∀ r, t.here.reg r = s.here.regAfter ws r
  soff : t.here.soff = soff
  core : { t.here with
    regs := s.here.regs, accs := s.here.accs, soff := s.here.soff, entry := s.here.entry } = s.here
  accs : t.here.accs = s.here.accs.map fun a => if ws.any fun w => a.targets w.1 then { a with dst := 57 } else a
  cmds : t.cmds = s.cmds.map fun k => if ws.any fun w => k.takes s.cur w.1 then { k with areg := 57#6 } else k
  others : ∀ m, m ≠ s.cur → t.core m = s.core m
  rest : { t with cores := s.cores, cmds := s.cmds } = s

/-- `t` is `s` after the core whose turn it is has put `b` into predicate p and, as 1 or 0, into ll: p0 discards its value
and reads true (R147), and everything else is as before. -/
structure WrotePred (s t : State) (p : Nat) (b : Bool) : Prop where
  preds : ∀ j < 16, t.here.pred j = if j = 0 then true else if j = p then b else s.here.pred j
  regs : ∀ r, t.here.reg r = s.here.regAfter [(56, if b then 1#64 else 0#64)] r
  soff : t.here.soff = s.here.soff + 1
  core : { t.here with
    regs := s.here.regs, preds := s.here.preds, accs := s.here.accs, soff := s.here.soff, entry := s.here.entry } = s.here
  accs : t.here.accs = s.here.accs.map fun a => if a.targets 56 then { a with dst := 57 } else a
  cmds : t.cmds = s.cmds.map fun k => if k.takes s.cur 56 then { k with areg := 57#6 } else k
  others : ∀ m, m ≠ s.cur → t.core m = s.core m
  rest : { t with cores := s.cores, cmds := s.cmds } = s

/-- The instruction completes, putting v into register d and ll and going on at the next word; nothing else changes (R146). -/
def State.results (s : State) (i : Instr) (d : Nat) (v : Word) : Prop :=
  ∃ t, exec i s = .next t ∧ Wrote s t [(d, v), (56, v)] (s.here.soff + 1)

/-- The instruction completes, putting v into register d only and going on at word `soff`. -/
def State.puts (s : State) (i : Instr) (d : Nat) (v : Word) (soff : BitVec 32) : Prop :=
  ∃ t, exec i s = .next t ∧ Wrote s t [(d, v)] soff

/-- The instruction completes, putting b into predicate p and ll and going on at the next word. -/
def State.decides (s : State) (i : Instr) (p : Nat) (b : Bool) : Prop := ∃ t, exec i s = .next t ∧ WrotePred s t p b

/-- `s` with the core whose turn it is replaced, nothing else changed. -/
def State.withHere (s : State) (c : Core) : State := s.setCore s.cur c

/-- `s` with the core whose turn it is at word `soff`, nothing else changed. -/
def State.gone (s : State) (soff : BitVec 32) : State := s.withHere { s.here with soff := soff, entry := false }

/-! ## Scalar accesses -/

/-- No fence holds an access of the core whose turn it is, and the counters it counts in are not full (R28, R128). -/
structure State.freeToIssue (s : State) (load store : Bool) : Prop where
  all : ∀ a ∈ s.here.accs, a.id ∉ s.here.holdAll
  stores : store = true → ∀ a ∈ s.here.accs, a.id ∉ s.here.holdStore
  loads : load = true → s.here.ldc ≠ 63#6
  writes : store = true → s.here.stc ≠ 63#6

/-- The kind counts in LDC: a load, a PLD, an MLD, or an AMO that returns a value (R28). -/
def AccKind.loads (k : AccKind) (dst : Nat) : Bool :=
  match k with
  | .load _ => true
  | .pld => true
  | .mload => true
  | .amo _ => decide (dst ≠ 57)
  | _ => false

/-- The kind counts in STC: a store, an AMO, a PST, a PCLR, an MST (R28). -/
def AccKind.writes (k : AccKind) : Bool :=
  match k with
  | .load _ => false
  | .pld => false
  | .mload => false
  | _ => true

/-- `s` as a release at a scope finds it: one at CORE scope shows the stores before it that are ready to the core's own agents
(R125). -/
def State.released (s : State) : Option (BitVec 2) → State
  | some scope => s.publish s.cur scope
  | none => s

/-- The access that issues now: a release waits for the accesses before it, but for the stores it has shown at CORE scope;
every access waits for the acquires before it that are not yet performed, and for the PORT.TAKEs not complete (R125, R133). It
is performed in aligned pieces of at most 8 bytes (R123). -/
def Core.fresh (c : Core) (kind : AccKind) (ea : Word) (pas : List Nat) (pol : BitVec 2) (dst : Nat) (val : BitVec 256)
    (cmp : Word) (release : Option (BitVec 2)) (opc : BitVec 8) : Access where
  id := c.nextAcc
  kind := kind
  va := ea.toNat
  pas := pas
  pol := pol
  dst := dst
  val := val
  cmp := cmp
  waits := (c.holdAcc.filter fun i => c.accs.any fun a => decide (a.id = i)) ++ match release with
    | some scope => (c.accs.filter fun a => decide (scope ≠ 0) || !a.shown).map (·.id)
    | none => []
  takes := c.holdTake
  left := piecesFrom ea.toNat pas.length 0 pas.length
  got := 0
  shown := false
  inLdc := kind.loads dst
  inStc := kind.writes
  deferred := false
  refused := false
  soff := c.soff
  opc := opc

/-- An access outstanding before `a` issues whose value `a` overtakes: it no longer lands in that register or mask (R167). -/
def Access.overtaken (a b : Access) : Access :=
  if a.kind = .mload then (if b.kind = .mload ∧ b.dst = a.dst then { b with dst := 0 } else b)
  else if a.kind.loads a.dst ∧ b.targets a.dst then { b with dst := 57 } else b

/-- `t` is `s` after the access `a` of the core whose turn it is has issued: it is outstanding and counted, the core goes on
at the next word, and no register, memory or other part of the machine has changed. -/
structure Issued (s t : State) (a : Access) (acquire : Bool) (release : Option (BitVec 2) := none) : Prop where
  accs : t.here.accs = (s.released release).here.accs.map a.overtaken ++ [a]
  next : t.here.nextAcc = s.here.nextAcc + 1
  hold : t.here.holdAcc = if acquire then s.here.holdAcc ++ [a.id] else s.here.holdAcc
  ldc : t.here.ldc = if a.inLdc then s.here.ldc + 1 else s.here.ldc
  stc : t.here.stc = if a.inStc then s.here.stc + 1 else s.here.stc
  soff : t.here.soff = s.here.soff + 1
  core : { t.here with
    accs := s.here.accs, nextAcc := s.here.nextAcc, holdAcc := s.here.holdAcc, ldc := s.here.ldc, stc := s.here.stc
    soff := s.here.soff, entry := s.here.entry } = s.here
  cmds : t.cmds = s.cmds.map fun k =>
    if a.inLdc ∧ a.kind ≠ .mload ∧ k.takes s.cur a.dst ∧ a.dst ≠ 57 then { k with areg := 57#6 } else k
  others : ∀ m, m ≠ s.cur → t.core m = s.core m
  rest : { t with cores := s.cores, cmds := s.cmds } = s

/-- The instruction completes by issuing the access. -/
def State.sends (s : State) (i : Instr) (a : Access) (acquire : Bool) (release : Option (BitVec 2) := none) : Prop :=
  ∃ t, exec i s = .next t ∧ Issued s t a acquire release

/-! ## The performance of an access -/

/-- The access is outstanding on core n and may be performed now: nothing older and no store that the core has published
touches a word of it, nothing it waits for is outstanding, it has pieces left, no channel of its bytes is being copied, and
the storage of its bytes is reached (R123, R125, R133, R409). -/
structure State.performable (s : State) (n : Nat) (a : Access) : Prop where
  out : (s.core n).accs.find? (fun b => decide (b.id = a.id)) = some a
  older : ∀ b ∈ (s.core n).accs, b.id < a.id ∨ (b ≠ a ∧ b.shown = true) → ∀ p ∈ a.pas, ∀ q ∈ b.pas, p / 8 ≠ q / 8
  waits : ∀ b ∈ (s.core n).accs, b.id ∉ a.waits
  takes : ∀ i ∈ a.takes, s.cmdDone i = true
  placed : a.pas ≠ []
  pieces : a.left ≠ [] ∧ ∀ p ∈ a.left, p.1 + p.2 ≤ a.pas.length
  free : ∀ p ∈ a.pas, s.copying p = false
  reached : ∀ p ∈ a.pas, s.linkFault p = none
  notDeferred : a.deferred = false

/-- No byte of the access lies in a window of core n. -/
def State.unwindowed (s : State) (n : Nat) (a : Access) : Prop := ∀ k < a.pas.length, s.findWindow n (a.va + k) = none

/-- No byte of the access is poisoned. -/
def State.sound (s : State) (a : Access) : Prop := ∀ p ∈ a.pas, s.poisoned p = false

/-- `t` is `s` after the access `a` of core n has been performed: it is outstanding no more, its counters have fallen, what
it held is released, and but for its register (`dst` and its value, when it writes one; in a core stopped at a safe point the
register is then saved, R189) nothing of the cores has changed. -/
structure Performed (s t : State) (n : Nat) (a : Access) (result : Option (Nat × Word)) : Prop where
  accs : (t.core n).accs = (s.core n).accs.filter fun b => decide (b.id ≠ a.id)
  ldc : (t.core n).ldc = if a.inLdc then (s.core n).ldc - 1 else (s.core n).ldc
  stc : (t.core n).stc = if a.inStc then (s.core n).stc - 1 else (s.core n).stc
  holdAcc : (t.core n).holdAcc = (s.core n).holdAcc.filter fun i => decide (i ≠ a.id)
  holdAll : (t.core n).holdAll = (s.core n).holdAll.filter fun i => decide (i ≠ a.id)
  holdStore : (t.core n).holdStore = (s.core n).holdStore.filter fun i => decide (i ≠ a.id)
  regs : ∀ r, (t.core n).reg r = match result with
    | some (d, v) => if r = d ∧ r ≠ 57 then v else (s.core n).reg r
    | none => (s.core n).reg r
  late : (t.core n).late = match result with
    | some (d, _) => if d ≠ 57 ∧ (s.core n).stopMask ≠ none then (s.core n).late ||| BitVec.ofNat 64 (2 ^ d) else (s.core n).late
    | none => (s.core n).late
  core : { t.core n with
    late := (s.core n).late, regs := (s.core n).regs, accs := (s.core n).accs, ldc := (s.core n).ldc, stc := (s.core n).stc
    holdAcc := (s.core n).holdAcc, holdAll := (s.core n).holdAll, holdStore := (s.core n).holdStore
    moved := (s.core n).moved } = s.core n
  others : ∀ m, m ≠ n → t.core m = s.core m

/-- Memory after a store of bytes: each byte's place holds it (the last one where places coincide), and every byte
elsewhere is as before. -/
structure Stored (s t : State) (pas : List Nat) (bs : List Byte) : Prop where
  inside : ∀ k < pas.length, (∀ j < pas.length, k < j → pas[j]? ≠ pas[k]?) →
    some (t.mem.read (pas.getD k 0)) = bs[k]?
  outside : ∀ p, p ∉ pas → t.mem.read p = s.mem.read p

/-- Bytes that an agent of core m has put at an address whose bytes stand at the places `qs`: outside every window they are in
memory, and no other byte of it has changed; in a window whose bank holds them, they are in the bank, and memory is as before. -/
structure PutFor (s t : State) (m va : Nat) (qs : List Nat) (bs : List Byte) : Prop where
  home : (∀ i < qs.length, s.findWindow m (va + i) = none) → Stored s t qs bs
  bank : ∀ w, (∀ i < qs.length, s.findWindow m (va + i) = some w) → t.mem = s.mem ∧ ∀ i < qs.length,
    some (sectorByte (SMap.get {} (t.bank w.1 w.2).sectors ((va + i) / 128)).data ((va + i) % 128)) = bs[i]?

/-- An agent of core m can put bytes there under a policy at once: no byte lies in a window, or under the default policy all lie in
one whose bank holds them; no channel of theirs is being copied, and their storage is reached (R103, R409). -/
def State.takesBytes (s : State) (m : Nat) (pol : BitVec 2) (va : Nat) (qs : List Nat) : Prop :=
  qs.Nodup ∧ (∀ q ∈ qs, s.copying q = false ∧ s.linkFault q = none) ∧
  ((∀ i < qs.length, s.findWindow m (va + i) = none) ∨
    (pol = 0 ∧ ∃ w, ∀ i < qs.length, s.findWindow m (va + i) = some w ∧ (s.bank w.1 w.2).holds (va + i) (qs.getD i 0) = true))

/-- Bytes of memory that can be read now: no channel of theirs is being copied, their storage is reached, and none is poisoned
(R408–R410). -/
def State.readable (s : State) (ps : List Nat) : Prop := ∀ p ∈ ps, s.copying p = false ∧ s.linkFault p = none ∧ s.poisoned p = false

/-- Bytes of memory that can be written now (R409, R410). -/
def State.writable (s : State) (qs : List Nat) : Prop := ∀ q ∈ qs, s.copying q = false ∧ s.linkFault q = none

/-! ## The fabric -/

/-- `s` after one act has made the core of number n into `c`: the act is noted for quiescence, flags are raised, and the
commands whose ports are done complete (R80, R210, R383). -/
def State.acted (s : State) (n : Nat) (c : Core) (f : Flags) : State :=
  ((s.setCore n { c with drained := false, moved := s.gtc }).raise n f).portsDone n

/-- The event acts on the fabric of core n, leaving it as `c`. -/
def State.turns (s : State) (n : Nat) (i : Instr) (c : Core) (f : Flags) : Prop := exec i s = .next (s.acted n c f)

/-- Core n runs a node, and site r of its array holds an element of operation `op` that no fault has paused. -/
structure State.site (s : State) (n r op : Nat) : Prop where
  inside : r < 256
  op : wOp ((s.core n).word r) = op
  runs : (s.core n).run ≠ .idle
  goes : elemPlace r ∉ (s.core n).pausedPorts

/-- Core n runs a node, and router r hosts control operator `op`, not paused. -/
structure State.operator (s : State) (n r op : Nat) : Prop where
  inside : r < 256
  op : rCtl ((s.core n).route r) = op
  runs : (s.core n).run ≠ .idle
  goes : ctlT r ∉ (s.core n).pausedPorts

/-- The element at site r fires on operands a, b and x, leaving the fabric c1, and delivers v. -/
def State.yields (s : State) (n r : Nat) (i : Instr) (op : Nat) (a b x : BitVec 32) (v : BitVec 32) (f : Flags) : Prop :=
  ∀ c1, s.site n r op → (s.core n).firing r = .fires c1 a b x →
    s.turns n i (c1.push (elemPlace r) [⟨0#5, v⟩]) f

/-- The input of an element holds a data token. -/
def Core.holdsData (c : Core) (x : Nat) (d : BitVec 32) : Prop := c.input x = some ⟨0#5, d⟩

/-- The result queue of the element at site r has room. -/
def Core.hasRoom (c : Core) (r : Nat) : Prop := (c.queue (elemPlace r)).length < elemRoom (c.word r)

/-- The rational value of an extended real, 0 for those that have none. -/
def ratOf : XR → ℚ
  | .fin n m e => (if n then -1 else 1) * (m : ℚ) * 2 ^ e
  | _ => 0

/-- `s` after the element at site r of core n has made its access, which changed the machine into `s1`: the inputs taken are
those of `c`, the banks and the outstanding accesses are those of `s1`, and `out` takes the next place of the element's result queue. -/
def State.delivers (s s1 : State) (n r : Nat) (c : Core) (out : Slot) : State :=
  let c1 : Core := { c with banks := (s1.core n).banks, accs := (s1.core n).accs, drained := false, moved := s.gtc }
  let x := elemPlace r
  s1.setCore n (Core.settle x settleFuel (c1.setQueue x (c1.queue x ++ [out])))

/-- The context has no trace area: no record is written, logged or replayed (R414). -/
def State.untraced (s : State) (k : Nat) : Prop := s.traceHdr k = none

/-! ## Stream commands -/

/-- The core whose turn it is may issue the command: no register field is reserved, the form is allowed in the mode it is in,
no fence and no value still to arrive holds it, and no counter or done-tag is full (R25, R28, R128, R167, R378). -/
structure State.accepts (s : State) (opc : Nat) (w : CmdWords) : Prop where
  issues : s.here.issues = true
  fields : badField w opc = false
  mode : s.here.hm = true → opc ≠ 0x00 ∧ opc ≠ 0x02 ∧ ¬(opc = 0x21 ∧ w.var.getLsbD 0 = true)
  fences : ∀ a ∈ s.here.accs, a.id ∉ s.here.holdAll ∧ a.id ∉ s.here.holdStore
  reads : ∀ r ∈ readsOf w opc, s.regPending s.cur r.toNat = false
  masks : s.maskPending s.cur w.mi.toNat = false ∧ (opc = 0x44 → s.maskPending s.cur (w.w3.toNat % 8) = false)
  room : s.issueStalls s.cur opc w = false

/-- Both guards and the bit of the tile mask are true (R26). -/
def Core.enabled (c : Core) (w : CmdWords) : Prop :=
  c.predField w.ga = true ∧ c.predField w.gb = true ∧ (c.mask w.mi.toNat).getLsbD w.tix.toNat = true

/-- The core takes part in the COPY.MC (R216). -/
def Core.partOf (c : Core) (w : CmdWords) : Prop :=
  c.rank < 16 ∧ ((c.reg w.e.toNat).getLsbD c.rank = true ∨ w.w3.toNat / 2 ^ 21 % 16 = c.rank)

/-- Command i is the latest incomplete one of core n whose done-tag is the tag (R24). -/
def State.latestOf (s : State) (n : Nat) (tag : BitVec 6) (i : Nat) : Prop :=
  ∃ before j after, s.cmds = before ++ j :: after ∧ j.id = i ∧ j.owner = .core n ∧ j.tag = some tag ∧
    ∀ x ∈ after, x.owner = .core n → x.tag ≠ some tag

/-- Command i is the latest one that core c has issued to a queue of the command, or for a matrix command to the engine
(R139, R197). -/
def Core.previous (c : Core) (opc : Nat) (w : CmdWords) (i : Nat) : Prop :=
  ∃ q ∈ afterKeys opc w.prio.toNat w.w3, ∃ e, (c.lastOf.find? fun e => decide (e.1 = q)) = some e ∧ e.2 = i

/-- The core after it has gone past a command: an open batch that is not empty closes where the command closes it (R29). -/
def Core.past (c : Core) (close : Prop) [Decidable close] : Core :=
  let c1 := if close ∧ c.openBatch ≠ [] then { c with openBatch := [], batchNo := c.batchNo + 1, btc := c.btc + 1 } else c
  { c1 with soff := c.soff + 4, entry := false }

/-- `t` is `s` after the core whose turn it is has issued command `k`: it stands behind every command before it with the
values its registers held, bound to its tags; it is counted, joins the open batch where its opcode does, and its core goes on
at the next instruction. The accesses of a command follow the scalar accesses outstanding before it, but for PLDs (R132, R197;
log 14). Nothing else changes (R24, R25, R28, R29, R157, R197). -/
structure QueuedCmd (s t : State) (opc : Nat) (w : CmdWords) (k : Cmd) : Prop where
  cmds : t.cmds = (s.cmds.map fun j => if opc = 0x12 ∧ j.takes s.cur w.a.toNat then { j with areg := 57#6 } else j) ++ [k]
  ident : k.id = s.nextCmd ∧ k.owner = .core s.cur ∧ k.ctx = s.here.ctx ∧ k.pc = s.here.pc ∧ k.soff = s.here.soff
  words : k.opc = BitVec.ofNat 8 opc ∧ k.var = w.var ∧ k.mode = w.mode ∧ k.hint = w.hint ∧ k.prio = w.prio.toNat ∧
    k.areg = w.a ∧ k.w3 = w.w3 ∧ k.tag = if w.dv then some w.dt else none
  a : k.a = if opc ≠ 0x12 ∧ (w.used opc).testBit 4 then s.here.reg w.a.toNat else 0
  b : k.b = if (w.used opc).testBit 3 then s.here.reg w.b.toNat else 0
  c : k.c = if (w.used opc).testBit 2 then s.here.reg w.c.toNat else 0
  d : k.d = if (w.used opc).testBit 1 then s.here.reg w.d.toNat else 0
  e : k.e = if (w.used opc).testBit 0 then s.here.reg w.e.toNat else 0
  waits : ∀ i, i ∈ k.waits ↔ (1 ≤ w.nw.toNat ∧ s.latestOf s.cur w.wa i) ∨ (w.nw = 2 ∧ s.latestOf s.cur w.wb i) ∨
    (w.after = true ∧ s.here.previous opc w i ∧ s.cmdDone i = false) ∨ (opc = 0x20 ∧ i ∈ s.here.openBatch)
  accs : k.accs = if opc = 0x03 ∨ opc = 0x04 ∨ opc = 0x12 ∨ opc = 0x20 ∨ opc = 0xA0 then []
    else (s.here.accs.filter fun a => decide (a.kind ≠ .pld)).map (·.id)
  batch : k.batch = if joinsBatch opc then some s.here.batchNo else none
  fresh : k.state = .issued ∧ k.done = 0 ∧ k.arm = none
  mask : k.mask = s.here.mask (if opc = 0x44 then w.w3.toNat % 8 else w.mi.toNat)
  next : t.nextCmd = s.nextCmd + 1
  core : t.here = Core.past { s.here with
    accs := s.here.accs.map fun x => if opc = 0x12 ∧ x.targets w.a.toNat then { x with dst := 57 } else x
    lastOf := (afterKeys opc w.prio.toNat w.w3).foldl (fun m q => SMap.put m q k.id) s.here.lastOf
    cpc := if countsCpc opc then s.here.cpc + 1 else s.here.cpc
    tlc := if countsTlc opc then s.here.tlc + 1 else s.here.tlc
    ldc := if opc = 0x12 then s.here.ldc + 1 else s.here.ldc
    holdTake := if opc = 0x12 then s.here.holdTake ++ [k.id] else s.here.holdTake
    mcIssued := if opc = 0x31 then s.here.mcIssued + 1 else s.here.mcIssued
    cfgBy := if opc = 0x00 ∨ opc = 0x02 then some k.id else s.here.cfgBy
    heldBy := if opc = 0x21 ∧ w.var.getLsbD 0 = true ∧ w.w3.toNat / 2 ^ 28 % 4 ≠ 1 then some k.id else s.here.heldBy
    openBatch := if joinsBatch opc then s.here.openBatch ++ [k.id] else s.here.openBatch }
    (w.close = true ∨ opc = 0x20 ∨ (joinsBatch opc = true ∧ 31 ≤ s.here.openBatch.length) ∨ 32 ≤ s.here.openBatch.length)
  others : ∀ m, m ≠ s.cur → t.core m = s.core m
  rest : { t with cores := s.cores, cmds := s.cmds, nextCmd := s.nextCmd } = s

/-- No two pages of the list that differ share an address. -/
def pagesApart (ps : List Page) : Prop := ∀ p ∈ ps, ∀ q ∈ ps, p = q ∨ p.va + 2 ^ p.bits ≤ q.va ∨ q.va + 2 ^ q.bits ≤ p.va

/-- No outstanding store of core n has been published to the core's own agents (R125). -/
def State.unpublished (s : State) (n : Nat) : Prop := ∀ a ∈ (s.core n).accs, a.shown = false

/-- `t` is `s` after a command has completed that changed the rest of its core's state as `c` says: the command is gone, its
counter has fallen, and the core's hold on it has ended, but that a core asked to stop goes on holding at a HURDLE (R24, R28,
R32, R203, R221). -/
structure Completed (s t : State) (n : Nat) (k : Cmd) (c : Core) : Prop where
  gone : t.cmd? k.id = none
  others : ∀ j, j.id ≠ k.id → j.opc ≠ 0x20#8 → (j ∈ t.cmds ↔ j ∈ s.cmds)
  cpc : (t.core n).cpc = if countsCpc k.opc.toNat ∧ k.arm = none then c.cpc - 1 else c.cpc
  tlc : (t.core n).tlc = if countsTlc k.opc.toNat ∧ k.arm = none then c.tlc - 1 else c.tlc
  heldBy : (t.core n).heldBy = if c.heldBy = some k.id ∧ c.preempt = false then none else c.heldBy
  cfgBy : (t.core n).cfgBy = if c.cfgBy = some k.id then none else c.cfgBy
  core : { t.core n with
    cpc := c.cpc, tlc := c.tlc, ldc := c.ldc, btc := c.btc, heldBy := c.heldBy, cfgBy := c.cfgBy
    holdTake := c.holdTake, served := c.served } = c
  ldc : (t.core n).ldc = if k.opc = 0x12#8 ∧ k.arm = none then c.ldc - 1 else c.ldc
  taken : (t.core n).holdTake = c.holdTake.filter fun i => decide (i ≠ k.id)
  cores : ∀ m, m ≠ n → t.core m = s.core m

/-! ## Command windows -/

/-- The doorbell of a window's standing block submits it: no command is in flight, the number is new in a host window, FLAGS has no
reserved bit, the port accepts the command and, for a host window, the link is up (R352, R359, R410). -/
structure State.rings (s : State) (win : Nat) (seq : BitVec 32) : Prop where
  known : win < 5
  free : s.busy win = false
  new : win < 4 → seq ≠ (s.win win).rseq
  flags : (s.win win).flags.toNat < 4
  port : win = 4 → sideBand (s.win win) = true
  link : win < 4 → s.hostDown = false

/-- `t` is `s` after the firmware has completed the window's command of that number: its STATUS and results stand, RSEQ names
it, and no block and no other window has changed (R352). -/
structure Answered (s t : State) (win : Nat) (seq : BitVec 32) (status : Nat) (res : List Word) : Prop where
  status : (t.win win).status = BitVec.ofNat 16 status
  seqs : (t.win win).rseq = seq ∧ (t.win win).doorbell = seq
  res : ∀ (i : Nat) (v : Word), i < 7 → res[i]? = some v → SMap.get 0#64 (t.win win).res i = v
  block : (t.win win).block = (s.win win).block
  others : ∀ m, m ≠ win → t.win m = s.win m

/-- The commands, scalar accesses and deferred loads of context k that a change of some entries waits for (R140). -/
def State.noUsers (s : State) (k : Nat) (old : List Page) : Prop :=
  let u := s.usersOf k old ⟨0, 0, 0, [], [], [], [], [], []⟩
  u.cmds = [] ∧ u.accs = [] ∧ u.defs = []

/-- Nothing of the machine but its windows and the count of free values. -/
def State.inside (s : State) : State := { s with wins := [], free := 0 }

end Sys2Proof.Machine
end

