-- ==== Sys2Proof/Certificates/Slice0/Obligations.lean ====
section
/-! DEFINITION. The statements for the provers, from the numbered rules of the spec. -/

set_option Elab.async false

open Sys2Proof Sys2Proof.Machine

/-! ## The control core: arithmetic, logic, selection -/

/-- Each ALU form of two registers puts its result into d and ll and changes nothing else (R146, R169, R170). -/
def Obligations.AluResults : Prop :=
  ∀ (s : State) (d a b : Reg), s.ready [d, a, b] [a, b] [] →
    let x := s.here.reg a.toNat
    let y := s.here.reg b.toNat
    let k := d.toNat
    s.results (.add d a b) k (x + y) ∧ s.results (.sub d a b) k (x - y) ∧ s.results (.mul d a b) k (x * y) ∧
    s.results (.mulh d a b) k (BitVec.ofInt 64 (x.toInt * y.toInt / 2 ^ 64)) ∧
    s.results (.mulhu d a b) k (BitVec.ofNat 64 (x.toNat * y.toNat / 2 ^ 64)) ∧
    s.results (.div d a b) k (if y = 0#64 then BitVec.allOnes 64 else BitVec.ofInt 64 (x.toInt.tdiv y.toInt)) ∧
    s.results (.divu d a b) k (if y = 0#64 then BitVec.allOnes 64 else BitVec.ofNat 64 (x.toNat / y.toNat)) ∧
    s.results (.rem d a b) k (if y = 0#64 then x else BitVec.ofInt 64 (x.toInt - y.toInt * x.toInt.tdiv y.toInt)) ∧
    s.results (.remu d a b) k (if y = 0#64 then x else BitVec.ofNat 64 (x.toNat - y.toNat * (x.toNat / y.toNat))) ∧
    s.results (.and d a b) k (x &&& y) ∧ s.results (.or d a b) k (x ||| y) ∧ s.results (.xor d a b) k (x ^^^ y) ∧
    s.results (.andn d a b) k (x &&& ~~~y) ∧ s.results (.shl d a b) k (x <<< (y.toNat % 64)) ∧
    s.results (.shr d a b) k (x >>> (y.toNat % 64)) ∧ s.results (.sar d a b) k (x.sshiftRight (y.toNat % 64)) ∧
    s.results (.min d a b) k (if y.toInt < x.toInt then y else x) ∧ s.results (.max d a b) k (if x.toInt < y.toInt then y else x) ∧
    s.results (.minu d a b) k (if y.toNat < x.toNat then y else x) ∧ s.results (.maxu d a b) k (if x.toNat < y.toNat then y else x) ∧
    s.results (.leaX1 d a b) k (x + y) ∧ s.results (.leaX2 d a b) k (x + y * 2#64) ∧ s.results (.leaX4 d a b) k (x + y * 4#64) ∧
    s.results (.leaX8 d a b) k (x + y * 8#64)

/-- Each form of one register, or of a register and an immediate, puts its result into d and ll and changes nothing else; CLZ and
CTZ count the leading and the trailing zero bits and POPC the one bits, of any width (R146, R150, R169, R171). -/
def Obligations.UnaryResults : Prop :=
  (∀ (s : State) (d a : Reg) (w : BitVec 6) (i : BitVec 14), s.ready [d, a] [a] [] →
     let x := s.here.reg a.toNat
     let k := d.toNat
     s.results (.mov d a) k x ∧ s.results (.clz d a) k (BitVec.ofNat 64 (clzNat 64 x.toNat)) ∧
     s.results (.ctz d a) k (BitVec.ofNat 64 (ctzNat 64 x.toNat)) ∧ s.results (.popc d a) k (BitVec.ofNat 64 (popcNat 64 x.toNat)) ∧
     s.results (.sext d a w) k ((x.truncate (w.toNat + 1)).signExtend 64) ∧
     s.results (.zext d a w) k ((x.truncate (w.toNat + 1)).zeroExtend 64) ∧
     s.results (.addi d a i) k (x + i.signExtend 64) ∧ s.results (.andi d a i) k (x &&& i.zeroExtend 64) ∧
     s.results (.ori d a i) k (x ||| i.zeroExtend 64) ∧ s.results (.xori d a i) k (x ^^^ i.zeroExtend 64) ∧
     s.results (.shli d a w) k (x <<< w.toNat) ∧ s.results (.shri d a w) k (x >>> w.toNat) ∧
     s.results (.sari d a w) k (x.sshiftRight w.toNat)) ∧
  (∀ w x : Nat, x < 2 ^ w →
     clzNat w x ≤ w ∧ x < 2 ^ (w - clzNat w x) ∧ (x ≠ 0 → 2 ^ (w - 1 - clzNat w x) ≤ x ∧ clzNat w x < w) ∧
     ctzNat w x ≤ w ∧ x % 2 ^ ctzNat w x = 0 ∧ (x ≠ 0 → x.testBit (ctzNat w x) = true ∧ ctzNat w x < w) ∧
     popcNat w x = ((List.range w).filter fun i => x.testBit i).length)

/-- The bit-field forms: extraction reads zeros above bit 63, BFI keeps the bits of d outside the field. SEL puts a or b into d and
ll, as the predicate operand with its negate bit says (R147, R172, R175). -/
def Obligations.BitFieldsAndSel : Prop :=
  (∀ (s : State) (d a : Reg) (w pos : BitVec 6), s.ready [d, a] [d, a] [] →
     let x := s.here.reg a.toNat
     let f := (x >>> pos.toNat).truncate (w.toNat + 1)
     s.results (.bfx d a w pos) d.toNat (f.signExtend 64) ∧ s.results (.bfxu d a w pos) d.toNat (f.zeroExtend 64) ∧
     ∃ v, s.results (.bfi d a w pos) d.toNat v ∧
       ∀ i < 64, v.getLsbD i = if pos.toNat ≤ i ∧ i ≤ pos.toNat + w.toNat then x.getLsbD (i - pos.toNat)
         else (s.here.reg d.toNat).getLsbD i) ∧
  (∀ (s : State) (d a b : Reg) (p : PredField), s.ready [d, a, b] [a, b] [] →
     s.results (.sel d a b p) d.toNat
       (if s.here.pred (p.toNat % 16) != p.getLsbD 4 then s.here.reg a.toNat else s.here.reg b.toNat))

/-- LI and LUI put their constants into d and ll; MFS puts the special register into d only; MTS writes EPC 31:0, CAUSE 23:0 without
HM, and FSTAT 13:8 and 5:0. TRACE.S only goes on where its mark is not traced, and writes one MARK record where it is (R146, R155,
R171, R192, R193, R415–R417). That in MODE 2 no mark is written is the model's (log 12). -/
def Obligations.SpecialRegisters : Prop :=
  (∀ (s : State) (d : Reg) (i : BitVec 20), s.ready [d] [] [] →
     let c := s.here
     let mfs := fun (n : BitVec 6) (v : Word) => s.puts (.mfs d n) d.toNat v (c.soff + 1)
     s.results (.li d i) d.toNat (i.signExtend 64) ∧
     s.results (.lui d i) d.toNat (i.signExtend 64 * BitVec.ofNat 64 (2 ^ 14)) ∧
     mfs 0 s.gtc ∧ mfs 1 (BitVec.ofNat 64 s.cur) ∧
     mfs 2 (BitVec.ofNat 64 (c.gangBase % 16 * 256 + c.sizeM1 % 16 * 16 + c.rank % 16)) ∧
     mfs 3 (BitVec.ofNat 64 (c.nodeDie % 4 * 4096 + c.nodeEntry % 4096)) ∧ mfs 4 c.ictr ∧ mfs 5 (c.soff.zeroExtend 64) ∧
     mfs 6 (c.epc.zeroExtend 64) ∧
     mfs 7 (BitVec.ofBool c.hm ++ 0#39 ++ c.cls ++ c.code) ∧ mfs 8 (0#50 ++ c.lflags ++ 0#2 ++ c.flags) ∧
     mfs 9 (BitVec.ofNat 64 (c.ctx % 4)) ∧ mfs 10 c.pc) ∧
  (∀ (s : State) (a : Reg), s.ready [a] [a] [] →
     let v := s.here.reg a.toNat
     let on : Core := { s.here with soff := s.here.soff + 1, entry := false }
     exec (.mts a 6) s = .next (s.withHere { on with epc := v.truncate 32 }) ∧
     exec (.mts a 7) s = .next (s.withHere { on with code := v.truncate 16, cls := (v >>> 16).truncate 8 }) ∧
     exec (.mts a 8) s = .next (s.withHere { on with flags := v.truncate 6, lflags := (v >>> 8).truncate 6 })) ∧
  (∀ (s : State) (v : BitVec 16), s.ready [] [] [] →
     let c := s.here
     ((s.traceOn c.ctx 1 = false ∨ s.traceMode c.ctx = 2) → exec (.traceS v) s = .next (s.gone (c.soff + 1))) ∧
     (∀ (h : TraceHdr) (pas : List Nat), s.traceHdr c.ctx = some h → h.enable.testBit 1 = true → h.mode ≠ 2 →
       (h.mode = 1 → h.head - h.cons < 16383) →
       translateRange (s.pages c.ctx) (h.va + 64 + 64 * (h.head % 16383)) Need.write 64 = .ok pas → pas.Nodup →
       (∀ p ∈ pas, s.linkFault p = none ∧ ¬(h.pa + 8 ≤ p ∧ p < h.pa + 16)) →
       ∃ t, exec (.traceS v) s = .next t ∧
         pas.map t.mem.read = leBytes 8 s.gtc.toNat ++ leBytes 8 s.tkoff.toNat ++ leBytes 4 (s.cur % 256 * 65536) ++ leBytes 2 1 ++
           leBytes 1 (c.ctx % 4) ++ leBytes 1 0 ++ leBytes 8 c.pc.toNat ++ leBytes 4 c.soff.toNat ++ leBytes 4 c.fab.imgId.toNat ++
           leBytes 8 v.toNat ++ leBytes 8 0 ++ leBytes 8 h.head ∧
         t.mem.readNat (h.pa + 8) 8 = (h.head + 1) % 2 ^ 64 ∧
         (∀ p, p ∉ pas → ¬(h.pa + 8 ≤ p ∧ p < h.pa + 16) → t.mem.read p = s.mem.read p) ∧
         { t with mem := s.mem, hostOld := s.hostOld } = s.gone (c.soff + 1)))

/-! ## Predicates and masks -/

/-- Every compare puts its condition into predicate p and, as 1 or 0, into ll (R150, R173). -/
def Obligations.Compares : Prop :=
  ∀ (s : State) (p : PredIdx) (a b : Reg) (i : BitVec 13), s.ready [a, b] [a, b] [] →
    let x := s.here.reg a.toNat
    let y := s.here.reg b.toNat
    let z : Word := i.signExtend 64
    let k := p.toNat
    s.decides (.cmpEq p a b) k (decide (x = y)) ∧ s.decides (.cmpNe p a b) k (decide (x ≠ y)) ∧
    s.decides (.cmpLt p a b) k (decide (x.toInt < y.toInt)) ∧ s.decides (.cmpLe p a b) k (decide (x.toInt ≤ y.toInt)) ∧
    s.decides (.cmpLtu p a b) k (decide (x.toNat < y.toNat)) ∧ s.decides (.cmpLeu p a b) k (decide (x.toNat ≤ y.toNat)) ∧
    s.decides (.cmpiEq p a i) k (decide (x = z)) ∧ s.decides (.cmpiNe p a i) k (decide (x ≠ z)) ∧
    s.decides (.cmpiLt p a i) k (decide (x.toInt < z.toInt)) ∧ s.decides (.cmpiLe p a i) k (decide (x.toInt ≤ z.toInt)) ∧
    s.decides (.cmpiLtu p a i) k (decide (x.toNat < z.toNat)) ∧ s.decides (.cmpiLeu p a i) k (decide (x.toNat ≤ z.toNat))

/-- The predicate operations and MTST: each source with its negate bit, the destination's negate bit complementing what is stored, and
ll taking the value stored. MSET and MCLR write one bit of a mask; m0 discards the write (R147, R174, R194). -/
def Obligations.PredicatesAndMasks : Prop :=
  (∀ (s : State) (d a b : PredField), s.ready [] [] [] →
     let x := s.here.pred (a.toNat % 16) != a.getLsbD 4
     let y := s.here.pred (b.toNat % 16) != b.getLsbD 4
     let k := d.toNat % 16
     let z := d.getLsbD 4
     s.decides (.pand d a b) k ((x && y) != z) ∧ s.decides (.por d a b) k ((x || y) != z) ∧
     s.decides (.pxor d a b) k ((x != y) != z) ∧ s.decides (.pnot d a) k (!x != z) ∧
     ∀ (r : Reg) (p : PredIdx) (m : MaskIdx), s.ready [r] [r] [m.toNat] →
       s.decides (.mtst r p m) p.toNat ((s.here.mask m.toNat).getLsbD ((s.here.reg r.toNat).toNat % 256))) ∧
  (∀ (s : State) (a : Reg) (m : MaskIdx) (v : Bool), s.ready [a] [a] [m.toNat] →
     ∃ t, exec (if v then .mset a m else .mclr a m) s = .next t ∧
       (∀ j, t.here.mask j = if j = 0 ∨ j ≠ m.toNat then s.here.mask j else t.here.mask m.toNat) ∧
       (m ≠ 0#3 → ∀ i < 256, (t.here.mask m.toNat).getLsbD i =
         if i = (s.here.reg a.toNat).toNat % 256 then v else (s.here.mask m.toNat).getLsbD i) ∧
       { t.here with masks := s.here.masks, soff := s.here.soff, entry := s.here.entry } = s.here ∧
       t.here.soff = s.here.soff + 1 ∧ (∀ n, n ≠ s.cur → t.core n = s.core n) ∧ { t with cores := s.cores } = s)

/-! ## Control -/

/-- Branches whose target is in their stream, taken or not. CALL writes g47 only, and only when taken; RET goes to g47, JR to its
register. LOOP decrements its counter, not ll, and branches while it is nonzero; with d = 57 it always branches (R181, R182). A
branch whose target's group cannot be fetched now, for the channel that holds it is being copied or a store to it is half performed,
waits with no effect, taken or not (R145, R409). -/
def Obligations.BranchesAndCalls : Prop :=
  (∀ (s : State) (p : PredIdx) (o : BitVec 21), s.ready [] [] [] →
     let t : Int := s.here.soff.toNat + o.toInt
     s.badTarget s.cur t = false → s.targetWaits s.cur t = false →
     let taken := s.gone (BitVec.ofInt 32 t)
     let fell := s.gone (s.here.soff + 1)
     exec (.bp p o) s = .next (if s.here.pred p.toNat then taken else fell) ∧
     exec (.bnp p o) s = .next (if s.here.pred p.toNat then fell else taken) ∧
     exec (.j o) s = .next taken) ∧
  (∀ (s : State) (neg : BitVec 1) (p : PredIdx) (o : BitVec 21), s.ready [] [] [] →
    let t : Int := s.here.soff.toNat + o.toInt
    s.badTarget s.cur t = false → s.targetWaits s.cur t = false →
    if s.here.pred p.toNat = decide (neg = 0#1) then
      s.puts (.call neg p o) 47 ((s.here.soff + 1).zeroExtend 64) (BitVec.ofInt 32 t)
    else exec (.call neg p o) s = .next (s.gone (s.here.soff + 1))) ∧
  (∀ (s : State) (a : Reg), s.ready [a] [a] [] →
    let x : BitVec 32 := (s.here.reg a.toNat).truncate 32
    s.badTarget s.cur x.toNat = false → s.targetWaits s.cur x.toNat = false → exec (.jr a) s = .next (s.gone x)) ∧
  (∀ s : State, s.ready [] [47#6] [] →
    let x : BitVec 32 := (s.here.reg 47).truncate 32
    s.badTarget s.cur x.toNat = false → s.targetWaits s.cur x.toNat = false → exec .ret s = .next (s.gone x)) ∧
  (∀ (s : State) (d : Reg) (i : BitVec 20), s.ready [d] [d] [] →
     let t : Int := s.here.soff.toNat + i.toInt
     s.badTarget s.cur t = false → s.targetWaits s.cur t = false →
     let n := s.here.reg d.toNat - 1
     s.puts (.loop d i) d.toNat n (if n = 0#64 then s.here.soff + 1 else BitVec.ofInt 32 t)) ∧
  (∀ (s : State) (p : PredIdx) (neg : BitVec 1) (d : Reg) (o : BitVec 21) (i : BitVec 20), s.here.issues = true →
    (s.targetWaits s.cur (s.here.soff.toNat + o.toInt) = true →
      exec (.bp p o) s = .next s ∧ exec (.bnp p o) s = .next s ∧ exec (.j o) s = .next s ∧ exec (.call neg p o) s = .next s) ∧
    (s.targetWaits s.cur (s.here.soff.toNat + i.toInt) = true → exec (.loop d i) s = .next s)) ∧
  (∀ (s : State) (a : Reg),
    (s.ready [a] [a] [] → s.targetWaits s.cur ((s.here.reg a.toNat).truncate 32 : BitVec 32).toNat = true →
      exec (.jr a) s = .next s) ∧
    (s.ready [] [47#6] [] → s.targetWaits s.cur ((s.here.reg 47).truncate 32 : BitVec 32).toNat = true → exec .ret s = .next s)) ∧
  (∀ (s : State) (n : Nat) (t : Int), s.targetWaits n t = true ↔
    0 ≤ t ∧ t < (s.core n).stream.2 ∧ t % 4 ≠ 0 ∧ ∃ e, s.fetchGroup n t.toNat = .error e ∧ e.waits = true)

/-- What a bad target is: outside the stream, or on W1–W3 of a command; BP, BNP, J, CALL and LOOP then take the exception of
class 0x01 subcode 4 whether or not they would branch, JR and RET when they execute (R373). That LOOP finds it before a reserved
register field of its own is the model's (log 9). -/
def Obligations.BadTargets : Prop :=
  (∀ (s : State) (n : Nat) (t : Int), s.badTarget n t = true ↔
    (t < 0 ∨ (s.core n).stream.2 ≤ t ∨ (t % 4 ≠ 0 ∧ ∃ bs, s.fetchGroup n t.toNat = .ok bs ∧ (bs.getD 3 0).toNat / 16 = 15))) ∧
  (∀ (s : State) (p : PredIdx) (neg : BitVec 1) (d : Reg) (o : BitVec 21) (i : BitVec 20), s.here.issues = true →
    (s.badTarget s.cur (s.here.soff.toNat + o.toInt) = true →
      exec (.bp p o) s = .next (s.exception s.cur s.here.soff 1#8 0x0414#16 false 0) ∧
      exec (.bnp p o) s = .next (s.exception s.cur s.here.soff 1#8 0x0414#16 false 0) ∧
      exec (.j o) s = .next (s.exception s.cur s.here.soff 1#8 0x0414#16 false 0) ∧
      exec (.call neg p o) s = .next (s.exception s.cur s.here.soff 1#8 0x0415#16 false 0)) ∧
    (s.badTarget s.cur (s.here.soff.toNat + i.toInt) = true →
      exec (.loop d i) s = .next (s.exception s.cur s.here.soff 1#8 0x0407#16 false 0))) ∧
  (∀ (s : State) (a : Reg), s.ready [a] [a] [] → s.badTarget s.cur ((s.here.reg a.toNat).truncate 32 : BitVec 32).toNat = true →
    exec (.jr a) s = .next (s.exception s.cur s.here.soff 1#8 0x0417#16 false 0)) ∧
  (∀ s : State, s.ready [] [47#6] [] → s.badTarget s.cur ((s.here.reg 47).truncate 32 : BitVec 32).toNat = true →
    exec .ret s = .next (s.exception s.cur s.here.soff 1#8 0x0417#16 false 0))

/-- TRAP enters the handler: EPC names the word after it, CAUSE holds class 0, its code and HM, and SOFF is 0. ERET clears HM and goes
to EPC. Nothing else changes, but that the group the core fetched last, of the other stream, is fetched again (R145, R184, R185). -/
def Obligations.TrapsAndReturns : Prop :=
  (∀ (s : State) (code : BitVec 16), s.ready [] [] [] → s.here.hm = false → s.here.handler ≠ 0#64 →
     exec (.trap code) s = .next (s.withHere { s.here with
       epc := s.here.soff + 1, cls := 0, code := code, hm := true, soff := 0, entry := false, group := none })) ∧
  (∀ s : State, s.ready [] [] [] → s.here.hm = true →
     exec .eret s = .next (s.withHere { s.here with hm := false, soff := s.here.epc, group := none }))

/-- A program-detected fault: outside the handler, with a handler to enter, EPC names the faulting instruction and CAUSE the
fault; in the handler, or with HANDLER 0, or for a use that is always reported, it writes a fatal record of the same class
and code and cancels the node (R364). -/
def Obligations.ProgramFaults : Prop :=
  ∀ (s : State) (n : Nat) (epc : BitVec 32) (cls : BitVec 8) (code : BitVec 16) (always : Bool) (opc : Nat),
    let c := s.core n
    (always = false → c.hm = false → c.handler ≠ 0#64 →
      s.exception n epc cls code always opc = s.setCore n { c with
        epc := epc, cls := cls, code := code, hm := true, soff := 0, entry := false, group := none }) ∧
    (always = true ∨ c.hm = true ∨ c.handler = 0#64 →
      ∃ r : FaultRec, r.fatal = true ∧ r.ctx = c.ctx ∧ r.cause = c.hm.toNat * 2 ^ 63 + cls.toNat * 2 ^ 16 + code.toNat ∧
        r.soff = c.soff.toNat ∧ r.pc = c.pc.toNat ∧
        s.exception n epc cls code always opc = (s.report c.ctx r).cancelCore n 1)

/-- Reserved uses of class 0x02: a register field 58 to 63, ERET outside the handler and TRAP inside it, a special register
above 10 or one MTS cannot write, a SAFE outside the table, an address above 2^56, a misaligned presence access or AMO
(R378). That an address both misaligned and above 2^56 takes code 8 is the model's (log 85). -/
def Obligations.ReservedUses : Prop :=
  ∀ (s : State), s.here.issues = true →
    let bad := fun (i : Instr) (code : BitVec 16) (always : Bool) =>
      exec i s = .next (s.exception s.cur s.here.soff 2#8 code always 0)
    (∀ (d a b : Reg), 58 ≤ d.toNat ∨ 58 ≤ a.toNat ∨ 58 ≤ b.toNat → bad (.add d a b) 1 false) ∧
    (∀ (d a : Reg) (o : BitVec 14), 58 ≤ d.toNat ∨ 58 ≤ a.toNat → bad (.ldD d a o) 1 false ∧ bad (.stD d a o) 1 false) ∧
    (∀ i : BitVec 12, s.here.hm = false → s.here.record.masks.length ≤ i.toNat → bad (.safe i) 2 false) ∧
    (s.here.hm = false → bad .eret 3 true) ∧
    (∀ code, s.here.hm = true → bad (.trap code) 4 true) ∧
    (∀ (d : Reg) (k : BitVec 6), d.toNat < 58 → 11 ≤ k.toNat → bad (.mfs d k) 6 false) ∧
    (∀ (a : Reg) (k : BitVec 6), s.ready [a] [a] [] →
      (11 ≤ k.toNat → bad (.mts a k) 6 false) ∧ (k.toNat ≤ 5 ∨ k.toNat = 9 ∨ k.toNat = 10 → bad (.mts a k) 7 false)) ∧
    (∀ (d a : Reg) (sc : BitVec 2) (o : BitVec 12), s.ready [d, a] [a] [] → s.freeToIssue true false →
      let ea := s.here.reg a.toNat + o.signExtend 64 * 8#64
      (2 ^ 56 ≤ ea.toNat → bad (.pld d a sc o) 8 false) ∧
      (ea.toNat < 2 ^ 56 → ea.toNat % 8 ≠ 0 → bad (.pld d a sc o) 5 false)) ∧
    (∀ (d a b : Reg) (sc o : BitVec 2), s.ready [d, a, b] [a, b] [] → s.freeToIssue true true →
      let ea := s.here.reg a.toNat
      (2 ^ 56 ≤ ea.toNat → bad (.amoAddW d a b sc o) 8 false) ∧
      (ea.toNat < 2 ^ 56 → ea.toNat % 4 ≠ 0 → bad (.amoAddW d a b sc o) 5 false))

/-- NOP has no effect. The fences hold what they order behind the accesses outstanding now: .acq the loads, PLDs and value-returning
AMOs, and everything later; .rel all of them, and later stores; the full fence all of both. A release at CORE scope, which orders for
the core's own agents only, shows them the stores before it that are ready and holds nothing behind those. HALT closes the open batch
and the core issues nothing further; WAIT closes it and goes on once every counter is within its allowance, DRAIN once no earlier
command of its path is incomplete. SAFE stops the core only for a pending pre-emption at an iteration boundary, outside the handler
(R29, R119, R125, R128, R180, R183, R185, R189–R191). Which stores are ready, and that the other scopes hold alike, is the model's
(log 21), and so is the path of a copy that lies only partly in a window (log 69). -/
def Obligations.FencesWaitsAndStops : Prop :=
  (∀ (s : State) (sc : BitVec 2), s.ready [] [] [] →
     let c := s.here
     let on : Core := { c with soff := c.soff + 1, entry := false }
     let seen : Core := if sc = 0 then
       { on with accs := c.accs.map fun a => if s.showable s.cur a then { a with shown := true } else a } else on
     let held := (seen.accs.filter fun a => decide (sc ≠ 0) || !a.shown).map (·.id)
     exec .nop s = .next (s.withHere on) ∧
     exec (.fenceAcq sc) s = .next (s.withHere { on with holdAll := c.holdAll ++ (c.accs.filter (·.inLdc)).map (·.id) }) ∧
     exec (.fenceRel sc) s = .next (s.withHere { seen with holdStore := c.holdStore ++ held }) ∧
     exec (.fenceFull sc) s = .next (s.withHere { seen with holdAll := c.holdAll ++ held })) ∧
  (∀ (s : State) (l st cp t b : BitVec 4), s.ready [] [] [] → s.here.openBatch = [] ∨ s.here.btc ≠ 63#6 →
     let c := s.here
     let shut : Core := if c.openBatch = [] then c else
       { c with openBatch := [], batchNo := c.batchNo + 1, btc := c.btc + 1 }
     exec .halt s = .next (s.withHere { shut with run := .halted, soff := c.soff + 1, entry := false }) ∧
     exec (.wait l st cp t b) s = .next (s.withHere
       (if c.ldc.toNat ≤ l.toNat ∧ c.stc.toNat ≤ st.toNat ∧ c.cpc.toNat ≤ cp.toNat ∧ c.tlc.toNat ≤ t.toNat ∧
           shut.btc.toNat ≤ b.toNat then { shut with soff := c.soff + 1, entry := false } else shut))) ∧
  (∀ (s : State) (p : BitVec 3), s.ready [] [] [] → s.here.openBatch = [] ∨ s.here.btc ≠ 63#6 →
     let c := s.here
     let shut : Core := if c.openBatch = [] then c else
       { c with openBatch := [], batchNo := c.batchNo + 1, btc := c.btc + 1 }
     exec (.drain p) s = .next (s.withHere
       (if ∃ k ∈ s.cmds, k.owner = .core s.cur ∧ p.toNat ∈ s.drainPaths s.cur k then shut else { shut with soff := c.soff + 1, entry := false }))) ∧
  (∀ (s : State) (i : BitVec 12) (m : Word), s.ready [] [] [] → s.here.record.masks[i.toNat]? = some m →
     exec (.safe i) s = .next (s.withHere { s.here with
       soff := s.here.soff + 1, entry := false,
       stopMask := if s.here.hm = false ∧ s.here.preempt = true ∧ s.here.atBoundary = true then some m else none }))

/-! ## Scalar loads, stores, presence operations and AMOs -/

/-- LD and LDS issue a load of their size at a plus the offset in units of that size, under the policy of their opcode; the
register is written when the load is performed (R108, R149, R176, R177). -/
def Obligations.LoadsIssue : Prop :=
  ∀ (s : State) (d a : Reg) (o : BitVec 14), s.ready [d, a] [a] [] → s.freeToIssue true false →
    let sends := fun (i : Instr) (signed : Bool) (n : Nat) (pol : BitVec 2) (opc : BitVec 8) =>
      let ea := s.here.reg a.toNat + o.signExtend 64 * BitVec.ofNat 64 n
      ∀ pas, ea.toNat < 2 ^ 56 → translateRange (s.pages s.here.ctx) ea.toNat Need.read n = .ok pas →
        s.sends i (s.here.fresh (.load signed) ea pas pol d.toNat 0 0 none opc) false
    sends (.ldsB d a o) true 1 0 0x18 ∧ sends (.ldsH d a o) true 2 0 0x19 ∧ sends (.ldsW d a o) true 4 0 0x1A ∧
    sends (.ldsBByp d a o) true 1 1 0x1C ∧ sends (.ldsHByp d a o) true 2 1 0x1D ∧ sends (.ldsWByp d a o) true 4 1 0x1E ∧
    sends (.ldsBStr d a o) true 1 2 0x20 ∧ sends (.ldsHStr d a o) true 2 2 0x21 ∧ sends (.ldsWStr d a o) true 4 2 0x22 ∧
    sends (.ldB d a o) false 1 0 0x24 ∧ sends (.ldH d a o) false 2 0 0x25 ∧ sends (.ldW d a o) false 4 0 0x26 ∧
    sends (.ldD d a o) false 8 0 0x27 ∧ sends (.ldBByp d a o) false 1 1 0x28 ∧ sends (.ldHByp d a o) false 2 1 0x29 ∧
    sends (.ldWByp d a o) false 4 1 0x2A ∧ sends (.ldDByp d a o) false 8 1 0x2B ∧ sends (.ldBStr d a o) false 1 2 0x2C ∧
    sends (.ldHStr d a o) false 2 2 0x2D ∧ sends (.ldWStr d a o) false 4 2 0x2E ∧ sends (.ldDStr d a o) false 8 2 0x2F

/-- ST issues a store of the low bytes of its d field's register; MEMX loads and stores address a plus b, scaled by the size
where C is 0 (R149, R152, R176, R177). -/
def Obligations.StoresAndIndexedIssue : Prop :=
  (∀ (s : State) (v a : Reg) (o : BitVec 14), s.ready [v, a] [v, a] [] → s.freeToIssue false true →
    let sends := fun (i : Instr) (n : Nat) (pol : BitVec 2) (opc : BitVec 8) =>
      let ea := s.here.reg a.toNat + o.signExtend 64 * BitVec.ofNat 64 n
      ∀ pas, ea.toNat < 2 ^ 56 → translateRange (s.pages s.here.ctx) ea.toNat Need.write n = .ok pas →
        s.sends i (s.here.fresh .store ea pas pol 57 ((s.here.reg v.toNat).zeroExtend 256) 0 none opc) false
    sends (.stB v a o) 1 0 0x30 ∧ sends (.stH v a o) 2 0 0x31 ∧ sends (.stW v a o) 4 0 0x32 ∧ sends (.stD v a o) 8 0 0x33 ∧
    sends (.stBByp v a o) 1 1 0x34 ∧ sends (.stHByp v a o) 2 1 0x35 ∧ sends (.stWByp v a o) 4 1 0x36 ∧
    sends (.stDByp v a o) 8 1 0x37 ∧ sends (.stBStr v a o) 1 2 0x38 ∧ sends (.stHStr v a o) 2 2 0x39 ∧
    sends (.stWStr v a o) 4 2 0x3A ∧ sends (.stDStr v a o) 8 2 0x3B) ∧
  (∀ (s : State) (d a b : Reg) (sz pol : BitVec 2) (c : BitVec 1) (pas : List Nat),
    let n := 2 ^ sz.toNat
    let ea := s.here.reg a.toNat + s.here.reg b.toNat * BitVec.ofNat 64 (if c = 0#1 then n else 1)
    ea.toNat < 2 ^ 56 →
    (s.ready [d, a, b] [a, b] [] → s.freeToIssue true false →
      translateRange (s.pages s.here.ctx) ea.toNat Need.read n = .ok pas →
      s.sends (.memxLd d a b sz pol c) (s.here.fresh (.load false) ea pas pol d.toNat 0 0 none 2) false ∧
      s.sends (.memxLds d a b sz pol c) (s.here.fresh (.load true) ea pas pol d.toNat 0 0 none 2) false) ∧
    (s.ready [d, a, b] [d, a, b] [] → s.freeToIssue false true →
      translateRange (s.pages s.here.ctx) ea.toNat Need.write n = .ok pas →
      s.sends (.memxSt d a b sz pol c)
        (s.here.fresh .store ea pas pol 57 ((s.here.reg d.toNat).zeroExtend 256) 0 none 2) false))

/-- PLD, PST and PCLR address a plus the offset in words, aligned to 8; PLD acquires, PST and PCLR release; MLD and MST move
the 32 bytes of a mask at an address aligned to 32 (R125, R178, R194). What a release at CORE scope shows and does not wait for, and
that the other scopes act alike, is the model's (log 21). -/
def Obligations.PresenceAndMasksIssue : Prop :=
  (∀ (s : State) (d a : Reg) (sc : BitVec 2) (o : BitVec 12) (pas : List Nat),
    let ea := s.here.reg a.toNat + o.signExtend 64 * 8#64
    ea.toNat < 2 ^ 56 → ea.toNat % 8 = 0 →
    (s.ready [d, a] [a] [] → s.freeToIssue true false →
      translateRange (s.pages s.here.ctx) ea.toNat Need.pread 8 = .ok pas →
      s.sends (.pld d a sc o) (s.here.fresh .pld ea pas 1 d.toNat 0 0 none 0x11) true) ∧
    (s.ready [d, a] [d, a] [] → s.freeToIssue false true →
      translateRange (s.pages s.here.ctx) ea.toNat Need.pwrite 8 = .ok pas →
      s.sends (.pst d a sc o) ((s.released (some sc)).here.fresh .pst ea pas 1 57 ((s.here.reg d.toNat).zeroExtend 256) 0
        (some sc) 0x12) false (some sc)) ∧
    (s.ready [a] [a] [] → s.freeToIssue false true →
      translateRange (s.pages s.here.ctx) ea.toNat Need.pwrite 8 = .ok pas →
      s.sends (.pclr a sc o) ((s.released (some sc)).here.fresh .pclr ea pas 1 57 0 0 (some sc) 0x13) false (some sc))) ∧
  (∀ (s : State) (a : Reg) (m : MaskIdx) (pas : List Nat),
    let ea := s.here.reg a.toNat
    ea.toNat < 2 ^ 56 → ea.toNat % 32 = 0 →
    (s.ready [a] [a] [] → s.freeToIssue true false → translateRange (s.pages s.here.ctx) ea.toNat Need.read 32 = .ok pas →
      s.sends (.mld a m) (s.here.fresh .mload ea pas 0 m.toNat 0 0 none 0x17) false) ∧
    (s.ready [a] [a] [m.toNat] → s.freeToIssue false true →
      translateRange (s.pages s.here.ctx) ea.toNat Need.write 32 = .ok pas →
      s.sends (.mst a m) (s.here.fresh .mstore ea pas 0 0 (s.here.mask m.toNat) 0 none 0x17) false))

/-- Every AMO issues with the operand of b, and CAS, which reads d too, with the value of d to compare; order bit 0 acquires
and bit 1 releases (R125, R129, R153, R179). What a release at CORE scope shows and does not wait for, and that the other scopes act
alike, is the model's (log 21). -/
def Obligations.AmosIssue : Prop :=
  ∀ (s : State) (d a b : Reg) (sc o : BitVec 2), s.ready [d, a, b] [a, b] [] → s.freeToIssue (d ≠ 57#6) true →
    let ea := s.here.reg a.toNat
    ea.toNat < 2 ^ 56 →
    let sends := fun (i : Instr) (op : BitVec 4) (n : Nat) (opc : BitVec 8) =>
      ∀ pas, ea.toNat % n = 0 → translateRange (s.pages s.here.ctx) ea.toNat Need.rw n = .ok pas →
        let release := if o.getLsbD 1 then some sc else none
        s.sends i ((s.released release).here.fresh (.amo op) ea pas 1 d.toNat ((s.here.reg b.toNat).zeroExtend 256)
          (s.here.reg d.toNat) release opc) (o.getLsbD 0) release
    sends (.amoAddW d a b sc o) 0 4 4 ∧ sends (.amoMinW d a b sc o) 1 4 4 ∧ sends (.amoMaxW d a b sc o) 2 4 4 ∧
    sends (.amoMinuW d a b sc o) 3 4 4 ∧ sends (.amoMaxuW d a b sc o) 4 4 4 ∧ sends (.amoAndW d a b sc o) 5 4 4 ∧
    sends (.amoOrW d a b sc o) 6 4 4 ∧ sends (.amoXorW d a b sc o) 7 4 4 ∧ sends (.amoSwapW d a b sc o) 8 4 4 ∧
    sends (.amoAddD d a b sc o) 0 8 5 ∧ sends (.amoMinD d a b sc o) 1 8 5 ∧ sends (.amoMaxD d a b sc o) 2 8 5 ∧
    sends (.amoMinuD d a b sc o) 3 8 5 ∧ sends (.amoMaxuD d a b sc o) 4 8 5 ∧ sends (.amoAndD d a b sc o) 5 8 5 ∧
    sends (.amoOrD d a b sc o) 6 8 5 ∧ sends (.amoXorD d a b sc o) 7 8 5 ∧ sends (.amoSwapD d a b sc o) 8 8 5 ∧
    (s.regPending s.cur d.toNat = false → sends (.amoCasW d a b sc o) 9 4 4 ∧ sends (.amoCasD d a b sc o) 9 8 5)

/-- A load is performed, an aligned piece of at most 8 bytes at a time and the pieces in no defined order: outside the windows the bytes
of a piece are memory's, and after the last one the value, extended as the load says, is in its register or mask. Nothing else
changes (R123, R124, R177, R194). -/
def Obligations.LoadIsPerformed : Prop :=
  ∀ (s : State) (n : Nat) (a : Access), s.performable n a → a.refused = false → s.unwindowed n a → s.sound a → a.shown = false →
    a.kind = .load true ∨ a.kind = .load false ∨ a.kind = .mload →
    ∃ p ∈ a.left,
      let got := a.got ||| BitVec.ofNat 256 (leNat (((a.pas.drop p.1).take p.2).map s.mem.read) * 2 ^ (8 * p.1))
      let rest := a.left.filter fun x => decide (x ≠ p)
      ∃ t, exec (.scalarAccessComplete n a.id) s = .next t ∧ { t with cores := s.cores, free := s.free } = s ∧
        (rest ≠ [] → (∀ m, m ≠ n → t.core m = s.core m) ∧ t.core n = { s.core n with
          accs := (s.core n).accs.map fun b => if b.id = a.id then { a with left := rest, got := got } else b }) ∧
        (rest = [] → ∀ signed, a.kind = .load signed →
          Performed s t n a (some (a.dst, if signed then (BitVec.ofNat (8 * a.pas.length) got.toNat).signExtend 64
            else BitVec.ofNat 64 got.toNat))) ∧
        (rest = [] → a.kind = .mload → (∀ m, (t.core n).mask m = if m = a.dst ∧ m ≠ 0 then got else (s.core n).mask m) ∧
          Performed s (t.updCore n fun c => { c with masks := (s.core n).masks }) n a none)

/-- A store is performed, an aligned piece of at most 8 bytes at a time and the pieces in no defined order: outside the windows the
bytes of the piece stand at their addresses and no other byte of memory has changed; poison and presence are as before (R103, R106,
R123, R124, R194). -/
def Obligations.StoreIsPerformed : Prop :=
  ∀ (s : State) (n : Nat) (a : Access), s.performable n a → a.refused = false → s.unwindowed n a →
    a.kind = .store ∨ a.kind = .mstore → a.pas.length < 128 →
    ∃ p ∈ a.left,
      let rest := a.left.filter fun x => decide (x ≠ p)
      ∃ t, exec (.scalarAccessComplete n a.id) s = .next t ∧
        Stored s t ((a.pas.drop p.1).take p.2) (((leBytes a.pas.length a.val.toNat).drop p.1).take p.2) ∧
        { t with cores := s.cores, mem := s.mem, hostOld := s.hostOld, free := s.free } = s ∧
        (rest ≠ [] → (∀ m, m ≠ n → t.core m = s.core m) ∧ t.core n = { s.core n with
          accs := (s.core n).accs.map fun b => if b.id = a.id then { a with left := rest } else b }) ∧
        (rest = [] → Performed s t n a none)

/-- An AMO outside record and replay: the old value goes to its register, the new one, if there is one, to its bytes, and no other
byte changes. The new values, by op code: ADD, MIN, MAX, MINU, MAXU, AND, OR, XOR, SWAP, and CAS, which writes only where the old
value is the one compared (R129, R179). -/
def Obligations.AmoIsPerformed : Prop :=
  (∀ (s : State) (n : Nat) (a : Access) (op : BitVec 4) (pa : Nat), s.performable n a → a.refused = false → s.sound a →
     s.traceMode (s.core n).ctx = 0 → a.kind = .amo op → a.pas = (List.range a.pas.length).map (pa + ·) →
     a.left = [(0, a.pas.length)] →
     a.pas.length = 4 ∨ a.pas.length = 8 →
     let w := a.pas.length
     let old := leNat (a.pas.map s.mem.read)
     ∃ t, exec (.scalarAccessComplete n a.id) s = .next t ∧ Performed s t n a (some (a.dst, BitVec.ofNat 64 old)) ∧
       (∀ v, amoNew op.toNat (8 * w) old (a.val.toNat % 2 ^ (8 * w)) (a.cmp.toNat % 2 ^ (8 * w)) = some v →
         t.mem.readNat pa w = v ∧ ∀ p, p ∉ a.pas → t.mem.read p = s.mem.read p) ∧
       (amoNew op.toNat (8 * w) old (a.val.toNat % 2 ^ (8 * w)) (a.cmp.toNat % 2 ^ (8 * w)) = none → t.mem = s.mem) ∧
       { t with cores := s.cores, mem := s.mem, hostOld := s.hostOld } = s) ∧
  (∀ (w : Nat) (x y z : BitVec w), w = 32 ∨ w = 64 →
     let new := fun op => amoNew op w x.toNat y.toNat z.toNat
     new 0 = some (x + y).toNat ∧ new 1 = some (if y.toInt < x.toInt then y else x).toNat ∧
     new 2 = some (if x.toInt < y.toInt then y else x).toNat ∧ new 3 = some (min x.toNat y.toNat) ∧
     new 4 = some (max x.toNat y.toNat) ∧ new 5 = some (x &&& y).toNat ∧ new 6 = some (x ||| y).toNat ∧
     new 7 = some (x ^^^ y).toNat ∧ new 8 = some y.toNat ∧ new 9 = if x = z then some y.toNat else none)

/-- PLD of a full word takes its data; of an empty one it is deferred, while the slice's table has room, and refused otherwise; a
refused one is issued again in the same way. PST fills an empty word, for every PLD deferred on it too; PCLR empties a word. A second
write of a full word is the fatal fault of class 0x07 subcode 1, and writes nothing. A deferred PLD whose word was filled takes the
filling value, and its deferral is gone (R35, R112–R114, R117). -/
def Obligations.PresenceIsPerformed : Prop :=
  (∀ (s : State) (n : Nat) (a : Access) (pa : Nat), s.performable n a → a.pas = (List.range 8).map (pa + ·) → pa % 8 = 0 →
     a.left = [(0, 8)] → (∀ e ∈ (s.core n).again, e.2.1 ≠ a.id) →
     let go := if a.refused then exec (.pldReissue n a.id) s else exec (.scalarAccessComplete n a.id) s
     (a.kind = .pld → s.sound a → s.isFull pa = true →
       ∃ t, go = .next t ∧ Performed s t n a (some (a.dst, BitVec.ofNat 64 (s.mem.readNat pa 8))) ∧ { t with cores := s.cores } = s) ∧
     (a.kind = .pld → s.sound a → s.isFull pa = false → s.deferCount (homeSlice pa) < 4096 →
       ∃ t, go = .next t ∧ t.deferrals = s.deferrals ++ [⟨s.nextDeferral, pa / 8, .pld n a.id, none⟩] ∧
         (t.core n).accs = (s.core n).accs.map (fun b => if b.id = a.id then { a with deferred := true, refused := false } else b) ∧
         t.mem = s.mem ∧ t.full = s.full) ∧
     (a.kind = .pld → s.sound a → s.isFull pa = false → 4096 ≤ s.deferCount (homeSlice pa) →
       ∃ t, go = .next t ∧ t.deferrals = s.deferrals ∧ t.mem = s.mem ∧ t.full = s.full ∧
         (t.core n).accs = (s.core n).accs.map fun b => if b.id = a.id then { a with refused := true } else b) ∧
     (a.kind = .pst → a.refused = false → s.isFull pa = false →
       ∃ t, go = .next t ∧ Performed s t n a none ∧ Stored s t a.pas (leBytes 8 a.val.toNat) ∧
         (∀ p, t.isFull p = if p / 8 = pa / 8 then true else s.isFull p) ∧
         t.deferrals = s.deferrals.map (fun d =>
           if d.word = pa / 8 ∧ d.filled = none then { d with filled := some (a.val.truncate 64) } else d)) ∧
     (a.kind = .pclr → a.refused = false →
       ∃ t, go = .next t ∧ Performed s t n a none ∧ t.mem = s.mem ∧ t.deferrals = s.deferrals ∧
         ∀ p, t.isFull p = if p / 8 = pa / 8 then false else s.isFull p)) ∧
  (∀ (s : State) (va pa : Nat) (v : Word), s.isFull pa = true → s.fillWord va pa v = .error ⟨7, 1, true, va⟩) ∧
  (∀ (s : State) (d : Deferral) (n : Nat) (a : Access) (v : Word),
     s.deferrals.find? (fun e => decide (e.id = d.id)) = some d → d.filled = some v → d.who = .pld n a.id →
     (s.core n).accs.find? (fun b => decide (b.id = a.id)) = some a →
     ∃ t, exec (.pldDeferredComplete d.id) s = .next t ∧ Performed s t n a (some (a.dst, v)) ∧
       t.deferrals = s.deferrals.filter (fun e => decide (e.id ≠ d.id)) ∧
       { t with cores := s.cores, deferrals := s.deferrals } = s)

/-- A window of a core's cache: a default access works on the bank's copy of the sector, filled from its home first; a store makes it
dirty and reaches no memory; a copy of a frame that the address no longer maps to is written back before. A .byp or .str access works
at the home, and a store brings a copy the window holds up to date (R103, R104, R109, R140). That a load of an agent of a core, of
every policy, reads what the core has published and not yet performed is the model's (log 21). -/
def Obligations.WindowBytes : Prop :=
  ∀ (s : State) (n k b va pa : Nat) (v : Byte), s.findWindow n va = some (k, b) →
    let sectors := (s.bank k b).sectors
    let held := fun (t : State) => SMap.get {} (t.bank k b).sectors (va / 128)
    let home := (List.range 128).map (pa / 128 * 128 + ·)
    let elsewhere := fun (t : State) => t.mem = s.mem ∧ t.poison = s.poison ∧ t.full = s.full ∧
      (∀ y, y ≠ va / 128 → SMap.get {} (t.bank k b).sectors y = SMap.get {} (s.bank k b).sectors y) ∧
      ∀ m c, (m, c) ≠ (k, b) → t.bank m c = s.bank m c
    let apart := ∀ a ∈ (s.core n).accs, a.shown = true → ∀ q ∈ a.pas, q / 8 ≠ pa / 8
    let fresh := fun (m : Memory) (u : State) => (held u).home = pa / 128 ∧ (held u).dirty = false ∧ (held u).poisoned = false ∧
      ∀ i < 128, sectorByte (held u).data i = m.read (pa / 128 * 128 + i)
    (∀ u, (∀ e ∈ sectors, e.1 = va / 128 → e.2.home = pa / 128) → s.fill k b va pa = .ok u → (held u).poisoned = false →
      elsewhere u ∧ s.loadByte (some n) 0 va pa = .ok (u, (s.shownByte n pa).getD (sectorByte (held u).data (va % 128))) ∧
      (apart → ∃ t, s.storeByte (some n) 0 va pa v false false = .ok t ∧ elsewhere t ∧ (held t).dirty = true ∧
        ∀ i < 128, sectorByte (held t).data i = if i = va % 128 then v else sectorByte (held u).data i)) ∧
    ((s.bank k b).holds va pa = true → s.fill k b va pa = .ok s) ∧
    ((∀ p ∈ home, s.copying p = false ∧ s.linkFault p = none ∧ s.poisoned p = false) →
      ((∀ e ∈ sectors, e.1 ≠ va / 128) → ∃ u, s.fill k b va pa = .ok u ∧ fresh s.mem u) ∧
      (∀ x, (s.bank k b).holds va pa = false → sectors.find? (fun e => decide (e.1 = va / 128)) = some (va / 128, x) →
        x.dirty = true → x.poisoned = false → (∀ e ∈ sectors, e.1 = va / 128 → s.copying (128 * e.2.home) = false) →
        ∃ u, s.fill k b va pa = .ok u ∧ u.mem = s.mem.writeBytes (128 * x.home) (leBytes 128 x.data.toNat) ∧ fresh u.mem u)) ∧
    (∀ pol : BitVec 2, pol ≠ 0 → s.copying pa = false → s.linkFault pa = none →
      (∀ w, s.shownByte n pa = some w → s.loadByte (some n) pol va pa = .ok (s, w)) ∧
      (apart →
        (s.poisoned pa = false → s.loadByte (some n) pol va pa = .ok (s, s.mem.read pa)) ∧
        ∃ t, s.storeByte (some n) pol va pa v false false = .ok t ∧ t.mem = s.mem.write pa v ∧
          ((s.bank k b).holds va pa = true → (held t).dirty = (held s).dirty ∧ sectorByte (held t).data (va % 128) = v)))

/-! ## The fabric: elements -/

/-- An element with room whose every operand input holds a data token, none of them in a segment, takes one from each and
fires on their data, the immediate standing for b where IMMB is set (R42, R48); with a predicate it takes that token too,
and on zero it computes nothing (R50). -/
def Obligations.ElementTakesOperands : Prop :=
  ∀ (c : Core) (r : Nat) (t : Nat → BitVec 32) (p : BitVec 32),
    let w := c.word r
    let ins := (operands w).map (inPlace r)
    let operand := fun k => if k ∈ operands w then t k else if k = 1 ∧ wImmb w = true then
      BitVec.ofNat 32 (wImm w % 2 ^ fmtWidth (wFmt w)) else 0#32
    r < 256 → c.hasRoom r → (∀ k ∈ operands w, c.holdsData (inPlace r k) (t k) ∧ c.segs (inPlace r k) = [0, 0, 0, 0]) →
    (wPmode w = 0 → ∃ c1, c.firing r = .fires c1 (operand 0) (operand 1) (operand 2) ∧
      ∀ y < 4096, c1.queue y = if y ∈ ins then (c.queue y).drop 1 else c.queue y) ∧
    (wPmode w ≠ 0 → c.holdsData (inPlace r 3) p →
      let taken := inPlace r 3 :: ins
      (p ≠ 0#32 → ∃ c1, c.firing r = .fires c1 (operand 0) (operand 1) (operand 2) ∧
        ∀ y < 4096, c1.queue y = if y ∈ taken then (c.queue y).drop 1 else c.queue y) ∧
      (p = 0#32 → ∃ c1, c.firing r = .skipped c1 (operand 0) ∧
        ∀ y < 4096, c1.queue y = if y ∈ taken then (c.queue y).drop 1 else c.queue y))

/-- The integer operations on a format of w bits: modular, of its signedness, with shifts by the low six bits of b, each
result extended to the token as its format says, and no flag raised (R42, R232, R233). -/
def Obligations.IntegerElements : Prop :=
  ∀ (s : State) (n r w : Nat) (signed : Bool) (a b x : BitVec 32),
    IntFmt.ofCode (wFmt ((s.core n).word r)) = some (w, signed) →
    let A : BitVec w := a.truncate w
    let B : BitVec w := b.truncate w
    let X : BitVec w := x.truncate w
    let k := b.toNat % 64
    let less := fun (u v : BitVec w) => if signed then decide (u.toInt < v.toInt) else decide (u.toNat < v.toNat)
    let out := fun (i : Instr) (op : Nat) (v : BitVec w) =>
      s.yields n r i op a b x (if signed then v.signExtend 32 else v.zeroExtend 32) 0#6
    let bit := fun (i : Instr) (op : Nat) (v : Bool) => s.yields n r i op a b x (if v then 1#32 else 0#32) 0#6
    out (.elemAdd n r) 0x01 (A + B) ∧ out (.elemSub n r) 0x02 (A - B) ∧ out (.elemMul n r) 0x03 (A * B) ∧
    out (.elemMac n r) 0x04 (A * B + X) ∧ out (.elemMin n r) 0x05 (if less B A then B else A) ∧
    out (.elemMax n r) 0x06 (if less A B then B else A) ∧ out (.elemAbs n r) 0x07 (if signed ∧ A.toInt < 0 then -A else A) ∧
    out (.elemNeg n r) 0x08 (-A) ∧ out (.elemAnd n r) 0x09 (A &&& B) ∧ out (.elemOr n r) 0x0A (A ||| B) ∧
    out (.elemXor n r) 0x0B (A ^^^ B) ∧ out (.elemNot n r) 0x0C (~~~A) ∧ out (.elemShl n r) 0x0D (A <<< k) ∧
    out (.elemShr n r) 0x0E (A >>> k) ∧ out (.elemSar n r) 0x0F (A.sshiftRight k) ∧
    bit (.elemCmpEq n r) 0x10 (decide (A = B)) ∧ bit (.elemCmpNe n r) 0x11 (decide (A ≠ B)) ∧
    bit (.elemCmpLt n r) 0x12 (less A B) ∧ bit (.elemCmpLe n r) 0x13 (!less B A) ∧
    bit (.elemCmpLtu n r) 0x14 (decide (A.toNat < B.toNat)) ∧ bit (.elemCmpLeu n r) 0x15 (decide (A.toNat ≤ B.toNat)) ∧
    out (.elemSel n r) 0x16 (if x = 0#32 then A else B) ∧ out (.emux n r) 0x60 (if x = 0#32 then A else B) ∧
    out (.elemClz n r) 0x1C (BitVec.ofNat w (clzNat w A.toNat)) ∧ out (.elemPopc n r) 0x1D (BitVec.ofNat w (popcNat w A.toNat)) ∧
    bit (.eand n r) 0x61 (decide (a ≠ 0#32 ∧ b ≠ 0#32)) ∧ bit (.eor n r) 0x62 (decide (a ≠ 0#32 ∨ b ≠ 0#32))

/-- SATADD and SATSUB clamp the exact result to the format and raise SAT when they clamp; DOT4 and DOT2 add the products of
packed lanes to c, modulo 2^32 or clamped with SATO (R91, R233). -/
def Obligations.SaturatingElements : Prop :=
  ∀ (s : State) (n r w : Nat) (signed : Bool) (a b x : BitVec 32),
    IntFmt.ofCode (wFmt ((s.core n).word r)) = some (w, signed) →
    let val := fun (u : BitVec 32) => if signed then (u.truncate w : BitVec w).toInt else ((u.truncate w : BitVec w).toNat : Int)
    let lo : Int := if signed then -2 ^ (w - 1) else 0
    let hi : Int := if signed then 2 ^ (w - 1) - 1 else 2 ^ w - 1
    let clamp := fun (lo hi v : Int) => if v < lo then lo else if hi < v then hi else v
    let sat := fun (i : Instr) (op : Nat) (v : Int) =>
      let u := BitVec.ofInt w (clamp lo hi v)
      s.yields n r i op a b x (if signed then u.signExtend 32 else u.zeroExtend 32) (if lo ≤ v ∧ v ≤ hi then 0#6 else 32#6)
    let part := fun (g k : Nat) (u : BitVec 32) =>
      let f : BitVec g := (u >>> (g * k)).truncate g
      if signed then f.toInt else (f.toNat : Int)
    let dot := fun (i : Instr) (op lanes g : Nat) =>
      let v := x.toInt + ((List.range lanes).map fun k => part g k a * part g k b).sum
      s.yields n r i op a b x (BitVec.ofInt 32 (if wSat ((s.core n).word r) then clamp (-2 ^ 31) (2 ^ 31 - 1) v else v))
        (if wSat ((s.core n).word r) = false ∨ (-2 ^ 31 ≤ v ∧ v ≤ 2 ^ 31 - 1) then 0#6 else 32#6)
    sat (.elemSatadd n r) 0x1A (val a + val b) ∧ sat (.elemSatsub n r) 0x1B (val a - val b) ∧
    dot (.elemDot4 n r) 0x18 4 8 ∧ dot (.elemDot2 n r) 0x19 2 16

/-- The floating operations: the operands decoded in the format, the result rounded once in the element's mode, the flags
those of the operation and of the rounding; NaN in gives NaN, FMIN and FMAX order −0 below +0, and no comparison with NaN
holds but unequal (R74–R77, R234). -/
def Obligations.FloatElements : Prop :=
  ∀ (s : State) (n r : Nat) (m : FloatFmt) (a b x : BitVec 32),
    let word := (s.core n).word r
    wFmt word ∈ [7, 8, 9] → FloatFmt.ofCode (wFmt word) = some m →
    let rm := wRm word
    let dec := fun (u : BitVec 32) => m.decode (u.toNat % 2 ^ fmtWidth (wFmt word))
    let A := dec a
    let B := dec b
    let X := dec x
    let out := fun (i : Instr) (op : Nat) (v : XR) (f : Flags) =>
      s.yields n r i op a b x (BitVec.ofNat 32 (m.round v rm).1) (f ||| (m.round v rm).2)
    let bit := fun (i : Instr) (op : Nat) (v : Bool) => s.yields n r i op a b x (if v then 1#32 else 0#32) 0#6
    let nan := A.isNaN || B.isNaN
    let fma := fun (i : Instr) (op : Nat) =>
      let v := XR.add (XR.mul A B).1 X rm
      out i op v.1 ((XR.mul A B).2 ||| v.2)
    out (.fadd n r) 0x20 (XR.add A B rm).1 (XR.add A B rm).2 ∧
    out (.fsub n r) 0x21 (XR.add A B.negate rm).1 (XR.add A B.negate rm).2 ∧
    out (.fmul n r) 0x22 (XR.mul A B).1 (XR.mul A B).2 ∧ fma (.fma n r) 0x23 ∧ fma (.elemMac n r) 0x04 ∧
    out (.fmin n r) 0x24 (if nan then .nan else if XR.rank A B = .gt then B else A) 0#6 ∧
    out (.fmax n r) 0x25 (if nan then .nan else if XR.rank A B = .lt then B else A) 0#6 ∧
    out (.fabs n r) 0x26 A.abs 0#6 ∧ out (.fneg n r) 0x27 A.negate 0#6 ∧
    bit (.fcmpEq n r) 0x30 (!nan && decide (XR.cmp A B = .eq)) ∧ bit (.fcmpNe n r) 0x31 (nan || decide (XR.cmp A B ≠ .eq)) ∧
    bit (.fcmpLt n r) 0x32 (!nan && decide (XR.cmp A B = .lt)) ∧ bit (.fcmpLe n r) 0x33 (!nan && decide (XR.cmp A B ≠ .gt))

/-- FRCP, FRSQ, FEXP2 and FLOG2: their special values and flags, and elsewhere the result rounded once (R77, R234). Results are the
model's fixed-point ones rounded once (log 6). -/
def Obligations.FloatFunctions : Prop :=
  ∀ (s : State) (n r : Nat) (m : FloatFmt) (a b x : BitVec 32),
    let word := (s.core n).word r
    wFmt word ∈ [7, 8, 9] → FloatFmt.ofCode (wFmt word) = some m →
    let A := m.decode (a.toNat % 2 ^ fmtWidth (wFmt word))
    let out := fun (i : Instr) (op : Nat) (v : XR) (f : Flags) =>
      s.yields n r i op a b x (BitVec.ofNat 32 (m.round v (wRm word)).1) (f ||| (m.round v (wRm word)).2)
    (A = .nan → out (.frcp n r) 0x28 .nan 0 ∧ out (.frsq n r) 0x29 .nan 0 ∧ out (.fexp2 n r) 0x2A .nan 0 ∧
      out (.flog2 n r) 0x2B .nan 0) ∧
    (∀ g, A = .inf g → out (.frcp n r) 0x28 (.fin g 0 0) 0 ∧
      (if g then out (.frsq n r) 0x29 .nan Flags.inv else out (.frsq n r) 0x29 (.fin false 0 0) 0) ∧
      out (.fexp2 n r) 0x2A (if g then .fin false 0 0 else .inf false) 0 ∧
      (if g then out (.flog2 n r) 0x2B .nan Flags.inv else out (.flog2 n r) 0x2B (.inf false) 0)) ∧
    (∀ g e, A = .fin g 0 e → out (.frcp n r) 0x28 (.inf g) Flags.dz ∧ out (.frsq n r) 0x29 (.inf g) 0 ∧
      out (.fexp2 n r) 0x2A (.fin false 1 0) 0 ∧ out (.flog2 n r) 0x2B (.inf true) Flags.dz) ∧
    (∀ g k e, A = .fin g k e → k ≠ 0 → out (.frcp n r) 0x28 (recipFin g k e) 0 ∧
      (if g then out (.frsq n r) 0x29 .nan Flags.inv else out (.frsq n r) 0x29 (rsqrtFin k e) 0) ∧
      out (.fexp2 n r) 0x2A (exp2Fin g k e) 0 ∧
      (if g then out (.flog2 n r) 0x2B .nan Flags.inv else out (.flog2 n r) 0x2B (log2Fin k e) 0))

/-- Floating arithmetic: sums and products of finite values are exact, a zero sum is −0 only for two −0s or under RD, a product's sign
is the exclusive-or. Rounding to a multiple of 2^q is exact when the value is one, else it gives the neighbour the mode says. Every
value of a format rounds to its own encoding with no flag, in every mode; a NaN gives the format's canonical NaN (R72, R74–R77). -/
def Obligations.RealArithmetic : Prop :=
  (∀ (g h : Bool) (m k : Nat) (d e : Int) (rm : RMode),
     let a := XR.fin g m d
     let b := XR.fin h k e
     ratOf (XR.add a b rm).1 = ratOf a + ratOf b ∧ ratOf (XR.mul a b).1 = ratOf a * ratOf b ∧
     (XR.add a b rm).2 = 0#6 ∧ (XR.mul a b).2 = 0#6 ∧ (XR.mul a b).1.neg? = (g != h) ∧
     (ratOf a + ratOf b = 0 → (XR.add a b rm).1.neg? = ((decide (m = 0) && g && decide (k = 0) && h) || decide (rm = .rd)))) ∧
  (∀ (neg : Bool) (m : Nat) (e q : Int) (rm : RMode),
     let n := (roundAt neg m e q rm).1
     let v : ℚ := (m : ℚ) * 2 ^ (e - q)
     ((roundAt neg m e q rm).2 = true ↔ (n : ℚ) ≠ v) ∧
     (∀ z : Nat, (z : ℚ) = v → n = z) ∧
     ((rm = .rz ∨ (rm = .ru ∧ neg = true) ∨ (rm = .rd ∧ neg = false)) → (n : ℚ) ≤ v ∧ v < n + 1) ∧
     (((rm = .ru ∧ neg = false) ∨ (rm = .rd ∧ neg = true)) → v ≤ n ∧ (n : ℚ) < v + 1) ∧
     (rm = .rne → 2 * |(n : ℚ) - v| ≤ 1 ∧ (2 * |(n : ℚ) - v| = 1 → n % 2 = 0))) ∧
  (∀ (m : FloatFmt) (rm : RMode) (x : Nat), m ∈ [.fp32, .fp16, .bf16, .e4m3, .e5m2, .e2m1] → x < 2 ^ (1 + m.eb + m.mb) →
     if (m.decode x).isNaN then m.canon = some (m.round (m.decode x) rm).1 else m.round (m.decode x) rm = (x, 0#6))

/-- CVT between formats, and DQN of an element code and its scale (R81, R83, R84, R235, R237). -/
def Obligations.Conversions : Prop :=
  ∀ (s : State) (n r : Nat) (a b x : BitVec 32),
    let word := (s.core n).word r
    let src := wImm word % 16
    let dst := wFmt word
    let rm := wRm word
    let enc := a.toNat % 2 ^ fmtWidth src
    let cvt := s.yields n r (.cvt n r) 0x40 a b x
    let ext := fun (w : Nat) (signed : Bool) (v : Int) =>
      let u := BitVec.ofInt w v
      if signed then u.signExtend 32 else u.zeroExtend 32
    let val := fun (w : Nat) (signed : Bool) => if signed then (BitVec.ofNat w enc).toInt else (enc : Int)
    (∀ m k, FloatFmt.ofCode dst = some m → FloatFmt.ofCode src = some k →
      if src = dst then cvt (BitVec.ofNat 32 (if (k.decode enc).isNaN then m.canon.getD 0 else enc)) 0
      else cvt (BitVec.ofNat 32 (m.round (k.decode enc) rm).1) (m.round (k.decode enc) rm).2) ∧
    (∀ m w sg, FloatFmt.ofCode dst = some m → IntFmt.ofCode src = some (w, sg) →
      let v := XR.ofInt (val w sg)
      cvt (BitVec.ofNat 32 (m.round v rm).1) (m.round v rm).2) ∧
    (∀ k w sg, IntFmt.ofCode dst = some (w, sg) → FloatFmt.ofCode src = some k →
      let lo : Int := if sg then -2 ^ (w - 1) else 0
      let hi : Int := if sg then 2 ^ (w - 1) - 1 else 2 ^ w - 1
      (k.decode enc = .nan → cvt (ext w sg 0) Flags.inv) ∧
      (∀ g, k.decode enc = .inf g → cvt (ext w sg (if g then lo else hi)) (Flags.inv ||| Flags.sat)) ∧
      (∀ g q e, k.decode enc = .fin g q e →
        let z := roundIntFin g q e rm
        let exact := ratOf (k.decode enc)
        (z < lo → cvt (ext w sg lo) (Flags.inv ||| Flags.sat)) ∧ (hi < z → cvt (ext w sg hi) (Flags.inv ||| Flags.sat)) ∧
        (lo ≤ z → z ≤ hi → cvt (ext w sg z)
          (if (z : ℚ) = exact then 0 else if (lo : ℚ) ≤ exact ∧ exact ≤ hi then Flags.inx else Flags.inv)))) ∧
    (∀ w sg w' sg', IntFmt.ofCode dst = some (w, sg) → IntFmt.ofCode src = some (w', sg') →
      let v := val w' sg'
      let lo : Int := if sg then -2 ^ (w - 1) else 0
      let hi : Int := if sg then 2 ^ (w - 1) - 1 else 2 ^ w - 1
      if wSat word = true ∧ ¬(lo ≤ v ∧ v ≤ hi) then cvt (ext w sg (if v < lo then lo else hi)) Flags.sat
      else cvt (ext w sg v) 0) ∧
    (let sc := a.toNat / 256 % 256
     let dqn := fun (v : XR) => s.yields n r (.dqn n r) 0x42 a b x (BitVec.ofNat 32 (FloatFmt.fp32.round v rm).1)
       (FloatFmt.fp32.round v rm).2
     (dst ≠ 0xD → (sc = 255 → s.yields n r (.dqn n r) 0x42 a b x 0x7FC00000#32 0) ∧
       (∀ g k e, sc ≠ 255 → decodeFmt a.toNat dst = .fin g k e → dqn (.fin g k (e + ((sc : Int) - 127)))) ∧
       (sc ≠ 255 → decodeFmt a.toNat dst = .nan → dqn .nan) ∧ (∀ g, sc ≠ 255 → decodeFmt a.toNat dst = .inf g → dqn (.inf g))) ∧
     (dst = 0xD → (sc = 0 → s.yields n r (.dqn n r) 0x42 a b x 0#32 0) ∧
       (∀ g k e h q f, sc ≠ 0 → qc4Value a.toNat = .fin g k e → FloatFmt.fp32.decode (wImm word) = .fin h q f →
         dqn (.fin (g != h) (k * sc * q) (e - 8 + f))) ∧
       (sc ≠ 0 → FloatFmt.fp32.decode (wImm word) = .nan → dqn .nan) ∧
       (∀ g k e h, sc ≠ 0 → qc4Value a.toNat = .fin g k e → FloatFmt.fp32.decode (wImm word) = .inf h → dqn (.inf (g != h)))))

/-- A member joins a reduction that does not close with it; a control token at or above its level closes it: the result is delivered,
then a marker of the rank that remains. Of integer members it is the sum modulo 2^w, the greatest or the least member, the position of
the first extreme one, the number of members or of nonzero ones (R238). -/
def Obligations.Reductions : Prop :=
  (∀ (s : State) (n r : Nat) (d : BitVec 32) (k : Nat),
     let c := s.core n
     let w := c.word r
     let x := inPlace r 0
     let l := wImm w % 8
     let e : ElemState := { (if (c.est r).busy then c.est r else redInit w) with taken := (c.est r).taken + 1 }
     let seen := (c.pop x).setSegs x (segData (c.segs x)).1
     c.hasRoom r → ∀ q ∈ ([(.rsum n r, 0x50), (.rmax n r, 0x51), (.rmin n r, 0x52), (.rarg n r, 0x53), (.rcnt n r, 0x54)] :
         List (Instr × Nat)),
       s.site n r q.2 →
         (c.holdsData x d → wSegi w = true ∨ l ∉ (segData (c.segs x)).2 →
           s.turns n q.1 (seen.setEst r (redMember w e d).1) (redMember w e d).2) ∧
         (c.holdsData x d → wSegi w = false → l ∈ (segData (c.segs x)).2 →
           s.turns n q.1 ((seen.setEst r {}).push (elemPlace r) [⟨0#5, redResult w (redMember w e d).1⟩]) (redMember w e d).2) ∧
         (c.input x = some (Token.marker k) → k < 8 → l ≤ k →
           s.turns n q.1 (((c.pop x).setEst r {}).push (elemPlace r)
             (⟨0#5, redResult w e⟩ :: if l < k then [Token.marker (k - l - 1)] else [])) 0#6)) ∧
  (∀ (word w : Nat) (signed : Bool) (xs : List (BitVec 32)), IntFmt.ofCode (wFmt word) = some (w, signed) →
     let val := fun (u : BitVec 32) => if signed then (u.truncate w : BitVec w).toInt else ((u.truncate w : BitVec w).toNat : Int)
     let out := redResult word (xs.foldl (fun e x => (redMember word e x).1) (redInit word))
     (wOp word = 0x50 → (out.truncate w : BitVec w) = (xs.map fun u => (u.truncate w : BitVec w)).sum) ∧
     (wOp word = 0x51 → xs ≠ [] → (∀ u ∈ xs, val u ≤ val out) ∧ ∃ u ∈ xs, val u = val out) ∧
     (wOp word = 0x52 → xs ≠ [] → (∀ u ∈ xs, val out ≤ val u) ∧ ∃ u ∈ xs, val u = val out) ∧
     (wOp word = 0x53 → xs ≠ [] → xs.length < 2 ^ 32 → ∃ u, xs[out.toNat]? = some u ∧
       (∀ (j : Nat) (v : BitVec 32), xs[j]? = some v → if word.testBit 3 then val u ≤ val v else val v ≤ val u) ∧
       ∀ j < out.toNat, ∀ v : BitVec 32, xs[j]? = some v → val v ≠ val u) ∧
     (wOp word = 0x53 → xs = [] → out = 0xFFFFFFFF#32) ∧
     (wOp word = 0x54 → out = BitVec.ofNat 32 (xs.filter fun u => word.testBit 3 || decide (u ≠ 0#32)).length))

/-- QNT gathers members; the block's last, the last of a segment, or a control token closes the block, and each member leaves as its
code with the block's scale code above it. A NaN or an infinity among the members gives INV and, in an MX format, the scale code
255; a block of zeros is zeros; otherwise the MX scale is the power of two that brings the greatest magnitude to the format's
greatest exponent, and a QC4 code is the codebook level nearest the member, the lower code among equals (R83, R84, R236). Codes of a
QC4 block whose S is not positive and finite are free (log 24). -/
def Obligations.QntBlocks : Prop :=
  (∀ (s : State) (n r : Nat) (d : BitVec 32) (t : Token),
     let c := s.core n
     let w := c.word r
     let x := inPlace r 0
     let e := c.est r
     let joined : ElemState := { e with buf := e.buf ++ [Token.ofData d], n := e.n + 1 }
     let seen := (c.pop x).setSegs x (segData (c.segs x)).1
     let closes := (wSegi w = false ∧ 0 ∈ (segData (c.segs x)).2) ∨ qntSize w ≤ e.n + 1
     let block := fun (ts : List Token) => qntBlock w s.free (ts.map fun t => FloatFmt.fp32.decode t.data.toNat)
     let coded := fun (c : Core) (ts : List Token) =>
       (c.setEst r { e with buf := [], n := 0 }).push (elemPlace r)
         ((block ts).2.1.map fun k => Token.ofData (BitVec.ofNat 32 ((block ts).1 * 256 + k)))
     let counted := fun (t : State) => (Host.Outcome.next { t with free := t.free + 1 } : Host.Outcome State Fault Refusal)
     s.site n r 0x41 → c.hasRoom r → wPmode w = 0 → (∀ t ∈ e.buf, t.isData = true) →
     (c.holdsData x d → ¬closes → exec (.qnt n r) s = counted (s.acted n (seen.setEst r joined) 0#6)) ∧
     (c.holdsData x d → closes → exec (.qnt n r) s = counted (s.acted n (coded seen joined.buf) (block joined.buf).2.2)) ∧
     (c.input x = some t → t.isData = false → e.buf ≠ [] →
       exec (.qnt n r) s = counted (s.acted n (coded c e.buf) (block e.buf).2.2))) ∧
  (∀ (w free : Nat) (vs : List XR), wFmt w = 0xA ∨ wFmt w = 0xB ∨ wFmt w = 0xC ∨ wFmt w = 0xD →
     let o := qntBlock w free vs
     let emax : Int := if wFmt w = 0xA then 8 else if wFmt w = 0xB then 15 else 2
     ((∃ v ∈ vs, v.isNaN = true ∨ v.isInf = true) → o = (if wFmt w = 0xD then 0 else 255, vs.map fun _ => 0, Flags.inv)) ∧
     ((∀ v ∈ vs, v.isNaN = false ∧ v.isInf = false) → (∀ v ∈ vs, ratOf v = 0) → o = (0, vs.map fun _ => 0, 0#6)) ∧
     (wFmt w ≠ 0xD → (∀ v ∈ vs, v.isNaN = false ∧ v.isInf = false) → (∃ v ∈ vs, ratOf v ≠ 0) →
       ∃ j : Int, (∀ v ∈ vs, |ratOf v| < 2 ^ (j + 1)) ∧ (∃ v ∈ vs, 2 ^ j ≤ |ratOf v|) ∧
         o.1 = (max (j - emax) (-127) + 127).toNat ∧
         ∀ i : Nat, o.2.1[i]? = (vs[i]?).map fun v =>
           (roundClamp (floatFmt (wFmt w)) (scaleX v (-(max (j - emax) (-127)))) (wRm w)).1) ∧
     (∀ sm se, wFmt w = 0xD → (∀ v ∈ vs, v.isNaN = false ∧ v.isInf = false) → (∃ v ∈ vs, ratOf v ≠ 0) →
       FloatFmt.fp32.decode (wImm w) = .fin false sm se → sm ≠ 0 →
       let far := fun (v : XR) (i : Nat) => |ratOf v * 2 ^ 8 - ratOf (qc4Value i) * o.1 * (sm * 2 ^ se)|
       1 ≤ o.1 ∧ o.1 ≤ 255 ∧ o.2.1.length = vs.length ∧
       ∀ (i k : Nat) (v : XR), vs[i]? = some v → o.2.1[i]? = some k →
         k < 16 ∧ ∀ j < 16, far v k ≤ far v j ∧ (far v k = far v j → k ≤ j)))

/-- SEGN buffers a level-0 segment, keeping the members whose predicate is nonzero, and sends it under its new length; SMARK puts
marks about segments of a length it is given; SCONV drops length prefixes for markers, buffers segments for their prefixes, or
passes tokens on (R245–R247). The top level of a compatible stream is a free constant (log 23), and data outside a segment at SEGN
is the model's reading (log 25). -/
def Obligations.SegmentElements : Prop :=
  ∀ (s : State) (n r : Nat) (d : BitVec 32) (k : Nat),
    let c := s.core n
    let w := c.word r
    let xa := inPlace r 0
    let xb := inPlace r 1
    let e := c.est r
    let goOn := fun (c : Core) (e : ElemState) =>
      if e.n = 0 then (c.setEst r {}).push (elemPlace r) (Token.prefixOf 0 e.buf.length :: e.buf) else c.setEst r e
    let member := fun (c : Core) (e : ElemState) (d : BitVec 32) =>
      (c.setEst r { e with busy := decide (1 < e.n), n := e.n - 1 }).push (elemPlace r)
        (⟨0#5, d⟩ :: if e.n ≤ 1 ∧ wSego w = true then [Token.marker 0] else [])
    let opened := fun (c : Core) (k : Nat) =>
      let c1 := c.setEst r { busy := decide (k ≠ 0), n := k }
      if wSego w = false then c1.push (elemPlace r) [Token.prefixOf 0 k]
      else if k = 0 then c1.push (elemPlace r) [Token.marker 0] else c1
    c.hasRoom r →
    (s.site n r 0x80 → wSegi w = false →
      (c.input xb = some (Token.prefixOf 0 k) → c.input xa = some (Token.prefixOf 0 k) → k < 2 ^ 32 → e.busy = false →
        s.turns n (.segn n r) (goOn ((c.pop xb).pop xa) { busy := true, n := k, taken := 1 }) 0#6) ∧
      (c.holdsData xb 0 → e.busy = true → s.turns n (.segn n r) (goOn (c.pop xb) { e with n := e.n - 1, taken := e.taken + 1 }) 0#6) ∧
      (∀ p, p ≠ 0#32 → c.holdsData xb p → c.holdsData xa d → e.busy = true → e.buf.length < 4096 →
        s.turns n (.segn n r) (goOn ((c.pop xb).pop xa) { e with n := e.n - 1, taken := e.taken + 1, buf := e.buf ++ [⟨0#5, d⟩] }) 0#6)) ∧
    (s.site n r 0x81 →
      (e.busy = true → c.holdsData xa d → (wImmb w = false → c.input xb = none) →
        s.turns n (.smark n r) (member (c.pop xa) e d) 0#6) ∧
      (e.busy = false → wImmb w = false → c.input xa = none → c.holdsData xb d →
        s.turns n (.smark n r) (opened (c.pop xb) d.toNat) 0#6) ∧
      (e.busy = false → wImmb w = true → c.holdsData xa d →
        let len := wImm w % 65536
        s.turns n (.smark n r) (if len = 0 then opened c 0
          else member ((opened c len).pop xa) ((opened c len).est r) d) 0#6)) ∧
    (s.site n r 0x82 →
      (∀ t, wSegi w = wSego w → c.input xa = some t → s.turns n (.sconv n r) ((c.pop xa).push (elemPlace r) [t]) 0#6) ∧
      (wSegi w = false → wSego w = true → c.holdsData xa d →
        let sg := segData (c.segs xa)
        s.turns n (.sconv n r) (((c.pop xa).setSegs xa sg.1).push (elemPlace r)
          (⟨0#5, d⟩ :: match sg.2.getLast? with | some l => [Token.marker l] | none => [])) 0#6) ∧
      (∀ l, wSegi w = false → wSego w = true → c.input xa = some (Token.prefixOf l k) → l < 4 → k < 2 ^ 32 →
        let sg := segPrefix (c.segs xa) l k
        s.turns n (.sconv n r) (((c.pop xa).setSegs xa sg.1).push (elemPlace r)
          (match sg.2.getLast? with | some l => [Token.marker l] | none => [])) 0#6) ∧
      (wSegi w = true → wSego w = false → c.holdsData xa d → e.buf.length < 4096 →
        s.turns n (.sconv n r) ((c.pop xa).setEst r { e with buf := e.buf ++ [⟨0#5, d⟩] }) 0#6))

/-- The Pacer: an iteration is admitted when a baton is at hand, none are withheld and every LPIN holds its data token; all
pass in the one step. LPOUT passes tokens and counts the data; when every LPOUT has passed an iteration's token ICTR rises
and its baton starts back; a returning baton is at hand again (R51, R52, R63, R248). -/
def Obligations.PacerSteps : Prop :=
  ∀ (s : State) (n r : Nat) (t : Token),
    let c := s.core n
    let x := inPlace r 0
    let passed := fun (c : Core) (t : Token) => ((c.pop x).segSee x t).push (elemPlace r) [t]
    let ins := c.sitesOf 0x90
    let outs := c.sitesOf 0x91
    let entered := ins.foldl Core.lpPass c
    let admitted := s.acted n { entered with pacer := { entered.pacer with
      flight := entered.pacer.flight + 1, admitted := entered.pacer.admitted + 1 } } 0#6
    let open_ := c.pacer.flight < c.pacer.k ∧ c.pacer.whold = false ∧ ins ≠ [] ∧ s.batonJoined n c.pacer.admitted = false ∧
      (∀ j ∈ ins, c.hasRoom j ∧ ∃ d, c.holdsData (inPlace j 0) d) ∧ elemPlace (ins.headD 0) ∉ c.pausedPorts
    (c.run ≠ .idle → open_ → exec (.pacerAdmit n) s = .next admitted) ∧
    (s.site n r 0x90 → c.hasRoom r → c.input x = some t →
      (t.isData = false → s.turns n (.lpin n r) (passed c t) 0#6) ∧
      (t.isData = true → open_ → exec (.lpin n r) s = .next admitted)) ∧
    (s.site n r 0x91 → c.hasRoom r → c.input x = some t →
      let i := wImm (c.word r) % 8
      let counted : Core := { c with pacer := { c.pacer with
        passed := SMap.put c.pacer.passed i (SMap.get 0 c.pacer.passed i + 1) } }
      s.turns n (.lpout n r) (passed (if t.isData then counted else c) t) 0#6) ∧
    (c.run ≠ .idle → outs ≠ [] → c.pacer.completed < c.pacer.admitted →
      (∀ j ∈ outs, c.pacer.completed < SMap.get 0 c.pacer.passed (wImm (c.word j) % 8)) →
      exec (.iterationComplete n) s = .next (s.setCore n { c with
        ictr := c.ictr + 1
        pacer := { c.pacer with completed := c.pacer.completed + 1, returning := c.pacer.returning + 1 } })) ∧
    (c.run ≠ .idle → c.pacer.returning ≠ 0 →
      exec (.batonReturn n) s = .next (s.setCore n { c with
        pacer := { c.pacer with returning := c.pacer.returning - 1, flight := c.pacer.flight - 1 } }))

/-- The memory-port elements: LDA reads the element at its index, or at the port's pattern under AUTO; STA writes one and delivers the
index; AMOA delivers the old value; PLDA delivers a full word's low half or waits for the word; PSTA fills a word. Element i of size k
stands at the base plus k·i, lowest byte first, sign- or zero-extended as the binding says; a write changes those bytes only (R207,
R209, R242–R244). That PLDA and PSTA drop the low three address bits is the model's (log 29), and so is which published stores are
performed before: those to the word, and before a release wider than CORE all of the core's (log 21). -/
def Obligations.MemoryElements : Prop :=
  (∀ (s s1 : State) (n r : Nat) (c1 : Core) (a b x v : BitVec 32),
     let c := s.core n
     let w := c.word r
     let p := wImm w % 16
     let port := c.port p
     let auto := wAuto w
     let i : Int := if auto then port.off else a.toInt
     let c2 := if auto then c1.stepAuto p else c1
     let va := wrapVa (port.desc.base.toNat + 8 * a.toInt) / 8 * 8
     let wide := wImm w / 2 ^ 9 % 4 ≠ 0
     let seen := fun (release : Bool) => if release then s.settleAll n else s
     (auto = true → port.ended = false) → (∀ e ∈ c.again, e.1 ≠ r) → c.firing r = .fires c1 a b x →
     (s.site n r 0x70 → s.readElem n port i = .ok (s1, v) →
       exec (.lda n r) s = .next (s.delivers s1 n r c2 (.tok ⟨0#5, v⟩))) ∧
     (s.site n r 0x71 → s.writeElem n port i (if auto then a else b) = .ok s1 →
       exec (.sta n r) s = .next (s.delivers s1 n r c2 (.tok ⟨0#5, BitVec.ofInt 32 i⟩))) ∧
     (∀ pa pas old, s.site n r 0x72 → s.untraced c.ctx →
       let release := wide ∧ 2 ≤ wImm w / 2 ^ 11 % 4
       (release → s.shownWaits n = false) →
       translateRange (s.pages c.ctx) (wrapVa (port.desc.base.toNat + 4 * a.toInt)) Need.rw 4 = .ok (pa :: pas) →
       ((seen release).settleShown n pa).homeAmo (wrapVa (port.desc.base.toNat + 4 * a.toInt)) pa 4 (wImm w / 32 % 16) b.toNat x.toNat = .ok (s1, old) →
       exec (.amoa n r) s = .next (s.delivers s1 n r c1 (.tok ⟨0#5, BitVec.ofNat 32 old⟩))) ∧
     (∀ pa bs, s.site n r 0x73 → translate (s.pages c.ctx) va Need.pread = .ok pa →
       (s.settleShown n pa).homeReads va ((List.range 8).map (pa + ·)) = .ok bs →
       (s.isFull pa = true → exec (.plda n r) s = .next (s.delivers s n r c1 (.tok ⟨0#5, BitVec.ofNat 32 (leNat bs)⟩))) ∧
       (s.isFull pa = false → s.deferCount (homeSlice pa) < 4096 →
         exec (.plda n r) s = .next (State.delivers s { s with
           deferrals := s.deferrals ++ [⟨s.nextDeferral, pa / 8, .plda n r va, none⟩]
           nextDeferral := s.nextDeferral + 1 } n r c1 (.wait s.nextDeferral)))) ∧
     (∀ pa, s.site n r 0x74 → translate (s.pages c.ctx) va Need.pwrite = .ok pa →
       (wide → s.shownWaits n = false) → ((seen wide).settleShown n pa).fillWord va pa (b.zeroExtend 64) = .ok s1 →
       exec (.psta n r) s = .next (s.delivers s1 n r c1 (.tok ⟨0#5, a⟩)))) ∧
  (∀ (s : State) (n : Nat) (x : Port) (i : Int) (v : BitVec 32) (pas : List Nat),
     let k := eszBytes x.esz
     let va := ((x.desc.base.toNat : Int) + i * k) % 2 ^ 64 |>.toNat
     k ≠ 0 → (∀ j < k, s.findWindow n (va + j) = none) → (∀ p ∈ pas, s.copying p = false ∧ s.linkFault p = none ∧ s.poisoned p = false) →
     (∀ a ∈ (s.core n).accs, a.shown = true → ∀ q ∈ a.pas, ∀ p ∈ pas, q / 8 ≠ p / 8) →
     (translateRange (s.pages (s.core n).ctx) va Need.read k = .ok pas →
       let u := leNat (pas.map s.mem.read)
       s.readElem n x i = .ok (s, if x.sx then (BitVec.ofNat (8 * k) u).signExtend 32 else BitVec.ofNat 32 u)) ∧
     (translateRange (s.pages (s.core n).ctx) va Need.write k = .ok pas →
       ∃ t, s.writeElem n x i v = .ok t ∧ Stored s t pas (leBytes k v.toNat) ∧
         { t with mem := s.mem, hostOld := s.hostOld } = s))

/-! ## The fabric: control operators, islands, anti-tokens, ports -/

/-- The control operators: STEER sends data by the predicate and control tokens to both sides; MERGE takes from a side that holds
data, each in turn where both do, and matching control tokens together; CARRY sends the initial value, then the loop's; INVAR
repeats a value for each token of its companion; DROP discards data (R45, R239). That MERGE alternates and that INVAR takes its
companion's token are the model's reading (log 30). -/
def Obligations.ControlOperators : Prop :=
  ∀ (s : State) (n r : Nat) (p d : BitVec 32) (u : Token),
    let c := s.core n
    let w := c.route r
    let ia := inPlace r 4
    let ib := inPlace r 5
    let e := c.est (1024 + r)
    let T := ctlT r
    let F := ctlF r
    let free := fun x => c.queue x = []
    (s.operator n r 1 →
      (c.holdsData ia p → c.holdsData ib d → free (if p = 0#32 then F else T) →
        s.turns n (.steer n r) (((c.pop ia).pop ib).push (if p = 0#32 then F else T) [⟨0#5, d⟩]) 0#6) ∧
      (u.isData = false → c.input ia = some u → c.input ib = some u → free T → free F →
        s.turns n (.steer n r) ((((c.pop ia).pop ib).push T [u]).push F [u]) 0#6)) ∧
    (s.operator n r 2 → s.untraced c.ctx → free T →
      let takes := fun (j : Nat) => s.turns n (.merge n r)
        (((c.pop (inPlace r (4 + j))).setEst (1024 + r) { e with k := 1 - j }).push T [⟨0#5, d⟩]) 0#6
      (c.holdsData ia d → (∀ t, c.input ib = some t → t.isData = false) → takes 0) ∧
      (c.holdsData ib d → (∀ t, c.input ia = some t → t.isData = false) → takes 1) ∧
      (c.holdsData ia d → (∃ q, c.holdsData ib q) → e.k ≠ 1 → takes 0) ∧
      (c.holdsData ib d → (∃ q, c.holdsData ia q) → e.k = 1 → takes 1) ∧
      (u.isData = false → c.input ia = some u → c.input ib = some u →
        s.turns n (.merge n r) (((c.pop ia).pop ib).push T [u]) 0#6)) ∧
    (s.operator n r 3 → free T →
      (e.busy = false → rIn w 0 = 0 →
        s.turns n (.carry n r) ((c.setEst (1024 + r) { e with busy := true }).push T [⟨0#5, BitVec.ofNat 32 (rCinit w)⟩]) 0#6) ∧
      (e.busy = false → rIn w 0 ≠ 0 → c.holdsData ia d →
        s.turns n (.carry n r) (((c.pop ia).setEst (1024 + r) { e with busy := true }).push T [⟨0#5, d⟩]) 0#6) ∧
      (e.busy = true → c.holdsData ib d → s.turns n (.carry n r) ((c.pop ib).push T [⟨0#5, d⟩]) 0#6) ∧
      (e.busy = true → u.isData = false → c.input ib = some u →
        s.turns n (.carry n r) (((c.pop ib).setEst (1024 + r) { e with busy := false }).push T [u]) 0#6)) ∧
    (s.operator n r 4 → free T → (∀ t, c.input ia = some t → t.isData = true) →
      (e.busy = false → c.holdsData ia p → c.holdsData ib d →
        s.turns n (.invar n r) ((((c.pop ib).pop ia).setEst (1024 + r) { e with busy := true, val := p }).push T [⟨0#5, p⟩]) 0#6) ∧
      (e.busy = true → c.holdsData ib d → s.turns n (.invar n r) ((c.pop ib).push T [⟨0#5, e.val⟩]) 0#6) ∧
      (u.isData = false → c.input ib = some u → (u.level? = some (rClvl w) ∨ u.rank? = some (rClvl w)) →
        s.turns n (.invar n r) (((c.pop ib).setEst (1024 + r) { e with busy := false }).push T [u]) 0#6)) ∧
    (s.operator n r 5 →
      (c.holdsData ia d → s.turns n (.drop n r) (c.pop ia) 0#6) ∧
      (u.isData = false → c.input ia = some u → free T → s.turns n (.drop n r) ((c.pop ia).push T [u]) 0#6))

/-- A LUT island with a data token at each of its inputs takes them, stores its state bits, and sends the token of each of
its outputs, in either mode; the bits are those of its truth tables (R65, R66, R249). That cells which drive one bit of an output are
joined by OR is the model's (log 89). -/
def Obligations.IslandsFire : Prop :=
  (∀ (s : State) (n k : Nat) (t : Nat → BitVec 32),
    let c := s.core n
    let w := c.island k
    let ins := [0, 1].filter fun i => islIn w i
    let outs := [0, 1].filter fun i => islOut w i
    let ends := fun i => (segData (c.segs (islePlace k i))).2
    let seen := ins.foldl (fun c i => c.setSegs (islePlace k i) (segData (c.segs (islePlace k i))).1) c
    let taken := ins.foldl (fun c i => c.pop (islePlace k i)) seen
    let lanes := (ins.map fun i => (t i).toNat * 2 ^ (32 * i)).sum
    let o := taken.cellOuts k lanes 9 0
    let fired := outs.foldl (fun c i => c.push (elemPlace (islOutRouter w i)) [c.pack k i o]) (taken.cellStore k lanes o)
    k < 16 → c.run ≠ .idle → islePlace k 0 ∉ c.pausedPorts → ins ≠ [] → (∀ i ∈ ins, c.holdsData (islePlace k i) (t i)) →
    (∀ i ∈ outs, (c.queue (elemPlace (islOutRouter w i))).length < 2) →
    (w.testBit 56 = true ∨ ∀ i ∈ ins, ∀ j ∈ ins, ends i = ends j) →
    (islMode w = 1 → s.turns n (.lutn n k) fired 0#6) ∧ (islMode w = 2 → s.turns n (.matchFire n k) fired 0#6)) ∧
  (∀ (c : Core) (k i lanes o : Nat),
    (∀ j < 64, (c.cellPass k lanes o).testBit j = if cellSE (c.cell k j) then SMap.get false c.fab.bits (64 * k + j)
      else cellEval lanes o (c.cell k j)) ∧
    (∀ j < 64, cellSE (c.cell k j) = true →
      SMap.get false (c.cellStore k lanes o).fab.bits (64 * k + j) = cellEval lanes o (c.cell k j)) ∧
    (∀ b < 32, (c.pack k i o).data.getLsbD b = true ↔
      ∃ j < 64, cellSite (c.cell k j) = i + 1 ∧ cellBit (c.cell k j) = b ∧ o.testBit j = true) ∧
    (c.pack k i o).kind = 0#5)

/-- An anti-token moves to the source of its place: it cancels the data token standing there for its branch, passes a router
register, or is held at an element that has results under way; over a gang's edge link it passes into the register of the other
member's fabric, and a path that a CFG.PATCH is switching takes none (R23, R40, R57–R61, R64). Which edges a link joins is free (log
64). -/
def Obligations.AntiTokens : Prop :=
  ∀ (s : State) (n dst : Nat),
    let c := s.core n
    let src := c.srcOf dst
    let c1 := c.setRev dst (c.rev dst - 1)
    (∀ m x, isLink dst = true → s.linkFrom n dst = some (m, x) → m ≠ n → c.rev dst ≠ 0 → (s.core m).queue x = [] →
      (s.core m).rev x = 0 → s.patched m x = false → ∃ t, exec (.antiTokenArrival n dst) s = .next t ∧ (∀ y, (t.core n).rev y =
        if y = dst then c.rev dst - 1 else c.rev y) ∧ (∀ y, (t.core m).rev y = if y = x then 1 else (s.core m).rev y)) ∧
    ((if isLink dst then ∃ m x, s.linkFrom n dst = some (m, x) ∧ s.patched m x = true else s.patched n src = true) →
      exec (.antiTokenArrival n dst) s = .next s) ∧
    (isLink dst = false → c.run ≠ .idle → dst ∉ c.pausedPorts → s.patched n src = false → c.rev dst ≠ 0 → src ≠ nowhere →
    (∀ d rest, c.queue src = .tok ⟨0#5, d⟩ :: rest → dst ∉ c.took src →
      s.turns n (.antiTokenArrival n dst) (Core.settle src settleFuel (c1.setTook src (dst :: c.took src))) 0#6) ∧
    ((c.queue src).head? = none → (c.destsOf src).length ≤ 1 →
      (src < 1024 → c1.rev src = 0 → s.turns n (.antiTokenArrival n dst) (c1.setRev src 1) 0#6) ∧
      (∀ r, src = elemPlace r → r < 256 → c1.heldAt src < (c.est r).buf.length → c1.heldAt src < 7 →
        s.turns n (.antiTokenArrival n dst) (Core.settle src settleFuel (c1.setHeld src (c1.heldAt src + 1))) 0#6)))

/-- An IN port sends its pattern's next token, an OUT port takes one and writes its data; each then stands at the next position; the
position steps through the counts, innermost first, and the stream ends after the last. After 4,096 clk in which nothing of a
waiting core's fabric could move, the fabric is emptied, its streams end, and the core counts as quiescent; no register, mask or
accumulator changes (R209, R383). A PORT.BIND waits for the stream in progress, then gives the port its pattern and its bank its
window, and completes as it takes effect, or for IN and OUT as the new stream ends; a PORT.FEED with room puts its tokens into the
FIFO; a PORT.TAKE pops one into its register; an IN port of a COPY.DEM waits for the chunk of its visit (R207, R210–R212, R215). The
clk of quiescence are counted from the latest act (log 37). -/
def Obligations.PortStreams : Prop :=
  (∀ (s : State) (n p : Nat),
    let c := s.core n
    let x := c.port p
    c.run ≠ .idle → feedPlace p ∉ c.pausedPorts → x.role = 1 → x.ended = false → x.fifo = [] →
    (c.pacer.whold = false ∨ c.pacer.k = 0) → s.demOf n p = none →
    let put := fun (s1 : State) (x1 : Port) (ts : List Token) =>
      exec (.inPortSend n p) s = .next ((s1.setCore n { Core.settle (feedPlace p) settleFuel
        ((s1.core n).setPort p { x1 with fifo := ts }) with drained := false, moved := s1.gtc }).portDone n p)
    (∀ l, x.levels[x.ctl]? = some l → put s { x with ctl := x.ctl + 1 } [Token.prefixOf l (x.desc.cnt.getD l 0)]) ∧
    (x.levels[x.ctl]? = none → x.past = true → put s x.step [Token.marker (x.rankDue.getD 0)]) ∧
    (x.levels[x.ctl]? = none → x.past = false → x.held ≠ 0 →
      put s { x.afterData with held := x.held - 1 } []) ∧
    (∀ s1 v, x.levels[x.ctl]? = none → x.past = false → x.held = 0 → s.readElem n x x.off = .ok (s1, v) →
      put s1 x.afterData [⟨0#5, v⟩])) ∧
  (∀ (s : State) (n p : Nat) (t : Token) (rest : List Token),
    let c := s.core n
    let x := c.port p
    c.run ≠ .idle → sinkPlace p ∉ c.pausedPorts → x.role = 2 → x.ended = false → x.fifo = t :: rest →
    let put := fun (s1 : State) (x1 : Port) =>
      exec (.outPortWrite n p) s = .next ((s1.setCore n { (s1.core n).setPort p { x1 with
        fifo := rest, crc := crcToken x.crc t.data, taken := x.taken + 1 } with drained := false, moved := s1.gtc }).portDone n p)
    (∀ l, x.levels[x.ctl]? = some l → t = Token.prefixOf l (x.desc.cnt.getD l 0) → put s { x with ctl := x.ctl + 1 }) ∧
    (x.levels[x.ctl]? = none → x.past = true → t.rank? = x.rankDue → put s x.step) ∧
    (∀ s1, x.levels[x.ctl]? = none → x.past = false → t.isData = true → s.writeElem n x x.off t.data = .ok s1 →
      put s1 x.afterData)) ∧
  (∀ (x : Port) (c0 c1 c2 c3 i0 i1 i2 i3 : Nat), x.desc.cnt = [c0, c1, c2, c3] → x.idx = [i0, i1, i2, i3] →
    i0 < c0 → i1 < c1 → i2 < c2 → i3 < c3 →
    ∃ j0 j1 j2 j3, x.step.idx = [j0, j1, j2, j3] ∧
      let at_ := i0 + c0 * (i1 + c1 * (i2 + c2 * i3))
      let next := j0 + c0 * (j1 + c1 * (j2 + c2 * j3))
      (at_ + 1 < c0 * (c1 * (c2 * c3)) → next = at_ + 1 ∧ x.step.ended = false) ∧
      (at_ + 1 = c0 * (c1 * (c2 * c3)) → next = 0 ∧ x.step.ended = true)) ∧
  (∀ (s : State) (n : Nat), (s.core n).run ≠ .idle → s.waitsFabric n = true → (s.core n).drained = false →
     s.fabricStill n = true → (∀ k ∈ s.cmds, k.opc ≠ 0x46#8) →
     ∃ t, exec (.fabricQuiescent n) s = .next t ∧ (t.core n).drained = true ∧ (t.core n).fab.q = [] ∧
       (∀ x, (t.core n).rev x = 0) ∧
       (∀ p, ((t.core n).port p).role = 1 ∨ ((t.core n).port p).role = 2 → ((t.core n).port p).ended = true) ∧
       (t.core n).regs = (s.core n).regs ∧ (t.core n).masks = (s.core n).masks ∧ (t.core n).mx = (s.core n).mx ∧
       t.mem = s.mem) ∧
  (∀ (s : State) (n : Nat) (k : Cmd), s.cmd? k.id = some k → k.owner = .core n → s.accsDone k = true →
    let p := k.w3.toNat / 2 ^ 28
    let c := s.core n
    let x := c.port p
    let role := k.w3.toNat / 2 ^ 25 % 8
    (∀ s1 d, k.opc = 0x10#8 → s.mayStart k = true → s.bindPending k p = false → (role ≠ 5 → c.elemsNaming p = []) →
      s.flushWaits n = false → (s.started k).readBind n k.w3 k.a.toNat = .ok (s1, d) →
      let w := if role = 0 ∨ d.wlen = 0 then (0, 0) else (d.wbase.toNat, 1024 * d.wlen.toNat)
      (s.streamQuiet n p = false → exec (.commandStart k.id) s = .next (s.started k)) ∧
      (s.streamQuiet n p = true → s1.windowClash n p w.1 w.2 = false → ∃ t, exec (.commandStart k.id) s = .next t ∧
        let y := (t.core n).port p
        y.role = role ∧ y.desc = d ∧ y.idx = [0, 0, 0, 0] ∧ y.fifo = [] ∧ ((t.bank n p).base, (t.bank n p).len) = w ∧
        if (role = 1 ∨ role = 2) ∧ 0 ∉ d.cnt then y.ended = false ∧ y.bindCmd = some k.id ∧ ∃ j, t.cmd? k.id = some j ∧ j.state = .started
        else t.cmd? k.id = none)) ∧
    (k.opc = 0x11#8 → s.mayStart k = true → s.bindPending k p = false → x.role = 3 → s.outPending n p = none →
      1 ≤ role → role ≤ 5 →
      let data := ([k.a, k.b, k.c, k.d, k.e].take role).map fun v => Token.mk 0#5 (v.truncate 32)
      let first := if k.w3.getLsbD 24 then Token.prefixOf (k.w3.toNat / 2 ^ 22 % 4) (k.a.truncate 32 : BitVec 32).toNat else data.headD ⟨0, 0⟩
      let ts := first :: data.tail ++ if k.w3.getLsbD 21 then [Token.marker (k.w3.toNat / 2 ^ 18 % 8)] else []
      (16 < x.fifo.length + ts.length → exec (.commandStart k.id) s = .next s) ∧
      (x.fifo.length + ts.length ≤ 16 → exec (.commandStart k.id) s = .next (((s.started k).setCore n { Core.settle (feedPlace p) settleFuel
        (c.setPort p { x with fifo := x.fifo ++ ts, feeds := x.feeds ++ [(k.id, ts.length)] }) with
          drained := false, moved := s.gtc }).portDone n p))) ∧
    (k.opc = 0x12#8 → k.state = .started → s.takersBefore k p = false →
      let left := if k.w3.getLsbD 27 then x.fifo.dropWhile fun t => !t.isData else x.fifo
      (left = [] → exec (.commandComplete k.id) s = .next (s.setCore n (c.setPort p { x with fifo := [] }))) ∧
      (∀ t rest, left = t :: rest → ∃ u, exec (.commandComplete k.id) s = .next u ∧ u.cmd? k.id = none ∧
        ((u.core n).port p).fifo = rest ∧ u.mem = s.mem ∧
        ∀ r, (u.core n).reg r = if r = k.areg.toNat ∧ r ≠ 57 then BitVec.ofNat 64 (t.kind.toNat * 2 ^ 32 + t.data.toNat) else c.reg r)) ∧
    (∀ q, s.demOf n q = some k → let y := c.port q
      c.run ≠ .idle → feedPlace q ∉ c.pausedPorts → y.role = 1 → y.ended = false → y.fifo = [] →
      y.levels[y.ctl]? = none → y.past = false →
      let v := y.visits - k.x0
      k.slotOf (y.addrOf y.off).1 = some (v % k.slots) → v < k.d.toNat → k.done < (v + 1) * k.c.toNat →
      exec (.inPortSend n q) s = .next s))

/-! ## Stream commands -/

/-- A stream command whose guards and mask bit are true issues: it enters its queues with the values of its registers and the bindings
of its tags, and the core goes on; a BATCH of an open batch without commands queues nothing. One whose guard or mask bit is false
retires as it issues, and only its CLOSE bit acts; the COPY.MC of a core outside its mask retires too (R24–R29, R157, R197, R216).
That a COPY.MC guarded off is not counted among the multicasts is the model's (log 13), and so is which commands carry which scalar
accesses (log 14). -/
def Obligations.CommandsIssue : Prop :=
  (∀ (s : State) (i : Instr) (opc : Nat) (w : CmdWords), cmdOf i = some (opc, w) → i.wf = true →
     s.accepts opc w → s.here.enabled w → (opc = 0x31 → s.here.partOf w) →
     (¬(opc = 0x20 ∧ s.here.openBatch = []) → ∃ t k, exec i s = .next t ∧ QueuedCmd s t opc w k) ∧
     (opc = 0x20 → s.here.openBatch = [] → ∃ t, exec i s = .next t ∧ t.cmds = s.cmds ∧
       t.here = { s.here.past False with lastOf := t.here.lastOf } ∧ ∀ m, m ≠ s.cur → t.core m = s.core m)) ∧
  (∀ (s : State) (i : Instr) (opc : Nat) (w : CmdWords), cmdOf i = some (opc, w) → i.wf = true → s.accepts opc w →
     (w.close = true → s.here.mayClose = true) →
     (¬s.here.enabled w → exec i s = .next (s.withHere (s.here.past (w.close = true)))) ∧
     (s.here.enabled w → opc = 0x31 → ¬s.here.partOf w →
       exec i s = .next (s.withHere { s.here.past (w.close = true) with mcIssued := s.here.mcIssued + 1 })))

/-- A command starts only once every command its wait-tags are bound to has completed, its batch has closed, and its runner's
earlier HURDLEs are complete; CFG.ITER and PACE then write ICTR and the Pacer's K, and a LANE HURDLE completes once every earlier
command has. Until the scalar accesses that its issue releases are performed a started command does nothing. CFG.LOAD and CFG.RECONF
install the record at their address once every earlier command is complete: the core goes on at its first instruction with its
registers as they are, with its image, binding table and Pacer; CFG.RECONF keeps the ports that the table does not name. CFG.PATCH
reads its list, waits until the paths it switches are empty, and then replaces the switch fields of the routers it lists (R24, R29, R64,
R132, R197, R203, R205, R206, R220; which accesses hold a command, and that they hold its accesses and not its start, is log 14). -/
def Obligations.CommandsRun : Prop :=
  ∀ (s : State) (n : Nat) (k : Cmd), s.cmd? k.id = some k → k.owner = .core n →
    let c := s.core n
    ((k.state ≠ .issued ∨ (∃ i ∈ k.waits, s.cmdDone i = false) ∨ k.id ∈ c.openBatch ∨
      (∃ j ∈ s.cmds, j.owner = k.owner ∧ j.id < k.id ∧ j.opc = 0x21#8 ∧ j.w3.toNat / 2 ^ 28 % 4 ≠ 1)) →
      exec (.commandStart k.id) s = .next s) ∧
    (k.state ≠ .started ∨ (∃ a ∈ c.accs, a.id ∈ k.accs) → exec (.commandComplete k.id) s = .next s) ∧
    (s.mayStart k = true → k.opc = 0x03#8 →
      ∃ t, exec (.commandStart k.id) s = .next t ∧ Completed s t n k { c with ictr := k.a }) ∧
    (s.mayStart k = true → k.opc = 0x04#8 → c.record.pace ≠ 0 → k.w3.toNat % 16 ≠ 0 →
      ∃ t, exec (.commandStart k.id) s = .next t ∧
        Completed s t n k { c with pacer := { c.pacer with k := k.w3.toNat % 16 } }) ∧
    (k.state = .started → s.accsDone k = true → k.opc = 0x21#8 → k.w3.toNat / 2 ^ 30 = 0 → k.w3.toNat / 2 ^ 28 % 4 = 0 → k.sub = 0 →
      (∀ j ∈ s.cmds, j.owner = k.owner → k.id ≤ j.id) →
      ∃ t, exec (.commandComplete k.id) s = .next t ∧ Completed s t n k c) ∧
    (∀ l0 l s1, k.opc = 0x00#8 ∨ k.opc = 0x02#8 → k.state = .started → s.accsDone k = true → s.earlier k = [] → c.accs = [] →
      c.loadOver = true → c.preempt = false → s.flushWaits n = false → s.endWaits n = false →
      let keep := decide (k.opc = 2#8)
      let elem := fun (p : Nat) => keep && decide ((c.port p).role = 5)
      let s0 := s.flushBanks n (s.banksChanged n l0.binds keep)
      s.readRecord k.ctx k.a.toNat elem = .ok l0 → s0.readRecord k.ctx k.a.toNat elem = .ok l →
      (s0.endLoad n).install n k.a.toNat l keep = .ok s1 →
      ∃ t, exec (.commandComplete k.id) s = .next t ∧ t.cmd? k.id = none ∧
        let u := t.core n
        u.pc = k.a ∧ u.soff = 0 ∧ u.entry = true ∧ u.record = l.hdr ∧ u.ictr = 0 ∧ u.lflags = 0 ∧ u.pacer = { k := l.hdr.pace } ∧
        u.fab.elems = l.elems ∧ u.fab.routes = l.routes ∧ u.fab.islands = l.islands ∧ u.fab.cells = l.cells ∧ u.fab.imgId = l.imgId ∧
        u.fab.q = [] ∧ u.regs = c.regs ∧ u.preds = c.preds ∧ u.masks = c.masks ∧ u.mx = c.mx ∧ u.hm = c.hm ∧ u.handler = c.handler ∧
        ∀ p < 16, match l.binds.reverse.find? fun b => decide (b.port = p) with
          | some b => (u.port p).w3 = b.w3 ∧ (u.port p).desc = b.desc
          | none => keep = false → (u.port p).role = 0) ∧
    (∀ s1 bs, k.opc = 0x01#8 → s.mayStart k = true → s.accsDone k = true →
      let m := k.w3.toNat % 512
      let es := (List.range m).map fun i => leNat ((bs.drop (4 * i)).take 4)
      1 ≤ m → m ≤ 256 → k.a.toNat < 2 ^ 56 → k.a.toNat % 4 = 0 → (s.started k).load k.windowAgent k.hint k.a.toNat (4 * m) = .ok (s1, bs) →
      (∀ e ∈ es, e / 2 ^ 12 % 4096 = 0) →
      routingCycle (fun r => (SMap.get 0#64 (patchRoutes (s1.routesBefore n k.id) es) r).toNat) = none →
      ∃ t j, exec (.commandStart k.id) s = .next t ∧ t.cmd? k.id = some j ∧ j.state = .started ∧ j.sub = 1 ∧ j.list = es) ∧
    (k.opc = 0x01#8 → k.state = .started → s.accsDone k = true → k.sub ≠ 0 →
      let clear := ∀ x < 1024, switches c.fab.routes k.list x = true → c.queue x = [] ∧ c.rev x = 0 ∧ c.cancels x = 0
      (((∃ j ∈ s.patches n, j.id < k.id) ∨ ¬clear) → exec (.commandComplete k.id) s = .next s) ∧
      ((∀ j ∈ s.patches n, k.id ≤ j.id) → clear → ∃ t, exec (.commandComplete k.id) s = .next t ∧ t.cmd? k.id = none ∧ t.mem = s.mem ∧
        (t.core n).fab.elems = c.fab.elems ∧ (t.core n).regs = c.regs ∧
        ∀ r i : Nat, r < 256 → i < 64 → ((SMap.get 0#64 (t.core n).fab.routes r).getLsbD i =
          match k.list.reverse.find? fun e => decide (e / 2 ^ 24 = r) with
          | some e => if 43 ≤ i ∧ i < 55 then
              e.testBit (if 52 ≤ i then 9 + (i - 52) else if 49 ≤ i then 6 + (i - 49) else if 46 ≤ i then 3 + (i - 46) else i - 43)
            else (SMap.get 0#64 c.fab.routes r).getLsbD i
          | none => (SMap.get 0#64 c.fab.routes r).getLsbD i)))

/-- A started COPY of one row puts the bytes of its source, as they stood, at its destination and completes; a COPY.FILL puts the
low byte of a there, a COPY.WFILL the eight bytes of a by the place in the word. No other byte of memory changes. A word of a row of a
COPY, a COPY.IND (whose row the index of its list names) or a COPY.DEM moves from its source to its destination in one act; a COPY.DEM
waits for the free-slot notice of its ring. A COPY.MC reads each part of a chunk once, puts it into every member's ring, and completes
in every participant once all rings have every chunk (R213–R217). A copy goes on only in its turn: not while another that could be served has a
higher priority, its PRIO or 3 after 4,096 ticks without service (R140, R218). A whole copy is one row here, a copy has the channels
to itself, and sources lie outside the windows; how long a turn is, is the model's (log 72). -/
def Obligations.CopyMovesBytes : Prop :=
  (∀ (s : State) (n : Nat) (k : Cmd) (ps qs : List Nat), s.cmd? k.id = some k → k.owner = .core n → k.state = .started →
    k.opc = 0x30#8 → k.w3.getLsbD 28 = false → k.w3.getLsbD 29 = false → k.done = 0 → k.list = [] → k.buf = [] → s.accsDone k = true → (∀ j ∈ s.cmds, j.half = []) →
    let len := k.c.toNat
    let prio := fun (j : Cmd) => if 4096 ≤ (s.gtc - j.tServed).toNat then 3 else j.prio
    let pages := k.tlb ++ s.pages k.ctx
    (len ≠ 0 → (∃ j ∈ s.cmds, j.id ≠ k.id ∧ s.servable n j = true ∧ prio k < prio j) →
      exec (.commandComplete k.id) s = .next s) ∧
    ((∀ j ∈ s.cmds, j.id ≠ k.id → s.servable n j = false) → pagesApart (s.pages k.ctx) → s.unpublished n →
    k.a.toNat + len ≤ 2 ^ 56 → k.b.toNat + len ≤ 2 ^ 56 →
    translateRange pages k.b.toNat Need.write len = .ok qs → qs.Nodup →
    (∀ j < len, s.findWindow n (k.b.toNat + j) = none) → (∀ q ∈ qs, s.copying q = false ∧ s.linkFault q = none) →
    (k.mode = 0 → translateRange pages k.a.toNat Need.read len = .ok ps →
      (∀ j < len, s.findWindow n (k.a.toNat + j) = none) → (∀ p ∈ ps, s.copying p = false ∧ s.linkFault p = none ∧ s.poisoned p = false ∧ p ∉ qs) →
      ∃ t, exec (.commandComplete k.id) s = .next t ∧ Completed s t n k (s.core n) ∧ Stored s t qs (ps.map s.mem.read)) ∧
    (k.mode = 1 →
      ∃ t, exec (.commandComplete k.id) s = .next t ∧ Completed s t n k (s.core n) ∧
        Stored s t qs (List.replicate len (BitVec.ofNat 8 k.a.toNat))) ∧
    (k.mode = 2 →
      ∃ t, exec (.commandComplete k.id) s = .next t ∧ Completed s t n k (s.core n) ∧
        Stored s t qs ((List.range len).map fun i => BitVec.ofNat 8 (k.a.toNat / 2 ^ (8 * ((k.b.toNat + i) % 8))))))) ∧
  (∀ (s : State) (n : Nat) (k : Cmd) (x : Nat) (is ps qs : List Nat), s.cmd? k.id = some k → k.owner = .core n → k.state = .started →
    k.opc = 0x30#8 ∨ k.opc = 0x32#8 ∨ k.opc = 0x33#8 → s.accsDone k = true → k.fills = false → (k.opc = 0x30#8 → k.mode = 0 ∧ k.done ∉ k.list) →
    k.buf = [] → k.done < k.total → (∀ j ∈ s.cmds, j.half = []) → pagesApart (s.pages k.ctx) → s.unpublished n →
    (∀ j ∈ s.cmds, j.id ≠ k.id → s.servable n j = false) →
    let pages := k.tlb ++ s.pages k.ctx
    let r := k.done / k.rowLen
    let q := k.done % k.rowLen
    let begins := k.opc = 0x33#8 ∧ q = 0
    let j := if begins then { k with x0 := x } else k
    let outside := fun (va m : Nat) => ∀ i < m, s.findWindow n (va + i) = none
    (k.opc = 0x32#8 → k.slots ≤ r → ((s.core n).port (k.w3.toNat / 2 ^ 21 % 16)).visits - k.x0 < r - k.slots + 1 →
      exec (.commandComplete k.id) s = .next s) ∧
    (s.ringOpen n k = true →
      (begins → translateRange pages (wrapVa (k.a.toNat + r * k.indSize)) Need.read k.indSize = .ok is ∧
        outside (wrapVa (k.a.toNat + r * k.indSize)) k.indSize ∧ s.readable is ∧ x = leNat (is.map s.mem.read) ∧
        (∃ src, translateRange pages (j.srcVa r 0) Need.read k.rowLen = .ok src) ∧
        ∃ dst, translateRange pages (j.dstVa r 0) Need.write k.rowLen = .ok dst) →
      j.srcVa r q % 8 = 0 → j.dstVa r q % 8 = 0 → q + 8 ≤ k.rowLen → j.sharesWord r (j.dstVa r q) = false → j.slotsAt (j.dstVa r q) ≤ 1 →
      translateRange pages (j.srcVa r q) Need.read 8 = .ok ps → outside (j.srcVa r q) 8 → s.readable ps →
      translateRange pages (j.dstVa r q) Need.write 8 = .ok qs → s.takesBytes n k.hint (j.dstVa r q) qs →
      let t := s.pieceOf k.id k.done
      PutFor s t n (j.dstVa r q) qs (ps.map s.mem.read) ∧
        ∃ u, t.cmd? k.id = some u ∧ u.done = k.done + 8 ∧ u.buf = [] ∧ u.x0 = j.x0)) ∧
  (∀ (s : State) (n m : Nat) (root j : Cmd) (ps qs : List Nat), s.cmd? root.id = some root → s.cmd? j.id = some j →
    root.owner = .core n → j.owner = .core m → s.mcOn root m = some j → s.mcOn j n = some root → j.opc = 0x31#8 →
    ((s.core m).members m)[j.rootRank]? = some n → s.runs root = true → s.runs j = true → j.done < root.total → s.mcOpen m root j = true →
    (∀ i ∈ s.cmds, i.id ≠ root.id → s.servable n i = false) → pagesApart (s.pages root.ctx) → s.unpublished n → s.unpublished m →
    (∀ i ∈ s.cmds, i.half = []) →
    let pages := root.tlb ++ s.pages root.ctx
    let len := root.mcLen j.done
    let va := root.dstVa (j.done / root.rowLen) (j.done % root.rowLen)
    let t := s.pieceOf j.id j.done
    translateRange pages va Need.write len = .ok qs →
    (∀ x, root.mcMissing j.done len = some x →
      let at_ := wrapVa (root.a.toNat + x : Nat)
      let part := min (8 - at_ % 8) (root.rowLen - x % root.rowLen)
      translateRange pages at_ Need.read part = .ok ps → (∀ i < part, s.findWindow n (at_ + i) = none) → s.readable ps →
      t.mem = s.mem ∧ (∃ u, t.cmd? j.id = some u ∧ u.done = j.done) ∧
        ∃ u, t.cmd? root.id = some u ∧ ∀ i < part, some (SMap.get 0 u.buf (x + i)) = (ps.map s.mem.read)[i]?) ∧
    (root.mcMissing j.done len = none → root.slotsAt va ≤ 1 → s.takesBytes m root.hint va qs →
      PutFor s t m va qs ((List.range len).map fun i => SMap.get 0 root.buf (j.done + i)) ∧
        ∃ u, t.cmd? j.id = some u ∧ u.done = j.done + len)) ∧
  (∀ (s : State) (n : Nat) (root : Cmd), s.cmd? root.id = some root → root.owner = .core n → root.opc = 0x31#8 → s.runs root = true →
    s.isRoot n root = true →
    (∀ p ∈ root.mcCores ((s.core n).members n), ∃ j, s.mcOn root p.1 = some j ∧ root.total ≤ j.done) →
    ∃ t, exec (.commandComplete root.id) s = .next t ∧ t.mem = s.mem ∧
      ∀ p ∈ root.mcCores ((s.core n).members n), ∀ j, s.mcOn root p.1 = some j → t.cmd? j.id = none)

/-! ## The engines -/

/-- A k-step of an MM form adds, to each element of its tile, the products of the positions its rows keep: exactly modulo 2^48 for
an integer tile, and for a floating one each block's exact sum, scaled and rounded once to FP32; KDONE advances, and nothing outside
the tile changes. An integer tile completes with its working registers clamped to 32 bits. The next entry of a started MM.ARM whose
mask bit is false completes at once, whatever its other bytes, and one that is true enters the engine when the engine chooses it: an
MM.ACC.ZERO entry then stands started behind the arm's other entries. An MM.ACC clears or loads one element of its region after the
other, and stores them exactly, or rounded to BF16 or FP16; MM.OUT sends its region row by row with the control tokens of the port's
segment mode, and completes when its last token has left the FIFO (R86, R90, R93, R254, R263, R269–R271). An arm's entry is read when it
starts (log 32), and completes at a false mask bit before any check of R386 (log 86); a sum between the largest finite FP32 and half a
unit above it rounds as R75 and R86 say, against R87 (log 58). -/
def Obligations.MatrixSteps : Prop :=
  (∀ (s s2 s3 : State) (n : Nat) (k : Cmd) (rows : List (List (Nat × XR))) (bs : List (Nat × List XR))
      (fs : List (Nat × List (Option XR) × List (Option XR))),
    s.cmd? k.id = some k → k.owner = .core n → k.onArray = true → k.state = .started → s.accsDone k = true → s.overtaken k = false → k.list ≠ [] → k.sub ≠ 0 →
    let inTile := fun b i j => b = k.bank ∧ i < k.tileM ∧ j < k.tileN
    (k.done < k.ksteps → s.kstepRead k (k.k0 + 64 * k.done) = .ok (s2, rows, bs) →
      s2.kstepFactors k (k.k0 + 64 * k.done) = .ok (s3, fs) → (k.tA.isInt = false → (s3.core n).tileBad k = false) →
      ∃ t tl, exec (.kstepComplete k.id) s = .next t ∧ t.cmd? k.id = some { k with done := k.done + 1, tlb := tl } ∧
        t.mem = s3.mem ∧ ((∀ va, s.findWindow n va = none) → t.mem = s.mem) ∧
        ∀ b i j, b < 2 → i < 256 → j < 256 →
          (t.core n).workWord b i j = (s.core n).workWord b i j + (if k.tA.isInt = true ∧ inTile b i j then
            BitVec.ofInt 48 (intSum (pairsAt (rows.getD i []) bs j (k.k0 + 64 * k.done) 64)) else 0) ∧
          (t.core n).accWord b i j = if k.tA.isInt = false ∧ inTile b i j then
            (floatElem k (rows.getD i []) bs fs i j ((s.core n).accWord b i j)).1 else (s.core n).accWord b i j) ∧
    (k.opc.toNat ≤ 0x43 → k.ksteps ≤ k.done → k.tA.isInt = true →
      ∃ t, exec (.commandComplete k.id) s = .next t ∧ t.cmd? k.id = none ∧ t.mem = s.mem ∧
        ∀ b i j, b < 2 → i < 256 → j < 256 → (t.core n).accWord b i j = if inTile b i j then
          BitVec.ofInt 32 (max (-2 ^ 31) (min (2 ^ 31 - 1) ((s.core n).workWord b i j).toInt)) else (s.core n).accWord b i j)) ∧
  (∀ zs : List (Int × Int), intSum (zs.map fun z => (XR.ofInt z.1, XR.ofInt z.2)) = (zs.map fun z => z.1 * z.2).sum) ∧
  (∀ (acc : BitVec 32) (ab : List (XR × XR)) (x y : XR),
    let finite := fun v : XR => v.isNaN = false ∧ v.isInf = false
    let old := FloatFmt.fp32.decode acc.toNat
    ab ≠ [] → (∀ p ∈ ab, finite p.1 ∧ finite p.2) → finite x → finite y → finite old →
    ∃ v, finite v ∧ ratOf v = ratOf old + (ab.map fun p => ratOf p.1 * ratOf p.2).sum * (ratOf x * ratOf y) ∧
      (blockAdd acc ab (some x) (some y)).1 = BitVec.ofNat 32 (FloatFmt.fp32.round v .rne).1) ∧
  (∀ (s s1 : State) (n : Nat) (arm : Cmd) (bs : List Byte), s.cmd? arm.id = some arm → arm.owner = .core n →
     arm.opc = 0x44#8 → arm.state = .started → s.accsDone arm = true → arm.done < arm.b.toNat → s.readArm arm = .ok (s1, bs) →
     let moved := s.cmds.map fun j => if j.id = arm.id then { j with done := j.done + 1, tWait := some s.gtc, tlb := [] } else j
     (arm.mask.getLsbD (entryField bs 0x2E 1) = false →
       exec (.armEntryStart arm.id) s = .next { s1 with cmds := moved }) ∧
     (arm.mask.getLsbD (entryField bs 0x2E 1) = true → entryField bs 0x2C 1 = 0x45 → entryField bs 0x2D 1 = 0 → entryZeroOk bs = true →
       let e := { armCmd arm s.nextCmd bs with x1 := arm.done * 16 }
       regionErr e = none → s1.mxFree n e = true →
       s1.bestOf (s1.mxRivals n) { e with id := arm.id } = true →
       (∀ j ∈ s.cmds, j.id < s.nextCmd) →
       ∃ t k, exec (.armEntryStart arm.id) s = .next t ∧ t.cmds = moved ++ [k] ∧ t.mem = s1.mem ∧
         k.state = .started ∧ k.arm = some arm.id ∧ k.opc = 0x45#8 ∧ k.var = 0 ∧ k.c = BitVec.ofNat 64 (entryField bs 0x10 8) ∧
         k.w3 = BitVec.ofNat 32 (entryField bs 0x28 4))) ∧
  (∀ (s : State) (n : Nat) (k : Cmd) (qs : Nat → List Nat), s.cmd? k.id = some k → k.owner = .core n → s.runs k = true →
    k.opc = 0x45#8 → k.buf = [] → k.regRow + k.regM ≤ 256 → k.regCol + k.regN ≤ 192 → pagesApart (s.pages k.ctx) → s.unpublished n →
    let c := s.core n
    let pages := k.tlb ++ s.pages k.ctx
    let mf := k.w3.toNat / 2 ^ 29 % 4
    let size := if mf = 0 then 4 else 2
    let count := k.regM * k.regN
    let va := fun (y : Nat) => wrapVa (k.a.toNat + (y / k.regN : Nat) * sx k.b.toNat 64 + (size * (y % k.regN) : Nat))
    let word := fun (y : Nat) => c.accWord k.bank (k.regRow + y / k.regN) (k.regCol + y % k.regN)
    let x := k.done
    let next := fun (t : State) => ∃ u, t.cmd? k.id = some u ∧ u.done = x + 1 ∧ u.buf = []
    let t := s.pieceOf k.id x
    (k.var ≠ 2 → x < count → mf = 0 → k.var = 0 ∨ (k.var = 1 ∧ va x % 8 ≤ 4 ∧ translateRange pages (va x) Need.read 4 = .ok (qs x) ∧
        (∀ i < 4, s.findWindow n (va x + i) = none) ∧ s.readable (qs x)) →
      t.mem = s.mem ∧ next t ∧ ∀ b i j, b < 2 → i < 256 → j < 256 → (t.core n).accWord b i j =
        if b = k.bank ∧ i = k.regRow + x / k.regN ∧ j = k.regCol + x % k.regN then
          (if k.var = 0 then 0 else BitVec.ofNat 32 (leNat ((qs x).map s.mem.read))) else c.accWord b i j) ∧
    (k.var = 2 → x < count → mf ≠ 3 → k.a.toNat % size = 0 → k.b.toNat % size = 0 → c.accReadBad k x = false →
      (∀ y < count, translateRange pages (va y) Need.write size = .ok (qs y) ∧ (∀ i < size, s.findWindow n (va y + i) = none) ∧
        s.writable (qs y)) → ((List.range count).flatMap qs).Nodup →
      let here := (List.range count).filter fun y => decide (va y / 8 = va x / 8)
      next t ∧ ((∃ y ∈ here, y < x) → t.mem = s.mem) ∧
        ((∀ y ∈ here, x ≤ y) → (∀ p, p ∉ here.flatMap qs → t.mem.read p = s.mem.read p) ∧
          ∀ y ∈ here, if mf = 0 then ∃ v, v < 2 ^ 32 ∧ (qs y).map t.mem.read = leBytes 4 v ∧ v / 16 = (word y).toNat / 16 ∧
              (c.rlx k.bank = false ∨ (word y).toNat / 2 ^ 23 % 256 = 255 → v = (word y).toNat)
            else (qs y).map t.mem.read = leBytes 2 ((if mf = 1 then FloatFmt.bf16 else FloatFmt.fp16).round
              (FloatFmt.fp32.decode (word y).toNat) .rne).1)) ∧
    (count ≤ x → ∃ t, exec (.commandComplete k.id) s = .next t ∧ t.mem = s.mem ∧
      Completed s t n k (if k.var = 2 then c else c.setRlx k.bank false))) ∧
  (∀ (c : Core) (k : Cmd) (free : Nat), c.rlx k.bank = false →
    let words := fun (i : Nat) => (List.range k.regN).map fun j => Token.mk 0#5 (c.accWord k.bank (k.regRow + i) (k.regCol + j))
    (List.range (k.outTotal false)).map (c.outToken k false free) =
      Token.prefixOf 1 k.regM :: (List.range k.regM).flatMap (fun i => Token.prefixOf 0 k.regN :: words i) ∧
    (List.range (k.outTotal true)).map (c.outToken k true free) =
      (List.range k.regM).flatMap fun i => words i ++ [Token.marker (if i + 1 = k.regM then 1 else 0)]) ∧
  (∀ (s : State) (n : Nat) (k : Cmd), s.cmd? k.id = some k → k.owner = .core n → s.runs k = true → k.opc = 0x46#8 →
    let p := k.outPort
    let c := s.core n
    let x := c.port p
    let next := { x with fifo := x.fifo ++ [c.outToken k x.compat s.free k.x0], feeds := [(k.id, 16)] }
    (s.outPending n p = some k → x.fifo.length = 15 → x.feeds = [(k.id, 15)] → (∀ e, k.outCell x.compat k.x0 = some e → c.accBad k.bank e.1 e.2 = false) →
      Core.settle (feedPlace p) settleFuel (c.setPort p next) = c.setPort p next →
      ∃ t, exec (.commandComplete k.id) s = .next t ∧ t.core n = { c.setPort p next with drained := false, moved := s.gtc } ∧
        t.cmd? k.id = some { k with x0 := k.x0 + 1 } ∧ t.mem = s.mem) ∧
    (s.outPending n p = none → k.outTotal x.compat ≤ k.x0 → x.fifo = [] → x.bindCmd = none → (∃ m, m ≠ 0 ∧ x.feeds = [(k.id, m)]) →
      ∃ t, exec (.commandComplete k.id) s = .next t ∧ t.cmd? k.id = none ∧ t.mem = s.mem ∧ (t.core n).mx = c.mx))

/-- A GATHER's group puts, at each request's place, the bytes of the table row it names; a SCATTER's group writes each named row
once, combining its requests' values element by element in request order: the first or the last of them, or their integer sum.
No other byte of memory changes, and the group's requests are done. INTERSECT writes an entry for each key of both its lists, in order,
with the key's places in them, and then their number, which fills a presence word with CPF; IX.COUNT writes how often each key occurs,
how many keys are lower, and each key's place among its equals (R140, R274, R278, R279, R282, R283). The places lie outside the windows
here. -/
def Obligations.IndexGroups : Prop :=
  (∀ (s : State) (k : Cmd) (row req : Nat → List Nat), s.cmd? k.id = some k → k.x1 = 1 → k.sub = 0 → k.list ≠ [] →
    s.ixTurn k = true → pagesApart (s.pages k.ctx) → (∀ m, k.owner = .core m → s.unpublished m) →
    let pages := k.tlb ++ s.pages k.ctx
    let xs := k.list
    let n := xs.length
    let R := k.rowBytes
    let rowOf := fun j => row (xs.getD j 0)
    let after := fun (t : State) => ∃ tl, t.cmd? k.id = some { k with done := k.done + n, list := [], x1 := 0, sub := 0, tlb := tl }
    (k.opc = 0x50#8 →
      (∀ x ∈ xs, translateRange pages (k.rowVa x) Need.read R = .ok (row x) ∧
        ∀ p ∈ row x, s.copying p = false ∧ s.linkFault p = none ∧ s.poisoned p = false) →
      (∀ j < n, translateRange pages (k.reqVa j) Need.write R = .ok (req j) ∧
        (∀ p ∈ req j, s.copying p = false ∧ s.linkFault p = none) ∧ (∀ m, k.owner = .core m → ∀ i < R, s.findWindow m (k.reqVa j + i) = none)) →
      ((List.range n).flatMap req).Nodup →
      ∃ t, exec (.indexGroupComplete k.id) s = .next t ∧ after t ∧
        (∀ j < n, (req j).map t.mem.read = (rowOf j).map s.mem.read) ∧
        ∀ p, p ∉ (List.range n).flatMap req → t.mem.read p = s.mem.read p) ∧
    (k.opc = 0x51#8 → k.scAcc = false → k.scFill = false → scSize k.scFmt ≠ 0 → R % scSize k.scFmt = 0 → R ≠ 0 →
      (∀ j < n, translateRange pages (k.reqVa j) Need.read R = .ok (req j) ∧
        ∀ p ∈ req j, s.copying p = false ∧ s.linkFault p = none ∧ s.poisoned p = false ∧ p ∉ xs.flatMap row) →
      (∀ x ∈ xs, translateRange pages (k.rowVa x) Need.write R = .ok (row x) ∧ ∀ p ∈ row x, s.copying p = false ∧ s.linkFault p = none) →
      (xs.dedup.flatMap row).Nodup →
      let es := scSize k.scFmt
      let word := fun (mem : Memory) (at_ : List Nat) (i : Nat) => leNat (((at_.drop (es * i)).take es).map mem.read)
      ∃ t, exec (.indexGroupComplete k.id) s = .next t ∧ after t ∧
        (∀ j < n, k.scOp = 3 → (∀ l < j, xs.getD l 0 ≠ xs.getD j 0) → (rowOf j).map t.mem.read = (req j).map s.mem.read) ∧
        (∀ j < n, k.scOp = 4 → (∀ l < n, j < l → xs.getD l 0 ≠ xs.getD j 0) →
          (rowOf j).map t.mem.read = (req j).map s.mem.read) ∧
        (∀ j < n, k.scOp = 0 → k.scFmt < 2 → ∀ i < R / es, word t.mem (rowOf j) i =
          (((List.range n).filter fun l => xs.getD l 0 = xs.getD j 0).map fun l => word s.mem (req l) i).sum % 2 ^ 32) ∧
        ∀ p, p ∉ xs.flatMap row → t.mem.read p = s.mem.read p)) ∧
  (∀ (s : State) (k : Cmd), s.cmd? k.id = some k → s.runs k = true → s.ixTurn k = true → pagesApart (s.pages k.ctx) →
    let pages := k.tlb ++ s.pages k.ctx
    let size := 2 * 2 ^ (k.w3.toNat / 2 ^ 30)
    let reads := fun (base : Word) (xs : List Nat) (at_ : Nat → List Nat) => ∀ i < xs.length,
      translateRange pages (wrapVa (base.toNat + (i * size : Nat))) Need.read size = .ok (at_ i) ∧ s.readable (at_ i) ∧
      leNat ((at_ i).map s.mem.read) = xs.getD i 0
    let ends := fun (t : State) (written : List Nat) =>
      exec (.commandComplete k.id) s = .next t ∧ t.cmd? k.id = none ∧ ∀ p, p ∉ written → t.mem.read p = s.mem.read p
    (∀ (xs ys : List Nat) (px py out : Nat → List Nat) (count : List Nat), k.opc = 0x52#8 →
      let cpf := k.w3.getLsbD 29
      let found := (List.range xs.length).filterMap fun i => (ys.idxOf? (xs.getD i 0)).map fun j => (xs.getD i 0, i, j)
      let written := (List.range found.length).flatMap out ++ count
      xs.length = k.d.toNat % 2 ^ 32 → ys.length = k.d.toNat / 2 ^ 32 → xs.Pairwise (· < ·) → ys.Pairwise (· < ·) →
      reads k.a xs px → reads k.b ys py → (∀ i < xs.length, ∀ p ∈ px i, p ∉ written) → (∀ j < ys.length, ∀ p ∈ py j, p ∉ written) →
      (∀ m < found.length, translateRange pages (wrapVa (k.c.toNat + (16 * m : Nat))) Need.write 16 = .ok (out m)) →
      translateRange pages k.e.toNat (if cpf then Need.pwrite else Need.write) 8 = .ok count → written.Nodup → s.writable written →
      (cpf = true → ∃ pa, pa % 8 = 0 ∧ count = (List.range 8).map (pa + ·) ∧ s.isFull pa = false) →
      ∃ t, ends t written ∧ count.map t.mem.read = leBytes 8 found.length ∧ (cpf = true → ∀ p ∈ count, t.isFull p = true) ∧
        ∀ (m : Nat) (e : Nat × Nat × Nat), found[m]? = some e →
          (out m).map t.mem.read = leBytes 8 e.1 ++ leBytes 4 e.2.1 ++ leBytes 4 e.2.2) ∧
    (∀ (xs : List Nat) (px : Nat → List Nat) (hist off rank : List Nat), k.opc = 0x53#8 →
      let bins := k.w3.toNat / 2 ^ 18 % 4096 + 1
      let ones := 2 ^ (8 * size) - 1
      xs.length = k.d.toNat → (∀ x ∈ xs, x = ones ∨ x < bins) → reads k.a xs px →
      translateRange pages k.b.toNat Need.write (4 * bins) = .ok hist → translateRange pages k.c.toNat Need.write (4 * (bins + 1)) = .ok off →
      (if k.e = 0 then rank = [] else translateRange pages k.e.toNat Need.write (4 * xs.length) = .ok rank) →
      (hist ++ off ++ rank).Nodup → s.writable (hist ++ off ++ rank) →
      ∃ t, ends t (hist ++ off ++ rank) ∧
        let word := fun (at_ : List Nat) (i : Nat) => leNat (((at_.drop (4 * i)).take 4).map t.mem.read)
        (∀ x < bins, word hist x = xs.count x % 2 ^ 32) ∧
        (∀ x ≤ bins, word off x = (xs.filter fun y => decide (y < x)).length % 2 ^ 32) ∧
        (k.e ≠ 0 → ∀ (i x : Nat), xs[i]? = some x →
          word rank i = if x = ones then 2 ^ 32 - 1 else (xs.take i).count x % 2 ^ 32)))

/-- One round of an auction: a row with no eligible column, or whose greatest net value lies below RES, is residual for good; every
other unassigned row bids on a column of greatest net value, the lowest among equals, its price plus what that value exceeds the next
one, or RES where there is none, plus EPS, rounded once. Each column keeps its best bids, as many as its capacity, of equal ones those
of lower rows, and its price becomes the lowest bid it keeps once it is full; a row that no column keeps is unassigned again. Once its
rounds are over an AUC writes its assignment, its prices and its status word; an AUC.PRICE writes each row's bid record and its status
word, which fills a presence word in both; a SEL form writes, for each line, the places of its K greatest scores in order of rank, of
equal ones the lower place first, padded with all ones, and their weights (R288, R290, R291, R294–R297). A bid that ties at an infinite net value, and the rank of a NaN, are the model's (log 35). -/
def Obligations.AuctionRounds : Prop :=
  (∀ (s : State) (k : Cmd), s.cmd? k.id = some k → k.opc = 0x70#8 → k.state = .started → s.unitTurn (sameAuc k) k = true →
    k.list ≠ [] → k.auction.pending = true → k.auction.round < k.auction.limit →
    k.auction.prices.length = k.auction.caps.length →
    let a := k.auction
    let b := a.play.1
    let net := fun (i j : Nat) => f32 (FloatFmt.fp32.round
      (XR.add (f32 ((a.scores.getD i []).getD j 0)) (f32 (a.prices.getD j 0)).negate .rne).1 .rne).1
    let eligible := fun (i j : Nat) => j < min (a.scores.getD i []).length a.prices.length ∧ net i j ≠ .inf true
    let best := fun (i j : Nat) => eligible i j ∧ ∀ l, eligible i l → XR.cmp (net i l) (net i j) ≠ .gt
    let holds := fun (j : Nat) (r : RowState) => match r with | .held c _ => decide (c = j) | _ => false
    let keeps := fun (j : Nat) => (b.rows.filter (holds j)).length
    let beaten := fun (i x j : Nat) => keeps j = a.caps.getD j 0 ∧ ∀ (r y : Nat), b.rows[r]? = some (RowState.held j y) →
      XR.rank (f32 x) (f32 y) = .lt ∨ (XR.rank (f32 x) (f32 y) = .eq ∧ r < i)
    (∃ t, exec (.auctionRound k.id) s = .next t ∧ t.cmd? k.id = some { k with auction := b, x1 := 0 } ∧ t.mem = s.mem) ∧
    b.rows.length = a.rows.length ∧ b.prices.length = a.prices.length ∧
    (∀ i : Nat, a.rows[i]? = some RowState.residual → b.rows[i]? = some RowState.residual) ∧
    (∀ (i j x : Nat), a.rows[i]? = some (RowState.held j x) → j < a.caps.length →
      b.rows[i]? = some (RowState.held j x) ∨ (b.rows[i]? = some RowState.unassigned ∧ beaten i x j)) ∧
    (∀ i : Nat, a.rows[i]? = some RowState.unassigned →
      ((a.bidOf i).col = none ↔ (∀ l, ¬eligible i l) ∨ ∃ l, best i l ∧ XR.cmp (net i l) (f32 a.res) = .lt) ∧
      ((a.bidOf i).col = none → b.rows[i]? = some RowState.residual) ∧
      (∀ j : Nat, (a.bidOf i).col = some j →
        best i j ∧ (∀ l < j, eligible i l → XR.cmp (net i l) (net i j) = .lt) ∧
        (∃ x : XR, ((∀ l, eligible i l → l = j) ∧ x = f32 a.res ∨
            ∃ l, l ≠ j ∧ eligible i l ∧ x = net i l ∧ ∀ m, m ≠ j → eligible i m → XR.cmp (net i m) x ≠ .gt) ∧
          (a.bidOf i).bid = (FloatFmt.fp32.round (XR.add (XR.add (f32 (a.prices.getD j 0))
            (if XR.cmp (net i j) x = .eq then .fin false 0 0 else (XR.add (net i j) x.negate .rne).1) .rne).1
            (f32 a.eps) .rne).1 .rne).1) ∧
        (b.rows[i]? = some (RowState.held j (a.bidOf i).bid) ∨
          (b.rows[i]? = some RowState.unassigned ∧ beaten i (a.bidOf i).bid j)))) ∧
    (∀ j : Nat, j < a.prices.length → keeps j ≤ a.caps.getD j 0 ∧
      (keeps j < a.caps.getD j 0 → b.prices[j]? = a.prices[j]?) ∧
      (keeps j = a.caps.getD j 0 → keeps j ≠ 0 → ∃ (i x : Nat), b.rows[i]? = some (RowState.held j x) ∧ b.prices[j]? = some x ∧
        ∀ (r y : Nat), b.rows[r]? = some (RowState.held j y) → XR.rank (f32 x) (f32 y) ≠ .gt))) ∧
  (∀ (s : State) (k : Cmd) (ps qs : List Nat) (pa : Nat), s.cmd? k.id = some k → k.opc = 0x70#8 ∨ k.opc = 0x71#8 →
    s.unitTurn (sameAuc k) k = true → k.list ≠ [] → pagesApart (s.pages k.ctx) →
    (k.opc = 0x70#8 → k.auction.pending = true → k.auction.limit ≤ k.auction.round) →
    let pages := k.tlb ++ s.pages k.ctx
    let a := k.auction
    let priced := decide (k.opc = 0x71#8)
    let bids := (List.range a.rows.length).map a.bidOf
    let won := (bids.filter fun b => b.col.isSome).length
    let first := if priced then bids.flatMap fun b => leBytes 2 (b.col.getD 0xFFFF) ++ leBytes 2 0 ++ leBytes 4 b.v1 ++
        (if b.col = none then leBytes 8 0 else leBytes 4 b.v2 ++ leBytes 4 b.bid)
      else a.rows.flatMap fun r => leBytes 2 (match r with | .unassigned => 0xFFFE | .residual => 0xFFFF | .held c _ => c)
    let second := if priced then [] else a.prices.flatMap (leBytes 4)
    let count := fun (p : RowState → Bool) => (a.rows.filter p).length
    let word := if priced then (a.rows.length - won) * 2 ^ 48 + won * 2 ^ 32
      else count (fun r => decide (r = .residual)) * 2 ^ 48 +
        count (fun r => match r with | .held c _ => decide (c < 0xFFFE) | _ => false) * 2 ^ 32 + a.pending.toNat * 2 ^ 16 + a.round
    translateRange pages (k.list.getD 0 0) Need.write first.length = .ok ps →
    translateRange pages (k.list.getD 1 0) Need.write second.length = .ok qs →
    translate pages (k.list.getD 2 0) Need.pwrite = .ok pa → pa % 8 = 0 → s.isFull pa = false → word < 2 ^ 64 →
    let written := ps ++ qs ++ (List.range 8).map (pa + ·)
    written.Nodup → s.writable written →
    ∃ t, exec (.commandComplete k.id) s = .next t ∧ t.cmd? k.id = none ∧ ps.map t.mem.read = first ∧ qs.map t.mem.read = second ∧
      t.mem.readNat pa 8 = word ∧ t.isFull pa = true ∧ ∀ p, p ∉ written → t.mem.read p = s.mem.read p) ∧
  (∀ (s : State) (k : Cmd) (src : Nat → Nat → List Nat) (ixs ws : Nat → List Nat), s.cmd? k.id = some k →
    k.opc = 0x60#8 ∨ k.opc = 0x61#8 → s.unitTurn Cmd.isSel k = true → pagesApart (s.pages k.ctx) →
    let pages := k.tlb ++ s.pages k.ctx
    let byRow := decide (k.opc = 0x60#8)
    let lines := if byRow then k.b.toNat % 2 ^ 32 else k.b.toNat / 2 ^ 32
    let cands := if byRow then k.b.toNat / 2 ^ 32 else k.b.toNat % 2 ^ 32
    let most := k.w3.toNat / 2 ^ 26 + 1
    let isz := if k.w3.getLsbD 20 then 4 else 2
    let fmt := k.w3.toNat / 2 ^ 22 % 16
    let size := if fmt = 7 then 4 else 2
    let written := (List.range lines).flatMap fun l => ixs l ++ ws l
    7 ≤ fmt → fmt ≤ 9 → cands < 2 ^ (8 * isz) →
    (∀ l < lines, ∀ x < cands,
      let place := if byRow then l * k.c.toNat + x * size else x * k.c.toNat + l * size
      translateRange pages (wrapVa (k.a.toNat + (place : Nat))) Need.read size = .ok (src l x) ∧ s.readable (src l x) ∧
      ∀ p ∈ src l x, p ∉ written) →
    (∀ l < lines, translateRange pages (wrapVa (k.d.toNat + (l * most * isz : Nat))) Need.write (most * isz) = .ok (ixs l) ∧
      if k.e = 0 then ws l = [] else translateRange pages (wrapVa (k.e.toNat + (l * most * 4 : Nat))) Need.write (most * 4) = .ok (ws l)) →
    written.Nodup → s.writable written →
    ∃ t, exec (.commandComplete k.id) s = .next t ∧ t.cmd? k.id = none ∧ (∀ p, p ∉ written → t.mem.read p = s.mem.read p) ∧
      ∀ l < lines, ∃ top : List Nat,
        let score := fun (x : Nat) => decodeFmt (leNat ((src l x).map s.mem.read)) fmt
        let first := fun (x y : Nat) => XR.rank (score x) (score y) = .gt ∨ (XR.rank (score x) (score y) = .eq ∧ x < y)
        let word := fun (at_ : List Nat) (n m : Nat) => leNat (((at_.drop (n * m)).take n).map t.mem.read)
        top.length = min most cands ∧ (∀ x ∈ top, x < cands) ∧ top.Pairwise first ∧
        (∀ x < cands, x ∉ top → ∀ y ∈ top, first y x) ∧
        (∀ m < most, word (ixs l) isz m = (top[m]?).getD (2 ^ (8 * isz) - 1)) ∧
        (k.e ≠ 0 → ∀ m < most, word (ws l) 4 m = ((if k.w3.getLsbD 21 then (softmax (top.map score)).map (·.1)
          else top.map fun x => (FloatFmt.fp32.round (score x) .rne).1)[m]?).getD 0 % 2 ^ 32))

/-! ## The graph engines -/

/-- A node that waits is counted down by the messages of its predecessors and is READY at zero; an error token cancels it, and it
passes error tokens on. A NODE.SIG starts once every earlier command of its runner is complete, and counts the node of its handle down
by DEC in the same way. A node whose work is over is DONE, its cores fall idle and a decrement goes to each successor; the graph
goes on while another node of it is not over. A waiting node of effective priority 3 fixes its block (R22, R225, R322, R324, R370). A fix
lies at priority 3 (log 40). -/
def Obligations.NodesGo : Prop :=
  ∀ (s : State) (d e : Nat) (x : NodeEntry) (l : LaunchEntry), s.node? d e = some x → s.launch? x.home x.launch = some l →
    s.untraced x.ctx →
    let others := ∃ p ∈ l.nodes, p ≠ (d, e) ∧ ∃ y, s.node? p.1 p.2 = some y ∧ y.st ≠ .done ∧ y.st ≠ .cancelled
    let messages := fun (err : Bool) (cause : Nat) => x.nr.succ.filterMap fun i =>
      (l.nodes[i]?).map fun p => (⟨d, p.1, p.2, 1, err, cause⟩ : GraphMsg)
    (∀ m, s.firstMsg m.src d = some m → m.dst = d → m.entry = e → x.st = .wait →
      (m.err = false → 0 < x.count → m.amount ≤ x.count → x.nr.kind = 0 →
        ∃ t, exec (.decrementMessage m.src d) s = .next t ∧ t.msgs = s.msgs.erase m ∧ t.cores = s.cores ∧
          t.node? d e = some (if m.amount < x.count then { x with count := x.count - m.amount }
            else { x with st := .ready, count := 0, tReady := s.gtc })) ∧
      (m.err = true → others →
        ∃ t, exec (.errorToken m.src d) s = .next t ∧ t.msgs = s.msgs.erase m ++ messages true m.cause ∧
          t.node? d e = some { x with st := .cancelled, cores := [], slots := [], fixed := [], preemptAt := none } ∧
          t.launch? x.home x.launch = some { l with state := if l.state = 0 then m.cause else l.state })) ∧
    (x.st = .run → others → (if x.nr.kind = 0 then x.cores.all s.memberOver = true
        else x.cores = [] ∧ x.nr.cmds.length ≤ x.cmdsDone ∧ ∀ k ∈ s.cmds, k.owner ≠ .node d e) →
      (∀ n ∈ x.cores, s.flushWaits n = false ∧ s.endWaits n = false) → ∃ t, exec (.nodeComplete d e) s = .next t ∧ t.msgs = s.msgs ++ messages false 0 ∧
        t.node? d e = some { x with st := .done, cores := [], fixed := [], preemptAt := none } ∧
        ∀ n ∈ x.cores, (t.core n).run = .idle) ∧
    (∀ (n : Nat) (k : Cmd), s.cmd? k.id = some k → k.owner = .core n → k.opc = 0x92#8 →
      let dec := k.w3.toNat % 256
      (s.earlier k ≠ [] → exec (.commandStart k.id) s = .next s) ∧
      (s.runs k = true → k.a.toNat = 4096 * d + e → d < 4 → e < 4096 → x.ctx = k.ctx → x.st = .wait → x.nr.kind = 0 → 0 < x.count →
        dec ≤ x.count → ∃ t, exec (.commandComplete k.id) s = .next t ∧ t.cmd? k.id = none ∧ t.mem = s.mem ∧
          t.node? d e = some (if dec < x.count then { x with count := x.count - dec }
            else { x with st := .ready, count := 0, tReady := s.gtc }))) ∧
    (s.waits x = true → s.nodePrio x = 3 → x.fixed = [] →
      exec (.effectivePriorityReaches3 d e) s = .next (s.setDep d e (.node { x with fixed := s.bestBlock (s.blocks d x) })))

/-- The one waiting node of a die whose block is idle is dispatched onto it: its members run the record from its first instruction,
with the graph's argument in g0, the node's in g1, its handle in g2, and zero in every other register, predicate and flag (R19, R23,
R323). A node's accumulators are as the last one left them (log 38). -/
def Obligations.NodeIsDispatched : Prop :=
  ∀ (s : State) (d e va : Nat) (x : NodeEntry) (l : LaunchEntry) (cores : List Nat) (ld : Loaded),
    s.waiting d = [(d, e, x)] → (∀ i y, s.node? d i = some y → y.nr.kind = 0) → s.node? d e = some x → x.st = .ready →
    s.launch? x.home x.launch = some l → s.untraced x.ctx → s.coresFor (d, e, x) = some cores → cores ≠ [] → cores.Nodup →
    s.recordFor x = (va, .ok ld) → ld.binds = [] → (∀ k < 4, s.traceMode k = 2 → s.dispatchForeign k d = false) →
    ∃ t, exec (.nodeDispatch d) s = .next t ∧
      t.node? d e = some { x with st := .run, cores := cores, ran := cores, fixed := [], dispatched := s.gtc } ∧
      ∀ i n : Nat, cores[i]? = some n →
        let c := t.core n
        c.run = .running ∧ c.ctx = x.ctx ∧ c.handle = nodeHandle d e ∧ c.gang = cores ∧ c.rank = i ∧
        c.sizeM1 = cores.length - 1 ∧ c.fused = x.nr.fuse ∧ c.pc = BitVec.ofNat 64 va ∧ c.soff = 0 ∧ c.hm = false ∧
        c.handler = BitVec.ofNat 64 l.hdr.handler ∧ c.record = ld.hdr ∧ c.ictr = 0 ∧ c.flags = 0 ∧ c.lflags = 0 ∧
        (∀ r, c.reg r = if r = 0 then l.arg else if r = 1 then x.nr.narg else if r = 2 then BitVec.ofNat 64 (nodeHandle d e) else 0) ∧
        (∀ p, 0 < p → c.pred p = false) ∧ (∀ m, 0 < m → c.mask m = 0) ∧ c.accs = [] ∧
        c.mx = (s.core n).mx

/-- LAUNCH reads its image: a bad address, a malformed header or a malformed node record is BADARG, a page fault of the header holds
the request until the freeze lifts, and else the request goes to the image's home die, which completes the command as it accepts the request. A request that
finds its home die with a free entry takes it, or counts down the entry that gathers for its image, in a frozen context too, whose
graph is then held; the launched graph gets an entry for every node, those without predecessors READY. A GLAUNCH asks its die for a
launch; it completes as the home die accepts the request, or with GDONE as the graph completes. PLACE grants its dies' cores one by one
to the expert of most counts per core, lays the regions on the dies, and writes their table and the placement registers (R224, R318,
R321, R326, R354, R367, R372, R396, R403). JOIN comes from the header the issuing die read (log 41); that the firmware judges node records too, and leaves cycles
and full dies to the home die, is the model's (log 80). -/
def Obligations.GraphsLaunch : Prop :=
  (∀ (s : State) (k : Nat) (seq : BitVec 32), s.rings k seq → k < 4 → (s.win k).code = 9#16 →
    let image := (s.win k).arg 0
    let refused := ∃ t, exec (.launch k seq) s = .next t ∧ Answered s t k seq 2 [] ∧ t.inside = s.inside
    let waits := fun (t : State) => exec (.launch k seq) s = .next t ∧ t.win k = { s.win k with doorbell := seq } ∧
      (∃ f, (t.ctx k).inFlight = some f ∧ f.code = 9#16 ∧ f.seq = seq) ∧ t.mem = s.mem ∧ t.cores = s.cores ∧ t.dies = s.dies
    (2 ^ 56 ≤ image.toNat ∨ image.toNat % 64 ≠ 0 → refused) ∧
    (image.toNat < 2 ^ 56 → image.toNat % 64 = 0 →
      (∀ f, s.uncopied.loadEx k image.toNat 64 = .error f →
        (f.fatal = true → refused) ∧
        (f.fatal = false → ∃ t r, waits t ∧ t.reqs = s.reqs ∧ (t.ctx k).pending = (s.ctx k).pending ++ [r] ∧ r.fatal = false ∧
          (t.ctx k).heldReqs = (s.ctx k).heldReqs ++ [⟨4, 0, k, image.toNat, (s.win k).arg 1, none, some k⟩])) ∧
      (∀ bs, s.uncopied.loadEx k image.toNat 64 = .ok bs →
        let malformed := hdrOk image.toNat bs = false ∨ s.uncopied.readGraph k image.toNat 4 = .error (.bad 2)
        (malformed → refused) ∧
        (¬malformed → ∃ t, waits t ∧ t.reqs = s.reqs ++
          [⟨(bs.getD 7 0).toNat % 4, (bs.getD 6 0).toNat, k, image.toNat, (s.win k).arg 1, none, some k⟩])))) ∧
  (∀ (s : State) (h w : Nat) (r : LaunchReq) (f : InFlight), r.home = h → s.reqs.head? = some r → r.gdone = none → r.win = some w →
    (s.ctx w).inFlight = some f → s.gathering h r.ctx r.image ≠ none ∨ s.freeEntry h ≠ none →
    ∃ t, exec (.launchRequest h) s = .next t ∧ (t.win w).status = 0 ∧ (t.win w).rseq = f.seq ∧ (t.ctx w).inFlight = none) ∧
  (∀ (s : State) (h e : Nat) (r : LaunchReq), r.home = h → s.reqs.head? = some r → r.gdone = none → r.win = none →
    (∀ l, s.gathering h r.ctx r.image = some (e, l) → 1 < l.count ∨ s.frozen r.ctx = true →
      ∃ t, exec (.launchRequest h) s = .next t ∧ t.reqs = s.reqs.tail ∧
        ∃ o, t.launch? h e = some { l with count := l.count - 1, arg := r.arg, order := o }) ∧
    (s.gathering h r.ctx r.image = none → s.freeEntry h = some e → 1 < r.join →
      ∃ t l, exec (.launchRequest h) s = .next t ∧ t.reqs = s.reqs.tail ∧ t.launch? h e = some l ∧
        l.ctx = r.ctx ∧ l.image = r.image ∧ l.count = r.join - 1 ∧ l.arg = r.arg ∧ l.launched = false)) ∧
  (∀ (s s1 : State) (h e : Nat) (l : LaunchEntry) (ns : List (Nat × Nat)), s.launchable h = [(e, l)] →
    s.launch? h e = some l → l.recs ≠ [] → l.nodes = [] → l.hdr.htab = 0 → (∀ r ∈ l.recs, r.kind = 0) →
    s.reserveNodes l h e 0 l.recs = some (s1, ns) →
    ∃ t, exec (.graphLaunch h) s = .next t ∧ t.launch? h e = some { l with nodes := ns, launched := true, handles := 0, paused := false } ∧
      ns.length = l.recs.length ∧ ns.Nodup ∧
      ∀ (i : Nat) (r : NodeRec) (p : Nat × Nat), l.recs[i]? = some r → ns[i]? = some p →
        p.1 = r.die ∧ s.dep p.1 p.2 = .free ∧
        t.node? p.1 p.2 = some (if r.npred = 0 then { newNode l h e i r with st := .ready, tReady := s.gtc } else newNode l h e i r)) ∧
  (∀ (s : State) (n : Nat) (k : Cmd) (bs : List Byte), s.cmd? k.id = some k → k.owner = .core n → k.opc = 0x91#8 → s.mayStart k = true →
    s.accsDone k = true → k.a.toNat < 2 ^ 56 → k.a.toNat % 64 = 0 → s.uncopied.loadEx k.ctx k.a.toNat 64 = .ok bs →
    ∃ t, exec (.commandStart k.id) s = .next t ∧ t.cores = s.cores ∧ t.mem = s.mem ∧
      t.cmd? k.id = some { k with state := .started, sub := 1 } ∧
      t.reqs = s.reqs ++ [⟨(bs.getD 7 0).toNat % 4, (bs.getD 6 0).toNat, k.ctx, k.a.toNat, k.b, some k.id, none⟩]) ∧
  (∀ (s : State) (n h : Nat) (k : Cmd) (r : LaunchReq), s.cmd? k.id = some k → k.owner = .core n → r.home = h → s.reqs.head? = some r →
    r.gdone = some k.id → r.win = none →
    (k.w3.getLsbD 31 = false → s.gathering h r.ctx r.image ≠ none ∨ s.freeEntry h ≠ none →
      ∃ t, exec (.launchRequest h) s = .next t ∧ t.cmd? k.id = none) ∧
    (∀ e l, k.w3.getLsbD 31 = true → s.gathering h r.ctx r.image = some (e, l) → 1 < l.count →
      ∃ t l1, exec (.launchRequest h) s = .next t ∧ t.cmd? k.id = some k ∧ t.launch? h e = some l1 ∧ l1.count = l.count - 1 ∧
        l1.gdone = l.gdone ++ [k.id])) ∧
  (∀ (s : State) (home e : Nat) (l : LaunchEntry), ∀ i ∈ l.gdone, (s.completeGraph home e l).cmd? i = none) ∧
  (∀ (h : List Nat) (p : Nat),
    let m := coreCounts h p
    m.length = h.length ∧ (∀ x, h.getD x 0 = 0 → m.getD x 0 = 0) ∧ (∀ x, m.getD x 0 ≤ 16) ∧
    ((h.filter fun v => decide (v ≠ 0)).length ≤ p → (∀ x, h.getD x 0 ≠ 0 → 1 ≤ m.getD x 0) ∧ m.sum ≤ p ∧
      (m.sum < p → ∀ x, h.getD x 0 ≠ 0 → m.getD x 0 = 16) ∧
      ∀ x y, h.getD x 0 ≠ 0 → m.getD x 0 < 16 → 1 < m.getD y 0 →
        (x ≤ y → x ≠ y → h.getD x 0 * (m.getD y 0 - 1) < h.getD y 0 * m.getD x 0) ∧
        h.getD x 0 * (m.getD y 0 - 1) ≤ h.getD y 0 * m.getD x 0)) ∧
  (∀ (dies m xs : List Nat), dies ≠ [] →
    let laid := layRegions dies m [] xs
    laid.map (·.1) = xs ∧ (∀ q ∈ laid, q.2.1 ∈ dies ∧ q.2.2.1 + q.2.2.2 ≤ 16 ∧ q.2.2.2 ≤ m.getD q.1 0) ∧
    laid.Pairwise fun p q => p.2.1 = q.2.1 → p.2.2.1 + p.2.2.2 ≤ q.2.2.1) ∧
  (∀ (s : State) (n : Nat) (k : Cmd) (xs ps qs : List Nat) (va : Nat → Nat) (pr : Nat → List Nat), s.cmd? k.id = some k →
    k.owner = .core n → k.opc = 0x90#8 → s.runs k = true → pagesApart (s.pages k.ctx) → k.tlb = [] →
    let pages := s.pages k.ctx
    let count := k.d.toNat
    let dies := (List.range 4).filter fun d => k.w3.getLsbD (28 + d)
    let h := (List.range count).map fun i => leNat (((ps.drop (4 * i)).take 4).map s.mem.read)
    let m := coreCounts h (16 * dies.length)
    let laid := layRegions dies m [] xs
    translateRange pages k.a.toNat Need.read (4 * count) = .ok ps → s.readable ps →
    (h.filter fun v => decide (v ≠ 0)).length ≤ 16 * dies.length → (∀ x, x ∈ xs ↔ x < count ∧ m.getD x 0 ≠ 0) →
    xs.Pairwise (fun x y => m.getD y 0 < m.getD x 0 ∨ (m.getD x 0 = m.getD y 0 ∧ x < y)) →
    (∀ q ∈ laid, translateRange pages (wrapVa (k.b.toNat + (8 * (16 * q.1 + q.2.2.2 - 1) : Nat))) Need.read 8 = .ok (pr q.1) ∧
      s.readable (pr q.1) ∧ leNat ((pr q.1).map s.mem.read) = va q.1 ∧ va q.1 ≠ 0 ∧
      ∃ hd c, s.loadEx k.ctx (va q.1) 64 = .ok hd ∧ s.copyParts k.ctx (recordParts (va q.1) hd) = .ok c) →
    translateRange pages k.c.toNat Need.write (16 * count) = .ok qs → qs.Nodup → s.writable qs →
    ∃ t, exec (.commandComplete k.id) s = .next t ∧ t.cmd? k.id = none ∧ (∀ p, p ∉ qs → t.mem.read p = s.mem.read p) ∧
      qs.map t.mem.read = ((List.range count).flatMap fun x => match laid.find? fun q => decide (q.1 = x) with
        | some q => if q.2.2.2 = 0 then leBytes 16 0 else leBytes 1 q.2.1 ++ leBytes 1 q.2.2.1 ++ leBytes 1 q.2.2.2 ++ leBytes 5 0 ++ leBytes 8 (va x)
        | none => leBytes 16 0) ∧
      ∀ x < count, let r := SMap.get {} (t.ctx k.ctx).regions x
        match laid.find? fun q => decide (q.1 = x) with
        | some q => (r.die, r.base, r.size, r.recVa) = (q.2.1, q.2.2.1, q.2.2.2, va x)
        | none => r.size = 0)

/-- Pre-emption: a node that has waited at priority 3 with no cores makes a node of another context, of the lowest CLASS, stop; once
every member stands at its safe point and what it issued is performed, their images are saved and their cores fall idle; one that has
not saved after 2^24 ticks stops every running node of its context with a fault, and its graphs are cancelled (R328, R329, R398). The victim among equals, the save slots' order and the records of a
time-out follow log 43. -/
def Obligations.Preemption : Prop :=
  ∀ (s : State) (d e : Nat) (x : NodeEntry), s.node? d e = some x →
    (let on := fun (y : NodeEntry) => ∃ n ∈ y.cores, ∃ b ∈ s.blocks d x, ∃ m ∈ b, m / 16 = n / 16
     let victim := fun (v : Nat × Nat × NodeEntry) => (∃ k < 4, k ≠ x.ctx ∧ v ∈ s.running k) ∧ on v.2.2
     s.waits x = true → (4 - x.nr.cls) * 2 ^ s.ageing x.ctx ≤ (s.gtc - x.tReady).toNat → s.coresFor (d, e, x) = none →
     (∀ v, victim v → v.2.2.preemptAt = none) → (∃ v, victim v ∧ s.savable v.2.2 = true) →
     ∃ v t, victim v ∧ s.savable v.2.2 = true ∧ (∀ w, victim w → s.savable w.2.2 = true → v.2.2.nr.cls ≤ w.2.2.nr.cls) ∧
       exec (.autoPreempt d e) s = .next t ∧ t.node? v.1 v.2.1 = some { v.2.2 with preemptAt := some s.gtc } ∧
       ∀ n ∈ v.2.2.cores, (t.core n).preempt = true ∧ (t.core n).pacer.whold = true ∧ (t.core n).regs = (s.core n).regs) ∧
    (∀ s1, x.st = .run → x.preemptAt ≠ none → (∀ n ∈ x.cores, s.atSave n = true ∧ s.flushWaits n = false ∧ (s.core n).ctx = x.ctx) →
      x.cores.Nodup → s.untraced x.ctx → (s.lowSlots x.ctx x.cores.length).length = x.cores.length →
      (x.cores.foldl State.flushCore s).saveMembers d e 0 (x.cores.zip (s.lowSlots x.ctx x.cores.length)) = .ok s1 →
      ∃ t, exec (.preemptSave d e) s = .next t ∧
        t.node? d e = some { x with
          st := .saved, cores := [], slots := s.lowSlots x.ctx x.cores.length, preemptAt := none, tReady := s.gtc, fixed := [] } ∧
        ∀ i n : Nat, x.cores[i]? = some n → (t.core n).run = .idle ∧
          ∃ v i', (s.lowSlots x.ctx x.cores.length)[i]? = some i' ∧ (i', v) ∈ (t.ctx x.ctx).slots ∧
            ((∀ f ∈ s.deferrals, f.filled = none) → v.core.regs = (s.core n).regs) ∧ v.core.preds = (s.core n).preds ∧
            v.core.masks = (s.core n).masks ∧ v.core.mx = (s.core n).mx) ∧
    (∀ asked h g l, x.nr.kind = 0 → x.st = .run → x.preemptAt = some asked → 2 ^ 24 ≤ (s.gtc - asked).toNat → d < 4 →
      s.launchesOf (fun l => decide (l.ctx = x.ctx) && decide (l.count = 0)) = [(h, g)] → s.launch? h g = some l →
      l.ctx = x.ctx → l.count = 0 → (d, e) ∈ l.nodes →
      ∃ t, exec (.preemptTimeout x.ctx) s = .next t ∧ (∀ y, t.node? d e = some y → y.st = .cancelled) ∧
        ∀ v ∈ s.running x.ctx, ∀ n ∈ v.2.2.cores, s.coreRec n 0 0 0xD 0x1900 .fatal none 0xFFFFFFFF 0 0 ∈ (t.ctx x.ctx).pending)

/-! ## The exchange unit -/

/-- The steps of a round on a member: its grants complete its DPOST; at each phase's tick the packets that wait for it leave, or are
lost where the phase is over but for its GUARD; after the last phase every member granted to gets its marker; packets received are
written and acknowledged; acknowledgements and markers are counted; a packet not acknowledged leaves again; a marker missing 2^30 ticks
after the end faults the XWAIT with subcode 0x12, and the late packets of the round are reported. A DPOST opens its round and sends its
row, in whole quanta, to the arbiter; each entry of an XSEND is skipped, held with its DEFER bit set, written locally or sent in its
destination's phase, and its result word counts both; an XWAIT completes with its round's record once the round has ended, every XSEND
of it is complete and every packet is written (R304–R306, R309–R313, R392, R393, R404). How a round closes after a failure is the model's reading (log 36). -/
def Obligations.RoundsRun : Prop :=
  ∀ (s : State) (k gid : Nat),
    let r := s.round k gid
    (∀ c j, c.copyOf = none → r.isOpen = true → r.num = c.round → r.cal.ticks = [] → c.ticks ≠ [] → s.dpostOf k gid = some j → s.traceMode k ≠ 1 →
      ∃ t, exec (.grantSequenceArrival k gid c) s = .next t ∧ t.round k gid = { r with cal := c, posted := true } ∧
        t.cmd? j.id = none ∧ t.mem = s.mem) ∧
    (r.isOpen = true → r.posted = true → r.phase + 1 < r.cal.ticks.length → r.cal.ticks.getD r.phase 0 ≤ s.sysTime →
      ∃ t beats, exec (.phaseStart k gid) s = .next t ∧
        let due := r.queue.filter fun q => decide (q.phase ≤ r.phase)
        let inTime := fun (q : Queued) => decide (s.sysTime + (r.row.map (·.guard)).getD 0 < r.cal.ticks.getD (q.phase + 1) 0)
        let lost := due.filter fun q => !inTime q
        t.round k gid = Round.lose { r with
          phase := r.phase + 1, queue := r.queue.filter fun q => decide (r.phase < q.phase) } lost ∧
        (t.round k gid).sent = lost.foldl (fun a q => a - q.pkt.bytes.length) r.sent ∧
        t.outbox = s.outbox ++ ((due.filter inTime).map fun q => .packet (s.device k gid q.dst) q.dst q.cmd q.pkt) ++ beats ∧
        ∀ b ∈ beats, ∃ m, b = .beat (s.device k gid m) k gid m) ∧
    (r.isOpen = true → r.posted = true → r.ended = false → r.phase + 1 = r.cal.ticks.length → r.cal.ticks.getLastD 0 ≤ s.sysTime →
      ∃ (t : State) (ms : List Nat), exec (.roundEnd k gid) s = .next t ∧ t.round k gid = { r with ended := true } ∧ ms.Nodup ∧
        (∀ m, m ∈ ms ↔ ∃ g ∈ r.cal.grants, g.dst = m) ∧
        t.outbox = s.outbox ++ ms.map fun m => .marker (s.device k gid m) k m gid r.num (SMap.get 0 r.sentTo m)) ∧
    (∀ (p : Packet) pas, p.ctx = k → p.gid = gid → (s.ctx k).recvHold = [] ∨ s.heldBytes k + p.bytes.length ≤ 2 ^ 26 →
      translateRange (s.pages k) p.slot.toNat Need.write p.bytes.length = .ok pas → pas.Nodup →
      (∀ q ∈ pas, s.copying q = false ∧ s.linkFault q = none) →
      ∃ t, exec (.dispatchPacketReceive p) s = .next t ∧ Stored s t pas p.bytes ∧ t.outbox = s.outbox ++ [.ack p] ∧
        t.cores = s.cores ∧ t.cmds = s.cmds ∧
        (t.round k gid).recv = if r.isOpen = true ∧ r.num = p.round then r.recv + p.bytes.length else r.recv) ∧
    (∀ m bytes, r.isOpen = true → ∃ t, exec (.endOfRoundMarker k gid m bytes) s = .next t ∧
      SMap.get 0 (t.round k gid).markers m = bytes + 1 ∧
      (∀ i, i ≠ m → SMap.get 0 (t.round k gid).markers i = SMap.get 0 r.markers i) ∧ t.mem = s.mem) ∧
    (∀ j count, s.cmd? j.id = some j → j.opc = 0x81#8 →
      count + ((s.round j.ctx j.sub).queue.filter fun q => decide (q.cmd = j.id)).length ≤ j.x1 →
      exec (.packetAckReceive j.id count) s = .next { s with
        cmds := s.cmds.map fun i => if i.id = j.id then { i with x1 := i.x1 - count } else i }) ∧
    (∀ v m j p, s.outbox = [.packet v m j.id p] → s.cmd? j.id = some j → 0 < j.x1 →
      exec (.uetRetransmit p) s = .next { s with outbox := [.packet v m j.id p, .packet v m j.id p] }) ∧
    (∀ j, s.cmds = [j] → j.opc = 0x82#8 → j.ctx = k → j.sub = gid → j.list ≠ [] →
      (∃ m ∈ r.cal.senders, SMap.get 0 r.markers m = 0) → r.cal.ticks.getLastD 0 + 2 ^ 30 ≤ s.sysTime →
      exec (.peerLost k gid) s = .next ((s.closeRound k gid).cmdFault j 0x12 none 0) ∧
      ((s.closeRound k gid).round k gid).num = r.num + 1 ∧ ((s.closeRound k gid).round k gid).isOpen = false ∧
      (r.late ≠ 0 → ∃ x ∈ ((s.closeRound k gid).ctx k).pending, x.cause = 0xC1000 ∧ x.restart = r.late)) ∧
    (∀ (n : Nat) (j : Cmd) (pd : List Nat) (pm pc : Nat → List Nat), s.cmd? j.id = some j → j.owner = .core n → j.ctx = k → j.opc = 0x80#8 →
      s.mayStart j = true → s.accsDone j = true → pagesApart (s.pages k) → s.traceMode k ≠ 2 → r.isOpen = false → r.row ≠ none →
      let pages := j.tlb ++ s.pages k
      let g := Group.of (pd.map s.mem.read)
      j.a.toNat < 2 ^ 56 → j.a.toNat % 64 = 0 → j.b.toNat < 2 ^ 56 → j.b.toNat % 4 = 0 → g.ok = true → g.gid = gid →
      s.meetsWindow j j.a.toNat 64 = false → s.meetsWindow j j.b.toNat (4 * g.n) = false →
      translateRange pages j.a.toNat Need.read 64 = .ok pd → s.readable pd →
      (∀ m < g.n, translateRange pages (wrapVa (g.membase + (2 * m : Nat))) Need.read 2 = .ok (pm m) ∧ s.readable (pm m) ∧
        translateRange pages (wrapVa (j.b.toNat + (4 * m : Nat))) Need.read 4 = .ok (pc m) ∧ s.readable (pc m)) →
      let members := (List.range g.n).map fun m => leNat ((pm m).map s.mem.read)
      let quanta := fun (m : Nat) => (leNat ((pc m).map s.mem.read) + 4095) / 4096
      let row : DemandRow :=
        { ctx := k, gid := gid, round := r.num, member := g.self, n := g.n, arb := g.arb, stby := g.stby, exp := g.exp, rate := g.rate
          guard := g.guard, lead := g.lead, counts := (List.range g.n).map fun m => 4096 * quanta m, unused := r.unusedLast }
      let active := if (s.arbiter k gid).takenBy = 0 then g.arb else (s.arbiter k gid).takenBy - 1
      active ≠ g.self →
      ∃ t i, exec (.commandStart j.id) s = .next t ∧ t.cmd? j.id = some i ∧ i.state = .started ∧ t.mem = s.mem ∧
        t.round k gid = { num := r.num, isOpen := true, row := some row, members := members, unusedLast := r.unusedLast } ∧
        t.outbox = s.outbox ++ [.demand members[active]? row]) ∧
    (∀ (n : Nat) (j : Cmd) (pe pd pr ps qs : List Nat), s.cmd? j.id = some j → j.owner = .core n → j.ctx = k → j.sub = gid →
      j.opc = 0x81#8 → s.runs j = true → j.done < j.sendN → s.sendTurn j = true → pagesApart (s.pages k) →
      let pages := j.tlb ++ s.pages k
      let va := wrapVa (j.b.toNat + (16 * j.done : Nat))
      let field := fun (o w : Nat) => leNat (((pe.drop o).take w).map s.mem.read)
      let dst := field 8 2
      let m := dst % 256
      let x := field 10 2
      let (members, self, experts, slots) := (j.list.getD 0 0, j.list.getD 1 0, j.list.getD 2 0, j.list.getD 3 0)
      let t := s.pieceOf j.id j.done
      let next := fun (f : Cmd → Prop) => ∃ i, t.cmd? j.id = some i ∧ i.done = j.done + 1 ∧ f i
      let frame := fun (ws : List Nat) => ∀ p, p ∉ ws → t.mem.read p = s.mem.read p
      translateRange pages va Need.read 16 = .ok pe → s.readable pe →
      (j.w3.getLsbD 28 = true → dst.testBit 15 = false → t.mem = s.mem ∧ t.outbox = s.outbox ∧ next fun i => i.x0 = j.x0 ∧ i.list = j.list) ∧
      ((j.w3.getLsbD 28 = true → dst.testBit 15 = true) → m < members → x < experts → dst / 256 % 128 = 0 →
        translateRange pages (va + 8) Need.write 2 = .ok pd → pd.Nodup → s.writable pd →
        (m ≠ self → m ∈ j.list.drop 4 ∨ s.leftTo r m < j.rowOut → pd.map t.mem.read = leBytes 2 (dst % 2 ^ 15 + 2 ^ 15) ∧ frame pd ∧
          t.outbox = s.outbox ∧ t.round k gid = r ∧ next fun i => i.x0 = j.x0 ∧ i.list = j.list ++ [m]) ∧
        (∀ slot, translateRange pages (wrapVa (slots + (8 * (m * experts + x) : Nat))) Need.read 8 = .ok pr → s.readable pr →
          translateRange pages (field 0 8) Need.read j.rowIn = .ok ps → s.readable ps →
          let out := (j.outRow (ps.map s.mem.read)).1
          slot = wrapVa (leNat (pr.map s.mem.read) + (field 12 4 * j.rowOut : Nat)) →
          (m = self → translateRange pages slot Need.write out.length = .ok qs → (qs ++ pd).Nodup → s.writable qs →
            qs.map t.mem.read = out ∧ pd.map t.mem.read = leBytes 2 (dst % 2 ^ 15) ∧ frame (qs ++ pd) ∧
            t.outbox = s.outbox ∧ next fun i => i.x0 = j.x0 + 1 ∧ i.x1 = j.x1) ∧
          (∀ g, m ≠ self → m ∉ j.list.drop 4 → j.rowOut ≤ s.leftTo r m → out ≠ [] → out.length = j.rowOut → out.length ≤ 4096 →
            r.cal.grants.filter (fun g => decide (g.dst = m)) = [g] → r.phase ≤ g.phase → (∀ q ∈ r.queue, r.phase ≤ q.phase) →
            pd.map t.mem.read = leBytes 2 (dst % 2 ^ 15) ∧ frame pd ∧ t.outbox = s.outbox ∧
            (next fun i => i.x0 = j.x0 + 1 ∧ i.x1 = j.x1 + 1 ∧ i.list = j.list) ∧
            (t.ctx k).xqnan = ((s.ctx k).xqnan || (j.outRow (ps.map s.mem.read)).2) ∧
            t.round k gid = { r with
              used := SMap.put r.used g.phase (SMap.get 0 r.used g.phase + out.length)
              sentTo := SMap.put r.sentTo m (SMap.get 0 r.sentTo m + out.length), sent := r.sent + out.length
              queue := r.queue ++ [⟨g.phase, j.id, m, ⟨k, gid, r.num, g.phase, self, BitVec.ofNat 64 slot, out⟩⟩] })))) ∧
    (∀ (n : Nat) (j : Cmd) (pr : List Nat), s.cmd? j.id = some j → j.owner = .core n → j.ctx = k → j.sub = gid → s.runs j = true →
      let pages := j.tlb ++ s.pages k
      let frame := fun (t : State) => ∀ p, p ∉ pr → t.mem.read p = s.mem.read p
      (j.opc = 0x81#8 → j.done = j.sendN → translateRange pages j.e.toNat Need.write 8 = .ok pr → pr.Nodup → s.writable pr →
        ∃ t, exec (.commandComplete j.id) s = .next t ∧ pr.map t.mem.read = leBytes 4 j.x0 ++ leBytes 4 (j.list.drop 4).length ∧ frame t ∧
          if j.x1 = 0 then t.cmd? j.id = none else ∃ i, t.cmd? j.id = some i ∧ i.done = j.sendN + 1) ∧
      (j.opc = 0x81#8 → j.done = j.sendN + 1 → j.x1 = 0 →
        ∃ t, exec (.commandComplete j.id) s = .next t ∧ t.mem = s.mem ∧ t.cmd? j.id = none) ∧
      (j.opc = 0x82#8 → r.ended = false → exec (.commandComplete j.id) s = .next s) ∧
      (j.opc = 0x82#8 → r.ended = true → (∀ i ∈ s.cmds, i.opc = 0x81#8 → i.ctx = k → i.sub = gid → i.list = []) →
        (∀ m ∈ r.cal.senders, 1 ≤ SMap.get 0 r.markers m ∧ SMap.get 0 r.markers m - 1 ≤ SMap.get 0 r.recvBy m) →
        (∀ p ∈ (s.ctx k).recvHold, ¬(p.gid = gid ∧ p.round = r.num)) → r.late = 0 → r.lost = false →
        translateRange pages j.b.toNat Need.write 64 = .ok pr → pr.Nodup → s.writable pr →
        let granted := (r.cal.grants.map (·.bytes)).sum
        ∃ t, exec (.commandComplete j.id) s = .next t ∧ t.cmd? j.id = none ∧ frame t ∧
          pr.map t.mem.read = leBytes 4 r.num ++ leBytes 2 (r.cal.ticks.length - 1) ++
            leBytes 1 ((s.ctx k).xqnan.toNat + 2 * r.cal.trunc.toNat) ++ leBytes 1 0 ++ leBytes 8 r.sent ++ leBytes 8 r.recv ++
            leBytes 8 (granted - r.sent) ++ leBytes 8 (r.cal.ticks.headD 0) ++ leBytes 8 s.sysTime ++ leBytes 16 0 ∧
          t.round k gid = { num := r.num + 1, row := r.row, members := r.members, unusedLast := granted - r.sent } ∧
          (t.ctx k).xqnan = if j.w3.getLsbD 31 then false else (s.ctx k).xqnan))

/-- An arbiter's calendar serves its demand: in a phase no source sends twice and no destination receives twice, no pair is granted
more than it asked, and every pair exactly that unless 512 phases did not suffice, when TRUNC is set (R307). -/
def Obligations.CalendarsServeDemand : Prop :=
  ∀ (d : List (List Nat)),
    let o := decompose 512 d
    let granted := fun (a b : Nat) =>
      (o.1.map fun p => ((p.grants.filter fun g => decide (g.1 = a ∧ g.2.1 = b)).map fun g => g.2.2).sum).sum
    o.1.length ≤ 512 ∧ (o.2 = true → o.1.length = 512) ∧
    (∀ p ∈ o.1, (p.grants.map fun g => g.1).Nodup ∧ (p.grants.map fun g => g.2.1).Nodup ∧
      ∀ g ∈ p.grants, 0 < g.2.2 ∧ g.2.2 ≤ p.len) ∧
    ∀ a < d.length, ∀ b < d.length, granted a b ≤ (d.getD a []).getD b 0 ∧
      (o.2 = false → granted a b = (d.getD a []).getD b 0)

/-- The arbiter and its standby: a demand row is kept until every member's has come, and then every member gets the grants of one
calendar; the standby gets a copy of each row and of the calendar, keeps them, and after a takeover sends a member whose row it gets
again the grants that the old arbiter made for it; the arbiter beats while no calendar runs, and the standby notes it; after three missed beats the standby takes over and
reports 0x14; a round whose rows differ or are missing for 2^30 ticks is abandoned, the arbiter's own row among the missing too, and its DPOSTs fault with 0x13; a member probes the active arbiter, and the
answer sets TKOFF (R303, R306, R307, R308, R391, R394). What closes a round, and when heartbeats are due, follow the model's reading (log 36), and so
does what the standby does with its copies (log 82). -/
def Obligations.ArbitersGrant : Prop :=
  ∀ (s : State) (k gid : Nat),
    let a := s.arbiter k gid
    (∀ row : DemandRow, row.ctx = k → row.gid = gid → row.mirror = false →
      let old := fun (e : Nat × Calendar) => e.1 = row.member ∧ e.2.round = row.round
      (∀ e, a.takenBy ≠ 0 → a.takenBy ≠ row.member + 1 → a.cals.find? (fun e => decide (e.1 = row.member) && decide (e.2.round = row.round)) = some e →
        exec (.demandRowArrival row) s = .next { s with
          outbox := s.outbox ++ [.grants (s.device k gid row.member) k row.member gid e.2] }) ∧
      ((∀ x ∈ a.rows, ¬(x.member = row.member ∧ x.round = row.round)) → a.takenBy = 0 ∨ (∀ e ∈ a.cals, ¬old e) →
      (s.arbiterHere k gid = none → (s.round k gid).row ≠ none → ∃ t, exec (.demandRowArrival row) s = .next t ∧ t.outbox = s.outbox ∧
        (t.arbiter k gid).rows = a.rows ++ [row]) ∧
      ((s.round k gid).row = none → (∀ x ∈ a.rows, x.mirror = true) → a.takenBy = 0 →
        ∃ t, exec (.demandRowArrival row) s = .next t ∧ (t.arbiter k gid).rows = a.rows ++ [row] ∧
          t.outbox = s.outbox ++ [.mirrorRow (s.device k gid row.stby) { row with mirror := true }]) ∧
      (∀ own, s.arbiterHere k gid = some own → own.ctx = k → own.gid = gid →
        let rows := (a.rows ++ [row]).filter fun x => decide (x.round = own.round)
        (∀ x ∈ rows, sameGroup own x = true) → (∀ m < own.n, ∃ x ∈ rows, x.member = m) → s.traceMode k ≠ 1 →
        let d := decompose 512 (demandMatrix rows own.n)
        let cal := calendarFor own.round (s.sysTime + own.lead) own.rate own.guard d.1 d.2
        let copy := fun (o : Option Nat → Outbound) => if a.takenBy = 0 then [o (s.device k gid own.stby)] else []
        ∃ t, exec (.demandRowArrival row) s = .next t ∧
          t.outbox = s.outbox ++ copy (fun v => .mirrorRow v { row with mirror := true }) ++
            (((List.range own.n).filter fun m => decide (m ≠ own.member)).map fun m => .grants (s.device k gid m) k m gid (cal m)) ++
            copy (fun v => .mirrorCals v k gid ((List.range own.n).map fun m => { cal m with copyOf := some m }))))) ∧
    (∀ c m row, (s.round k gid).row = some row → row.stby = row.member → c.copyOf = some m →
      ∃ t, exec (.grantSequenceArrival k gid c) s = .next t ∧ (m, { c with copyOf := none }) ∈ (t.arbiter k gid).cals ∧
        (t.arbiter k gid).rows = a.rows.filter (fun r => decide (r.round ≠ c.round)) ∧ t.outbox = s.outbox ∧ t.mem = s.mem) ∧
    (∀ own, s.arbiterHere k gid = some own → s.calRuns k gid = false → 1 ≤ s.beatsDue k gid → a.takenBy = 0 →
      ∃ t, exec (.heartbeat k gid) s = .next t ∧ t.outbox = s.outbox ++ [.beat (s.device k gid own.stby) k gid own.stby] ∧
        (t.arbiter k gid) = { a with lastBeat := s.gtc }) ∧
    (∀ row, (s.round k gid).row = some row → s.arbiterHere k gid = none → row.stby = row.member →
      ∃ t, exec (.heartbeat k gid) s = .next t ∧ t.outbox = s.outbox ∧ t.arbiter k gid = { a with lastBeat := s.gtc }) ∧
    (∀ row, (s.round k gid).row = some row → (s.round k gid).isOpen = false → row.ctx = k → row.gid = gid →
      (row.stby = row.member → a.takenBy = 0 → 3 ≤ s.beatsDue k gid → s.calRuns k gid = false →
        ∃ t r, exec (.arbiterTakeover k gid) s = .next t ∧ (t.arbiter k gid).takenBy = row.member + 1 ∧
          t.outbox = s.outbox ++ ((List.range row.n).filter fun m => decide (m ≠ row.member)).map
            (fun m => .takeover (s.device k gid m) k gid m) ∧
          (t.ctx k).pending = (s.ctx k).pending ++ [r] ∧ r.cause = 0xC * 2 ^ 16 + 0x1400 ∧ r.fatal = false) ∧
      (∀ old new, ∃ t r, exec (.takeoverNotice k gid old new) s = .next t ∧ (t.arbiter k gid).takenBy = new + 1 ∧
          t.outbox = s.outbox ++ (if new = row.member then [] else [.ask (s.device k gid new) k gid (s.gtc + s.tkoff)]) ∧
          (t.ctx k).pending = (s.ctx k).pending ++ [r] ∧ r.cause = 0xC * 2 ^ 16 + 0x1400 ∧ r.fatal = false ∧ r.restart = old % 65536 + new % 65536 * 65536)) ∧
    (∀ own num, s.arbiterOf k gid = some own → (∃ x ∈ a.rows, x.round = num) → 2 ^ 30 ≤ (s.gtc - a.firstTick).toNat →
      s.dpostOf k gid = none →
      ∃ t, exec (.roundAbandon k gid num) s = .next t ∧
        (t.arbiter k gid).rows = a.rows.filter (fun x => decide (x.round ≠ num)) ∧
        t.outbox = s.outbox ++ ((List.range own.n).filter fun m => decide (m ≠ own.member)).map fun m =>
          .abandon (s.device k gid m) k gid m) ∧
    (∀ j, s.dpostOf k gid = some j → (s.round k gid).cal.ticks = [] →
      exec (.abandonNotice k gid) s = .next ((s.closeRound k gid).cmdFault j 0x13 none 0) ∧
      (2 ^ 30 ≤ (s.gtc - BitVec.ofNat 64 j.x0).toNat →
        exec (.arbiterAnswersNothing k gid) s = .next ((s.closeRound k gid).cmdFault j 0x13 none 0))) ∧
    (∀ w, (s.round k gid).row = some w → s.activeArb w ≠ w.member →
      (s.probeArb k gid).outbox = s.outbox ++ [.ask (s.device k gid (s.activeArb w)) k gid (s.gtc + s.tkoff)]) ∧
    (∀ remote trip : Word, exec (.tkoffProbe remote trip) s =
      .next { s with tkoff := remote + BitVec.ofNat 64 (trip.toNat / 2) - s.gtc }) ∧
    ∀ m, exec (.timestampedProbe m) s = .next { s with outbox := s.outbox ++ [.probe m (s.gtc + s.tkoff)] }

/-! ## The host and the firmware -/

/-- A command window: writes go into its block; the doorbell of a new number submits it, one during a command in flight or with the
number of the last command is noted only; IDENT and QUERY answer with what they name, SET writes one parameter, and an unknown code,
or one the side-band port refuses, is BADCODE. A host read of HBM leaves by the link, a host write stands in memory, and ECONS frees the slots of the notices it
consumes (R350–R352, R354, R355, R359, R366, R408). Answers no rule gives, and that a doorbell which R352 discards is noted in DOORBELL,
follow log 45. -/
def Obligations.WindowsAnswer : Prop :=
  (∀ (s : State) (win : Nat) (seq : BitVec 32),
     let w := s.win win
     let p := (w.arg 0).toNat
     let v := w.arg 1
     let gets := fun (i : Instr) (status : Nat) (res : List Word) => ∃ t, exec i s = .next t ∧ Answered s t win seq status res ∧
       t.inside = s.inside
     let sets := fun (i : Instr) (u : State) => ∃ t, exec i s = .next t ∧ Answered s t win seq 0 [] ∧ t.inside = u.inside
     (∀ off bytes, win < 5 → (win < 4 → s.hostDown = false) →
       ∃ t, exec (.windowRegisterWrite win off bytes) s = .next t ∧ t.inside = s.inside ∧
         (t.win win).block = overlay w.block off bytes ∧
         (t.win win).doorbell = w.doorbell ∧ (t.win win).rseq = w.rseq ∧ (t.win win).status = w.status) ∧
     (win < 4 → (s.busy win = true ∨ seq = w.rseq) → w.code = 1#16 →
       exec (.ident win seq) s = .next (s.setWin win { w with doorbell := seq })) ∧
     (s.rings win seq →
       (w.code = 1#16 → gets (.ident win seq) 0
         [s.devId.zeroExtend 64, s.fwVersion, 0x8000000000#64, BitVec.ofNat 64 (min Config.cxlBytes 0x40000000000), BitVec.ofNat 64 win]) ∧
       (w.code = 2#16 → w.set = false →
         (p = 0 → gets (.query win seq) 0 [s.tkoff]) ∧ (p = 1 → gets (.query win seq) 0 [BitVec.ofNat 64 (s.ctx win).ageing]) ∧
         (p = 2 → gets (.query win seq) 0 [(s.ctx win).saveBase]) ∧ (p = 4 → gets (.query win seq) 0 [s.devId.zeroExtend 64]) ∧
         (0x100 ≤ p → p < 0x114 → gets (.query win seq) 0 [SMap.get 0#64 s.monitors (p - 0x100)]) ∧
         (0x114 ≤ p ∨ (4 < p ∧ p < 0x100) → gets (.query win seq) 2 [])) ∧
       (w.code = 2#16 → w.set = true →
         (p = 0 → sets (.querySetTkoff win seq) { s with tkoff := v }) ∧
         (p = 1 → v.toNat ≤ 40 → sets (.querySetAgeing win seq) (s.updCtx win fun x => { x with ageing := v.toNat })) ∧
         (p = 1 → 40 < v.toNat → gets (.querySetAgeing win seq) 2 []) ∧
         (p = 2 → v.toNat % 65536 = 0 → v.toNat < 2 ^ 56 → s.launchedIn (· == win) = false →
           sets (.querySetSaveArea win seq) (s.updCtx win fun x => { x with saveBase := v })) ∧
         (p = 3 → v = 1#64 → (s.ctx win).saveBase ≠ 0#64 →
           ∃ t, exec (.querySetPreempt win seq) s = .next t ∧ Answered s t win seq 0 [] ∧ t.mem = s.mem ∧
             ∀ d e x, s.running win = [(d, e, x)] → s.savable x = true → d < 4 → s.node? d e = some x →
               t.node? d e = some { x with preemptAt := some s.gtc } ∧ ∀ n ∈ x.cores, (t.core n).preempt = true) ∧
         (p = 4 → v.toNat < 65536 → s.launchedIn (fun _ => true) = false →
           sets (.querySetDeviceId win seq) { s with devId := v.truncate 16 })) ∧
       (win < 4 → w.code = 0#16 ∨ 0x10 ≤ w.code.toNat → gets (.badcode win seq) 1 [])) ∧
     (win = 4 → sideBand w = false → gets (.badcode win seq) 1 [])) ∧
  (∀ (s : State) (pa len : Nat), s.hostDown = false → pa + len ≤ 0x8000000000 → (∀ i < len, s.copying (pa + i) = false) →
    exec (.hostMemRead (Config.hostBase + pa) len) s = .next { s with outbox := s.outbox ++
      [.hostData pa (s.mem.readBytes pa len) ((List.range len).any fun i => s.poisoned (pa + i))] }) ∧
  (∀ (s : State) (pa : Nat) (bytes : List Byte), s.hostDown = false → pa + bytes.length ≤ 0x8000000000 →
    (∀ i < bytes.length, s.copying (pa + i) = false) →
    ∃ t, exec (.hostMemWrite (Config.hostBase + pa) bytes) s = .next t ∧ t.mem.readBytes pa bytes.length = bytes ∧
      (∀ a, ¬(pa ≤ a ∧ a < pa + bytes.length) → t.mem.read a = s.mem.read a) ∧ { t with mem := s.mem, poison := s.poison } = s) ∧
  (∀ (s : State) (k : Nat) (v : BitVec 32), k < 4 → s.hostDown = false → ((s.win k).eprod - v).toNat ≤ 60 →
    let read := (s.ctx k).evCount - (s.ctx k).evHeld.length - ((s.win k).eprod - v).toNat
    ∃ t, exec (.econsWrite k v) s = .next t ∧ (t.win k).econs = v ∧
      (t.ctx k).ring.notices = (s.ctx k).ring.notices.filter fun p => decide (read ≤ p.2))

/-- The mapping commands: MAP makes each address of its range translate to the address at the same distance in its physical range,
and empties the presence words of a P range; UNMAP makes them miss; INVAL keeps every translation; PIN and UNPIN set and clear PIN;
all leave every other address's translation as it was; MAP, UNMAP and INVAL of a range with a pinned page are refused without FORCE. LOADGRAPH maps an image's sections onto
frames and fills them, or answers that the image is malformed or the frames too few. A change takes effect at once, and its command
completes once nothing uses the entries it removed (R95, R96, R111, R140, R141, R333, R354, R357, R372). The frames follow log 47, and
MAP over the firmware's own is log 76; who uses a removed entry is log 46, and a host address of 2^52 or more is log 79. -/
def Obligations.MappingsChange : Prop :=
  (∀ (s : State) (k : Nat) (seq : BitVec 32), s.rings k seq → k < 4 →
    let w := s.win k
    let force := w.flags.getLsbD 1
    let va := (w.arg 0).toNat
    let ready := fun (code len size : Nat) => w.code.toNat = code ∧ s.rangeOk k va len size = true
    let unused := fun len => s.noUsers k (s.touched k va len)
    let loose := fun len => force = true ∨ (s.touched k va len).all (fun p => !p.pin) = true
    let elsewhere := fun (t : State) (len : Nat) => ∀ x need, ¬(va ≤ x ∧ x < va + len) →
      translate (t.pages k) x need = translate (s.pages k) x need
    let gone := fun (t : State) (len : Nat) => ∀ i < len, ∀ need, translate (t.pages k) (va + i) need = .error ⟨6, 1, false, va + i⟩
    (∀ bits, let pa := (w.arg 1).toNat
      let len := (w.arg 2).toNat
      let attr : BitVec 8 := (w.arg 3).truncate 8
      ready 3 len (2 ^ bits) → pageBits (attr.toNat / 16 % 4) = some bits → pa % 2 ^ bits = 0 → pa + len ≤ 2 ^ 52 →
      (attr.getLsbD 6 = true → pa + len ≤ 0x8000000000) →
      (¬loose len → ∃ t, exec (.map k seq) s = .next t ∧ Answered s t k seq 3 [] ∧ t.pages k = s.pages k) ∧ (loose len →
      (reservedFrames pa len = true → ∃ t, exec (.map k seq) s = .next t ∧ Answered s t k seq 4 [] ∧ t.inside = s.inside) ∧
      (reservedFrames pa len = false → unused len → ∃ t, exec (.map k seq) s = .next t ∧ Answered s t k seq 0 [] ∧ elsewhere t len ∧
        (∀ i < len, attr.getLsbD 0 = true → attr.getLsbD 1 = true → paExists (pa + i) = true →
          translate (t.pages k) (va + i) Need.read = .ok (pa + i)) ∧
        (attr.getLsbD 6 = true → ∀ i < len, t.isFull (pa + i) = false)))) ∧
    (let len := (w.arg 1).toNat
     (ready 4 len 65536 → loose len → unused len → ∃ t, exec (.unmap k seq) s = .next t ∧ Answered s t k seq 0 [] ∧ elsewhere t len ∧
       gone t len) ∧
     (ready 4 len 65536 → loose len → ¬unused len → ∃ t f, exec (.unmap k seq) s = .next t ∧ elsewhere t len ∧ gone t len ∧
       (t.ctx k).inFlight = some f ∧ f.code = 4#16 ∧ f.seq = seq ∧ t.win k = { w with doorbell := seq }) ∧
     (ready 5 len 65536 → loose len → unused len →
       ∃ t, exec (.inval k seq) s = .next t ∧ Answered s t k seq 0 [] ∧ t.pages k = s.pages k) ∧
     (ready 6 len 65536 → unused len → ∃ t, exec (.pin k seq) s = .next t ∧ Answered s t k seq 0 [] ∧
       t.pages k = (s.pages k).map fun p => if p.touches va len then { p with attr := p.attr ||| 0x80#16 } else p) ∧
     (ready 7 len 65536 → unused len → ∃ t, exec (.unpin k seq) s = .next t ∧ Answered s t k seq 0 [] ∧
       t.pages k = (s.pages k).map fun p => if p.touches va len then { p with attr := p.attr &&& 0xFF7F#16 } else p) ∧
     (ready 4 len 65536 → ¬loose len → ∃ t, exec (.unmap k seq) s = .next t ∧ Answered s t k seq 3 [] ∧ t.pages k = s.pages k) ∧
     (ready 5 len 65536 → ¬loose len → ∃ t, exec (.inval k seq) s = .next t ∧ Answered s t k seq 3 [] ∧ t.pages k = s.pages k))) ∧
  (∀ (s : State) (k : Nat) (seq : BitVec 32) (f : InFlight), k < 4 → (s.ctx k).inFlight = some f → f.seq = seq → s.stillUsed f = false →
    ∀ c ∈ ([(3, .map k seq), (4, .unmap k seq), (5, .inval k seq), (6, .pin k seq), (7, .unpin k seq), (8, .loadgraph k seq [])] :
      List (Nat × Instr)), f.code.toNat = c.1 →
      ∃ t, exec c.2 s = .next t ∧ (t.ctx k).inFlight = none ∧ (t.win k).status = 0 ∧ (t.win k).rseq = seq ∧ t.pages k = s.pages k ∧
        ∀ (i : Nat) (v : Word), i < 7 → f.res[i]? = some v → SMap.get 0#64 (t.win k).res i = v) ∧
  (∀ (s : State) (k : Nat) (seq : BitVec 32) (frames : List Nat), s.rings k seq → k < 4 → (s.win k).code = 8#16 →
    let w := s.win k
    let host := hostPa (w.arg 0)
    let answers := fun status => ∃ t, exec (.loadgraph k seq frames) s = .next t ∧ Answered s t k seq status [] ∧ t.inside = s.inside
    (2 ^ 52 ≤ (w.arg 0).toNat ∨ ziSections (s.mem.readBytes host 112) (w.arg 1).toNat = none → answers 2) ∧
    ∀ secs, (w.arg 0).toNat < 2 ^ 52 → ziSections (s.mem.readBytes host 112) (w.arg 1).toNat = some secs →
      let span := fun (x : Nat × Nat × Nat × Nat) => 65536 * framesOf x.2.2.1
      let old := secs.flatMap fun x => s.touched k x.1 (span x)
      let whole := ∀ x ∈ secs, ∀ p ∈ s.touched k x.1 (span x), p.within x.1 (span x) = true
      let chosen := s.framesFor ((secs.map fun x => framesOf x.2.2.1).sum) frames
      (¬whole → answers 2) ∧ (whole → chosen = none → answers 4) ∧
      (whole → chosen ≠ none → ¬s.noUsers k old → ∃ t f, exec (.loadgraph k seq frames) s = .next t ∧
        (t.ctx k).inFlight = some f ∧ f.code = 8#16 ∧ f.seq = seq ∧ t.win k = { w with doorbell := seq }) ∧
      (whole → chosen ≠ none → s.noUsers k old → ∃ t, exec (.loadgraph k seq frames) s = .next t ∧
        Answered s t k seq 0 [BitVec.ofNat 64 (leNat (s.mem.readBytes (host + 8) 8))] ∧
        ∀ j va off size attr, secs[j]? = some (va, off, size, attr) → ∀ i < size, ∃ pa, pa < 0x8000000000 ∧
          translate (t.pages k) (va + i) {} = .ok pa ∧
          (old = [] → t.mem.read pa = if j < 5 then s.mem.read (host + off + i) else 0)))

/-- CANCEL ends every node of the graphs it names; RESET of level 0 leaves its context, or by the side-band port every context,
without graphs and mappings; RESET of level 1 leaves the module as after reset, the firmware from flash, the commands that were in
flight answered with ABORTED; ATTEST answers BADSIG while the certificates stand refused, and else reports the nonce, identity,
version, measurements and certificates with both signatures over them, into host memory or the side-band response; STOPAT arms a stop,
at whose tick the module stops and the scan area is written; power-on takes a patch only when it is signed and fresh (R354, R359, R360,
R361, R371, R372, R421). The memory kept by a reset follows log 48; that the answers stand after a reset follows log 45; the contexts
of a side-band RESET follow log 77, the report's layout log 78, host addresses log 79; the stop comes before the acts of its tick
(log 50). -/
def Obligations.FirmwareActs : Prop :=
  (∀ (s : State) (k : Nat) (seq : BitVec 32), s.rings k seq → k < 4 → (s.win k).code = 0xA#16 →
    let image := ((s.win k).arg 0).toNat
    let named := s.launchesOf fun l => decide (l.ctx = k) && decide (l.image = image) && decide (l.count = 0)
    (2 ^ 56 ≤ image ∨ image % 64 ≠ 0 → ∃ t, exec (.cancel k seq) s = .next t ∧ Answered s t k seq 2 [] ∧ t.inside = s.inside) ∧
    (image < 2 ^ 56 → image % 64 = 0 → ∃ t, exec (.cancel k seq) s = .next t ∧ (t.win k).status = 0 ∧ (t.win k).rseq = seq ∧
      ∀ d e l, named = [(d, e)] → s.launch? d e = some l → l.count = 0 →
        ∀ p ∈ l.nodes, ∀ y, t.node? p.1 p.2 = some y → y.st = .cancelled ∨ y.st = .done)) ∧
  (∀ (s : State) (win : Nat) (seq : BitVec 32), s.rings win seq → (s.win win).code = 0xD#16 →
    let level := (s.win win).arg 0
    let done := fun (t : State) => (t.win win).status = 0 ∧ (t.win win).rseq = seq
    let aborted := fun (t : State) => ∀ m f, m < 4 → s.hostDown = false → (s.ctx m).inFlight = some f →
      (t.win m).status = 6 ∧ (t.win m).rseq = f.seq
    (level ≠ 0#64 → level ≠ 1#64 → ∃ t, exec (.resetContext win seq) s = .next t ∧ Answered s t win seq 2 [] ∧ t.inside = s.inside) ∧
    (level = 0#64 → win < 4 → ∃ t, exec (.resetContext win seq) s = .next t ∧ done t ∧
      t.pages win = [] ∧ t.launchesOf (fun l => decide (l.ctx = win)) = [] ∧ (∀ r ∈ t.reqs, r.ctx ≠ win) ∧
      (t.ctx win).ring = {} ∧ (t.ctx win).pending = [] ∧ (t.ctx win).hurdles = [] ∧ (t.ctx win).regions = [] ∧
      (t.ctx win).slots = []) ∧
    (level = 0#64 → win = 4 → ∃ t, exec (.resetContext win seq) s = .next t ∧ done t ∧ aborted t ∧
      ∀ m < 4, t.pages m = [] ∧ (t.ctx m).hurdles = [] ∧ t.launchesOf (fun l => decide (l.ctx = m)) = []) ∧
    (level = 1#64 → ∃ t, exec (.resetModule win seq) s = .next t ∧ done t ∧ aborted t ∧ t.cores = [] ∧ t.cmds = [] ∧ t.ctxs = [] ∧
      t.dies = [] ∧ t.gtc = 0 ∧ t.tkoff = 0 ∧ t.stopAt = none ∧ t.hostDown = false ∧ t.memPorts = [] ∧
      t.monitors = s.monitors ∧ (t.throttled = true ↔ (∃ j < 5, 105 * 256 < (SMap.get 0#64 s.monitors (4 * j)).toInt) ∨
        3000 < ((List.range 5).map fun j => (SMap.get 0#64 s.monitors (4 * j + 3)).toNat).sum) ∧
      (∀ hot : Prop, (hot ↔ ∃ j < 5, 115 * 256 ≤ (SMap.get 0#64 s.monitors (4 * j)).toInt) →
        (hot → t.power = .shut) ∧ (¬hot → t.power = .on)) ∧
      (s.hostDown = false → t.mem = s.mem) ∧
      t.fwVersion = (if s.flash.present = true ∧ s.flash.signed = true ∧ s.flash.fresh = true then s.flash.version
        else Config.romVersion) ∧
      (∀ m, m ≠ win → 4 ≤ m ∨ (s.ctx m).inFlight = none ∨ s.hostDown = true → t.win m = {}))) ∧
  (∀ (s : State) (win : Nat) (seq : BitVec 32), s.rings win seq → (s.win win).code = 0xE#16 →
    let w := s.win win
    let hosts := (w.arg 0).toNat < 2 ^ 52 ∧ (w.arg 1).toNat < 2 ^ 52
    let body := fun (nonce : List Byte) => nonce ++ leBytes 2 s.devId.toNat ++ leBytes 8 s.fwVersion.toNat ++
      (s.measures.flatMap fun m => leBytes 1 m.1 ++ leBytes 48 m.2.toNat) ++ Config.identityCerts
    let report := fun (nonce : List Byte) => body nonce ++ Config.rsaSign (body nonce) ++ Config.slhSign (body nonce)
    (s.certsRefused = false → win < 4 → ¬hosts →
      ∃ t, exec (.attest win seq) s = .next t ∧ Answered s t win seq 2 [] ∧ t.inside = s.inside) ∧
    (s.certsRefused = true →
      ∃ t, exec (.attest win seq) s = .next t ∧ Answered s t win seq 5 [] ∧ t.inside = s.inside) ∧
    (s.certsRefused = false → win = 4 → ∃ t nonce, exec (.attest win seq) s = .next t ∧
      nonce.length = 48 ∧ (∀ i < 48, nonce[i]? = w.block[8 + i]?) ∧
      t.outbox = s.outbox ++ [.report (report nonce)] ∧ Answered s t win seq 0 [BitVec.ofNat 64 (report nonce).length]) ∧
    (s.certsRefused = false → win < 4 → hosts →
      let r := report (s.mem.readBytes (hostPa (w.arg 0)) 48)
      ∃ t, exec (.attest win seq) s = .next t ∧ Answered s t win seq 0 [BitVec.ofNat 64 r.length] ∧
        t.mem.readBytes (hostPa (w.arg 1)) r.length = r ∧
        ∀ a, ¬(hostPa (w.arg 1) ≤ a ∧ a < hostPa (w.arg 1) + r.length) → t.mem.read a = s.mem.read a)) ∧
  (∀ (s : State) (win : Nat) (seq : BitVec 32), s.rings win seq → (s.win win).code = 0xF#16 →
    let at_ := (s.win win).arg 0
    ∃ t, exec (.stopat win seq) s = .next t ∧ Answered s t win seq 0 [BitVec.ofNat 64 Config.scanArea] ∧
      t.inside = { s with stopAt := some (if s.gtc.toNat < at_.toNat then at_ else s.gtc + 1) }.inside) ∧
  (∀ s : State,
    (s.stopAt = none → exec .stopTick s = .next s) ∧
    (∀ at_ : Word, s.stopAt = some at_ →
      (s.gtc.toNat < at_.toNat → exec .stopTick s = .next s) ∧
      (at_.toNat ≤ s.gtc.toNat → ∃ t, exec .stopTick s = .next t ∧ t.gtc = at_ ∧ t.power = .stopped ∧ t.scanDone = true ∧
        t.mem.readBytes Config.scanArea 16 = leBytes 8 at_.toNat ++ leBytes 8 1 ∧
        { t with gtc := s.gtc, power := s.power, scanDone := s.scanDone, mem := s.mem, free := s.free } = s))) ∧
  (∀ (s : State) (img : PatchImage) (certs : Bool), ∃ t, exec (.powerOn img certs) s = .next t ∧
    t.fwVersion = (if img.present = true ∧ img.signed = true ∧ img.fresh = true then img.version else Config.romVersion) ∧
    t.certsRefused = !certs ∧ t.cores = [] ∧ t.cmds = [] ∧ t.ctxs = [] ∧ t.dies = [] ∧ t.wins = [] ∧ t.gtc = 0 ∧ t.power = .on ∧
    t.mem = s.mem)

/-- A snapshot: while a node of its context runs, SNAPSHOT only holds dispatch; then it copies the area's ranges into OWN, raises
SEQ and sends OWN to the partner, and completes with SEQ once the partner has acknowledged; the partner puts a shard into the slot
PSEQ does not name, and sends the one it names; RESTORE writes the ranges back (R411, R412, R413). That SEQ rises by one is the
model's reading (log 49). -/
def Obligations.Snapshots : Prop :=
  (∀ (s : State) (k : Nat) (seq : BitVec 32) (a : SnapArea), s.rings k seq → k < 4 → (s.ctx k).inFlight = none →
    let w := s.win k
    let area := (w.arg 0).toNat
    s.snapArea k area = some a →
    (w.code = 0xB#16 → s.anyRuns k = true →
      ∃ t, exec (.snapshot k seq) s = .next t ∧ (t.ctx k).holdDispatch = true ∧ (t.ctx k).inFlight ≠ none ∧ t.mem = s.mem ∧
        t.outbox = s.outbox) ∧
    (∀ bs u v, w.code = 0xB#16 → s.anyRuns k = false → s.readRanges k a.ranges = .ok bs →
      s.storeNow k (area + 65536) bs = .ok u → u.storeNow k (area + 8) (leBytes 8 (a.seq + 1)) = .ok v →
      ∃ t, exec (.snapshot k seq) s = .next t ∧ (t.ctx k).holdDispatch = true ∧ t.mem = v.mem ∧
        t.outbox = s.outbox ++ [.shard ((w.arg 1).truncate 16) k (w.arg 0) (BitVec.ofNat 64 (a.seq + 1)) bs]) ∧
    (∀ remote v, w.code = 0xC#16 → (w.arg 1).toNat ≠ s.devId.toNat → remote.bytes.length = a.slen →
      (∀ r ∈ a.ranges, s.rangeMapped k Need.write r.1 r.2 = true) → s.writeRanges k a.ranges remote.bytes = .ok v →
      ∃ t, exec (.restore k seq remote) s = .next t ∧ Answered s t k seq 0 [remote.seq] ∧ t.mem = v.mem)) ∧
  (∀ (s : State) (k : Nat) (f : InFlight) (a : SnapArea), (s.ctx k).inFlight = some f → f.code = 0xB#16 → f.args.getD 2 0 = 1#64 →
    s.snapArea k (f.args.getD 0 0).toNat = some a →
    ∃ t, exec (.pseqAcknowledged k) s = .next t ∧ (t.ctx k).inFlight = none ∧ (t.ctx k).holdDispatch = false ∧
      (t.win k).status = 0 ∧ (t.win k).rseq = f.seq ∧ SMap.get 0#64 (t.win k).res 0 = BitVec.ofNat 64 a.seq) ∧
  (∀ (s : State) (k : Nat) (area seq : Word) (a : SnapArea), s.snapArea k area.toNat = some a →
    (∀ shard pas qs, a.slen = shard.length →
      translateRange (s.pages k) (area.toNat + a.peer + (1 - a.pseq % 2) * a.slen) Need.write shard.length = .ok pas →
      translateRange (s.pages k) (area.toNat + 0x20) Need.write 8 = .ok qs → (pas ++ qs).Nodup →
      (∀ p ∈ pas ++ qs, s.linkFault p = none) →
      ∃ t, exec (.partnerShardReceive k area seq shard) s = .next t ∧ Stored s t (pas ++ qs) (shard ++ leBytes 8 seq.toNat) ∧
        t.outbox = s.outbox ++ [.pseqAck k seq]) ∧
    (∀ device bs u, s.uncopied.load ⟨k, none, none⟩ 1#2 (area.toNat + a.peer + a.pseq % 2 * a.slen) a.slen = .ok (u, bs) →
      exec (.partnerSlotRead k area device) s = .next { s with
        outbox := s.outbox ++ [.shard device k area (BitVec.ofNat 64 a.pseq) bs] }))

/-! ## Links, soft errors, temperature -/

/-- What befalls the module from outside its programs. Links: a link down is noted, up again reports 0x0F subcode 4 to every
context; a lost expander and poison of the CXL tier stand from then on; a snoop takes the newer copy of a line, and brings the host's stores. Soft errors: a
corrected one is counted, the 256th of a pseudo-channel within 2^30 ticks starts its copy to a spare, and its end is reported; an
uncorrectable one poisons its sector, marks its accumulator word, whose next read faults, or faults its core. Temperature: the monitors move, ACLK is lowered by them, and 115 °C shuts
the module down (R101, R362, R407–R410, R420). Which contexts get the records, and the sliding window of corrected errors, are the
model's reading (logs 51, 52); the host's stores are log 81; the walker is log 55. -/
def Obligations.LinksAndErrors : Prop :=
  ∀ s : State,
    let reported := fun (t : State) (cause : Nat) => ∀ k < 4, ∃ r, (t.ctx k).pending = (s.ctx k).pending ++ [r] ∧
      r.cause = cause ∧ r.fatal = false
    let reached := fun (u : State) => ∀ n < 64, ∀ a ∈ (u.core n).accs, ∀ p ∈ a.pas, u.linkFault p = none
    let poisons := fun (i : Instr) (pa : Nat) (kind : Poison) => ∃ t, exec i s = .next t ∧ t.mem = s.mem ∧ t.cores = s.cores ∧
      ∀ a, SMap.get .clean t.poison a = if a = pa / 128 then kind else SMap.get .clean s.poison a
    let copies := fun (i : Instr) (c : Nat) => ∃ t, exec i s = .next t ∧ (SMap.get {} t.channels c).copying = true ∧
      SMap.get 0 t.spares (c / 512) = SMap.get 0 s.spares (c / 512) + 1 ∧ t.mem = s.mem ∧ t.cores = s.cores
    let spare := fun (c : Nat) => (SMap.get {} s.channels c).copying = false ∧ SMap.get 0 s.spares (c / 512) < 2
    let faults := fun (i : Instr) (n sub : Nat) => ∃ t, exec i s = .next t ∧ ∃ r ∈ (t.ctx (s.core n).ctx).pending,
      r.fatal = true ∧ r.cause = causeWord (s.core n).hm 0xE (256 * sub)
    (s.hostDown = false → reached { s with hostDown := true } → exec .hostLinkDown s = .next { s with hostDown := true }) ∧
    (s.hostDown = true → ∃ t, exec .hostLinkUp s = .next t ∧ t.hostDown = false ∧ t.mem = s.mem ∧ t.cores = s.cores ∧
      reported t 0xF0400) ∧
    (∀ p, let x := s.memPort p
      (p < 4 → x.down = false → x.lost = false →
        let u := { s with memPorts := SMap.put s.memPorts p { x with down := true, retrains := 0 } }
        reached u → exec (.memoryPortLinkDown p) s = .next u) ∧
      (x.down = true →
        exec (.memoryPortLinkUp p) s = .next { s with memPorts := SMap.put s.memPorts p { x with down := false } } ∧
        exec (.expanderLost p) s = .next { s with memPorts := SMap.put s.memPorts p ⟨false, 3, true⟩ })) ∧
    (∀ pa, inCxl pa = true → poisons (.expanderPoison pa) pa .expander) ∧
    (∀ pa store, s.hostDown = false → inHost pa = true → ∃ t, exec (.cxlCacheSnoop pa store) s = .next t ∧
      (∀ e, e ∈ t.hostOld ↔ e ∈ s.hostOld ∧ e.1 / 128 ≠ pa / 128) ∧
      (store = none → { t with hostOld := s.hostOld } = s) ∧
      (∀ bs, store = some bs → { t with hostOld := s.hostOld, mem := s.mem, poison := s.poison } = s ∧
        ∀ a, t.mem.read a = if pa ≤ a ∧ a / 128 = pa / 128 then bs.getD (a - pa) (s.mem.read a) else s.mem.read a)) ∧
    (∀ e : SoftError,
      (softCode e.place ≠ none → (∀ k ∈ s.errorCtxs e, s.untraced k) →
        ∃ t, exec (.correctedError e) s = .next t ∧ t.corrected = s.corrected + 1 ∧ t.mem = s.mem ∧ t.cores = s.cores) ∧
      (e.place = SoftPlace.hbm → inHbm e.pa = true → (∀ k ∈ s.errorCtxs e, s.untraced k) → spare (channelCode e.pa) →
        255 ≤ ((SMap.get {} s.channels (channelCode e.pa)).recent.filter fun t => decide ((s.gtc - t).toNat ≤ 2 ^ 30)).length →
        copies (.correctedError e) (channelCode e.pa)) ∧
      (e.place = SoftPlace.hbm → inHbm e.pa = true → spare (channelCode e.pa) →
        poisons (.uncorrectableError e) e.pa .soft ∧ copies (.uncorrectableError e) (channelCode e.pa)) ∧
      (e.place = SoftPlace.l2 true → paExists e.pa = true → poisons (.uncorrectableError e) e.pa .soft) ∧
      (e.place = SoftPlace.l2 false ∨ e.place = SoftPlace.tlb → exec (.uncorrectableError e) s = .next s) ∧
      (∀ n, (s.core n).run ≠ .idle → s.untraced (s.core n).ctx →
        (e.place = SoftPlace.regs n → faults (.uncorrectableError e) n 4) ∧
        (e.place = SoftPlace.channel n → faults (.uncorrectableError e) n 5)) ∧
      (∀ n key, e.place = SoftPlace.accum n key → ∃ t, exec (.uncorrectableError e) s = .next t ∧ (∀ m, m ≠ n → t.core m = s.core m) ∧
        { t with cores := s.cores } = s ∧ (∀ y, SMap.get false (t.core n).mx.bad y = if y = key then true else SMap.get false (s.core n).mx.bad y) ∧
        { t.core n with mx := (s.core n).mx } = s.core n)) ∧
    (∀ c, (SMap.get {} s.channels c).copying = true → ∃ t, exec (.channelRemapDone c) s = .next t ∧
      (SMap.get {} t.channels c).copying = false ∧ (SMap.get {} t.channels c).remapped = true ∧ reported t 0xE0700 ∧
      t.mem = s.mem ∧ t.cores = s.cores) ∧
    (∀ d temp m, d < 5 → ∃ t, exec (.thermalThrottle d temp m) s = .next t ∧
      (∀ i, SMap.get 0#64 t.monitors i = if i = 4 * d then temp else if i = 4 * d + 1 then m.supply
        else if i = 4 * d + 2 then m.osc else if i = 4 * d + 3 then m.power else SMap.get 0#64 s.monitors i) ∧
      (t.power = if 115 * 256 ≤ temp.toInt then .shut else s.power) ∧
      (t.throttled = true ↔ (∃ j < 5, 105 * 256 < (SMap.get 0#64 t.monitors (4 * j)).toInt) ∨
        3000 < ((List.range 5).map fun j => (SMap.get 0#64 t.monitors (4 * j + 3)).toNat).sum) ∧
      { t with monitors := s.monitors, throttled := s.throttled, power := s.power } = s) ∧
    (∀ d temp, d < 5 → 115 * 256 ≤ temp.toInt → ∃ t, exec (.thermalShutdown d temp) s = .next t ∧ t.power = .shut ∧
      { t with power := s.power, monitors := s.monitors } = s) ∧
    (∀ n, 65536 ≤ (s.core n).winClk → s.traceOn (s.core n).ctx 9 = false →
      exec (.walkerWindow n) s = .next (s.setCore n { s.core n with chanWin := [], winClk := 0 }))

/-! ## The machine as a whole -/

/-- A step runs the decoded instruction. With nothing else due, time passes (an unstated time: log 4) and the core whose turn it is
runs the instruction that the bytes at its SOFF decode to, the group of which it then holds (R145); a turn of the agenda lets its ticks
pass and runs its core's instruction in the same way, or its event. Time moves no register and no memory while no fault record waits:
but for the clock it only notes which commands wait, and sends the probes of the members of exchange groups (R303). That a command
whose later words lie past STRMLEN runs is the model's (log 62), and so is which stores a held group misses (log 60). -/
def Obligations.StepRunsTheDecoded : Prop :=
  (∀ (s u : State) (n : Nat) (i : Instr) (group : List Byte) (len : Nat), s.power = .on →
    (s.agenda = [] ∧ n = s.cur ∧ u = { idleTick s with cur := n }) ∨
      (∃ dt r, s.agenda = ⟨dt, .core n⟩ :: r ∧ u = { tick dt { s with agenda := r } with cur := n }) →
    stopDue u = false →
    let c := u.core n
    let bs := group.drop (4 * (c.soff.toNat % 4))
    c.issues = true → c.stopsAtEntry c.atBoundary = false → c.soff.toNat < c.stream.2 →
    u.fetchGroup n c.soff.toNat = .ok group → (isCmdBytes bs = true → c.soff.toNat % 4 = 0) → decode bs = .ok (i, len) →
    step s = exec i { u.setCore n { c with group := some (c.soff.toNat / 4, group) } with cur := n }) ∧
  (∀ (s : State) (i : Instr) (dt : Nat) (r : List Turn), s.power = .on → s.agenda = ⟨dt, .event i⟩ :: r → isFetched i = false →
    stopDue (tick dt { s with agenda := r }) = false → step s = exec i (tick dt { s with agenda := r })) ∧
  (∀ (s : State) (dt : Nat), s.recsPending = false → (tick dt s).gtc = s.gtc + BitVec.ofNat 64 dt ∧
    { tick dt s with gtc := s.gtc, cmds := s.cmds, ctxs := s.ctxs, outbox := s.outbox } = s ∧
    ∀ k, k < 4 → (s.ctx k).rounds = [] → (tick dt s).ctx k = s.ctx k)

/-- Words written out from the encodings decode to the instructions they stand for. -/
def Obligations.WordsDecode : Prop :=
  let word := fun (w : BitVec 32) (i : Instr) => decode (bytesOf [w]) = .ok (i, 1)
  word 0x03108300 (.add 49 2 3) ∧ word 0x306E0003 (.shli 6 56 3) ∧ word 0x3C2FFF9C (.li 2 (-100#20)) ∧
  word 0x0C5192C8 (.bfxu 5 6 11 8) ∧ word 0x00404244 (.cmpLtu 4 1 2) ∧ word 0x04414612 (.sel 4 5 6 0b10010#5) ∧
  word 0x08108330 (.memxLd 1 2 3 3 0 0) ∧ word 0x44912001 (.pld 9 4 2 1) ∧ word 0x14310599 (.amoCasD 3 4 5 2 1) ∧
  word 0x527FFFFA (.bnp 3 (-6#21)) ∧ word 0x1D4FFFF4 (.loop 20 (-12#20)) ∧ word 0x58000200 (.wait 0 0 2 0 0) ∧
  word 0x5C50000E (.fenceRel 3) ∧ word 0x5C200007 (.safe 7) ∧ word 0x5C928000 (.mfs 10 0) ∧ word 0x5CF1C283 (.mtst 7 5 3)

/-- What reset leaves (R13, R53, R222, R305, R356, R360): time zero, no context with a mapping, a graph, a fault, a round or a held
request, ageing 16 and no save area in each, every dependence entry free, every window at zero, every core idle, and memory with
nothing listed. That every register, predicate and mask holds zero is the model's choice (log 1). -/
def Obligations.ResetState : Prop :=
  let s := State.reset
  s.gtc = 0 ∧ s.tkoff = 0 ∧ s.devId = 0 ∧ s.power = .on ∧ s.stopAt = none ∧ s.mem = [] ∧ s.mem.wf = true ∧
  (∀ k, (s.ctx k).pages = [] ∧ (s.ctx k).ageing = 16 ∧ (s.ctx k).saveBase = 0 ∧ s.frozen k = false ∧ (s.ctx k).heldReqs = [] ∧
    (s.ctx k).hurdles = [] ∧ s.untraced k ∧ ∀ g, (s.round k g).num = 0 ∧ (s.round k g).isOpen = false) ∧
  (∀ d e, s.dep d e = .free) ∧ (∀ w, s.win w = {}) ∧ (∀ pa, s.isFull pa = false ∧ s.poisoned pa = false) ∧
  (∀ n, (s.core n).run = .idle ∧ (s.core n).epc = 0 ∧ (s.core n).cls = 0 ∧ (s.core n).code = 0 ∧ (s.core n).hm = false ∧
    (s.core n).flags = 0 ∧ (s.core n).accs = [] ∧ (s.core n).pacer.flight = 0 ∧ (s.core n).pacer.whold = false) ∧
  (∀ n r, (s.core n).reg r = 0) ∧ (∀ n p, 0 < p → (s.core n).pred p = false) ∧ (∀ n m, 0 < m → (s.core n).mask m = 0)

/-- Decoding and encoding agree: the words of every well-formed instruction that a control core fetches decode to it, with every
operand at every value its encoding admits, whatever bytes follow. -/
def Obligations.EncodeDecodeAgree : Prop :=
  ∀ (i : Instr) (words : List (BitVec 32)) (rest : List Byte), i.wf = true → encode i = some words →
    decode (bytesOf words ++ rest) = .ok (i, words.length)

/-- Every step keeps memory in its canonical form: addresses strictly rising, no listed byte at its default. The canonical form and
the value of an unlisted byte are the model's choice (log 2). -/
def Obligations.MemoryFormKept : Prop :=
  ∀ s t : State, s.mem.wf = true → step s = .next t → t.mem.wf = true
end

