-- ==== Sys2Proof/Laws/SMap.lean ====
section
/-! SUPPORT. Sparse data by key: reading after a change, and the canonical form kept by every change. -/

set_option Elab.async false

namespace Sys2Proof

variable {α : Type}

theorem SMap.get_put_same (d : α) (m : SMap α) (i : Nat) (v : α) : SMap.get d (SMap.put m i v) i = v := by
  induction m with
  | nil => simp [SMap.put, SMap.get]
  | cons e m ih =>
    obtain ⟨k, w⟩ := e
    simp only [SMap.put]
    split
    · simp [SMap.get, *]
    · split
      · simp [SMap.get]
      · simp [SMap.get, *]

/-- A second put at a key replaces the first. -/
@[simp] theorem SMap.put_put_same (m : SMap α) (i : Nat) (v w : α) : SMap.put (SMap.put m i v) i w = SMap.put m i w := by
  induction m with
  | nil => simp [SMap.put]
  | cons e m ih =>
    obtain ⟨k, x⟩ := e
    by_cases h : i = k
    · simp [SMap.put, h]
    · by_cases h2 : i < k
      · simp [SMap.put, h, h2]
      · simp [SMap.put, h, h2, ih]

theorem SMap.get_put_other (d : α) (m : SMap α) {i j : Nat} (v : α) (h : j ≠ i) :
    SMap.get d (SMap.put m i v) j = SMap.get d m j := by
  induction m with
  | nil => simp [SMap.put, SMap.get, h]
  | cons e m ih =>
    obtain ⟨k, w⟩ := e
    simp only [SMap.put]
    split
    · subst i; simp [SMap.get, h]
    · split
      · simp [SMap.get, h]
      · simp only [SMap.get, ih]

theorem SMap.get_del_same (d : α) (m : SMap α) (i : Nat) : SMap.get d (SMap.del m i) i = d := by
  induction m with
  | nil => rfl
  | cons e m ih =>
    obtain ⟨k, w⟩ := e
    simp only [SMap.del]
    split
    · exact ih
    · simp [SMap.get, *]

theorem SMap.get_del_other (d : α) (m : SMap α) {i j : Nat} (h : j ≠ i) :
    SMap.get d (SMap.del m i) j = SMap.get d m j := by
  induction m with
  | nil => rfl
  | cons e m ih =>
    obtain ⟨k, w⟩ := e
    simp only [SMap.del]
    split
    · subst i; simp [SMap.get, h, ih]
    · simp only [SMap.get, ih]

/-- A read after a store to the same key gives the value stored. -/
@[simp] theorem SMap.get_set_same [DecidableEq α] (d : α) (m : SMap α) (i : Nat) (v : α) :
    SMap.get d (SMap.set d m i v) i = v := by
  unfold SMap.set
  split
  · subst v; exact get_del_same d m i
  · exact get_put_same d m i v

/-- A store leaves every other key alone. -/
theorem SMap.get_set_other [DecidableEq α] (d : α) (m : SMap α) {i j : Nat} (v : α) (h : j ≠ i) :
    SMap.get d (SMap.set d m i v) j = SMap.get d m j := by
  unfold SMap.set
  split
  · exact get_del_other d m h
  · exact get_put_other d m v h

/-! ## The canonical form -/

/-- The keys come after a bound. -/
def SMap.after (lo : Option Nat) (k : Nat) : Bool :=
  match lo with
  | none => true
  | some l => decide (l < k)

variable [DecidableEq α]

theorem SMap.wfFrom_cons (d : α) (lo : Option Nat) (k : Nat) (v : α) (m : SMap α) :
    SMap.wfFrom d lo ((k, v) :: m) = (SMap.after lo k && decide (v ≠ d) && SMap.wfFrom d (some k) m) := rfl

theorem SMap.wfFrom_weaken (d : α) {lo : Option Nat} {k : Nat} {m : SMap α} (h : SMap.after lo k = true)
    (hm : SMap.wfFrom d (some k) m = true) : SMap.wfFrom d lo m = true := by
  cases m with
  | nil => rfl
  | cons e m =>
    obtain ⟨j, v⟩ := e
    rw [wfFrom_cons] at hm ⊢
    cases lo with
    | none => simp only [after, Bool.and_eq_true, Bool.true_and] at hm ⊢; exact ⟨hm.1.2, hm.2⟩
    | some l =>
      simp only [after, Bool.and_eq_true, decide_eq_true_eq] at h hm ⊢
      exact ⟨⟨by omega, hm.1.2⟩, hm.2⟩

theorem SMap.wfFrom_put (d : α) {lo : Option Nat} {m : SMap α} {i : Nat} {v : α} (hi : SMap.after lo i = true) (hv : v ≠ d)
    (hm : SMap.wfFrom d lo m = true) : SMap.wfFrom d lo (SMap.put m i v) = true := by
  induction m generalizing lo with
  | nil => simp [put, wfFrom_cons, hi, hv, wfFrom]
  | cons e m ih =>
    obtain ⟨k, w⟩ := e
    rw [wfFrom_cons] at hm
    simp only [Bool.and_eq_true, decide_eq_true_eq] at hm
    simp only [put]
    split
    · rw [wfFrom_cons]; simp [hm.1.1, hv, hm.2]
    · split
      · rw [wfFrom_cons, wfFrom_cons]
        have hk : SMap.after (some i) k = true := decide_eq_true ‹_›
        simp [hi, hv, hm.1.2, hm.2, hk]
      · rw [wfFrom_cons]
        simp only [hm.1.1, Bool.true_and, Bool.and_eq_true, decide_eq_true_eq]
        exact ⟨hm.1.2, ih (by simp only [after, decide_eq_true_eq]; omega) hm.2⟩

theorem SMap.wfFrom_del (d : α) {lo : Option Nat} {m : SMap α} {i : Nat} (hm : SMap.wfFrom d lo m = true) :
    SMap.wfFrom d lo (SMap.del m i) = true := by
  induction m generalizing lo with
  | nil => rfl
  | cons e m ih =>
    obtain ⟨k, w⟩ := e
    rw [wfFrom_cons] at hm
    simp only [Bool.and_eq_true, decide_eq_true_eq] at hm
    simp only [del]
    split
    · exact ih (wfFrom_weaken d hm.1.1 hm.2)
    · rw [wfFrom_cons]
      simp [hm.1.1, hm.1.2, ih hm.2]

/-- A store keeps the canonical form. -/
theorem SMap.wf_set {d : α} {m : SMap α} (i : Nat) (v : α) (hm : SMap.wf d m = true) : SMap.wf d (SMap.set d m i v) = true := by
  unfold set
  split
  · exact wfFrom_del d hm
  · exact wfFrom_put d rfl ‹_› hm

/-- Stores at consecutive keys keep the canonical form. -/
theorem SMap.wf_setList {d : α} {m : SMap α} (i : Nat) (vs : List α) (hm : SMap.wf d m = true) :
    SMap.wf d (SMap.setList d m i vs) = true := by
  induction vs generalizing m i with
  | nil => exact hm
  | cons v vs ih => exact ih (i + 1) (wf_set i v hm)

/-- Leaving keys out keeps the canonical form. -/
theorem SMap.wfFrom_filter (d : α) {lo : Option Nat} {m : SMap α} (p : Nat × α → Bool) (hm : SMap.wfFrom d lo m = true) :
    SMap.wfFrom d lo (m.filter p) = true := by
  induction m generalizing lo with
  | nil => rfl
  | cons e m ih =>
    obtain ⟨k, w⟩ := e
    rw [wfFrom_cons] at hm
    simp only [Bool.and_eq_true, decide_eq_true_eq] at hm
    simp only [List.filter_cons]
    split
    · rw [wfFrom_cons]; simp [hm.1.1, hm.1.2, ih hm.2]
    · exact ih (wfFrom_weaken d hm.1.1 hm.2)

theorem SMap.wf_filter {d : α} {m : SMap α} (p : Nat × α → Bool) (hm : SMap.wf d m = true) : SMap.wf d (m.filter p) = true :=
  wfFrom_filter d p hm

/-- Keys outside consecutive stores are left alone. -/
theorem SMap.get_setList_other (d : α) (m : SMap α) {i j : Nat} (vs : List α) (h : j < i ∨ i + vs.length ≤ j) :
    SMap.get d (SMap.setList d m i vs) j = SMap.get d m j := by
  induction vs generalizing m i with
  | nil => rfl
  | cons v vs ih =>
    simp only [List.length_cons] at h
    rw [setList, ih _ (by omega), get_set_other d m v (by omega)]

/-- Reads of consecutive stores give the values stored. -/
theorem SMap.get_setList_in (d : α) (m : SMap α) (i : Nat) (vs : List α) (k : Nat) (h : k < vs.length) :
    SMap.get d (SMap.setList d m i vs) (i + k) = vs[k] := by
  induction vs generalizing m i k with
  | nil => simp at h
  | cons v vs ih =>
    cases k with
    | zero => rw [setList, get_setList_other d _ vs (by omega)]; simp
    | succ k =>
      have := ih (SMap.set d m i v) (i + 1) k (by simpa using h)
      rw [setList]; rw [show i + (k + 1) = i + 1 + k by omega, this]; rfl

end Sys2Proof
end

