-- ==== Sys2Proof/Laws/State.lean ====
section
/-! SUPPORT. State by field: one lemma per field per update, and what the accessors of cores, contexts, dies, windows,
commands and table entries read after each. -/

set_option Elab.async false

namespace Sys2Proof.Machine

variable (s : State) (c : Core) (x : Context) (y : Die) (w : HostWindow) (n m k d e : Nat)

/-! ## setCore -/

@[simp] theorem State.setCore_gtc : (s.setCore n c).gtc = s.gtc := rfl
@[simp] theorem State.setCore_tkoff : (s.setCore n c).tkoff = s.tkoff := rfl
@[simp] theorem State.setCore_devId : (s.setCore n c).devId = s.devId := rfl
@[simp] theorem State.setCore_power : (s.setCore n c).power = s.power := rfl
@[simp] theorem State.setCore_stopAt : (s.setCore n c).stopAt = s.stopAt := rfl
@[simp] theorem State.setCore_scanDone : (s.setCore n c).scanDone = s.scanDone := rfl
@[simp] theorem State.setCore_mem : (s.setCore n c).mem = s.mem := rfl
@[simp] theorem State.setCore_full : (s.setCore n c).full = s.full := rfl
@[simp] theorem State.setCore_poison : (s.setCore n c).poison = s.poison := rfl
@[simp] theorem State.setCore_deferrals : (s.setCore n c).deferrals = s.deferrals := rfl
@[simp] theorem State.setCore_nextDeferral : (s.setCore n c).nextDeferral = s.nextDeferral := rfl
@[simp] theorem State.setCore_ctxs : (s.setCore n c).ctxs = s.ctxs := rfl
@[simp] theorem State.setCore_wins : (s.setCore n c).wins = s.wins := rfl
@[simp] theorem State.setCore_dies : (s.setCore n c).dies = s.dies := rfl
@[simp] theorem State.setCore_cmds : (s.setCore n c).cmds = s.cmds := rfl
@[simp] theorem State.setCore_nextCmd : (s.setCore n c).nextCmd = s.nextCmd := rfl
@[simp] theorem State.setCore_msgs : (s.setCore n c).msgs = s.msgs := rfl
@[simp] theorem State.setCore_reqs : (s.setCore n c).reqs = s.reqs := rfl
@[simp] theorem State.setCore_outbox : (s.setCore n c).outbox = s.outbox := rfl
@[simp] theorem State.setCore_monitors : (s.setCore n c).monitors = s.monitors := rfl
@[simp] theorem State.setCore_throttled : (s.setCore n c).throttled = s.throttled := rfl
@[simp] theorem State.setCore_hostDown : (s.setCore n c).hostDown = s.hostDown := rfl
@[simp] theorem State.setCore_hostOld : (s.setCore n c).hostOld = s.hostOld := rfl
@[simp] theorem State.setCore_memPorts : (s.setCore n c).memPorts = s.memPorts := rfl
@[simp] theorem State.setCore_channels : (s.setCore n c).channels = s.channels := rfl
@[simp] theorem State.setCore_spares : (s.setCore n c).spares = s.spares := rfl
@[simp] theorem State.setCore_corrected : (s.setCore n c).corrected = s.corrected := rfl
@[simp] theorem State.setCore_fwVersion : (s.setCore n c).fwVersion = s.fwVersion := rfl
@[simp] theorem State.setCore_patchRefused : (s.setCore n c).patchRefused = s.patchRefused := rfl
@[simp] theorem State.setCore_certsRefused : (s.setCore n c).certsRefused = s.certsRefused := rfl
@[simp] theorem State.setCore_flash : (s.setCore n c).flash = s.flash := rfl
@[simp] theorem State.setCore_certs : (s.setCore n c).certs = s.certs := rfl
@[simp] theorem State.setCore_measures : (s.setCore n c).measures = s.measures := rfl
@[simp] theorem State.setCore_agenda : (s.setCore n c).agenda = s.agenda := rfl
@[simp] theorem State.setCore_cur : (s.setCore n c).cur = s.cur := rfl
@[simp] theorem State.setCore_free : (s.setCore n c).free = s.free := rfl

/-! ## setCtx -/

@[simp] theorem State.setCtx_gtc : (s.setCtx k x).gtc = s.gtc := rfl
@[simp] theorem State.setCtx_tkoff : (s.setCtx k x).tkoff = s.tkoff := rfl
@[simp] theorem State.setCtx_devId : (s.setCtx k x).devId = s.devId := rfl
@[simp] theorem State.setCtx_power : (s.setCtx k x).power = s.power := rfl
@[simp] theorem State.setCtx_stopAt : (s.setCtx k x).stopAt = s.stopAt := rfl
@[simp] theorem State.setCtx_scanDone : (s.setCtx k x).scanDone = s.scanDone := rfl
@[simp] theorem State.setCtx_mem : (s.setCtx k x).mem = s.mem := rfl
@[simp] theorem State.setCtx_full : (s.setCtx k x).full = s.full := rfl
@[simp] theorem State.setCtx_poison : (s.setCtx k x).poison = s.poison := rfl
@[simp] theorem State.setCtx_deferrals : (s.setCtx k x).deferrals = s.deferrals := rfl
@[simp] theorem State.setCtx_nextDeferral : (s.setCtx k x).nextDeferral = s.nextDeferral := rfl
@[simp] theorem State.setCtx_wins : (s.setCtx k x).wins = s.wins := rfl
@[simp] theorem State.setCtx_dies : (s.setCtx k x).dies = s.dies := rfl
@[simp] theorem State.setCtx_cores : (s.setCtx k x).cores = s.cores := rfl
@[simp] theorem State.setCtx_cmds : (s.setCtx k x).cmds = s.cmds := rfl
@[simp] theorem State.setCtx_nextCmd : (s.setCtx k x).nextCmd = s.nextCmd := rfl
@[simp] theorem State.setCtx_msgs : (s.setCtx k x).msgs = s.msgs := rfl
@[simp] theorem State.setCtx_reqs : (s.setCtx k x).reqs = s.reqs := rfl
@[simp] theorem State.setCtx_outbox : (s.setCtx k x).outbox = s.outbox := rfl
@[simp] theorem State.setCtx_monitors : (s.setCtx k x).monitors = s.monitors := rfl
@[simp] theorem State.setCtx_throttled : (s.setCtx k x).throttled = s.throttled := rfl
@[simp] theorem State.setCtx_hostDown : (s.setCtx k x).hostDown = s.hostDown := rfl
@[simp] theorem State.setCtx_hostOld : (s.setCtx k x).hostOld = s.hostOld := rfl
@[simp] theorem State.setCtx_memPorts : (s.setCtx k x).memPorts = s.memPorts := rfl
@[simp] theorem State.setCtx_channels : (s.setCtx k x).channels = s.channels := rfl
@[simp] theorem State.setCtx_spares : (s.setCtx k x).spares = s.spares := rfl
@[simp] theorem State.setCtx_corrected : (s.setCtx k x).corrected = s.corrected := rfl
@[simp] theorem State.setCtx_fwVersion : (s.setCtx k x).fwVersion = s.fwVersion := rfl
@[simp] theorem State.setCtx_patchRefused : (s.setCtx k x).patchRefused = s.patchRefused := rfl
@[simp] theorem State.setCtx_certsRefused : (s.setCtx k x).certsRefused = s.certsRefused := rfl
@[simp] theorem State.setCtx_flash : (s.setCtx k x).flash = s.flash := rfl
@[simp] theorem State.setCtx_certs : (s.setCtx k x).certs = s.certs := rfl
@[simp] theorem State.setCtx_measures : (s.setCtx k x).measures = s.measures := rfl
@[simp] theorem State.setCtx_agenda : (s.setCtx k x).agenda = s.agenda := rfl
@[simp] theorem State.setCtx_cur : (s.setCtx k x).cur = s.cur := rfl
@[simp] theorem State.setCtx_free : (s.setCtx k x).free = s.free := rfl

/-! ## setDie -/

@[simp] theorem State.setDie_gtc : (s.setDie d y).gtc = s.gtc := rfl
@[simp] theorem State.setDie_tkoff : (s.setDie d y).tkoff = s.tkoff := rfl
@[simp] theorem State.setDie_devId : (s.setDie d y).devId = s.devId := rfl
@[simp] theorem State.setDie_power : (s.setDie d y).power = s.power := rfl
@[simp] theorem State.setDie_stopAt : (s.setDie d y).stopAt = s.stopAt := rfl
@[simp] theorem State.setDie_scanDone : (s.setDie d y).scanDone = s.scanDone := rfl
@[simp] theorem State.setDie_mem : (s.setDie d y).mem = s.mem := rfl
@[simp] theorem State.setDie_full : (s.setDie d y).full = s.full := rfl
@[simp] theorem State.setDie_poison : (s.setDie d y).poison = s.poison := rfl
@[simp] theorem State.setDie_deferrals : (s.setDie d y).deferrals = s.deferrals := rfl
@[simp] theorem State.setDie_nextDeferral : (s.setDie d y).nextDeferral = s.nextDeferral := rfl
@[simp] theorem State.setDie_ctxs : (s.setDie d y).ctxs = s.ctxs := rfl
@[simp] theorem State.setDie_wins : (s.setDie d y).wins = s.wins := rfl
@[simp] theorem State.setDie_cores : (s.setDie d y).cores = s.cores := rfl
@[simp] theorem State.setDie_cmds : (s.setDie d y).cmds = s.cmds := rfl
@[simp] theorem State.setDie_nextCmd : (s.setDie d y).nextCmd = s.nextCmd := rfl
@[simp] theorem State.setDie_msgs : (s.setDie d y).msgs = s.msgs := rfl
@[simp] theorem State.setDie_reqs : (s.setDie d y).reqs = s.reqs := rfl
@[simp] theorem State.setDie_outbox : (s.setDie d y).outbox = s.outbox := rfl
@[simp] theorem State.setDie_monitors : (s.setDie d y).monitors = s.monitors := rfl
@[simp] theorem State.setDie_throttled : (s.setDie d y).throttled = s.throttled := rfl
@[simp] theorem State.setDie_hostDown : (s.setDie d y).hostDown = s.hostDown := rfl
@[simp] theorem State.setDie_hostOld : (s.setDie d y).hostOld = s.hostOld := rfl
@[simp] theorem State.setDie_memPorts : (s.setDie d y).memPorts = s.memPorts := rfl
@[simp] theorem State.setDie_channels : (s.setDie d y).channels = s.channels := rfl
@[simp] theorem State.setDie_spares : (s.setDie d y).spares = s.spares := rfl
@[simp] theorem State.setDie_corrected : (s.setDie d y).corrected = s.corrected := rfl
@[simp] theorem State.setDie_fwVersion : (s.setDie d y).fwVersion = s.fwVersion := rfl
@[simp] theorem State.setDie_patchRefused : (s.setDie d y).patchRefused = s.patchRefused := rfl
@[simp] theorem State.setDie_certsRefused : (s.setDie d y).certsRefused = s.certsRefused := rfl
@[simp] theorem State.setDie_flash : (s.setDie d y).flash = s.flash := rfl
@[simp] theorem State.setDie_certs : (s.setDie d y).certs = s.certs := rfl
@[simp] theorem State.setDie_measures : (s.setDie d y).measures = s.measures := rfl
@[simp] theorem State.setDie_agenda : (s.setDie d y).agenda = s.agenda := rfl
@[simp] theorem State.setDie_cur : (s.setDie d y).cur = s.cur := rfl
@[simp] theorem State.setDie_free : (s.setDie d y).free = s.free := rfl

/-! ## setWin -/

@[simp] theorem State.setWin_gtc : (s.setWin k w).gtc = s.gtc := rfl
@[simp] theorem State.setWin_tkoff : (s.setWin k w).tkoff = s.tkoff := rfl
@[simp] theorem State.setWin_devId : (s.setWin k w).devId = s.devId := rfl
@[simp] theorem State.setWin_power : (s.setWin k w).power = s.power := rfl
@[simp] theorem State.setWin_stopAt : (s.setWin k w).stopAt = s.stopAt := rfl
@[simp] theorem State.setWin_scanDone : (s.setWin k w).scanDone = s.scanDone := rfl
@[simp] theorem State.setWin_mem : (s.setWin k w).mem = s.mem := rfl
@[simp] theorem State.setWin_full : (s.setWin k w).full = s.full := rfl
@[simp] theorem State.setWin_poison : (s.setWin k w).poison = s.poison := rfl
@[simp] theorem State.setWin_deferrals : (s.setWin k w).deferrals = s.deferrals := rfl
@[simp] theorem State.setWin_nextDeferral : (s.setWin k w).nextDeferral = s.nextDeferral := rfl
@[simp] theorem State.setWin_ctxs : (s.setWin k w).ctxs = s.ctxs := rfl
@[simp] theorem State.setWin_dies : (s.setWin k w).dies = s.dies := rfl
@[simp] theorem State.setWin_cores : (s.setWin k w).cores = s.cores := rfl
@[simp] theorem State.setWin_cmds : (s.setWin k w).cmds = s.cmds := rfl
@[simp] theorem State.setWin_nextCmd : (s.setWin k w).nextCmd = s.nextCmd := rfl
@[simp] theorem State.setWin_msgs : (s.setWin k w).msgs = s.msgs := rfl
@[simp] theorem State.setWin_reqs : (s.setWin k w).reqs = s.reqs := rfl
@[simp] theorem State.setWin_outbox : (s.setWin k w).outbox = s.outbox := rfl
@[simp] theorem State.setWin_monitors : (s.setWin k w).monitors = s.monitors := rfl
@[simp] theorem State.setWin_throttled : (s.setWin k w).throttled = s.throttled := rfl
@[simp] theorem State.setWin_hostDown : (s.setWin k w).hostDown = s.hostDown := rfl
@[simp] theorem State.setWin_hostOld : (s.setWin k w).hostOld = s.hostOld := rfl
@[simp] theorem State.setWin_memPorts : (s.setWin k w).memPorts = s.memPorts := rfl
@[simp] theorem State.setWin_channels : (s.setWin k w).channels = s.channels := rfl
@[simp] theorem State.setWin_spares : (s.setWin k w).spares = s.spares := rfl
@[simp] theorem State.setWin_corrected : (s.setWin k w).corrected = s.corrected := rfl
@[simp] theorem State.setWin_fwVersion : (s.setWin k w).fwVersion = s.fwVersion := rfl
@[simp] theorem State.setWin_patchRefused : (s.setWin k w).patchRefused = s.patchRefused := rfl
@[simp] theorem State.setWin_certsRefused : (s.setWin k w).certsRefused = s.certsRefused := rfl
@[simp] theorem State.setWin_flash : (s.setWin k w).flash = s.flash := rfl
@[simp] theorem State.setWin_certs : (s.setWin k w).certs = s.certs := rfl
@[simp] theorem State.setWin_measures : (s.setWin k w).measures = s.measures := rfl
@[simp] theorem State.setWin_agenda : (s.setWin k w).agenda = s.agenda := rfl
@[simp] theorem State.setWin_cur : (s.setWin k w).cur = s.cur := rfl
@[simp] theorem State.setWin_free : (s.setWin k w).free = s.free := rfl

/-! ## Accessors after each update -/

@[simp] theorem State.core_setCore_same : (s.setCore n c).core n = c := SMap.get_put_same ..
theorem State.core_setCore_other (h : m ≠ n) : (s.setCore n c).core m = s.core m := SMap.get_put_other _ _ _ h
@[simp] theorem State.core_setCtx : (s.setCtx k x).core m = s.core m := rfl
@[simp] theorem State.core_setDie : (s.setDie d y).core m = s.core m := rfl
@[simp] theorem State.core_setWin : (s.setWin k w).core m = s.core m := rfl
@[simp] theorem State.ctx_setCtx_same : (s.setCtx k x).ctx k = x := SMap.get_put_same ..
theorem State.ctx_setCtx_other (h : m ≠ k) : (s.setCtx k x).ctx m = s.ctx m := SMap.get_put_other _ _ _ h
@[simp] theorem State.ctx_setCore : (s.setCore n c).ctx m = s.ctx m := rfl
@[simp] theorem State.ctx_setDie : (s.setDie d y).ctx m = s.ctx m := rfl
@[simp] theorem State.ctx_setWin : (s.setWin k w).ctx m = s.ctx m := rfl
@[simp] theorem State.die_setDie_same : (s.setDie d y).die d = y := SMap.get_put_same ..
theorem State.die_setDie_other (h : m ≠ d) : (s.setDie d y).die m = s.die m := SMap.get_put_other _ _ _ h
@[simp] theorem State.die_setCore : (s.setCore n c).die m = s.die m := rfl
@[simp] theorem State.die_setCtx : (s.setCtx k x).die m = s.die m := rfl
@[simp] theorem State.die_setWin : (s.setWin k w).die m = s.die m := rfl
@[simp] theorem State.win_setWin_same : (s.setWin k w).win k = w := SMap.get_put_same ..
theorem State.win_setWin_other (h : m ≠ k) : (s.setWin k w).win m = s.win m := SMap.get_put_other _ _ _ h
@[simp] theorem State.win_setCore : (s.setCore n c).win m = s.win m := rfl
@[simp] theorem State.win_setCtx : (s.setCtx k x).win m = s.win m := rfl
@[simp] theorem State.win_setDie : (s.setDie d y).win m = s.win m := rfl

/-! ## updCore -/

@[simp] theorem State.updCore_gtc (f : Core → Core) : (s.updCore n f).gtc = s.gtc := rfl
@[simp] theorem State.updCore_tkoff (f : Core → Core) : (s.updCore n f).tkoff = s.tkoff := rfl
@[simp] theorem State.updCore_devId (f : Core → Core) : (s.updCore n f).devId = s.devId := rfl
@[simp] theorem State.updCore_power (f : Core → Core) : (s.updCore n f).power = s.power := rfl
@[simp] theorem State.updCore_stopAt (f : Core → Core) : (s.updCore n f).stopAt = s.stopAt := rfl
@[simp] theorem State.updCore_scanDone (f : Core → Core) : (s.updCore n f).scanDone = s.scanDone := rfl
@[simp] theorem State.updCore_mem (f : Core → Core) : (s.updCore n f).mem = s.mem := rfl
@[simp] theorem State.updCore_full (f : Core → Core) : (s.updCore n f).full = s.full := rfl
@[simp] theorem State.updCore_poison (f : Core → Core) : (s.updCore n f).poison = s.poison := rfl
@[simp] theorem State.updCore_deferrals (f : Core → Core) : (s.updCore n f).deferrals = s.deferrals := rfl
@[simp] theorem State.updCore_nextDeferral (f : Core → Core) : (s.updCore n f).nextDeferral = s.nextDeferral := rfl
@[simp] theorem State.updCore_ctxs (f : Core → Core) : (s.updCore n f).ctxs = s.ctxs := rfl
@[simp] theorem State.updCore_wins (f : Core → Core) : (s.updCore n f).wins = s.wins := rfl
@[simp] theorem State.updCore_dies (f : Core → Core) : (s.updCore n f).dies = s.dies := rfl
@[simp] theorem State.updCore_cmds (f : Core → Core) : (s.updCore n f).cmds = s.cmds := rfl
@[simp] theorem State.updCore_nextCmd (f : Core → Core) : (s.updCore n f).nextCmd = s.nextCmd := rfl
@[simp] theorem State.updCore_msgs (f : Core → Core) : (s.updCore n f).msgs = s.msgs := rfl
@[simp] theorem State.updCore_reqs (f : Core → Core) : (s.updCore n f).reqs = s.reqs := rfl
@[simp] theorem State.updCore_outbox (f : Core → Core) : (s.updCore n f).outbox = s.outbox := rfl
@[simp] theorem State.updCore_monitors (f : Core → Core) : (s.updCore n f).monitors = s.monitors := rfl
@[simp] theorem State.updCore_throttled (f : Core → Core) : (s.updCore n f).throttled = s.throttled := rfl
@[simp] theorem State.updCore_hostDown (f : Core → Core) : (s.updCore n f).hostDown = s.hostDown := rfl
@[simp] theorem State.updCore_hostOld (f : Core → Core) : (s.updCore n f).hostOld = s.hostOld := rfl
@[simp] theorem State.updCore_memPorts (f : Core → Core) : (s.updCore n f).memPorts = s.memPorts := rfl
@[simp] theorem State.updCore_channels (f : Core → Core) : (s.updCore n f).channels = s.channels := rfl
@[simp] theorem State.updCore_spares (f : Core → Core) : (s.updCore n f).spares = s.spares := rfl
@[simp] theorem State.updCore_corrected (f : Core → Core) : (s.updCore n f).corrected = s.corrected := rfl
@[simp] theorem State.updCore_fwVersion (f : Core → Core) : (s.updCore n f).fwVersion = s.fwVersion := rfl
@[simp] theorem State.updCore_patchRefused (f : Core → Core) : (s.updCore n f).patchRefused = s.patchRefused := rfl
@[simp] theorem State.updCore_certsRefused (f : Core → Core) : (s.updCore n f).certsRefused = s.certsRefused := rfl
@[simp] theorem State.updCore_flash (f : Core → Core) : (s.updCore n f).flash = s.flash := rfl
@[simp] theorem State.updCore_certs (f : Core → Core) : (s.updCore n f).certs = s.certs := rfl
@[simp] theorem State.updCore_measures (f : Core → Core) : (s.updCore n f).measures = s.measures := rfl
@[simp] theorem State.updCore_agenda (f : Core → Core) : (s.updCore n f).agenda = s.agenda := rfl
@[simp] theorem State.updCore_cur (f : Core → Core) : (s.updCore n f).cur = s.cur := rfl
@[simp] theorem State.updCore_free (f : Core → Core) : (s.updCore n f).free = s.free := rfl
@[simp] theorem State.core_updCore_same (f : Core → Core) : (s.updCore n f).core n = f (s.core n) := SMap.get_put_same ..
theorem State.core_updCore_other (f : Core → Core) (h : m ≠ n) : (s.updCore n f).core m = s.core m := SMap.get_put_other _ _ _ h
@[simp] theorem State.ctx_updCore (f : Core → Core) : (s.updCore n f).ctx m = s.ctx m := rfl
@[simp] theorem State.die_updCore (f : Core → Core) : (s.updCore n f).die m = s.die m := rfl
@[simp] theorem State.win_updCore (f : Core → Core) : (s.updCore n f).win m = s.win m := rfl

/-! ## updCtx -/

@[simp] theorem State.updCtx_gtc (f : Context → Context) : (s.updCtx k f).gtc = s.gtc := rfl
@[simp] theorem State.updCtx_tkoff (f : Context → Context) : (s.updCtx k f).tkoff = s.tkoff := rfl
@[simp] theorem State.updCtx_devId (f : Context → Context) : (s.updCtx k f).devId = s.devId := rfl
@[simp] theorem State.updCtx_power (f : Context → Context) : (s.updCtx k f).power = s.power := rfl
@[simp] theorem State.updCtx_stopAt (f : Context → Context) : (s.updCtx k f).stopAt = s.stopAt := rfl
@[simp] theorem State.updCtx_scanDone (f : Context → Context) : (s.updCtx k f).scanDone = s.scanDone := rfl
@[simp] theorem State.updCtx_mem (f : Context → Context) : (s.updCtx k f).mem = s.mem := rfl
@[simp] theorem State.updCtx_full (f : Context → Context) : (s.updCtx k f).full = s.full := rfl
@[simp] theorem State.updCtx_poison (f : Context → Context) : (s.updCtx k f).poison = s.poison := rfl
@[simp] theorem State.updCtx_deferrals (f : Context → Context) : (s.updCtx k f).deferrals = s.deferrals := rfl
@[simp] theorem State.updCtx_nextDeferral (f : Context → Context) : (s.updCtx k f).nextDeferral = s.nextDeferral := rfl
@[simp] theorem State.updCtx_wins (f : Context → Context) : (s.updCtx k f).wins = s.wins := rfl
@[simp] theorem State.updCtx_dies (f : Context → Context) : (s.updCtx k f).dies = s.dies := rfl
@[simp] theorem State.updCtx_cores (f : Context → Context) : (s.updCtx k f).cores = s.cores := rfl
@[simp] theorem State.updCtx_cmds (f : Context → Context) : (s.updCtx k f).cmds = s.cmds := rfl
@[simp] theorem State.updCtx_nextCmd (f : Context → Context) : (s.updCtx k f).nextCmd = s.nextCmd := rfl
@[simp] theorem State.updCtx_msgs (f : Context → Context) : (s.updCtx k f).msgs = s.msgs := rfl
@[simp] theorem State.updCtx_reqs (f : Context → Context) : (s.updCtx k f).reqs = s.reqs := rfl
@[simp] theorem State.updCtx_outbox (f : Context → Context) : (s.updCtx k f).outbox = s.outbox := rfl
@[simp] theorem State.updCtx_monitors (f : Context → Context) : (s.updCtx k f).monitors = s.monitors := rfl
@[simp] theorem State.updCtx_throttled (f : Context → Context) : (s.updCtx k f).throttled = s.throttled := rfl
@[simp] theorem State.updCtx_hostDown (f : Context → Context) : (s.updCtx k f).hostDown = s.hostDown := rfl
@[simp] theorem State.updCtx_hostOld (f : Context → Context) : (s.updCtx k f).hostOld = s.hostOld := rfl
@[simp] theorem State.updCtx_memPorts (f : Context → Context) : (s.updCtx k f).memPorts = s.memPorts := rfl
@[simp] theorem State.updCtx_channels (f : Context → Context) : (s.updCtx k f).channels = s.channels := rfl
@[simp] theorem State.updCtx_spares (f : Context → Context) : (s.updCtx k f).spares = s.spares := rfl
@[simp] theorem State.updCtx_corrected (f : Context → Context) : (s.updCtx k f).corrected = s.corrected := rfl
@[simp] theorem State.updCtx_fwVersion (f : Context → Context) : (s.updCtx k f).fwVersion = s.fwVersion := rfl
@[simp] theorem State.updCtx_patchRefused (f : Context → Context) : (s.updCtx k f).patchRefused = s.patchRefused := rfl
@[simp] theorem State.updCtx_certsRefused (f : Context → Context) : (s.updCtx k f).certsRefused = s.certsRefused := rfl
@[simp] theorem State.updCtx_flash (f : Context → Context) : (s.updCtx k f).flash = s.flash := rfl
@[simp] theorem State.updCtx_certs (f : Context → Context) : (s.updCtx k f).certs = s.certs := rfl
@[simp] theorem State.updCtx_measures (f : Context → Context) : (s.updCtx k f).measures = s.measures := rfl
@[simp] theorem State.updCtx_agenda (f : Context → Context) : (s.updCtx k f).agenda = s.agenda := rfl
@[simp] theorem State.updCtx_cur (f : Context → Context) : (s.updCtx k f).cur = s.cur := rfl
@[simp] theorem State.updCtx_free (f : Context → Context) : (s.updCtx k f).free = s.free := rfl
@[simp] theorem State.ctx_updCtx_same (f : Context → Context) : (s.updCtx k f).ctx k = f (s.ctx k) := SMap.get_put_same ..
theorem State.ctx_updCtx_other (f : Context → Context) (h : m ≠ k) : (s.updCtx k f).ctx m = s.ctx m := SMap.get_put_other _ _ _ h
@[simp] theorem State.core_updCtx (f : Context → Context) : (s.updCtx k f).core m = s.core m := rfl
@[simp] theorem State.die_updCtx (f : Context → Context) : (s.updCtx k f).die m = s.die m := rfl
@[simp] theorem State.win_updCtx (f : Context → Context) : (s.updCtx k f).win m = s.win m := rfl

/-! ## Updates in a row -/

@[simp] theorem State.setCore_setCore (c2 : Core) : (s.setCore n c).setCore n c2 = s.setCore n c2 := by simp [State.setCore]
theorem State.updCore_updCore (f g : Core → Core) : (s.updCore n f).updCore n g = s.updCore n (fun c => g (f c)) := by
  simp [State.updCore]

/-! ## Accessors of an explicit state -/

theorem State.core_of : s.core n = SMap.get {} s.cores n := rfl
theorem State.ctx_of : s.ctx n = SMap.get {} s.ctxs n := rfl
theorem State.die_of : s.die n = SMap.get {} s.dies n := rfl
theorem State.win_of : s.win n = SMap.get {} s.wins n := rfl

/-! ## Commands -/

@[simp] theorem State.updCmd_cmds (f : Cmd → Cmd) : (s.updCmd k f).cmds = s.cmds.map fun j => if j.id = k then f j else j := rfl
@[simp] theorem State.updCmd_gtc (f : Cmd → Cmd) : (s.updCmd k f).gtc = s.gtc := rfl
@[simp] theorem State.updCmd_tkoff (f : Cmd → Cmd) : (s.updCmd k f).tkoff = s.tkoff := rfl
@[simp] theorem State.updCmd_devId (f : Cmd → Cmd) : (s.updCmd k f).devId = s.devId := rfl
@[simp] theorem State.updCmd_power (f : Cmd → Cmd) : (s.updCmd k f).power = s.power := rfl
@[simp] theorem State.updCmd_stopAt (f : Cmd → Cmd) : (s.updCmd k f).stopAt = s.stopAt := rfl
@[simp] theorem State.updCmd_scanDone (f : Cmd → Cmd) : (s.updCmd k f).scanDone = s.scanDone := rfl
@[simp] theorem State.updCmd_mem (f : Cmd → Cmd) : (s.updCmd k f).mem = s.mem := rfl
@[simp] theorem State.updCmd_full (f : Cmd → Cmd) : (s.updCmd k f).full = s.full := rfl
@[simp] theorem State.updCmd_poison (f : Cmd → Cmd) : (s.updCmd k f).poison = s.poison := rfl
@[simp] theorem State.updCmd_deferrals (f : Cmd → Cmd) : (s.updCmd k f).deferrals = s.deferrals := rfl
@[simp] theorem State.updCmd_nextDeferral (f : Cmd → Cmd) : (s.updCmd k f).nextDeferral = s.nextDeferral := rfl
@[simp] theorem State.updCmd_ctxs (f : Cmd → Cmd) : (s.updCmd k f).ctxs = s.ctxs := rfl
@[simp] theorem State.updCmd_wins (f : Cmd → Cmd) : (s.updCmd k f).wins = s.wins := rfl
@[simp] theorem State.updCmd_dies (f : Cmd → Cmd) : (s.updCmd k f).dies = s.dies := rfl
@[simp] theorem State.updCmd_cores (f : Cmd → Cmd) : (s.updCmd k f).cores = s.cores := rfl
@[simp] theorem State.updCmd_nextCmd (f : Cmd → Cmd) : (s.updCmd k f).nextCmd = s.nextCmd := rfl
@[simp] theorem State.updCmd_msgs (f : Cmd → Cmd) : (s.updCmd k f).msgs = s.msgs := rfl
@[simp] theorem State.updCmd_reqs (f : Cmd → Cmd) : (s.updCmd k f).reqs = s.reqs := rfl
@[simp] theorem State.updCmd_outbox (f : Cmd → Cmd) : (s.updCmd k f).outbox = s.outbox := rfl
@[simp] theorem State.updCmd_monitors (f : Cmd → Cmd) : (s.updCmd k f).monitors = s.monitors := rfl
@[simp] theorem State.updCmd_throttled (f : Cmd → Cmd) : (s.updCmd k f).throttled = s.throttled := rfl
@[simp] theorem State.updCmd_hostDown (f : Cmd → Cmd) : (s.updCmd k f).hostDown = s.hostDown := rfl
@[simp] theorem State.updCmd_hostOld (f : Cmd → Cmd) : (s.updCmd k f).hostOld = s.hostOld := rfl
@[simp] theorem State.updCmd_memPorts (f : Cmd → Cmd) : (s.updCmd k f).memPorts = s.memPorts := rfl
@[simp] theorem State.updCmd_channels (f : Cmd → Cmd) : (s.updCmd k f).channels = s.channels := rfl
@[simp] theorem State.updCmd_spares (f : Cmd → Cmd) : (s.updCmd k f).spares = s.spares := rfl
@[simp] theorem State.updCmd_corrected (f : Cmd → Cmd) : (s.updCmd k f).corrected = s.corrected := rfl
@[simp] theorem State.updCmd_fwVersion (f : Cmd → Cmd) : (s.updCmd k f).fwVersion = s.fwVersion := rfl
@[simp] theorem State.updCmd_patchRefused (f : Cmd → Cmd) : (s.updCmd k f).patchRefused = s.patchRefused := rfl
@[simp] theorem State.updCmd_certsRefused (f : Cmd → Cmd) : (s.updCmd k f).certsRefused = s.certsRefused := rfl
@[simp] theorem State.updCmd_flash (f : Cmd → Cmd) : (s.updCmd k f).flash = s.flash := rfl
@[simp] theorem State.updCmd_certs (f : Cmd → Cmd) : (s.updCmd k f).certs = s.certs := rfl
@[simp] theorem State.updCmd_measures (f : Cmd → Cmd) : (s.updCmd k f).measures = s.measures := rfl
@[simp] theorem State.updCmd_agenda (f : Cmd → Cmd) : (s.updCmd k f).agenda = s.agenda := rfl
@[simp] theorem State.updCmd_cur (f : Cmd → Cmd) : (s.updCmd k f).cur = s.cur := rfl
@[simp] theorem State.updCmd_free (f : Cmd → Cmd) : (s.updCmd k f).free = s.free := rfl
@[simp] theorem State.core_updCmd (f : Cmd → Cmd) : (s.updCmd k f).core m = s.core m := rfl
@[simp] theorem State.ctx_updCmd (f : Cmd → Cmd) : (s.updCmd k f).ctx m = s.ctx m := rfl
@[simp] theorem State.die_updCmd (f : Cmd → Cmd) : (s.updCmd k f).die m = s.die m := rfl
@[simp] theorem State.win_updCmd (f : Cmd → Cmd) : (s.updCmd k f).win m = s.win m := rfl

/-! ## Moving past an instruction -/

@[simp] theorem Core.next_run : (c.next k).run = c.run := rfl
@[simp] theorem Core.next_ctx : (c.next k).ctx = c.ctx := rfl
@[simp] theorem Core.next_nodeDie : (c.next k).nodeDie = c.nodeDie := rfl
@[simp] theorem Core.next_nodeEntry : (c.next k).nodeEntry = c.nodeEntry := rfl
@[simp] theorem Core.next_gangBase : (c.next k).gangBase = c.gangBase := rfl
@[simp] theorem Core.next_sizeM1 : (c.next k).sizeM1 = c.sizeM1 := rfl
@[simp] theorem Core.next_rank : (c.next k).rank = c.rank := rfl
@[simp] theorem Core.next_gang : (c.next k).gang = c.gang := rfl
@[simp] theorem Core.next_fused : (c.next k).fused = c.fused := rfl
@[simp] theorem Core.next_regs : (c.next k).regs = c.regs := rfl
@[simp] theorem Core.next_preds : (c.next k).preds = c.preds := rfl
@[simp] theorem Core.next_masks : (c.next k).masks = c.masks := rfl
@[simp] theorem Core.next_pc : (c.next k).pc = c.pc := rfl
@[simp] theorem Core.next_ictr : (c.next k).ictr = c.ictr := rfl
@[simp] theorem Core.next_epc : (c.next k).epc = c.epc := rfl
@[simp] theorem Core.next_hm : (c.next k).hm = c.hm := rfl
@[simp] theorem Core.next_cls : (c.next k).cls = c.cls := rfl
@[simp] theorem Core.next_code : (c.next k).code = c.code := rfl
@[simp] theorem Core.next_flags : (c.next k).flags = c.flags := rfl
@[simp] theorem Core.next_lflags : (c.next k).lflags = c.lflags := rfl
@[simp] theorem Core.next_ldc : (c.next k).ldc = c.ldc := rfl
@[simp] theorem Core.next_stc : (c.next k).stc = c.stc := rfl
@[simp] theorem Core.next_cpc : (c.next k).cpc = c.cpc := rfl
@[simp] theorem Core.next_tlc : (c.next k).tlc = c.tlc := rfl
@[simp] theorem Core.next_btc : (c.next k).btc = c.btc := rfl
@[simp] theorem Core.next_openBatch : (c.next k).openBatch = c.openBatch := rfl
@[simp] theorem Core.next_batchNo : (c.next k).batchNo = c.batchNo := rfl
@[simp] theorem Core.next_accs : (c.next k).accs = c.accs := rfl
@[simp] theorem Core.next_nextAcc : (c.next k).nextAcc = c.nextAcc := rfl
@[simp] theorem Core.next_holdAcc : (c.next k).holdAcc = c.holdAcc := rfl
@[simp] theorem Core.next_holdAll : (c.next k).holdAll = c.holdAll := rfl
@[simp] theorem Core.next_holdStore : (c.next k).holdStore = c.holdStore := rfl
@[simp] theorem Core.next_holdTake : (c.next k).holdTake = c.holdTake := rfl
@[simp] theorem Core.next_group : (c.next k).group = c.group := rfl
@[simp] theorem Core.next_served : (c.next k).served = c.served := rfl
@[simp] theorem Core.next_record : (c.next k).record = c.record := rfl
@[simp] theorem Core.next_handler : (c.next k).handler = c.handler := rfl
@[simp] theorem Core.next_hlen : (c.next k).hlen = c.hlen := rfl
@[simp] theorem Core.next_heldBy : (c.next k).heldBy = c.heldBy := rfl
@[simp] theorem Core.next_cfgBy : (c.next k).cfgBy = c.cfgBy := rfl
@[simp] theorem Core.next_gangArrivals : (c.next k).gangArrivals = c.gangArrivals := rfl
@[simp] theorem Core.next_seen : (c.next k).seen = c.seen := rfl
@[simp] theorem Core.next_mcIssued : (c.next k).mcIssued = c.mcIssued := rfl
@[simp] theorem Core.next_lastOf : (c.next k).lastOf = c.lastOf := rfl
@[simp] theorem Core.next_pacer : (c.next k).pacer = c.pacer := rfl
@[simp] theorem Core.next_ports : (c.next k).ports = c.ports := rfl
@[simp] theorem Core.next_banks : (c.next k).banks = c.banks := rfl
@[simp] theorem Core.next_fab : (c.next k).fab = c.fab := rfl
@[simp] theorem Core.next_mx : (c.next k).mx = c.mx := rfl
@[simp] theorem Core.next_drained : (c.next k).drained = c.drained := rfl
@[simp] theorem Core.next_moved : (c.next k).moved = c.moved := rfl
@[simp] theorem Core.next_chan : (c.next k).chan = c.chan := rfl
@[simp] theorem Core.next_chanWin : (c.next k).chanWin = c.chanWin := rfl
@[simp] theorem Core.next_sample : (c.next k).sample = c.sample := rfl
@[simp] theorem Core.next_departed : (c.next k).departed = c.departed := rfl
@[simp] theorem Core.next_winClk : (c.next k).winClk = c.winClk := rfl
@[simp] theorem Core.next_loadNo : (c.next k).loadNo = c.loadNo := rfl
@[simp] theorem Core.next_clk : (c.next k).clk = c.clk := rfl
@[simp] theorem Core.next_preempt : (c.next k).preempt = c.preempt := rfl
@[simp] theorem Core.next_stopMask : (c.next k).stopMask = c.stopMask := rfl
@[simp] theorem Core.next_late : (c.next k).late = c.late := rfl
@[simp] theorem Core.next_again : (c.next k).again = c.again := rfl
@[simp] theorem Core.next_pausedPorts : (c.next k).pausedPorts = c.pausedPorts := rfl
@[simp] theorem Core.next_soff : (c.next k).soff = c.soff + BitVec.ofNat 32 k := rfl
@[simp] theorem Core.next_entry : (c.next k).entry = false := rfl

@[simp] theorem State.advance_gtc : (s.advance n k).gtc = s.gtc := rfl
@[simp] theorem State.advance_tkoff : (s.advance n k).tkoff = s.tkoff := rfl
@[simp] theorem State.advance_devId : (s.advance n k).devId = s.devId := rfl
@[simp] theorem State.advance_power : (s.advance n k).power = s.power := rfl
@[simp] theorem State.advance_stopAt : (s.advance n k).stopAt = s.stopAt := rfl
@[simp] theorem State.advance_scanDone : (s.advance n k).scanDone = s.scanDone := rfl
@[simp] theorem State.advance_mem : (s.advance n k).mem = s.mem := rfl
@[simp] theorem State.advance_full : (s.advance n k).full = s.full := rfl
@[simp] theorem State.advance_poison : (s.advance n k).poison = s.poison := rfl
@[simp] theorem State.advance_deferrals : (s.advance n k).deferrals = s.deferrals := rfl
@[simp] theorem State.advance_nextDeferral : (s.advance n k).nextDeferral = s.nextDeferral := rfl
@[simp] theorem State.advance_ctxs : (s.advance n k).ctxs = s.ctxs := rfl
@[simp] theorem State.advance_wins : (s.advance n k).wins = s.wins := rfl
@[simp] theorem State.advance_dies : (s.advance n k).dies = s.dies := rfl
@[simp] theorem State.advance_cmds : (s.advance n k).cmds = s.cmds := rfl
@[simp] theorem State.advance_nextCmd : (s.advance n k).nextCmd = s.nextCmd := rfl
@[simp] theorem State.advance_msgs : (s.advance n k).msgs = s.msgs := rfl
@[simp] theorem State.advance_reqs : (s.advance n k).reqs = s.reqs := rfl
@[simp] theorem State.advance_outbox : (s.advance n k).outbox = s.outbox := rfl
@[simp] theorem State.advance_monitors : (s.advance n k).monitors = s.monitors := rfl
@[simp] theorem State.advance_throttled : (s.advance n k).throttled = s.throttled := rfl
@[simp] theorem State.advance_hostDown : (s.advance n k).hostDown = s.hostDown := rfl
@[simp] theorem State.advance_hostOld : (s.advance n k).hostOld = s.hostOld := rfl
@[simp] theorem State.advance_memPorts : (s.advance n k).memPorts = s.memPorts := rfl
@[simp] theorem State.advance_channels : (s.advance n k).channels = s.channels := rfl
@[simp] theorem State.advance_spares : (s.advance n k).spares = s.spares := rfl
@[simp] theorem State.advance_corrected : (s.advance n k).corrected = s.corrected := rfl
@[simp] theorem State.advance_fwVersion : (s.advance n k).fwVersion = s.fwVersion := rfl
@[simp] theorem State.advance_patchRefused : (s.advance n k).patchRefused = s.patchRefused := rfl
@[simp] theorem State.advance_certsRefused : (s.advance n k).certsRefused = s.certsRefused := rfl
@[simp] theorem State.advance_flash : (s.advance n k).flash = s.flash := rfl
@[simp] theorem State.advance_certs : (s.advance n k).certs = s.certs := rfl
@[simp] theorem State.advance_measures : (s.advance n k).measures = s.measures := rfl
@[simp] theorem State.advance_agenda : (s.advance n k).agenda = s.agenda := rfl
@[simp] theorem State.advance_cur : (s.advance n k).cur = s.cur := rfl
@[simp] theorem State.advance_free : (s.advance n k).free = s.free := rfl
@[simp] theorem State.core_advance_same : (s.advance n k).core n = (s.core n).next k := SMap.get_put_same ..
theorem State.core_advance_other (h : m ≠ n) : (s.advance n k).core m = s.core m := SMap.get_put_other _ _ _ h
@[simp] theorem State.ctx_advance : (s.advance n k).ctx m = s.ctx m := rfl
@[simp] theorem State.die_advance : (s.advance n k).die m = s.die m := rfl

end Sys2Proof.Machine
end

