-- ==== Sys2Proof/Laws/Registers.lean ====
section
/-! SUPPORT. Registers, predicates and masks of a core, and the issue of a scalar instruction: what each operation does,
once, for every proof over it. -/

set_option Elab.async false

namespace Sys2Proof.Machine

/-! ## Registers (R146, R167) -/

/-- Register 57 reads zero. -/
@[simp] theorem Core.reg_zero (c : Core) : c.reg 57 = 0#64 := rfl

/-- Predicate 0 reads true. -/
@[simp] theorem Core.pred_zero (c : Core) : c.pred 0 = true := rfl

/-- Mask 0 reads all ones. -/
@[simp] theorem Core.mask_zero (c : Core) : c.mask 0 = BitVec.allOnes 256 := rfl

@[simp] theorem Core.reg_next (c : Core) (k r : Nat) : (c.next k).reg r = c.reg r := rfl
@[simp] theorem Core.pred_next (c : Core) (k i : Nat) : (c.next k).pred i = c.pred i := rfl
@[simp] theorem Core.mask_next (c : Core) (k m : Nat) : (c.next k).mask m = c.mask m := rfl

variable (s : State) (n r q : Nat) (v : Word)

/-- A write to register 57 changes nothing. -/
@[simp] theorem State.writeReg_zero : s.writeReg n 57 v = s := rfl

theorem State.reg_writeReg_same (h : r ≠ 57) : ((s.writeReg n r v).core n).reg r = v := by
  simp [State.writeReg, h, Core.reg, State.core, State.setCore, SMap.get_put_same]

theorem State.reg_writeReg_other (h : q ≠ r) : ((s.writeReg n r v).core n).reg q = (s.core n).reg q := by
  unfold State.writeReg
  split
  · rfl
  · simp [Core.reg, State.core, State.setCore, SMap.get_put_same, SMap.get_set_other _ _ _ h]

/-- A register write leaves everything of its core but its registers and the destinations of its accesses. -/
theorem State.core_writeReg : (s.writeReg n r v).core n =
    { s.core n with regs := ((s.writeReg n r v).core n).regs, accs := ((s.writeReg n r v).core n).accs } := by
  unfold State.writeReg
  split
  · rfl
  · simp [State.core, State.setCore, SMap.get_put_same]

theorem State.core_writeReg_other {m : Nat} (h : m ≠ n) : (s.writeReg n r v).core m = s.core m := by
  unfold State.writeReg
  split
  · rfl
  · exact SMap.get_put_other _ _ _ h

/-- A register write leaves everything but its core and the destinations of PORT.TAKEs. -/
theorem State.writeReg_frame : { s.writeReg n r v with cores := s.cores, cmds := s.cmds } = s := by
  unfold State.writeReg
  split <;> rfl

@[simp] theorem State.writeReg_mem : (s.writeReg n r v).mem = s.mem := by unfold State.writeReg; split <;> rfl
@[simp] theorem State.writeReg_cur : (s.writeReg n r v).cur = s.cur := by unfold State.writeReg; split <;> rfl
@[simp] theorem State.writeReg_ctxs : (s.writeReg n r v).ctxs = s.ctxs := by unfold State.writeReg; split <;> rfl
@[simp] theorem State.writeReg_agenda : (s.writeReg n r v).agenda = s.agenda := by unfold State.writeReg; split <;> rfl

/-! ## Results (R146) -/

/-- A result reads back in its destination. -/
theorem State.reg_writeRes_dest (h : r ≠ 57) : ((s.writeRes n r v).core n).reg r = v := by
  unfold State.writeRes
  by_cases h6 : r = 56
  · subst h6; exact State.reg_writeReg_same _ _ _ _ (by decide)
  · rw [State.reg_writeReg_other _ _ _ _ _ h6, State.reg_writeReg_same _ _ _ _ h]

/-- A result reads back in ll. -/
theorem State.reg_writeRes_ll : ((s.writeRes n r v).core n).reg 56 = v := by
  unfold State.writeRes
  exact State.reg_writeReg_same _ _ _ _ (by decide)

/-- A result leaves every other register alone. -/
theorem State.reg_writeRes_other (h : q ≠ r) (h6 : q ≠ 56) : ((s.writeRes n r v).core n).reg q = (s.core n).reg q := by
  unfold State.writeRes
  rw [State.reg_writeReg_other _ _ _ _ _ h6, State.reg_writeReg_other _ _ _ _ _ h]

theorem State.core_writeRes : (s.writeRes n r v).core n =
    { s.core n with regs := ((s.writeRes n r v).core n).regs, accs := ((s.writeRes n r v).core n).accs } := by
  unfold State.writeRes
  rw [State.core_writeReg, State.core_writeReg]

theorem State.core_writeRes_other {m : Nat} (h : m ≠ n) : (s.writeRes n r v).core m = s.core m := by
  unfold State.writeRes
  rw [State.core_writeReg_other _ _ _ _ h, State.core_writeReg_other _ _ _ _ h]

theorem State.writeRes_frame : { s.writeRes n r v with cores := s.cores, cmds := s.cmds } = s := by
  unfold State.writeRes
  have h1 := State.writeReg_frame (s.writeReg n r v) n 56 v
  have h2 := State.writeReg_frame s n r v
  calc _ = { { (s.writeReg n r v).writeReg n 56 v with cores := (s.writeReg n r v).cores, cmds := (s.writeReg n r v).cmds } with
              cores := s.cores, cmds := s.cmds } := rfl
    _ = { s.writeReg n r v with cores := s.cores, cmds := s.cmds } := by rw [h1]
    _ = s := h2

/-! ## Predicates and masks (R147) -/

theorem setBit_get {w : Nat} (x : BitVec w) (i j : Nat) (b : Bool) (hi : i < w) :
    (setBit x i b).getLsbD j = if j = i then b else x.getLsbD j := by
  unfold setBit
  have ht : (BitVec.ofNat w (2 ^ i)).getLsbD j = decide (j = i) := by
    rw [BitVec.getLsbD_ofNat, Nat.testBit_two_pow]
    by_cases h : j = i
    · subst h; simp [hi]
    · simp [h, Ne.symm h]
  generalize BitVec.ofNat w (2 ^ i) = y at ht ⊢
  by_cases h : j = i
  · subst h
    have hy : y.getLsbD j = true := by simp [ht]
    cases b <;> simp [hy]
  · cases b
    · by_cases hj : j < w
      · have hy : y.getLsbD j = false := by simp [ht, h]
        simp only [h, Bool.false_eq_true, if_false, BitVec.getLsbD_and, BitVec.getLsbD_not, hy]
        simp [hj]
      · simp [h, BitVec.getLsbD_of_ge _ _ (Nat.le_of_not_lt hj)]
    · simp [ht, h]

/-- A predicate write reads back, and leaves the others alone. -/
theorem Core.pred_setPred (c : Core) (i j : Nat) (b : Bool) (hi : i < 16) :
    (c.setPred i b).pred j = if j = 0 then true else if j = i then b else c.pred j := by
  unfold Core.setPred Core.pred
  by_cases h0 : i = 0
  · subst h0; by_cases hj : j = 0 <;> simp [hj]
  · by_cases hj : j = 0
    · simp [hj]
    · simp [h0, hj, setBit_get _ _ _ _ hi]

theorem State.mask_writeMask_same (s : State) (n m : Nat) (v : BitVec 256) (h : m ≠ 0) :
    ((s.writeMask n m v).core n).mask m = v := by
  simp [State.writeMask, h, Core.mask, State.core, State.updCore, State.setCore, SMap.get_put_same]

theorem State.mask_writeMask_other (s : State) (n m j : Nat) (v : BitVec 256) (h : j ≠ m) :
    ((s.writeMask n m v).core n).mask j = (s.core n).mask j := by
  unfold State.writeMask
  split
  · rfl
  · simp [Core.mask, State.core, State.updCore, State.setCore, SMap.get_put_same, SMap.get_set_other _ _ _ h]

/-! ## Issue (R167, R378) -/

/-- Everything an issue can do: it stalls, it takes the reserved-use exception, or the instruction acts. -/
theorem State.issue_cases (s : State) (fields reads : List Reg) (masks : List Nat) (k : Nat → Core → State) :
    s.issue fields reads masks k = .next s ∨ s.issue fields reads masks k = .next (s.reservedUse s.cur 1)
      ∨ s.issue fields reads masks k = .next (k s.cur (s.core s.cur)) := by
  simp only [State.issue]
  by_cases h1 : (s.core s.cur).issues = true
  · by_cases h2 : (fields.any fun r => decide (58 ≤ r.toNat)) = true
    · exact .inr (.inl (by simp only [h1, h2, Bool.not_true]; rfl))
    · rw [Bool.not_eq_true] at h2
      by_cases h3 : ((reads.any fun r => s.regPending s.cur r.toNat) || masks.any fun m => s.maskPending s.cur m) = true
      · exact .inl (by simp only [h1, h2, h3, Bool.not_true]; rfl)
      · rw [Bool.not_eq_true] at h3
        exact .inr (.inr (by simp only [h1, h2, h3, Bool.not_true]; rfl))
  · rw [Bool.not_eq_true] at h1
    exact .inl (by simp only [h1, Bool.not_false]; rfl)

/-- A ready instruction acts. -/
theorem State.issue_acts {s : State} {fields reads : List Reg} {masks : List Nat} {k : Nat → Core → State}
    (hi : (s.core s.cur).issues = true) (hf : ∀ r ∈ fields, r.toNat < 58) (hr : ∀ r ∈ reads, s.regPending s.cur r.toNat = false)
    (hm : ∀ m ∈ masks, s.maskPending s.cur m = false) :
    s.issue fields reads masks k = .next (k s.cur (s.core s.cur)) := by
  unfold State.issue
  have h1 : (fields.any fun r => decide (58 ≤ r.toNat)) = false := by
    rw [List.any_eq_false]; intro r hr'; have := hf r hr'; simp; omega
  have h2 : (reads.any fun r => s.regPending s.cur r.toNat) = false := by
    rw [List.any_eq_false]; intro r hr'; simp [hr r hr']
  have h3 : (masks.any fun m => s.maskPending s.cur m) = false := by
    rw [List.any_eq_false]; intro m hm'; simp [hm m hm']
  simp only [hi, h1, h2, h3]
  rfl

end Sys2Proof.Machine
end

