-- ==== Sys2Proof/Laws/Effects.lean ====
section
/-! SUPPORT. The terms of the statements: a ready instruction acts, and what a result, a register write and a predicate
write leave of the state, in the words of Safety.lean. -/

set_option Elab.async false

namespace Sys2Proof.Machine

/-- A ready instruction acts. -/
theorem State.ready.acts {s : State} {fields reads : List Reg} {masks : List Nat} {k : Nat → Core → State}
    (h : s.ready fields reads masks) : s.issue fields reads masks k = .next (k s.cur s.here) :=
  State.issue_acts h.issues h.fields h.reads h.masks

/-- Fewer fields, reads and masks are ready too. -/
theorem State.ready.mono {s : State} {f f' r r' : List Reg} {m m' : List Nat} (h : s.ready f r m)
    (hf : ∀ x ∈ f', x ∈ f) (hr : ∀ x ∈ r', x ∈ r) (hm : ∀ x ∈ m', x ∈ m) : s.ready f' r' m' :=
  ⟨h.issues, fun x hx => h.fields x (hf x hx), fun x hx => h.reads x (hr x hx), fun x hx => h.masks x (hm x hx)⟩

/-- Nothing of the machine but its cores and commands. -/
def State.apart (s : State) : State := { s with cores := [], cmds := [] }

theorem State.apart_eq {s t : State} (h : t.apart = s.apart) : { t with cores := s.cores, cmds := s.cmds } = s := by
  have : { t.apart with cores := s.cores, cmds := s.cmds } = { s.apart with cores := s.cores, cmds := s.cmds } := by rw [h]
  exact this

@[simp] theorem State.apart_setCore (s : State) (n : Nat) (c : Core) : (s.setCore n c).apart = s.apart := rfl
@[simp] theorem State.apart_updCore (s : State) (n : Nat) (f : Core → Core) : (s.updCore n f).apart = s.apart := rfl
@[simp] theorem State.apart_advance (s : State) (n k : Nat) : (s.advance n k).apart = s.apart := rfl
@[simp] theorem State.apart_writeReg (s : State) (n r : Nat) (v : Word) : (s.writeReg n r v).apart = s.apart := by
  unfold State.writeReg; split <;> rfl
@[simp] theorem State.apart_writeRes (s : State) (n r : Nat) (v : Word) : (s.writeRes n r v).apart = s.apart := by
  unfold State.writeRes; simp

/-- One register write, in the words of the statements. -/
theorem wrote_writeReg (s : State) (r : Nat) (v : Word) : Wrote s (s.writeReg s.cur r v) [(r, v)] s.here.soff := by
  have hc := State.core_writeReg s s.cur r v
  have hh : (s.writeReg s.cur r v).here = (s.writeReg s.cur r v).core s.cur := by simp [State.here]
  have hs : (s.writeReg s.cur r v).here.soff = s.here.soff := by rw [hh, hc]; rfl
  constructor
  · intro q
    rw [hh]
    unfold Core.regAfter
    by_cases h57 : q = 57
    · subst h57; simp
    · simp only [h57, if_false]
      by_cases hq : r = q
      · subst hq; simp [State.reg_writeReg_same _ _ _ _ h57]
      · simp [hq, State.reg_writeReg_other _ _ _ _ _ (Ne.symm hq), State.here]
  · exact hs
  · rw [hh, hc]; rfl
  · rw [hh]
    by_cases h : r = 57
    · subst h
      simp only [State.writeReg_zero]
      show s.here.accs = _
      have : (fun a : Access => if [(57, v)].any (fun w => a.targets w.1) = true then { a with dst := 57 } else a) = id := by
        funext a
        by_cases ht : a.targets 57 = true
        · have hd : a.dst = 57 := by unfold Access.targets at ht; simp at ht; exact ht.1
          simp [← hd]
        · simp [ht]
      rw [this]; simp
    · simp [State.writeReg, h, State.core, State.setCore, SMap.get_put_same, State.here]
  · by_cases h : r = 57
    · subst h
      simp only [State.writeReg_zero]
      have : (fun k : Cmd => if [(57, v)].any (fun w => k.takes s.cur w.1) = true then { k with areg := 57#6 } else k) = id := by
        funext k
        by_cases ht : k.takes s.cur 57 = true
        · have hd : k.areg = 57#6 := by unfold Cmd.takes at ht; simp at ht; exact BitVec.eq_of_toNat_eq ht.2
          simp [ht, ← hd]
        · simp [ht]
      rw [this]; simp
    · simp [State.writeReg, h]
  · intro m hm; exact State.core_writeReg_other _ _ _ _ hm
  · exact State.apart_eq (by simp)

/-- Moving past an instruction after writes. -/
theorem Wrote.next {s t : State} {ws : List (Nat × Word)} {o : BitVec 32} (h : Wrote s t ws o) (hc : t.cur = s.cur) (k : Nat) :
    Wrote s (t.advance s.cur k) ws (o + BitVec.ofNat 32 k) := by
  have hh : (t.advance s.cur k).here = t.here.next k := by
    simp [State.here, State.advance, State.updCore, hc]
  constructor
  · intro r; rw [hh]; exact h.regs r
  · rw [hh]; simp [Core.next, h.soff]
  · rw [hh]; exact h.core
  · rw [hh]; exact h.accs
  · exact h.cmds
  · intro m hm
    rw [← h.others m hm]
    exact State.core_setCore_other _ _ _ _ hm
  · exact h.rest

/-- Continuing elsewhere after writes. -/
theorem Wrote.goto {s t : State} {ws : List (Nat × Word)} {o : BitVec 32} (h : Wrote s t ws o) (hc : t.cur = s.cur) (x : Int) :
    Wrote s (t.updCore s.cur (·.goto x)) ws (BitVec.ofInt 32 x) := by
  have hh : (t.updCore s.cur (·.goto x)).here = t.here.goto x := by
    simp [State.here, State.updCore, hc]
  constructor
  · intro r; rw [hh]; exact h.regs r
  · rw [hh]; simp [Core.goto]
  · rw [hh]; exact h.core
  · rw [hh]; exact h.accs
  · exact h.cmds
  · intro m hm
    rw [← h.others m hm]
    exact State.core_setCore_other _ _ _ _ hm
  · exact h.rest

/-- A second write after writes: the new one is the latest. -/
theorem Wrote.write {s t : State} {ws : List (Nat × Word)} {o : BitVec 32} (h : Wrote s t ws o) (hc : t.cur = s.cur)
    (r : Nat) (v : Word) : Wrote s (t.writeReg s.cur r v) ((r, v) :: ws) o := by
  have w := wrote_writeReg t r v
  rw [hc] at w
  have hx : (t.writeReg s.cur r v).here = (t.writeReg s.cur r v).core s.cur := by simp [State.here, hc]
  constructor
  · intro q
    rw [w.regs q]
    unfold Core.regAfter
    have h2 := h.regs q
    unfold Core.regAfter at h2
    by_cases h57 : q = 57
    · simp [h57]
    · simp only [h57, if_false] at h2 ⊢
      by_cases hq : r = q
      · simp [hq]
      · simp [hq, h2]
  · rw [w.soff, h.soff]
  · have h1 := w.core
    have h2 := h.core
    calc _ = { { (t.writeReg s.cur r v).here with
                regs := t.here.regs, accs := t.here.accs, soff := t.here.soff, entry := t.here.entry } with
                regs := s.here.regs, accs := s.here.accs, soff := s.here.soff, entry := s.here.entry } := rfl
      _ = { t.here with regs := s.here.regs, accs := s.here.accs, soff := s.here.soff, entry := s.here.entry } := by rw [h1]
      _ = s.here := h2
  · rw [w.accs, h.accs, List.map_map]
    congr 1
    funext a
    simp only [Function.comp, List.any_cons, List.any_nil, Bool.or_false]
    by_cases h1 : (ws.any fun w => a.targets w.1) = true
    · simp only [h1, if_true, Bool.or_true]
      split <;> rfl
    · simp only [h1, Bool.or_false]
      simp
  · rw [w.cmds, h.cmds, List.map_map]
    congr 1
    funext k
    simp only [Function.comp, List.any_cons, List.any_nil, Bool.or_false, hc]
    by_cases h1 : (ws.any fun w => k.takes s.cur w.1) = true
    · simp only [h1, if_true, Bool.or_true]
      split <;> rfl
    · simp only [h1, Bool.or_false]
      simp
  · intro m hm
    rw [w.others m (by rw [hc]; exact hm), h.others m hm]
  · have h1 := w.rest
    have h2 := h.rest
    calc _ = { { t.writeReg s.cur r v with cores := t.cores, cmds := t.cmds } with cores := s.cores, cmds := s.cmds } := rfl
      _ = { t with cores := s.cores, cmds := s.cmds } := by rw [h1]
      _ = s := h2

/-- A result: d, then ll, then the next word. -/
theorem wrote_writeRes (s : State) (r : Nat) (v : Word) :
    Wrote s ((s.writeRes s.cur r v).advance s.cur 1) [(r, v), (56, v)] (s.here.soff + 1) := by
  have h := ((wrote_writeReg s r v).write (by simp) 56 v).next (by simp) 1
  refine ⟨fun q => ?_, h.soff, h.core, ?_, ?_, h.others, h.rest⟩
  · rw [show (s.writeRes s.cur r v).advance s.cur 1 = ((s.writeReg s.cur r v).writeReg s.cur 56 v).advance s.cur 1 from rfl, h.regs q]
    unfold Core.regAfter
    by_cases h57 : q = 57
    · simp [h57]
    · by_cases h1 : r = q <;> by_cases h2 : 56 = q <;> simp [h57, h1, h2]
  · rw [show (s.writeRes s.cur r v).advance s.cur 1 = ((s.writeReg s.cur r v).writeReg s.cur 56 v).advance s.cur 1 from rfl, h.accs]
    congr 1; funext a; simp [Bool.or_comm]
  · rw [show (s.writeRes s.cur r v).advance s.cur 1 = ((s.writeReg s.cur r v).writeReg s.cur 56 v).advance s.cur 1 from rfl, h.cmds]
    congr 1; funext a; simp [Bool.or_comm]

/-- A predicate write, in the words of the statements. -/
theorem wrotePred_writePred (s : State) (p : Nat) (b : Bool) (hp : p < 16) :
    WrotePred s ((s.writePred s.cur p b).advance s.cur 1) p b := by
  have hx : s.writePred s.cur p b = (s.updCore s.cur (·.setPred p b)).writeReg s.cur 56 (bit64 b) := rfl
  rw [hx]
  have hh : (s.updCore s.cur (·.setPred p b)).here = s.here.setPred p b := by simp [State.here, State.updCore]
  have h := (wrote_writeReg (s.updCore s.cur (·.setPred p b)) 56 (bit64 b)).next (by rfl) 1
  rw [hh] at h
  have hr : (s.here.setPred p b).regs = s.here.regs := by unfold Core.setPred; split <;> rfl
  have ha : (s.here.setPred p b).accs = s.here.accs := by unfold Core.setPred; split <;> rfl
  have ho : (s.here.setPred p b).soff = s.here.soff := by unfold Core.setPred; split <;> rfl
  have hq : { s.here.setPred p b with preds := s.here.preds } = s.here := by unfold Core.setPred; split <;> rfl
  have hcore := h.core
  constructor
  · intro j _
    have hp2 : ∀ u v : Core, u.preds = v.preds → u.pred j = v.pred j := fun u v e => by unfold Core.pred; rw [e]
    rw [← Core.pred_setPred _ _ _ _ hp]
    refine hp2 _ _ ?_
    rw [hh] at hcore
    have := congrArg Core.preds hcore
    exact this
  · intro q
    have := h.regs q
    rw [hh] at this
    refine this.trans ?_
    unfold Core.regAfter bit64 Core.reg
    rw [hr]
  · have := h.soff; rw [ho] at this; exact this
  · rw [hh] at hcore
    have h2 := congrArg (fun c : Core => { c with
      regs := s.here.regs, accs := s.here.accs, soff := s.here.soff, entry := s.here.entry, preds := s.here.preds }) hcore
    refine Eq.trans ?_ (h2.trans ?_)
    · rfl
    · have h3 := congrArg (fun c : Core => { c with
        regs := s.here.regs, accs := s.here.accs, soff := s.here.soff, entry := s.here.entry }) hq
      exact h3
  · have := h.accs; rw [hh, ha] at this; simpa using this
  · have := h.cmds; simpa using this
  · intro m hm
    have := h.others m hm
    refine this.trans ?_
    exact State.core_setCore_other _ _ _ _ hm
  · exact State.apart_eq (by simp)

/-! ## The shared shapes of the ALU forms, compares and predicate operations -/

/-- A form of two registers completes with its result. -/
theorem State.results_alu2 {s : State} {d a b : Reg} {i : Instr} (f : Word → Word → Word) (h : s.ready [d, a, b] [a, b] [])
    (hi : exec i s = alu2 f d a b s) : s.results i d.toNat (f (s.here.reg a.toNat) (s.here.reg b.toNat)) :=
  ⟨_, hi.trans h.acts, wrote_writeRes s d.toNat _⟩

/-- A form of one register completes with its result. -/
theorem State.results_alu1 {s : State} {d a : Reg} {i : Instr} (f : Word → Word) (h : s.ready [d, a] [a] [])
    (hi : exec i s = alu1 f d a s) : s.results i d.toNat (f (s.here.reg a.toNat)) :=
  ⟨_, hi.trans h.acts, wrote_writeRes s d.toNat _⟩

/-- A constant completes with its result. -/
theorem State.results_alu0 {s : State} {d : Reg} {i : Instr} (v : Word) (h : s.ready [d] [] []) (hi : exec i s = alu0 v d s) :
    s.results i d.toNat v :=
  ⟨_, hi.trans h.acts, wrote_writeRes s d.toNat _⟩

/-- A compare of two registers completes with its condition. -/
theorem State.decides_cmp2 {s : State} {p : PredIdx} {a b : Reg} {i : Instr} (cc : Nat) (h : s.ready [a, b] [a, b] [])
    (hi : exec i s = cmp2 cc p a b s) : s.decides i p.toNat (condHolds cc (s.here.reg a.toNat) (s.here.reg b.toNat)) :=
  ⟨_, hi.trans h.acts, wrotePred_writePred s _ _ (by omega)⟩

/-- A compare with an immediate completes with its condition. -/
theorem State.decides_cmp1 {s : State} {p : PredIdx} {a : Reg} {k : BitVec 13} {i : Instr} (cc : Nat) (h : s.ready [a] [a] [])
    (hi : exec i s = cmp1 cc p a k s) : s.decides i p.toNat (condHolds cc (s.here.reg a.toNat) (imm13 k)) :=
  ⟨_, hi.trans h.acts, wrotePred_writePred s _ _ (by omega)⟩

/-- A signed reading of a bit pattern. -/
theorem sx_toInt (x w : Nat) (hw : 0 < w) : sx x w = (BitVec.ofNat w x).toInt := by
  obtain ⟨k, rfl⟩ : ∃ k, w = k + 1 := ⟨w - 1, by omega⟩
  simp only [sx, BitVec.toInt, BitVec.toNat_ofNat, Nat.add_sub_cancel, Nat.pow_succ]
  split <;> split <;> omega

end Sys2Proof.Machine
end

