-- ==== Sys2Proof/Laws/Encoding.lean ====
section
/-! SUPPORT. Words and fields: reading back what the encoder lays out. -/

set_option Elab.async false

namespace Sys2Proof

theorem append_toNat {m n : Nat} (x : BitVec m) (y : BitVec n) : (x ++ y).toNat = x.toNat * 2 ^ n + y.toNat := by
  rw [BitVec.toNat_append, Nat.shiftLeft_eq, Nat.mul_comm, ← Nat.two_pow_add_eq_or_of_lt y.isLt, Nat.mul_comm]

theorem fieldOf_toNat (w : BitVec 32) (lo n : Nat) : (fieldOf w lo n).toNat = w.toNat / 2 ^ lo % 2 ^ n := by
  simp [fieldOf]

/-- A word is read back from the bytes it is stored as. -/
theorem wordAt_wordBytes (w : BitVec 32) (r : List Byte) : wordAt (wordBytes w ++ r) = some (w, r) := by
  simp only [wordBytes, List.cons_append, List.nil_append, wordAt, Option.some.injEq, Prod.mk.injEq, and_true]
  apply BitVec.eq_of_toNat_eq
  simp only [append_toNat, fieldOf_toNat]
  have := w.isLt
  omega

/-- A field of a number that is zero leaves its mask zero. -/
theorem land_zero (x lo n : Nat) (h : x / 2 ^ lo % 2 ^ n = 0) : x &&& ((2 ^ n - 1) * 2 ^ lo) = 0 := by
  apply Nat.eq_of_testBit_eq
  intro i
  simp only [Nat.testBit_and, Nat.zero_testBit]
  by_cases hi : lo ≤ i ∧ i < lo + n
  · have h1 : (x / 2 ^ lo % 2 ^ n).testBit (i - lo) = false := by simp [h]
    have h2 : i - lo < n := by omega
    have h3 : lo + (i - lo) = i := by omega
    simp only [Nat.testBit_mod_two_pow, Nat.testBit_div_two_pow, h2, decide_true, Bool.true_and, h3,
      Nat.add_comm (i - lo) lo] at h1
    simp [h1]
  · have : ((2 ^ n - 1) * 2 ^ lo).testBit i = false := by
      rw [Nat.testBit_mul_two_pow, Nat.testBit_two_pow_sub_one]
      by_cases hl : lo ≤ i
      · have : ¬ i - lo < n := by omega
        simp [this]
      · simp [hl]
    simp [this]

theorem zeroUnless_ok {w : BitVec 32} {mask : Nat} {op : BitVec 8} {i : Instr} (h : w.toNat &&& mask = 0) :
    zeroUnless w mask op i = .ok i := by
  simp [zeroUnless, h]

/-- A scalar instruction's bytes decode as its word does. -/
theorem decode_scalar {w : BitVec 32} {i : Instr} (h : (fieldOf w 28 4).toNat ≠ 15) (hw : decodeWord w = .ok i) :
    decode (bytesOf [w]) = .ok (i, 1) := by
  have h' : fieldOf w 28 4 ≠ 0xF#4 := fun e => h (by rw [e]; rfl)
  simp only [decode, bytesOf, wordAt_wordBytes, h', hw, if_false]
  rfl

/-! ## Commands (R156–R158) -/

theorem ofNat_toNat_small {x : Nat} (h : x < 2 ^ 32) : (BitVec.ofNat 32 x).toNat = x := by
  rw [BitVec.toNat_ofNat, Nat.mod_eq_of_lt h]

theorem decide_bit (b : Bool) (f : BitVec 1) (h : f.toNat = b.toNat) : decide (f = 1#1) = b := by
  cases b
  · have : f = 0#1 := BitVec.eq_of_toNat_eq h
    subst this; rfl
  · have : f = 1#1 := BitVec.eq_of_toNat_eq h
    subst this; rfl

/-- The fields of a command are read back from the words they are laid out in. -/
theorem unpack_pack (opc : Nat) (w : CmdWords) (ho : opc < 256) :
    unpackCmd (BitVec.ofNat 32 (w.pack0 opc)) (BitVec.ofNat 32 w.pack1) (BitVec.ofNat 32 w.pack2) w.w3 = w
      ∧ (fieldOf (BitVec.ofNat 32 (w.pack0 opc)) 20 8).toNat = opc
      ∧ (fieldOf (BitVec.ofNat 32 (w.pack0 opc)) 28 4).toNat = 15 := by
  obtain ⟨ga, gb, hint, prio, close, after, var, a, b, c, d, e, mode, nw, wa, wb, dv, dt, mi, tix, w3⟩ := w
  have hga := ga.isLt; have hgb := gb.isLt; have hhint := hint.isLt; have hprio := prio.isLt; have hvar := var.isLt
  have ha := a.isLt; have hb := b.isLt; have hc := c.isLt; have hd := d.isLt; have he := e.isLt; have hmode := mode.isLt
  have hnw := nw.isLt; have hwa := wa.isLt; have hwb := wb.isLt; have hdt := dt.isLt; have hmi := mi.isLt; have htix := tix.isLt
  have hclose := Bool.toNat_lt close; have hafter := Bool.toNat_lt after; have hdv := Bool.toNat_lt dv
  refine ⟨?_, ?_, ?_⟩
  · simp only [unpackCmd, CmdWords.mk.injEq]
    and_intros
    all_goals first
      | trivial
      | (apply decide_bit
         rw [fieldOf_toNat]
         simp only [CmdWords.pack0, CmdWords.pack2, BitVec.toNat_ofNat]
         omega)
      | (apply BitVec.eq_of_toNat_eq
         rw [fieldOf_toNat]
         simp only [CmdWords.pack0, CmdWords.pack1, CmdWords.pack2, BitVec.toNat_ofNat]
         omega)
  · rw [fieldOf_toNat]
    simp only [CmdWords.pack0, BitVec.toNat_ofNat]
    omega
  · rw [fieldOf_toNat]
    simp only [CmdWords.pack0, BitVec.toNat_ofNat]
    omega

/-- A command's bytes decode to the instruction its opcode and fields name, where they are admitted. -/
theorem decode_cmdWords {w0 w1 w2 w3 : BitVec 32} {opc : Nat} {w : CmdWords} {i : Instr}
    (hu : unpackCmd w0 w1 w2 w3 = w) (hop : (fieldOf w0 20 8).toNat = opc) (hf : (fieldOf w0 28 4).toNat = 15)
    (hi : cmdInstr opc w = some i) (ha : w.admitted opc = true) : decode (bytesOf [w0, w1, w2, w3]) = .ok (i, 4) := by
  have h' : fieldOf w0 28 4 = 0xF#4 := BitVec.eq_of_toNat_eq (hf.trans (by decide))
  simp only [CmdWords.admitted, Bool.and_eq_true, Bool.not_eq_true'] at ha
  have hd : decodeCmd w0 w1 w2 w3 = .ok i := by
    simp only [decodeCmd, hop, hu, hi, ha.1, ha.2, Bool.false_eq_true, if_false, if_true]
  simp only [decode, bytesOf, wordAt_wordBytes, h', if_true, hd, Except.map]

theorem decode_cmd (opc : Nat) (w : CmdWords) (i : Instr) (ho : opc < 256) (hi : cmdInstr opc w = some i)
    (ha : w.admitted opc = true) :
    decode (bytesOf [BitVec.ofNat 32 (w.pack0 opc), BitVec.ofNat 32 w.pack1, BitVec.ofNat 32 w.pack2, w.w3]) = .ok (i, 4) :=
  have h := unpack_pack opc w ho
  decode_cmdWords h.1 h.2.1 h.2.2 hi ha

end Sys2Proof
end

