-- ==== Sys2Proof/Laws/Memory.lean ====
section
/-! SUPPORT. Physical memory: reads after writes, and the canonical form kept by every write. -/

set_option Elab.async false

namespace Sys2Proof.Machine

@[simp] theorem Memory.read_write_same (m : Memory) (a : Nat) (v : Byte) : (m.write a v).read a = v :=
  SMap.get_set_same ..

theorem Memory.read_write_other (m : Memory) {a b : Nat} (v : Byte) (h : b ≠ a) : (m.write a v).read b = m.read b :=
  SMap.get_set_other _ _ _ h

theorem Memory.wf_write {m : Memory} (a : Nat) (v : Byte) (h : m.wf = true) : (m.write a v).wf = true := SMap.wf_set a v h

theorem Memory.wf_writeBytes {m : Memory} (a : Nat) (bs : List Byte) (h : m.wf = true) : (m.writeBytes a bs).wf = true :=
  SMap.wf_setList a bs h

theorem Memory.wf_writeNat {m : Memory} (a n v : Nat) (h : m.wf = true) : (m.writeNat a n v).wf = true :=
  Memory.wf_writeBytes a _ h

theorem Memory.wf_filter {m : Memory} (p : Nat × Byte → Bool) (h : m.wf = true) : Memory.wf (m.filter p) = true :=
  SMap.wf_filter p h

theorem Memory.read_writeBytes_other (m : Memory) {a b : Nat} (bs : List Byte) (h : b < a ∨ a + bs.length ≤ b) :
    (m.writeBytes a bs).read b = m.read b := SMap.get_setList_other _ _ _ h

theorem Memory.read_writeBytes_in (m : Memory) (a : Nat) (bs : List Byte) (k : Nat) (h : k < bs.length) :
    (m.writeBytes a bs).read (a + k) = bs[k] := SMap.get_setList_in _ _ _ _ _ h

@[simp] theorem leBytes_length (n v : Nat) : (leBytes n v).length = n := by
  induction n generalizing v with
  | zero => rfl
  | succ n ih => simp [leBytes, ih]

theorem leNat_leBytes (n v : Nat) : leNat (leBytes n v) = v % 256 ^ n := by
  induction n generalizing v with
  | zero => simp [leBytes, leNat, Nat.mod_one]
  | succ n ih =>
    rw [leBytes, leNat, ih, Nat.pow_succ', Nat.mod_mul]
    simp

theorem Memory.readBytes_congr {m m' : Memory} {a n : Nat} (h : ∀ k < n, m'.read (a + k) = m.read (a + k)) :
    m'.readBytes a n = m.readBytes a n := by
  induction n generalizing a with
  | zero => rfl
  | succ n ih =>
    have h0 := h 0 (by omega)
    simp only [Memory.readBytes, SMap.getList, List.cons.injEq]
    exact ⟨h0, ih fun k hk => by have := h (k + 1) (by omega); rwa [show a + 1 + k = a + (k + 1) by omega]⟩

theorem Memory.readBytes_writeBytes_same (m : Memory) (a : Nat) (bs : List Byte) :
    (m.writeBytes a bs).readBytes a bs.length = bs := by
  induction bs generalizing m a with
  | nil => rfl
  | cons b bs ih =>
    simp only [List.length_cons, Memory.readBytes, SMap.getList, List.cons.injEq]
    refine ⟨?_, ih (m.write a b) (a + 1)⟩
    have := Memory.read_writeBytes_in m a (b :: bs) 0 (by simp)
    simpa [Memory.read] using this

/-- A value read back from where it was written, in as many bytes. -/
theorem Memory.readNat_writeNat_same (m : Memory) (a n v : Nat) : (m.writeNat a n v).readNat a n = v % 256 ^ n := by
  have := Memory.readBytes_writeBytes_same m a (leBytes n v)
  rw [leBytes_length] at this
  rw [Memory.readNat, Memory.writeNat, this, leNat_leBytes]

/-- A value elsewhere is left alone by a write. -/
theorem Memory.readNat_writeNat_other (m : Memory) {a b n k : Nat} (v : Nat) (h : b + k ≤ a ∨ a + n ≤ b) :
    (m.writeNat a n v).readNat b k = m.readNat b k := by
  unfold Memory.readNat
  rw [Memory.readBytes_congr]
  intro j hj
  exact Memory.read_writeBytes_other m _ (by simp; omega)

end Sys2Proof.Machine
end

