-- ==== Sys2Proof/Laws/Stores.lean ====
section
/-! SUPPORT. What the memory operations of the home slices can do: when they succeed, what they leave, and that they keep
memory in its canonical form. -/

set_option Elab.async false

namespace Sys2Proof.Machine

@[simp] theorem State.keepHost_mem (s : State) (pa : Nat) : (s.keepHost pa).mem = s.mem := by
  unfold State.keepHost; split <;> rfl

theorem State.keepHosts_mem (s : State) (pa n : Nat) : (s.keepHosts pa n).mem = s.mem := by
  induction n generalizing s pa with
  | zero => rfl
  | succ n ih => rw [State.keepHosts, ih, State.keepHost_mem]

@[simp] theorem State.holdNewer_mem (s : State) (pol : BitVec 2) (pa : Nat) : (s.holdNewer pol pa).mem = s.mem := by
  unfold State.holdNewer; split
  · rfl
  · exact State.keepHost_mem s pa

/-- A write at the home slice: it succeeds where the storage is reached, and then only memory, poison and the kept bytes of host
memory may differ. -/
theorem State.homeWrite_cases {s t : State} {pol : BitVec 2} {va pa : Nat} {v : Byte} {clears : Bool}
    (h : s.homeWrite pol va pa v clears = .ok t) :
    s.blocked va pa = none ∧ t.mem = s.mem.write pa v ∧
      t.poison = (if clears then SMap.set .clean s.poison (pa / 128) .clean else s.poison) ∧
      { t with mem := s.mem, poison := s.poison, hostOld := s.hostOld } = s := by
  unfold State.homeWrite at h
  split at h
  · cases h
  · next hl =>
    cases h
    refine ⟨hl, rfl, rfl, ?_⟩
    unfold State.holdNewer State.keepHost
    repeat' split
    all_goals rfl

theorem State.homeWrite_ok (s : State) (pol : BitVec 2) (va pa : Nat) (v : Byte) (clears : Bool) (h : s.blocked va pa = none) :
    ∃ t, s.homeWrite pol va pa v clears = .ok t := by
  unfold State.homeWrite; rw [h]; exact ⟨_, rfl⟩

/-- Filling a presence word: it succeeds where the word is empty and its storage is reached, and then memory holds the value, the
word is full, and its deferrals hold the value. -/
theorem State.fillWord_cases {s t : State} {va pa : Nat} {v : Word} (h : s.fillWord va pa v = .ok t) :
    s.isFull pa = false ∧ s.blocked va pa = none ∧ t.mem = s.mem.writeNat (pa / 8 * 8) 8 v.toNat ∧
      t.full = SMap.set false s.full (pa / 8) true := by
  unfold State.fillWord at h
  split at h
  · cases h
  · next hf =>
    split at h
    · cases h
    · next hl => cases h; exact ⟨by simpa using hf, hl, rfl, rfl⟩

theorem State.homeWrite_wf {s t : State} {pol : BitVec 2} {va pa : Nat} {v : Byte} {clears : Bool}
    (h : s.homeWrite pol va pa v clears = .ok t) (hm : s.mem.wf = true) : t.mem.wf = true := by
  rw [(State.homeWrite_cases h).2.1]; exact Memory.wf_write _ _ hm

theorem State.fillWord_wf {s t : State} {va pa : Nat} {v : Word} (h : s.fillWord va pa v = .ok t) (hm : s.mem.wf = true) :
    t.mem.wf = true := by rw [(State.fillWord_cases h).2.2.1]; exact Memory.wf_writeNat _ _ _ hm

@[simp] theorem State.mem_setBank (s : State) (n b : Nat) (k : Bank) : (s.setBank n b k).mem = s.mem := rfl
@[simp] theorem State.mem_putWindow (s : State) (k b va pa : Nat) (v : Byte) (d w : Bool) : (s.putWindow k b va pa v d w).mem = s.mem := rfl

@[simp] theorem State.mem_updCmd (s : State) (id : Nat) (f : Cmd → Cmd) : (s.updCmd id f).mem = s.mem := rfl

/-- Keeping the mappings of a command leaves memory as it was. -/
@[simp] theorem State.mem_keepPages (s : State) (g : Agent) (va n : Nat) : (s.keepPages g va n).mem = s.mem := by
  unfold State.keepPages; split <;> rfl

@[simp] theorem State.mem_tear (s : State) (id : Option Nat) (g : Agent) (va n : Nat) : (s.tear id g va n).mem = s.mem := by
  unfold State.tear; split <;> rfl

/-- A byte that a bank holds takes what a store has written at the home slice; memory stays. -/
@[simp] theorem State.mem_alsoWindow (s : State) (n : Option Nat) (va pa : Nat) (v : Byte) (c : Bool) :
    (s.alsoWindow n va pa v c).mem = s.mem := by
  unfold State.alsoWindow
  repeat' split
  all_goals rfl

/-- An agent that makes its accesses for no command keeps no mapping. -/
@[simp] theorem State.keepPages_none (s : State) (k va n : Nat) (c : Option Nat) : s.keepPages ⟨k, c, none⟩ va n = s := rfl

/-- It translates through its context's mappings. -/
@[simp] theorem State.pagesFor_none (s : State) (k : Nat) (c : Option Nat) : s.pagesFor ⟨k, c, none⟩ = s.pages k := rfl

theorem State.writeBack_wf {s : State} (x : Sector) (hm : s.mem.wf = true) : (s.writeBack x).mem.wf = true := by
  unfold State.writeBack
  split
  · exact Memory.wf_writeBytes _ _ hm
  · exact hm

theorem State.writeBackList_wf {s : State} (l : List (Nat × Sector)) (hm : s.mem.wf = true) :
    (s.writeBackList l).mem.wf = true := by
  induction l generalizing s with
  | nil => exact hm
  | cons e r ih => exact ih (State.writeBack_wf e.2 hm)

theorem State.evict_wf {s : State} (n b va : Nat) (hm : s.mem.wf = true) : (s.evict n b va).mem.wf = true := by
  unfold State.evict
  dsimp only
  split
  · exact hm
  · exact State.writeBack_wf _ hm

/-- Filling a window's sector keeps memory's form: it writes at most the sector it makes room in back. -/
theorem State.fill_wf {s t : State} {n b va pa : Nat} (h : s.fill n b va pa = .ok t) (hm : s.mem.wf = true) :
    t.mem.wf = true := by
  unfold State.fill at h
  dsimp only at h
  split at h
  · cases h; exact hm
  · split at h
    · cases h
    · split at h
      · cases h
      · cases h; exact State.evict_wf n b va hm

theorem State.landShown_wf {s : State} (n : Nat) (pol : BitVec 2) (va pa : Nat) (v : Byte) (hm : s.mem.wf = true) :
    (s.landShown n pol va pa v).mem.wf = true := by
  unfold State.landShown
  rw [State.mem_alsoWindow]
  exact Memory.wf_write _ _ hm

theorem State.landPieces_wf {s : State} (n : Nat) (a : Access) (hit : Nat × Nat → Bool) (hm : s.mem.wf = true) :
    (s.landPieces n a hit).mem.wf = true := by
  have h : ∀ (l : List (Nat × Nat × Byte)) (s : State), s.mem.wf = true →
      (l.foldl (fun s e => s.landShown n a.pol (a.va + e.1) e.2.1 e.2.2) s).mem.wf = true := by
    intro l
    induction l with
    | nil => exact fun _ hs => hs
    | cons e r ih => exact fun s hs => ih _ (State.landShown_wf n a.pol _ _ _ hs)
  exact h _ _ hm

theorem State.settleShown_wf {s : State} (n pa : Nat) (hm : s.mem.wf = true) : (s.settleShown n pa).mem.wf = true := by
  unfold State.settleShown
  split
  · exact hm
  · exact State.landPieces_wf _ _ _ hm

/-- Performing every store that a core's agents see keeps memory's form. -/
theorem State.settleAll_wf {s : State} (n : Nat) (hm : s.mem.wf = true) : (s.settleAll n).mem.wf = true := by
  have h : ∀ (l : List Access) (s : State), s.mem.wf = true →
      (l.foldl (fun s a => s.landPieces n a fun _ => true) s).mem.wf = true := by
    intro l
    induction l with
    | nil => exact fun _ hs => hs
    | cons e r ih => exact fun s hs => ih _ (State.landPieces_wf _ _ _ hs)
  exact h _ _ hm

theorem State.settleFor_wf {s : State} (n : Option Nat) (pa : Nat) (hm : s.mem.wf = true) : (s.settleFor n pa).mem.wf = true := by
  cases n with
  | none => exact hm
  | some n => exact State.settleShown_wf n pa hm

theorem State.storeByte_wf {s t : State} {n : Option Nat} {pol : BitVec 2} {va pa : Nat} {v : Byte} {whole clears : Bool}
    (h : s.storeByte n pol va pa v whole clears = .ok t) (hm : s.mem.wf = true) : t.mem.wf = true := by
  have hs := State.settleFor_wf n pa hm
  unfold State.storeByte at h
  dsimp only at h
  split at h
  · split at h
    · next hf => cases h; rw [State.mem_putWindow]; exact State.fill_wf hf hs
    · split at h
      · cases h
      · cases h; exact State.evict_wf _ _ _ hs
  · split at h
    · cases h
    · next hw => cases h; rw [State.mem_alsoWindow]; exact State.homeWrite_wf hw hs

theorem State.storeBytes_wf {n : Option Nat} {pol : BitVec 2} {va0 n0 va : Nat} {l : List (Nat × Byte)} {s t : State}
    (h : s.storeBytes n pol va0 n0 va l = .ok t) (hm : s.mem.wf = true) : t.mem.wf = true := by
  induction l generalizing s va with
  | nil => cases h; exact hm
  | cons p r ih =>
    unfold State.storeBytes at h
    split at h
    · cases h
    · next hb => exact ih h (State.storeByte_wf hb hm)

theorem State.store_wf {s t : State} {g : Agent} {pol : BitVec 2} {va : Nat} {bs : List Byte} (h : s.store g pol va bs = .ok t)
    (hm : s.mem.wf = true) : t.mem.wf = true := by
  unfold State.store at h
  split at h
  · cases h
  · exact State.storeBytes_wf h (by simpa using hm)

/-! ## When they succeed -/

/-- A range translates when each of its bytes does. -/
theorem translateRange_ok (pages : List Page) (f : Nat → Nat) (need : Need) (va n : Nat)
    (h : ∀ i < n, translate pages (va + i) need = .ok (f (va + i))) :
    translateRange pages va need n = .ok ((List.range n).map fun i => f (va + i)) := by
  induction n generalizing va with
  | zero => rfl
  | succ n ih =>
    have h0 := h 0 (by omega)
    rw [Nat.add_zero] at h0
    have hr := ih (va + 1) fun i hi => by have := h (i + 1) (by omega); rwa [show va + 1 + i = va + (i + 1) from by omega]
    unfold translateRange
    rw [h0]
    dsimp only
    rw [hr, List.range_succ_eq_map, List.map_cons, List.map_map]
    have he : ((fun i => f (va + i)) ∘ Nat.succ) = fun i => f (va + 1 + i) := by
      funext i
      show f (va + (i + 1)) = f (va + 1 + i)
      rw [show va + 1 + i = va + (i + 1) from by omega]
    rw [he]
    rfl

/-- Bytes that can be reached and are not poisoned are read from memory, one after the other. -/
theorem State.homeReads_ok {s : State} {n : Nat} (va a : Nat)
    (h : ∀ va, ∀ i < n, s.blocked va (a + i) = none ∧ s.poisoned (a + i) = false) :
    s.homeReads va ((List.range n).map (a + ·)) = .ok (s.mem.readBytes a n) := by
  induction n generalizing va a with
  | zero => rfl
  | succ n ih =>
    have h0 := h va 0 (by omega)
    have hr := ih (va + 1) (a + 1) fun v i hi => by
      have := h v (i + 1) (by omega); rwa [show a + 1 + i = a + (i + 1) from by omega]
    rw [Nat.add_zero] at h0
    rw [List.range_succ_eq_map, List.map_cons, List.map_map]
    have he : ((a + ·) ∘ Nat.succ) = (a + 1 + ·) := by
      funext i
      show a + (i + 1) = a + 1 + i
      omega
    rw [he, State.homeReads, Nat.add_zero, State.homeRead, h0.1, h0.2]
    dsimp only [Bool.false_eq_true, if_false]
    rw [hr]
    simp [Memory.readBytes, SMap.getList, Memory.read]

/-- Code and tables at addresses that translate to themselves are what memory holds there. -/
theorem State.loadEx_ok {s : State} {k va n : Nat} (ht : ∀ i < n, translate (s.pages k) (va + i) Need.fetch = .ok (va + i))
    (h : ∀ v, ∀ i < n, s.blocked v (va + i) = none ∧ s.poisoned (va + i) = false) :
    s.loadEx k va n = .ok (s.mem.readBytes va n) := by
  rw [State.loadEx, translateRange_ok _ id _ _ _ ht]
  exact s.homeReads_ok va va h

/-- What keeps storage from being reached stays as it is in every write of bytes of an agent without windows. -/
theorem State.homeWrite_blocked {s t : State} {pol : BitVec 2} {va pa : Nat} {v : Byte} {clears : Bool}
    (h : s.homeWrite pol va pa v clears = .ok t) : ∀ x q, t.blocked x q = s.blocked x q := by
  intro x q
  have hr := (State.homeWrite_cases h).2.2.2
  have h1 : t.hostDown = s.hostDown := by rw [← hr]
  have h2 : t.memPorts = s.memPorts := by rw [← hr]
  have h3 : t.channels = s.channels := by rw [← hr]
  unfold State.blocked State.copying State.linkFault
  rw [h1, h2, h3]

/-- An agent without windows stores its bytes when the storage of each is reached. -/
theorem State.storeBytes_ok {pol : BitVec 2} {va0 n0 va : Nat} {l : List (Nat × Byte)} {s : State}
    (h : ∀ x, ∀ p ∈ l, s.blocked x p.1 = none) : ∃ t, s.storeBytes none pol va0 n0 va l = .ok t := by
  induction l generalizing s va with
  | nil => exact ⟨_, rfl⟩
  | cons p r ih =>
    obtain ⟨u, hu⟩ := State.homeWrite_ok s pol va p.1 p.2 (coversSector va0 n0 va) (h va p List.mem_cons_self)
    obtain ⟨t, ht⟩ := ih (va := va + 1) (s := u) fun x q hq => by
      rw [State.homeWrite_blocked hu]; exact h x q (List.mem_cons_of_mem _ hq)
    refine ⟨t, ?_⟩
    have hb : s.storeByte none pol va p.1 p.2 (coversSector va0 n0 va) (coversSector va0 n0 va) = .ok u := by
      unfold State.storeByte State.settleFor
      simp only [Option.bind_none, ite_self, hu]
      rfl
    unfold State.storeBytes
    rw [hb]
    exact ht

/-- The same with the translation. -/
theorem State.store_ok (s : State) (k : Nat) (pol : BitVec 2) (va : Nat) (bs : List Byte) (f : Nat → Nat)
    (h : ∀ i < bs.length, translate (s.pages k) (va + i) Need.write = .ok (f (va + i))) (hl : ∀ x p, s.blocked x p = none) :
    ∃ t, s.store ⟨k, none, none⟩ pol va bs = .ok t := by
  unfold State.store
  rw [State.pagesFor_none, translateRange_ok _ f _ _ _ h]
  exact State.storeBytes_ok fun x p _ => hl x p.1

end Sys2Proof.Machine
end

