-- ==== Sys2Proof/Laws/Images.lean ====
section
/-! SUPPORT. The save image has its one size, and a member is saved wherever its slot can be written. -/

set_option Elab.async false

namespace Sys2Proof.Machine

theorem length_flatMap_const {α β : Type} {l : List α} {f : α → List β} {n : Nat} (h : ∀ x ∈ l, (f x).length = n) :
    (l.flatMap f).length = n * l.length := by
  induction l with
  | nil => rfl
  | cons a r ih =>
    rw [List.flatMap_cons, List.length_append, h a List.mem_cons_self, ih fun x hx => h x (List.mem_cons_of_mem _ hx),
      List.length_cons, Nat.mul_succ, Nat.add_comm]

theorem bankImage_length (c : Core) (b : Nat) : (bankImage c b).length = 196608 := by
  unfold bankImage
  rw [length_flatMap_const (n := 768) fun i _ => by rw [length_flatMap_const (n := 4) fun j _ => leBytes_length _ _, List.length_range],
    List.length_range]

theorem PortDesc.bytes_length (d : PortDesc) (hc : d.cnt.length = 4) (hs : d.str.length = 4) : d.bytes.length = 64 := by
  unfold PortDesc.bytes
  simp only [List.length_append, leBytes_length, length_flatMap_const fun _ _ => leBytes_length 4 _, hc, hs]

theorem portImage_length (c : Core) (free : Nat → Byte) (p : Nat) (h : (c.port p).idx.length = 4) : (portImage c free p).length = 64 := by
  unfold portImage
  simp only [List.length_append, leBytes_length, length_flatMap_const fun _ _ => leBytes_length 4 _, h, List.length_map,
    List.length_range]

/-- The image of a member has the manual's 425,984 bytes (R329). -/
theorem Core.image_length (c : Core) (cmds : List Cmd) (live : Word) (prog : List Nat) (free : Nat → Byte) (hp : prog.length ≤ 32)
    (h : ∀ p, (c.port p).idx.length = 4 ∧ (c.port p).desc.cnt.length = 4 ∧ (c.port p).desc.str.length = 4) :
    (c.image cmds live prog free).length = imageSize := by
  have h1 : ((List.range 57).flatMap fun r => if live.getLsbD r then leBytes 8 (c.reg r).toNat
      else (List.range 8).map fun i => free (0x140 + 8 * r + i)).length = 456 := by
    rw [length_flatMap_const (n := 8) fun r _ => ?_, List.length_range]
    split
    · exact leBytes_length _ _
    · rw [List.length_map, List.length_range]
  have h2 : ((List.range 16).flatMap fun p => (c.port p).desc.bytes).length = 1024 := by
    rw [length_flatMap_const (n := 64) fun p _ => PortDesc.bytes_length _ (h p).2.1 (h p).2.2, List.length_range]
  have h3 : ((List.range 16).flatMap (portImage c free)).length = 1024 := by
    rw [length_flatMap_const (n := 64) fun p _ => portImage_length c free p (h p).1, List.length_range]
  have h4 : ((List.range 7).flatMap fun m => leBytes 32 (c.mask (m + 1)).toNat).length = 224 := by
    rw [length_flatMap_const (n := 32) fun _ _ => leBytes_length _ _, List.length_range]
  have h5 : ((List.range 64).flatMap fun t => leBytes 8 (tagWord cmds t)).length = 512 := by
    rw [length_flatMap_const (n := 8) fun _ _ => leBytes_length _ _, List.length_range]
  unfold Core.image
  simp only [List.length_append, h1, h2, h3, h4, h5, bankImage_length, List.length_map, List.length_range,
    length_flatMap_const fun _ _ => leBytes_length 8 _, imageSize, List.length_cons, List.length_nil]
  omega

/-- The progress words fit their area (R329). -/
theorem State.progWords_length (s : State) (n : Nat) : (s.progWords n).length ≤ 32 := by
  unfold State.progWords
  simp only [List.length_append, List.length_cons, List.length_nil, List.length_take]
  omega

/-- A member is saved when every byte of its slot translates and all storage is reached (R328). -/
theorem State.saveMember_ok {s s0 : State} {d e rank n slot : Nat} (f : Nat → Nat)
    (h0 : ((((s.landFilled n).flushCore n).unissueCfg n).discardBefore n).restCmds n = s0)
    (hp : ∀ p, ((s0.core n).port p).idx.length = 4 ∧ ((s0.core n).port p).desc.cnt.length = 4 ∧
      ((s0.core n).port p).desc.str.length = 4)
    (ht : ∀ i < imageSize, let va := s0.slotVa (s0.core n).ctx slot + i
      translate (s0.pages (s0.core n).ctx) va Need.write = .ok (f va))
    (hl : ∀ x p, s0.blocked x p = none) : ∃ u, s.saveMember d e rank n slot = .ok u := by
  unfold State.saveMember
  dsimp only
  rw [h0]
  obtain ⟨t, h⟩ := State.store_ok s0 (s0.core n).ctx 1#2 (s0.slotVa (s0.core n).ctx slot)
    ((s0.core n).image (s0.cmds.filter fun k => decide (k.owner = Owner.core n)) ((s.core n).stopLive.getD 0#64 ||| (s0.core n).late)
      (s0.progWords n) (Config.freeByte s0.free)) f (fun i hi => ht i (by rwa [Core.image_length _ _ _ _ _ (s0.progWords_length n) hp] at hi)) hl
  rw [h]
  exact ⟨_, rfl⟩

end Sys2Proof.Machine
end

