-- ==== Sys2Proof/Laws/PerInstr.lean ====
section
/-! SUPPORT. Decode and encode agree, one lemma per constructor of Instr. -/

set_option Elab.async false

namespace Sys2Proof.Laws

/-- A well-formed instruction that has an encoding decodes, from the bytes of its words, to itself and its own length. -/
def RoundTrip.Statement (i : Instr) : Prop :=
  i.wf = true → ∀ ws, encode i = some ws → decode (bytesOf ws) = .ok (i, ws.length)

theorem RoundTrip.add (d : Reg) (a : Reg) (b : Reg) : RoundTrip.Statement (.add d a b) := by
  intro hwf ws he; cases he
  have h_d := d.isLt; have h_a := a.isLt; have h_b := b.isLt
  show decode (bytesOf [BitVec.ofNat 32 (0 + d.toNat * 1048576 + a.toNat * 16384 + b.toNat * 256)]) = .ok (_, 1)
  generalize hw : BitVec.ofNat 32 (0 + d.toNat * 1048576 + a.toNat * 16384 + b.toNat * 256) = wd
  have hn : wd.toNat = 0 + d.toNat * 1048576 + a.toNat * 16384 + b.toNat * 256 := by rw [← hw, BitVec.toNat_ofNat]; omega
  refine decode_scalar (by rw [fieldOf_toNat, hn]; omega) ?_
  have e0 : (fieldOf wd 26 6).toNat = 0 := by rw [fieldOf_toNat, hn]; omega
  have e1 : (fieldOf wd 0 8).toNat = 0 := by rw [fieldOf_toNat, hn]; omega
  have f_d : fieldOf wd 20 6 = d := BitVec.eq_of_toNat_eq (by rw [fieldOf_toNat, hn]; omega)
  have f_a : fieldOf wd 14 6 = a := BitVec.eq_of_toNat_eq (by rw [fieldOf_toNat, hn]; omega)
  have f_b : fieldOf wd 8 6 = b := BitVec.eq_of_toNat_eq (by rw [fieldOf_toNat, hn]; omega)
  unfold decodeWord
  rw [e0]
  unfold decodeAlu
  rw [e1]
  rw [f_d, f_a, f_b]
  rfl

theorem RoundTrip.sub (d : Reg) (a : Reg) (b : Reg) : RoundTrip.Statement (.sub d a b) := by
  intro hwf ws he; cases he
  have h_d := d.isLt; have h_a := a.isLt; have h_b := b.isLt
  show decode (bytesOf [BitVec.ofNat 32 (1 + d.toNat * 1048576 + a.toNat * 16384 + b.toNat * 256)]) = .ok (_, 1)
  generalize hw : BitVec.ofNat 32 (1 + d.toNat * 1048576 + a.toNat * 16384 + b.toNat * 256) = wd
  have hn : wd.toNat = 1 + d.toNat * 1048576 + a.toNat * 16384 + b.toNat * 256 := by rw [← hw, BitVec.toNat_ofNat]; omega
  refine decode_scalar (by rw [fieldOf_toNat, hn]; omega) ?_
  have e0 : (fieldOf wd 26 6).toNat = 0 := by rw [fieldOf_toNat, hn]; omega
  have e1 : (fieldOf wd 0 8).toNat = 1 := by rw [fieldOf_toNat, hn]; omega
  have f_d : fieldOf wd 20 6 = d := BitVec.eq_of_toNat_eq (by rw [fieldOf_toNat, hn]; omega)
  have f_a : fieldOf wd 14 6 = a := BitVec.eq_of_toNat_eq (by rw [fieldOf_toNat, hn]; omega)
  have f_b : fieldOf wd 8 6 = b := BitVec.eq_of_toNat_eq (by rw [fieldOf_toNat, hn]; omega)
  unfold decodeWord
  rw [e0]
  unfold decodeAlu
  rw [e1]
  rw [f_d, f_a, f_b]
  rfl

theorem RoundTrip.mul (d : Reg) (a : Reg) (b : Reg) : RoundTrip.Statement (.mul d a b) := by
  intro hwf ws he; cases he
  have h_d := d.isLt; have h_a := a.isLt; have h_b := b.isLt
  show decode (bytesOf [BitVec.ofNat 32 (2 + d.toNat * 1048576 + a.toNat * 16384 + b.toNat * 256)]) = .ok (_, 1)
  generalize hw : BitVec.ofNat 32 (2 + d.toNat * 1048576 + a.toNat * 16384 + b.toNat * 256) = wd
  have hn : wd.toNat = 2 + d.toNat * 1048576 + a.toNat * 16384 + b.toNat * 256 := by rw [← hw, BitVec.toNat_ofNat]; omega
  refine decode_scalar (by rw [fieldOf_toNat, hn]; omega) ?_
  have e0 : (fieldOf wd 26 6).toNat = 0 := by rw [fieldOf_toNat, hn]; omega
  have e1 : (fieldOf wd 0 8).toNat = 2 := by rw [fieldOf_toNat, hn]; omega
  have f_d : fieldOf wd 20 6 = d := BitVec.eq_of_toNat_eq (by rw [fieldOf_toNat, hn]; omega)
  have f_a : fieldOf wd 14 6 = a := BitVec.eq_of_toNat_eq (by rw [fieldOf_toNat, hn]; omega)
  have f_b : fieldOf wd 8 6 = b := BitVec.eq_of_toNat_eq (by rw [fieldOf_toNat, hn]; omega)
  unfold decodeWord
  rw [e0]
  unfold decodeAlu
  rw [e1]
  rw [f_d, f_a, f_b]
  rfl

theorem RoundTrip.mulh (d : Reg) (a : Reg) (b : Reg) : RoundTrip.Statement (.mulh d a b) := by
  intro hwf ws he; cases he
  have h_d := d.isLt; have h_a := a.isLt; have h_b := b.isLt
  show decode (bytesOf [BitVec.ofNat 32 (3 + d.toNat * 1048576 + a.toNat * 16384 + b.toNat * 256)]) = .ok (_, 1)
  generalize hw : BitVec.ofNat 32 (3 + d.toNat * 1048576 + a.toNat * 16384 + b.toNat * 256) = wd
  have hn : wd.toNat = 3 + d.toNat * 1048576 + a.toNat * 16384 + b.toNat * 256 := by rw [← hw, BitVec.toNat_ofNat]; omega
  refine decode_scalar (by rw [fieldOf_toNat, hn]; omega) ?_
  have e0 : (fieldOf wd 26 6).toNat = 0 := by rw [fieldOf_toNat, hn]; omega
  have e1 : (fieldOf wd 0 8).toNat = 3 := by rw [fieldOf_toNat, hn]; omega
  have f_d : fieldOf wd 20 6 = d := BitVec.eq_of_toNat_eq (by rw [fieldOf_toNat, hn]; omega)
  have f_a : fieldOf wd 14 6 = a := BitVec.eq_of_toNat_eq (by rw [fieldOf_toNat, hn]; omega)
  have f_b : fieldOf wd 8 6 = b := BitVec.eq_of_toNat_eq (by rw [fieldOf_toNat, hn]; omega)
  unfold decodeWord
  rw [e0]
  unfold decodeAlu
  rw [e1]
  rw [f_d, f_a, f_b]
  rfl

theorem RoundTrip.mulhu (d : Reg) (a : Reg) (b : Reg) : RoundTrip.Statement (.mulhu d a b) := by
  intro hwf ws he; cases he
  have h_d := d.isLt; have h_a := a.isLt; have h_b := b.isLt
  show decode (bytesOf [BitVec.ofNat 32 (4 + d.toNat * 1048576 + a.toNat * 16384 + b.toNat * 256)]) = .ok (_, 1)
  generalize hw : BitVec.ofNat 32 (4 + d.toNat * 1048576 + a.toNat * 16384 + b.toNat * 256) = wd
  have hn : wd.toNat = 4 + d.toNat * 1048576 + a.toNat * 16384 + b.toNat * 256 := by rw [← hw, BitVec.toNat_ofNat]; omega
  refine decode_scalar (by rw [fieldOf_toNat, hn]; omega) ?_
  have e0 : (fieldOf wd 26 6).toNat = 0 := by rw [fieldOf_toNat, hn]; omega
  have e1 : (fieldOf wd 0 8).toNat = 4 := by rw [fieldOf_toNat, hn]; omega
  have f_d : fieldOf wd 20 6 = d := BitVec.eq_of_toNat_eq (by rw [fieldOf_toNat, hn]; omega)
  have f_a : fieldOf wd 14 6 = a := BitVec.eq_of_toNat_eq (by rw [fieldOf_toNat, hn]; omega)
  have f_b : fieldOf wd 8 6 = b := BitVec.eq_of_toNat_eq (by rw [fieldOf_toNat, hn]; omega)
  unfold decodeWord
  rw [e0]
  unfold decodeAlu
  rw [e1]
  rw [f_d, f_a, f_b]
  rfl

theorem RoundTrip.div (d : Reg) (a : Reg) (b : Reg) : RoundTrip.Statement (.div d a b) := by
  intro hwf ws he; cases he
  have h_d := d.isLt; have h_a := a.isLt; have h_b := b.isLt
  show decode (bytesOf [BitVec.ofNat 32 (5 + d.toNat * 1048576 + a.toNat * 16384 + b.toNat * 256)]) = .ok (_, 1)
  generalize hw : BitVec.ofNat 32 (5 + d.toNat * 1048576 + a.toNat * 16384 + b.toNat * 256) = wd
  have hn : wd.toNat = 5 + d.toNat * 1048576 + a.toNat * 16384 + b.toNat * 256 := by rw [← hw, BitVec.toNat_ofNat]; omega
  refine decode_scalar (by rw [fieldOf_toNat, hn]; omega) ?_
  have e0 : (fieldOf wd 26 6).toNat = 0 := by rw [fieldOf_toNat, hn]; omega
  have e1 : (fieldOf wd 0 8).toNat = 5 := by rw [fieldOf_toNat, hn]; omega
  have f_d : fieldOf wd 20 6 = d := BitVec.eq_of_toNat_eq (by rw [fieldOf_toNat, hn]; omega)
  have f_a : fieldOf wd 14 6 = a := BitVec.eq_of_toNat_eq (by rw [fieldOf_toNat, hn]; omega)
  have f_b : fieldOf wd 8 6 = b := BitVec.eq_of_toNat_eq (by rw [fieldOf_toNat, hn]; omega)
  unfold decodeWord
  rw [e0]
  unfold decodeAlu
  rw [e1]
  rw [f_d, f_a, f_b]
  rfl

theorem RoundTrip.divu (d : Reg) (a : Reg) (b : Reg) : RoundTrip.Statement (.divu d a b) := by
  intro hwf ws he; cases he
  have h_d := d.isLt; have h_a := a.isLt; have h_b := b.isLt
  show decode (bytesOf [BitVec.ofNat 32 (6 + d.toNat * 1048576 + a.toNat * 16384 + b.toNat * 256)]) = .ok (_, 1)
  generalize hw : BitVec.ofNat 32 (6 + d.toNat * 1048576 + a.toNat * 16384 + b.toNat * 256) = wd
  have hn : wd.toNat = 6 + d.toNat * 1048576 + a.toNat * 16384 + b.toNat * 256 := by rw [← hw, BitVec.toNat_ofNat]; omega
  refine decode_scalar (by rw [fieldOf_toNat, hn]; omega) ?_
  have e0 : (fieldOf wd 26 6).toNat = 0 := by rw [fieldOf_toNat, hn]; omega
  have e1 : (fieldOf wd 0 8).toNat = 6 := by rw [fieldOf_toNat, hn]; omega
  have f_d : fieldOf wd 20 6 = d := BitVec.eq_of_toNat_eq (by rw [fieldOf_toNat, hn]; omega)
  have f_a : fieldOf wd 14 6 = a := BitVec.eq_of_toNat_eq (by rw [fieldOf_toNat, hn]; omega)
  have f_b : fieldOf wd 8 6 = b := BitVec.eq_of_toNat_eq (by rw [fieldOf_toNat, hn]; omega)
  unfold decodeWord
  rw [e0]
  unfold decodeAlu
  rw [e1]
  rw [f_d, f_a, f_b]
  rfl

theorem RoundTrip.rem (d : Reg) (a : Reg) (b : Reg) : RoundTrip.Statement (.rem d a b) := by
  intro hwf ws he; cases he
  have h_d := d.isLt; have h_a := a.isLt; have h_b := b.isLt
  show decode (bytesOf [BitVec.ofNat 32 (7 + d.toNat * 1048576 + a.toNat * 16384 + b.toNat * 256)]) = .ok (_, 1)
  generalize hw : BitVec.ofNat 32 (7 + d.toNat * 1048576 + a.toNat * 16384 + b.toNat * 256) = wd
  have hn : wd.toNat = 7 + d.toNat * 1048576 + a.toNat * 16384 + b.toNat * 256 := by rw [← hw, BitVec.toNat_ofNat]; omega
  refine decode_scalar (by rw [fieldOf_toNat, hn]; omega) ?_
  have e0 : (fieldOf wd 26 6).toNat = 0 := by rw [fieldOf_toNat, hn]; omega
  have e1 : (fieldOf wd 0 8).toNat = 7 := by rw [fieldOf_toNat, hn]; omega
  have f_d : fieldOf wd 20 6 = d := BitVec.eq_of_toNat_eq (by rw [fieldOf_toNat, hn]; omega)
  have f_a : fieldOf wd 14 6 = a := BitVec.eq_of_toNat_eq (by rw [fieldOf_toNat, hn]; omega)
  have f_b : fieldOf wd 8 6 = b := BitVec.eq_of_toNat_eq (by rw [fieldOf_toNat, hn]; omega)
  unfold decodeWord
  rw [e0]
  unfold decodeAlu
  rw [e1]
  rw [f_d, f_a, f_b]
  rfl

theorem RoundTrip.remu (d : Reg) (a : Reg) (b : Reg) : RoundTrip.Statement (.remu d a b) := by
  intro hwf ws he; cases he
  have h_d := d.isLt; have h_a := a.isLt; have h_b := b.isLt
  show decode (bytesOf [BitVec.ofNat 32 (8 + d.toNat * 1048576 + a.toNat * 16384 + b.toNat * 256)]) = .ok (_, 1)
  generalize hw : BitVec.ofNat 32 (8 + d.toNat * 1048576 + a.toNat * 16384 + b.toNat * 256) = wd
  have hn : wd.toNat = 8 + d.toNat * 1048576 + a.toNat * 16384 + b.toNat * 256 := by rw [← hw, BitVec.toNat_ofNat]; omega
  refine decode_scalar (by rw [fieldOf_toNat, hn]; omega) ?_
  have e0 : (fieldOf wd 26 6).toNat = 0 := by rw [fieldOf_toNat, hn]; omega
  have e1 : (fieldOf wd 0 8).toNat = 8 := by rw [fieldOf_toNat, hn]; omega
  have f_d : fieldOf wd 20 6 = d := BitVec.eq_of_toNat_eq (by rw [fieldOf_toNat, hn]; omega)
  have f_a : fieldOf wd 14 6 = a := BitVec.eq_of_toNat_eq (by rw [fieldOf_toNat, hn]; omega)
  have f_b : fieldOf wd 8 6 = b := BitVec.eq_of_toNat_eq (by rw [fieldOf_toNat, hn]; omega)
  unfold decodeWord
  rw [e0]
  unfold decodeAlu
  rw [e1]
  rw [f_d, f_a, f_b]
  rfl

theorem RoundTrip.and (d : Reg) (a : Reg) (b : Reg) : RoundTrip.Statement (.and d a b) := by
  intro hwf ws he; cases he
  have h_d := d.isLt; have h_a := a.isLt; have h_b := b.isLt
  show decode (bytesOf [BitVec.ofNat 32 (16 + d.toNat * 1048576 + a.toNat * 16384 + b.toNat * 256)]) = .ok (_, 1)
  generalize hw : BitVec.ofNat 32 (16 + d.toNat * 1048576 + a.toNat * 16384 + b.toNat * 256) = wd
  have hn : wd.toNat = 16 + d.toNat * 1048576 + a.toNat * 16384 + b.toNat * 256 := by rw [← hw, BitVec.toNat_ofNat]; omega
  refine decode_scalar (by rw [fieldOf_toNat, hn]; omega) ?_
  have e0 : (fieldOf wd 26 6).toNat = 0 := by rw [fieldOf_toNat, hn]; omega
  have e1 : (fieldOf wd 0 8).toNat = 16 := by rw [fieldOf_toNat, hn]; omega
  have f_d : fieldOf wd 20 6 = d := BitVec.eq_of_toNat_eq (by rw [fieldOf_toNat, hn]; omega)
  have f_a : fieldOf wd 14 6 = a := BitVec.eq_of_toNat_eq (by rw [fieldOf_toNat, hn]; omega)
  have f_b : fieldOf wd 8 6 = b := BitVec.eq_of_toNat_eq (by rw [fieldOf_toNat, hn]; omega)
  unfold decodeWord
  rw [e0]
  unfold decodeAlu
  rw [e1]
  rw [f_d, f_a, f_b]
  rfl

theorem RoundTrip.or (d : Reg) (a : Reg) (b : Reg) : RoundTrip.Statement (.or d a b) := by
  intro hwf ws he; cases he
  have h_d := d.isLt; have h_a := a.isLt; have h_b := b.isLt
  show decode (bytesOf [BitVec.ofNat 32 (17 + d.toNat * 1048576 + a.toNat * 16384 + b.toNat * 256)]) = .ok (_, 1)
  generalize hw : BitVec.ofNat 32 (17 + d.toNat * 1048576 + a.toNat * 16384 + b.toNat * 256) = wd
  have hn : wd.toNat = 17 + d.toNat * 1048576 + a.toNat * 16384 + b.toNat * 256 := by rw [← hw, BitVec.toNat_ofNat]; omega
  refine decode_scalar (by rw [fieldOf_toNat, hn]; omega) ?_
  have e0 : (fieldOf wd 26 6).toNat = 0 := by rw [fieldOf_toNat, hn]; omega
  have e1 : (fieldOf wd 0 8).toNat = 17 := by rw [fieldOf_toNat, hn]; omega
  have f_d : fieldOf wd 20 6 = d := BitVec.eq_of_toNat_eq (by rw [fieldOf_toNat, hn]; omega)
  have f_a : fieldOf wd 14 6 = a := BitVec.eq_of_toNat_eq (by rw [fieldOf_toNat, hn]; omega)
  have f_b : fieldOf wd 8 6 = b := BitVec.eq_of_toNat_eq (by rw [fieldOf_toNat, hn]; omega)
  unfold decodeWord
  rw [e0]
  unfold decodeAlu
  rw [e1]
  rw [f_d, f_a, f_b]
  rfl

theorem RoundTrip.xor (d : Reg) (a : Reg) (b : Reg) : RoundTrip.Statement (.xor d a b) := by
  intro hwf ws he; cases he
  have h_d := d.isLt; have h_a := a.isLt; have h_b := b.isLt
  show decode (bytesOf [BitVec.ofNat 32 (18 + d.toNat * 1048576 + a.toNat * 16384 + b.toNat * 256)]) = .ok (_, 1)
  generalize hw : BitVec.ofNat 32 (18 + d.toNat * 1048576 + a.toNat * 16384 + b.toNat * 256) = wd
  have hn : wd.toNat = 18 + d.toNat * 1048576 + a.toNat * 16384 + b.toNat * 256 := by rw [← hw, BitVec.toNat_ofNat]; omega
  refine decode_scalar (by rw [fieldOf_toNat, hn]; omega) ?_
  have e0 : (fieldOf wd 26 6).toNat = 0 := by rw [fieldOf_toNat, hn]; omega
  have e1 : (fieldOf wd 0 8).toNat = 18 := by rw [fieldOf_toNat, hn]; omega
  have f_d : fieldOf wd 20 6 = d := BitVec.eq_of_toNat_eq (by rw [fieldOf_toNat, hn]; omega)
  have f_a : fieldOf wd 14 6 = a := BitVec.eq_of_toNat_eq (by rw [fieldOf_toNat, hn]; omega)
  have f_b : fieldOf wd 8 6 = b := BitVec.eq_of_toNat_eq (by rw [fieldOf_toNat, hn]; omega)
  unfold decodeWord
  rw [e0]
  unfold decodeAlu
  rw [e1]
  rw [f_d, f_a, f_b]
  rfl

theorem RoundTrip.andn (d : Reg) (a : Reg) (b : Reg) : RoundTrip.Statement (.andn d a b) := by
  intro hwf ws he; cases he
  have h_d := d.isLt; have h_a := a.isLt; have h_b := b.isLt
  show decode (bytesOf [BitVec.ofNat 32 (19 + d.toNat * 1048576 + a.toNat * 16384 + b.toNat * 256)]) = .ok (_, 1)
  generalize hw : BitVec.ofNat 32 (19 + d.toNat * 1048576 + a.toNat * 16384 + b.toNat * 256) = wd
  have hn : wd.toNat = 19 + d.toNat * 1048576 + a.toNat * 16384 + b.toNat * 256 := by rw [← hw, BitVec.toNat_ofNat]; omega
  refine decode_scalar (by rw [fieldOf_toNat, hn]; omega) ?_
  have e0 : (fieldOf wd 26 6).toNat = 0 := by rw [fieldOf_toNat, hn]; omega
  have e1 : (fieldOf wd 0 8).toNat = 19 := by rw [fieldOf_toNat, hn]; omega
  have f_d : fieldOf wd 20 6 = d := BitVec.eq_of_toNat_eq (by rw [fieldOf_toNat, hn]; omega)
  have f_a : fieldOf wd 14 6 = a := BitVec.eq_of_toNat_eq (by rw [fieldOf_toNat, hn]; omega)
  have f_b : fieldOf wd 8 6 = b := BitVec.eq_of_toNat_eq (by rw [fieldOf_toNat, hn]; omega)
  unfold decodeWord
  rw [e0]
  unfold decodeAlu
  rw [e1]
  rw [f_d, f_a, f_b]
  rfl

theorem RoundTrip.shl (d : Reg) (a : Reg) (b : Reg) : RoundTrip.Statement (.shl d a b) := by
  intro hwf ws he; cases he
  have h_d := d.isLt; have h_a := a.isLt; have h_b := b.isLt
  show decode (bytesOf [BitVec.ofNat 32 (20 + d.toNat * 1048576 + a.toNat * 16384 + b.toNat * 256)]) = .ok (_, 1)
  generalize hw : BitVec.ofNat 32 (20 + d.toNat * 1048576 + a.toNat * 16384 + b.toNat * 256) = wd
  have hn : wd.toNat = 20 + d.toNat * 1048576 + a.toNat * 16384 + b.toNat * 256 := by rw [← hw, BitVec.toNat_ofNat]; omega
  refine decode_scalar (by rw [fieldOf_toNat, hn]; omega) ?_
  have e0 : (fieldOf wd 26 6).toNat = 0 := by rw [fieldOf_toNat, hn]; omega
  have e1 : (fieldOf wd 0 8).toNat = 20 := by rw [fieldOf_toNat, hn]; omega
  have f_d : fieldOf wd 20 6 = d := BitVec.eq_of_toNat_eq (by rw [fieldOf_toNat, hn]; omega)
  have f_a : fieldOf wd 14 6 = a := BitVec.eq_of_toNat_eq (by rw [fieldOf_toNat, hn]; omega)
  have f_b : fieldOf wd 8 6 = b := BitVec.eq_of_toNat_eq (by rw [fieldOf_toNat, hn]; omega)
  unfold decodeWord
  rw [e0]
  unfold decodeAlu
  rw [e1]
  rw [f_d, f_a, f_b]
  rfl

theorem RoundTrip.shr (d : Reg) (a : Reg) (b : Reg) : RoundTrip.Statement (.shr d a b) := by
  intro hwf ws he; cases he
  have h_d := d.isLt; have h_a := a.isLt; have h_b := b.isLt
  show decode (bytesOf [BitVec.ofNat 32 (21 + d.toNat * 1048576 + a.toNat * 16384 + b.toNat * 256)]) = .ok (_, 1)
  generalize hw : BitVec.ofNat 32 (21 + d.toNat * 1048576 + a.toNat * 16384 + b.toNat * 256) = wd
  have hn : wd.toNat = 21 + d.toNat * 1048576 + a.toNat * 16384 + b.toNat * 256 := by rw [← hw, BitVec.toNat_ofNat]; omega
  refine decode_scalar (by rw [fieldOf_toNat, hn]; omega) ?_
  have e0 : (fieldOf wd 26 6).toNat = 0 := by rw [fieldOf_toNat, hn]; omega
  have e1 : (fieldOf wd 0 8).toNat = 21 := by rw [fieldOf_toNat, hn]; omega
  have f_d : fieldOf wd 20 6 = d := BitVec.eq_of_toNat_eq (by rw [fieldOf_toNat, hn]; omega)
  have f_a : fieldOf wd 14 6 = a := BitVec.eq_of_toNat_eq (by rw [fieldOf_toNat, hn]; omega)
  have f_b : fieldOf wd 8 6 = b := BitVec.eq_of_toNat_eq (by rw [fieldOf_toNat, hn]; omega)
  unfold decodeWord
  rw [e0]
  unfold decodeAlu
  rw [e1]
  rw [f_d, f_a, f_b]
  rfl

theorem RoundTrip.sar (d : Reg) (a : Reg) (b : Reg) : RoundTrip.Statement (.sar d a b) := by
  intro hwf ws he; cases he
  have h_d := d.isLt; have h_a := a.isLt; have h_b := b.isLt
  show decode (bytesOf [BitVec.ofNat 32 (22 + d.toNat * 1048576 + a.toNat * 16384 + b.toNat * 256)]) = .ok (_, 1)
  generalize hw : BitVec.ofNat 32 (22 + d.toNat * 1048576 + a.toNat * 16384 + b.toNat * 256) = wd
  have hn : wd.toNat = 22 + d.toNat * 1048576 + a.toNat * 16384 + b.toNat * 256 := by rw [← hw, BitVec.toNat_ofNat]; omega
  refine decode_scalar (by rw [fieldOf_toNat, hn]; omega) ?_
  have e0 : (fieldOf wd 26 6).toNat = 0 := by rw [fieldOf_toNat, hn]; omega
  have e1 : (fieldOf wd 0 8).toNat = 22 := by rw [fieldOf_toNat, hn]; omega
  have f_d : fieldOf wd 20 6 = d := BitVec.eq_of_toNat_eq (by rw [fieldOf_toNat, hn]; omega)
  have f_a : fieldOf wd 14 6 = a := BitVec.eq_of_toNat_eq (by rw [fieldOf_toNat, hn]; omega)
  have f_b : fieldOf wd 8 6 = b := BitVec.eq_of_toNat_eq (by rw [fieldOf_toNat, hn]; omega)
  unfold decodeWord
  rw [e0]
  unfold decodeAlu
  rw [e1]
  rw [f_d, f_a, f_b]
  rfl

theorem RoundTrip.min (d : Reg) (a : Reg) (b : Reg) : RoundTrip.Statement (.min d a b) := by
  intro hwf ws he; cases he
  have h_d := d.isLt; have h_a := a.isLt; have h_b := b.isLt
  show decode (bytesOf [BitVec.ofNat 32 (32 + d.toNat * 1048576 + a.toNat * 16384 + b.toNat * 256)]) = .ok (_, 1)
  generalize hw : BitVec.ofNat 32 (32 + d.toNat * 1048576 + a.toNat * 16384 + b.toNat * 256) = wd
  have hn : wd.toNat = 32 + d.toNat * 1048576 + a.toNat * 16384 + b.toNat * 256 := by rw [← hw, BitVec.toNat_ofNat]; omega
  refine decode_scalar (by rw [fieldOf_toNat, hn]; omega) ?_
  have e0 : (fieldOf wd 26 6).toNat = 0 := by rw [fieldOf_toNat, hn]; omega
  have e1 : (fieldOf wd 0 8).toNat = 32 := by rw [fieldOf_toNat, hn]; omega
  have f_d : fieldOf wd 20 6 = d := BitVec.eq_of_toNat_eq (by rw [fieldOf_toNat, hn]; omega)
  have f_a : fieldOf wd 14 6 = a := BitVec.eq_of_toNat_eq (by rw [fieldOf_toNat, hn]; omega)
  have f_b : fieldOf wd 8 6 = b := BitVec.eq_of_toNat_eq (by rw [fieldOf_toNat, hn]; omega)
  unfold decodeWord
  rw [e0]
  unfold decodeAlu
  rw [e1]
  rw [f_d, f_a, f_b]
  rfl

theorem RoundTrip.max (d : Reg) (a : Reg) (b : Reg) : RoundTrip.Statement (.max d a b) := by
  intro hwf ws he; cases he
  have h_d := d.isLt; have h_a := a.isLt; have h_b := b.isLt
  show decode (bytesOf [BitVec.ofNat 32 (33 + d.toNat * 1048576 + a.toNat * 16384 + b.toNat * 256)]) = .ok (_, 1)
  generalize hw : BitVec.ofNat 32 (33 + d.toNat * 1048576 + a.toNat * 16384 + b.toNat * 256) = wd
  have hn : wd.toNat = 33 + d.toNat * 1048576 + a.toNat * 16384 + b.toNat * 256 := by rw [← hw, BitVec.toNat_ofNat]; omega
  refine decode_scalar (by rw [fieldOf_toNat, hn]; omega) ?_
  have e0 : (fieldOf wd 26 6).toNat = 0 := by rw [fieldOf_toNat, hn]; omega
  have e1 : (fieldOf wd 0 8).toNat = 33 := by rw [fieldOf_toNat, hn]; omega
  have f_d : fieldOf wd 20 6 = d := BitVec.eq_of_toNat_eq (by rw [fieldOf_toNat, hn]; omega)
  have f_a : fieldOf wd 14 6 = a := BitVec.eq_of_toNat_eq (by rw [fieldOf_toNat, hn]; omega)
  have f_b : fieldOf wd 8 6 = b := BitVec.eq_of_toNat_eq (by rw [fieldOf_toNat, hn]; omega)
  unfold decodeWord
  rw [e0]
  unfold decodeAlu
  rw [e1]
  rw [f_d, f_a, f_b]
  rfl

theorem RoundTrip.minu (d : Reg) (a : Reg) (b : Reg) : RoundTrip.Statement (.minu d a b) := by
  intro hwf ws he; cases he
  have h_d := d.isLt; have h_a := a.isLt; have h_b := b.isLt
  show decode (bytesOf [BitVec.ofNat 32 (34 + d.toNat * 1048576 + a.toNat * 16384 + b.toNat * 256)]) = .ok (_, 1)
  generalize hw : BitVec.ofNat 32 (34 + d.toNat * 1048576 + a.toNat * 16384 + b.toNat * 256) = wd
  have hn : wd.toNat = 34 + d.toNat * 1048576 + a.toNat * 16384 + b.toNat * 256 := by rw [← hw, BitVec.toNat_ofNat]; omega
  refine decode_scalar (by rw [fieldOf_toNat, hn]; omega) ?_
  have e0 : (fieldOf wd 26 6).toNat = 0 := by rw [fieldOf_toNat, hn]; omega
  have e1 : (fieldOf wd 0 8).toNat = 34 := by rw [fieldOf_toNat, hn]; omega
  have f_d : fieldOf wd 20 6 = d := BitVec.eq_of_toNat_eq (by rw [fieldOf_toNat, hn]; omega)
  have f_a : fieldOf wd 14 6 = a := BitVec.eq_of_toNat_eq (by rw [fieldOf_toNat, hn]; omega)
  have f_b : fieldOf wd 8 6 = b := BitVec.eq_of_toNat_eq (by rw [fieldOf_toNat, hn]; omega)
  unfold decodeWord
  rw [e0]
  unfold decodeAlu
  rw [e1]
  rw [f_d, f_a, f_b]
  rfl

theorem RoundTrip.maxu (d : Reg) (a : Reg) (b : Reg) : RoundTrip.Statement (.maxu d a b) := by
  intro hwf ws he; cases he
  have h_d := d.isLt; have h_a := a.isLt; have h_b := b.isLt
  show decode (bytesOf [BitVec.ofNat 32 (35 + d.toNat * 1048576 + a.toNat * 16384 + b.toNat * 256)]) = .ok (_, 1)
  generalize hw : BitVec.ofNat 32 (35 + d.toNat * 1048576 + a.toNat * 16384 + b.toNat * 256) = wd
  have hn : wd.toNat = 35 + d.toNat * 1048576 + a.toNat * 16384 + b.toNat * 256 := by rw [← hw, BitVec.toNat_ofNat]; omega
  refine decode_scalar (by rw [fieldOf_toNat, hn]; omega) ?_
  have e0 : (fieldOf wd 26 6).toNat = 0 := by rw [fieldOf_toNat, hn]; omega
  have e1 : (fieldOf wd 0 8).toNat = 35 := by rw [fieldOf_toNat, hn]; omega
  have f_d : fieldOf wd 20 6 = d := BitVec.eq_of_toNat_eq (by rw [fieldOf_toNat, hn]; omega)
  have f_a : fieldOf wd 14 6 = a := BitVec.eq_of_toNat_eq (by rw [fieldOf_toNat, hn]; omega)
  have f_b : fieldOf wd 8 6 = b := BitVec.eq_of_toNat_eq (by rw [fieldOf_toNat, hn]; omega)
  unfold decodeWord
  rw [e0]
  unfold decodeAlu
  rw [e1]
  rw [f_d, f_a, f_b]
  rfl

theorem RoundTrip.clz (d : Reg) (a : Reg) : RoundTrip.Statement (.clz d a) := by
  intro hwf ws he; cases he
  have h_d := d.isLt; have h_a := a.isLt
  show decode (bytesOf [BitVec.ofNat 32 (48 + d.toNat * 1048576 + a.toNat * 16384)]) = .ok (_, 1)
  generalize hw : BitVec.ofNat 32 (48 + d.toNat * 1048576 + a.toNat * 16384) = wd
  have hn : wd.toNat = 48 + d.toNat * 1048576 + a.toNat * 16384 := by rw [← hw, BitVec.toNat_ofNat]; omega
  refine decode_scalar (by rw [fieldOf_toNat, hn]; omega) ?_
  have e0 : (fieldOf wd 26 6).toNat = 0 := by rw [fieldOf_toNat, hn]; omega
  have e1 : (fieldOf wd 0 8).toNat = 48 := by rw [fieldOf_toNat, hn]; omega
  have f_d : fieldOf wd 20 6 = d := BitVec.eq_of_toNat_eq (by rw [fieldOf_toNat, hn]; omega)
  have f_a : fieldOf wd 14 6 = a := BitVec.eq_of_toNat_eq (by rw [fieldOf_toNat, hn]; omega)
  have z0 := land_zero wd.toNat 8 6 (by rw [hn]; omega)
  have hz : wd.toNat &&& 16128 = 0 := z0
  unfold decodeWord
  rw [e0]
  unfold decodeAlu
  rw [e1]
  rw [f_d, f_a]
  unfold zeroUnless
  rw [hz]
  rfl

theorem RoundTrip.ctz (d : Reg) (a : Reg) : RoundTrip.Statement (.ctz d a) := by
  intro hwf ws he; cases he
  have h_d := d.isLt; have h_a := a.isLt
  show decode (bytesOf [BitVec.ofNat 32 (49 + d.toNat * 1048576 + a.toNat * 16384)]) = .ok (_, 1)
  generalize hw : BitVec.ofNat 32 (49 + d.toNat * 1048576 + a.toNat * 16384) = wd
  have hn : wd.toNat = 49 + d.toNat * 1048576 + a.toNat * 16384 := by rw [← hw, BitVec.toNat_ofNat]; omega
  refine decode_scalar (by rw [fieldOf_toNat, hn]; omega) ?_
  have e0 : (fieldOf wd 26 6).toNat = 0 := by rw [fieldOf_toNat, hn]; omega
  have e1 : (fieldOf wd 0 8).toNat = 49 := by rw [fieldOf_toNat, hn]; omega
  have f_d : fieldOf wd 20 6 = d := BitVec.eq_of_toNat_eq (by rw [fieldOf_toNat, hn]; omega)
  have f_a : fieldOf wd 14 6 = a := BitVec.eq_of_toNat_eq (by rw [fieldOf_toNat, hn]; omega)
  have z0 := land_zero wd.toNat 8 6 (by rw [hn]; omega)
  have hz : wd.toNat &&& 16128 = 0 := z0
  unfold decodeWord
  rw [e0]
  unfold decodeAlu
  rw [e1]
  rw [f_d, f_a]
  unfold zeroUnless
  rw [hz]
  rfl

theorem RoundTrip.popc (d : Reg) (a : Reg) : RoundTrip.Statement (.popc d a) := by
  intro hwf ws he; cases he
  have h_d := d.isLt; have h_a := a.isLt
  show decode (bytesOf [BitVec.ofNat 32 (50 + d.toNat * 1048576 + a.toNat * 16384)]) = .ok (_, 1)
  generalize hw : BitVec.ofNat 32 (50 + d.toNat * 1048576 + a.toNat * 16384) = wd
  have hn : wd.toNat = 50 + d.toNat * 1048576 + a.toNat * 16384 := by rw [← hw, BitVec.toNat_ofNat]; omega
  refine decode_scalar (by rw [fieldOf_toNat, hn]; omega) ?_
  have e0 : (fieldOf wd 26 6).toNat = 0 := by rw [fieldOf_toNat, hn]; omega
  have e1 : (fieldOf wd 0 8).toNat = 50 := by rw [fieldOf_toNat, hn]; omega
  have f_d : fieldOf wd 20 6 = d := BitVec.eq_of_toNat_eq (by rw [fieldOf_toNat, hn]; omega)
  have f_a : fieldOf wd 14 6 = a := BitVec.eq_of_toNat_eq (by rw [fieldOf_toNat, hn]; omega)
  have z0 := land_zero wd.toNat 8 6 (by rw [hn]; omega)
  have hz : wd.toNat &&& 16128 = 0 := z0
  unfold decodeWord
  rw [e0]
  unfold decodeAlu
  rw [e1]
  rw [f_d, f_a]
  unfold zeroUnless
  rw [hz]
  rfl

theorem RoundTrip.sext (d : Reg) (a : Reg) (w : BitVec 6) : RoundTrip.Statement (.sext d a w) := by
  intro hwf ws he; cases he
  have h_d := d.isLt; have h_a := a.isLt; have h_w := w.isLt
  show decode (bytesOf [BitVec.ofNat 32 (51 + d.toNat * 1048576 + a.toNat * 16384 + w.toNat * 256)]) = .ok (_, 1)
  generalize hw : BitVec.ofNat 32 (51 + d.toNat * 1048576 + a.toNat * 16384 + w.toNat * 256) = wd
  have hn : wd.toNat = 51 + d.toNat * 1048576 + a.toNat * 16384 + w.toNat * 256 := by rw [← hw, BitVec.toNat_ofNat]; omega
  refine decode_scalar (by rw [fieldOf_toNat, hn]; omega) ?_
  have e0 : (fieldOf wd 26 6).toNat = 0 := by rw [fieldOf_toNat, hn]; omega
  have e1 : (fieldOf wd 0 8).toNat = 51 := by rw [fieldOf_toNat, hn]; omega
  have f_d : fieldOf wd 20 6 = d := BitVec.eq_of_toNat_eq (by rw [fieldOf_toNat, hn]; omega)
  have f_a : fieldOf wd 14 6 = a := BitVec.eq_of_toNat_eq (by rw [fieldOf_toNat, hn]; omega)
  have f_w : fieldOf wd 8 6 = w := BitVec.eq_of_toNat_eq (by rw [fieldOf_toNat, hn]; omega)
  unfold decodeWord
  rw [e0]
  unfold decodeAlu
  rw [e1]
  rw [f_d, f_a, f_w]
  rfl

theorem RoundTrip.zext (d : Reg) (a : Reg) (w : BitVec 6) : RoundTrip.Statement (.zext d a w) := by
  intro hwf ws he; cases he
  have h_d := d.isLt; have h_a := a.isLt; have h_w := w.isLt
  show decode (bytesOf [BitVec.ofNat 32 (52 + d.toNat * 1048576 + a.toNat * 16384 + w.toNat * 256)]) = .ok (_, 1)
  generalize hw : BitVec.ofNat 32 (52 + d.toNat * 1048576 + a.toNat * 16384 + w.toNat * 256) = wd
  have hn : wd.toNat = 52 + d.toNat * 1048576 + a.toNat * 16384 + w.toNat * 256 := by rw [← hw, BitVec.toNat_ofNat]; omega
  refine decode_scalar (by rw [fieldOf_toNat, hn]; omega) ?_
  have e0 : (fieldOf wd 26 6).toNat = 0 := by rw [fieldOf_toNat, hn]; omega
  have e1 : (fieldOf wd 0 8).toNat = 52 := by rw [fieldOf_toNat, hn]; omega
  have f_d : fieldOf wd 20 6 = d := BitVec.eq_of_toNat_eq (by rw [fieldOf_toNat, hn]; omega)
  have f_a : fieldOf wd 14 6 = a := BitVec.eq_of_toNat_eq (by rw [fieldOf_toNat, hn]; omega)
  have f_w : fieldOf wd 8 6 = w := BitVec.eq_of_toNat_eq (by rw [fieldOf_toNat, hn]; omega)
  unfold decodeWord
  rw [e0]
  unfold decodeAlu
  rw [e1]
  rw [f_d, f_a, f_w]
  rfl

theorem RoundTrip.mov (d : Reg) (a : Reg) : RoundTrip.Statement (.mov d a) := by
  intro hwf ws he; cases he
  have h_d := d.isLt; have h_a := a.isLt
  show decode (bytesOf [BitVec.ofNat 32 (53 + d.toNat * 1048576 + a.toNat * 16384)]) = .ok (_, 1)
  generalize hw : BitVec.ofNat 32 (53 + d.toNat * 1048576 + a.toNat * 16384) = wd
  have hn : wd.toNat = 53 + d.toNat * 1048576 + a.toNat * 16384 := by rw [← hw, BitVec.toNat_ofNat]; omega
  refine decode_scalar (by rw [fieldOf_toNat, hn]; omega) ?_
  have e0 : (fieldOf wd 26 6).toNat = 0 := by rw [fieldOf_toNat, hn]; omega
  have e1 : (fieldOf wd 0 8).toNat = 53 := by rw [fieldOf_toNat, hn]; omega
  have f_d : fieldOf wd 20 6 = d := BitVec.eq_of_toNat_eq (by rw [fieldOf_toNat, hn]; omega)
  have f_a : fieldOf wd 14 6 = a := BitVec.eq_of_toNat_eq (by rw [fieldOf_toNat, hn]; omega)
  have z0 := land_zero wd.toNat 8 6 (by rw [hn]; omega)
  have hz : wd.toNat &&& 16128 = 0 := z0
  unfold decodeWord
  rw [e0]
  unfold decodeAlu
  rw [e1]
  rw [f_d, f_a]
  unfold zeroUnless
  rw [hz]
  rfl

theorem RoundTrip.cmpEq (p : BitVec 4) (a : Reg) (b : Reg) : RoundTrip.Statement (.cmpEq p a b) := by
  intro hwf ws he; cases he
  have h_p := p.isLt; have h_a := a.isLt; have h_b := b.isLt
  show decode (bytesOf [BitVec.ofNat 32 (64 + p.toNat * 1048576 + a.toNat * 16384 + b.toNat * 256)]) = .ok (_, 1)
  generalize hw : BitVec.ofNat 32 (64 + p.toNat * 1048576 + a.toNat * 16384 + b.toNat * 256) = wd
  have hn : wd.toNat = 64 + p.toNat * 1048576 + a.toNat * 16384 + b.toNat * 256 := by rw [← hw, BitVec.toNat_ofNat]; omega
  refine decode_scalar (by rw [fieldOf_toNat, hn]; omega) ?_
  have e0 : (fieldOf wd 26 6).toNat = 0 := by rw [fieldOf_toNat, hn]; omega
  have e1 : (fieldOf wd 0 8).toNat = 64 := by rw [fieldOf_toNat, hn]; omega
  have f_p : fieldOf wd 20 4 = p := BitVec.eq_of_toNat_eq (by rw [fieldOf_toNat, hn]; omega)
  have f_a : fieldOf wd 14 6 = a := BitVec.eq_of_toNat_eq (by rw [fieldOf_toNat, hn]; omega)
  have f_b : fieldOf wd 8 6 = b := BitVec.eq_of_toNat_eq (by rw [fieldOf_toNat, hn]; omega)
  have z0 := land_zero wd.toNat 24 2 (by rw [hn]; omega)
  have hz : wd.toNat &&& 50331648 = 0 := z0
  unfold decodeWord
  rw [e0]
  unfold decodeAlu
  rw [e1]
  rw [f_p, f_a, f_b]
  unfold zeroUnless
  rw [hz]
  rfl

theorem RoundTrip.cmpNe (p : BitVec 4) (a : Reg) (b : Reg) : RoundTrip.Statement (.cmpNe p a b) := by
  intro hwf ws he; cases he
  have h_p := p.isLt; have h_a := a.isLt; have h_b := b.isLt
  show decode (bytesOf [BitVec.ofNat 32 (65 + p.toNat * 1048576 + a.toNat * 16384 + b.toNat * 256)]) = .ok (_, 1)
  generalize hw : BitVec.ofNat 32 (65 + p.toNat * 1048576 + a.toNat * 16384 + b.toNat * 256) = wd
  have hn : wd.toNat = 65 + p.toNat * 1048576 + a.toNat * 16384 + b.toNat * 256 := by rw [← hw, BitVec.toNat_ofNat]; omega
  refine decode_scalar (by rw [fieldOf_toNat, hn]; omega) ?_
  have e0 : (fieldOf wd 26 6).toNat = 0 := by rw [fieldOf_toNat, hn]; omega
  have e1 : (fieldOf wd 0 8).toNat = 65 := by rw [fieldOf_toNat, hn]; omega
  have f_p : fieldOf wd 20 4 = p := BitVec.eq_of_toNat_eq (by rw [fieldOf_toNat, hn]; omega)
  have f_a : fieldOf wd 14 6 = a := BitVec.eq_of_toNat_eq (by rw [fieldOf_toNat, hn]; omega)
  have f_b : fieldOf wd 8 6 = b := BitVec.eq_of_toNat_eq (by rw [fieldOf_toNat, hn]; omega)
  have z0 := land_zero wd.toNat 24 2 (by rw [hn]; omega)
  have hz : wd.toNat &&& 50331648 = 0 := z0
  unfold decodeWord
  rw [e0]
  unfold decodeAlu
  rw [e1]
  rw [f_p, f_a, f_b]
  unfold zeroUnless
  rw [hz]
  rfl

theorem RoundTrip.cmpLt (p : BitVec 4) (a : Reg) (b : Reg) : RoundTrip.Statement (.cmpLt p a b) := by
  intro hwf ws he; cases he
  have h_p := p.isLt; have h_a := a.isLt; have h_b := b.isLt
  show decode (bytesOf [BitVec.ofNat 32 (66 + p.toNat * 1048576 + a.toNat * 16384 + b.toNat * 256)]) = .ok (_, 1)
  generalize hw : BitVec.ofNat 32 (66 + p.toNat * 1048576 + a.toNat * 16384 + b.toNat * 256) = wd
  have hn : wd.toNat = 66 + p.toNat * 1048576 + a.toNat * 16384 + b.toNat * 256 := by rw [← hw, BitVec.toNat_ofNat]; omega
  refine decode_scalar (by rw [fieldOf_toNat, hn]; omega) ?_
  have e0 : (fieldOf wd 26 6).toNat = 0 := by rw [fieldOf_toNat, hn]; omega
  have e1 : (fieldOf wd 0 8).toNat = 66 := by rw [fieldOf_toNat, hn]; omega
  have f_p : fieldOf wd 20 4 = p := BitVec.eq_of_toNat_eq (by rw [fieldOf_toNat, hn]; omega)
  have f_a : fieldOf wd 14 6 = a := BitVec.eq_of_toNat_eq (by rw [fieldOf_toNat, hn]; omega)
  have f_b : fieldOf wd 8 6 = b := BitVec.eq_of_toNat_eq (by rw [fieldOf_toNat, hn]; omega)
  have z0 := land_zero wd.toNat 24 2 (by rw [hn]; omega)
  have hz : wd.toNat &&& 50331648 = 0 := z0
  unfold decodeWord
  rw [e0]
  unfold decodeAlu
  rw [e1]
  rw [f_p, f_a, f_b]
  unfold zeroUnless
  rw [hz]
  rfl

theorem RoundTrip.cmpLe (p : BitVec 4) (a : Reg) (b : Reg) : RoundTrip.Statement (.cmpLe p a b) := by
  intro hwf ws he; cases he
  have h_p := p.isLt; have h_a := a.isLt; have h_b := b.isLt
  show decode (bytesOf [BitVec.ofNat 32 (67 + p.toNat * 1048576 + a.toNat * 16384 + b.toNat * 256)]) = .ok (_, 1)
  generalize hw : BitVec.ofNat 32 (67 + p.toNat * 1048576 + a.toNat * 16384 + b.toNat * 256) = wd
  have hn : wd.toNat = 67 + p.toNat * 1048576 + a.toNat * 16384 + b.toNat * 256 := by rw [← hw, BitVec.toNat_ofNat]; omega
  refine decode_scalar (by rw [fieldOf_toNat, hn]; omega) ?_
  have e0 : (fieldOf wd 26 6).toNat = 0 := by rw [fieldOf_toNat, hn]; omega
  have e1 : (fieldOf wd 0 8).toNat = 67 := by rw [fieldOf_toNat, hn]; omega
  have f_p : fieldOf wd 20 4 = p := BitVec.eq_of_toNat_eq (by rw [fieldOf_toNat, hn]; omega)
  have f_a : fieldOf wd 14 6 = a := BitVec.eq_of_toNat_eq (by rw [fieldOf_toNat, hn]; omega)
  have f_b : fieldOf wd 8 6 = b := BitVec.eq_of_toNat_eq (by rw [fieldOf_toNat, hn]; omega)
  have z0 := land_zero wd.toNat 24 2 (by rw [hn]; omega)
  have hz : wd.toNat &&& 50331648 = 0 := z0
  unfold decodeWord
  rw [e0]
  unfold decodeAlu
  rw [e1]
  rw [f_p, f_a, f_b]
  unfold zeroUnless
  rw [hz]
  rfl

theorem RoundTrip.cmpLtu (p : BitVec 4) (a : Reg) (b : Reg) : RoundTrip.Statement (.cmpLtu p a b) := by
  intro hwf ws he; cases he
  have h_p := p.isLt; have h_a := a.isLt; have h_b := b.isLt
  show decode (bytesOf [BitVec.ofNat 32 (68 + p.toNat * 1048576 + a.toNat * 16384 + b.toNat * 256)]) = .ok (_, 1)
  generalize hw : BitVec.ofNat 32 (68 + p.toNat * 1048576 + a.toNat * 16384 + b.toNat * 256) = wd
  have hn : wd.toNat = 68 + p.toNat * 1048576 + a.toNat * 16384 + b.toNat * 256 := by rw [← hw, BitVec.toNat_ofNat]; omega
  refine decode_scalar (by rw [fieldOf_toNat, hn]; omega) ?_
  have e0 : (fieldOf wd 26 6).toNat = 0 := by rw [fieldOf_toNat, hn]; omega
  have e1 : (fieldOf wd 0 8).toNat = 68 := by rw [fieldOf_toNat, hn]; omega
  have f_p : fieldOf wd 20 4 = p := BitVec.eq_of_toNat_eq (by rw [fieldOf_toNat, hn]; omega)
  have f_a : fieldOf wd 14 6 = a := BitVec.eq_of_toNat_eq (by rw [fieldOf_toNat, hn]; omega)
  have f_b : fieldOf wd 8 6 = b := BitVec.eq_of_toNat_eq (by rw [fieldOf_toNat, hn]; omega)
  have z0 := land_zero wd.toNat 24 2 (by rw [hn]; omega)
  have hz : wd.toNat &&& 50331648 = 0 := z0
  unfold decodeWord
  rw [e0]
  unfold decodeAlu
  rw [e1]
  rw [f_p, f_a, f_b]
  unfold zeroUnless
  rw [hz]
  rfl

theorem RoundTrip.cmpLeu (p : BitVec 4) (a : Reg) (b : Reg) : RoundTrip.Statement (.cmpLeu p a b) := by
  intro hwf ws he; cases he
  have h_p := p.isLt; have h_a := a.isLt; have h_b := b.isLt
  show decode (bytesOf [BitVec.ofNat 32 (69 + p.toNat * 1048576 + a.toNat * 16384 + b.toNat * 256)]) = .ok (_, 1)
  generalize hw : BitVec.ofNat 32 (69 + p.toNat * 1048576 + a.toNat * 16384 + b.toNat * 256) = wd
  have hn : wd.toNat = 69 + p.toNat * 1048576 + a.toNat * 16384 + b.toNat * 256 := by rw [← hw, BitVec.toNat_ofNat]; omega
  refine decode_scalar (by rw [fieldOf_toNat, hn]; omega) ?_
  have e0 : (fieldOf wd 26 6).toNat = 0 := by rw [fieldOf_toNat, hn]; omega
  have e1 : (fieldOf wd 0 8).toNat = 69 := by rw [fieldOf_toNat, hn]; omega
  have f_p : fieldOf wd 20 4 = p := BitVec.eq_of_toNat_eq (by rw [fieldOf_toNat, hn]; omega)
  have f_a : fieldOf wd 14 6 = a := BitVec.eq_of_toNat_eq (by rw [fieldOf_toNat, hn]; omega)
  have f_b : fieldOf wd 8 6 = b := BitVec.eq_of_toNat_eq (by rw [fieldOf_toNat, hn]; omega)
  have z0 := land_zero wd.toNat 24 2 (by rw [hn]; omega)
  have hz : wd.toNat &&& 50331648 = 0 := z0
  unfold decodeWord
  rw [e0]
  unfold decodeAlu
  rw [e1]
  rw [f_p, f_a, f_b]
  unfold zeroUnless
  rw [hz]
  rfl

theorem RoundTrip.pand (d : BitVec 5) (a : BitVec 5) (b : BitVec 5) : RoundTrip.Statement (.pand d a b) := by
  intro hwf ws he; cases he
  have h_d := d.isLt; have h_a := a.isLt; have h_b := b.isLt
  show decode (bytesOf [BitVec.ofNat 32 (80 + d.toNat * 1048576 + a.toNat * 16384 + b.toNat * 256)]) = .ok (_, 1)
  generalize hw : BitVec.ofNat 32 (80 + d.toNat * 1048576 + a.toNat * 16384 + b.toNat * 256) = wd
  have hn : wd.toNat = 80 + d.toNat * 1048576 + a.toNat * 16384 + b.toNat * 256 := by rw [← hw, BitVec.toNat_ofNat]; omega
  refine decode_scalar (by rw [fieldOf_toNat, hn]; omega) ?_
  have e0 : (fieldOf wd 26 6).toNat = 0 := by rw [fieldOf_toNat, hn]; omega
  have e1 : (fieldOf wd 0 8).toNat = 80 := by rw [fieldOf_toNat, hn]; omega
  have f_d : fieldOf wd 20 5 = d := BitVec.eq_of_toNat_eq (by rw [fieldOf_toNat, hn]; omega)
  have f_a : fieldOf wd 14 5 = a := BitVec.eq_of_toNat_eq (by rw [fieldOf_toNat, hn]; omega)
  have f_b : fieldOf wd 8 5 = b := BitVec.eq_of_toNat_eq (by rw [fieldOf_toNat, hn]; omega)
  have z0 := land_zero wd.toNat 13 1 (by rw [hn]; omega)
  have z1 := land_zero wd.toNat 19 1 (by rw [hn]; omega)
  have z2 := land_zero wd.toNat 25 1 (by rw [hn]; omega)
  have hz : wd.toNat &&& 34086912 = 0 := by
    rw [show 34086912 = (2 ^ 1 - 1) * 2 ^ 13 ||| (2 ^ 1 - 1) * 2 ^ 19 ||| (2 ^ 1 - 1) * 2 ^ 25 from rfl, Nat.and_or_distrib_left, Nat.and_or_distrib_left, z0, z1, z2]; rfl
  unfold decodeWord
  rw [e0]
  unfold decodeAlu
  rw [e1]
  rw [f_d, f_a, f_b]
  unfold zeroUnless
  rw [hz]
  rfl

theorem RoundTrip.por (d : BitVec 5) (a : BitVec 5) (b : BitVec 5) : RoundTrip.Statement (.por d a b) := by
  intro hwf ws he; cases he
  have h_d := d.isLt; have h_a := a.isLt; have h_b := b.isLt
  show decode (bytesOf [BitVec.ofNat 32 (81 + d.toNat * 1048576 + a.toNat * 16384 + b.toNat * 256)]) = .ok (_, 1)
  generalize hw : BitVec.ofNat 32 (81 + d.toNat * 1048576 + a.toNat * 16384 + b.toNat * 256) = wd
  have hn : wd.toNat = 81 + d.toNat * 1048576 + a.toNat * 16384 + b.toNat * 256 := by rw [← hw, BitVec.toNat_ofNat]; omega
  refine decode_scalar (by rw [fieldOf_toNat, hn]; omega) ?_
  have e0 : (fieldOf wd 26 6).toNat = 0 := by rw [fieldOf_toNat, hn]; omega
  have e1 : (fieldOf wd 0 8).toNat = 81 := by rw [fieldOf_toNat, hn]; omega
  have f_d : fieldOf wd 20 5 = d := BitVec.eq_of_toNat_eq (by rw [fieldOf_toNat, hn]; omega)
  have f_a : fieldOf wd 14 5 = a := BitVec.eq_of_toNat_eq (by rw [fieldOf_toNat, hn]; omega)
  have f_b : fieldOf wd 8 5 = b := BitVec.eq_of_toNat_eq (by rw [fieldOf_toNat, hn]; omega)
  have z0 := land_zero wd.toNat 13 1 (by rw [hn]; omega)
  have z1 := land_zero wd.toNat 19 1 (by rw [hn]; omega)
  have z2 := land_zero wd.toNat 25 1 (by rw [hn]; omega)
  have hz : wd.toNat &&& 34086912 = 0 := by
    rw [show 34086912 = (2 ^ 1 - 1) * 2 ^ 13 ||| (2 ^ 1 - 1) * 2 ^ 19 ||| (2 ^ 1 - 1) * 2 ^ 25 from rfl, Nat.and_or_distrib_left, Nat.and_or_distrib_left, z0, z1, z2]; rfl
  unfold decodeWord
  rw [e0]
  unfold decodeAlu
  rw [e1]
  rw [f_d, f_a, f_b]
  unfold zeroUnless
  rw [hz]
  rfl

theorem RoundTrip.pxor (d : BitVec 5) (a : BitVec 5) (b : BitVec 5) : RoundTrip.Statement (.pxor d a b) := by
  intro hwf ws he; cases he
  have h_d := d.isLt; have h_a := a.isLt; have h_b := b.isLt
  show decode (bytesOf [BitVec.ofNat 32 (82 + d.toNat * 1048576 + a.toNat * 16384 + b.toNat * 256)]) = .ok (_, 1)
  generalize hw : BitVec.ofNat 32 (82 + d.toNat * 1048576 + a.toNat * 16384 + b.toNat * 256) = wd
  have hn : wd.toNat = 82 + d.toNat * 1048576 + a.toNat * 16384 + b.toNat * 256 := by rw [← hw, BitVec.toNat_ofNat]; omega
  refine decode_scalar (by rw [fieldOf_toNat, hn]; omega) ?_
  have e0 : (fieldOf wd 26 6).toNat = 0 := by rw [fieldOf_toNat, hn]; omega
  have e1 : (fieldOf wd 0 8).toNat = 82 := by rw [fieldOf_toNat, hn]; omega
  have f_d : fieldOf wd 20 5 = d := BitVec.eq_of_toNat_eq (by rw [fieldOf_toNat, hn]; omega)
  have f_a : fieldOf wd 14 5 = a := BitVec.eq_of_toNat_eq (by rw [fieldOf_toNat, hn]; omega)
  have f_b : fieldOf wd 8 5 = b := BitVec.eq_of_toNat_eq (by rw [fieldOf_toNat, hn]; omega)
  have z0 := land_zero wd.toNat 13 1 (by rw [hn]; omega)
  have z1 := land_zero wd.toNat 19 1 (by rw [hn]; omega)
  have z2 := land_zero wd.toNat 25 1 (by rw [hn]; omega)
  have hz : wd.toNat &&& 34086912 = 0 := by
    rw [show 34086912 = (2 ^ 1 - 1) * 2 ^ 13 ||| (2 ^ 1 - 1) * 2 ^ 19 ||| (2 ^ 1 - 1) * 2 ^ 25 from rfl, Nat.and_or_distrib_left, Nat.and_or_distrib_left, z0, z1, z2]; rfl
  unfold decodeWord
  rw [e0]
  unfold decodeAlu
  rw [e1]
  rw [f_d, f_a, f_b]
  unfold zeroUnless
  rw [hz]
  rfl

theorem RoundTrip.pnot (d : BitVec 5) (a : BitVec 5) : RoundTrip.Statement (.pnot d a) := by
  intro hwf ws he; cases he
  have h_d := d.isLt; have h_a := a.isLt
  show decode (bytesOf [BitVec.ofNat 32 (83 + d.toNat * 1048576 + a.toNat * 16384)]) = .ok (_, 1)
  generalize hw : BitVec.ofNat 32 (83 + d.toNat * 1048576 + a.toNat * 16384) = wd
  have hn : wd.toNat = 83 + d.toNat * 1048576 + a.toNat * 16384 := by rw [← hw, BitVec.toNat_ofNat]; omega
  refine decode_scalar (by rw [fieldOf_toNat, hn]; omega) ?_
  have e0 : (fieldOf wd 26 6).toNat = 0 := by rw [fieldOf_toNat, hn]; omega
  have e1 : (fieldOf wd 0 8).toNat = 83 := by rw [fieldOf_toNat, hn]; omega
  have f_d : fieldOf wd 20 5 = d := BitVec.eq_of_toNat_eq (by rw [fieldOf_toNat, hn]; omega)
  have f_a : fieldOf wd 14 5 = a := BitVec.eq_of_toNat_eq (by rw [fieldOf_toNat, hn]; omega)
  have z0 := land_zero wd.toNat 8 6 (by rw [hn]; omega)
  have z1 := land_zero wd.toNat 19 1 (by rw [hn]; omega)
  have z2 := land_zero wd.toNat 25 1 (by rw [hn]; omega)
  have hz : wd.toNat &&& 34094848 = 0 := by
    rw [show 34094848 = (2 ^ 6 - 1) * 2 ^ 8 ||| (2 ^ 1 - 1) * 2 ^ 19 ||| (2 ^ 1 - 1) * 2 ^ 25 from rfl, Nat.and_or_distrib_left, Nat.and_or_distrib_left, z0, z1, z2]; rfl
  unfold decodeWord
  rw [e0]
  unfold decodeAlu
  rw [e1]
  rw [f_d, f_a]
  unfold zeroUnless
  rw [hz]
  rfl

theorem RoundTrip.leaX1 (d : Reg) (a : Reg) (b : Reg) : RoundTrip.Statement (.leaX1 d a b) := by
  intro hwf ws he; cases he
  have h_d := d.isLt; have h_a := a.isLt; have h_b := b.isLt
  show decode (bytesOf [BitVec.ofNat 32 (96 + d.toNat * 1048576 + a.toNat * 16384 + b.toNat * 256)]) = .ok (_, 1)
  generalize hw : BitVec.ofNat 32 (96 + d.toNat * 1048576 + a.toNat * 16384 + b.toNat * 256) = wd
  have hn : wd.toNat = 96 + d.toNat * 1048576 + a.toNat * 16384 + b.toNat * 256 := by rw [← hw, BitVec.toNat_ofNat]; omega
  refine decode_scalar (by rw [fieldOf_toNat, hn]; omega) ?_
  have e0 : (fieldOf wd 26 6).toNat = 0 := by rw [fieldOf_toNat, hn]; omega
  have e1 : (fieldOf wd 0 8).toNat = 96 := by rw [fieldOf_toNat, hn]; omega
  have f_d : fieldOf wd 20 6 = d := BitVec.eq_of_toNat_eq (by rw [fieldOf_toNat, hn]; omega)
  have f_a : fieldOf wd 14 6 = a := BitVec.eq_of_toNat_eq (by rw [fieldOf_toNat, hn]; omega)
  have f_b : fieldOf wd 8 6 = b := BitVec.eq_of_toNat_eq (by rw [fieldOf_toNat, hn]; omega)
  unfold decodeWord
  rw [e0]
  unfold decodeAlu
  rw [e1]
  rw [f_d, f_a, f_b]
  rfl

theorem RoundTrip.leaX2 (d : Reg) (a : Reg) (b : Reg) : RoundTrip.Statement (.leaX2 d a b) := by
  intro hwf ws he; cases he
  have h_d := d.isLt; have h_a := a.isLt; have h_b := b.isLt
  show decode (bytesOf [BitVec.ofNat 32 (97 + d.toNat * 1048576 + a.toNat * 16384 + b.toNat * 256)]) = .ok (_, 1)
  generalize hw : BitVec.ofNat 32 (97 + d.toNat * 1048576 + a.toNat * 16384 + b.toNat * 256) = wd
  have hn : wd.toNat = 97 + d.toNat * 1048576 + a.toNat * 16384 + b.toNat * 256 := by rw [← hw, BitVec.toNat_ofNat]; omega
  refine decode_scalar (by rw [fieldOf_toNat, hn]; omega) ?_
  have e0 : (fieldOf wd 26 6).toNat = 0 := by rw [fieldOf_toNat, hn]; omega
  have e1 : (fieldOf wd 0 8).toNat = 97 := by rw [fieldOf_toNat, hn]; omega
  have f_d : fieldOf wd 20 6 = d := BitVec.eq_of_toNat_eq (by rw [fieldOf_toNat, hn]; omega)
  have f_a : fieldOf wd 14 6 = a := BitVec.eq_of_toNat_eq (by rw [fieldOf_toNat, hn]; omega)
  have f_b : fieldOf wd 8 6 = b := BitVec.eq_of_toNat_eq (by rw [fieldOf_toNat, hn]; omega)
  unfold decodeWord
  rw [e0]
  unfold decodeAlu
  rw [e1]
  rw [f_d, f_a, f_b]
  rfl

theorem RoundTrip.leaX4 (d : Reg) (a : Reg) (b : Reg) : RoundTrip.Statement (.leaX4 d a b) := by
  intro hwf ws he; cases he
  have h_d := d.isLt; have h_a := a.isLt; have h_b := b.isLt
  show decode (bytesOf [BitVec.ofNat 32 (98 + d.toNat * 1048576 + a.toNat * 16384 + b.toNat * 256)]) = .ok (_, 1)
  generalize hw : BitVec.ofNat 32 (98 + d.toNat * 1048576 + a.toNat * 16384 + b.toNat * 256) = wd
  have hn : wd.toNat = 98 + d.toNat * 1048576 + a.toNat * 16384 + b.toNat * 256 := by rw [← hw, BitVec.toNat_ofNat]; omega
  refine decode_scalar (by rw [fieldOf_toNat, hn]; omega) ?_
  have e0 : (fieldOf wd 26 6).toNat = 0 := by rw [fieldOf_toNat, hn]; omega
  have e1 : (fieldOf wd 0 8).toNat = 98 := by rw [fieldOf_toNat, hn]; omega
  have f_d : fieldOf wd 20 6 = d := BitVec.eq_of_toNat_eq (by rw [fieldOf_toNat, hn]; omega)
  have f_a : fieldOf wd 14 6 = a := BitVec.eq_of_toNat_eq (by rw [fieldOf_toNat, hn]; omega)
  have f_b : fieldOf wd 8 6 = b := BitVec.eq_of_toNat_eq (by rw [fieldOf_toNat, hn]; omega)
  unfold decodeWord
  rw [e0]
  unfold decodeAlu
  rw [e1]
  rw [f_d, f_a, f_b]
  rfl

theorem RoundTrip.leaX8 (d : Reg) (a : Reg) (b : Reg) : RoundTrip.Statement (.leaX8 d a b) := by
  intro hwf ws he; cases he
  have h_d := d.isLt; have h_a := a.isLt; have h_b := b.isLt
  show decode (bytesOf [BitVec.ofNat 32 (99 + d.toNat * 1048576 + a.toNat * 16384 + b.toNat * 256)]) = .ok (_, 1)
  generalize hw : BitVec.ofNat 32 (99 + d.toNat * 1048576 + a.toNat * 16384 + b.toNat * 256) = wd
  have hn : wd.toNat = 99 + d.toNat * 1048576 + a.toNat * 16384 + b.toNat * 256 := by rw [← hw, BitVec.toNat_ofNat]; omega
  refine decode_scalar (by rw [fieldOf_toNat, hn]; omega) ?_
  have e0 : (fieldOf wd 26 6).toNat = 0 := by rw [fieldOf_toNat, hn]; omega
  have e1 : (fieldOf wd 0 8).toNat = 99 := by rw [fieldOf_toNat, hn]; omega
  have f_d : fieldOf wd 20 6 = d := BitVec.eq_of_toNat_eq (by rw [fieldOf_toNat, hn]; omega)
  have f_a : fieldOf wd 14 6 = a := BitVec.eq_of_toNat_eq (by rw [fieldOf_toNat, hn]; omega)
  have f_b : fieldOf wd 8 6 = b := BitVec.eq_of_toNat_eq (by rw [fieldOf_toNat, hn]; omega)
  unfold decodeWord
  rw [e0]
  unfold decodeAlu
  rw [e1]
  rw [f_d, f_a, f_b]
  rfl

theorem RoundTrip.sel (d : Reg) (a : Reg) (b : Reg) (p : BitVec 5) : RoundTrip.Statement (.sel d a b p) := by
  intro hwf ws he; cases he
  have h_d := d.isLt; have h_a := a.isLt; have h_b := b.isLt; have h_p := p.isLt
  show decode (bytesOf [BitVec.ofNat 32 (67108864 + d.toNat * 1048576 + a.toNat * 16384 + b.toNat * 256 + p.toNat * 1)]) = .ok (_, 1)
  generalize hw : BitVec.ofNat 32 (67108864 + d.toNat * 1048576 + a.toNat * 16384 + b.toNat * 256 + p.toNat * 1) = wd
  have hn : wd.toNat = 67108864 + d.toNat * 1048576 + a.toNat * 16384 + b.toNat * 256 + p.toNat * 1 := by rw [← hw, BitVec.toNat_ofNat]; omega
  refine decode_scalar (by rw [fieldOf_toNat, hn]; omega) ?_
  have e0 : (fieldOf wd 26 6).toNat = 1 := by rw [fieldOf_toNat, hn]; omega
  have f_d : fieldOf wd 20 6 = d := BitVec.eq_of_toNat_eq (by rw [fieldOf_toNat, hn]; omega)
  have f_a : fieldOf wd 14 6 = a := BitVec.eq_of_toNat_eq (by rw [fieldOf_toNat, hn]; omega)
  have f_b : fieldOf wd 8 6 = b := BitVec.eq_of_toNat_eq (by rw [fieldOf_toNat, hn]; omega)
  have f_p : fieldOf wd 0 5 = p := BitVec.eq_of_toNat_eq (by rw [fieldOf_toNat, hn]; omega)
  have z0 := land_zero wd.toNat 5 3 (by rw [hn]; omega)
  have hz : wd.toNat &&& 224 = 0 := z0
  unfold decodeWord
  rw [e0]
  rw [f_d, f_a, f_b, f_p]
  unfold zeroUnless
  rw [hz]
  rfl

theorem RoundTrip.memxLd (d : Reg) (a : Reg) (b : Reg) (s : BitVec 2) (p : BitVec 2) (c : BitVec 1) : RoundTrip.Statement (.memxLd d a b s p c) := by
  intro hwf ws he; cases he
  have h_d := d.isLt; have h_a := a.isLt; have h_b := b.isLt; have h_s := s.isLt; have h_p := p.isLt; have h_c := c.isLt
  show decode (bytesOf [BitVec.ofNat 32 (134217728 + d.toNat * 1048576 + a.toNat * 16384 + b.toNat * 256 + s.toNat * 16 + p.toNat * 4 + c.toNat * 1)]) = .ok (_, 1)
  generalize hw : BitVec.ofNat 32 (134217728 + d.toNat * 1048576 + a.toNat * 16384 + b.toNat * 256 + s.toNat * 16 + p.toNat * 4 + c.toNat * 1) = wd
  have hn : wd.toNat = 134217728 + d.toNat * 1048576 + a.toNat * 16384 + b.toNat * 256 + s.toNat * 16 + p.toNat * 4 + c.toNat * 1 := by rw [← hw, BitVec.toNat_ofNat]; omega
  refine decode_scalar (by rw [fieldOf_toNat, hn]; omega) ?_
  have e0 : (fieldOf wd 26 6).toNat = 2 := by rw [fieldOf_toNat, hn]; omega
  have e1 : (fieldOf wd 6 2).toNat = 0 := by rw [fieldOf_toNat, hn]; omega
  have f_d : fieldOf wd 20 6 = d := BitVec.eq_of_toNat_eq (by rw [fieldOf_toNat, hn]; omega)
  have f_a : fieldOf wd 14 6 = a := BitVec.eq_of_toNat_eq (by rw [fieldOf_toNat, hn]; omega)
  have f_b : fieldOf wd 8 6 = b := BitVec.eq_of_toNat_eq (by rw [fieldOf_toNat, hn]; omega)
  have f_s : fieldOf wd 4 2 = s := BitVec.eq_of_toNat_eq (by rw [fieldOf_toNat, hn]; omega)
  have f_p : fieldOf wd 2 2 = p := BitVec.eq_of_toNat_eq (by rw [fieldOf_toNat, hn]; omega)
  have f_c : fieldOf wd 0 1 = c := BitVec.eq_of_toNat_eq (by rw [fieldOf_toNat, hn]; omega)
  have z0 := land_zero wd.toNat 1 1 (by rw [hn]; omega)
  have hz : wd.toNat &&& 2 = 0 := z0
  unfold decodeWord
  rw [e0]
  unfold decodeMemx
  rw [e1]
  replace hwf : (decide (p ≠ 3#2)) = true := hwf
  simp only [decide_eq_true_eq] at hwf
  rw [f_d, f_a, f_b, f_s, f_p, f_c]
  unfold zeroUnless
  rw [hz]
  rw [if_neg hwf]
  rfl

theorem RoundTrip.memxLds (d : Reg) (a : Reg) (b : Reg) (s : BitVec 2) (p : BitVec 2) (c : BitVec 1) : RoundTrip.Statement (.memxLds d a b s p c) := by
  intro hwf ws he; cases he
  have h_d := d.isLt; have h_a := a.isLt; have h_b := b.isLt; have h_s := s.isLt; have h_p := p.isLt; have h_c := c.isLt
  show decode (bytesOf [BitVec.ofNat 32 (134217792 + d.toNat * 1048576 + a.toNat * 16384 + b.toNat * 256 + s.toNat * 16 + p.toNat * 4 + c.toNat * 1)]) = .ok (_, 1)
  generalize hw : BitVec.ofNat 32 (134217792 + d.toNat * 1048576 + a.toNat * 16384 + b.toNat * 256 + s.toNat * 16 + p.toNat * 4 + c.toNat * 1) = wd
  have hn : wd.toNat = 134217792 + d.toNat * 1048576 + a.toNat * 16384 + b.toNat * 256 + s.toNat * 16 + p.toNat * 4 + c.toNat * 1 := by rw [← hw, BitVec.toNat_ofNat]; omega
  refine decode_scalar (by rw [fieldOf_toNat, hn]; omega) ?_
  have e0 : (fieldOf wd 26 6).toNat = 2 := by rw [fieldOf_toNat, hn]; omega
  have e1 : (fieldOf wd 6 2).toNat = 1 := by rw [fieldOf_toNat, hn]; omega
  have f_d : fieldOf wd 20 6 = d := BitVec.eq_of_toNat_eq (by rw [fieldOf_toNat, hn]; omega)
  have f_a : fieldOf wd 14 6 = a := BitVec.eq_of_toNat_eq (by rw [fieldOf_toNat, hn]; omega)
  have f_b : fieldOf wd 8 6 = b := BitVec.eq_of_toNat_eq (by rw [fieldOf_toNat, hn]; omega)
  have f_s : fieldOf wd 4 2 = s := BitVec.eq_of_toNat_eq (by rw [fieldOf_toNat, hn]; omega)
  have f_p : fieldOf wd 2 2 = p := BitVec.eq_of_toNat_eq (by rw [fieldOf_toNat, hn]; omega)
  have f_c : fieldOf wd 0 1 = c := BitVec.eq_of_toNat_eq (by rw [fieldOf_toNat, hn]; omega)
  have z0 := land_zero wd.toNat 1 1 (by rw [hn]; omega)
  have hz : wd.toNat &&& 2 = 0 := z0
  unfold decodeWord
  rw [e0]
  unfold decodeMemx
  rw [e1]
  replace hwf : (decide (p ≠ 3#2) && decide (s ≠ 3#2)) = true := hwf
  simp only [Bool.and_eq_true, decide_eq_true_eq] at hwf
  rw [f_d, f_a, f_b, f_s, f_p, f_c]
  unfold zeroUnless
  rw [hz]
  rw [if_neg hwf.1, if_neg hwf.2]
  rfl

theorem RoundTrip.memxSt (d : Reg) (a : Reg) (b : Reg) (s : BitVec 2) (p : BitVec 2) (c : BitVec 1) : RoundTrip.Statement (.memxSt d a b s p c) := by
  intro hwf ws he; cases he
  have h_d := d.isLt; have h_a := a.isLt; have h_b := b.isLt; have h_s := s.isLt; have h_p := p.isLt; have h_c := c.isLt
  show decode (bytesOf [BitVec.ofNat 32 (134217856 + d.toNat * 1048576 + a.toNat * 16384 + b.toNat * 256 + s.toNat * 16 + p.toNat * 4 + c.toNat * 1)]) = .ok (_, 1)
  generalize hw : BitVec.ofNat 32 (134217856 + d.toNat * 1048576 + a.toNat * 16384 + b.toNat * 256 + s.toNat * 16 + p.toNat * 4 + c.toNat * 1) = wd
  have hn : wd.toNat = 134217856 + d.toNat * 1048576 + a.toNat * 16384 + b.toNat * 256 + s.toNat * 16 + p.toNat * 4 + c.toNat * 1 := by rw [← hw, BitVec.toNat_ofNat]; omega
  refine decode_scalar (by rw [fieldOf_toNat, hn]; omega) ?_
  have e0 : (fieldOf wd 26 6).toNat = 2 := by rw [fieldOf_toNat, hn]; omega
  have e1 : (fieldOf wd 6 2).toNat = 2 := by rw [fieldOf_toNat, hn]; omega
  have f_d : fieldOf wd 20 6 = d := BitVec.eq_of_toNat_eq (by rw [fieldOf_toNat, hn]; omega)
  have f_a : fieldOf wd 14 6 = a := BitVec.eq_of_toNat_eq (by rw [fieldOf_toNat, hn]; omega)
  have f_b : fieldOf wd 8 6 = b := BitVec.eq_of_toNat_eq (by rw [fieldOf_toNat, hn]; omega)
  have f_s : fieldOf wd 4 2 = s := BitVec.eq_of_toNat_eq (by rw [fieldOf_toNat, hn]; omega)
  have f_p : fieldOf wd 2 2 = p := BitVec.eq_of_toNat_eq (by rw [fieldOf_toNat, hn]; omega)
  have f_c : fieldOf wd 0 1 = c := BitVec.eq_of_toNat_eq (by rw [fieldOf_toNat, hn]; omega)
  have z0 := land_zero wd.toNat 1 1 (by rw [hn]; omega)
  have hz : wd.toNat &&& 2 = 0 := z0
  unfold decodeWord
  rw [e0]
  unfold decodeMemx
  rw [e1]
  replace hwf : (decide (p ≠ 3#2)) = true := hwf
  simp only [decide_eq_true_eq] at hwf
  rw [f_d, f_a, f_b, f_s, f_p, f_c]
  unfold zeroUnless
  rw [hz]
  rw [if_neg hwf]
  rfl

theorem RoundTrip.bfx (d : Reg) (a : Reg) (w : BitVec 6) (p : BitVec 6) : RoundTrip.Statement (.bfx d a w p) := by
  intro hwf ws he; cases he
  have h_d := d.isLt; have h_a := a.isLt; have h_w := w.isLt; have h_p := p.isLt
  show decode (bytesOf [BitVec.ofNat 32 (201326592 + d.toNat * 1048576 + a.toNat * 16384 + w.toNat * 64 + p.toNat * 1)]) = .ok (_, 1)
  generalize hw : BitVec.ofNat 32 (201326592 + d.toNat * 1048576 + a.toNat * 16384 + w.toNat * 64 + p.toNat * 1) = wd
  have hn : wd.toNat = 201326592 + d.toNat * 1048576 + a.toNat * 16384 + w.toNat * 64 + p.toNat * 1 := by rw [← hw, BitVec.toNat_ofNat]; omega
  refine decode_scalar (by rw [fieldOf_toNat, hn]; omega) ?_
  have e0 : (fieldOf wd 26 6).toNat = 3 := by rw [fieldOf_toNat, hn]; omega
  have e1 : (fieldOf wd 12 2).toNat = 0 := by rw [fieldOf_toNat, hn]; omega
  have f_d : fieldOf wd 20 6 = d := BitVec.eq_of_toNat_eq (by rw [fieldOf_toNat, hn]; omega)
  have f_a : fieldOf wd 14 6 = a := BitVec.eq_of_toNat_eq (by rw [fieldOf_toNat, hn]; omega)
  have f_w : fieldOf wd 6 6 = w := BitVec.eq_of_toNat_eq (by rw [fieldOf_toNat, hn]; omega)
  have f_p : fieldOf wd 0 6 = p := BitVec.eq_of_toNat_eq (by rw [fieldOf_toNat, hn]; omega)
  unfold decodeWord
  rw [e0]
  unfold decodeBf
  rw [e1]
  rw [f_d, f_a, f_w, f_p]
  rfl

theorem RoundTrip.bfxu (d : Reg) (a : Reg) (w : BitVec 6) (p : BitVec 6) : RoundTrip.Statement (.bfxu d a w p) := by
  intro hwf ws he; cases he
  have h_d := d.isLt; have h_a := a.isLt; have h_w := w.isLt; have h_p := p.isLt
  show decode (bytesOf [BitVec.ofNat 32 (201330688 + d.toNat * 1048576 + a.toNat * 16384 + w.toNat * 64 + p.toNat * 1)]) = .ok (_, 1)
  generalize hw : BitVec.ofNat 32 (201330688 + d.toNat * 1048576 + a.toNat * 16384 + w.toNat * 64 + p.toNat * 1) = wd
  have hn : wd.toNat = 201330688 + d.toNat * 1048576 + a.toNat * 16384 + w.toNat * 64 + p.toNat * 1 := by rw [← hw, BitVec.toNat_ofNat]; omega
  refine decode_scalar (by rw [fieldOf_toNat, hn]; omega) ?_
  have e0 : (fieldOf wd 26 6).toNat = 3 := by rw [fieldOf_toNat, hn]; omega
  have e1 : (fieldOf wd 12 2).toNat = 1 := by rw [fieldOf_toNat, hn]; omega
  have f_d : fieldOf wd 20 6 = d := BitVec.eq_of_toNat_eq (by rw [fieldOf_toNat, hn]; omega)
  have f_a : fieldOf wd 14 6 = a := BitVec.eq_of_toNat_eq (by rw [fieldOf_toNat, hn]; omega)
  have f_w : fieldOf wd 6 6 = w := BitVec.eq_of_toNat_eq (by rw [fieldOf_toNat, hn]; omega)
  have f_p : fieldOf wd 0 6 = p := BitVec.eq_of_toNat_eq (by rw [fieldOf_toNat, hn]; omega)
  unfold decodeWord
  rw [e0]
  unfold decodeBf
  rw [e1]
  rw [f_d, f_a, f_w, f_p]
  rfl

theorem RoundTrip.bfi (d : Reg) (a : Reg) (w : BitVec 6) (p : BitVec 6) : RoundTrip.Statement (.bfi d a w p) := by
  intro hwf ws he; cases he
  have h_d := d.isLt; have h_a := a.isLt; have h_w := w.isLt; have h_p := p.isLt
  show decode (bytesOf [BitVec.ofNat 32 (201334784 + d.toNat * 1048576 + a.toNat * 16384 + w.toNat * 64 + p.toNat * 1)]) = .ok (_, 1)
  generalize hw : BitVec.ofNat 32 (201334784 + d.toNat * 1048576 + a.toNat * 16384 + w.toNat * 64 + p.toNat * 1) = wd
  have hn : wd.toNat = 201334784 + d.toNat * 1048576 + a.toNat * 16384 + w.toNat * 64 + p.toNat * 1 := by rw [← hw, BitVec.toNat_ofNat]; omega
  refine decode_scalar (by rw [fieldOf_toNat, hn]; omega) ?_
  have e0 : (fieldOf wd 26 6).toNat = 3 := by rw [fieldOf_toNat, hn]; omega
  have e1 : (fieldOf wd 12 2).toNat = 2 := by rw [fieldOf_toNat, hn]; omega
  have f_d : fieldOf wd 20 6 = d := BitVec.eq_of_toNat_eq (by rw [fieldOf_toNat, hn]; omega)
  have f_a : fieldOf wd 14 6 = a := BitVec.eq_of_toNat_eq (by rw [fieldOf_toNat, hn]; omega)
  have f_w : fieldOf wd 6 6 = w := BitVec.eq_of_toNat_eq (by rw [fieldOf_toNat, hn]; omega)
  have f_p : fieldOf wd 0 6 = p := BitVec.eq_of_toNat_eq (by rw [fieldOf_toNat, hn]; omega)
  unfold decodeWord
  rw [e0]
  unfold decodeBf
  rw [e1]
  rw [f_d, f_a, f_w, f_p]
  rfl

theorem RoundTrip.amoAddW (d : Reg) (a : Reg) (b : Reg) (s : BitVec 2) (o : BitVec 2) : RoundTrip.Statement (.amoAddW d a b s o) := by
  intro hwf ws he; cases he
  have h_d := d.isLt; have h_a := a.isLt; have h_b := b.isLt; have h_s := s.isLt; have h_o := o.isLt
  show decode (bytesOf [BitVec.ofNat 32 (268435456 + d.toNat * 1048576 + a.toNat * 16384 + b.toNat * 256 + s.toNat * 4 + o.toNat * 1)]) = .ok (_, 1)
  generalize hw : BitVec.ofNat 32 (268435456 + d.toNat * 1048576 + a.toNat * 16384 + b.toNat * 256 + s.toNat * 4 + o.toNat * 1) = wd
  have hn : wd.toNat = 268435456 + d.toNat * 1048576 + a.toNat * 16384 + b.toNat * 256 + s.toNat * 4 + o.toNat * 1 := by rw [← hw, BitVec.toNat_ofNat]; omega
  refine decode_scalar (by rw [fieldOf_toNat, hn]; omega) ?_
  have e0 : (fieldOf wd 26 6).toNat = 4 := by rw [fieldOf_toNat, hn]; omega
  have e1 : (fieldOf wd 4 4).toNat = 0 := by rw [fieldOf_toNat, hn]; omega
  have f_d : fieldOf wd 20 6 = d := BitVec.eq_of_toNat_eq (by rw [fieldOf_toNat, hn]; omega)
  have f_a : fieldOf wd 14 6 = a := BitVec.eq_of_toNat_eq (by rw [fieldOf_toNat, hn]; omega)
  have f_b : fieldOf wd 8 6 = b := BitVec.eq_of_toNat_eq (by rw [fieldOf_toNat, hn]; omega)
  have f_s : fieldOf wd 2 2 = s := BitVec.eq_of_toNat_eq (by rw [fieldOf_toNat, hn]; omega)
  have f_o : fieldOf wd 0 2 = o := BitVec.eq_of_toNat_eq (by rw [fieldOf_toNat, hn]; omega)
  unfold decodeWord
  rw [e0]
  unfold decodeAmo
  rw [e1]
  rw [f_d, f_a, f_b, f_s, f_o]
  rfl

theorem RoundTrip.amoMinW (d : Reg) (a : Reg) (b : Reg) (s : BitVec 2) (o : BitVec 2) : RoundTrip.Statement (.amoMinW d a b s o) := by
  intro hwf ws he; cases he
  have h_d := d.isLt; have h_a := a.isLt; have h_b := b.isLt; have h_s := s.isLt; have h_o := o.isLt
  show decode (bytesOf [BitVec.ofNat 32 (268435472 + d.toNat * 1048576 + a.toNat * 16384 + b.toNat * 256 + s.toNat * 4 + o.toNat * 1)]) = .ok (_, 1)
  generalize hw : BitVec.ofNat 32 (268435472 + d.toNat * 1048576 + a.toNat * 16384 + b.toNat * 256 + s.toNat * 4 + o.toNat * 1) = wd
  have hn : wd.toNat = 268435472 + d.toNat * 1048576 + a.toNat * 16384 + b.toNat * 256 + s.toNat * 4 + o.toNat * 1 := by rw [← hw, BitVec.toNat_ofNat]; omega
  refine decode_scalar (by rw [fieldOf_toNat, hn]; omega) ?_
  have e0 : (fieldOf wd 26 6).toNat = 4 := by rw [fieldOf_toNat, hn]; omega
  have e1 : (fieldOf wd 4 4).toNat = 1 := by rw [fieldOf_toNat, hn]; omega
  have f_d : fieldOf wd 20 6 = d := BitVec.eq_of_toNat_eq (by rw [fieldOf_toNat, hn]; omega)
  have f_a : fieldOf wd 14 6 = a := BitVec.eq_of_toNat_eq (by rw [fieldOf_toNat, hn]; omega)
  have f_b : fieldOf wd 8 6 = b := BitVec.eq_of_toNat_eq (by rw [fieldOf_toNat, hn]; omega)
  have f_s : fieldOf wd 2 2 = s := BitVec.eq_of_toNat_eq (by rw [fieldOf_toNat, hn]; omega)
  have f_o : fieldOf wd 0 2 = o := BitVec.eq_of_toNat_eq (by rw [fieldOf_toNat, hn]; omega)
  unfold decodeWord
  rw [e0]
  unfold decodeAmo
  rw [e1]
  rw [f_d, f_a, f_b, f_s, f_o]
  rfl

theorem RoundTrip.amoMaxW (d : Reg) (a : Reg) (b : Reg) (s : BitVec 2) (o : BitVec 2) : RoundTrip.Statement (.amoMaxW d a b s o) := by
  intro hwf ws he; cases he
  have h_d := d.isLt; have h_a := a.isLt; have h_b := b.isLt; have h_s := s.isLt; have h_o := o.isLt
  show decode (bytesOf [BitVec.ofNat 32 (268435488 + d.toNat * 1048576 + a.toNat * 16384 + b.toNat * 256 + s.toNat * 4 + o.toNat * 1)]) = .ok (_, 1)
  generalize hw : BitVec.ofNat 32 (268435488 + d.toNat * 1048576 + a.toNat * 16384 + b.toNat * 256 + s.toNat * 4 + o.toNat * 1) = wd
  have hn : wd.toNat = 268435488 + d.toNat * 1048576 + a.toNat * 16384 + b.toNat * 256 + s.toNat * 4 + o.toNat * 1 := by rw [← hw, BitVec.toNat_ofNat]; omega
  refine decode_scalar (by rw [fieldOf_toNat, hn]; omega) ?_
  have e0 : (fieldOf wd 26 6).toNat = 4 := by rw [fieldOf_toNat, hn]; omega
  have e1 : (fieldOf wd 4 4).toNat = 2 := by rw [fieldOf_toNat, hn]; omega
  have f_d : fieldOf wd 20 6 = d := BitVec.eq_of_toNat_eq (by rw [fieldOf_toNat, hn]; omega)
  have f_a : fieldOf wd 14 6 = a := BitVec.eq_of_toNat_eq (by rw [fieldOf_toNat, hn]; omega)
  have f_b : fieldOf wd 8 6 = b := BitVec.eq_of_toNat_eq (by rw [fieldOf_toNat, hn]; omega)
  have f_s : fieldOf wd 2 2 = s := BitVec.eq_of_toNat_eq (by rw [fieldOf_toNat, hn]; omega)
  have f_o : fieldOf wd 0 2 = o := BitVec.eq_of_toNat_eq (by rw [fieldOf_toNat, hn]; omega)
  unfold decodeWord
  rw [e0]
  unfold decodeAmo
  rw [e1]
  rw [f_d, f_a, f_b, f_s, f_o]
  rfl

theorem RoundTrip.amoMinuW (d : Reg) (a : Reg) (b : Reg) (s : BitVec 2) (o : BitVec 2) : RoundTrip.Statement (.amoMinuW d a b s o) := by
  intro hwf ws he; cases he
  have h_d := d.isLt; have h_a := a.isLt; have h_b := b.isLt; have h_s := s.isLt; have h_o := o.isLt
  show decode (bytesOf [BitVec.ofNat 32 (268435504 + d.toNat * 1048576 + a.toNat * 16384 + b.toNat * 256 + s.toNat * 4 + o.toNat * 1)]) = .ok (_, 1)
  generalize hw : BitVec.ofNat 32 (268435504 + d.toNat * 1048576 + a.toNat * 16384 + b.toNat * 256 + s.toNat * 4 + o.toNat * 1) = wd
  have hn : wd.toNat = 268435504 + d.toNat * 1048576 + a.toNat * 16384 + b.toNat * 256 + s.toNat * 4 + o.toNat * 1 := by rw [← hw, BitVec.toNat_ofNat]; omega
  refine decode_scalar (by rw [fieldOf_toNat, hn]; omega) ?_
  have e0 : (fieldOf wd 26 6).toNat = 4 := by rw [fieldOf_toNat, hn]; omega
  have e1 : (fieldOf wd 4 4).toNat = 3 := by rw [fieldOf_toNat, hn]; omega
  have f_d : fieldOf wd 20 6 = d := BitVec.eq_of_toNat_eq (by rw [fieldOf_toNat, hn]; omega)
  have f_a : fieldOf wd 14 6 = a := BitVec.eq_of_toNat_eq (by rw [fieldOf_toNat, hn]; omega)
  have f_b : fieldOf wd 8 6 = b := BitVec.eq_of_toNat_eq (by rw [fieldOf_toNat, hn]; omega)
  have f_s : fieldOf wd 2 2 = s := BitVec.eq_of_toNat_eq (by rw [fieldOf_toNat, hn]; omega)
  have f_o : fieldOf wd 0 2 = o := BitVec.eq_of_toNat_eq (by rw [fieldOf_toNat, hn]; omega)
  unfold decodeWord
  rw [e0]
  unfold decodeAmo
  rw [e1]
  rw [f_d, f_a, f_b, f_s, f_o]
  rfl

theorem RoundTrip.amoMaxuW (d : Reg) (a : Reg) (b : Reg) (s : BitVec 2) (o : BitVec 2) : RoundTrip.Statement (.amoMaxuW d a b s o) := by
  intro hwf ws he; cases he
  have h_d := d.isLt; have h_a := a.isLt; have h_b := b.isLt; have h_s := s.isLt; have h_o := o.isLt
  show decode (bytesOf [BitVec.ofNat 32 (268435520 + d.toNat * 1048576 + a.toNat * 16384 + b.toNat * 256 + s.toNat * 4 + o.toNat * 1)]) = .ok (_, 1)
  generalize hw : BitVec.ofNat 32 (268435520 + d.toNat * 1048576 + a.toNat * 16384 + b.toNat * 256 + s.toNat * 4 + o.toNat * 1) = wd
  have hn : wd.toNat = 268435520 + d.toNat * 1048576 + a.toNat * 16384 + b.toNat * 256 + s.toNat * 4 + o.toNat * 1 := by rw [← hw, BitVec.toNat_ofNat]; omega
  refine decode_scalar (by rw [fieldOf_toNat, hn]; omega) ?_
  have e0 : (fieldOf wd 26 6).toNat = 4 := by rw [fieldOf_toNat, hn]; omega
  have e1 : (fieldOf wd 4 4).toNat = 4 := by rw [fieldOf_toNat, hn]; omega
  have f_d : fieldOf wd 20 6 = d := BitVec.eq_of_toNat_eq (by rw [fieldOf_toNat, hn]; omega)
  have f_a : fieldOf wd 14 6 = a := BitVec.eq_of_toNat_eq (by rw [fieldOf_toNat, hn]; omega)
  have f_b : fieldOf wd 8 6 = b := BitVec.eq_of_toNat_eq (by rw [fieldOf_toNat, hn]; omega)
  have f_s : fieldOf wd 2 2 = s := BitVec.eq_of_toNat_eq (by rw [fieldOf_toNat, hn]; omega)
  have f_o : fieldOf wd 0 2 = o := BitVec.eq_of_toNat_eq (by rw [fieldOf_toNat, hn]; omega)
  unfold decodeWord
  rw [e0]
  unfold decodeAmo
  rw [e1]
  rw [f_d, f_a, f_b, f_s, f_o]
  rfl

theorem RoundTrip.amoAndW (d : Reg) (a : Reg) (b : Reg) (s : BitVec 2) (o : BitVec 2) : RoundTrip.Statement (.amoAndW d a b s o) := by
  intro hwf ws he; cases he
  have h_d := d.isLt; have h_a := a.isLt; have h_b := b.isLt; have h_s := s.isLt; have h_o := o.isLt
  show decode (bytesOf [BitVec.ofNat 32 (268435536 + d.toNat * 1048576 + a.toNat * 16384 + b.toNat * 256 + s.toNat * 4 + o.toNat * 1)]) = .ok (_, 1)
  generalize hw : BitVec.ofNat 32 (268435536 + d.toNat * 1048576 + a.toNat * 16384 + b.toNat * 256 + s.toNat * 4 + o.toNat * 1) = wd
  have hn : wd.toNat = 268435536 + d.toNat * 1048576 + a.toNat * 16384 + b.toNat * 256 + s.toNat * 4 + o.toNat * 1 := by rw [← hw, BitVec.toNat_ofNat]; omega
  refine decode_scalar (by rw [fieldOf_toNat, hn]; omega) ?_
  have e0 : (fieldOf wd 26 6).toNat = 4 := by rw [fieldOf_toNat, hn]; omega
  have e1 : (fieldOf wd 4 4).toNat = 5 := by rw [fieldOf_toNat, hn]; omega
  have f_d : fieldOf wd 20 6 = d := BitVec.eq_of_toNat_eq (by rw [fieldOf_toNat, hn]; omega)
  have f_a : fieldOf wd 14 6 = a := BitVec.eq_of_toNat_eq (by rw [fieldOf_toNat, hn]; omega)
  have f_b : fieldOf wd 8 6 = b := BitVec.eq_of_toNat_eq (by rw [fieldOf_toNat, hn]; omega)
  have f_s : fieldOf wd 2 2 = s := BitVec.eq_of_toNat_eq (by rw [fieldOf_toNat, hn]; omega)
  have f_o : fieldOf wd 0 2 = o := BitVec.eq_of_toNat_eq (by rw [fieldOf_toNat, hn]; omega)
  unfold decodeWord
  rw [e0]
  unfold decodeAmo
  rw [e1]
  rw [f_d, f_a, f_b, f_s, f_o]
  rfl

theorem RoundTrip.amoOrW (d : Reg) (a : Reg) (b : Reg) (s : BitVec 2) (o : BitVec 2) : RoundTrip.Statement (.amoOrW d a b s o) := by
  intro hwf ws he; cases he
  have h_d := d.isLt; have h_a := a.isLt; have h_b := b.isLt; have h_s := s.isLt; have h_o := o.isLt
  show decode (bytesOf [BitVec.ofNat 32 (268435552 + d.toNat * 1048576 + a.toNat * 16384 + b.toNat * 256 + s.toNat * 4 + o.toNat * 1)]) = .ok (_, 1)
  generalize hw : BitVec.ofNat 32 (268435552 + d.toNat * 1048576 + a.toNat * 16384 + b.toNat * 256 + s.toNat * 4 + o.toNat * 1) = wd
  have hn : wd.toNat = 268435552 + d.toNat * 1048576 + a.toNat * 16384 + b.toNat * 256 + s.toNat * 4 + o.toNat * 1 := by rw [← hw, BitVec.toNat_ofNat]; omega
  refine decode_scalar (by rw [fieldOf_toNat, hn]; omega) ?_
  have e0 : (fieldOf wd 26 6).toNat = 4 := by rw [fieldOf_toNat, hn]; omega
  have e1 : (fieldOf wd 4 4).toNat = 6 := by rw [fieldOf_toNat, hn]; omega
  have f_d : fieldOf wd 20 6 = d := BitVec.eq_of_toNat_eq (by rw [fieldOf_toNat, hn]; omega)
  have f_a : fieldOf wd 14 6 = a := BitVec.eq_of_toNat_eq (by rw [fieldOf_toNat, hn]; omega)
  have f_b : fieldOf wd 8 6 = b := BitVec.eq_of_toNat_eq (by rw [fieldOf_toNat, hn]; omega)
  have f_s : fieldOf wd 2 2 = s := BitVec.eq_of_toNat_eq (by rw [fieldOf_toNat, hn]; omega)
  have f_o : fieldOf wd 0 2 = o := BitVec.eq_of_toNat_eq (by rw [fieldOf_toNat, hn]; omega)
  unfold decodeWord
  rw [e0]
  unfold decodeAmo
  rw [e1]
  rw [f_d, f_a, f_b, f_s, f_o]
  rfl

theorem RoundTrip.amoXorW (d : Reg) (a : Reg) (b : Reg) (s : BitVec 2) (o : BitVec 2) : RoundTrip.Statement (.amoXorW d a b s o) := by
  intro hwf ws he; cases he
  have h_d := d.isLt; have h_a := a.isLt; have h_b := b.isLt; have h_s := s.isLt; have h_o := o.isLt
  show decode (bytesOf [BitVec.ofNat 32 (268435568 + d.toNat * 1048576 + a.toNat * 16384 + b.toNat * 256 + s.toNat * 4 + o.toNat * 1)]) = .ok (_, 1)
  generalize hw : BitVec.ofNat 32 (268435568 + d.toNat * 1048576 + a.toNat * 16384 + b.toNat * 256 + s.toNat * 4 + o.toNat * 1) = wd
  have hn : wd.toNat = 268435568 + d.toNat * 1048576 + a.toNat * 16384 + b.toNat * 256 + s.toNat * 4 + o.toNat * 1 := by rw [← hw, BitVec.toNat_ofNat]; omega
  refine decode_scalar (by rw [fieldOf_toNat, hn]; omega) ?_
  have e0 : (fieldOf wd 26 6).toNat = 4 := by rw [fieldOf_toNat, hn]; omega
  have e1 : (fieldOf wd 4 4).toNat = 7 := by rw [fieldOf_toNat, hn]; omega
  have f_d : fieldOf wd 20 6 = d := BitVec.eq_of_toNat_eq (by rw [fieldOf_toNat, hn]; omega)
  have f_a : fieldOf wd 14 6 = a := BitVec.eq_of_toNat_eq (by rw [fieldOf_toNat, hn]; omega)
  have f_b : fieldOf wd 8 6 = b := BitVec.eq_of_toNat_eq (by rw [fieldOf_toNat, hn]; omega)
  have f_s : fieldOf wd 2 2 = s := BitVec.eq_of_toNat_eq (by rw [fieldOf_toNat, hn]; omega)
  have f_o : fieldOf wd 0 2 = o := BitVec.eq_of_toNat_eq (by rw [fieldOf_toNat, hn]; omega)
  unfold decodeWord
  rw [e0]
  unfold decodeAmo
  rw [e1]
  rw [f_d, f_a, f_b, f_s, f_o]
  rfl

theorem RoundTrip.amoSwapW (d : Reg) (a : Reg) (b : Reg) (s : BitVec 2) (o : BitVec 2) : RoundTrip.Statement (.amoSwapW d a b s o) := by
  intro hwf ws he; cases he
  have h_d := d.isLt; have h_a := a.isLt; have h_b := b.isLt; have h_s := s.isLt; have h_o := o.isLt
  show decode (bytesOf [BitVec.ofNat 32 (268435584 + d.toNat * 1048576 + a.toNat * 16384 + b.toNat * 256 + s.toNat * 4 + o.toNat * 1)]) = .ok (_, 1)
  generalize hw : BitVec.ofNat 32 (268435584 + d.toNat * 1048576 + a.toNat * 16384 + b.toNat * 256 + s.toNat * 4 + o.toNat * 1) = wd
  have hn : wd.toNat = 268435584 + d.toNat * 1048576 + a.toNat * 16384 + b.toNat * 256 + s.toNat * 4 + o.toNat * 1 := by rw [← hw, BitVec.toNat_ofNat]; omega
  refine decode_scalar (by rw [fieldOf_toNat, hn]; omega) ?_
  have e0 : (fieldOf wd 26 6).toNat = 4 := by rw [fieldOf_toNat, hn]; omega
  have e1 : (fieldOf wd 4 4).toNat = 8 := by rw [fieldOf_toNat, hn]; omega
  have f_d : fieldOf wd 20 6 = d := BitVec.eq_of_toNat_eq (by rw [fieldOf_toNat, hn]; omega)
  have f_a : fieldOf wd 14 6 = a := BitVec.eq_of_toNat_eq (by rw [fieldOf_toNat, hn]; omega)
  have f_b : fieldOf wd 8 6 = b := BitVec.eq_of_toNat_eq (by rw [fieldOf_toNat, hn]; omega)
  have f_s : fieldOf wd 2 2 = s := BitVec.eq_of_toNat_eq (by rw [fieldOf_toNat, hn]; omega)
  have f_o : fieldOf wd 0 2 = o := BitVec.eq_of_toNat_eq (by rw [fieldOf_toNat, hn]; omega)
  unfold decodeWord
  rw [e0]
  unfold decodeAmo
  rw [e1]
  rw [f_d, f_a, f_b, f_s, f_o]
  rfl

theorem RoundTrip.amoCasW (d : Reg) (a : Reg) (b : Reg) (s : BitVec 2) (o : BitVec 2) : RoundTrip.Statement (.amoCasW d a b s o) := by
  intro hwf ws he; cases he
  have h_d := d.isLt; have h_a := a.isLt; have h_b := b.isLt; have h_s := s.isLt; have h_o := o.isLt
  show decode (bytesOf [BitVec.ofNat 32 (268435600 + d.toNat * 1048576 + a.toNat * 16384 + b.toNat * 256 + s.toNat * 4 + o.toNat * 1)]) = .ok (_, 1)
  generalize hw : BitVec.ofNat 32 (268435600 + d.toNat * 1048576 + a.toNat * 16384 + b.toNat * 256 + s.toNat * 4 + o.toNat * 1) = wd
  have hn : wd.toNat = 268435600 + d.toNat * 1048576 + a.toNat * 16384 + b.toNat * 256 + s.toNat * 4 + o.toNat * 1 := by rw [← hw, BitVec.toNat_ofNat]; omega
  refine decode_scalar (by rw [fieldOf_toNat, hn]; omega) ?_
  have e0 : (fieldOf wd 26 6).toNat = 4 := by rw [fieldOf_toNat, hn]; omega
  have e1 : (fieldOf wd 4 4).toNat = 9 := by rw [fieldOf_toNat, hn]; omega
  have f_d : fieldOf wd 20 6 = d := BitVec.eq_of_toNat_eq (by rw [fieldOf_toNat, hn]; omega)
  have f_a : fieldOf wd 14 6 = a := BitVec.eq_of_toNat_eq (by rw [fieldOf_toNat, hn]; omega)
  have f_b : fieldOf wd 8 6 = b := BitVec.eq_of_toNat_eq (by rw [fieldOf_toNat, hn]; omega)
  have f_s : fieldOf wd 2 2 = s := BitVec.eq_of_toNat_eq (by rw [fieldOf_toNat, hn]; omega)
  have f_o : fieldOf wd 0 2 = o := BitVec.eq_of_toNat_eq (by rw [fieldOf_toNat, hn]; omega)
  unfold decodeWord
  rw [e0]
  unfold decodeAmo
  rw [e1]
  rw [f_d, f_a, f_b, f_s, f_o]
  rfl

theorem RoundTrip.amoAddD (d : Reg) (a : Reg) (b : Reg) (s : BitVec 2) (o : BitVec 2) : RoundTrip.Statement (.amoAddD d a b s o) := by
  intro hwf ws he; cases he
  have h_d := d.isLt; have h_a := a.isLt; have h_b := b.isLt; have h_s := s.isLt; have h_o := o.isLt
  show decode (bytesOf [BitVec.ofNat 32 (335544320 + d.toNat * 1048576 + a.toNat * 16384 + b.toNat * 256 + s.toNat * 4 + o.toNat * 1)]) = .ok (_, 1)
  generalize hw : BitVec.ofNat 32 (335544320 + d.toNat * 1048576 + a.toNat * 16384 + b.toNat * 256 + s.toNat * 4 + o.toNat * 1) = wd
  have hn : wd.toNat = 335544320 + d.toNat * 1048576 + a.toNat * 16384 + b.toNat * 256 + s.toNat * 4 + o.toNat * 1 := by rw [← hw, BitVec.toNat_ofNat]; omega
  refine decode_scalar (by rw [fieldOf_toNat, hn]; omega) ?_
  have e0 : (fieldOf wd 26 6).toNat = 5 := by rw [fieldOf_toNat, hn]; omega
  have e1 : (fieldOf wd 4 4).toNat = 0 := by rw [fieldOf_toNat, hn]; omega
  have f_d : fieldOf wd 20 6 = d := BitVec.eq_of_toNat_eq (by rw [fieldOf_toNat, hn]; omega)
  have f_a : fieldOf wd 14 6 = a := BitVec.eq_of_toNat_eq (by rw [fieldOf_toNat, hn]; omega)
  have f_b : fieldOf wd 8 6 = b := BitVec.eq_of_toNat_eq (by rw [fieldOf_toNat, hn]; omega)
  have f_s : fieldOf wd 2 2 = s := BitVec.eq_of_toNat_eq (by rw [fieldOf_toNat, hn]; omega)
  have f_o : fieldOf wd 0 2 = o := BitVec.eq_of_toNat_eq (by rw [fieldOf_toNat, hn]; omega)
  unfold decodeWord
  rw [e0]
  unfold decodeAmo
  rw [e1]
  rw [f_d, f_a, f_b, f_s, f_o]
  rfl

theorem RoundTrip.amoMinD (d : Reg) (a : Reg) (b : Reg) (s : BitVec 2) (o : BitVec 2) : RoundTrip.Statement (.amoMinD d a b s o) := by
  intro hwf ws he; cases he
  have h_d := d.isLt; have h_a := a.isLt; have h_b := b.isLt; have h_s := s.isLt; have h_o := o.isLt
  show decode (bytesOf [BitVec.ofNat 32 (335544336 + d.toNat * 1048576 + a.toNat * 16384 + b.toNat * 256 + s.toNat * 4 + o.toNat * 1)]) = .ok (_, 1)
  generalize hw : BitVec.ofNat 32 (335544336 + d.toNat * 1048576 + a.toNat * 16384 + b.toNat * 256 + s.toNat * 4 + o.toNat * 1) = wd
  have hn : wd.toNat = 335544336 + d.toNat * 1048576 + a.toNat * 16384 + b.toNat * 256 + s.toNat * 4 + o.toNat * 1 := by rw [← hw, BitVec.toNat_ofNat]; omega
  refine decode_scalar (by rw [fieldOf_toNat, hn]; omega) ?_
  have e0 : (fieldOf wd 26 6).toNat = 5 := by rw [fieldOf_toNat, hn]; omega
  have e1 : (fieldOf wd 4 4).toNat = 1 := by rw [fieldOf_toNat, hn]; omega
  have f_d : fieldOf wd 20 6 = d := BitVec.eq_of_toNat_eq (by rw [fieldOf_toNat, hn]; omega)
  have f_a : fieldOf wd 14 6 = a := BitVec.eq_of_toNat_eq (by rw [fieldOf_toNat, hn]; omega)
  have f_b : fieldOf wd 8 6 = b := BitVec.eq_of_toNat_eq (by rw [fieldOf_toNat, hn]; omega)
  have f_s : fieldOf wd 2 2 = s := BitVec.eq_of_toNat_eq (by rw [fieldOf_toNat, hn]; omega)
  have f_o : fieldOf wd 0 2 = o := BitVec.eq_of_toNat_eq (by rw [fieldOf_toNat, hn]; omega)
  unfold decodeWord
  rw [e0]
  unfold decodeAmo
  rw [e1]
  rw [f_d, f_a, f_b, f_s, f_o]
  rfl

theorem RoundTrip.amoMaxD (d : Reg) (a : Reg) (b : Reg) (s : BitVec 2) (o : BitVec 2) : RoundTrip.Statement (.amoMaxD d a b s o) := by
  intro hwf ws he; cases he
  have h_d := d.isLt; have h_a := a.isLt; have h_b := b.isLt; have h_s := s.isLt; have h_o := o.isLt
  show decode (bytesOf [BitVec.ofNat 32 (335544352 + d.toNat * 1048576 + a.toNat * 16384 + b.toNat * 256 + s.toNat * 4 + o.toNat * 1)]) = .ok (_, 1)
  generalize hw : BitVec.ofNat 32 (335544352 + d.toNat * 1048576 + a.toNat * 16384 + b.toNat * 256 + s.toNat * 4 + o.toNat * 1) = wd
  have hn : wd.toNat = 335544352 + d.toNat * 1048576 + a.toNat * 16384 + b.toNat * 256 + s.toNat * 4 + o.toNat * 1 := by rw [← hw, BitVec.toNat_ofNat]; omega
  refine decode_scalar (by rw [fieldOf_toNat, hn]; omega) ?_
  have e0 : (fieldOf wd 26 6).toNat = 5 := by rw [fieldOf_toNat, hn]; omega
  have e1 : (fieldOf wd 4 4).toNat = 2 := by rw [fieldOf_toNat, hn]; omega
  have f_d : fieldOf wd 20 6 = d := BitVec.eq_of_toNat_eq (by rw [fieldOf_toNat, hn]; omega)
  have f_a : fieldOf wd 14 6 = a := BitVec.eq_of_toNat_eq (by rw [fieldOf_toNat, hn]; omega)
  have f_b : fieldOf wd 8 6 = b := BitVec.eq_of_toNat_eq (by rw [fieldOf_toNat, hn]; omega)
  have f_s : fieldOf wd 2 2 = s := BitVec.eq_of_toNat_eq (by rw [fieldOf_toNat, hn]; omega)
  have f_o : fieldOf wd 0 2 = o := BitVec.eq_of_toNat_eq (by rw [fieldOf_toNat, hn]; omega)
  unfold decodeWord
  rw [e0]
  unfold decodeAmo
  rw [e1]
  rw [f_d, f_a, f_b, f_s, f_o]
  rfl

theorem RoundTrip.amoMinuD (d : Reg) (a : Reg) (b : Reg) (s : BitVec 2) (o : BitVec 2) : RoundTrip.Statement (.amoMinuD d a b s o) := by
  intro hwf ws he; cases he
  have h_d := d.isLt; have h_a := a.isLt; have h_b := b.isLt; have h_s := s.isLt; have h_o := o.isLt
  show decode (bytesOf [BitVec.ofNat 32 (335544368 + d.toNat * 1048576 + a.toNat * 16384 + b.toNat * 256 + s.toNat * 4 + o.toNat * 1)]) = .ok (_, 1)
  generalize hw : BitVec.ofNat 32 (335544368 + d.toNat * 1048576 + a.toNat * 16384 + b.toNat * 256 + s.toNat * 4 + o.toNat * 1) = wd
  have hn : wd.toNat = 335544368 + d.toNat * 1048576 + a.toNat * 16384 + b.toNat * 256 + s.toNat * 4 + o.toNat * 1 := by rw [← hw, BitVec.toNat_ofNat]; omega
  refine decode_scalar (by rw [fieldOf_toNat, hn]; omega) ?_
  have e0 : (fieldOf wd 26 6).toNat = 5 := by rw [fieldOf_toNat, hn]; omega
  have e1 : (fieldOf wd 4 4).toNat = 3 := by rw [fieldOf_toNat, hn]; omega
  have f_d : fieldOf wd 20 6 = d := BitVec.eq_of_toNat_eq (by rw [fieldOf_toNat, hn]; omega)
  have f_a : fieldOf wd 14 6 = a := BitVec.eq_of_toNat_eq (by rw [fieldOf_toNat, hn]; omega)
  have f_b : fieldOf wd 8 6 = b := BitVec.eq_of_toNat_eq (by rw [fieldOf_toNat, hn]; omega)
  have f_s : fieldOf wd 2 2 = s := BitVec.eq_of_toNat_eq (by rw [fieldOf_toNat, hn]; omega)
  have f_o : fieldOf wd 0 2 = o := BitVec.eq_of_toNat_eq (by rw [fieldOf_toNat, hn]; omega)
  unfold decodeWord
  rw [e0]
  unfold decodeAmo
  rw [e1]
  rw [f_d, f_a, f_b, f_s, f_o]
  rfl

theorem RoundTrip.amoMaxuD (d : Reg) (a : Reg) (b : Reg) (s : BitVec 2) (o : BitVec 2) : RoundTrip.Statement (.amoMaxuD d a b s o) := by
  intro hwf ws he; cases he
  have h_d := d.isLt; have h_a := a.isLt; have h_b := b.isLt; have h_s := s.isLt; have h_o := o.isLt
  show decode (bytesOf [BitVec.ofNat 32 (335544384 + d.toNat * 1048576 + a.toNat * 16384 + b.toNat * 256 + s.toNat * 4 + o.toNat * 1)]) = .ok (_, 1)
  generalize hw : BitVec.ofNat 32 (335544384 + d.toNat * 1048576 + a.toNat * 16384 + b.toNat * 256 + s.toNat * 4 + o.toNat * 1) = wd
  have hn : wd.toNat = 335544384 + d.toNat * 1048576 + a.toNat * 16384 + b.toNat * 256 + s.toNat * 4 + o.toNat * 1 := by rw [← hw, BitVec.toNat_ofNat]; omega
  refine decode_scalar (by rw [fieldOf_toNat, hn]; omega) ?_
  have e0 : (fieldOf wd 26 6).toNat = 5 := by rw [fieldOf_toNat, hn]; omega
  have e1 : (fieldOf wd 4 4).toNat = 4 := by rw [fieldOf_toNat, hn]; omega
  have f_d : fieldOf wd 20 6 = d := BitVec.eq_of_toNat_eq (by rw [fieldOf_toNat, hn]; omega)
  have f_a : fieldOf wd 14 6 = a := BitVec.eq_of_toNat_eq (by rw [fieldOf_toNat, hn]; omega)
  have f_b : fieldOf wd 8 6 = b := BitVec.eq_of_toNat_eq (by rw [fieldOf_toNat, hn]; omega)
  have f_s : fieldOf wd 2 2 = s := BitVec.eq_of_toNat_eq (by rw [fieldOf_toNat, hn]; omega)
  have f_o : fieldOf wd 0 2 = o := BitVec.eq_of_toNat_eq (by rw [fieldOf_toNat, hn]; omega)
  unfold decodeWord
  rw [e0]
  unfold decodeAmo
  rw [e1]
  rw [f_d, f_a, f_b, f_s, f_o]
  rfl

theorem RoundTrip.amoAndD (d : Reg) (a : Reg) (b : Reg) (s : BitVec 2) (o : BitVec 2) : RoundTrip.Statement (.amoAndD d a b s o) := by
  intro hwf ws he; cases he
  have h_d := d.isLt; have h_a := a.isLt; have h_b := b.isLt; have h_s := s.isLt; have h_o := o.isLt
  show decode (bytesOf [BitVec.ofNat 32 (335544400 + d.toNat * 1048576 + a.toNat * 16384 + b.toNat * 256 + s.toNat * 4 + o.toNat * 1)]) = .ok (_, 1)
  generalize hw : BitVec.ofNat 32 (335544400 + d.toNat * 1048576 + a.toNat * 16384 + b.toNat * 256 + s.toNat * 4 + o.toNat * 1) = wd
  have hn : wd.toNat = 335544400 + d.toNat * 1048576 + a.toNat * 16384 + b.toNat * 256 + s.toNat * 4 + o.toNat * 1 := by rw [← hw, BitVec.toNat_ofNat]; omega
  refine decode_scalar (by rw [fieldOf_toNat, hn]; omega) ?_
  have e0 : (fieldOf wd 26 6).toNat = 5 := by rw [fieldOf_toNat, hn]; omega
  have e1 : (fieldOf wd 4 4).toNat = 5 := by rw [fieldOf_toNat, hn]; omega
  have f_d : fieldOf wd 20 6 = d := BitVec.eq_of_toNat_eq (by rw [fieldOf_toNat, hn]; omega)
  have f_a : fieldOf wd 14 6 = a := BitVec.eq_of_toNat_eq (by rw [fieldOf_toNat, hn]; omega)
  have f_b : fieldOf wd 8 6 = b := BitVec.eq_of_toNat_eq (by rw [fieldOf_toNat, hn]; omega)
  have f_s : fieldOf wd 2 2 = s := BitVec.eq_of_toNat_eq (by rw [fieldOf_toNat, hn]; omega)
  have f_o : fieldOf wd 0 2 = o := BitVec.eq_of_toNat_eq (by rw [fieldOf_toNat, hn]; omega)
  unfold decodeWord
  rw [e0]
  unfold decodeAmo
  rw [e1]
  rw [f_d, f_a, f_b, f_s, f_o]
  rfl

theorem RoundTrip.amoOrD (d : Reg) (a : Reg) (b : Reg) (s : BitVec 2) (o : BitVec 2) : RoundTrip.Statement (.amoOrD d a b s o) := by
  intro hwf ws he; cases he
  have h_d := d.isLt; have h_a := a.isLt; have h_b := b.isLt; have h_s := s.isLt; have h_o := o.isLt
  show decode (bytesOf [BitVec.ofNat 32 (335544416 + d.toNat * 1048576 + a.toNat * 16384 + b.toNat * 256 + s.toNat * 4 + o.toNat * 1)]) = .ok (_, 1)
  generalize hw : BitVec.ofNat 32 (335544416 + d.toNat * 1048576 + a.toNat * 16384 + b.toNat * 256 + s.toNat * 4 + o.toNat * 1) = wd
  have hn : wd.toNat = 335544416 + d.toNat * 1048576 + a.toNat * 16384 + b.toNat * 256 + s.toNat * 4 + o.toNat * 1 := by rw [← hw, BitVec.toNat_ofNat]; omega
  refine decode_scalar (by rw [fieldOf_toNat, hn]; omega) ?_
  have e0 : (fieldOf wd 26 6).toNat = 5 := by rw [fieldOf_toNat, hn]; omega
  have e1 : (fieldOf wd 4 4).toNat = 6 := by rw [fieldOf_toNat, hn]; omega
  have f_d : fieldOf wd 20 6 = d := BitVec.eq_of_toNat_eq (by rw [fieldOf_toNat, hn]; omega)
  have f_a : fieldOf wd 14 6 = a := BitVec.eq_of_toNat_eq (by rw [fieldOf_toNat, hn]; omega)
  have f_b : fieldOf wd 8 6 = b := BitVec.eq_of_toNat_eq (by rw [fieldOf_toNat, hn]; omega)
  have f_s : fieldOf wd 2 2 = s := BitVec.eq_of_toNat_eq (by rw [fieldOf_toNat, hn]; omega)
  have f_o : fieldOf wd 0 2 = o := BitVec.eq_of_toNat_eq (by rw [fieldOf_toNat, hn]; omega)
  unfold decodeWord
  rw [e0]
  unfold decodeAmo
  rw [e1]
  rw [f_d, f_a, f_b, f_s, f_o]
  rfl

theorem RoundTrip.amoXorD (d : Reg) (a : Reg) (b : Reg) (s : BitVec 2) (o : BitVec 2) : RoundTrip.Statement (.amoXorD d a b s o) := by
  intro hwf ws he; cases he
  have h_d := d.isLt; have h_a := a.isLt; have h_b := b.isLt; have h_s := s.isLt; have h_o := o.isLt
  show decode (bytesOf [BitVec.ofNat 32 (335544432 + d.toNat * 1048576 + a.toNat * 16384 + b.toNat * 256 + s.toNat * 4 + o.toNat * 1)]) = .ok (_, 1)
  generalize hw : BitVec.ofNat 32 (335544432 + d.toNat * 1048576 + a.toNat * 16384 + b.toNat * 256 + s.toNat * 4 + o.toNat * 1) = wd
  have hn : wd.toNat = 335544432 + d.toNat * 1048576 + a.toNat * 16384 + b.toNat * 256 + s.toNat * 4 + o.toNat * 1 := by rw [← hw, BitVec.toNat_ofNat]; omega
  refine decode_scalar (by rw [fieldOf_toNat, hn]; omega) ?_
  have e0 : (fieldOf wd 26 6).toNat = 5 := by rw [fieldOf_toNat, hn]; omega
  have e1 : (fieldOf wd 4 4).toNat = 7 := by rw [fieldOf_toNat, hn]; omega
  have f_d : fieldOf wd 20 6 = d := BitVec.eq_of_toNat_eq (by rw [fieldOf_toNat, hn]; omega)
  have f_a : fieldOf wd 14 6 = a := BitVec.eq_of_toNat_eq (by rw [fieldOf_toNat, hn]; omega)
  have f_b : fieldOf wd 8 6 = b := BitVec.eq_of_toNat_eq (by rw [fieldOf_toNat, hn]; omega)
  have f_s : fieldOf wd 2 2 = s := BitVec.eq_of_toNat_eq (by rw [fieldOf_toNat, hn]; omega)
  have f_o : fieldOf wd 0 2 = o := BitVec.eq_of_toNat_eq (by rw [fieldOf_toNat, hn]; omega)
  unfold decodeWord
  rw [e0]
  unfold decodeAmo
  rw [e1]
  rw [f_d, f_a, f_b, f_s, f_o]
  rfl

theorem RoundTrip.amoSwapD (d : Reg) (a : Reg) (b : Reg) (s : BitVec 2) (o : BitVec 2) : RoundTrip.Statement (.amoSwapD d a b s o) := by
  intro hwf ws he; cases he
  have h_d := d.isLt; have h_a := a.isLt; have h_b := b.isLt; have h_s := s.isLt; have h_o := o.isLt
  show decode (bytesOf [BitVec.ofNat 32 (335544448 + d.toNat * 1048576 + a.toNat * 16384 + b.toNat * 256 + s.toNat * 4 + o.toNat * 1)]) = .ok (_, 1)
  generalize hw : BitVec.ofNat 32 (335544448 + d.toNat * 1048576 + a.toNat * 16384 + b.toNat * 256 + s.toNat * 4 + o.toNat * 1) = wd
  have hn : wd.toNat = 335544448 + d.toNat * 1048576 + a.toNat * 16384 + b.toNat * 256 + s.toNat * 4 + o.toNat * 1 := by rw [← hw, BitVec.toNat_ofNat]; omega
  refine decode_scalar (by rw [fieldOf_toNat, hn]; omega) ?_
  have e0 : (fieldOf wd 26 6).toNat = 5 := by rw [fieldOf_toNat, hn]; omega
  have e1 : (fieldOf wd 4 4).toNat = 8 := by rw [fieldOf_toNat, hn]; omega
  have f_d : fieldOf wd 20 6 = d := BitVec.eq_of_toNat_eq (by rw [fieldOf_toNat, hn]; omega)
  have f_a : fieldOf wd 14 6 = a := BitVec.eq_of_toNat_eq (by rw [fieldOf_toNat, hn]; omega)
  have f_b : fieldOf wd 8 6 = b := BitVec.eq_of_toNat_eq (by rw [fieldOf_toNat, hn]; omega)
  have f_s : fieldOf wd 2 2 = s := BitVec.eq_of_toNat_eq (by rw [fieldOf_toNat, hn]; omega)
  have f_o : fieldOf wd 0 2 = o := BitVec.eq_of_toNat_eq (by rw [fieldOf_toNat, hn]; omega)
  unfold decodeWord
  rw [e0]
  unfold decodeAmo
  rw [e1]
  rw [f_d, f_a, f_b, f_s, f_o]
  rfl

theorem RoundTrip.amoCasD (d : Reg) (a : Reg) (b : Reg) (s : BitVec 2) (o : BitVec 2) : RoundTrip.Statement (.amoCasD d a b s o) := by
  intro hwf ws he; cases he
  have h_d := d.isLt; have h_a := a.isLt; have h_b := b.isLt; have h_s := s.isLt; have h_o := o.isLt
  show decode (bytesOf [BitVec.ofNat 32 (335544464 + d.toNat * 1048576 + a.toNat * 16384 + b.toNat * 256 + s.toNat * 4 + o.toNat * 1)]) = .ok (_, 1)
  generalize hw : BitVec.ofNat 32 (335544464 + d.toNat * 1048576 + a.toNat * 16384 + b.toNat * 256 + s.toNat * 4 + o.toNat * 1) = wd
  have hn : wd.toNat = 335544464 + d.toNat * 1048576 + a.toNat * 16384 + b.toNat * 256 + s.toNat * 4 + o.toNat * 1 := by rw [← hw, BitVec.toNat_ofNat]; omega
  refine decode_scalar (by rw [fieldOf_toNat, hn]; omega) ?_
  have e0 : (fieldOf wd 26 6).toNat = 5 := by rw [fieldOf_toNat, hn]; omega
  have e1 : (fieldOf wd 4 4).toNat = 9 := by rw [fieldOf_toNat, hn]; omega
  have f_d : fieldOf wd 20 6 = d := BitVec.eq_of_toNat_eq (by rw [fieldOf_toNat, hn]; omega)
  have f_a : fieldOf wd 14 6 = a := BitVec.eq_of_toNat_eq (by rw [fieldOf_toNat, hn]; omega)
  have f_b : fieldOf wd 8 6 = b := BitVec.eq_of_toNat_eq (by rw [fieldOf_toNat, hn]; omega)
  have f_s : fieldOf wd 2 2 = s := BitVec.eq_of_toNat_eq (by rw [fieldOf_toNat, hn]; omega)
  have f_o : fieldOf wd 0 2 = o := BitVec.eq_of_toNat_eq (by rw [fieldOf_toNat, hn]; omega)
  unfold decodeWord
  rw [e0]
  unfold decodeAmo
  rw [e1]
  rw [f_d, f_a, f_b, f_s, f_o]
  rfl

theorem RoundTrip.cmpiEq (p : BitVec 4) (a : Reg) (i : BitVec 13) : RoundTrip.Statement (.cmpiEq p a i) := by
  intro hwf ws he; cases he
  have h_p := p.isLt; have h_a := a.isLt; have h_i := i.isLt
  show decode (bytesOf [BitVec.ofNat 32 (402653184 + p.toNat * 1048576 + a.toNat * 16384 + i.toNat * 1)]) = .ok (_, 1)
  generalize hw : BitVec.ofNat 32 (402653184 + p.toNat * 1048576 + a.toNat * 16384 + i.toNat * 1) = wd
  have hn : wd.toNat = 402653184 + p.toNat * 1048576 + a.toNat * 16384 + i.toNat * 1 := by rw [← hw, BitVec.toNat_ofNat]; omega
  refine decode_scalar (by rw [fieldOf_toNat, hn]; omega) ?_
  have e0 : (fieldOf wd 26 6).toNat = 6 := by rw [fieldOf_toNat, hn]; omega
  have e1 : (fieldOf wd 13 1).toNat = 0 := by rw [fieldOf_toNat, hn]; omega
  have e2 : (fieldOf wd 24 2).toNat = 0 := by rw [fieldOf_toNat, hn]; omega
  have f_p : fieldOf wd 20 4 = p := BitVec.eq_of_toNat_eq (by rw [fieldOf_toNat, hn]; omega)
  have f_a : fieldOf wd 14 6 = a := BitVec.eq_of_toNat_eq (by rw [fieldOf_toNat, hn]; omega)
  have f_i : fieldOf wd 0 13 = i := BitVec.eq_of_toNat_eq (by rw [fieldOf_toNat, hn]; omega)
  unfold decodeWord
  rw [e0]
  unfold decodeCmpi
  rw [e1, e2]
  rw [f_p, f_a, f_i]
  rfl

theorem RoundTrip.cmpiNe (p : BitVec 4) (a : Reg) (i : BitVec 13) : RoundTrip.Statement (.cmpiNe p a i) := by
  intro hwf ws he; cases he
  have h_p := p.isLt; have h_a := a.isLt; have h_i := i.isLt
  show decode (bytesOf [BitVec.ofNat 32 (419430400 + p.toNat * 1048576 + a.toNat * 16384 + i.toNat * 1)]) = .ok (_, 1)
  generalize hw : BitVec.ofNat 32 (419430400 + p.toNat * 1048576 + a.toNat * 16384 + i.toNat * 1) = wd
  have hn : wd.toNat = 419430400 + p.toNat * 1048576 + a.toNat * 16384 + i.toNat * 1 := by rw [← hw, BitVec.toNat_ofNat]; omega
  refine decode_scalar (by rw [fieldOf_toNat, hn]; omega) ?_
  have e0 : (fieldOf wd 26 6).toNat = 6 := by rw [fieldOf_toNat, hn]; omega
  have e1 : (fieldOf wd 13 1).toNat = 0 := by rw [fieldOf_toNat, hn]; omega
  have e2 : (fieldOf wd 24 2).toNat = 1 := by rw [fieldOf_toNat, hn]; omega
  have f_p : fieldOf wd 20 4 = p := BitVec.eq_of_toNat_eq (by rw [fieldOf_toNat, hn]; omega)
  have f_a : fieldOf wd 14 6 = a := BitVec.eq_of_toNat_eq (by rw [fieldOf_toNat, hn]; omega)
  have f_i : fieldOf wd 0 13 = i := BitVec.eq_of_toNat_eq (by rw [fieldOf_toNat, hn]; omega)
  unfold decodeWord
  rw [e0]
  unfold decodeCmpi
  rw [e1, e2]
  rw [f_p, f_a, f_i]
  rfl

theorem RoundTrip.cmpiLt (p : BitVec 4) (a : Reg) (i : BitVec 13) : RoundTrip.Statement (.cmpiLt p a i) := by
  intro hwf ws he; cases he
  have h_p := p.isLt; have h_a := a.isLt; have h_i := i.isLt
  show decode (bytesOf [BitVec.ofNat 32 (436207616 + p.toNat * 1048576 + a.toNat * 16384 + i.toNat * 1)]) = .ok (_, 1)
  generalize hw : BitVec.ofNat 32 (436207616 + p.toNat * 1048576 + a.toNat * 16384 + i.toNat * 1) = wd
  have hn : wd.toNat = 436207616 + p.toNat * 1048576 + a.toNat * 16384 + i.toNat * 1 := by rw [← hw, BitVec.toNat_ofNat]; omega
  refine decode_scalar (by rw [fieldOf_toNat, hn]; omega) ?_
  have e0 : (fieldOf wd 26 6).toNat = 6 := by rw [fieldOf_toNat, hn]; omega
  have e1 : (fieldOf wd 13 1).toNat = 0 := by rw [fieldOf_toNat, hn]; omega
  have e2 : (fieldOf wd 24 2).toNat = 2 := by rw [fieldOf_toNat, hn]; omega
  have f_p : fieldOf wd 20 4 = p := BitVec.eq_of_toNat_eq (by rw [fieldOf_toNat, hn]; omega)
  have f_a : fieldOf wd 14 6 = a := BitVec.eq_of_toNat_eq (by rw [fieldOf_toNat, hn]; omega)
  have f_i : fieldOf wd 0 13 = i := BitVec.eq_of_toNat_eq (by rw [fieldOf_toNat, hn]; omega)
  unfold decodeWord
  rw [e0]
  unfold decodeCmpi
  rw [e1, e2]
  rw [f_p, f_a, f_i]
  rfl

theorem RoundTrip.cmpiLe (p : BitVec 4) (a : Reg) (i : BitVec 13) : RoundTrip.Statement (.cmpiLe p a i) := by
  intro hwf ws he; cases he
  have h_p := p.isLt; have h_a := a.isLt; have h_i := i.isLt
  show decode (bytesOf [BitVec.ofNat 32 (452984832 + p.toNat * 1048576 + a.toNat * 16384 + i.toNat * 1)]) = .ok (_, 1)
  generalize hw : BitVec.ofNat 32 (452984832 + p.toNat * 1048576 + a.toNat * 16384 + i.toNat * 1) = wd
  have hn : wd.toNat = 452984832 + p.toNat * 1048576 + a.toNat * 16384 + i.toNat * 1 := by rw [← hw, BitVec.toNat_ofNat]; omega
  refine decode_scalar (by rw [fieldOf_toNat, hn]; omega) ?_
  have e0 : (fieldOf wd 26 6).toNat = 6 := by rw [fieldOf_toNat, hn]; omega
  have e1 : (fieldOf wd 13 1).toNat = 0 := by rw [fieldOf_toNat, hn]; omega
  have e2 : (fieldOf wd 24 2).toNat = 3 := by rw [fieldOf_toNat, hn]; omega
  have f_p : fieldOf wd 20 4 = p := BitVec.eq_of_toNat_eq (by rw [fieldOf_toNat, hn]; omega)
  have f_a : fieldOf wd 14 6 = a := BitVec.eq_of_toNat_eq (by rw [fieldOf_toNat, hn]; omega)
  have f_i : fieldOf wd 0 13 = i := BitVec.eq_of_toNat_eq (by rw [fieldOf_toNat, hn]; omega)
  unfold decodeWord
  rw [e0]
  unfold decodeCmpi
  rw [e1, e2]
  rw [f_p, f_a, f_i]
  rfl

theorem RoundTrip.cmpiLtu (p : BitVec 4) (a : Reg) (i : BitVec 13) : RoundTrip.Statement (.cmpiLtu p a i) := by
  intro hwf ws he; cases he
  have h_p := p.isLt; have h_a := a.isLt; have h_i := i.isLt
  show decode (bytesOf [BitVec.ofNat 32 (402661376 + p.toNat * 1048576 + a.toNat * 16384 + i.toNat * 1)]) = .ok (_, 1)
  generalize hw : BitVec.ofNat 32 (402661376 + p.toNat * 1048576 + a.toNat * 16384 + i.toNat * 1) = wd
  have hn : wd.toNat = 402661376 + p.toNat * 1048576 + a.toNat * 16384 + i.toNat * 1 := by rw [← hw, BitVec.toNat_ofNat]; omega
  refine decode_scalar (by rw [fieldOf_toNat, hn]; omega) ?_
  have e0 : (fieldOf wd 26 6).toNat = 6 := by rw [fieldOf_toNat, hn]; omega
  have e1 : (fieldOf wd 13 1).toNat = 1 := by rw [fieldOf_toNat, hn]; omega
  have e2 : (fieldOf wd 24 2).toNat = 0 := by rw [fieldOf_toNat, hn]; omega
  have f_p : fieldOf wd 20 4 = p := BitVec.eq_of_toNat_eq (by rw [fieldOf_toNat, hn]; omega)
  have f_a : fieldOf wd 14 6 = a := BitVec.eq_of_toNat_eq (by rw [fieldOf_toNat, hn]; omega)
  have f_i : fieldOf wd 0 13 = i := BitVec.eq_of_toNat_eq (by rw [fieldOf_toNat, hn]; omega)
  unfold decodeWord
  rw [e0]
  unfold decodeCmpi
  rw [e1, e2]
  rw [f_p, f_a, f_i]
  rfl

theorem RoundTrip.cmpiLeu (p : BitVec 4) (a : Reg) (i : BitVec 13) : RoundTrip.Statement (.cmpiLeu p a i) := by
  intro hwf ws he; cases he
  have h_p := p.isLt; have h_a := a.isLt; have h_i := i.isLt
  show decode (bytesOf [BitVec.ofNat 32 (419438592 + p.toNat * 1048576 + a.toNat * 16384 + i.toNat * 1)]) = .ok (_, 1)
  generalize hw : BitVec.ofNat 32 (419438592 + p.toNat * 1048576 + a.toNat * 16384 + i.toNat * 1) = wd
  have hn : wd.toNat = 419438592 + p.toNat * 1048576 + a.toNat * 16384 + i.toNat * 1 := by rw [← hw, BitVec.toNat_ofNat]; omega
  refine decode_scalar (by rw [fieldOf_toNat, hn]; omega) ?_
  have e0 : (fieldOf wd 26 6).toNat = 6 := by rw [fieldOf_toNat, hn]; omega
  have e1 : (fieldOf wd 13 1).toNat = 1 := by rw [fieldOf_toNat, hn]; omega
  have e2 : (fieldOf wd 24 2).toNat = 1 := by rw [fieldOf_toNat, hn]; omega
  have f_p : fieldOf wd 20 4 = p := BitVec.eq_of_toNat_eq (by rw [fieldOf_toNat, hn]; omega)
  have f_a : fieldOf wd 14 6 = a := BitVec.eq_of_toNat_eq (by rw [fieldOf_toNat, hn]; omega)
  have f_i : fieldOf wd 0 13 = i := BitVec.eq_of_toNat_eq (by rw [fieldOf_toNat, hn]; omega)
  unfold decodeWord
  rw [e0]
  unfold decodeCmpi
  rw [e1, e2]
  rw [f_p, f_a, f_i]
  rfl

theorem RoundTrip.loop (d : Reg) (i : BitVec 20) : RoundTrip.Statement (.loop d i) := by
  intro hwf ws he; cases he
  have h_d := d.isLt; have h_i := i.isLt
  show decode (bytesOf [BitVec.ofNat 32 (469762048 + d.toNat * 1048576 + i.toNat * 1)]) = .ok (_, 1)
  generalize hw : BitVec.ofNat 32 (469762048 + d.toNat * 1048576 + i.toNat * 1) = wd
  have hn : wd.toNat = 469762048 + d.toNat * 1048576 + i.toNat * 1 := by rw [← hw, BitVec.toNat_ofNat]; omega
  refine decode_scalar (by rw [fieldOf_toNat, hn]; omega) ?_
  have e0 : (fieldOf wd 26 6).toNat = 7 := by rw [fieldOf_toNat, hn]; omega
  have f_d : fieldOf wd 20 6 = d := BitVec.eq_of_toNat_eq (by rw [fieldOf_toNat, hn]; omega)
  have f_i : fieldOf wd 0 20 = i := BitVec.eq_of_toNat_eq (by rw [fieldOf_toNat, hn]; omega)
  unfold decodeWord
  rw [e0]
  rw [f_d, f_i]
  rfl

theorem RoundTrip.addi (d : Reg) (a : Reg) (i : BitVec 14) : RoundTrip.Statement (.addi d a i) := by
  intro hwf ws he; cases he
  have h_d := d.isLt; have h_a := a.isLt; have h_i := i.isLt
  show decode (bytesOf [BitVec.ofNat 32 (536870912 + d.toNat * 1048576 + a.toNat * 16384 + i.toNat * 1)]) = .ok (_, 1)
  generalize hw : BitVec.ofNat 32 (536870912 + d.toNat * 1048576 + a.toNat * 16384 + i.toNat * 1) = wd
  have hn : wd.toNat = 536870912 + d.toNat * 1048576 + a.toNat * 16384 + i.toNat * 1 := by rw [← hw, BitVec.toNat_ofNat]; omega
  refine decode_scalar (by rw [fieldOf_toNat, hn]; omega) ?_
  have e0 : (fieldOf wd 26 6).toNat = 8 := by rw [fieldOf_toNat, hn]; omega
  have f_d : fieldOf wd 20 6 = d := BitVec.eq_of_toNat_eq (by rw [fieldOf_toNat, hn]; omega)
  have f_a : fieldOf wd 14 6 = a := BitVec.eq_of_toNat_eq (by rw [fieldOf_toNat, hn]; omega)
  have f_i : fieldOf wd 0 14 = i := BitVec.eq_of_toNat_eq (by rw [fieldOf_toNat, hn]; omega)
  unfold decodeWord
  rw [e0]
  rw [f_d, f_a, f_i]
  rfl

theorem RoundTrip.andi (d : Reg) (a : Reg) (i : BitVec 14) : RoundTrip.Statement (.andi d a i) := by
  intro hwf ws he; cases he
  have h_d := d.isLt; have h_a := a.isLt; have h_i := i.isLt
  show decode (bytesOf [BitVec.ofNat 32 (603979776 + d.toNat * 1048576 + a.toNat * 16384 + i.toNat * 1)]) = .ok (_, 1)
  generalize hw : BitVec.ofNat 32 (603979776 + d.toNat * 1048576 + a.toNat * 16384 + i.toNat * 1) = wd
  have hn : wd.toNat = 603979776 + d.toNat * 1048576 + a.toNat * 16384 + i.toNat * 1 := by rw [← hw, BitVec.toNat_ofNat]; omega
  refine decode_scalar (by rw [fieldOf_toNat, hn]; omega) ?_
  have e0 : (fieldOf wd 26 6).toNat = 9 := by rw [fieldOf_toNat, hn]; omega
  have f_d : fieldOf wd 20 6 = d := BitVec.eq_of_toNat_eq (by rw [fieldOf_toNat, hn]; omega)
  have f_a : fieldOf wd 14 6 = a := BitVec.eq_of_toNat_eq (by rw [fieldOf_toNat, hn]; omega)
  have f_i : fieldOf wd 0 14 = i := BitVec.eq_of_toNat_eq (by rw [fieldOf_toNat, hn]; omega)
  unfold decodeWord
  rw [e0]
  rw [f_d, f_a, f_i]
  rfl

theorem RoundTrip.ori (d : Reg) (a : Reg) (i : BitVec 14) : RoundTrip.Statement (.ori d a i) := by
  intro hwf ws he; cases he
  have h_d := d.isLt; have h_a := a.isLt; have h_i := i.isLt
  show decode (bytesOf [BitVec.ofNat 32 (671088640 + d.toNat * 1048576 + a.toNat * 16384 + i.toNat * 1)]) = .ok (_, 1)
  generalize hw : BitVec.ofNat 32 (671088640 + d.toNat * 1048576 + a.toNat * 16384 + i.toNat * 1) = wd
  have hn : wd.toNat = 671088640 + d.toNat * 1048576 + a.toNat * 16384 + i.toNat * 1 := by rw [← hw, BitVec.toNat_ofNat]; omega
  refine decode_scalar (by rw [fieldOf_toNat, hn]; omega) ?_
  have e0 : (fieldOf wd 26 6).toNat = 10 := by rw [fieldOf_toNat, hn]; omega
  have f_d : fieldOf wd 20 6 = d := BitVec.eq_of_toNat_eq (by rw [fieldOf_toNat, hn]; omega)
  have f_a : fieldOf wd 14 6 = a := BitVec.eq_of_toNat_eq (by rw [fieldOf_toNat, hn]; omega)
  have f_i : fieldOf wd 0 14 = i := BitVec.eq_of_toNat_eq (by rw [fieldOf_toNat, hn]; omega)
  unfold decodeWord
  rw [e0]
  rw [f_d, f_a, f_i]
  rfl

theorem RoundTrip.xori (d : Reg) (a : Reg) (i : BitVec 14) : RoundTrip.Statement (.xori d a i) := by
  intro hwf ws he; cases he
  have h_d := d.isLt; have h_a := a.isLt; have h_i := i.isLt
  show decode (bytesOf [BitVec.ofNat 32 (738197504 + d.toNat * 1048576 + a.toNat * 16384 + i.toNat * 1)]) = .ok (_, 1)
  generalize hw : BitVec.ofNat 32 (738197504 + d.toNat * 1048576 + a.toNat * 16384 + i.toNat * 1) = wd
  have hn : wd.toNat = 738197504 + d.toNat * 1048576 + a.toNat * 16384 + i.toNat * 1 := by rw [← hw, BitVec.toNat_ofNat]; omega
  refine decode_scalar (by rw [fieldOf_toNat, hn]; omega) ?_
  have e0 : (fieldOf wd 26 6).toNat = 11 := by rw [fieldOf_toNat, hn]; omega
  have f_d : fieldOf wd 20 6 = d := BitVec.eq_of_toNat_eq (by rw [fieldOf_toNat, hn]; omega)
  have f_a : fieldOf wd 14 6 = a := BitVec.eq_of_toNat_eq (by rw [fieldOf_toNat, hn]; omega)
  have f_i : fieldOf wd 0 14 = i := BitVec.eq_of_toNat_eq (by rw [fieldOf_toNat, hn]; omega)
  unfold decodeWord
  rw [e0]
  rw [f_d, f_a, f_i]
  rfl

theorem RoundTrip.shli (d : Reg) (a : Reg) (s : BitVec 6) : RoundTrip.Statement (.shli d a s) := by
  intro hwf ws he; cases he
  have h_d := d.isLt; have h_a := a.isLt; have h_s := s.isLt
  show decode (bytesOf [BitVec.ofNat 32 (805306368 + d.toNat * 1048576 + a.toNat * 16384 + s.toNat * 1)]) = .ok (_, 1)
  generalize hw : BitVec.ofNat 32 (805306368 + d.toNat * 1048576 + a.toNat * 16384 + s.toNat * 1) = wd
  have hn : wd.toNat = 805306368 + d.toNat * 1048576 + a.toNat * 16384 + s.toNat * 1 := by rw [← hw, BitVec.toNat_ofNat]; omega
  refine decode_scalar (by rw [fieldOf_toNat, hn]; omega) ?_
  have e0 : (fieldOf wd 26 6).toNat = 12 := by rw [fieldOf_toNat, hn]; omega
  have f_d : fieldOf wd 20 6 = d := BitVec.eq_of_toNat_eq (by rw [fieldOf_toNat, hn]; omega)
  have f_a : fieldOf wd 14 6 = a := BitVec.eq_of_toNat_eq (by rw [fieldOf_toNat, hn]; omega)
  have f_s : fieldOf wd 0 6 = s := BitVec.eq_of_toNat_eq (by rw [fieldOf_toNat, hn]; omega)
  have z0 := land_zero wd.toNat 6 8 (by rw [hn]; omega)
  have hz : wd.toNat &&& 16320 = 0 := z0
  unfold decodeWord
  rw [e0]
  rw [f_d, f_a, f_s]
  unfold zeroUnless
  rw [hz]
  rfl

theorem RoundTrip.shri (d : Reg) (a : Reg) (s : BitVec 6) : RoundTrip.Statement (.shri d a s) := by
  intro hwf ws he; cases he
  have h_d := d.isLt; have h_a := a.isLt; have h_s := s.isLt
  show decode (bytesOf [BitVec.ofNat 32 (872415232 + d.toNat * 1048576 + a.toNat * 16384 + s.toNat * 1)]) = .ok (_, 1)
  generalize hw : BitVec.ofNat 32 (872415232 + d.toNat * 1048576 + a.toNat * 16384 + s.toNat * 1) = wd
  have hn : wd.toNat = 872415232 + d.toNat * 1048576 + a.toNat * 16384 + s.toNat * 1 := by rw [← hw, BitVec.toNat_ofNat]; omega
  refine decode_scalar (by rw [fieldOf_toNat, hn]; omega) ?_
  have e0 : (fieldOf wd 26 6).toNat = 13 := by rw [fieldOf_toNat, hn]; omega
  have f_d : fieldOf wd 20 6 = d := BitVec.eq_of_toNat_eq (by rw [fieldOf_toNat, hn]; omega)
  have f_a : fieldOf wd 14 6 = a := BitVec.eq_of_toNat_eq (by rw [fieldOf_toNat, hn]; omega)
  have f_s : fieldOf wd 0 6 = s := BitVec.eq_of_toNat_eq (by rw [fieldOf_toNat, hn]; omega)
  have z0 := land_zero wd.toNat 6 8 (by rw [hn]; omega)
  have hz : wd.toNat &&& 16320 = 0 := z0
  unfold decodeWord
  rw [e0]
  rw [f_d, f_a, f_s]
  unfold zeroUnless
  rw [hz]
  rfl

theorem RoundTrip.sari (d : Reg) (a : Reg) (s : BitVec 6) : RoundTrip.Statement (.sari d a s) := by
  intro hwf ws he; cases he
  have h_d := d.isLt; have h_a := a.isLt; have h_s := s.isLt
  show decode (bytesOf [BitVec.ofNat 32 (939524096 + d.toNat * 1048576 + a.toNat * 16384 + s.toNat * 1)]) = .ok (_, 1)
  generalize hw : BitVec.ofNat 32 (939524096 + d.toNat * 1048576 + a.toNat * 16384 + s.toNat * 1) = wd
  have hn : wd.toNat = 939524096 + d.toNat * 1048576 + a.toNat * 16384 + s.toNat * 1 := by rw [← hw, BitVec.toNat_ofNat]; omega
  refine decode_scalar (by rw [fieldOf_toNat, hn]; omega) ?_
  have e0 : (fieldOf wd 26 6).toNat = 14 := by rw [fieldOf_toNat, hn]; omega
  have f_d : fieldOf wd 20 6 = d := BitVec.eq_of_toNat_eq (by rw [fieldOf_toNat, hn]; omega)
  have f_a : fieldOf wd 14 6 = a := BitVec.eq_of_toNat_eq (by rw [fieldOf_toNat, hn]; omega)
  have f_s : fieldOf wd 0 6 = s := BitVec.eq_of_toNat_eq (by rw [fieldOf_toNat, hn]; omega)
  have z0 := land_zero wd.toNat 6 8 (by rw [hn]; omega)
  have hz : wd.toNat &&& 16320 = 0 := z0
  unfold decodeWord
  rw [e0]
  rw [f_d, f_a, f_s]
  unfold zeroUnless
  rw [hz]
  rfl

theorem RoundTrip.li (d : Reg) (i : BitVec 20) : RoundTrip.Statement (.li d i) := by
  intro hwf ws he; cases he
  have h_d := d.isLt; have h_i := i.isLt
  show decode (bytesOf [BitVec.ofNat 32 (1006632960 + d.toNat * 1048576 + i.toNat * 1)]) = .ok (_, 1)
  generalize hw : BitVec.ofNat 32 (1006632960 + d.toNat * 1048576 + i.toNat * 1) = wd
  have hn : wd.toNat = 1006632960 + d.toNat * 1048576 + i.toNat * 1 := by rw [← hw, BitVec.toNat_ofNat]; omega
  refine decode_scalar (by rw [fieldOf_toNat, hn]; omega) ?_
  have e0 : (fieldOf wd 26 6).toNat = 15 := by rw [fieldOf_toNat, hn]; omega
  have f_d : fieldOf wd 20 6 = d := BitVec.eq_of_toNat_eq (by rw [fieldOf_toNat, hn]; omega)
  have f_i : fieldOf wd 0 20 = i := BitVec.eq_of_toNat_eq (by rw [fieldOf_toNat, hn]; omega)
  unfold decodeWord
  rw [e0]
  rw [f_d, f_i]
  rfl

theorem RoundTrip.lui (d : Reg) (i : BitVec 20) : RoundTrip.Statement (.lui d i) := by
  intro hwf ws he; cases he
  have h_d := d.isLt; have h_i := i.isLt
  show decode (bytesOf [BitVec.ofNat 32 (1073741824 + d.toNat * 1048576 + i.toNat * 1)]) = .ok (_, 1)
  generalize hw : BitVec.ofNat 32 (1073741824 + d.toNat * 1048576 + i.toNat * 1) = wd
  have hn : wd.toNat = 1073741824 + d.toNat * 1048576 + i.toNat * 1 := by rw [← hw, BitVec.toNat_ofNat]; omega
  refine decode_scalar (by rw [fieldOf_toNat, hn]; omega) ?_
  have e0 : (fieldOf wd 26 6).toNat = 16 := by rw [fieldOf_toNat, hn]; omega
  have f_d : fieldOf wd 20 6 = d := BitVec.eq_of_toNat_eq (by rw [fieldOf_toNat, hn]; omega)
  have f_i : fieldOf wd 0 20 = i := BitVec.eq_of_toNat_eq (by rw [fieldOf_toNat, hn]; omega)
  unfold decodeWord
  rw [e0]
  rw [f_d, f_i]
  rfl

theorem RoundTrip.pld (d : Reg) (a : Reg) (s : BitVec 2) (o : BitVec 12) : RoundTrip.Statement (.pld d a s o) := by
  intro hwf ws he; cases he
  have h_d := d.isLt; have h_a := a.isLt; have h_s := s.isLt; have h_o := o.isLt
  show decode (bytesOf [BitVec.ofNat 32 (1140850688 + d.toNat * 1048576 + a.toNat * 16384 + s.toNat * 4096 + o.toNat * 1)]) = .ok (_, 1)
  generalize hw : BitVec.ofNat 32 (1140850688 + d.toNat * 1048576 + a.toNat * 16384 + s.toNat * 4096 + o.toNat * 1) = wd
  have hn : wd.toNat = 1140850688 + d.toNat * 1048576 + a.toNat * 16384 + s.toNat * 4096 + o.toNat * 1 := by rw [← hw, BitVec.toNat_ofNat]; omega
  refine decode_scalar (by rw [fieldOf_toNat, hn]; omega) ?_
  have e0 : (fieldOf wd 26 6).toNat = 17 := by rw [fieldOf_toNat, hn]; omega
  have f_d : fieldOf wd 20 6 = d := BitVec.eq_of_toNat_eq (by rw [fieldOf_toNat, hn]; omega)
  have f_a : fieldOf wd 14 6 = a := BitVec.eq_of_toNat_eq (by rw [fieldOf_toNat, hn]; omega)
  have f_s : fieldOf wd 12 2 = s := BitVec.eq_of_toNat_eq (by rw [fieldOf_toNat, hn]; omega)
  have f_o : fieldOf wd 0 12 = o := BitVec.eq_of_toNat_eq (by rw [fieldOf_toNat, hn]; omega)
  unfold decodeWord
  rw [e0]
  rw [f_d, f_a, f_s, f_o]
  rfl

theorem RoundTrip.pst (d : Reg) (a : Reg) (s : BitVec 2) (o : BitVec 12) : RoundTrip.Statement (.pst d a s o) := by
  intro hwf ws he; cases he
  have h_d := d.isLt; have h_a := a.isLt; have h_s := s.isLt; have h_o := o.isLt
  show decode (bytesOf [BitVec.ofNat 32 (1207959552 + d.toNat * 1048576 + a.toNat * 16384 + s.toNat * 4096 + o.toNat * 1)]) = .ok (_, 1)
  generalize hw : BitVec.ofNat 32 (1207959552 + d.toNat * 1048576 + a.toNat * 16384 + s.toNat * 4096 + o.toNat * 1) = wd
  have hn : wd.toNat = 1207959552 + d.toNat * 1048576 + a.toNat * 16384 + s.toNat * 4096 + o.toNat * 1 := by rw [← hw, BitVec.toNat_ofNat]; omega
  refine decode_scalar (by rw [fieldOf_toNat, hn]; omega) ?_
  have e0 : (fieldOf wd 26 6).toNat = 18 := by rw [fieldOf_toNat, hn]; omega
  have f_d : fieldOf wd 20 6 = d := BitVec.eq_of_toNat_eq (by rw [fieldOf_toNat, hn]; omega)
  have f_a : fieldOf wd 14 6 = a := BitVec.eq_of_toNat_eq (by rw [fieldOf_toNat, hn]; omega)
  have f_s : fieldOf wd 12 2 = s := BitVec.eq_of_toNat_eq (by rw [fieldOf_toNat, hn]; omega)
  have f_o : fieldOf wd 0 12 = o := BitVec.eq_of_toNat_eq (by rw [fieldOf_toNat, hn]; omega)
  unfold decodeWord
  rw [e0]
  rw [f_d, f_a, f_s, f_o]
  rfl

theorem RoundTrip.pclr (a : Reg) (s : BitVec 2) (o : BitVec 12) : RoundTrip.Statement (.pclr a s o) := by
  intro hwf ws he; cases he
  have h_a := a.isLt; have h_s := s.isLt; have h_o := o.isLt
  show decode (bytesOf [BitVec.ofNat 32 (1275068416 + a.toNat * 16384 + s.toNat * 4096 + o.toNat * 1)]) = .ok (_, 1)
  generalize hw : BitVec.ofNat 32 (1275068416 + a.toNat * 16384 + s.toNat * 4096 + o.toNat * 1) = wd
  have hn : wd.toNat = 1275068416 + a.toNat * 16384 + s.toNat * 4096 + o.toNat * 1 := by rw [← hw, BitVec.toNat_ofNat]; omega
  refine decode_scalar (by rw [fieldOf_toNat, hn]; omega) ?_
  have e0 : (fieldOf wd 26 6).toNat = 19 := by rw [fieldOf_toNat, hn]; omega
  have f_a : fieldOf wd 14 6 = a := BitVec.eq_of_toNat_eq (by rw [fieldOf_toNat, hn]; omega)
  have f_s : fieldOf wd 12 2 = s := BitVec.eq_of_toNat_eq (by rw [fieldOf_toNat, hn]; omega)
  have f_o : fieldOf wd 0 12 = o := BitVec.eq_of_toNat_eq (by rw [fieldOf_toNat, hn]; omega)
  have z0 := land_zero wd.toNat 20 6 (by rw [hn]; omega)
  have hz : wd.toNat &&& 66060288 = 0 := z0
  unfold decodeWord
  rw [e0]
  rw [f_a, f_s, f_o]
  unfold zeroUnless
  rw [hz]
  rfl

theorem RoundTrip.bp (p : BitVec 4) (o : BitVec 21) : RoundTrip.Statement (.bp p o) := by
  intro hwf ws he; cases he
  have h_p := p.isLt; have h_o := o.isLt
  show decode (bytesOf [BitVec.ofNat 32 (1342177280 + p.toNat * 2097152 + o.toNat * 1)]) = .ok (_, 1)
  generalize hw : BitVec.ofNat 32 (1342177280 + p.toNat * 2097152 + o.toNat * 1) = wd
  have hn : wd.toNat = 1342177280 + p.toNat * 2097152 + o.toNat * 1 := by rw [← hw, BitVec.toNat_ofNat]; omega
  refine decode_scalar (by rw [fieldOf_toNat, hn]; omega) ?_
  have e0 : (fieldOf wd 26 6).toNat = 20 := by rw [fieldOf_toNat, hn]; omega
  have f_p : fieldOf wd 21 4 = p := BitVec.eq_of_toNat_eq (by rw [fieldOf_toNat, hn]; omega)
  have f_o : fieldOf wd 0 21 = o := BitVec.eq_of_toNat_eq (by rw [fieldOf_toNat, hn]; omega)
  unfold decodeWord
  rw [e0]
  replace hwf : decide (p ≠ 0#4) = true := hwf
  simp only [decide_eq_true_eq] at hwf
  rw [f_p, f_o]
  have g : fieldOf wd 25 1 = 0#1 := BitVec.eq_of_toNat_eq (by rw [fieldOf_toNat, hn]; show _ = 0; omega)
  simp only [g, hwf, if_true, if_false]

theorem RoundTrip.bnp (p : BitVec 4) (o : BitVec 21) : RoundTrip.Statement (.bnp p o) := by
  intro hwf ws he; cases he
  have h_p := p.isLt; have h_o := o.isLt
  show decode (bytesOf [BitVec.ofNat 32 (1375731712 + p.toNat * 2097152 + o.toNat * 1)]) = .ok (_, 1)
  generalize hw : BitVec.ofNat 32 (1375731712 + p.toNat * 2097152 + o.toNat * 1) = wd
  have hn : wd.toNat = 1375731712 + p.toNat * 2097152 + o.toNat * 1 := by rw [← hw, BitVec.toNat_ofNat]; omega
  refine decode_scalar (by rw [fieldOf_toNat, hn]; omega) ?_
  have e0 : (fieldOf wd 26 6).toNat = 20 := by rw [fieldOf_toNat, hn]; omega
  have f_p : fieldOf wd 21 4 = p := BitVec.eq_of_toNat_eq (by rw [fieldOf_toNat, hn]; omega)
  have f_o : fieldOf wd 0 21 = o := BitVec.eq_of_toNat_eq (by rw [fieldOf_toNat, hn]; omega)
  unfold decodeWord
  rw [e0]
  rw [f_p, f_o]
  have g : fieldOf wd 25 1 = 1#1 := BitVec.eq_of_toNat_eq (by rw [fieldOf_toNat, hn]; show _ = 1; omega)
  rw [g]
  rfl

theorem RoundTrip.j (o : BitVec 21) : RoundTrip.Statement (.j o) := by
  intro hwf ws he; cases he
  have h_o := o.isLt
  show decode (bytesOf [BitVec.ofNat 32 (1342177280 + o.toNat * 1)]) = .ok (_, 1)
  generalize hw : BitVec.ofNat 32 (1342177280 + o.toNat * 1) = wd
  have hn : wd.toNat = 1342177280 + o.toNat * 1 := by rw [← hw, BitVec.toNat_ofNat]; omega
  refine decode_scalar (by rw [fieldOf_toNat, hn]; omega) ?_
  have e0 : (fieldOf wd 26 6).toNat = 20 := by rw [fieldOf_toNat, hn]; omega
  have f_o : fieldOf wd 0 21 = o := BitVec.eq_of_toNat_eq (by rw [fieldOf_toNat, hn]; omega)
  unfold decodeWord
  rw [e0]
  rw [f_o]
  have g : fieldOf wd 25 1 = 0#1 := BitVec.eq_of_toNat_eq (by rw [fieldOf_toNat, hn]; show _ = 0; omega)
  have g2 : fieldOf wd 21 4 = 0#4 := BitVec.eq_of_toNat_eq (by rw [fieldOf_toNat, hn]; show _ = 0; omega)
  rw [g, g2]
  rfl

theorem RoundTrip.call (n : BitVec 1) (p : BitVec 4) (o : BitVec 21) : RoundTrip.Statement (.call n p o) := by
  intro hwf ws he; cases he
  have h_n := n.isLt; have h_p := p.isLt; have h_o := o.isLt
  show decode (bytesOf [BitVec.ofNat 32 (1409286144 + n.toNat * 33554432 + p.toNat * 2097152 + o.toNat * 1)]) = .ok (_, 1)
  generalize hw : BitVec.ofNat 32 (1409286144 + n.toNat * 33554432 + p.toNat * 2097152 + o.toNat * 1) = wd
  have hn : wd.toNat = 1409286144 + n.toNat * 33554432 + p.toNat * 2097152 + o.toNat * 1 := by rw [← hw, BitVec.toNat_ofNat]; omega
  refine decode_scalar (by rw [fieldOf_toNat, hn]; omega) ?_
  have e0 : (fieldOf wd 26 6).toNat = 21 := by rw [fieldOf_toNat, hn]; omega
  have f_n : fieldOf wd 25 1 = n := BitVec.eq_of_toNat_eq (by rw [fieldOf_toNat, hn]; omega)
  have f_p : fieldOf wd 21 4 = p := BitVec.eq_of_toNat_eq (by rw [fieldOf_toNat, hn]; omega)
  have f_o : fieldOf wd 0 21 = o := BitVec.eq_of_toNat_eq (by rw [fieldOf_toNat, hn]; omega)
  unfold decodeWord
  rw [e0]
  rw [f_n, f_p, f_o]
  rfl

theorem RoundTrip.wait (l : BitVec 4) (s : BitVec 4) (c : BitVec 4) (t : BitVec 4) (b : BitVec 4) : RoundTrip.Statement (.wait l s c t b) := by
  intro hwf ws he; cases he
  have h_l := l.isLt; have h_s := s.isLt; have h_c := c.isLt; have h_t := t.isLt; have h_b := b.isLt
  show decode (bytesOf [BitVec.ofNat 32 (1476395008 + l.toNat * 65536 + s.toNat * 4096 + c.toNat * 256 + t.toNat * 16 + b.toNat * 1)]) = .ok (_, 1)
  generalize hw : BitVec.ofNat 32 (1476395008 + l.toNat * 65536 + s.toNat * 4096 + c.toNat * 256 + t.toNat * 16 + b.toNat * 1) = wd
  have hn : wd.toNat = 1476395008 + l.toNat * 65536 + s.toNat * 4096 + c.toNat * 256 + t.toNat * 16 + b.toNat * 1 := by rw [← hw, BitVec.toNat_ofNat]; omega
  refine decode_scalar (by rw [fieldOf_toNat, hn]; omega) ?_
  have e0 : (fieldOf wd 26 6).toNat = 22 := by rw [fieldOf_toNat, hn]; omega
  have f_l : fieldOf wd 16 4 = l := BitVec.eq_of_toNat_eq (by rw [fieldOf_toNat, hn]; omega)
  have f_s : fieldOf wd 12 4 = s := BitVec.eq_of_toNat_eq (by rw [fieldOf_toNat, hn]; omega)
  have f_c : fieldOf wd 8 4 = c := BitVec.eq_of_toNat_eq (by rw [fieldOf_toNat, hn]; omega)
  have f_t : fieldOf wd 4 4 = t := BitVec.eq_of_toNat_eq (by rw [fieldOf_toNat, hn]; omega)
  have f_b : fieldOf wd 0 4 = b := BitVec.eq_of_toNat_eq (by rw [fieldOf_toNat, hn]; omega)
  have z0 := land_zero wd.toNat 20 6 (by rw [hn]; omega)
  have hz : wd.toNat &&& 66060288 = 0 := z0
  unfold decodeWord
  rw [e0]
  rw [f_l, f_s, f_c, f_t, f_b]
  unfold zeroUnless
  rw [hz]
  rfl

theorem RoundTrip.nop : RoundTrip.Statement (.nop) := by
  intro hwf ws he; cases he
  show decode (bytesOf [BitVec.ofNat 32 (1543503872)]) = .ok (_, 1)
  generalize hw : BitVec.ofNat 32 (1543503872) = wd
  have hn : wd.toNat = 1543503872 := by rw [← hw]; rfl
  refine decode_scalar (by rw [fieldOf_toNat, hn]; omega) ?_
  have e0 : (fieldOf wd 26 6).toNat = 23 := by rw [fieldOf_toNat, hn]; omega
  have e1 : (fieldOf wd 20 6).toNat = 0 := by rw [fieldOf_toNat, hn]; omega
  have z0 := land_zero wd.toNat 0 20 (by rw [hn]; omega)
  have hz : wd.toNat &&& 1048575 = 0 := z0
  unfold decodeWord
  rw [e0]
  unfold decodeSys
  rw [e1]
  unfold zeroUnless
  rw [hz]
  rfl

theorem RoundTrip.halt : RoundTrip.Statement (.halt) := by
  intro hwf ws he; cases he
  show decode (bytesOf [BitVec.ofNat 32 (1544552448)]) = .ok (_, 1)
  generalize hw : BitVec.ofNat 32 (1544552448) = wd
  have hn : wd.toNat = 1544552448 := by rw [← hw]; rfl
  refine decode_scalar (by rw [fieldOf_toNat, hn]; omega) ?_
  have e0 : (fieldOf wd 26 6).toNat = 23 := by rw [fieldOf_toNat, hn]; omega
  have e1 : (fieldOf wd 20 6).toNat = 1 := by rw [fieldOf_toNat, hn]; omega
  have z0 := land_zero wd.toNat 0 20 (by rw [hn]; omega)
  have hz : wd.toNat &&& 1048575 = 0 := z0
  unfold decodeWord
  rw [e0]
  unfold decodeSys
  rw [e1]
  unfold zeroUnless
  rw [hz]
  rfl

theorem RoundTrip.safe (i : BitVec 12) : RoundTrip.Statement (.safe i) := by
  intro hwf ws he; cases he
  have h_i := i.isLt
  show decode (bytesOf [BitVec.ofNat 32 (1545601024 + i.toNat * 1)]) = .ok (_, 1)
  generalize hw : BitVec.ofNat 32 (1545601024 + i.toNat * 1) = wd
  have hn : wd.toNat = 1545601024 + i.toNat * 1 := by rw [← hw, BitVec.toNat_ofNat]; omega
  refine decode_scalar (by rw [fieldOf_toNat, hn]; omega) ?_
  have e0 : (fieldOf wd 26 6).toNat = 23 := by rw [fieldOf_toNat, hn]; omega
  have e1 : (fieldOf wd 20 6).toNat = 2 := by rw [fieldOf_toNat, hn]; omega
  have f_i : fieldOf wd 0 12 = i := BitVec.eq_of_toNat_eq (by rw [fieldOf_toNat, hn]; omega)
  have z0 := land_zero wd.toNat 12 8 (by rw [hn]; omega)
  have hz : wd.toNat &&& 1044480 = 0 := z0
  unfold decodeWord
  rw [e0]
  unfold decodeSys
  rw [e1]
  rw [f_i]
  unfold zeroUnless
  rw [hz]
  rfl

theorem RoundTrip.trap (c : BitVec 16) : RoundTrip.Statement (.trap c) := by
  intro hwf ws he; cases he
  have h_c := c.isLt
  show decode (bytesOf [BitVec.ofNat 32 (1546649600 + c.toNat * 1)]) = .ok (_, 1)
  generalize hw : BitVec.ofNat 32 (1546649600 + c.toNat * 1) = wd
  have hn : wd.toNat = 1546649600 + c.toNat * 1 := by rw [← hw, BitVec.toNat_ofNat]; omega
  refine decode_scalar (by rw [fieldOf_toNat, hn]; omega) ?_
  have e0 : (fieldOf wd 26 6).toNat = 23 := by rw [fieldOf_toNat, hn]; omega
  have e1 : (fieldOf wd 20 6).toNat = 3 := by rw [fieldOf_toNat, hn]; omega
  have f_c : fieldOf wd 0 16 = c := BitVec.eq_of_toNat_eq (by rw [fieldOf_toNat, hn]; omega)
  have z0 := land_zero wd.toNat 16 4 (by rw [hn]; omega)
  have hz : wd.toNat &&& 983040 = 0 := z0
  unfold decodeWord
  rw [e0]
  unfold decodeSys
  rw [e1]
  rw [f_c]
  unfold zeroUnless
  rw [hz]
  rfl

theorem RoundTrip.eret : RoundTrip.Statement (.eret) := by
  intro hwf ws he; cases he
  show decode (bytesOf [BitVec.ofNat 32 (1547698176)]) = .ok (_, 1)
  generalize hw : BitVec.ofNat 32 (1547698176) = wd
  have hn : wd.toNat = 1547698176 := by rw [← hw]; rfl
  refine decode_scalar (by rw [fieldOf_toNat, hn]; omega) ?_
  have e0 : (fieldOf wd 26 6).toNat = 23 := by rw [fieldOf_toNat, hn]; omega
  have e1 : (fieldOf wd 20 6).toNat = 4 := by rw [fieldOf_toNat, hn]; omega
  have z0 := land_zero wd.toNat 0 20 (by rw [hn]; omega)
  have hz : wd.toNat &&& 1048575 = 0 := z0
  unfold decodeWord
  rw [e0]
  unfold decodeSys
  rw [e1]
  unfold zeroUnless
  rw [hz]
  rfl

theorem RoundTrip.fenceAcq (s : BitVec 2) : RoundTrip.Statement (.fenceAcq s) := by
  intro hwf ws he; cases he
  have h_s := s.isLt
  show decode (bytesOf [BitVec.ofNat 32 (1548746753 + s.toNat * 4)]) = .ok (_, 1)
  generalize hw : BitVec.ofNat 32 (1548746753 + s.toNat * 4) = wd
  have hn : wd.toNat = 1548746753 + s.toNat * 4 := by rw [← hw, BitVec.toNat_ofNat]; omega
  refine decode_scalar (by rw [fieldOf_toNat, hn]; omega) ?_
  have e0 : (fieldOf wd 26 6).toNat = 23 := by rw [fieldOf_toNat, hn]; omega
  have e1 : (fieldOf wd 20 6).toNat = 5 := by rw [fieldOf_toNat, hn]; omega
  have e2 : (fieldOf wd 0 2).toNat = 1 := by rw [fieldOf_toNat, hn]; omega
  have f_s : fieldOf wd 2 2 = s := BitVec.eq_of_toNat_eq (by rw [fieldOf_toNat, hn]; omega)
  have z0 := land_zero wd.toNat 4 16 (by rw [hn]; omega)
  have hz : wd.toNat &&& 1048560 = 0 := z0
  unfold decodeWord
  rw [e0]
  unfold decodeSys
  rw [e1, e2]
  rw [f_s]
  unfold zeroUnless
  rw [hz]
  rfl

theorem RoundTrip.fenceRel (s : BitVec 2) : RoundTrip.Statement (.fenceRel s) := by
  intro hwf ws he; cases he
  have h_s := s.isLt
  show decode (bytesOf [BitVec.ofNat 32 (1548746754 + s.toNat * 4)]) = .ok (_, 1)
  generalize hw : BitVec.ofNat 32 (1548746754 + s.toNat * 4) = wd
  have hn : wd.toNat = 1548746754 + s.toNat * 4 := by rw [← hw, BitVec.toNat_ofNat]; omega
  refine decode_scalar (by rw [fieldOf_toNat, hn]; omega) ?_
  have e0 : (fieldOf wd 26 6).toNat = 23 := by rw [fieldOf_toNat, hn]; omega
  have e1 : (fieldOf wd 20 6).toNat = 5 := by rw [fieldOf_toNat, hn]; omega
  have e2 : (fieldOf wd 0 2).toNat = 2 := by rw [fieldOf_toNat, hn]; omega
  have f_s : fieldOf wd 2 2 = s := BitVec.eq_of_toNat_eq (by rw [fieldOf_toNat, hn]; omega)
  have z0 := land_zero wd.toNat 4 16 (by rw [hn]; omega)
  have hz : wd.toNat &&& 1048560 = 0 := z0
  unfold decodeWord
  rw [e0]
  unfold decodeSys
  rw [e1, e2]
  rw [f_s]
  unfold zeroUnless
  rw [hz]
  rfl

theorem RoundTrip.fenceFull (s : BitVec 2) : RoundTrip.Statement (.fenceFull s) := by
  intro hwf ws he; cases he
  have h_s := s.isLt
  show decode (bytesOf [BitVec.ofNat 32 (1548746755 + s.toNat * 4)]) = .ok (_, 1)
  generalize hw : BitVec.ofNat 32 (1548746755 + s.toNat * 4) = wd
  have hn : wd.toNat = 1548746755 + s.toNat * 4 := by rw [← hw, BitVec.toNat_ofNat]; omega
  refine decode_scalar (by rw [fieldOf_toNat, hn]; omega) ?_
  have e0 : (fieldOf wd 26 6).toNat = 23 := by rw [fieldOf_toNat, hn]; omega
  have e1 : (fieldOf wd 20 6).toNat = 5 := by rw [fieldOf_toNat, hn]; omega
  have e2 : (fieldOf wd 0 2).toNat = 3 := by rw [fieldOf_toNat, hn]; omega
  have f_s : fieldOf wd 2 2 = s := BitVec.eq_of_toNat_eq (by rw [fieldOf_toNat, hn]; omega)
  have z0 := land_zero wd.toNat 4 16 (by rw [hn]; omega)
  have hz : wd.toNat &&& 1048560 = 0 := z0
  unfold decodeWord
  rw [e0]
  unfold decodeSys
  rw [e1, e2]
  rw [f_s]
  unfold zeroUnless
  rw [hz]
  rfl

theorem RoundTrip.drain (p : BitVec 3) : RoundTrip.Statement (.drain p) := by
  intro hwf ws he; cases he
  have h_p := p.isLt
  show decode (bytesOf [BitVec.ofNat 32 (1549795328 + p.toNat * 1)]) = .ok (_, 1)
  generalize hw : BitVec.ofNat 32 (1549795328 + p.toNat * 1) = wd
  have hn : wd.toNat = 1549795328 + p.toNat * 1 := by rw [← hw, BitVec.toNat_ofNat]; omega
  refine decode_scalar (by rw [fieldOf_toNat, hn]; omega) ?_
  have e0 : (fieldOf wd 26 6).toNat = 23 := by rw [fieldOf_toNat, hn]; omega
  have e1 : (fieldOf wd 20 6).toNat = 6 := by rw [fieldOf_toNat, hn]; omega
  have f_p : fieldOf wd 0 3 = p := BitVec.eq_of_toNat_eq (by rw [fieldOf_toNat, hn]; omega)
  have z0 := land_zero wd.toNat 3 17 (by rw [hn]; omega)
  have hz : wd.toNat &&& 1048568 = 0 := z0
  unfold decodeWord
  rw [e0]
  unfold decodeSys
  rw [e1]
  replace hwf : decide (p.toNat < 5) = true := hwf
  simp only [decide_eq_true_eq] at hwf
  rw [f_p]
  unfold zeroUnless
  rw [hz]
  rw [if_neg (show ¬ 5 ≤ p.toNat by omega)]
  rfl

theorem RoundTrip.jr (a : Reg) : RoundTrip.Statement (.jr a) := by
  intro hwf ws he; cases he
  have h_a := a.isLt
  show decode (bytesOf [BitVec.ofNat 32 (1550843904 + a.toNat * 16384)]) = .ok (_, 1)
  generalize hw : BitVec.ofNat 32 (1550843904 + a.toNat * 16384) = wd
  have hn : wd.toNat = 1550843904 + a.toNat * 16384 := by rw [← hw, BitVec.toNat_ofNat]; omega
  refine decode_scalar (by rw [fieldOf_toNat, hn]; omega) ?_
  have e0 : (fieldOf wd 26 6).toNat = 23 := by rw [fieldOf_toNat, hn]; omega
  have e1 : (fieldOf wd 20 6).toNat = 7 := by rw [fieldOf_toNat, hn]; omega
  have f_a : fieldOf wd 14 6 = a := BitVec.eq_of_toNat_eq (by rw [fieldOf_toNat, hn]; omega)
  have z0 := land_zero wd.toNat 0 14 (by rw [hn]; omega)
  have hz : wd.toNat &&& 16383 = 0 := z0
  unfold decodeWord
  rw [e0]
  unfold decodeSys
  rw [e1]
  rw [f_a]
  unfold zeroUnless
  rw [hz]
  rfl

theorem RoundTrip.ret : RoundTrip.Statement (.ret) := by
  intro hwf ws he; cases he
  show decode (bytesOf [BitVec.ofNat 32 (1551892480)]) = .ok (_, 1)
  generalize hw : BitVec.ofNat 32 (1551892480) = wd
  have hn : wd.toNat = 1551892480 := by rw [← hw]; rfl
  refine decode_scalar (by rw [fieldOf_toNat, hn]; omega) ?_
  have e0 : (fieldOf wd 26 6).toNat = 23 := by rw [fieldOf_toNat, hn]; omega
  have e1 : (fieldOf wd 20 6).toNat = 8 := by rw [fieldOf_toNat, hn]; omega
  have z0 := land_zero wd.toNat 0 20 (by rw [hn]; omega)
  have hz : wd.toNat &&& 1048575 = 0 := z0
  unfold decodeWord
  rw [e0]
  unfold decodeSys
  rw [e1]
  unfold zeroUnless
  rw [hz]
  rfl

theorem RoundTrip.mfs (d : Reg) (n : BitVec 6) : RoundTrip.Statement (.mfs d n) := by
  intro hwf ws he; cases he
  have h_d := d.isLt; have h_n := n.isLt
  show decode (bytesOf [BitVec.ofNat 32 (1552941056 + d.toNat * 16384 + n.toNat * 1)]) = .ok (_, 1)
  generalize hw : BitVec.ofNat 32 (1552941056 + d.toNat * 16384 + n.toNat * 1) = wd
  have hn : wd.toNat = 1552941056 + d.toNat * 16384 + n.toNat * 1 := by rw [← hw, BitVec.toNat_ofNat]; omega
  refine decode_scalar (by rw [fieldOf_toNat, hn]; omega) ?_
  have e0 : (fieldOf wd 26 6).toNat = 23 := by rw [fieldOf_toNat, hn]; omega
  have e1 : (fieldOf wd 20 6).toNat = 9 := by rw [fieldOf_toNat, hn]; omega
  have f_d : fieldOf wd 14 6 = d := BitVec.eq_of_toNat_eq (by rw [fieldOf_toNat, hn]; omega)
  have f_n : fieldOf wd 0 6 = n := BitVec.eq_of_toNat_eq (by rw [fieldOf_toNat, hn]; omega)
  have z0 := land_zero wd.toNat 6 8 (by rw [hn]; omega)
  have hz : wd.toNat &&& 16320 = 0 := z0
  unfold decodeWord
  rw [e0]
  unfold decodeSys
  rw [e1]
  rw [f_d, f_n]
  unfold zeroUnless
  rw [hz]
  rfl

theorem RoundTrip.mts (a : Reg) (n : BitVec 6) : RoundTrip.Statement (.mts a n) := by
  intro hwf ws he; cases he
  have h_a := a.isLt; have h_n := n.isLt
  show decode (bytesOf [BitVec.ofNat 32 (1553989632 + a.toNat * 16384 + n.toNat * 1)]) = .ok (_, 1)
  generalize hw : BitVec.ofNat 32 (1553989632 + a.toNat * 16384 + n.toNat * 1) = wd
  have hn : wd.toNat = 1553989632 + a.toNat * 16384 + n.toNat * 1 := by rw [← hw, BitVec.toNat_ofNat]; omega
  refine decode_scalar (by rw [fieldOf_toNat, hn]; omega) ?_
  have e0 : (fieldOf wd 26 6).toNat = 23 := by rw [fieldOf_toNat, hn]; omega
  have e1 : (fieldOf wd 20 6).toNat = 10 := by rw [fieldOf_toNat, hn]; omega
  have f_a : fieldOf wd 14 6 = a := BitVec.eq_of_toNat_eq (by rw [fieldOf_toNat, hn]; omega)
  have f_n : fieldOf wd 0 6 = n := BitVec.eq_of_toNat_eq (by rw [fieldOf_toNat, hn]; omega)
  have z0 := land_zero wd.toNat 6 8 (by rw [hn]; omega)
  have hz : wd.toNat &&& 16320 = 0 := z0
  unfold decodeWord
  rw [e0]
  unfold decodeSys
  rw [e1]
  rw [f_a, f_n]
  unfold zeroUnless
  rw [hz]
  rfl

theorem RoundTrip.mld (a : Reg) (m : BitVec 3) : RoundTrip.Statement (.mld a m) := by
  intro hwf ws he; cases he
  have h_a := a.isLt; have h_m := m.isLt
  show decode (bytesOf [BitVec.ofNat 32 (1555038208 + a.toNat * 16384 + m.toNat * 1)]) = .ok (_, 1)
  generalize hw : BitVec.ofNat 32 (1555038208 + a.toNat * 16384 + m.toNat * 1) = wd
  have hn : wd.toNat = 1555038208 + a.toNat * 16384 + m.toNat * 1 := by rw [← hw, BitVec.toNat_ofNat]; omega
  refine decode_scalar (by rw [fieldOf_toNat, hn]; omega) ?_
  have e0 : (fieldOf wd 26 6).toNat = 23 := by rw [fieldOf_toNat, hn]; omega
  have e1 : (fieldOf wd 20 6).toNat = 11 := by rw [fieldOf_toNat, hn]; omega
  have f_a : fieldOf wd 14 6 = a := BitVec.eq_of_toNat_eq (by rw [fieldOf_toNat, hn]; omega)
  have f_m : fieldOf wd 0 3 = m := BitVec.eq_of_toNat_eq (by rw [fieldOf_toNat, hn]; omega)
  have z0 := land_zero wd.toNat 3 11 (by rw [hn]; omega)
  have hz : wd.toNat &&& 16376 = 0 := z0
  unfold decodeWord
  rw [e0]
  unfold decodeSys
  rw [e1]
  rw [f_a, f_m]
  unfold zeroUnless
  rw [hz]
  rfl

theorem RoundTrip.mst (a : Reg) (m : BitVec 3) : RoundTrip.Statement (.mst a m) := by
  intro hwf ws he; cases he
  have h_a := a.isLt; have h_m := m.isLt
  show decode (bytesOf [BitVec.ofNat 32 (1556086784 + a.toNat * 16384 + m.toNat * 1)]) = .ok (_, 1)
  generalize hw : BitVec.ofNat 32 (1556086784 + a.toNat * 16384 + m.toNat * 1) = wd
  have hn : wd.toNat = 1556086784 + a.toNat * 16384 + m.toNat * 1 := by rw [← hw, BitVec.toNat_ofNat]; omega
  refine decode_scalar (by rw [fieldOf_toNat, hn]; omega) ?_
  have e0 : (fieldOf wd 26 6).toNat = 23 := by rw [fieldOf_toNat, hn]; omega
  have e1 : (fieldOf wd 20 6).toNat = 12 := by rw [fieldOf_toNat, hn]; omega
  have f_a : fieldOf wd 14 6 = a := BitVec.eq_of_toNat_eq (by rw [fieldOf_toNat, hn]; omega)
  have f_m : fieldOf wd 0 3 = m := BitVec.eq_of_toNat_eq (by rw [fieldOf_toNat, hn]; omega)
  have z0 := land_zero wd.toNat 3 11 (by rw [hn]; omega)
  have hz : wd.toNat &&& 16376 = 0 := z0
  unfold decodeWord
  rw [e0]
  unfold decodeSys
  rw [e1]
  rw [f_a, f_m]
  unfold zeroUnless
  rw [hz]
  rfl

theorem RoundTrip.mset (a : Reg) (m : BitVec 3) : RoundTrip.Statement (.mset a m) := by
  intro hwf ws he; cases he
  have h_a := a.isLt; have h_m := m.isLt
  show decode (bytesOf [BitVec.ofNat 32 (1557135360 + a.toNat * 16384 + m.toNat * 1)]) = .ok (_, 1)
  generalize hw : BitVec.ofNat 32 (1557135360 + a.toNat * 16384 + m.toNat * 1) = wd
  have hn : wd.toNat = 1557135360 + a.toNat * 16384 + m.toNat * 1 := by rw [← hw, BitVec.toNat_ofNat]; omega
  refine decode_scalar (by rw [fieldOf_toNat, hn]; omega) ?_
  have e0 : (fieldOf wd 26 6).toNat = 23 := by rw [fieldOf_toNat, hn]; omega
  have e1 : (fieldOf wd 20 6).toNat = 13 := by rw [fieldOf_toNat, hn]; omega
  have f_a : fieldOf wd 14 6 = a := BitVec.eq_of_toNat_eq (by rw [fieldOf_toNat, hn]; omega)
  have f_m : fieldOf wd 0 3 = m := BitVec.eq_of_toNat_eq (by rw [fieldOf_toNat, hn]; omega)
  have z0 := land_zero wd.toNat 3 11 (by rw [hn]; omega)
  have hz : wd.toNat &&& 16376 = 0 := z0
  unfold decodeWord
  rw [e0]
  unfold decodeSys
  rw [e1]
  rw [f_a, f_m]
  unfold zeroUnless
  rw [hz]
  rfl

theorem RoundTrip.mclr (a : Reg) (m : BitVec 3) : RoundTrip.Statement (.mclr a m) := by
  intro hwf ws he; cases he
  have h_a := a.isLt; have h_m := m.isLt
  show decode (bytesOf [BitVec.ofNat 32 (1558183936 + a.toNat * 16384 + m.toNat * 1)]) = .ok (_, 1)
  generalize hw : BitVec.ofNat 32 (1558183936 + a.toNat * 16384 + m.toNat * 1) = wd
  have hn : wd.toNat = 1558183936 + a.toNat * 16384 + m.toNat * 1 := by rw [← hw, BitVec.toNat_ofNat]; omega
  refine decode_scalar (by rw [fieldOf_toNat, hn]; omega) ?_
  have e0 : (fieldOf wd 26 6).toNat = 23 := by rw [fieldOf_toNat, hn]; omega
  have e1 : (fieldOf wd 20 6).toNat = 14 := by rw [fieldOf_toNat, hn]; omega
  have f_a : fieldOf wd 14 6 = a := BitVec.eq_of_toNat_eq (by rw [fieldOf_toNat, hn]; omega)
  have f_m : fieldOf wd 0 3 = m := BitVec.eq_of_toNat_eq (by rw [fieldOf_toNat, hn]; omega)
  have z0 := land_zero wd.toNat 3 11 (by rw [hn]; omega)
  have hz : wd.toNat &&& 16376 = 0 := z0
  unfold decodeWord
  rw [e0]
  unfold decodeSys
  rw [e1]
  rw [f_a, f_m]
  unfold zeroUnless
  rw [hz]
  rfl

theorem RoundTrip.mtst (a : Reg) (p : BitVec 4) (m : BitVec 3) : RoundTrip.Statement (.mtst a p m) := by
  intro hwf ws he; cases he
  have h_a := a.isLt; have h_p := p.isLt; have h_m := m.isLt
  show decode (bytesOf [BitVec.ofNat 32 (1559232512 + a.toNat * 16384 + p.toNat * 128 + m.toNat * 1)]) = .ok (_, 1)
  generalize hw : BitVec.ofNat 32 (1559232512 + a.toNat * 16384 + p.toNat * 128 + m.toNat * 1) = wd
  have hn : wd.toNat = 1559232512 + a.toNat * 16384 + p.toNat * 128 + m.toNat * 1 := by rw [← hw, BitVec.toNat_ofNat]; omega
  refine decode_scalar (by rw [fieldOf_toNat, hn]; omega) ?_
  have e0 : (fieldOf wd 26 6).toNat = 23 := by rw [fieldOf_toNat, hn]; omega
  have e1 : (fieldOf wd 20 6).toNat = 15 := by rw [fieldOf_toNat, hn]; omega
  have f_a : fieldOf wd 14 6 = a := BitVec.eq_of_toNat_eq (by rw [fieldOf_toNat, hn]; omega)
  have f_p : fieldOf wd 7 4 = p := BitVec.eq_of_toNat_eq (by rw [fieldOf_toNat, hn]; omega)
  have f_m : fieldOf wd 0 3 = m := BitVec.eq_of_toNat_eq (by rw [fieldOf_toNat, hn]; omega)
  have z0 := land_zero wd.toNat 3 4 (by rw [hn]; omega)
  have z1 := land_zero wd.toNat 11 3 (by rw [hn]; omega)
  have hz : wd.toNat &&& 14456 = 0 := by
    rw [show 14456 = (2 ^ 4 - 1) * 2 ^ 3 ||| (2 ^ 3 - 1) * 2 ^ 11 from rfl, Nat.and_or_distrib_left, z0, z1]; rfl
  unfold decodeWord
  rw [e0]
  unfold decodeSys
  rw [e1]
  rw [f_a, f_p, f_m]
  unfold zeroUnless
  rw [hz]
  rfl

theorem RoundTrip.traceS (v : BitVec 16) : RoundTrip.Statement (.traceS v) := by
  intro hwf ws he; cases he
  have h_v := v.isLt
  show decode (bytesOf [BitVec.ofNat 32 (1560281088 + v.toNat * 1)]) = .ok (_, 1)
  generalize hw : BitVec.ofNat 32 (1560281088 + v.toNat * 1) = wd
  have hn : wd.toNat = 1560281088 + v.toNat * 1 := by rw [← hw, BitVec.toNat_ofNat]; omega
  refine decode_scalar (by rw [fieldOf_toNat, hn]; omega) ?_
  have e0 : (fieldOf wd 26 6).toNat = 23 := by rw [fieldOf_toNat, hn]; omega
  have e1 : (fieldOf wd 20 6).toNat = 16 := by rw [fieldOf_toNat, hn]; omega
  have f_v : fieldOf wd 0 16 = v := BitVec.eq_of_toNat_eq (by rw [fieldOf_toNat, hn]; omega)
  have z0 := land_zero wd.toNat 16 4 (by rw [hn]; omega)
  have hz : wd.toNat &&& 983040 = 0 := z0
  unfold decodeWord
  rw [e0]
  unfold decodeSys
  rw [e1]
  rw [f_v]
  unfold zeroUnless
  rw [hz]
  rfl

theorem RoundTrip.ldsB (d : Reg) (a : Reg) (o : BitVec 14) : RoundTrip.Statement (.ldsB d a o) := by
  intro hwf ws he; cases he
  have h_d := d.isLt; have h_a := a.isLt; have h_o := o.isLt
  show decode (bytesOf [BitVec.ofNat 32 (1610612736 + d.toNat * 1048576 + a.toNat * 16384 + o.toNat * 1)]) = .ok (_, 1)
  generalize hw : BitVec.ofNat 32 (1610612736 + d.toNat * 1048576 + a.toNat * 16384 + o.toNat * 1) = wd
  have hn : wd.toNat = 1610612736 + d.toNat * 1048576 + a.toNat * 16384 + o.toNat * 1 := by rw [← hw, BitVec.toNat_ofNat]; omega
  refine decode_scalar (by rw [fieldOf_toNat, hn]; omega) ?_
  have e0 : (fieldOf wd 26 6).toNat = 24 := by rw [fieldOf_toNat, hn]; omega
  have f_d : fieldOf wd 20 6 = d := BitVec.eq_of_toNat_eq (by rw [fieldOf_toNat, hn]; omega)
  have f_a : fieldOf wd 14 6 = a := BitVec.eq_of_toNat_eq (by rw [fieldOf_toNat, hn]; omega)
  have f_o : fieldOf wd 0 14 = o := BitVec.eq_of_toNat_eq (by rw [fieldOf_toNat, hn]; omega)
  unfold decodeWord
  rw [e0]
  rw [f_d, f_a, f_o]
  rfl

theorem RoundTrip.ldsH (d : Reg) (a : Reg) (o : BitVec 14) : RoundTrip.Statement (.ldsH d a o) := by
  intro hwf ws he; cases he
  have h_d := d.isLt; have h_a := a.isLt; have h_o := o.isLt
  show decode (bytesOf [BitVec.ofNat 32 (1677721600 + d.toNat * 1048576 + a.toNat * 16384 + o.toNat * 1)]) = .ok (_, 1)
  generalize hw : BitVec.ofNat 32 (1677721600 + d.toNat * 1048576 + a.toNat * 16384 + o.toNat * 1) = wd
  have hn : wd.toNat = 1677721600 + d.toNat * 1048576 + a.toNat * 16384 + o.toNat * 1 := by rw [← hw, BitVec.toNat_ofNat]; omega
  refine decode_scalar (by rw [fieldOf_toNat, hn]; omega) ?_
  have e0 : (fieldOf wd 26 6).toNat = 25 := by rw [fieldOf_toNat, hn]; omega
  have f_d : fieldOf wd 20 6 = d := BitVec.eq_of_toNat_eq (by rw [fieldOf_toNat, hn]; omega)
  have f_a : fieldOf wd 14 6 = a := BitVec.eq_of_toNat_eq (by rw [fieldOf_toNat, hn]; omega)
  have f_o : fieldOf wd 0 14 = o := BitVec.eq_of_toNat_eq (by rw [fieldOf_toNat, hn]; omega)
  unfold decodeWord
  rw [e0]
  rw [f_d, f_a, f_o]
  rfl

theorem RoundTrip.ldsW (d : Reg) (a : Reg) (o : BitVec 14) : RoundTrip.Statement (.ldsW d a o) := by
  intro hwf ws he; cases he
  have h_d := d.isLt; have h_a := a.isLt; have h_o := o.isLt
  show decode (bytesOf [BitVec.ofNat 32 (1744830464 + d.toNat * 1048576 + a.toNat * 16384 + o.toNat * 1)]) = .ok (_, 1)
  generalize hw : BitVec.ofNat 32 (1744830464 + d.toNat * 1048576 + a.toNat * 16384 + o.toNat * 1) = wd
  have hn : wd.toNat = 1744830464 + d.toNat * 1048576 + a.toNat * 16384 + o.toNat * 1 := by rw [← hw, BitVec.toNat_ofNat]; omega
  refine decode_scalar (by rw [fieldOf_toNat, hn]; omega) ?_
  have e0 : (fieldOf wd 26 6).toNat = 26 := by rw [fieldOf_toNat, hn]; omega
  have f_d : fieldOf wd 20 6 = d := BitVec.eq_of_toNat_eq (by rw [fieldOf_toNat, hn]; omega)
  have f_a : fieldOf wd 14 6 = a := BitVec.eq_of_toNat_eq (by rw [fieldOf_toNat, hn]; omega)
  have f_o : fieldOf wd 0 14 = o := BitVec.eq_of_toNat_eq (by rw [fieldOf_toNat, hn]; omega)
  unfold decodeWord
  rw [e0]
  rw [f_d, f_a, f_o]
  rfl

theorem RoundTrip.ldsBByp (d : Reg) (a : Reg) (o : BitVec 14) : RoundTrip.Statement (.ldsBByp d a o) := by
  intro hwf ws he; cases he
  have h_d := d.isLt; have h_a := a.isLt; have h_o := o.isLt
  show decode (bytesOf [BitVec.ofNat 32 (1879048192 + d.toNat * 1048576 + a.toNat * 16384 + o.toNat * 1)]) = .ok (_, 1)
  generalize hw : BitVec.ofNat 32 (1879048192 + d.toNat * 1048576 + a.toNat * 16384 + o.toNat * 1) = wd
  have hn : wd.toNat = 1879048192 + d.toNat * 1048576 + a.toNat * 16384 + o.toNat * 1 := by rw [← hw, BitVec.toNat_ofNat]; omega
  refine decode_scalar (by rw [fieldOf_toNat, hn]; omega) ?_
  have e0 : (fieldOf wd 26 6).toNat = 28 := by rw [fieldOf_toNat, hn]; omega
  have f_d : fieldOf wd 20 6 = d := BitVec.eq_of_toNat_eq (by rw [fieldOf_toNat, hn]; omega)
  have f_a : fieldOf wd 14 6 = a := BitVec.eq_of_toNat_eq (by rw [fieldOf_toNat, hn]; omega)
  have f_o : fieldOf wd 0 14 = o := BitVec.eq_of_toNat_eq (by rw [fieldOf_toNat, hn]; omega)
  unfold decodeWord
  rw [e0]
  rw [f_d, f_a, f_o]
  rfl

theorem RoundTrip.ldsHByp (d : Reg) (a : Reg) (o : BitVec 14) : RoundTrip.Statement (.ldsHByp d a o) := by
  intro hwf ws he; cases he
  have h_d := d.isLt; have h_a := a.isLt; have h_o := o.isLt
  show decode (bytesOf [BitVec.ofNat 32 (1946157056 + d.toNat * 1048576 + a.toNat * 16384 + o.toNat * 1)]) = .ok (_, 1)
  generalize hw : BitVec.ofNat 32 (1946157056 + d.toNat * 1048576 + a.toNat * 16384 + o.toNat * 1) = wd
  have hn : wd.toNat = 1946157056 + d.toNat * 1048576 + a.toNat * 16384 + o.toNat * 1 := by rw [← hw, BitVec.toNat_ofNat]; omega
  refine decode_scalar (by rw [fieldOf_toNat, hn]; omega) ?_
  have e0 : (fieldOf wd 26 6).toNat = 29 := by rw [fieldOf_toNat, hn]; omega
  have f_d : fieldOf wd 20 6 = d := BitVec.eq_of_toNat_eq (by rw [fieldOf_toNat, hn]; omega)
  have f_a : fieldOf wd 14 6 = a := BitVec.eq_of_toNat_eq (by rw [fieldOf_toNat, hn]; omega)
  have f_o : fieldOf wd 0 14 = o := BitVec.eq_of_toNat_eq (by rw [fieldOf_toNat, hn]; omega)
  unfold decodeWord
  rw [e0]
  rw [f_d, f_a, f_o]
  rfl

theorem RoundTrip.ldsWByp (d : Reg) (a : Reg) (o : BitVec 14) : RoundTrip.Statement (.ldsWByp d a o) := by
  intro hwf ws he; cases he
  have h_d := d.isLt; have h_a := a.isLt; have h_o := o.isLt
  show decode (bytesOf [BitVec.ofNat 32 (2013265920 + d.toNat * 1048576 + a.toNat * 16384 + o.toNat * 1)]) = .ok (_, 1)
  generalize hw : BitVec.ofNat 32 (2013265920 + d.toNat * 1048576 + a.toNat * 16384 + o.toNat * 1) = wd
  have hn : wd.toNat = 2013265920 + d.toNat * 1048576 + a.toNat * 16384 + o.toNat * 1 := by rw [← hw, BitVec.toNat_ofNat]; omega
  refine decode_scalar (by rw [fieldOf_toNat, hn]; omega) ?_
  have e0 : (fieldOf wd 26 6).toNat = 30 := by rw [fieldOf_toNat, hn]; omega
  have f_d : fieldOf wd 20 6 = d := BitVec.eq_of_toNat_eq (by rw [fieldOf_toNat, hn]; omega)
  have f_a : fieldOf wd 14 6 = a := BitVec.eq_of_toNat_eq (by rw [fieldOf_toNat, hn]; omega)
  have f_o : fieldOf wd 0 14 = o := BitVec.eq_of_toNat_eq (by rw [fieldOf_toNat, hn]; omega)
  unfold decodeWord
  rw [e0]
  rw [f_d, f_a, f_o]
  rfl

theorem RoundTrip.ldsBStr (d : Reg) (a : Reg) (o : BitVec 14) : RoundTrip.Statement (.ldsBStr d a o) := by
  intro hwf ws he; cases he
  have h_d := d.isLt; have h_a := a.isLt; have h_o := o.isLt
  show decode (bytesOf [BitVec.ofNat 32 (2147483648 + d.toNat * 1048576 + a.toNat * 16384 + o.toNat * 1)]) = .ok (_, 1)
  generalize hw : BitVec.ofNat 32 (2147483648 + d.toNat * 1048576 + a.toNat * 16384 + o.toNat * 1) = wd
  have hn : wd.toNat = 2147483648 + d.toNat * 1048576 + a.toNat * 16384 + o.toNat * 1 := by rw [← hw, BitVec.toNat_ofNat]; omega
  refine decode_scalar (by rw [fieldOf_toNat, hn]; omega) ?_
  have e0 : (fieldOf wd 26 6).toNat = 32 := by rw [fieldOf_toNat, hn]; omega
  have f_d : fieldOf wd 20 6 = d := BitVec.eq_of_toNat_eq (by rw [fieldOf_toNat, hn]; omega)
  have f_a : fieldOf wd 14 6 = a := BitVec.eq_of_toNat_eq (by rw [fieldOf_toNat, hn]; omega)
  have f_o : fieldOf wd 0 14 = o := BitVec.eq_of_toNat_eq (by rw [fieldOf_toNat, hn]; omega)
  unfold decodeWord
  rw [e0]
  rw [f_d, f_a, f_o]
  rfl

theorem RoundTrip.ldsHStr (d : Reg) (a : Reg) (o : BitVec 14) : RoundTrip.Statement (.ldsHStr d a o) := by
  intro hwf ws he; cases he
  have h_d := d.isLt; have h_a := a.isLt; have h_o := o.isLt
  show decode (bytesOf [BitVec.ofNat 32 (2214592512 + d.toNat * 1048576 + a.toNat * 16384 + o.toNat * 1)]) = .ok (_, 1)
  generalize hw : BitVec.ofNat 32 (2214592512 + d.toNat * 1048576 + a.toNat * 16384 + o.toNat * 1) = wd
  have hn : wd.toNat = 2214592512 + d.toNat * 1048576 + a.toNat * 16384 + o.toNat * 1 := by rw [← hw, BitVec.toNat_ofNat]; omega
  refine decode_scalar (by rw [fieldOf_toNat, hn]; omega) ?_
  have e0 : (fieldOf wd 26 6).toNat = 33 := by rw [fieldOf_toNat, hn]; omega
  have f_d : fieldOf wd 20 6 = d := BitVec.eq_of_toNat_eq (by rw [fieldOf_toNat, hn]; omega)
  have f_a : fieldOf wd 14 6 = a := BitVec.eq_of_toNat_eq (by rw [fieldOf_toNat, hn]; omega)
  have f_o : fieldOf wd 0 14 = o := BitVec.eq_of_toNat_eq (by rw [fieldOf_toNat, hn]; omega)
  unfold decodeWord
  rw [e0]
  rw [f_d, f_a, f_o]
  rfl

theorem RoundTrip.ldsWStr (d : Reg) (a : Reg) (o : BitVec 14) : RoundTrip.Statement (.ldsWStr d a o) := by
  intro hwf ws he; cases he
  have h_d := d.isLt; have h_a := a.isLt; have h_o := o.isLt
  show decode (bytesOf [BitVec.ofNat 32 (2281701376 + d.toNat * 1048576 + a.toNat * 16384 + o.toNat * 1)]) = .ok (_, 1)
  generalize hw : BitVec.ofNat 32 (2281701376 + d.toNat * 1048576 + a.toNat * 16384 + o.toNat * 1) = wd
  have hn : wd.toNat = 2281701376 + d.toNat * 1048576 + a.toNat * 16384 + o.toNat * 1 := by rw [← hw, BitVec.toNat_ofNat]; omega
  refine decode_scalar (by rw [fieldOf_toNat, hn]; omega) ?_
  have e0 : (fieldOf wd 26 6).toNat = 34 := by rw [fieldOf_toNat, hn]; omega
  have f_d : fieldOf wd 20 6 = d := BitVec.eq_of_toNat_eq (by rw [fieldOf_toNat, hn]; omega)
  have f_a : fieldOf wd 14 6 = a := BitVec.eq_of_toNat_eq (by rw [fieldOf_toNat, hn]; omega)
  have f_o : fieldOf wd 0 14 = o := BitVec.eq_of_toNat_eq (by rw [fieldOf_toNat, hn]; omega)
  unfold decodeWord
  rw [e0]
  rw [f_d, f_a, f_o]
  rfl

theorem RoundTrip.ldB (d : Reg) (a : Reg) (o : BitVec 14) : RoundTrip.Statement (.ldB d a o) := by
  intro hwf ws he; cases he
  have h_d := d.isLt; have h_a := a.isLt; have h_o := o.isLt
  show decode (bytesOf [BitVec.ofNat 32 (2415919104 + d.toNat * 1048576 + a.toNat * 16384 + o.toNat * 1)]) = .ok (_, 1)
  generalize hw : BitVec.ofNat 32 (2415919104 + d.toNat * 1048576 + a.toNat * 16384 + o.toNat * 1) = wd
  have hn : wd.toNat = 2415919104 + d.toNat * 1048576 + a.toNat * 16384 + o.toNat * 1 := by rw [← hw, BitVec.toNat_ofNat]; omega
  refine decode_scalar (by rw [fieldOf_toNat, hn]; omega) ?_
  have e0 : (fieldOf wd 26 6).toNat = 36 := by rw [fieldOf_toNat, hn]; omega
  have f_d : fieldOf wd 20 6 = d := BitVec.eq_of_toNat_eq (by rw [fieldOf_toNat, hn]; omega)
  have f_a : fieldOf wd 14 6 = a := BitVec.eq_of_toNat_eq (by rw [fieldOf_toNat, hn]; omega)
  have f_o : fieldOf wd 0 14 = o := BitVec.eq_of_toNat_eq (by rw [fieldOf_toNat, hn]; omega)
  unfold decodeWord
  rw [e0]
  rw [f_d, f_a, f_o]
  rfl

theorem RoundTrip.ldH (d : Reg) (a : Reg) (o : BitVec 14) : RoundTrip.Statement (.ldH d a o) := by
  intro hwf ws he; cases he
  have h_d := d.isLt; have h_a := a.isLt; have h_o := o.isLt
  show decode (bytesOf [BitVec.ofNat 32 (2483027968 + d.toNat * 1048576 + a.toNat * 16384 + o.toNat * 1)]) = .ok (_, 1)
  generalize hw : BitVec.ofNat 32 (2483027968 + d.toNat * 1048576 + a.toNat * 16384 + o.toNat * 1) = wd
  have hn : wd.toNat = 2483027968 + d.toNat * 1048576 + a.toNat * 16384 + o.toNat * 1 := by rw [← hw, BitVec.toNat_ofNat]; omega
  refine decode_scalar (by rw [fieldOf_toNat, hn]; omega) ?_
  have e0 : (fieldOf wd 26 6).toNat = 37 := by rw [fieldOf_toNat, hn]; omega
  have f_d : fieldOf wd 20 6 = d := BitVec.eq_of_toNat_eq (by rw [fieldOf_toNat, hn]; omega)
  have f_a : fieldOf wd 14 6 = a := BitVec.eq_of_toNat_eq (by rw [fieldOf_toNat, hn]; omega)
  have f_o : fieldOf wd 0 14 = o := BitVec.eq_of_toNat_eq (by rw [fieldOf_toNat, hn]; omega)
  unfold decodeWord
  rw [e0]
  rw [f_d, f_a, f_o]
  rfl

theorem RoundTrip.ldW (d : Reg) (a : Reg) (o : BitVec 14) : RoundTrip.Statement (.ldW d a o) := by
  intro hwf ws he; cases he
  have h_d := d.isLt; have h_a := a.isLt; have h_o := o.isLt
  show decode (bytesOf [BitVec.ofNat 32 (2550136832 + d.toNat * 1048576 + a.toNat * 16384 + o.toNat * 1)]) = .ok (_, 1)
  generalize hw : BitVec.ofNat 32 (2550136832 + d.toNat * 1048576 + a.toNat * 16384 + o.toNat * 1) = wd
  have hn : wd.toNat = 2550136832 + d.toNat * 1048576 + a.toNat * 16384 + o.toNat * 1 := by rw [← hw, BitVec.toNat_ofNat]; omega
  refine decode_scalar (by rw [fieldOf_toNat, hn]; omega) ?_
  have e0 : (fieldOf wd 26 6).toNat = 38 := by rw [fieldOf_toNat, hn]; omega
  have f_d : fieldOf wd 20 6 = d := BitVec.eq_of_toNat_eq (by rw [fieldOf_toNat, hn]; omega)
  have f_a : fieldOf wd 14 6 = a := BitVec.eq_of_toNat_eq (by rw [fieldOf_toNat, hn]; omega)
  have f_o : fieldOf wd 0 14 = o := BitVec.eq_of_toNat_eq (by rw [fieldOf_toNat, hn]; omega)
  unfold decodeWord
  rw [e0]
  rw [f_d, f_a, f_o]
  rfl

theorem RoundTrip.ldD (d : Reg) (a : Reg) (o : BitVec 14) : RoundTrip.Statement (.ldD d a o) := by
  intro hwf ws he; cases he
  have h_d := d.isLt; have h_a := a.isLt; have h_o := o.isLt
  show decode (bytesOf [BitVec.ofNat 32 (2617245696 + d.toNat * 1048576 + a.toNat * 16384 + o.toNat * 1)]) = .ok (_, 1)
  generalize hw : BitVec.ofNat 32 (2617245696 + d.toNat * 1048576 + a.toNat * 16384 + o.toNat * 1) = wd
  have hn : wd.toNat = 2617245696 + d.toNat * 1048576 + a.toNat * 16384 + o.toNat * 1 := by rw [← hw, BitVec.toNat_ofNat]; omega
  refine decode_scalar (by rw [fieldOf_toNat, hn]; omega) ?_
  have e0 : (fieldOf wd 26 6).toNat = 39 := by rw [fieldOf_toNat, hn]; omega
  have f_d : fieldOf wd 20 6 = d := BitVec.eq_of_toNat_eq (by rw [fieldOf_toNat, hn]; omega)
  have f_a : fieldOf wd 14 6 = a := BitVec.eq_of_toNat_eq (by rw [fieldOf_toNat, hn]; omega)
  have f_o : fieldOf wd 0 14 = o := BitVec.eq_of_toNat_eq (by rw [fieldOf_toNat, hn]; omega)
  unfold decodeWord
  rw [e0]
  rw [f_d, f_a, f_o]
  rfl

theorem RoundTrip.ldBByp (d : Reg) (a : Reg) (o : BitVec 14) : RoundTrip.Statement (.ldBByp d a o) := by
  intro hwf ws he; cases he
  have h_d := d.isLt; have h_a := a.isLt; have h_o := o.isLt
  show decode (bytesOf [BitVec.ofNat 32 (2684354560 + d.toNat * 1048576 + a.toNat * 16384 + o.toNat * 1)]) = .ok (_, 1)
  generalize hw : BitVec.ofNat 32 (2684354560 + d.toNat * 1048576 + a.toNat * 16384 + o.toNat * 1) = wd
  have hn : wd.toNat = 2684354560 + d.toNat * 1048576 + a.toNat * 16384 + o.toNat * 1 := by rw [← hw, BitVec.toNat_ofNat]; omega
  refine decode_scalar (by rw [fieldOf_toNat, hn]; omega) ?_
  have e0 : (fieldOf wd 26 6).toNat = 40 := by rw [fieldOf_toNat, hn]; omega
  have f_d : fieldOf wd 20 6 = d := BitVec.eq_of_toNat_eq (by rw [fieldOf_toNat, hn]; omega)
  have f_a : fieldOf wd 14 6 = a := BitVec.eq_of_toNat_eq (by rw [fieldOf_toNat, hn]; omega)
  have f_o : fieldOf wd 0 14 = o := BitVec.eq_of_toNat_eq (by rw [fieldOf_toNat, hn]; omega)
  unfold decodeWord
  rw [e0]
  rw [f_d, f_a, f_o]
  rfl

theorem RoundTrip.ldHByp (d : Reg) (a : Reg) (o : BitVec 14) : RoundTrip.Statement (.ldHByp d a o) := by
  intro hwf ws he; cases he
  have h_d := d.isLt; have h_a := a.isLt; have h_o := o.isLt
  show decode (bytesOf [BitVec.ofNat 32 (2751463424 + d.toNat * 1048576 + a.toNat * 16384 + o.toNat * 1)]) = .ok (_, 1)
  generalize hw : BitVec.ofNat 32 (2751463424 + d.toNat * 1048576 + a.toNat * 16384 + o.toNat * 1) = wd
  have hn : wd.toNat = 2751463424 + d.toNat * 1048576 + a.toNat * 16384 + o.toNat * 1 := by rw [← hw, BitVec.toNat_ofNat]; omega
  refine decode_scalar (by rw [fieldOf_toNat, hn]; omega) ?_
  have e0 : (fieldOf wd 26 6).toNat = 41 := by rw [fieldOf_toNat, hn]; omega
  have f_d : fieldOf wd 20 6 = d := BitVec.eq_of_toNat_eq (by rw [fieldOf_toNat, hn]; omega)
  have f_a : fieldOf wd 14 6 = a := BitVec.eq_of_toNat_eq (by rw [fieldOf_toNat, hn]; omega)
  have f_o : fieldOf wd 0 14 = o := BitVec.eq_of_toNat_eq (by rw [fieldOf_toNat, hn]; omega)
  unfold decodeWord
  rw [e0]
  rw [f_d, f_a, f_o]
  rfl

theorem RoundTrip.ldWByp (d : Reg) (a : Reg) (o : BitVec 14) : RoundTrip.Statement (.ldWByp d a o) := by
  intro hwf ws he; cases he
  have h_d := d.isLt; have h_a := a.isLt; have h_o := o.isLt
  show decode (bytesOf [BitVec.ofNat 32 (2818572288 + d.toNat * 1048576 + a.toNat * 16384 + o.toNat * 1)]) = .ok (_, 1)
  generalize hw : BitVec.ofNat 32 (2818572288 + d.toNat * 1048576 + a.toNat * 16384 + o.toNat * 1) = wd
  have hn : wd.toNat = 2818572288 + d.toNat * 1048576 + a.toNat * 16384 + o.toNat * 1 := by rw [← hw, BitVec.toNat_ofNat]; omega
  refine decode_scalar (by rw [fieldOf_toNat, hn]; omega) ?_
  have e0 : (fieldOf wd 26 6).toNat = 42 := by rw [fieldOf_toNat, hn]; omega
  have f_d : fieldOf wd 20 6 = d := BitVec.eq_of_toNat_eq (by rw [fieldOf_toNat, hn]; omega)
  have f_a : fieldOf wd 14 6 = a := BitVec.eq_of_toNat_eq (by rw [fieldOf_toNat, hn]; omega)
  have f_o : fieldOf wd 0 14 = o := BitVec.eq_of_toNat_eq (by rw [fieldOf_toNat, hn]; omega)
  unfold decodeWord
  rw [e0]
  rw [f_d, f_a, f_o]
  rfl

theorem RoundTrip.ldDByp (d : Reg) (a : Reg) (o : BitVec 14) : RoundTrip.Statement (.ldDByp d a o) := by
  intro hwf ws he; cases he
  have h_d := d.isLt; have h_a := a.isLt; have h_o := o.isLt
  show decode (bytesOf [BitVec.ofNat 32 (2885681152 + d.toNat * 1048576 + a.toNat * 16384 + o.toNat * 1)]) = .ok (_, 1)
  generalize hw : BitVec.ofNat 32 (2885681152 + d.toNat * 1048576 + a.toNat * 16384 + o.toNat * 1) = wd
  have hn : wd.toNat = 2885681152 + d.toNat * 1048576 + a.toNat * 16384 + o.toNat * 1 := by rw [← hw, BitVec.toNat_ofNat]; omega
  refine decode_scalar (by rw [fieldOf_toNat, hn]; omega) ?_
  have e0 : (fieldOf wd 26 6).toNat = 43 := by rw [fieldOf_toNat, hn]; omega
  have f_d : fieldOf wd 20 6 = d := BitVec.eq_of_toNat_eq (by rw [fieldOf_toNat, hn]; omega)
  have f_a : fieldOf wd 14 6 = a := BitVec.eq_of_toNat_eq (by rw [fieldOf_toNat, hn]; omega)
  have f_o : fieldOf wd 0 14 = o := BitVec.eq_of_toNat_eq (by rw [fieldOf_toNat, hn]; omega)
  unfold decodeWord
  rw [e0]
  rw [f_d, f_a, f_o]
  rfl

theorem RoundTrip.ldBStr (d : Reg) (a : Reg) (o : BitVec 14) : RoundTrip.Statement (.ldBStr d a o) := by
  intro hwf ws he; cases he
  have h_d := d.isLt; have h_a := a.isLt; have h_o := o.isLt
  show decode (bytesOf [BitVec.ofNat 32 (2952790016 + d.toNat * 1048576 + a.toNat * 16384 + o.toNat * 1)]) = .ok (_, 1)
  generalize hw : BitVec.ofNat 32 (2952790016 + d.toNat * 1048576 + a.toNat * 16384 + o.toNat * 1) = wd
  have hn : wd.toNat = 2952790016 + d.toNat * 1048576 + a.toNat * 16384 + o.toNat * 1 := by rw [← hw, BitVec.toNat_ofNat]; omega
  refine decode_scalar (by rw [fieldOf_toNat, hn]; omega) ?_
  have e0 : (fieldOf wd 26 6).toNat = 44 := by rw [fieldOf_toNat, hn]; omega
  have f_d : fieldOf wd 20 6 = d := BitVec.eq_of_toNat_eq (by rw [fieldOf_toNat, hn]; omega)
  have f_a : fieldOf wd 14 6 = a := BitVec.eq_of_toNat_eq (by rw [fieldOf_toNat, hn]; omega)
  have f_o : fieldOf wd 0 14 = o := BitVec.eq_of_toNat_eq (by rw [fieldOf_toNat, hn]; omega)
  unfold decodeWord
  rw [e0]
  rw [f_d, f_a, f_o]
  rfl

theorem RoundTrip.ldHStr (d : Reg) (a : Reg) (o : BitVec 14) : RoundTrip.Statement (.ldHStr d a o) := by
  intro hwf ws he; cases he
  have h_d := d.isLt; have h_a := a.isLt; have h_o := o.isLt
  show decode (bytesOf [BitVec.ofNat 32 (3019898880 + d.toNat * 1048576 + a.toNat * 16384 + o.toNat * 1)]) = .ok (_, 1)
  generalize hw : BitVec.ofNat 32 (3019898880 + d.toNat * 1048576 + a.toNat * 16384 + o.toNat * 1) = wd
  have hn : wd.toNat = 3019898880 + d.toNat * 1048576 + a.toNat * 16384 + o.toNat * 1 := by rw [← hw, BitVec.toNat_ofNat]; omega
  refine decode_scalar (by rw [fieldOf_toNat, hn]; omega) ?_
  have e0 : (fieldOf wd 26 6).toNat = 45 := by rw [fieldOf_toNat, hn]; omega
  have f_d : fieldOf wd 20 6 = d := BitVec.eq_of_toNat_eq (by rw [fieldOf_toNat, hn]; omega)
  have f_a : fieldOf wd 14 6 = a := BitVec.eq_of_toNat_eq (by rw [fieldOf_toNat, hn]; omega)
  have f_o : fieldOf wd 0 14 = o := BitVec.eq_of_toNat_eq (by rw [fieldOf_toNat, hn]; omega)
  unfold decodeWord
  rw [e0]
  rw [f_d, f_a, f_o]
  rfl

theorem RoundTrip.ldWStr (d : Reg) (a : Reg) (o : BitVec 14) : RoundTrip.Statement (.ldWStr d a o) := by
  intro hwf ws he; cases he
  have h_d := d.isLt; have h_a := a.isLt; have h_o := o.isLt
  show decode (bytesOf [BitVec.ofNat 32 (3087007744 + d.toNat * 1048576 + a.toNat * 16384 + o.toNat * 1)]) = .ok (_, 1)
  generalize hw : BitVec.ofNat 32 (3087007744 + d.toNat * 1048576 + a.toNat * 16384 + o.toNat * 1) = wd
  have hn : wd.toNat = 3087007744 + d.toNat * 1048576 + a.toNat * 16384 + o.toNat * 1 := by rw [← hw, BitVec.toNat_ofNat]; omega
  refine decode_scalar (by rw [fieldOf_toNat, hn]; omega) ?_
  have e0 : (fieldOf wd 26 6).toNat = 46 := by rw [fieldOf_toNat, hn]; omega
  have f_d : fieldOf wd 20 6 = d := BitVec.eq_of_toNat_eq (by rw [fieldOf_toNat, hn]; omega)
  have f_a : fieldOf wd 14 6 = a := BitVec.eq_of_toNat_eq (by rw [fieldOf_toNat, hn]; omega)
  have f_o : fieldOf wd 0 14 = o := BitVec.eq_of_toNat_eq (by rw [fieldOf_toNat, hn]; omega)
  unfold decodeWord
  rw [e0]
  rw [f_d, f_a, f_o]
  rfl

theorem RoundTrip.ldDStr (d : Reg) (a : Reg) (o : BitVec 14) : RoundTrip.Statement (.ldDStr d a o) := by
  intro hwf ws he; cases he
  have h_d := d.isLt; have h_a := a.isLt; have h_o := o.isLt
  show decode (bytesOf [BitVec.ofNat 32 (3154116608 + d.toNat * 1048576 + a.toNat * 16384 + o.toNat * 1)]) = .ok (_, 1)
  generalize hw : BitVec.ofNat 32 (3154116608 + d.toNat * 1048576 + a.toNat * 16384 + o.toNat * 1) = wd
  have hn : wd.toNat = 3154116608 + d.toNat * 1048576 + a.toNat * 16384 + o.toNat * 1 := by rw [← hw, BitVec.toNat_ofNat]; omega
  refine decode_scalar (by rw [fieldOf_toNat, hn]; omega) ?_
  have e0 : (fieldOf wd 26 6).toNat = 47 := by rw [fieldOf_toNat, hn]; omega
  have f_d : fieldOf wd 20 6 = d := BitVec.eq_of_toNat_eq (by rw [fieldOf_toNat, hn]; omega)
  have f_a : fieldOf wd 14 6 = a := BitVec.eq_of_toNat_eq (by rw [fieldOf_toNat, hn]; omega)
  have f_o : fieldOf wd 0 14 = o := BitVec.eq_of_toNat_eq (by rw [fieldOf_toNat, hn]; omega)
  unfold decodeWord
  rw [e0]
  rw [f_d, f_a, f_o]
  rfl

theorem RoundTrip.stB (s : Reg) (a : Reg) (o : BitVec 14) : RoundTrip.Statement (.stB s a o) := by
  intro hwf ws he; cases he
  have h_s := s.isLt; have h_a := a.isLt; have h_o := o.isLt
  show decode (bytesOf [BitVec.ofNat 32 (3221225472 + s.toNat * 1048576 + a.toNat * 16384 + o.toNat * 1)]) = .ok (_, 1)
  generalize hw : BitVec.ofNat 32 (3221225472 + s.toNat * 1048576 + a.toNat * 16384 + o.toNat * 1) = wd
  have hn : wd.toNat = 3221225472 + s.toNat * 1048576 + a.toNat * 16384 + o.toNat * 1 := by rw [← hw, BitVec.toNat_ofNat]; omega
  refine decode_scalar (by rw [fieldOf_toNat, hn]; omega) ?_
  have e0 : (fieldOf wd 26 6).toNat = 48 := by rw [fieldOf_toNat, hn]; omega
  have f_s : fieldOf wd 20 6 = s := BitVec.eq_of_toNat_eq (by rw [fieldOf_toNat, hn]; omega)
  have f_a : fieldOf wd 14 6 = a := BitVec.eq_of_toNat_eq (by rw [fieldOf_toNat, hn]; omega)
  have f_o : fieldOf wd 0 14 = o := BitVec.eq_of_toNat_eq (by rw [fieldOf_toNat, hn]; omega)
  unfold decodeWord
  rw [e0]
  rw [f_s, f_a, f_o]
  rfl

theorem RoundTrip.stH (s : Reg) (a : Reg) (o : BitVec 14) : RoundTrip.Statement (.stH s a o) := by
  intro hwf ws he; cases he
  have h_s := s.isLt; have h_a := a.isLt; have h_o := o.isLt
  show decode (bytesOf [BitVec.ofNat 32 (3288334336 + s.toNat * 1048576 + a.toNat * 16384 + o.toNat * 1)]) = .ok (_, 1)
  generalize hw : BitVec.ofNat 32 (3288334336 + s.toNat * 1048576 + a.toNat * 16384 + o.toNat * 1) = wd
  have hn : wd.toNat = 3288334336 + s.toNat * 1048576 + a.toNat * 16384 + o.toNat * 1 := by rw [← hw, BitVec.toNat_ofNat]; omega
  refine decode_scalar (by rw [fieldOf_toNat, hn]; omega) ?_
  have e0 : (fieldOf wd 26 6).toNat = 49 := by rw [fieldOf_toNat, hn]; omega
  have f_s : fieldOf wd 20 6 = s := BitVec.eq_of_toNat_eq (by rw [fieldOf_toNat, hn]; omega)
  have f_a : fieldOf wd 14 6 = a := BitVec.eq_of_toNat_eq (by rw [fieldOf_toNat, hn]; omega)
  have f_o : fieldOf wd 0 14 = o := BitVec.eq_of_toNat_eq (by rw [fieldOf_toNat, hn]; omega)
  unfold decodeWord
  rw [e0]
  rw [f_s, f_a, f_o]
  rfl

theorem RoundTrip.stW (s : Reg) (a : Reg) (o : BitVec 14) : RoundTrip.Statement (.stW s a o) := by
  intro hwf ws he; cases he
  have h_s := s.isLt; have h_a := a.isLt; have h_o := o.isLt
  show decode (bytesOf [BitVec.ofNat 32 (3355443200 + s.toNat * 1048576 + a.toNat * 16384 + o.toNat * 1)]) = .ok (_, 1)
  generalize hw : BitVec.ofNat 32 (3355443200 + s.toNat * 1048576 + a.toNat * 16384 + o.toNat * 1) = wd
  have hn : wd.toNat = 3355443200 + s.toNat * 1048576 + a.toNat * 16384 + o.toNat * 1 := by rw [← hw, BitVec.toNat_ofNat]; omega
  refine decode_scalar (by rw [fieldOf_toNat, hn]; omega) ?_
  have e0 : (fieldOf wd 26 6).toNat = 50 := by rw [fieldOf_toNat, hn]; omega
  have f_s : fieldOf wd 20 6 = s := BitVec.eq_of_toNat_eq (by rw [fieldOf_toNat, hn]; omega)
  have f_a : fieldOf wd 14 6 = a := BitVec.eq_of_toNat_eq (by rw [fieldOf_toNat, hn]; omega)
  have f_o : fieldOf wd 0 14 = o := BitVec.eq_of_toNat_eq (by rw [fieldOf_toNat, hn]; omega)
  unfold decodeWord
  rw [e0]
  rw [f_s, f_a, f_o]
  rfl

theorem RoundTrip.stD (s : Reg) (a : Reg) (o : BitVec 14) : RoundTrip.Statement (.stD s a o) := by
  intro hwf ws he; cases he
  have h_s := s.isLt; have h_a := a.isLt; have h_o := o.isLt
  show decode (bytesOf [BitVec.ofNat 32 (3422552064 + s.toNat * 1048576 + a.toNat * 16384 + o.toNat * 1)]) = .ok (_, 1)
  generalize hw : BitVec.ofNat 32 (3422552064 + s.toNat * 1048576 + a.toNat * 16384 + o.toNat * 1) = wd
  have hn : wd.toNat = 3422552064 + s.toNat * 1048576 + a.toNat * 16384 + o.toNat * 1 := by rw [← hw, BitVec.toNat_ofNat]; omega
  refine decode_scalar (by rw [fieldOf_toNat, hn]; omega) ?_
  have e0 : (fieldOf wd 26 6).toNat = 51 := by rw [fieldOf_toNat, hn]; omega
  have f_s : fieldOf wd 20 6 = s := BitVec.eq_of_toNat_eq (by rw [fieldOf_toNat, hn]; omega)
  have f_a : fieldOf wd 14 6 = a := BitVec.eq_of_toNat_eq (by rw [fieldOf_toNat, hn]; omega)
  have f_o : fieldOf wd 0 14 = o := BitVec.eq_of_toNat_eq (by rw [fieldOf_toNat, hn]; omega)
  unfold decodeWord
  rw [e0]
  rw [f_s, f_a, f_o]
  rfl

theorem RoundTrip.stBByp (s : Reg) (a : Reg) (o : BitVec 14) : RoundTrip.Statement (.stBByp s a o) := by
  intro hwf ws he; cases he
  have h_s := s.isLt; have h_a := a.isLt; have h_o := o.isLt
  show decode (bytesOf [BitVec.ofNat 32 (3489660928 + s.toNat * 1048576 + a.toNat * 16384 + o.toNat * 1)]) = .ok (_, 1)
  generalize hw : BitVec.ofNat 32 (3489660928 + s.toNat * 1048576 + a.toNat * 16384 + o.toNat * 1) = wd
  have hn : wd.toNat = 3489660928 + s.toNat * 1048576 + a.toNat * 16384 + o.toNat * 1 := by rw [← hw, BitVec.toNat_ofNat]; omega
  refine decode_scalar (by rw [fieldOf_toNat, hn]; omega) ?_
  have e0 : (fieldOf wd 26 6).toNat = 52 := by rw [fieldOf_toNat, hn]; omega
  have f_s : fieldOf wd 20 6 = s := BitVec.eq_of_toNat_eq (by rw [fieldOf_toNat, hn]; omega)
  have f_a : fieldOf wd 14 6 = a := BitVec.eq_of_toNat_eq (by rw [fieldOf_toNat, hn]; omega)
  have f_o : fieldOf wd 0 14 = o := BitVec.eq_of_toNat_eq (by rw [fieldOf_toNat, hn]; omega)
  unfold decodeWord
  rw [e0]
  rw [f_s, f_a, f_o]
  rfl

theorem RoundTrip.stHByp (s : Reg) (a : Reg) (o : BitVec 14) : RoundTrip.Statement (.stHByp s a o) := by
  intro hwf ws he; cases he
  have h_s := s.isLt; have h_a := a.isLt; have h_o := o.isLt
  show decode (bytesOf [BitVec.ofNat 32 (3556769792 + s.toNat * 1048576 + a.toNat * 16384 + o.toNat * 1)]) = .ok (_, 1)
  generalize hw : BitVec.ofNat 32 (3556769792 + s.toNat * 1048576 + a.toNat * 16384 + o.toNat * 1) = wd
  have hn : wd.toNat = 3556769792 + s.toNat * 1048576 + a.toNat * 16384 + o.toNat * 1 := by rw [← hw, BitVec.toNat_ofNat]; omega
  refine decode_scalar (by rw [fieldOf_toNat, hn]; omega) ?_
  have e0 : (fieldOf wd 26 6).toNat = 53 := by rw [fieldOf_toNat, hn]; omega
  have f_s : fieldOf wd 20 6 = s := BitVec.eq_of_toNat_eq (by rw [fieldOf_toNat, hn]; omega)
  have f_a : fieldOf wd 14 6 = a := BitVec.eq_of_toNat_eq (by rw [fieldOf_toNat, hn]; omega)
  have f_o : fieldOf wd 0 14 = o := BitVec.eq_of_toNat_eq (by rw [fieldOf_toNat, hn]; omega)
  unfold decodeWord
  rw [e0]
  rw [f_s, f_a, f_o]
  rfl

theorem RoundTrip.stWByp (s : Reg) (a : Reg) (o : BitVec 14) : RoundTrip.Statement (.stWByp s a o) := by
  intro hwf ws he; cases he
  have h_s := s.isLt; have h_a := a.isLt; have h_o := o.isLt
  show decode (bytesOf [BitVec.ofNat 32 (3623878656 + s.toNat * 1048576 + a.toNat * 16384 + o.toNat * 1)]) = .ok (_, 1)
  generalize hw : BitVec.ofNat 32 (3623878656 + s.toNat * 1048576 + a.toNat * 16384 + o.toNat * 1) = wd
  have hn : wd.toNat = 3623878656 + s.toNat * 1048576 + a.toNat * 16384 + o.toNat * 1 := by rw [← hw, BitVec.toNat_ofNat]; omega
  refine decode_scalar (by rw [fieldOf_toNat, hn]; omega) ?_
  have e0 : (fieldOf wd 26 6).toNat = 54 := by rw [fieldOf_toNat, hn]; omega
  have f_s : fieldOf wd 20 6 = s := BitVec.eq_of_toNat_eq (by rw [fieldOf_toNat, hn]; omega)
  have f_a : fieldOf wd 14 6 = a := BitVec.eq_of_toNat_eq (by rw [fieldOf_toNat, hn]; omega)
  have f_o : fieldOf wd 0 14 = o := BitVec.eq_of_toNat_eq (by rw [fieldOf_toNat, hn]; omega)
  unfold decodeWord
  rw [e0]
  rw [f_s, f_a, f_o]
  rfl

theorem RoundTrip.stDByp (s : Reg) (a : Reg) (o : BitVec 14) : RoundTrip.Statement (.stDByp s a o) := by
  intro hwf ws he; cases he
  have h_s := s.isLt; have h_a := a.isLt; have h_o := o.isLt
  show decode (bytesOf [BitVec.ofNat 32 (3690987520 + s.toNat * 1048576 + a.toNat * 16384 + o.toNat * 1)]) = .ok (_, 1)
  generalize hw : BitVec.ofNat 32 (3690987520 + s.toNat * 1048576 + a.toNat * 16384 + o.toNat * 1) = wd
  have hn : wd.toNat = 3690987520 + s.toNat * 1048576 + a.toNat * 16384 + o.toNat * 1 := by rw [← hw, BitVec.toNat_ofNat]; omega
  refine decode_scalar (by rw [fieldOf_toNat, hn]; omega) ?_
  have e0 : (fieldOf wd 26 6).toNat = 55 := by rw [fieldOf_toNat, hn]; omega
  have f_s : fieldOf wd 20 6 = s := BitVec.eq_of_toNat_eq (by rw [fieldOf_toNat, hn]; omega)
  have f_a : fieldOf wd 14 6 = a := BitVec.eq_of_toNat_eq (by rw [fieldOf_toNat, hn]; omega)
  have f_o : fieldOf wd 0 14 = o := BitVec.eq_of_toNat_eq (by rw [fieldOf_toNat, hn]; omega)
  unfold decodeWord
  rw [e0]
  rw [f_s, f_a, f_o]
  rfl

theorem RoundTrip.stBStr (s : Reg) (a : Reg) (o : BitVec 14) : RoundTrip.Statement (.stBStr s a o) := by
  intro hwf ws he; cases he
  have h_s := s.isLt; have h_a := a.isLt; have h_o := o.isLt
  show decode (bytesOf [BitVec.ofNat 32 (3758096384 + s.toNat * 1048576 + a.toNat * 16384 + o.toNat * 1)]) = .ok (_, 1)
  generalize hw : BitVec.ofNat 32 (3758096384 + s.toNat * 1048576 + a.toNat * 16384 + o.toNat * 1) = wd
  have hn : wd.toNat = 3758096384 + s.toNat * 1048576 + a.toNat * 16384 + o.toNat * 1 := by rw [← hw, BitVec.toNat_ofNat]; omega
  refine decode_scalar (by rw [fieldOf_toNat, hn]; omega) ?_
  have e0 : (fieldOf wd 26 6).toNat = 56 := by rw [fieldOf_toNat, hn]; omega
  have f_s : fieldOf wd 20 6 = s := BitVec.eq_of_toNat_eq (by rw [fieldOf_toNat, hn]; omega)
  have f_a : fieldOf wd 14 6 = a := BitVec.eq_of_toNat_eq (by rw [fieldOf_toNat, hn]; omega)
  have f_o : fieldOf wd 0 14 = o := BitVec.eq_of_toNat_eq (by rw [fieldOf_toNat, hn]; omega)
  unfold decodeWord
  rw [e0]
  rw [f_s, f_a, f_o]
  rfl

theorem RoundTrip.stHStr (s : Reg) (a : Reg) (o : BitVec 14) : RoundTrip.Statement (.stHStr s a o) := by
  intro hwf ws he; cases he
  have h_s := s.isLt; have h_a := a.isLt; have h_o := o.isLt
  show decode (bytesOf [BitVec.ofNat 32 (3825205248 + s.toNat * 1048576 + a.toNat * 16384 + o.toNat * 1)]) = .ok (_, 1)
  generalize hw : BitVec.ofNat 32 (3825205248 + s.toNat * 1048576 + a.toNat * 16384 + o.toNat * 1) = wd
  have hn : wd.toNat = 3825205248 + s.toNat * 1048576 + a.toNat * 16384 + o.toNat * 1 := by rw [← hw, BitVec.toNat_ofNat]; omega
  refine decode_scalar (by rw [fieldOf_toNat, hn]; omega) ?_
  have e0 : (fieldOf wd 26 6).toNat = 57 := by rw [fieldOf_toNat, hn]; omega
  have f_s : fieldOf wd 20 6 = s := BitVec.eq_of_toNat_eq (by rw [fieldOf_toNat, hn]; omega)
  have f_a : fieldOf wd 14 6 = a := BitVec.eq_of_toNat_eq (by rw [fieldOf_toNat, hn]; omega)
  have f_o : fieldOf wd 0 14 = o := BitVec.eq_of_toNat_eq (by rw [fieldOf_toNat, hn]; omega)
  unfold decodeWord
  rw [e0]
  rw [f_s, f_a, f_o]
  rfl

theorem RoundTrip.stWStr (s : Reg) (a : Reg) (o : BitVec 14) : RoundTrip.Statement (.stWStr s a o) := by
  intro hwf ws he; cases he
  have h_s := s.isLt; have h_a := a.isLt; have h_o := o.isLt
  show decode (bytesOf [BitVec.ofNat 32 (3892314112 + s.toNat * 1048576 + a.toNat * 16384 + o.toNat * 1)]) = .ok (_, 1)
  generalize hw : BitVec.ofNat 32 (3892314112 + s.toNat * 1048576 + a.toNat * 16384 + o.toNat * 1) = wd
  have hn : wd.toNat = 3892314112 + s.toNat * 1048576 + a.toNat * 16384 + o.toNat * 1 := by rw [← hw, BitVec.toNat_ofNat]; omega
  refine decode_scalar (by rw [fieldOf_toNat, hn]; omega) ?_
  have e0 : (fieldOf wd 26 6).toNat = 58 := by rw [fieldOf_toNat, hn]; omega
  have f_s : fieldOf wd 20 6 = s := BitVec.eq_of_toNat_eq (by rw [fieldOf_toNat, hn]; omega)
  have f_a : fieldOf wd 14 6 = a := BitVec.eq_of_toNat_eq (by rw [fieldOf_toNat, hn]; omega)
  have f_o : fieldOf wd 0 14 = o := BitVec.eq_of_toNat_eq (by rw [fieldOf_toNat, hn]; omega)
  unfold decodeWord
  rw [e0]
  rw [f_s, f_a, f_o]
  rfl

theorem RoundTrip.stDStr (s : Reg) (a : Reg) (o : BitVec 14) : RoundTrip.Statement (.stDStr s a o) := by
  intro hwf ws he; cases he
  have h_s := s.isLt; have h_a := a.isLt; have h_o := o.isLt
  show decode (bytesOf [BitVec.ofNat 32 (3959422976 + s.toNat * 1048576 + a.toNat * 16384 + o.toNat * 1)]) = .ok (_, 1)
  generalize hw : BitVec.ofNat 32 (3959422976 + s.toNat * 1048576 + a.toNat * 16384 + o.toNat * 1) = wd
  have hn : wd.toNat = 3959422976 + s.toNat * 1048576 + a.toNat * 16384 + o.toNat * 1 := by rw [← hw, BitVec.toNat_ofNat]; omega
  refine decode_scalar (by rw [fieldOf_toNat, hn]; omega) ?_
  have e0 : (fieldOf wd 26 6).toNat = 59 := by rw [fieldOf_toNat, hn]; omega
  have f_s : fieldOf wd 20 6 = s := BitVec.eq_of_toNat_eq (by rw [fieldOf_toNat, hn]; omega)
  have f_a : fieldOf wd 14 6 = a := BitVec.eq_of_toNat_eq (by rw [fieldOf_toNat, hn]; omega)
  have f_o : fieldOf wd 0 14 = o := BitVec.eq_of_toNat_eq (by rw [fieldOf_toNat, hn]; omega)
  unfold decodeWord
  rw [e0]
  rw [f_s, f_a, f_o]
  rfl

theorem RoundTrip.scalarAccessComplete (core : Nat) (acc : Nat) : RoundTrip.Statement (.scalarAccessComplete core acc) := by
  intro _ _ he; cases he

theorem RoundTrip.pldDeferredComplete (slot : Nat) : RoundTrip.Statement (.pldDeferredComplete slot) := by
  intro _ _ he; cases he

theorem RoundTrip.pldReissue (core : Nat) (acc : Nat) : RoundTrip.Statement (.pldReissue core acc) := by
  intro _ _ he; cases he

theorem RoundTrip.cfgLoad (w : CmdWords) : RoundTrip.Statement (.cfgLoad w) := by
  intro hwf ws he
  replace hwf : (w.admitted 0x00) = true := hwf
  cases he
  exact decode_cmd 0 w _ (by decide) rfl hwf

theorem RoundTrip.cfgPatch (w : CmdWords) : RoundTrip.Statement (.cfgPatch w) := by
  intro hwf ws he
  replace hwf : (w.admitted 0x01) = true := hwf
  cases he
  exact decode_cmd 1 w _ (by decide) rfl hwf

theorem RoundTrip.cfgReconf (w : CmdWords) : RoundTrip.Statement (.cfgReconf w) := by
  intro hwf ws he
  replace hwf : (w.admitted 0x02) = true := hwf
  cases he
  exact decode_cmd 2 w _ (by decide) rfl hwf

theorem RoundTrip.cfgIter (w : CmdWords) : RoundTrip.Statement (.cfgIter w) := by
  intro hwf ws he
  replace hwf : (w.admitted 0x03) = true := hwf
  cases he
  exact decode_cmd 3 w _ (by decide) rfl hwf

theorem RoundTrip.pace (w : CmdWords) : RoundTrip.Statement (.pace w) := by
  intro hwf ws he
  replace hwf : (w.admitted 0x04) = true := hwf
  cases he
  exact decode_cmd 4 w _ (by decide) rfl hwf

theorem RoundTrip.portBind (w : CmdWords) : RoundTrip.Statement (.portBind w) := by
  intro hwf ws he
  replace hwf : (w.admitted 0x10) = true := hwf
  cases he
  exact decode_cmd 16 w _ (by decide) rfl hwf

theorem RoundTrip.portFeed (w : CmdWords) : RoundTrip.Statement (.portFeed w) := by
  intro hwf ws he
  replace hwf : (w.admitted 0x11) = true := hwf
  cases he
  exact decode_cmd 17 w _ (by decide) rfl hwf

theorem RoundTrip.portTake (w : CmdWords) : RoundTrip.Statement (.portTake w) := by
  intro hwf ws he
  replace hwf : (w.admitted 0x12) = true := hwf
  cases he
  exact decode_cmd 18 w _ (by decide) rfl hwf

theorem RoundTrip.batch (w : CmdWords) : RoundTrip.Statement (.batch w) := by
  intro hwf ws he
  replace hwf : (w.admitted 0x20) = true := hwf
  cases he
  exact decode_cmd 32 w _ (by decide) rfl hwf

theorem RoundTrip.hurdleArriveWait (w : CmdWords) : RoundTrip.Statement (.hurdleArriveWait w) := by
  intro hwf ws he
  replace hwf : (w.admitted 0x21 && (decide (w.hurdleAct ≠ 1) && decide (w.hurdleAct ≠ 2))) = true := hwf
  simp only [Bool.and_eq_true, decide_eq_true_eq] at hwf
  cases he
  exact decode_cmd 33 w _ (by decide) (by simp [cmdInstr, hwf.2]) hwf.1

theorem RoundTrip.hurdleArrive (w : CmdWords) : RoundTrip.Statement (.hurdleArrive w) := by
  intro hwf ws he
  replace hwf : (w.admitted 0x21 && decide (w.hurdleAct = 1)) = true := hwf
  simp only [Bool.and_eq_true, decide_eq_true_eq] at hwf
  cases he
  exact decode_cmd 33 w _ (by decide) (by simp [cmdInstr, hwf.2]) hwf.1

theorem RoundTrip.hurdleWait (w : CmdWords) : RoundTrip.Statement (.hurdleWait w) := by
  intro hwf ws he
  replace hwf : (w.admitted 0x21 && decide (w.hurdleAct = 2)) = true := hwf
  simp only [Bool.and_eq_true, decide_eq_true_eq] at hwf
  cases he
  exact decode_cmd 33 w _ (by decide) (by simp [cmdInstr, hwf.2]) hwf.1

theorem RoundTrip.copy (w : CmdWords) : RoundTrip.Statement (.copy w) := by
  intro hwf ws he
  replace hwf : (w.admitted 0x30 && (decide (w.mode ≠ 1#2) && decide (w.mode ≠ 2#2))) = true := hwf
  simp only [Bool.and_eq_true, decide_eq_true_eq] at hwf
  cases he
  exact decode_cmd 48 w _ (by decide) (by simp [cmdInstr, hwf.2]) hwf.1

theorem RoundTrip.copyFill (w : CmdWords) : RoundTrip.Statement (.copyFill w) := by
  intro hwf ws he
  replace hwf : (w.admitted 0x30 && decide (w.mode = 1#2)) = true := hwf
  simp only [Bool.and_eq_true, decide_eq_true_eq] at hwf
  cases he
  exact decode_cmd 48 w _ (by decide) (by simp [cmdInstr, hwf.2]) hwf.1

theorem RoundTrip.copyWfill (w : CmdWords) : RoundTrip.Statement (.copyWfill w) := by
  intro hwf ws he
  replace hwf : (w.admitted 0x30 && decide (w.mode = 2#2)) = true := hwf
  simp only [Bool.and_eq_true, decide_eq_true_eq] at hwf
  cases he
  exact decode_cmd 48 w _ (by decide) (by simp [cmdInstr, hwf.2]) hwf.1

theorem RoundTrip.copyMc (w : CmdWords) : RoundTrip.Statement (.copyMc w) := by
  intro hwf ws he
  replace hwf : (w.admitted 0x31) = true := hwf
  cases he
  exact decode_cmd 49 w _ (by decide) rfl hwf

theorem RoundTrip.copyDem (w : CmdWords) : RoundTrip.Statement (.copyDem w) := by
  intro hwf ws he
  replace hwf : (w.admitted 0x32) = true := hwf
  cases he
  exact decode_cmd 50 w _ (by decide) rfl hwf

theorem RoundTrip.copyIndGather (w : CmdWords) : RoundTrip.Statement (.copyIndGather w) := by
  intro hwf ws he
  replace hwf : (w.admitted 0x33 && !w.indScatter) = true := hwf
  simp only [Bool.and_eq_true, Bool.not_eq_true', ] at hwf
  cases he
  exact decode_cmd 51 w _ (by decide) (by simp [cmdInstr, hwf.2]) hwf.1

theorem RoundTrip.copyIndScatter (w : CmdWords) : RoundTrip.Statement (.copyIndScatter w) := by
  intro hwf ws he
  replace hwf : (w.admitted 0x33 && w.indScatter) = true := hwf
  simp only [Bool.and_eq_true, ] at hwf
  cases he
  exact decode_cmd 51 w _ (by decide) (by simp [cmdInstr, hwf.2]) hwf.1

theorem RoundTrip.mm (w : CmdWords) : RoundTrip.Statement (.mm w) := by
  intro hwf ws he
  replace hwf : (w.admitted 0x40) = true := hwf
  cases he
  exact decode_cmd 64 w _ (by decide) rfl hwf

theorem RoundTrip.mmSp (w : CmdWords) : RoundTrip.Statement (.mmSp w) := by
  intro hwf ws he
  replace hwf : (w.admitted 0x41) = true := hwf
  cases he
  exact decode_cmd 65 w _ (by decide) rfl hwf

theorem RoundTrip.mmBsr (w : CmdWords) : RoundTrip.Statement (.mmBsr w) := by
  intro hwf ws he
  replace hwf : (w.admitted 0x42) = true := hwf
  cases he
  exact decode_cmd 66 w _ (by decide) rfl hwf

theorem RoundTrip.mmCsr (w : CmdWords) : RoundTrip.Statement (.mmCsr w) := by
  intro hwf ws he
  replace hwf : (w.admitted 0x43) = true := hwf
  cases he
  exact decode_cmd 67 w _ (by decide) rfl hwf

theorem RoundTrip.mmArm (w : CmdWords) : RoundTrip.Statement (.mmArm w) := by
  intro hwf ws he
  replace hwf : (w.admitted 0x44) = true := hwf
  cases he
  exact decode_cmd 68 w _ (by decide) rfl hwf

theorem RoundTrip.armEntryStart (cmd : Nat) : RoundTrip.Statement (.armEntryStart cmd) := by
  intro _ _ he; cases he

theorem RoundTrip.mmAccZero (w : CmdWords) : RoundTrip.Statement (.mmAccZero w) := by
  intro hwf ws he
  replace hwf : (w.admitted 0x45 && decide (w.var = 0#4)) = true := hwf
  simp only [Bool.and_eq_true, decide_eq_true_eq] at hwf
  cases he
  exact decode_cmd 69 w _ (by decide) (by simp [cmdInstr, hwf.2]) hwf.1

theorem RoundTrip.mmAccLoad (w : CmdWords) : RoundTrip.Statement (.mmAccLoad w) := by
  intro hwf ws he
  replace hwf : (w.admitted 0x45 && decide (w.var = 1#4)) = true := hwf
  simp only [Bool.and_eq_true, decide_eq_true_eq] at hwf
  cases he
  exact decode_cmd 69 w _ (by decide) (by simp [cmdInstr, hwf.2]) hwf.1

theorem RoundTrip.mmAccStore (w : CmdWords) : RoundTrip.Statement (.mmAccStore w) := by
  intro hwf ws he
  replace hwf : (w.admitted 0x45 && decide (w.var = 2#4)) = true := hwf
  simp only [Bool.and_eq_true, decide_eq_true_eq] at hwf
  cases he
  exact decode_cmd 69 w _ (by decide) (by simp [cmdInstr, hwf.2]) hwf.1

theorem RoundTrip.mmOut (w : CmdWords) : RoundTrip.Statement (.mmOut w) := by
  intro hwf ws he
  replace hwf : (w.admitted 0x46) = true := hwf
  cases he
  exact decode_cmd 70 w _ (by decide) rfl hwf

theorem RoundTrip.kstepComplete (cmd : Nat) : RoundTrip.Statement (.kstepComplete cmd) := by
  intro _ _ he; cases he

theorem RoundTrip.gather (w : CmdWords) : RoundTrip.Statement (.gather w) := by
  intro hwf ws he
  replace hwf : (w.admitted 0x50) = true := hwf
  cases he
  exact decode_cmd 80 w _ (by decide) rfl hwf

theorem RoundTrip.scatterAdd (w : CmdWords) : RoundTrip.Statement (.scatterAdd w) := by
  intro hwf ws he
  replace hwf : (w.admitted 0x51 && (decide (w.scatterOp = 0) || decide (5 ≤ w.scatterOp))) = true := hwf
  simp only [Bool.and_eq_true, Bool.or_eq_true, decide_eq_true_eq] at hwf
  cases he
  exact decode_cmd 81 w _ (by decide) (by simp [cmdInstr, show ¬ w.scatterOp = 1 by omega, show ¬ w.scatterOp = 2 by omega, show ¬ w.scatterOp = 3 by omega, show ¬ w.scatterOp = 4 by omega]) hwf.1

theorem RoundTrip.scatterMin (w : CmdWords) : RoundTrip.Statement (.scatterMin w) := by
  intro hwf ws he
  replace hwf : (w.admitted 0x51 && decide (w.scatterOp = 1)) = true := hwf
  simp only [Bool.and_eq_true, decide_eq_true_eq] at hwf
  cases he
  exact decode_cmd 81 w _ (by decide) (by simp [cmdInstr, hwf.2]) hwf.1

theorem RoundTrip.scatterMax (w : CmdWords) : RoundTrip.Statement (.scatterMax w) := by
  intro hwf ws he
  replace hwf : (w.admitted 0x51 && decide (w.scatterOp = 2)) = true := hwf
  simp only [Bool.and_eq_true, decide_eq_true_eq] at hwf
  cases he
  exact decode_cmd 81 w _ (by decide) (by simp [cmdInstr, hwf.2]) hwf.1

theorem RoundTrip.scatterFirst (w : CmdWords) : RoundTrip.Statement (.scatterFirst w) := by
  intro hwf ws he
  replace hwf : (w.admitted 0x51 && decide (w.scatterOp = 3)) = true := hwf
  simp only [Bool.and_eq_true, decide_eq_true_eq] at hwf
  cases he
  exact decode_cmd 81 w _ (by decide) (by simp [cmdInstr, hwf.2]) hwf.1

theorem RoundTrip.scatterLast (w : CmdWords) : RoundTrip.Statement (.scatterLast w) := by
  intro hwf ws he
  replace hwf : (w.admitted 0x51 && decide (w.scatterOp = 4)) = true := hwf
  simp only [Bool.and_eq_true, decide_eq_true_eq] at hwf
  cases he
  exact decode_cmd 81 w _ (by decide) (by simp [cmdInstr, hwf.2]) hwf.1

theorem RoundTrip.indexGroupComplete (cmd : Nat) : RoundTrip.Statement (.indexGroupComplete cmd) := by
  intro _ _ he; cases he

theorem RoundTrip.intersect (w : CmdWords) : RoundTrip.Statement (.intersect w) := by
  intro hwf ws he
  replace hwf : (w.admitted 0x52) = true := hwf
  cases he
  exact decode_cmd 82 w _ (by decide) rfl hwf

theorem RoundTrip.ixCount (w : CmdWords) : RoundTrip.Statement (.ixCount w) := by
  intro hwf ws he
  replace hwf : (w.admitted 0x53) = true := hwf
  cases he
  exact decode_cmd 83 w _ (by decide) rfl hwf

theorem RoundTrip.selTopk (w : CmdWords) : RoundTrip.Statement (.selTopk w) := by
  intro hwf ws he
  replace hwf : (w.admitted 0x60) = true := hwf
  cases he
  exact decode_cmd 96 w _ (by decide) rfl hwf

theorem RoundTrip.selColk (w : CmdWords) : RoundTrip.Statement (.selColk w) := by
  intro hwf ws he
  replace hwf : (w.admitted 0x61) = true := hwf
  cases he
  exact decode_cmd 97 w _ (by decide) rfl hwf

theorem RoundTrip.auc (w : CmdWords) : RoundTrip.Statement (.auc w) := by
  intro hwf ws he
  replace hwf : (w.admitted 0x70) = true := hwf
  cases he
  exact decode_cmd 112 w _ (by decide) rfl hwf

theorem RoundTrip.auctionRound (cmd : Nat) : RoundTrip.Statement (.auctionRound cmd) := by
  intro _ _ he; cases he

theorem RoundTrip.aucPrice (w : CmdWords) : RoundTrip.Statement (.aucPrice w) := by
  intro hwf ws he
  replace hwf : (w.admitted 0x71) = true := hwf
  cases he
  exact decode_cmd 113 w _ (by decide) rfl hwf

theorem RoundTrip.dpost (w : CmdWords) : RoundTrip.Statement (.dpost w) := by
  intro hwf ws he
  replace hwf : (w.admitted 0x80) = true := hwf
  cases he
  exact decode_cmd 128 w _ (by decide) rfl hwf

theorem RoundTrip.xsend (w : CmdWords) : RoundTrip.Statement (.xsend w) := by
  intro hwf ws he
  replace hwf : (w.admitted 0x81) = true := hwf
  cases he
  exact decode_cmd 129 w _ (by decide) rfl hwf

theorem RoundTrip.xwait (w : CmdWords) : RoundTrip.Statement (.xwait w) := by
  intro hwf ws he
  replace hwf : (w.admitted 0x82) = true := hwf
  cases he
  exact decode_cmd 130 w _ (by decide) rfl hwf

theorem RoundTrip.place (w : CmdWords) : RoundTrip.Statement (.place w) := by
  intro hwf ws he
  replace hwf : (w.admitted 0x90) = true := hwf
  cases he
  exact decode_cmd 144 w _ (by decide) rfl hwf

theorem RoundTrip.glaunch (w : CmdWords) : RoundTrip.Statement (.glaunch w) := by
  intro hwf ws he
  replace hwf : (w.admitted 0x91) = true := hwf
  cases he
  exact decode_cmd 145 w _ (by decide) rfl hwf

theorem RoundTrip.nodeSig (w : CmdWords) : RoundTrip.Statement (.nodeSig w) := by
  intro hwf ws he
  replace hwf : (w.admitted 0x92) = true := hwf
  cases he
  exact decode_cmd 146 w _ (by decide) rfl hwf

theorem RoundTrip.traceMark (w : CmdWords) : RoundTrip.Statement (.traceMark w) := by
  intro hwf ws he
  replace hwf : (w.admitted 0xA0) = true := hwf
  cases he
  exact decode_cmd 160 w _ (by decide) rfl hwf

theorem RoundTrip.commandStart (cmd : Nat) : RoundTrip.Statement (.commandStart cmd) := by
  intro _ _ he; cases he

theorem RoundTrip.commandComplete (cmd : Nat) : RoundTrip.Statement (.commandComplete cmd) := by
  intro _ _ he; cases he

theorem RoundTrip.elemAdd (core : Nat) (site : Nat) : RoundTrip.Statement (.elemAdd core site) := by
  intro _ _ he; cases he

theorem RoundTrip.elemSub (core : Nat) (site : Nat) : RoundTrip.Statement (.elemSub core site) := by
  intro _ _ he; cases he

theorem RoundTrip.elemMul (core : Nat) (site : Nat) : RoundTrip.Statement (.elemMul core site) := by
  intro _ _ he; cases he

theorem RoundTrip.elemMac (core : Nat) (site : Nat) : RoundTrip.Statement (.elemMac core site) := by
  intro _ _ he; cases he

theorem RoundTrip.elemMin (core : Nat) (site : Nat) : RoundTrip.Statement (.elemMin core site) := by
  intro _ _ he; cases he

theorem RoundTrip.elemMax (core : Nat) (site : Nat) : RoundTrip.Statement (.elemMax core site) := by
  intro _ _ he; cases he

theorem RoundTrip.elemAbs (core : Nat) (site : Nat) : RoundTrip.Statement (.elemAbs core site) := by
  intro _ _ he; cases he

theorem RoundTrip.elemNeg (core : Nat) (site : Nat) : RoundTrip.Statement (.elemNeg core site) := by
  intro _ _ he; cases he

theorem RoundTrip.elemAnd (core : Nat) (site : Nat) : RoundTrip.Statement (.elemAnd core site) := by
  intro _ _ he; cases he

theorem RoundTrip.elemOr (core : Nat) (site : Nat) : RoundTrip.Statement (.elemOr core site) := by
  intro _ _ he; cases he

theorem RoundTrip.elemXor (core : Nat) (site : Nat) : RoundTrip.Statement (.elemXor core site) := by
  intro _ _ he; cases he

theorem RoundTrip.elemNot (core : Nat) (site : Nat) : RoundTrip.Statement (.elemNot core site) := by
  intro _ _ he; cases he

theorem RoundTrip.elemShl (core : Nat) (site : Nat) : RoundTrip.Statement (.elemShl core site) := by
  intro _ _ he; cases he

theorem RoundTrip.elemShr (core : Nat) (site : Nat) : RoundTrip.Statement (.elemShr core site) := by
  intro _ _ he; cases he

theorem RoundTrip.elemSar (core : Nat) (site : Nat) : RoundTrip.Statement (.elemSar core site) := by
  intro _ _ he; cases he

theorem RoundTrip.elemCmpEq (core : Nat) (site : Nat) : RoundTrip.Statement (.elemCmpEq core site) := by
  intro _ _ he; cases he

theorem RoundTrip.elemCmpNe (core : Nat) (site : Nat) : RoundTrip.Statement (.elemCmpNe core site) := by
  intro _ _ he; cases he

theorem RoundTrip.elemCmpLt (core : Nat) (site : Nat) : RoundTrip.Statement (.elemCmpLt core site) := by
  intro _ _ he; cases he

theorem RoundTrip.elemCmpLe (core : Nat) (site : Nat) : RoundTrip.Statement (.elemCmpLe core site) := by
  intro _ _ he; cases he

theorem RoundTrip.elemCmpLtu (core : Nat) (site : Nat) : RoundTrip.Statement (.elemCmpLtu core site) := by
  intro _ _ he; cases he

theorem RoundTrip.elemCmpLeu (core : Nat) (site : Nat) : RoundTrip.Statement (.elemCmpLeu core site) := by
  intro _ _ he; cases he

theorem RoundTrip.elemSel (core : Nat) (site : Nat) : RoundTrip.Statement (.elemSel core site) := by
  intro _ _ he; cases he

theorem RoundTrip.elemDot4 (core : Nat) (site : Nat) : RoundTrip.Statement (.elemDot4 core site) := by
  intro _ _ he; cases he

theorem RoundTrip.elemDot2 (core : Nat) (site : Nat) : RoundTrip.Statement (.elemDot2 core site) := by
  intro _ _ he; cases he

theorem RoundTrip.elemSatadd (core : Nat) (site : Nat) : RoundTrip.Statement (.elemSatadd core site) := by
  intro _ _ he; cases he

theorem RoundTrip.elemSatsub (core : Nat) (site : Nat) : RoundTrip.Statement (.elemSatsub core site) := by
  intro _ _ he; cases he

theorem RoundTrip.elemClz (core : Nat) (site : Nat) : RoundTrip.Statement (.elemClz core site) := by
  intro _ _ he; cases he

theorem RoundTrip.elemPopc (core : Nat) (site : Nat) : RoundTrip.Statement (.elemPopc core site) := by
  intro _ _ he; cases he

theorem RoundTrip.fadd (core : Nat) (site : Nat) : RoundTrip.Statement (.fadd core site) := by
  intro _ _ he; cases he

theorem RoundTrip.fsub (core : Nat) (site : Nat) : RoundTrip.Statement (.fsub core site) := by
  intro _ _ he; cases he

theorem RoundTrip.fmul (core : Nat) (site : Nat) : RoundTrip.Statement (.fmul core site) := by
  intro _ _ he; cases he

theorem RoundTrip.fma (core : Nat) (site : Nat) : RoundTrip.Statement (.fma core site) := by
  intro _ _ he; cases he

theorem RoundTrip.fmin (core : Nat) (site : Nat) : RoundTrip.Statement (.fmin core site) := by
  intro _ _ he; cases he

theorem RoundTrip.fmax (core : Nat) (site : Nat) : RoundTrip.Statement (.fmax core site) := by
  intro _ _ he; cases he

theorem RoundTrip.fabs (core : Nat) (site : Nat) : RoundTrip.Statement (.fabs core site) := by
  intro _ _ he; cases he

theorem RoundTrip.fneg (core : Nat) (site : Nat) : RoundTrip.Statement (.fneg core site) := by
  intro _ _ he; cases he

theorem RoundTrip.frcp (core : Nat) (site : Nat) : RoundTrip.Statement (.frcp core site) := by
  intro _ _ he; cases he

theorem RoundTrip.frsq (core : Nat) (site : Nat) : RoundTrip.Statement (.frsq core site) := by
  intro _ _ he; cases he

theorem RoundTrip.fexp2 (core : Nat) (site : Nat) : RoundTrip.Statement (.fexp2 core site) := by
  intro _ _ he; cases he

theorem RoundTrip.flog2 (core : Nat) (site : Nat) : RoundTrip.Statement (.flog2 core site) := by
  intro _ _ he; cases he

theorem RoundTrip.fcmpEq (core : Nat) (site : Nat) : RoundTrip.Statement (.fcmpEq core site) := by
  intro _ _ he; cases he

theorem RoundTrip.fcmpNe (core : Nat) (site : Nat) : RoundTrip.Statement (.fcmpNe core site) := by
  intro _ _ he; cases he

theorem RoundTrip.fcmpLt (core : Nat) (site : Nat) : RoundTrip.Statement (.fcmpLt core site) := by
  intro _ _ he; cases he

theorem RoundTrip.fcmpLe (core : Nat) (site : Nat) : RoundTrip.Statement (.fcmpLe core site) := by
  intro _ _ he; cases he

theorem RoundTrip.cvt (core : Nat) (site : Nat) : RoundTrip.Statement (.cvt core site) := by
  intro _ _ he; cases he

theorem RoundTrip.qnt (core : Nat) (site : Nat) : RoundTrip.Statement (.qnt core site) := by
  intro _ _ he; cases he

theorem RoundTrip.dqn (core : Nat) (site : Nat) : RoundTrip.Statement (.dqn core site) := by
  intro _ _ he; cases he

theorem RoundTrip.rsum (core : Nat) (site : Nat) : RoundTrip.Statement (.rsum core site) := by
  intro _ _ he; cases he

theorem RoundTrip.rmax (core : Nat) (site : Nat) : RoundTrip.Statement (.rmax core site) := by
  intro _ _ he; cases he

theorem RoundTrip.rmin (core : Nat) (site : Nat) : RoundTrip.Statement (.rmin core site) := by
  intro _ _ he; cases he

theorem RoundTrip.rarg (core : Nat) (site : Nat) : RoundTrip.Statement (.rarg core site) := by
  intro _ _ he; cases he

theorem RoundTrip.rcnt (core : Nat) (site : Nat) : RoundTrip.Statement (.rcnt core site) := by
  intro _ _ he; cases he

theorem RoundTrip.emux (core : Nat) (site : Nat) : RoundTrip.Statement (.emux core site) := by
  intro _ _ he; cases he

theorem RoundTrip.eand (core : Nat) (site : Nat) : RoundTrip.Statement (.eand core site) := by
  intro _ _ he; cases he

theorem RoundTrip.eor (core : Nat) (site : Nat) : RoundTrip.Statement (.eor core site) := by
  intro _ _ he; cases he

theorem RoundTrip.lda (core : Nat) (site : Nat) : RoundTrip.Statement (.lda core site) := by
  intro _ _ he; cases he

theorem RoundTrip.sta (core : Nat) (site : Nat) : RoundTrip.Statement (.sta core site) := by
  intro _ _ he; cases he

theorem RoundTrip.amoa (core : Nat) (site : Nat) : RoundTrip.Statement (.amoa core site) := by
  intro _ _ he; cases he

theorem RoundTrip.plda (core : Nat) (site : Nat) : RoundTrip.Statement (.plda core site) := by
  intro _ _ he; cases he

theorem RoundTrip.psta (core : Nat) (site : Nat) : RoundTrip.Statement (.psta core site) := by
  intro _ _ he; cases he

theorem RoundTrip.segn (core : Nat) (site : Nat) : RoundTrip.Statement (.segn core site) := by
  intro _ _ he; cases he

theorem RoundTrip.smark (core : Nat) (site : Nat) : RoundTrip.Statement (.smark core site) := by
  intro _ _ he; cases he

theorem RoundTrip.sconv (core : Nat) (site : Nat) : RoundTrip.Statement (.sconv core site) := by
  intro _ _ he; cases he

theorem RoundTrip.lpin (core : Nat) (site : Nat) : RoundTrip.Statement (.lpin core site) := by
  intro _ _ he; cases he

theorem RoundTrip.lpout (core : Nat) (site : Nat) : RoundTrip.Statement (.lpout core site) := by
  intro _ _ he; cases he

theorem RoundTrip.steer (core : Nat) (site : Nat) : RoundTrip.Statement (.steer core site) := by
  intro _ _ he; cases he

theorem RoundTrip.merge (core : Nat) (site : Nat) : RoundTrip.Statement (.merge core site) := by
  intro _ _ he; cases he

theorem RoundTrip.carry (core : Nat) (site : Nat) : RoundTrip.Statement (.carry core site) := by
  intro _ _ he; cases he

theorem RoundTrip.invar (core : Nat) (site : Nat) : RoundTrip.Statement (.invar core site) := by
  intro _ _ he; cases he

theorem RoundTrip.drop (core : Nat) (site : Nat) : RoundTrip.Statement (.drop core site) := by
  intro _ _ he; cases he

theorem RoundTrip.lutn (core : Nat) (island : Nat) : RoundTrip.Statement (.lutn core island) := by
  intro _ _ he; cases he

theorem RoundTrip.matchFire (core : Nat) (island : Nat) : RoundTrip.Statement (.matchFire core island) := by
  intro _ _ he; cases he

theorem RoundTrip.pacerAdmit (core : Nat) : RoundTrip.Statement (.pacerAdmit core) := by
  intro _ _ he; cases he

theorem RoundTrip.iterationComplete (core : Nat) : RoundTrip.Statement (.iterationComplete core) := by
  intro _ _ he; cases he

theorem RoundTrip.batonReturn (core : Nat) : RoundTrip.Statement (.batonReturn core) := by
  intro _ _ he; cases he

theorem RoundTrip.antiTokenArrival (core : Nat) (dst : Nat) : RoundTrip.Statement (.antiTokenArrival core dst) := by
  intro _ _ he; cases he

theorem RoundTrip.inPortSend (core : Nat) (port : Nat) : RoundTrip.Statement (.inPortSend core port) := by
  intro _ _ he; cases he

theorem RoundTrip.outPortWrite (core : Nat) (port : Nat) : RoundTrip.Statement (.outPortWrite core port) := by
  intro _ _ he; cases he

theorem RoundTrip.fabricQuiescent (core : Nat) : RoundTrip.Statement (.fabricQuiescent core) := by
  intro _ _ he; cases he

theorem RoundTrip.nodeDispatch (die : Nat) : RoundTrip.Statement (.nodeDispatch die) := by
  intro _ _ he; cases he

theorem RoundTrip.nodeComplete (die : Nat) (entry : Nat) : RoundTrip.Statement (.nodeComplete die entry) := by
  intro _ _ he; cases he

theorem RoundTrip.decrementMessage (src : Nat) (dst : Nat) : RoundTrip.Statement (.decrementMessage src dst) := by
  intro _ _ he; cases he

theorem RoundTrip.errorToken (src : Nat) (dst : Nat) : RoundTrip.Statement (.errorToken src dst) := by
  intro _ _ he; cases he

theorem RoundTrip.launchRequest (die : Nat) : RoundTrip.Statement (.launchRequest die) := by
  intro _ _ he; cases he

theorem RoundTrip.graphLaunch (die : Nat) : RoundTrip.Statement (.graphLaunch die) := by
  intro _ _ he; cases he

theorem RoundTrip.autoPreempt (die : Nat) (entry : Nat) : RoundTrip.Statement (.autoPreempt die entry) := by
  intro _ _ he; cases he

theorem RoundTrip.preemptSave (die : Nat) (entry : Nat) : RoundTrip.Statement (.preemptSave die entry) := by
  intro _ _ he; cases he

theorem RoundTrip.preemptTimeout (ctx : Nat) : RoundTrip.Statement (.preemptTimeout ctx) := by
  intro _ _ he; cases he

theorem RoundTrip.demandRowArrival (row : DemandRow) : RoundTrip.Statement (.demandRowArrival row) := by
  intro _ _ he; cases he

theorem RoundTrip.grantSequenceArrival (ctx : Nat) (gid : Nat) (cal : Calendar) : RoundTrip.Statement (.grantSequenceArrival ctx gid cal) := by
  intro _ _ he; cases he

theorem RoundTrip.phaseStart (ctx : Nat) (gid : Nat) : RoundTrip.Statement (.phaseStart ctx gid) := by
  intro _ _ he; cases he

theorem RoundTrip.heartbeat (ctx : Nat) (gid : Nat) : RoundTrip.Statement (.heartbeat ctx gid) := by
  intro _ _ he; cases he

theorem RoundTrip.dispatchPacketReceive (p : Packet) : RoundTrip.Statement (.dispatchPacketReceive p) := by
  intro _ _ he; cases he

theorem RoundTrip.packetAckReceive (cmd : Nat) (count : Nat) : RoundTrip.Statement (.packetAckReceive cmd count) := by
  intro _ _ he; cases he

theorem RoundTrip.roundEnd (ctx : Nat) (gid : Nat) : RoundTrip.Statement (.roundEnd ctx gid) := by
  intro _ _ he; cases he

theorem RoundTrip.endOfRoundMarker (ctx : Nat) (gid : Nat) (member : Nat) (bytes : Nat) : RoundTrip.Statement (.endOfRoundMarker ctx gid member bytes) := by
  intro _ _ he; cases he

theorem RoundTrip.roundAbandon (ctx : Nat) (gid : Nat) (round : Nat) : RoundTrip.Statement (.roundAbandon ctx gid round) := by
  intro _ _ he; cases he

theorem RoundTrip.abandonNotice (ctx : Nat) (gid : Nat) : RoundTrip.Statement (.abandonNotice ctx gid) := by
  intro _ _ he; cases he

theorem RoundTrip.peerLost (ctx : Nat) (gid : Nat) : RoundTrip.Statement (.peerLost ctx gid) := by
  intro _ _ he; cases he

theorem RoundTrip.arbiterTakeover (ctx : Nat) (gid : Nat) : RoundTrip.Statement (.arbiterTakeover ctx gid) := by
  intro _ _ he; cases he

theorem RoundTrip.takeoverNotice (ctx : Nat) (gid : Nat) (old : Nat) (new : Nat) : RoundTrip.Statement (.takeoverNotice ctx gid old new) := by
  intro _ _ he; cases he

theorem RoundTrip.tkoffProbe (remote : Word) (roundTrip : Word) : RoundTrip.Statement (.tkoffProbe remote roundTrip) := by
  intro _ _ he; cases he

theorem RoundTrip.econsWrite (ctx : Nat) (value : BitVec 32) : RoundTrip.Statement (.econsWrite ctx value) := by
  intro _ _ he; cases he

theorem RoundTrip.windowRegisterWrite (ctx : Nat) (off : Nat) (bytes : List Byte) : RoundTrip.Statement (.windowRegisterWrite ctx off bytes) := by
  intro _ _ he; cases he

theorem RoundTrip.hostMemRead (hpa : Nat) (len : Nat) : RoundTrip.Statement (.hostMemRead hpa len) := by
  intro _ _ he; cases he

theorem RoundTrip.hostMemWrite (hpa : Nat) (bytes : List Byte) : RoundTrip.Statement (.hostMemWrite hpa bytes) := by
  intro _ _ he; cases he

theorem RoundTrip.ident (win : Nat) (seq : BitVec 32) : RoundTrip.Statement (.ident win seq) := by
  intro _ _ he; cases he

theorem RoundTrip.query (win : Nat) (seq : BitVec 32) : RoundTrip.Statement (.query win seq) := by
  intro _ _ he; cases he

theorem RoundTrip.querySetTkoff (win : Nat) (seq : BitVec 32) : RoundTrip.Statement (.querySetTkoff win seq) := by
  intro _ _ he; cases he

theorem RoundTrip.querySetAgeing (win : Nat) (seq : BitVec 32) : RoundTrip.Statement (.querySetAgeing win seq) := by
  intro _ _ he; cases he

theorem RoundTrip.querySetSaveArea (win : Nat) (seq : BitVec 32) : RoundTrip.Statement (.querySetSaveArea win seq) := by
  intro _ _ he; cases he

theorem RoundTrip.querySetPreempt (win : Nat) (seq : BitVec 32) : RoundTrip.Statement (.querySetPreempt win seq) := by
  intro _ _ he; cases he

theorem RoundTrip.querySetDeviceId (win : Nat) (seq : BitVec 32) : RoundTrip.Statement (.querySetDeviceId win seq) := by
  intro _ _ he; cases he

theorem RoundTrip.map (win : Nat) (seq : BitVec 32) : RoundTrip.Statement (.map win seq) := by
  intro _ _ he; cases he

theorem RoundTrip.unmap (win : Nat) (seq : BitVec 32) : RoundTrip.Statement (.unmap win seq) := by
  intro _ _ he; cases he

theorem RoundTrip.inval (win : Nat) (seq : BitVec 32) : RoundTrip.Statement (.inval win seq) := by
  intro _ _ he; cases he

theorem RoundTrip.pin (win : Nat) (seq : BitVec 32) : RoundTrip.Statement (.pin win seq) := by
  intro _ _ he; cases he

theorem RoundTrip.unpin (win : Nat) (seq : BitVec 32) : RoundTrip.Statement (.unpin win seq) := by
  intro _ _ he; cases he

theorem RoundTrip.loadgraph (win : Nat) (seq : BitVec 32) (frames : List Nat) : RoundTrip.Statement (.loadgraph win seq frames) := by
  intro _ _ he; cases he

theorem RoundTrip.launch (win : Nat) (seq : BitVec 32) : RoundTrip.Statement (.launch win seq) := by
  intro _ _ he; cases he

theorem RoundTrip.cancel (win : Nat) (seq : BitVec 32) : RoundTrip.Statement (.cancel win seq) := by
  intro _ _ he; cases he

theorem RoundTrip.snapshot (win : Nat) (seq : BitVec 32) : RoundTrip.Statement (.snapshot win seq) := by
  intro _ _ he; cases he

theorem RoundTrip.partnerShardReceive (ctx : Nat) (area : Word) (seq : Word) (shard : List Byte) : RoundTrip.Statement (.partnerShardReceive ctx area seq shard) := by
  intro _ _ he; cases he

theorem RoundTrip.restore (win : Nat) (seq : BitVec 32) (remote : RemoteShard) : RoundTrip.Statement (.restore win seq remote) := by
  intro _ _ he; cases he

theorem RoundTrip.resetContext (win : Nat) (seq : BitVec 32) : RoundTrip.Statement (.resetContext win seq) := by
  intro _ _ he; cases he

theorem RoundTrip.resetModule (win : Nat) (seq : BitVec 32) : RoundTrip.Statement (.resetModule win seq) := by
  intro _ _ he; cases he

theorem RoundTrip.attest (win : Nat) (seq : BitVec 32) : RoundTrip.Statement (.attest win seq) := by
  intro _ _ he; cases he

theorem RoundTrip.stopat (win : Nat) (seq : BitVec 32) : RoundTrip.Statement (.stopat win seq) := by
  intro _ _ he; cases he

theorem RoundTrip.stopTick : RoundTrip.Statement (.stopTick) := by
  intro _ _ he; cases he

theorem RoundTrip.powerOn (patch : PatchImage) (certs : Bool) : RoundTrip.Statement (.powerOn patch certs) := by
  intro _ _ he; cases he

theorem RoundTrip.hostLinkDown : RoundTrip.Statement (.hostLinkDown) := by
  intro _ _ he; cases he

theorem RoundTrip.hostLinkUp : RoundTrip.Statement (.hostLinkUp) := by
  intro _ _ he; cases he

theorem RoundTrip.memoryPortLinkDown (port : Nat) : RoundTrip.Statement (.memoryPortLinkDown port) := by
  intro _ _ he; cases he

theorem RoundTrip.memoryPortLinkUp (port : Nat) : RoundTrip.Statement (.memoryPortLinkUp port) := by
  intro _ _ he; cases he

theorem RoundTrip.expanderLost (port : Nat) : RoundTrip.Statement (.expanderLost port) := by
  intro _ _ he; cases he

theorem RoundTrip.expanderPoison (pa : Nat) : RoundTrip.Statement (.expanderPoison pa) := by
  intro _ _ he; cases he

theorem RoundTrip.correctedError (e : SoftError) : RoundTrip.Statement (.correctedError e) := by
  intro _ _ he; cases he

theorem RoundTrip.uncorrectableError (e : SoftError) : RoundTrip.Statement (.uncorrectableError e) := by
  intro _ _ he; cases he

theorem RoundTrip.channelRemapDone (channel : Nat) : RoundTrip.Statement (.channelRemapDone channel) := by
  intro _ _ he; cases he

theorem RoundTrip.thermalThrottle (die : Nat) (temp : Word) (m : DieMonitors) : RoundTrip.Statement (.thermalThrottle die temp m) := by
  intro _ _ he; cases he

theorem RoundTrip.thermalShutdown (die : Nat) (temp : Word) : RoundTrip.Statement (.thermalShutdown die temp) := by
  intro _ _ he; cases he

theorem RoundTrip.walkerWindow (core : Nat) : RoundTrip.Statement (.walkerWindow core) := by
  intro _ _ he; cases he

theorem RoundTrip.badcode (win : Nat) (seq : BitVec 32) : RoundTrip.Statement (.badcode win seq) := by
  intro _ _ he; cases he

theorem RoundTrip.arbiterAnswersNothing (ctx : Nat) (gid : Nat) : RoundTrip.Statement (.arbiterAnswersNothing ctx gid) := by
  intro _ _ he; cases he

theorem RoundTrip.effectivePriorityReaches3 (die : Nat) (entry : Nat) : RoundTrip.Statement (.effectivePriorityReaches3 die entry) := by
  intro _ _ he; cases he

theorem RoundTrip.pseqAcknowledged (ctx : Nat) : RoundTrip.Statement (.pseqAcknowledged ctx) := by
  intro _ _ he; cases he

theorem RoundTrip.partnerSlotRead (ctx : Nat) (area : Word) (device : BitVec 16) : RoundTrip.Statement (.partnerSlotRead ctx area device) := by
  intro _ _ he; cases he

theorem RoundTrip.timestampedProbe (member : Nat) : RoundTrip.Statement (.timestampedProbe member) := by
  intro _ _ he; cases he

theorem RoundTrip.uetRetransmit (p : Packet) : RoundTrip.Statement (.uetRetransmit p) := by
  intro _ _ he; cases he

theorem RoundTrip.cxlCacheSnoop (pa : Nat) (store : Option (List Byte)) : RoundTrip.Statement (.cxlCacheSnoop pa store) := by
  intro _ _ he; cases he

end Sys2Proof.Laws
end

