-- ==== Sys2Proof/Tests/Slice0.lean ====
section
/-! SUPPORT. Tests: words and refusals of the decoder, ill-formed terms, single steps with results worked out by hand from the spec,
and for every statement with hypotheses a state and operands that meet them. -/

set_option Elab.async false

namespace Sys2Proof.Tests

open Sys2Proof.Machine

/-! ## A core that runs a small stream -/

/-- A core that runs a stream of 16 words, with a few values in its registers. -/
def core0 : Core where
  run := .running
  regs := [(1, 6#64), (2, 0xFFFFFFFFFFFFFFFD#64), (4, 0x1000#64), (5, 3#64), (47, 8#64)]
  preds := 4
  record := { strmOff := 64, strmLen := 16, masks := [7#64] }
  handler := 0x8000
  hlen := 8

/-- A readable, writable, executable page with presence bits at address 0. -/
def page0 : Page := ⟨0, 0, 16, 0x4F#16⟩

/-- A module that runs the core, in a context with that page. -/
def on (c : Core) : State := { State.reset with cores := [(0, c)], ctxs := [(0, { pages := [page0] })] }

theorem on_ready {c : Core} (hi : c.issues = true) (ha : c.accs = []) (fields reads : List Reg) (masks : List Nat)
    (h : ∀ r ∈ fields, r.toNat < 58) : (on c).ready fields reads masks where
  issues := hi
  fields := h
  reads _ _ := by
    show (_ && (c.accs.any _ || false)) = false
    rw [ha]; simp
  masks _ _ := by
    show (_ && c.accs.any _) = false
    rw [ha]; simp

theorem ready0 (fields reads : List Reg) (masks : List Nat) (h : ∀ r ∈ fields, r.toNat < 58) :
    (on core0).ready fields reads masks := on_ready rfl rfl _ _ _ h

theorem free0 (load store : Bool) : (on core0).freeToIssue load store :=
  ⟨(fun _ h => by cases h), (fun _ _ h => by cases h), (fun _ => by decide), (fun _ => by decide)⟩

theorem ready_free (fields reads : List Reg) (masks : List Nat) (h : ∀ r ∈ fields, r.toNat < 58) (load store : Bool) :
    (on core0).ready fields reads masks ∧ (on core0).freeToIssue load store := ⟨ready0 _ _ _ h, free0 _ _⟩

/-! ## States and operands that meet the hypotheses of the statements: the control core -/

theorem test_meets_AluResults : (on core0).ready [49, 1, 2] [1, 2] [] := ready0 _ _ _ (by decide)
theorem test_meets_UnaryResults : (on core0).ready [49, 1] [1] [] ∧ (5 : Nat) < 2 ^ 3 := ⟨ready0 _ _ _ (by decide), by decide⟩
theorem test_meets_BitFieldsAndSel : (on core0).ready [3, 1] [3, 1] [] ∧ (on core0).ready [3, 1, 2] [1, 2] [] :=
  ⟨ready0 _ _ _ (by decide), ready0 _ _ _ (by decide)⟩
theorem test_meets_Compares : (on core0).ready [1, 2] [1, 2] [] := ready0 _ _ _ (by decide)
theorem test_meets_PredicatesAndMasks : (on core0).ready [] [] [] ∧ (on core0).ready [1] [1] [7] ∧ (3 : MaskIdx) ≠ 0#3 :=
  ⟨ready0 _ _ _ (by decide), ready0 _ _ _ (by decide), by decide⟩

/-- The context of `on`, with a trace area at 64 · 425984 bytes past its save-area base and ENABLE bit 1 set. -/
def traced : State := { on core0 with
  ctxs := [(0, { pages := [page0, ⟨0x1A10000, 0x10000, 16, 0x7#16⟩], saveBase := 0x10000#64 })]
  mem := [(0x10000, 2#8)] }

theorem test_meets_SpecialRegisters : (on core0).ready [3] [] [] ∧ (on core0).ready [1] [1] [] ∧ (on core0).ready [] [] [] ∧
    (on core0).traceOn 0 1 = false ∧ traced.traceHdr 0 = some ⟨0x1A10000, 0x10000, 2, 0, 0, 0, 0⟩ ∧ traced.ready [] [] [] ∧
    ∃ pas, translateRange (traced.pages 0) (0x1A10000 + 64 + 64 * (0 % 16383)) Need.write 64 = .ok pas ∧ pas.Nodup ∧
      ∀ p ∈ pas, traced.linkFault p = none ∧ ¬(0x10000 + 8 ≤ p ∧ p < 0x10000 + 16) := by
  refine ⟨ready0 _ _ _ (by decide), ready0 _ _ _ (by decide), ready0 _ _ _ (by decide), by decide, by decide,
    ⟨rfl, by decide, by decide, by decide⟩, _, rfl, by decide, by decide⟩

/-- The same machine with channel 0 being copied, where the core's stream lies. -/
def remapping : State := { on core0 with channels := [(channelCode 64, { copying := true })] }

theorem test_meets_BranchesWait : core0.issues = true ∧ remapping.targetWaits 0 ((0#32).toNat + (5#21).toInt) = true ∧
    remapping.targetWaits 0 ((0#32).toNat + (5#20).toInt) = true ∧ remapping.ready [1] [1] [] ∧
    remapping.targetWaits 0 ((6#64).truncate 32 : BitVec 32).toNat = true ∧
    { remapping with cores := [(0, { core0 with regs := [(47, 9#64)] })] }.targetWaits 0 ((9#64).truncate 32 : BitVec 32).toNat = true ∧
    { remapping with cores := [(0, { core0 with regs := [(47, 9#64)] })] }.ready [] [47] [] := by
  refine ⟨by decide, by decide +kernel, by decide +kernel, ⟨rfl, by decide, by decide, by decide⟩, by decide +kernel, by decide +kernel,
    ⟨rfl, by decide, by decide, by decide⟩⟩

theorem test_meets_BranchesAndCalls : (on core0).targetWaits 0 ((0#32).toNat + (4#21).toInt) = false ∧
    (on core0).targetWaits 0 ((6#64).truncate 32 : BitVec 32).toNat = false ∧
    (on core0).targetWaits 0 ((8#64).truncate 32 : BitVec 32).toNat = false ∧ (on core0).ready [] [] [] ∧ (on core0).badTarget 0 ((0#32).toNat + (4#21).toInt) = false ∧
    (on core0).ready [1] [1] [] ∧ (on core0).badTarget 0 ((6#64).truncate 32 : BitVec 32).toNat = false ∧
    (on core0).ready [] [47] [] ∧ (on core0).badTarget 0 ((8#64).truncate 32 : BitVec 32).toNat = false := by
  refine ⟨by decide +kernel, by decide +kernel, by decide +kernel, ready0 _ _ _ (by decide), by decide, ready0 _ _ _ (by decide), by decide,
    ready0 _ _ _ (by decide), by decide⟩

theorem test_meets_BadTargets : core0.issues = true ∧ (on core0).badTarget 0 ((0#32).toNat + (16#21).toInt) = true ∧
    (on core0).badTarget 0 ((0#32).toNat + (-1#20).toInt) = true ∧ (on core0).badTarget 0 (0x1000 : Nat) = true ∧
    (on core0).ready [4] [4] [] ∧
    (on { core0 with regs := [(47, 16#64)] }).badTarget 0 ((16#64).truncate 32 : BitVec 32).toNat = true ∧
    (on { core0 with regs := [(47, 16#64)] }).ready [] [47] [] := by
  refine ⟨by decide, by decide, by decide, by decide, ready0 _ _ _ (by decide), by decide, on_ready rfl rfl _ _ _ (by decide)⟩

theorem test_meets_TrapsAndReturns : (on core0).ready [] [] [] ∧ core0.hm = false ∧ core0.handler ≠ 0#64 ∧
    (on { core0 with hm := true }).ready [] [] [] :=
  ⟨ready0 _ _ _ (by decide), by decide, by decide, on_ready rfl rfl _ _ _ (by decide)⟩

theorem test_meets_ProgramFaults : core0.hm = false ∧ core0.handler ≠ 0#64 ∧ ({ core0 with hm := true } : Core).hm = true := by decide

theorem test_meets_ReservedUses : core0.issues = true ∧ core0.hm = false ∧ core0.record.masks.length ≤ (1#12).toNat ∧
    (on core0).ready [3, 4] [4] [] ∧ (on core0).freeToIssue true false ∧
    (0x1000#64 + (1#12).signExtend 64 * 8#64).toNat % 8 = 0 ∧
    (0x1001#64 + (1#12).signExtend 64 * 8#64).toNat % 8 ≠ 0 ∧ (0x1001#64 + (1#12).signExtend 64 * 8#64).toNat < 2 ^ 56 ∧
    2 ^ 56 ≤ (0xFFFFFFFFFFFFFFFD#64 + (0#12).signExtend 64 * 8#64).toNat ∧
    (on core0).ready [3, 2, 1] [2, 1] [] ∧ (on core0).freeToIssue true true ∧
    (6#64).toNat % 4 ≠ 0 ∧ (6#64).toNat < 2 ^ 56 := by
  refine ⟨by decide, by decide, by decide, ready0 _ _ _ (by decide), free0 _ _, by decide, by decide, by decide, by decide,
    ready0 _ _ _ (by decide), free0 _ _, by decide, by decide⟩

theorem test_meets_FencesWaitsAndStops : (on core0).ready [] [] [] ∧ core0.openBatch = [] ∧ core0.record.masks[(0#12).toNat]? = some 7#64 :=
  ⟨ready0 _ _ _ (by decide), by decide, by decide⟩

theorem test_meets_LoadsIssue : (on core0).ready [3, 4] [4] [] ∧ (on core0).freeToIssue true false ∧
    (0x1000#64 + (-1#14).signExtend 64 * BitVec.ofNat 64 8).toNat < 2 ^ 56 ∧
    ∃ pas, translateRange ((on core0).pages 0) (0x1000#64 + (-1#14).signExtend 64 * BitVec.ofNat 64 8).toNat Need.read 8 = .ok pas :=
  ⟨ready0 _ _ _ (by decide), free0 _ _, by decide, _, rfl⟩

theorem test_meets_StoresAndIndexedIssue : (on core0).ready [3, 4] [3, 4] [] ∧ (on core0).freeToIssue false true ∧
    (∃ pas, translateRange ((on core0).pages 0) (0x1000#64 + (1#14).signExtend 64 * BitVec.ofNat 64 8).toNat Need.write 8 = .ok pas) ∧
    (on core0).ready [3, 4, 5] [4, 5] [] ∧ (on core0).ready [3, 4, 5] [3, 4, 5] [] ∧
    (0x1000#64 + 3#64 * BitVec.ofNat 64 8).toNat < 2 ^ 56 ∧
    (∃ pas, translateRange ((on core0).pages 0) (0x1000#64 + 3#64 * BitVec.ofNat 64 8).toNat Need.read 8 = .ok pas) ∧
    (∃ pas, translateRange ((on core0).pages 0) (0x1000#64 + 3#64 * BitVec.ofNat 64 8).toNat Need.write 8 = .ok pas) :=
  ⟨ready0 _ _ _ (by decide), free0 _ _, ⟨_, rfl⟩, ready0 _ _ _ (by decide), ready0 _ _ _ (by decide), by decide, ⟨_, rfl⟩, ⟨_, rfl⟩⟩

theorem test_meets_PresenceAndMasksIssue : (on core0).ready [3, 4] [4] [] ∧ (on core0).ready [3, 4] [3, 4] [] ∧
    (on core0).ready [4] [4] [] ∧ (on core0).ready [4] [4] [7] ∧ (on core0).freeToIssue true false ∧ (on core0).freeToIssue false true ∧
    (0x1000#64).toNat % 32 = 0 ∧ (0x1000#64 + (-1#12).signExtend 64 * 8#64).toNat % 8 = 0 ∧
    (∃ pas, translateRange ((on core0).pages 0) (0x1000#64 + (-1#12).signExtend 64 * 8#64).toNat Need.pread 8 = .ok pas) ∧
    (∃ pas, translateRange ((on core0).pages 0) (0x1000#64 + (-1#12).signExtend 64 * 8#64).toNat Need.pwrite 8 = .ok pas) ∧
    (∃ pas, translateRange ((on core0).pages 0) 0x1000 Need.read 32 = .ok pas) ∧
    (∃ pas, translateRange ((on core0).pages 0) 0x1000 Need.write 32 = .ok pas) :=
  ⟨ready0 _ _ _ (by decide), ready0 _ _ _ (by decide), ready0 _ _ _ (by decide), ready0 _ _ _ (by decide), free0 _ _, free0 _ _,
    by decide, by decide, ⟨_, rfl⟩, ⟨_, rfl⟩, ⟨_, rfl⟩, ⟨_, rfl⟩⟩

theorem test_meets_AmosIssue : (on core0).ready [3, 4, 5] [4, 5] [] ∧ (on core0).freeToIssue (3#6 ≠ 57#6) true ∧
    (0x1000#64).toNat < 2 ^ 56 ∧ (0x1000#64).toNat % 8 = 0 ∧ (on core0).regPending 0 3 = false ∧
    (∃ pas, translateRange ((on core0).pages 0) 0x1000 Need.rw 8 = .ok pas) :=
  ⟨ready0 _ _ _ (by decide), free0 _ _, by decide, by decide, by decide, _, rfl⟩

/-! ## Accesses under way -/

/-- An access of core 0 to the n bytes at 0x1000. -/
def acc (k : AccKind) (n : Nat) : Access where
  id := 3
  kind := k
  va := 0x1000
  pas := (List.range n).map (0x1000 + ·)
  pol := 0
  dst := 6
  val := 0x1122334455667788#256
  cmp := 0
  waits := []
  takes := []
  left := piecesFrom 0x1000 n 0 n
  got := 0
  shown := false
  inLdc := true
  inStc := true
  deferred := false
  refused := false
  soff := 0
  opc := 0x27

/-- Core 0 with that access outstanding, and a byte at 0x1007. -/
def has (a : Access) : State := { on { core0 with accs := [a], ldc := 1, stc := 1, nextAcc := 4 } with mem := [(0x1007, 0x80#8)] }

theorem test_meets_LoadIsPerformed : (has (acc (.load true) 8)).performable 0 (acc (.load true) 8) ∧
    (has (acc (.load true) 8)).unwindowed 0 (acc (.load true) 8) ∧ (has (acc (.load true) 8)).sound (acc (.load true) 8) ∧
    (has (acc .mload 32)).performable 0 (acc .mload 32) ∧ (has (acc .mload 32)).unwindowed 0 (acc .mload 32) ∧
    (has (acc .mload 32)).sound (acc .mload 32) ∧ (acc (.load true) 8).left = [(0, 8)] ∧ (acc .mload 32).left.length = 4 := by
  unfold State.unwindowed State.sound
  and_intros <;> first | decide | (constructor <;> decide)

theorem test_meets_StoreIsPerformed : (has (acc .store 8)).performable 0 (acc .store 8) ∧ (acc .store 8).refused = false ∧
    (has (acc .store 8)).unwindowed 0 (acc .store 8) ∧ (acc .store 8).left = [(0, 8)] ∧
    (has (acc .mstore 32)).performable 0 (acc .mstore 32) ∧ (has (acc .mstore 32)).unwindowed 0 (acc .mstore 32) := by
  unfold State.unwindowed
  and_intros <;> first | decide | (constructor <;> decide)

theorem test_meets_AmoIsPerformed : (has (acc (.amo 9) 8)).performable 0 (acc (.amo 9) 8) ∧ (has (acc (.amo 9) 8)).sound (acc (.amo 9) 8) ∧
    (has (acc (.amo 9) 8)).traceMode 0 = 0 ∧ (acc (.amo 9) 8).left = [(0, (acc (.amo 9) 8).pas.length)] ∧
    (acc (.amo 9) 8).pas = (List.range (acc (.amo 9) 8).pas.length).map (0x1000 + ·) ∧ (acc (.amo 9) 8).pas.length = 8 ∧
    amoNew 9 64 0 5 0 = some 5 ∧ amoNew 9 64 0 5 1 = none := by
  unfold State.sound
  and_intros <;> first | decide | (constructor <;> decide)

/-- The word at 0x1000 is full. -/
def full (s : State) : State := { s with full := [(0x1000 / 8, true)] }

theorem test_meets_PresenceIsPerformed : (full (has (acc .pld 8))).performable 0 (acc .pld 8) ∧ (full (has (acc .pld 8))).sound (acc .pld 8) ∧
    (full (has (acc .pld 8))).isFull 0x1000 = true ∧ (∀ k, (acc k 8).left = [(0, 8)]) ∧ (∀ a, ((has a).core 0).again = []) ∧
    (has { acc .pld 8 with refused := true }).performable 0 { acc .pld 8 with refused := true } ∧
    (has (acc .pld 8)).isFull 0x1000 = false ∧ (has (acc .pld 8)).deferCount (homeSlice 0x1000) < 4096 ∧
    (has (acc .pst 8)).performable 0 (acc .pst 8) ∧ (has (acc .pst 8)).isFull 0x1000 = false ∧
    (full (has (acc .pclr 8))).performable 0 (acc .pclr 8) ∧ (0x1000 : Nat) % 8 = 0 := by
  unfold State.sound
  and_intros <;> first | decide | (intros; rfl) | (constructor <;> decide)

theorem test_meets_PresenceFilled : ∃ (s : State) (d : Deferral) (a : Access) (v : Word),
    s.deferrals.find? (fun e => decide (e.id = d.id)) = some d ∧ d.filled = some v ∧ d.who = .pld 0 a.id ∧
    (s.core 0).accs.find? (fun b => decide (b.id = a.id)) = some a :=
  ⟨{ has { acc .pld 8 with deferred := true } with deferrals := [⟨0, 0x200, .pld 0 3, some 5#64⟩] },
    ⟨0, 0x200, .pld 0 3, some 5#64⟩, { acc .pld 8 with deferred := true }, 5#64, by decide, rfl, rfl, by decide⟩

/-- A deferral table of slice `homeSlice 0x1000` that has no room. -/
def crowded (s : State) : State := { s with deferrals := List.replicate 4096 ⟨0, 0x200, .pld 0 0, none⟩ }

theorem test_meets_PresenceRefused : 4096 ≤ (crowded (has (acc .pld 8))).deferCount (homeSlice 0x1000) := by
  decide +kernel

/-- Core 0 with a window on bank 1, which holds sectors, and accesses. -/
def windowed (sectors : SMap Sector) (accs : List Access) : State :=
  on { core0 with banks := [(1, { base := 0x1000, len := 4096, sectors := sectors })], accs := accs }

/-- The sector of 0x1000 as it stands, and a dirty one of another frame. -/
def held0 : SMap Sector := [(32, { home := 32 })]
def stale : SMap Sector := [(32, { home := 40, dirty := true, data := 7 })]

/-- A fill gives a bank whose sector 32 is not poisoned. -/
def fillsOk (s : State) (va pa : Nat) : Bool := match s.fill 0 1 va pa with
  | .ok u => !(SMap.get {} (u.bank 0 1).sectors 32).poisoned
  | _ => false

theorem test_meets_WindowHomes : ∀ k ∈ [[], stale], ∀ p ∈ (List.range 128).map (0x1000 / 128 * 128 + ·),
    (windowed k []).copying p = false ∧ (windowed k []).linkFault p = none ∧ (windowed k []).poisoned p = false := by decide +kernel

theorem test_meets_WindowBytes :
    (windowed held0 []).findWindow 0 0x1001 = some (0, 1) ∧ (windowed [] []).findWindow 0 0x1FFF = some (0, 1) ∧
    (∀ e ∈ held0, e.1 = 0x1001 / 128 → e.2.home = 0x1001 / 128) ∧ fillsOk (windowed held0 []) 0x1001 0x1001 = true ∧
    fillsOk (windowed [] []) 0x1001 0x1001 = true ∧
    ((windowed held0 []).bank 0 1).holds 0x1001 0x1001 = true ∧ ((windowed stale []).bank 0 1).holds 0x1001 0x1001 = false ∧
    (windowed stale []).findWindow 0 0x1001 = some (0, 1) ∧
    ((windowed stale []).bank 0 1).sectors.find? (fun e => decide (e.1 = 0x1001 / 128)) =
      some (0x1001 / 128, { home := 40, dirty := true, data := 7 }) ∧
    (∀ e ∈ stale, e.1 = 0x1001 / 128 → (windowed stale []).copying (128 * e.2.home) = false) ∧
    (1 : BitVec 2) ≠ 0 ∧
    (windowed [] [{ acc .store 8 with shown := true }]).shownByte 0 0x1001 = some 0x77 ∧
    (windowed [] [{ acc .store 8 with shown := true }]).findWindow 0 0x1001 = some (0, 1) ∧
    (∀ a ∈ ((windowed held0 [acc .store 8]).core 0).accs, a.shown = true → ∀ q ∈ a.pas, q / 8 ≠ 0x1001 / 8) := by
  and_intros <;> decide +kernel

/-! ## Elements -/

/-- Core 0 with one element, at site 17, and tokens at places. -/
def elem (op fmt rest : Nat) (q : SMap (List Slot)) : State :=
  on { core0 with fab := { elems := [(17, BitVec.ofNat 64 (op * 2 ^ 56 + fmt * 2 ^ 52 + rest))], q := q } }

/-- Data tokens at the inputs a, b, c of site 17. -/
def abc (a b c : BitVec 32) : SMap (List Slot) := [(2184, [.tok ⟨0, a⟩]), (2185, [.tok ⟨0, b⟩]), (2186, [.tok ⟨0, c⟩])]

/-- What the element at site 17 fires on. -/
def fired (s : State) : Option (BitVec 32 × BitVec 32 × BitVec 32) :=
  match (s.core 0).firing 17 with
  | .fires _ a b x => some (a, b, x)
  | _ => none

theorem fired_some {s : State} {a b x : BitVec 32} (h : fired s = some (a, b, x)) : ∃ c, (s.core 0).firing 17 = .fires c a b x := by
  unfold fired at h
  split at h
  · next c _ _ _ hc => cases h; exact ⟨c, hc⟩
  · cases h

theorem test_meets_ElementTakesOperands :
    let c := (elem 0x01 4 0 (abc 1 2 3)).core 0
    let d := (elem 0x01 4 (1 * 2 ^ 38) ((2187, [.tok ⟨0, 1⟩]) :: abc 1 2 3)).core 0
    operands (c.word 17) = [0, 1] ∧ c.hasRoom 17 ∧ wPmode (c.word 17) = 0 ∧
    (∀ k ∈ operands (c.word 17), c.holdsData (inPlace 17 k) (if k = 0 then 1 else 2) ∧ c.segs (inPlace 17 k) = [0, 0, 0, 0]) ∧
    operands (d.word 17) = [0, 1] ∧ d.hasRoom 17 ∧ wPmode (d.word 17) ≠ 0 ∧ d.holdsData (inPlace 17 3) 1 ∧
    (∀ k ∈ operands (d.word 17), d.holdsData (inPlace 17 k) (if k = 0 then 1 else 2) ∧ d.segs (inPlace 17 k) = [0, 0, 0, 0]) := by
  unfold Core.hasRoom Core.holdsData
  decide

theorem site0 {s : State} {op : Nat} (h : wOp ((s.core 0).word 17) = op) (hr : (s.core 0).run ≠ .idle) (hp : (s.core 0).pausedPorts = []) :
    s.site 0 17 op := ⟨by decide, h, hr, by rw [hp]; exact List.not_mem_nil⟩

theorem test_meets_IntegerElements :
    IntFmt.ofCode (wFmt ((elem 0x01 4 0 (abc 1 2 3)).core 0 |>.word 17)) = some (8, true) ∧ (elem 0x01 4 0 (abc 1 2 3)).site 0 17 0x01 ∧
    ∃ c, ((elem 0x01 4 0 (abc 1 2 3)).core 0).firing 17 = .fires c 1 2 0 :=
  ⟨by decide, site0 (by decide) (by decide) (by decide), fired_some (by decide)⟩

theorem test_meets_SaturatingElements :
    IntFmt.ofCode (wFmt ((elem 0x18 2 0 (abc 1 2 3)).core 0 |>.word 17)) = some (16, true) ∧ (elem 0x18 2 0 (abc 1 2 3)).site 0 17 0x18 ∧
    ∃ c, ((elem 0x18 2 0 (abc 1 2 3)).core 0).firing 17 = .fires c 1 2 3 :=
  ⟨by decide, site0 (by decide) (by decide) (by decide), fired_some (by decide)⟩

theorem test_meets_FloatElements : wFmt ((elem 0x23 7 0 (abc 1 2 3)).core 0 |>.word 17) ∈ [7, 8, 9] ∧
    FloatFmt.ofCode (wFmt ((elem 0x23 7 0 (abc 1 2 3)).core 0 |>.word 17)) = some .fp32 ∧ (elem 0x23 7 0 (abc 1 2 3)).site 0 17 0x23 ∧
    ∃ c, ((elem 0x23 7 0 (abc 1 2 3)).core 0).firing 17 = .fires c 1 2 3 :=
  ⟨by decide, by decide, site0 (by decide) (by decide) (by decide), fired_some (by decide)⟩

theorem test_meets_FloatFunctions : FloatFmt.fp32.decode 0x7FC00000 = .nan ∧ FloatFmt.fp32.decode 0xFF800000 = .inf true ∧
    FloatFmt.fp32.decode 0x80000000 = .fin true 0 (-149) ∧ FloatFmt.fp32.decode 0x3F800000 = .fin false 0x800000 (-23) ∧
    (elem 0x28 7 0 (abc 1 2 3)).site 0 17 0x28 ∧ ∃ c, ((elem 0x28 7 0 (abc 1 2 3)).core 0).firing 17 = .fires c 1 0 0 :=
  ⟨by decide, by decide, by decide, by decide, site0 (by decide) (by decide) (by decide), fired_some (by decide)⟩

theorem test_meets_Conversions : FloatFmt.ofCode 7 = some .fp32 ∧ FloatFmt.ofCode 8 = some .fp16 ∧ IntFmt.ofCode 2 = some (16, true) ∧
    IntFmt.ofCode 0 = some (32, true) ∧ FloatFmt.fp32.decode 0x43800000 = .fin false 0x800000 (-15) ∧
    roundIntFin false 0x800000 (-15) .rne = 256 ∧ qc4Value 0x1F = .fin false 32768 (-15) ∧ decodeFmt 0x38 0xA = .fin false 8 (-3) ∧
    (elem 0x40 4 7 (abc 0x3F800000 2 3)).site 0 17 0x40 ∧ (elem 0x42 0xA 0 (abc 0x7F38 2 3)).site 0 17 0x42 ∧
    ∃ c, ((elem 0x40 4 7 (abc 0x3F800000 2 3)).core 0).firing 17 = .fires c 0x3F800000 0 0 := by
  and_intros <;> first | exact site0 (by decide) (by decide) (by decide) | exact fired_some (by decide) | decide

theorem test_meets_Reductions :
    let s := elem 0x50 0 0 [(2184, [.tok ⟨0, 5⟩])]
    let m := elem 0x50 0 0 [(2184, [.tok (Token.marker 1)])]
    let l := (elem 0x50 0 0 [(2184, [.tok ⟨0, 5⟩])]).updCore 0 fun c => c.setSegs 2184 [1, 0, 0, 0]
    s.site 0 17 0x50 ∧ (s.core 0).hasRoom 17 ∧ (s.core 0).holdsData (inPlace 17 0) 5 ∧
    0 ∉ (segData ((s.core 0).segs (inPlace 17 0))).2 ∧
    (l.core 0).holdsData (inPlace 17 0) 5 ∧ wSegi ((l.core 0).word 17) = false ∧ 0 ∈ (segData ((l.core 0).segs (inPlace 17 0))).2 ∧
    (m.core 0).input (inPlace 17 0) = some (Token.marker 1) ∧ IntFmt.ofCode 0 = some (32, true) ∧
    wOp (0x53 * 2 ^ 56 + 8) = 0x53 ∧ [(7 : BitVec 32), 9].length < 2 ^ 32 := by
  unfold Core.hasRoom Core.holdsData
  and_intros <;> first | exact site0 (by decide) (by decide) (by decide) | decide

/-- QNT with 31 members gathered, a member at its input. -/
def quant : State := (elem 0x41 0xA 0 [(2184, [.tok ⟨0, 0x3F800000⟩])]).updCore 0 fun c =>
  c.setEst 17 { buf := List.replicate 31 ⟨0, 0x40000000⟩, n := 31 }

theorem test_meets_QntBlocks :
    let s := elem 0x41 0xA 0 [(2184, [.tok ⟨0, 0x3F800000⟩])]
    let m := (elem 0x41 0xA 0 [(2184, [.tok (Token.marker 0)])]).updCore 0 fun c => c.setEst 17 { buf := [⟨0, 5⟩], n := 1 }
    s.site 0 17 0x41 ∧ (s.core 0).hasRoom 17 ∧ wPmode ((s.core 0).word 17) = 0 ∧ (s.core 0).holdsData (inPlace 17 0) 0x3F800000 ∧
    ¬((wSegi ((s.core 0).word 17) = false ∧ 0 ∈ (segData ((s.core 0).segs (inPlace 17 0))).2) ∨
      qntSize ((s.core 0).word 17) ≤ ((s.core 0).est 17).n + 1) ∧
    quant.site 0 17 0x41 ∧ (quant.core 0).hasRoom 17 ∧ (∀ t ∈ ((quant.core 0).est 17).buf, t.isData = true) ∧
    (quant.core 0).holdsData (inPlace 17 0) 0x3F800000 ∧ qntSize ((quant.core 0).word 17) ≤ ((quant.core 0).est 17).n + 1 ∧
    (m.core 0).input (inPlace 17 0) = some (Token.marker 0) ∧ (Token.marker 0).isData = false ∧ ((m.core 0).est 17).buf ≠ [] ∧
    wFmt (0xA * 2 ^ 52) = 0xA ∧ wFmt (0xD * 2 ^ 52 + 0x3F800000) = 0xD ∧
    FloatFmt.fp32.decode (wImm (0xD * 2 ^ 52 + 0x3F800000)) = .fin false 0x800000 (-23) ∧
    (XR.inf true).isInf = true ∧ ratOf (.fin false 0 3) = 0 ∧ ratOf (.fin false 1 0) ≠ 0 := by
  unfold Core.hasRoom Core.holdsData
  and_intros <;> first | exact site0 (by decide) (by decide) (by decide) | decide | simp [ratOf]

/-- Core 0 with an element, tokens, and a state of it. -/
def elemSt (op rest : Nat) (e : ElemState) (q : SMap (List Slot)) : State := (elem op 0 rest q).updCore 0 fun c => c.setEst 17 e

theorem test_meets_SegmentElements :
    let p : List Slot := [.tok (Token.prefixOf 0 2)]
    let d (x : BitVec 32) : List Slot := [.tok ⟨0, x⟩]
    let s1 := elemSt 0x80 0 {} [(2184, p), (2185, p)]
    let s2 := elemSt 0x80 0 { busy := true, n := 2 } [(2185, d 0)]
    let s3 := elemSt 0x80 0 { busy := true, n := 2 } [(2184, d 7), (2185, d 1)]
    let s4 := elemSt 0x81 0 { busy := true, n := 2 } [(2184, d 7)]
    let s5 := elemSt 0x81 0 {} [(2185, d 3)]
    let s6 := elemSt 0x81 (2 ^ 36 + 2) {} [(2184, d 7)]
    let s7 := elemSt 0x82 (2 ^ 49) {} [(2184, d 7)]
    let s8 := elemSt 0x82 (2 ^ 49) {} [(2184, p)]
    let s9 := elemSt 0x82 (2 ^ 50) {} [(2184, d 7)]
    s1.site 0 17 0x80 ∧ wSegi ((s1.core 0).word 17) = false ∧ (s1.core 0).input (inPlace 17 1) = some (Token.prefixOf 0 2) ∧
    (s1.core 0).input (inPlace 17 0) = some (Token.prefixOf 0 2) ∧ ((s1.core 0).est 17).busy = false ∧
    (s2.core 0).input (inPlace 17 1) = some ⟨0, 0⟩ ∧ ((s2.core 0).est 17).busy = true ∧
    (s3.core 0).input (inPlace 17 1) = some ⟨0, 1⟩ ∧ (s3.core 0).input (inPlace 17 0) = some ⟨0, 7⟩ ∧
    s4.site 0 17 0x81 ∧ (s4.core 0).hasRoom 17 ∧ ((s4.core 0).est 17).busy = true ∧ (s4.core 0).input (inPlace 17 0) = some ⟨0, 7⟩ ∧
    (s4.core 0).input (inPlace 17 1) = none ∧ wImmb ((s5.core 0).word 17) = false ∧ (s5.core 0).input (inPlace 17 0) = none ∧
    (s5.core 0).input (inPlace 17 1) = some ⟨0, 3⟩ ∧ wImmb ((s6.core 0).word 17) = true ∧ wImm ((s6.core 0).word 17) % 65536 = 2 ∧
    s7.site 0 17 0x82 ∧ wSegi ((s7.core 0).word 17) = false ∧ wSego ((s7.core 0).word 17) = true ∧
    (s7.core 0).input (inPlace 17 0) = some ⟨0, 7⟩ ∧ (s8.core 0).input (inPlace 17 0) = some (Token.prefixOf 0 2) ∧
    wSegi ((s9.core 0).word 17) = true ∧ wSego ((s9.core 0).word 17) = false ∧ (s9.core 0).input (inPlace 17 0) = some ⟨0, 7⟩ := by
  unfold Core.hasRoom
  and_intros <;> first | exact site0 (by decide) (by decide) (by decide) | decide

/-- The Pacer with K = 2, an LPIN at site 17 and an LPOUT at site 18 with tokens at their inputs. -/
def paced : State := (elem 0x90 0 0 [(2184, [.tok ⟨0, 5⟩]), (2192, [.tok ⟨0, 9⟩])]).updCore 0 fun c =>
  { c with pacer := { k := 2, returning := 1, flight := 1, admitted := 1 }
           fab := { c.fab with elems := c.fab.elems ++ [(18, BitVec.ofNat 64 (0x91 * 2 ^ 56))] } }

/-- The same with the iteration's token past the LPOUT. -/
def paced2 : State := paced.updCore 0 fun c => { c with pacer := { c.pacer with passed := [(0, 1)] } }

theorem test_meets_PacerSteps :
    let c := paced.core 0
    c.run ≠ .idle ∧ c.pacer.flight < c.pacer.k ∧ c.pacer.whold = false ∧ c.sitesOf 0x90 = [17] ∧ c.sitesOf 0x91 = [18] ∧
    paced.batonJoined 0 c.pacer.admitted = false ∧
    (∀ j ∈ c.sitesOf 0x90, c.hasRoom j ∧ c.holdsData (inPlace j 0) 5) ∧ elemPlace ((c.sitesOf 0x90).headD 0) ∉ c.pausedPorts ∧
    paced.site 0 17 0x90 ∧ c.hasRoom 17 ∧ c.input (inPlace 17 0) = some ⟨0, 5⟩ ∧
    wOp (c.word 18) = 0x91 ∧ c.hasRoom 18 ∧ c.input (inPlace 18 0) = some ⟨0, 9⟩ ∧
    (paced2.core 0).pacer.completed < (paced2.core 0).pacer.admitted ∧
    (∀ j ∈ (paced2.core 0).sitesOf 0x91, (paced2.core 0).pacer.completed <
      SMap.get 0 (paced2.core 0).pacer.passed (wImm ((paced2.core 0).word j) % 8)) ∧ c.pacer.returning ≠ 0 := by
  unfold Core.hasRoom Core.holdsData
  and_intros <;> first | exact site0 (by decide) (by decide) (by decide) | decide

/-- An IN port of 4-byte elements at 0x1000, two of them. -/
def port0 (role : Nat) : Port :=
  { w3 := BitVec.ofNat 32 (role * 2 ^ 25 + 3 * 2 ^ 23), desc := { base := 0x1000, cnt := [2, 1, 1, 1], str := [1, 0, 0, 0] }, ended := false }

/-- Core 0 with a memory-port element at site 17 and port 0. -/
def memElem (op : Nat) : State := (elem op 0 0 (abc 0 5 0)).updCore 0 fun c => { c with ports := [(0, port0 1)] }

theorem test_meets_MemoryElements :
    let c := (memElem 0x70).core 0
    (∃ c1, c.firing 17 = .fires c1 0 0 0) ∧ (memElem 0x70).site 0 17 0x70 ∧ (memElem 0x71).site 0 17 0x71 ∧ (memElem 0x72).site 0 17 0x72 ∧
    (memElem 0x73).site 0 17 0x73 ∧ (memElem 0x74).site 0 17 0x74 ∧ wAuto (c.word 17) = false ∧
    (∃ s1 v, (memElem 0x70).readElem 0 (c.port 0) 0 = .ok (s1, v)) ∧ (∃ s1, (memElem 0x71).writeElem 0 (c.port 0) 0 5 = .ok s1) ∧
    (memElem 0x72).untraced 0 ∧
    (∃ pas, translateRange ((memElem 0x72).pages 0) (wrapVa 0x1000) Need.rw 4 = .ok (0x1000 :: pas)) ∧
    (memElem 0x72).shownWaits 0 = false ∧ (∀ e ∈ c.again, e.1 ≠ 17) ∧
    (∃ s1 old, ((memElem 0x72).settleShown 0 0x1000).homeAmo (wrapVa 0x1000) 0x1000 4 0 5 0 = .ok (s1, old)) ∧
    translate ((memElem 0x73).pages 0) 0x1000 Need.pread = .ok 0x1000 ∧
    (∃ bs, ((memElem 0x73).settleShown 0 0x1000).homeReads 0x1000 ((List.range 8).map (0x1000 + ·)) = .ok bs) ∧ (full (memElem 0x73)).isFull 0x1000 = true ∧
    (memElem 0x73).isFull 0x1000 = false ∧ (memElem 0x73).deferCount (homeSlice 0x1000) < 4096 ∧
    translate ((memElem 0x74).pages 0) 0x1000 Need.pwrite = .ok 0x1000 ∧ (∃ s1, ((memElem 0x74).settleShown 0 0x1000).fillWord 0x1000 0x1000 5 = .ok s1) ∧
    eszBytes (c.port 0).esz = 4 ∧ (∀ j < 4, (memElem 0x70).findWindow 0 (0x1000 + j) = none) ∧
    ∃ pas, translateRange ((memElem 0x70).pages 0) 0x1000 Need.read 4 = .ok pas ∧
      ∀ p ∈ pas, (memElem 0x70).copying p = false ∧ (memElem 0x70).linkFault p = none ∧ (memElem 0x70).poisoned p = false := by
  refine ⟨fired_some (s := memElem 0x70) (by decide), site0 (by decide) (by decide) (by decide), site0 (by decide) (by decide) (by decide),
    site0 (by decide) (by decide) (by decide), site0 (by decide) (by decide) (by decide), site0 (by decide) (by decide) (by decide),
    by decide, ⟨_, _, rfl⟩, ⟨_, rfl⟩, by unfold State.untraced; decide, ⟨_, rfl⟩, by decide, by decide, ⟨_, _, rfl⟩, by decide, ⟨_, rfl⟩, by decide, by decide,
    by decide, by decide, ⟨_, rfl⟩, by decide, by decide, _, rfl, by decide⟩

/-- Core 0 with a control operator at router 17, its state, and tokens at places. -/
def ctl (op rest : Nat) (e : ElemState) (q : SMap (List Slot)) : State :=
  (on { core0 with fab := { routes := [(17, BitVec.ofNat 64 (op * 2 ^ 61 + rest))], q := q } }).updCore 0 fun c => c.setEst (1024 + 17) e

theorem operator0 {s : State} {op : Nat} (h : rCtl ((s.core 0).route 17) = op) (hr : (s.core 0).run ≠ .idle) (hp : (s.core 0).pausedPorts = []) :
    s.operator 0 17 op := ⟨by decide, h, hr, by rw [hp]; exact List.not_mem_nil⟩

/-- Tokens at the operator inputs of router 17. -/
def ab (a b : Token) : SMap (List Slot) := [(2188, [.tok a]), (2189, [.tok b])]

theorem test_meets_ControlOperators :
    let m := Token.marker 0
    let d : Token := ⟨0, 7⟩
    let holds := fun (s : State) (a b : Token) => (s.core 0).input (inPlace 17 4) = some a ∧ (s.core 0).input (inPlace 17 5) = some b ∧
      (s.core 0).queue (ctlT 17) = [] ∧ (s.core 0).queue (ctlF 17) = []
    (ctl 1 0 {} (ab d d)).operator 0 17 1 ∧ holds (ctl 1 0 {} (ab d d)) d d ∧ holds (ctl 1 0 {} (ab m m)) m m ∧ m.isData = false ∧
    (ctl 2 0 {} (ab d d)).operator 0 17 2 ∧ (ctl 2 0 {} (ab d d)).untraced 0 ∧ holds (ctl 2 0 {} (ab d d)) d d ∧
    holds (ctl 2 0 {} (ab m d)) m d ∧ holds (ctl 2 0 {} (ab d m)) d m ∧ ((ctl 2 0 { k := 1 } (ab d d)).core 0).est (1024 + 17) = { k := 1 } ∧
    (ctl 3 0 {} []).operator 0 17 3 ∧ rIn (((ctl 3 0 {} []).core 0).route 17) 0 = 0 ∧
    rIn (((ctl 3 (2 ^ 58) {} (ab d d)).core 0).route 17) 0 = 1 ∧ holds (ctl 3 (2 ^ 58) {} (ab d d)) d d ∧
    (((ctl 3 0 { busy := true } (ab d m)).core 0).est (1024 + 17)).busy = true ∧ holds (ctl 3 0 { busy := true } (ab d m)) d m ∧
    (ctl 4 0 {} (ab d d)).operator 0 17 4 ∧ holds (ctl 4 0 {} (ab d d)) d d ∧
    holds (ctl 4 0 { busy := true } (ab d m)) d m ∧ m.rank? = some (rClvl (((ctl 4 0 { busy := true } (ab d m)).core 0).route 17)) ∧
    (ctl 5 0 {} (ab d d)).operator 0 17 5 ∧ holds (ctl 5 0 {} (ab d d)) d d ∧ holds (ctl 5 0 {} (ab m m)) m m := by
  unfold State.untraced
  and_intros <;> first | exact operator0 (by decide) (by decide) (by decide) | decide

/-- Core 0 with island 0 in a mode, both input sites and output site 0 at router 20. -/
def isle (mode : Nat) : State :=
  on { core0 with fab := { islands := [(0, BitVec.ofNat 64 (mode * 2 ^ 61 + 2 ^ 56 + 2 ^ 55 + 2 ^ 54 + 2 ^ 53 + 20 * 2 ^ 24))],
                           q := [(4096, [.tok ⟨0, 5⟩]), (4097, [.tok ⟨0, 6⟩])] } }

theorem test_meets_IslandsFire :
    let c := (isle 1).core 0
    let w := c.island 0
    ([0, 1].filter fun i => islIn w i) = [0, 1] ∧ ([0, 1].filter fun i => islOut w i) = [0] ∧ islePlace 0 0 ∉ c.pausedPorts ∧
    (∀ i ∈ [0, 1].filter fun i => islIn w i, c.input (islePlace 0 i) = some ⟨0, if i = 0 then 5 else 6⟩) ∧
    (∀ i ∈ [0, 1].filter fun i => islOut w i, (c.queue (elemPlace (islOutRouter w i))).length < 2) ∧ w.testBit 56 = true ∧
    islMode w = 1 ∧ islMode (((isle 2).core 0).island 0) = 2 ∧ cellSE (2 ^ 15) = true ∧ cellSite (2 ^ 12) = 0 + 1 := by decide

/-! ## Anti-tokens, ports, quiescence -/

/-- Core 0 with an anti-token in a reverse slot, and what feeds that place. -/
def anti (dst : Nat) (q : SMap (List Slot)) (routes : SMap (BitVec 64)) : State :=
  on { core0 with fab := { elems := [(17, BitVec.ofNat 64 (0x01 * 2 ^ 56)), (16, BitVec.ofNat 64 (0x01 * 2 ^ 56 + 1 * 2 ^ 46))],
                           routes := routes, q := q, rev := [(dst, 1)], est := [(17, { buf := [⟨0, 1⟩] })] } }

/-- Router 17 sends its element's output west, where element 16 takes it as its input a from the east. -/
def west : SMap (BitVec 64) := [(17, BitVec.ofNat 64 (5 * 2 ^ 43))]

theorem test_meets_AntiTokens :
    let s := anti (inPlace 16 0) [(outPlace 17 3, [.tok ⟨0, 7⟩])] west
    let t := anti (inPlace 16 0) [] west
    let u := anti (outPlace 17 3) [] west
    (s.core 0).run ≠ .idle ∧ inPlace 16 0 ∉ (s.core 0).pausedPorts ∧ (s.core 0).srcOf (inPlace 16 0) = outPlace 17 3 ∧
    isLink (inPlace 16 0) = false ∧ isLink (outPlace 17 3) = false ∧ s.patched 0 (outPlace 17 3) = false ∧ (s.core 0).rev (inPlace 16 0) ≠ 0 ∧ outPlace 17 3 ≠ nowhere ∧
    (s.core 0).queue (outPlace 17 3) = [.tok ⟨0, 7⟩] ∧ inPlace 16 0 ∉ (s.core 0).took (outPlace 17 3) ∧
    ((t.core 0).queue (outPlace 17 3)).head? = none ∧ ((t.core 0).destsOf (outPlace 17 3)).length ≤ 1 ∧ outPlace 17 3 < 1024 ∧
    ((t.core 0).setRev (inPlace 16 0) 0).rev (outPlace 17 3) = 0 ∧
    (u.core 0).srcOf (outPlace 17 3) = elemPlace 17 ∧ ((u.core 0).destsOf (elemPlace 17)).length ≤ 1 ∧
    (u.core 0).heldAt (elemPlace 17) < ((u.core 0).est 17).buf.length ∧ (u.core 0).heldAt (elemPlace 17) < 7 := by
  decide +kernel

/-- Core 0 with port 0. -/
def ported (x : Port) : State := on { core0 with ports := [(0, x)] }

/-- A port in native mode with one segment level, and in compatible mode. -/
def segPort (role : Nat) (compat past : Bool) (fifo : List Token) : Port :=
  { port0 role with
    w3 := BitVec.ofNat 32 (role * 2 ^ 25 + 3 * 2 ^ 23 + compat.toNat * 2 ^ 21 + 2 ^ 18), past := past, fifo := fifo
    idx := if past then [1, 0, 0, 0] else [0, 0, 0, 0] }

theorem test_meets_PortStreams :
    let c := (ported (port0 1)).core 0
    c.run ≠ .idle ∧ feedPlace 0 ∉ c.pausedPorts ∧ sinkPlace 0 ∉ c.pausedPorts ∧ (port0 1).role = 1 ∧ (port0 1).ended = false ∧
    (port0 1).fifo = [] ∧ c.pacer.whold = false ∧ (ported (port0 1)).demOf 0 0 = none ∧
    (segPort 1 false false []).levels[(segPort 1 false false []).ctl]? = some 0 ∧
    (segPort 1 true true []).levels[(segPort 1 true true []).ctl]? = none ∧ (segPort 1 true true []).past = true ∧
    (port0 1).levels[(port0 1).ctl]? = none ∧ (port0 1).past = false ∧
    (∃ v, (ported (port0 1)).readElem 0 (port0 1) (port0 1).off = .ok (ported (port0 1), v)) ∧ { port0 1 with held := 1 }.held ≠ 0 ∧
    (port0 2).role = 2 ∧ { port0 2 with fifo := [⟨0, 5⟩] }.fifo = [⟨0, 5⟩] ∧
    (segPort 2 false false [Token.prefixOf 0 2]).levels[(segPort 2 false false [Token.prefixOf 0 2]).ctl]? = some 0 ∧
    (segPort 2 true true [Token.marker 0]).rankDue = some 0 ∧ (Token.marker 0).rank? = some 0 ∧
    (∃ s1, (ported (port0 2)).writeElem 0 (port0 2) (port0 2).off 5 = .ok s1) ∧
    (port0 1).desc.cnt = [2, 1, 1, 1] ∧ (port0 1).idx = [0, 0, 0, 0] ∧ { port0 1 with idx := [1, 0, 0, 0] }.idx = [1, 0, 0, 0] := by
  and_intros <;> first | exact ⟨_, rfl⟩ | decide

/-- Core 0 after HALT, with nothing in its fabric, 2^20 ticks on. -/
def still : State := { on { core0 with run := .halted } with gtc := 0x100000 }

theorem test_meets_Quiescence : (still.core 0).run ≠ .idle ∧ still.waitsFabric 0 = true ∧ (still.core 0).drained = false ∧
    still.fabricStill 0 = true ∧ ∀ k ∈ still.cmds, k.opc ≠ 0x46#8 := by
  refine ⟨by decide, by decide, by decide, by decide +kernel, by decide⟩

/-! ## Stream commands -/

/-- The words of a command on registers 4 and 5 with nothing else set. -/
def cw : CmdWords where
  ga := 0; gb := 0; hint := 0; prio := 0; close := false; after := false; var := 0
  a := 4; b := 4; c := 5; d := 0; e := 0; mode := 0
  nw := 0; wa := 0; wb := 0; dv := false; dt := 0; mi := 0; tix := 0; w3 := 0

theorem test_meets_CommandsIssue :
    cmdOf (.copy cw) = some (0x30, cw) ∧ (Instr.copy cw).wf = true ∧ (on core0).accepts 0x30 cw ∧ core0.enabled cw ∧
    ¬core0.enabled { cw with mi := 1 } ∧ (on core0).accepts 0x30 { cw with mi := 1 } ∧
    (on { core0 with openBatch := [] }).accepts 0x20 { cw with a := 0, b := 0, c := 0 } ∧
    (Instr.batch { cw with a := 0, b := 0, c := 0 }).wf = true ∧
    ({ core0 with gang := [0], regs := [(0, 2#64)] } : Core).partOf { cw with w3 := 0 } ∧
    ¬({ core0 with rank := 3, regs := [(0, 2#64)] } : Core).partOf { cw with w3 := 0 } := by
  refine ⟨by decide, by decide, ⟨by decide, by decide, by decide, (fun _ h => by cases h), by decide, by decide, by decide⟩,
    by unfold Core.enabled; decide, by unfold Core.enabled; decide,
    ⟨by decide, by decide, by decide, (fun _ h => by cases h), by decide, by decide, by decide⟩,
    ⟨by decide, by decide, by decide, (fun _ h => by cases h), by decide, by decide, by decide⟩, by decide,
    by unfold Core.partOf; decide, by unfold Core.partOf; decide⟩

/-- A command of core 0. -/
def cmd (opc : Nat) (st : CmdState) : Cmd where
  id := 7; owner := .core 0; ctx := 0; pc := 0; soff := 0; opc := BitVec.ofNat 8 opc; var := 0; mode := 0; hint := 0; prio := 0
  a := 0x1000; b := 0x2000; c := 4; d := 0; e := 0; areg := 0; w3 := 0; waits := []; tag := none; accs := []; batch := none
  state := st; tWait := none; done := 0; sub := 0; x0 := 0; x1 := 0; list := []; auction := {}; mask := 0; arm := none

/-- Core 0 with commands. -/
def with_ (ks : List Cmd) : State := { on { core0 with record := { core0.record with pace := 2 } } with cmds := ks, nextCmd := 20 }

theorem test_meets_CommandsRun :
    let k := cmd 0x03 .issued
    let p := { cmd 0x04 .issued with w3 := 3 }
    let h := cmd 0x21 .started
    (with_ [h]).accsDone h = true ∧ h.sub = 0 ∧ { h with accs := [3] }.accs ≠ [] ∧
    (∃ a ∈ ((has (acc .store 8)).core 0).accs, a.id ∈ { h with accs := [3] }.accs) ∧
    (with_ [k]).cmd? 7 = some k ∧ (with_ [k]).mayStart k = true ∧ (with_ [p]).cmd? 7 = some p ∧ (with_ [p]).mayStart p = true ∧
    ((with_ [p]).core 0).record.pace ≠ 0 ∧ p.w3.toNat % 16 ≠ 0 ∧ (with_ [h]).cmd? 7 = some h ∧ h.w3.toNat / 2 ^ 30 = 0 ∧
    (∀ j ∈ (with_ [h]).cmds, j.owner = h.owner → h.id ≤ j.id) ∧
    (∃ i ∈ { cmd 0x30 .issued with id := 8, waits := [7] }.waits, (with_ [k, { cmd 0x30 .issued with id := 8, waits := [7] }]).cmdDone i = false) ∧
    { cmd 0x30 .issued with id := 8 }.id ∈ ({ core0 with openBatch := [8] } : Core).openBatch ∧
    (∃ j ∈ (with_ [h, { cmd 0x30 .issued with id := 8 }]).cmds, j.owner = .core 0 ∧ j.id < 8 ∧ j.opc = 0x21#8 ∧ j.w3.toNat / 2 ^ 28 % 4 ≠ 1) := by
  decide

theorem test_meets_CopyMovesBytes :
    let k := cmd 0x30 .started
    let s := with_ [k]
    let t := with_ [k, { k with id := 8, prio := 1 }]
    let late := { t with gtc := 4096, cmds := [k, { k with id := 8, prio := 2, tServed := 1 }] }
    k.done = 0 ∧ k.list = [] ∧ k.buf = [] ∧ s.accsDone k = true ∧ (∀ j ∈ t.cmds, j.half = []) ∧
    s.cmd? 7 = some k ∧ t.cmd? 7 = some k ∧ k.w3.getLsbD 28 = false ∧ k.w3.getLsbD 29 = false ∧ k.c.toNat ≠ 0 ∧
    (∃ j ∈ t.cmds, j.id ≠ k.id ∧ t.servable 0 j = true ∧ (t.gtc - j.tServed).toNat < 4096 ∧ k.prio < j.prio) ∧
    (∃ j ∈ late.cmds, j.id ≠ 8 ∧ late.servable 0 j = true ∧ 4096 ≤ (late.gtc - j.tServed).toNat) ∧
    (∀ j ∈ s.cmds, j.id ≠ k.id → s.servable 0 j = false) ∧ k.a.toNat + k.c.toNat ≤ 2 ^ 56 ∧
    translateRange (k.tlb ++ s.pages 0) 0x2000 Need.write 4 = .ok [0x2000, 0x2001, 0x2002, 0x2003] ∧
    [0x2000, 0x2001, 0x2002, 0x2003].Nodup ∧
    (∀ j < 4, s.findWindow 0 (0x2000 + j) = none) ∧ (∀ q ∈ [0x2000, 0x2001, 0x2002, 0x2003], s.copying q = false ∧ s.linkFault q = none) ∧
    translateRange (k.tlb ++ s.pages 0) 0x1000 Need.read 4 = .ok [0x1000, 0x1001, 0x1002, 0x1003] ∧
    (∀ j < 4, s.findWindow 0 (0x1000 + j) = none) ∧
    (∀ p ∈ [0x1000, 0x1001, 0x1002, 0x1003], s.copying p = false ∧ s.linkFault p = none ∧ s.poisoned p = false ∧ p ∉ [0x2000, 0x2001, 0x2002, 0x2003]) ∧
    { k with mode := 1 }.mode = 1 := by decide

theorem apart0 : pagesApart [page0] := fun p hp q hq => .inl (by rw [List.mem_singleton.1 hp, List.mem_singleton.1 hq])

theorem test_meets_PagesApart (ks : List Cmd) : pagesApart ((with_ ks).pages 0) ∧ (with_ ks).unpublished 0 :=
  ⟨apart0, fun _ h => nomatch h⟩

/-! ## Engines -/

/-- The result is a value. -/
def ok {ε α : Type} : Except ε α → Bool
  | .ok _ => true
  | .error _ => false

theorem exists_of_ok {ε α : Type} {x : Except ε α} (h : ok x = true) : ∃ a, x = .ok a := by
  cases x with
  | ok a => exact ⟨a, rfl⟩
  | error _ => cases h

/-- A started MM of one element over K = 64 of INT8 operands, A at 0x1000 and B at 0x2000. -/
def mmCmd : Cmd := { cmd 0x40 .started with
  sub := 1, c := 0, d := BitVec.ofNat 64 (64 * 2 ^ 32), list := [
    0x4000000400000000000000000000000000000000000000000000000000000000000001000,
    0x4000000400000000000000000000000000000000000000000000000000000000000002000] }

/-- The same in a core with bytes 3 and 5 at the first places. -/
def mmState (k : Cmd) : State := { with_ [k] with mem := [(0x1000, 3#8), (0x2000, 5#8)] }

/-- An arm of one entry at 0x3000, an MM.ACC.ZERO of one word under mask bit 9. -/
def armed (bit : Nat) : Cmd := { cmd 0x44 .started with a := 0x3000, b := 1, mask := BitVec.ofNat 256 (2 ^ bit) }
def armState (bit : Nat) : State := { with_ [armed bit] with mem := [(0x302C, 0x45#8), (0x302E, 9#8)] }

theorem test_meets_MatrixSteps :
    let s := mmState mmCmd
    let d := { mmCmd with done := 1 }
    s.accsDone mmCmd = true ∧ (s.core 0).tileBad mmCmd = false ∧ (armState 9).accsDone (armed 9) = true ∧
    s.cmd? 7 = some mmCmd ∧ mmCmd.onArray = true ∧ s.overtaken mmCmd = false ∧ mmCmd.list ≠ [] ∧ mmCmd.sub ≠ 0 ∧
    mmCmd.done < mmCmd.ksteps ∧ mmCmd.tA.isInt = true ∧
    (mmState d).cmd? 7 = some d ∧ d.opc.toNat ≤ 0x43 ∧ d.ksteps ≤ d.done ∧
    (∃ x : BitVec 32, (FloatFmt.fp32.decode x.toNat).isNaN = false ∧ (FloatFmt.fp32.decode x.toNat).isInf = false) ∧
    (armState 9).cmd? 7 = some (armed 9) ∧ (armed 9).done < (armed 9).b.toNat ∧ (armed 9).mask.getLsbD 9 = true ∧
    (armed 8).mask.getLsbD 9 = false := by
  and_intros <;> first | exact ⟨0, by decide, by decide⟩ | decide +kernel

/-- The reads of that MM's k-step succeed. -/
theorem test_meets_KstepReads : ∃ s2 rows bs s3 fs,
    (mmState mmCmd).kstepRead mmCmd (mmCmd.k0 + 64 * mmCmd.done) = .ok (s2, rows, bs) ∧
    s2.kstepFactors mmCmd (mmCmd.k0 + 64 * mmCmd.done) = .ok (s3, fs) := by
  have h : (match (mmState mmCmd).kstepRead mmCmd (mmCmd.k0 + 64 * mmCmd.done) with
      | .ok (s2, _, _) => ok (s2.kstepFactors mmCmd (mmCmd.k0 + 64 * mmCmd.done))
      | .error _ => false) = true := by decide +kernel
  split at h
  · next s2 rows bs h1 =>
    obtain ⟨⟨s3, fs⟩, h2⟩ := exists_of_ok h
    exact ⟨s2, rows, bs, s3, fs, h1, h2⟩
  · cases h

/-- The entry that `armState` reads. -/
def armBytes : List Byte := List.replicate 44 0 ++ [0x45#8, 0, 9#8] ++ List.replicate 17 0

theorem test_meets_ArmEntries :
    (match (armState 9).readArm (armed 9) with
     | .ok (s1, bs) =>
       let e := { armCmd (armed 9) 20 armBytes with x1 := 0 }
       decide (bs = armBytes) && s1.mxFree 0 e
         && s1.bestOf (s1.mxRivals 0) { e with id := 7 } && decide (regionErr e = none)
     | .error _ => false) = true ∧
    entryField armBytes 0x2C 1 = 0x45 ∧ entryZeroOk armBytes = true ∧ entryField armBytes 0x2E 1 = 9 ∧
    entryField armBytes 0x2D 1 = 0 ∧ ∀ j ∈ (armState 9).cmds, j.id < (armState 9).nextCmd := by
  and_intros <;> decide +kernel

/-- A started GATHER or SCATTER of one group of two 4-byte rows. -/
def ixCmd (opc op fmt : Nat) (xs : List Nat) : Cmd := { cmd opc .started with
  b := 0x2000, c := BitVec.ofNat 64 (16 * 2 ^ 32 + 4), d := 2, e := 0x3000, w3 := BitVec.ofNat 32 (op * 2 ^ 10 + fmt * 2 ^ 6)
  x1 := 1, list := xs }

/-- The bytes of a 4-byte row. -/
def row (va : Nat) : List Nat := [va, va + 1, va + 2, va + 3]

theorem test_meets_IndexGroups :
    let g := ixCmd 0x50 0 0 [1, 1]
    let k := ixCmd 0x51 0 0 [1, 1]
    (with_ [g]).cmd? 7 = some g ∧ (with_ [g]).ixTurn g = true ∧ g.sub = 0 ∧ g.list ≠ [] ∧ g.rowBytes = 4 ∧
    (∀ x ∈ g.list, translateRange ((with_ [g]).pages 0) (g.rowVa x) Need.read 4 = .ok (row (0x3000 + 4 * x)) ∧
      ∀ p ∈ row (0x3000 + 4 * x), (with_ [g]).copying p = false ∧ (with_ [g]).linkFault p = none ∧ (with_ [g]).poisoned p = false) ∧
    (∀ j < 2, translateRange ((with_ [g]).pages 0) (g.reqVa j) Need.write 4 = .ok (row (0x2000 + 4 * j)) ∧
      (∀ p ∈ row (0x2000 + 4 * j), (with_ [g]).copying p = false ∧ (with_ [g]).linkFault p = none) ∧ ∀ i < 4, (with_ [g]).findWindow 0 (g.reqVa j + i) = none) ∧
    ((List.range 2).flatMap fun j => row (0x2000 + 4 * j)).Nodup ∧
    (with_ [k]).ixTurn k = true ∧ k.scAcc = false ∧ k.scFill = false ∧ scSize k.scFmt = 4 ∧ k.scOp = 0 ∧ k.scFmt < 2 ∧
    (∀ j < 2, translateRange ((with_ [k]).pages 0) (k.reqVa j) Need.read 4 = .ok (row (0x2000 + 4 * j)) ∧
      ∀ p ∈ row (0x2000 + 4 * j), (with_ [k]).copying p = false ∧ (with_ [k]).linkFault p = none ∧ (with_ [k]).poisoned p = false ∧
        p ∉ k.list.flatMap fun x => row (0x3000 + 4 * x)) ∧
    (∀ x ∈ k.list, translateRange ((with_ [k]).pages 0) (k.rowVa x) Need.write 4 = .ok (row (0x3000 + 4 * x)) ∧
      ∀ p ∈ row (0x3000 + 4 * x), (with_ [k]).copying p = false ∧ (with_ [k]).linkFault p = none) ∧
    (k.list.dedup.flatMap fun x => row (0x3000 + 4 * x)).Nodup ∧
    (ixCmd 0x51 3 0 [1, 1]).scOp = 3 ∧ (ixCmd 0x51 4 0 [1, 1]).scOp = 4 := by
  and_intros <;> decide +kernel

/-- An auction of three rows for two columns, of capacities 1 and 2. -/
def auction : Auction where
  scores := [[0x3F800000, 0x40000000], [0x40400000, 0x3F800000], [0x40000000, 0x3F800000]]
  caps := [1, 2]
  prices := [0, 0]
  rows := [.unassigned, .held 0 0x3F800000, .residual]
  eps := 0x3C23D70A
  res := 0xFF800000
  limit := 8

theorem test_meets_AuctionRounds :
    let k := { cmd 0x70 .started with list := [1], auction := auction }
    (with_ [k]).cmd? 7 = some k ∧ (with_ [k]).unitTurn (sameAuc k) k = true ∧ k.auction.pending = true ∧ k.auction.round < k.auction.limit ∧
    k.auction.prices.length = k.auction.caps.length ∧ k.auction.rows[2]? = some RowState.residual ∧
    k.auction.rows[1]? = some (RowState.held 0 0x3F800000) ∧ k.auction.rows[0]? = some RowState.unassigned ∧
    (k.auction.bidOf 0).col = some 1 ∧ ({ auction with res := 0x40800000 }.bidOf 0).col = none := by
  decide +kernel

/-! ## Graphs -/

/-- A node of graph entry 5 on die 1. -/
def node (st : NodeSt) (count : Nat) (succ : List Nat) : NodeEntry where
  st := st; ctx := 0; count := count; home := 1; launch := 5; nix := 0
  nr := { gsize := 1, succ := succ, npred := 2, record := 0x4000, cls := 1, narg := 6 }
  tReady := 0; cores := []; slots := []; fixed := []; ran := []; preemptAt := none; dispatched := 0; held := false; cmdsDone := 0

def launch (nodes : List (Nat × Nat)) (launched : Bool) : LaunchEntry where
  ctx := 0; image := 0x8000; count := 0; arg := 9; gdone := []; launched := launched; order := 0; hdr := { handler := 0x9000 }; recs := []
  nodes := nodes; handles := 0; state := 0; flags := 0; paused := false

/-- Nodes in entries 3 and 4 of die 0, their graph in entry 5 of die 1, core 0 as given. -/
def graph (c : Core) (x y : NodeEntry) : State := { on c with
  dies := [(0, { deps := [(3, .node x), (4, .node y)] }), (1, { deps := [(5, .launch (launch [(0, 3), (0, 4)] true))] })] }

/-- A member of the node in entry 3. -/
def member (r : RunState) : Core := { core0 with run := r, drained := true, nodeDie := 0, nodeEntry := 3, gang := [0] }

theorem test_meets_NodesGo :
    let y := node .wait 1 []
    let m : GraphMsg := ⟨2, 0, 3, 1, false, 0⟩
    let s := { graph core0 (node .wait 2 [1]) y with msgs := [m] }
    let z := { graph core0 (node .wait 2 [1]) y with msgs := [{ m with err := true, cause := 1 }] }
    let r := { node .run 0 [1] with cores := [0] }
    let e := { node .run 0 [1] with nr := { (node .run 0 [1]).nr with kind := 1 } }
    let w := { graph core0 { node .ready 0 [] with nr := { (node .ready 0 []).nr with cls := 3 } } y with gtc := 0 }
    s.node? 0 3 = some (node .wait 2 [1]) ∧ s.launch? 1 5 = some (launch [(0, 3), (0, 4)] true) ∧ s.untraced 0 ∧
    s.firstMsg 2 0 = some m ∧ m.amount ≤ 2 ∧ (node .wait 2 [1]).nr.kind = 0 ∧
    z.firstMsg 2 0 = some { m with err := true, cause := 1 } ∧
    (∃ p ∈ (launch [(0, 3), (0, 4)] true).nodes, p ≠ (0, 3) ∧ ∃ y, s.node? p.1 p.2 = some y ∧ y.st ≠ .done ∧ y.st ≠ .cancelled) ∧
    (∀ n ∈ r.cores, (graph (member .halted) r y).flushWaits n = false ∧ (graph (member .halted) r y).endWaits n = false) ∧
    (graph (member .halted) r y).node? 0 3 = some r ∧ r.cores.all (graph (member .halted) r y).memberOver = true ∧
    e.nr.kind ≠ 0 ∧ e.cores = [] ∧ e.nr.cmds.length ≤ e.cmdsDone ∧ (∀ k ∈ (graph core0 e y).cmds, k.owner ≠ .node 0 3) ∧
    (∃ x, w.node? 0 3 = some x ∧ w.waits x = true ∧ w.nodePrio x = 3 ∧ x.fixed = []) := by
  refine ⟨by decide, by decide, by unfold State.untraced; decide, by decide, by decide, by decide, by decide,
    ⟨(0, 4), by decide, by decide, node .wait 1 [], by decide, by decide, by decide⟩, by decide, by decide, by decide, by decide, by decide, by decide,
    by decide, ⟨_, rfl, by decide, by decide, by decide⟩⟩

/-- The bytes of a record of no stream words at 0x4000, and an image of a fabric that does nothing. -/
def ready1 : State := graph {} { node .ready 0 [] with nr := { (node .ready 0 []).nr with placed := true, region := 2 } } (node .wait 1 [])

/-- A record of no bindings and an image of a fabric that does nothing, one after the other. -/
def recBytes : List Byte :=
  [1, 0, 0, 0, 0x40, 0, 0, 0, 0x40, 0x10, 0, 0, 0, 0, 0, 0, 0, 0, 0, 0, 64, 0, 0, 0, 4, 0, 0, 0] ++ List.replicate 36 0#8 ++
    1#8 :: List.replicate 4159 0#8

/-- The same with the record of its region cached. -/
def ready2 : State := ready1.updCtx 0 fun x => { x with regions := [(2, ⟨0, 3, 1, 0x4000, [(0x4000, recBytes)], (1, 5)⟩)] }

/-- The record is read from its copy, and binds no port. -/
theorem record_read {x : NodeEntry} (hx : ready2.node? 0 3 = some x) : ∃ ld, ready2.recordFor x = (0x4000, .ok ld) ∧ ld.binds = [] := by
  have h : (match ready2.node? 0 3 with
      | some x => (match ready2.recordFor x with | (va, .ok ld) => decide (va = 0x4000) && decide (ld.binds = []) | _ => false)
      | none => false) = true := by decide +kernel
  rw [hx] at h
  dsimp only at h
  split at h
  · next va ld hr =>
    obtain ⟨h1, h2⟩ := Bool.and_eq_true _ _ |>.mp h
    exact ⟨ld, by rw [hr, of_decide_eq_true h1], of_decide_eq_true h2⟩
  · cases h

theorem test_meets_NodeIsDispatched : ∃ x l,
    ready2.node? 0 3 = some x ∧ ready2.waiting 0 = [(0, 3, x)] ∧ (∀ i y, ready2.node? 0 i = some y → y.nr.kind = 0) ∧ x.st = .ready ∧
    (∀ k < 4, ready2.traceMode k ≠ 2) ∧ ready2.launch? x.home x.launch = some l ∧ ready2.untraced x.ctx ∧ ready2.coresFor (0, 3, x) = some [3] ∧ [3].Nodup ∧
    ∃ ld, ready2.recordFor x = (0x4000, .ok ld) ∧ ld.binds = [] := by
  refine ⟨_, _, rfl, by decide, ?_, by decide, by decide +kernel, rfl, by unfold State.untraced; decide, by decide, by decide, record_read rfl⟩
  intro i y hy
  have h : ready2.dep 0 i = if i = 3 then ready2.dep 0 3 else if i = 4 then ready2.dep 0 4 else .free := by
    show SMap.get _ [_, _] i = _
    by_cases h3 : i = 3
    · subst h3; rfl
    · by_cases h4 : i = 4
      · subst h4; rfl
      · simp [SMap.get, h3, h4]
  unfold State.node? at hy
  rw [h] at hy
  split at hy
  · next n hn =>
    cases hy
    split at hn
    · cases hn; rfl
    · split at hn
      · cases hn; rfl
      · cases hn
  · cases hy

/-- A launch request for die 1, by a GLAUNCH or by LAUNCH of window 0, which gathers two requests for an image or none. -/
def request (win : Option Nat) : LaunchReq := ⟨1, 2, 0, 0x8000, 7, none, win⟩
def flight9 : InFlight := { code := 9, flags := 0, seq := 5, args := [] }
def asked (win : Option Nat) (count : Nat) : State := { on core0 with
  ctxs := [(0, { pages := [page0], inFlight := win.map fun _ => flight9 })]
  reqs := [request win]
  dies := if count = 0 then [] else [(1, { deps := [(5, .launch { launch [] false with count := count, arg := 1 })] })] }

/-- A graph of two nodes that waits for its entries. -/
def ready3 : LaunchEntry := { launch [] false with recs := [{ gsize := 1, die := 2 }, { gsize := 1, die := 2, npred := 1 }] }
def toLaunch : State := { on core0 with dies := [(1, { deps := [(5, .launch ready3)] })] }

theorem test_meets_GraphsLaunch :
    let r := request none
    (asked none 2).reqs.head? = some r ∧ r.gdone = none ∧ r.win = none ∧
    (∃ l, (asked none 2).gathering 1 r.ctx r.image = some (5, l) ∧ 1 < l.count) ∧
    (asked none 0).gathering 1 r.ctx r.image = none ∧ (asked none 0).freeEntry 1 = some 0 ∧ 1 < r.join ∧
    (asked (some 0) 0).reqs.head? = some (request (some 0)) ∧ (request (some 0)).win = some 0 ∧
    ((asked (some 0) 0).ctx 0).inFlight = some flight9 ∧ (asked (some 0) 0).freeEntry 1 ≠ none ∧
    toLaunch.launchable 1 = [(5, ready3)] ∧ toLaunch.launch? 1 5 = some ready3 ∧ ready3.recs ≠ [] ∧ ready3.nodes = [] ∧
    ready3.hdr.htab = 0 ∧ (∀ r ∈ ready3.recs, r.kind = 0) ∧
    (toLaunch.reserveNodes ready3 1 5 0 ready3.recs).isSome = true := by
  and_intros <;> first | exact ⟨_, rfl, by decide⟩ | decide +kernel

/-- A node of context 0 that waits on die 0 for a region of core 0, where a node of context 1, which has a save area, runs. -/
def waiter : NodeEntry := { node .ready 0 [] with nr := { (node .ready 0 []).nr with placed := true, region := 2 } }
def victim : NodeEntry := { node .run 0 [] with ctx := 1, cores := [0], ran := [0] }
def crowd : State := { graph (member .running) waiter victim with
  gtc := 0x100000
  ctxs := [(0, { pages := [page0], regions := [(2, ⟨0, 0, 1, 0x4000, [], (1, 5)⟩)] }), (1, { pages := [page0], saveBase := 0x10000#64 })] }

/-- A node that stands at its safe point, its context with a save area and a page for it. -/
def stopped : NodeEntry := { node .run 0 [] with cores := [0], ran := [0], preemptAt := some 0 }
def saver : State := { graph { member .running with stopMask := some 0 } stopped (node .wait 1 []) with
  ctxs := [(0, { pages := [page0, ⟨0x200000, 0x200000, 21, 0x7#16⟩], saveBase := 0x200000#64 })] }

theorem page0_short (va : Nat) (h : 0x10000 ≤ va) : page0.covers va = false := by
  unfold Page.covers page0
  rw [show decide (va < 0 + 2 ^ 16) = false from decide_eq_false (by omega), Bool.and_false]

theorem saver_page (i : Nat) (h : i < imageSize) :
    Machine.translate [page0, ⟨0x200000, 0x200000, 21, 0x7#16⟩] (0x200000 + i) Need.write = .ok (0x200000 + i) := by
  unfold imageSize at h
  have h2 : Page.covers ⟨0x200000, 0x200000, 21, 0x7#16⟩ (0x200000 + i) = true := by
    simp only [Page.covers, Bool.and_eq_true, decide_eq_true_eq]; omega
  have h3 : paExists (0x200000 + i) = true := by
    unfold paExists inHbm hbmEnd; rw [decide_eq_true (by omega)]; rfl
  have h4 : 0x200000 + (0x200000 + i - 0x200000) = 0x200000 + i := by omega
  unfold Machine.translate
  simp only [List.find?, page0_short (0x200000 + i) (by omega), h2, h4, h3]
  rfl

/-- The member of `saver` is saved into slot 0. -/
theorem saver_saves : ∃ u, ([0].foldl State.flushCore saver).saveMembers 0 3 0 ([0].zip (saver.lowSlots 0 1)) = .ok u := by
  rw [show [0].zip (saver.lowSlots 0 1) = [(0, 0)] from by decide +kernel]
  generalize h0 : (((((([0].foldl State.flushCore saver).landFilled 0).flushCore 0).unissueCfg 0).discardBefore 0).restCmds 0) = s0
  have hd : s0.hostDown = false := by rw [← h0]; decide +kernel
  have hm : s0.memPorts = [] := by rw [← h0]; decide +kernel
  have hk : s0.channels = [] := by rw [← h0]; decide +kernel
  have hp : (s0.core 0).ports = [] := by rw [← h0]; decide +kernel
  have hc : (s0.core 0).ctx = 0 := by rw [← h0]; decide +kernel
  have hx : s0.ctxs = saver.ctxs := by rw [← h0]; decide +kernel
  have hctx : s0.ctx 0 = saver.ctx 0 := by unfold State.ctx; rw [hx]
  obtain ⟨u, hu⟩ := State.saveMember_ok (d := 0) (e := 3) (rank := 0) (slot := 0) (fun a => a) h0
    (fun p => by unfold Core.port; rw [hp]; exact ⟨rfl, rfl, rfl⟩)
    (fun i hi => by
      rw [hc]
      unfold State.pages State.slotVa
      rw [hctx]
      exact saver_page i hi)
    (fun va p => by unfold State.blocked State.copying State.linkFault; rw [hd, hm, hk]; simp [SMap.get])
  refine ⟨u, ?_⟩
  rw [State.saveMembers, hu]
  rfl

/-- The same 2^24 ticks after its request, still running. -/
def late : State := { graph (member .running) stopped (node .wait 1 []) with gtc := 0x1000000 }

theorem test_meets_Preemption :
    crowd.node? 0 3 = some waiter ∧ crowd.waits waiter = true ∧
    (4 - waiter.nr.cls) * 2 ^ crowd.ageing waiter.ctx ≤ (crowd.gtc - waiter.tReady).toNat ∧ crowd.coresFor (0, 3, waiter) = none ∧
    crowd.running 0 = [] ∧ crowd.running 1 = [(0, 4, victim)] ∧ crowd.running 2 = [] ∧ crowd.running 3 = [] ∧ victim.preemptAt = none ∧
    crowd.savable victim = true ∧ crowd.blocks 0 waiter = [[0]] ∧
    saver.node? 0 3 = some stopped ∧ stopped.st = .run ∧ stopped.preemptAt ≠ none ∧
    (∀ n ∈ stopped.cores, saver.atSave n = true ∧ saver.flushWaits n = false ∧ (saver.core n).ctx = stopped.ctx) ∧ stopped.cores.Nodup ∧
    (saver.lowSlots 0 1).length = 1 ∧ saver.untraced 0 ∧ (∀ f ∈ saver.deferrals, f.filled = none) ∧
    late.node? 0 3 = some stopped ∧ 2 ^ 24 ≤ (late.gtc - 0).toNat ∧ stopped.nr.kind = 0 ∧
    late.launchesOf (fun l => decide (l.ctx = 0) && decide (l.count = 0)) = [(1, 5)] ∧
    late.launch? 1 5 = some (launch [(0, 3), (0, 4)] true) ∧ (0, 3) ∈ (launch [(0, 3), (0, 4)] true).nodes := by
  unfold State.untraced
  and_intros <;> decide +kernel

/-- A row of member 0 of a group of two, which hosts the arbiter; member 1 is the standby. -/
def demand (round member : Nat) : DemandRow where
  ctx := 0; gid := 4; round := round; member := member; n := 2; arb := 0; stby := 1; exp := 1; rate := 800; guard := 100; lead := 1000
  counts := [8192, 8192]; unused := 0

def dpost : Cmd := { cmd 0x80 .started with sub := 4, list := [1] }

/-- A context whose group 4 is in a round, with its arbiter and time. -/
def inRound (r : Round) (a : Arbiter) (ks : List Cmd) (gtc : Word) : State := { on core0 with
  gtc := gtc, cmds := ks, ctxs := [(0, { pages := [page0], rounds := [(4, r)], arbs := [(4, a)] })] }

/-- A calendar of two phases with one grant to member 1. -/
def cal2 : Calendar := ⟨5, [100, 200, 300], false, [⟨0, 100, 1, 4096⟩], [1], none⟩

theorem test_meets_RoundsRun :
    let waits := inRound { num := 5, isOpen := true } {} [dpost] 50
    let goes := inRound { num := 5, isOpen := true, posted := true, cal := cal2 } {} [] 100
    let ends := inRound { num := 5, isOpen := true, posted := true, cal := cal2, phase := 2 } {} [] 300
    let sent := { cmd 0x81 .started with sub := 4, x1 := 2 }
    let p : Packet := ⟨0, 4, 5, 0, 1, 0x1000, [1#8, 2#8]⟩
    let out := { inRound { num := 5, isOpen := true } {} [sent] 150 with outbox := [.packet none 1 7 p] }
    let done := { cmd 0x82 .started with sub := 4, list := [1] }
    let lost := inRound { num := 5, isOpen := true, posted := true, ended := true, cal := cal2, late := 3 } {} [done] (300 + 2 ^ 30)
    (waits.round 0 4).isOpen = true ∧ (waits.round 0 4).num = cal2.round ∧ (waits.round 0 4).cal.ticks = [] ∧ cal2.ticks ≠ [] ∧
    cal2.copyOf = none ∧ waits.dpostOf 0 4 = some dpost ∧ waits.traceMode 0 ≠ 1 ∧
    (goes.round 0 4).posted = true ∧ (goes.round 0 4).phase + 1 < cal2.ticks.length ∧ cal2.ticks.getD 0 0 ≤ goes.sysTime ∧
    (ends.round 0 4).ended = false ∧ (ends.round 0 4).phase + 1 = cal2.ticks.length ∧ cal2.ticks.getLastD 0 ≤ ends.sysTime ∧
    p.ctx = 0 ∧ p.gid = 4 ∧ (out.ctx 0).recvHold = [] ∧ translateRange (out.pages 0) p.slot.toNat Need.write p.bytes.length = .ok [0x1000, 0x1001] ∧
    [0x1000, 0x1001].Nodup ∧ (∀ q ∈ [0x1000, 0x1001], out.copying q = false ∧ out.linkFault q = none) ∧ (out.round 0 4).isOpen = true ∧
    out.cmd? 7 = some sent ∧ sent.opc = 0x81#8 ∧ 1 + ((out.round 0 4).queue.filter fun q => decide (q.cmd = 7)).length ≤ sent.x1 ∧
    out.outbox = [.packet none 1 sent.id p] ∧ 0 < sent.x1 ∧
    lost.cmds = [done] ∧ done.opc = 0x82#8 ∧ done.ctx = 0 ∧ done.sub = 4 ∧ done.list ≠ [] ∧
    (∃ m ∈ (lost.round 0 4).cal.senders, SMap.get 0 (lost.round 0 4).markers m = 0) ∧
    (lost.round 0 4).cal.ticks.getLastD 0 + 2 ^ 30 ≤ lost.sysTime ∧ (lost.round 0 4).late ≠ 0 := by
  and_intros <;> first | exact ⟨1, by decide, by decide⟩ | decide

theorem test_meets_ArbitersGrant :
    let hosts := inRound { num := 5, isOpen := true, row := some (demand 5 0) } { rows := [demand 5 0] } [] 50
    let far := inRound {} {} [] 50
    let idle := inRound { num := 5, row := some (demand 5 0) } { rows := [demand 5 0] } [] (2 ^ 30)
    let standby := inRound { num := 5, row := some (demand 5 1) } {} [] (3 * 2 ^ 20)
    let posted := inRound { num := 5, isOpen := true } {} [dpost] (2 ^ 30)
    let after := inRound { num := 5, row := some (demand 5 1) } { takenBy := 2, cals := [(0, cal2)] } [] 50
    (demand 5 0).mirror = false ∧ (after.arbiter 0 4).takenBy ≠ 0 ∧ (after.arbiter 0 4).takenBy ≠ (demand 5 0).member + 1 ∧
    (after.arbiter 0 4).cals.find? (fun e => decide (e.1 = (demand 5 0).member) && decide (e.2.round = (demand 5 0).round)) =
      some (0, cal2) ∧
    (hosts.arbiter 0 4).takenBy = 0 ∧ (far.arbiter 0 4).takenBy = 0 ∧ (far.round 0 4).row = none ∧
    (∀ x ∈ (far.arbiter 0 4).rows, x.mirror = true) ∧ (standby.round 0 4).row ≠ none ∧
    (∀ x ∈ (standby.arbiter 0 4).rows, ¬(x.member = 1 ∧ x.round = 5)) ∧ { cal2 with copyOf := some 0 }.copyOf = some 0 ∧
    (∀ x ∈ (hosts.arbiter 0 4).rows, ¬(x.member = (demand 5 1).member ∧ x.round = (demand 5 1).round)) ∧
    (∀ x ∈ (far.arbiter 0 4).rows, ¬(x.member = 1 ∧ x.round = 5)) ∧ far.arbiterHere 0 4 = none ∧
    hosts.arbiterHere 0 4 = some (demand 5 0) ∧
    (∀ x ∈ [demand 5 0, demand 5 1].filter fun x => decide (x.round = 5), sameGroup (demand 5 0) x = true) ∧
    (∀ m < 2, ∃ x ∈ [demand 5 0, demand 5 1].filter fun x => decide (x.round = 5), x.member = m) ∧ hosts.traceMode 0 ≠ 1 ∧
    idle.arbiterHere 0 4 = some (demand 5 0) ∧ idle.calRuns 0 4 = false ∧ 1 ≤ idle.beatsDue 0 4 ∧ (idle.arbiter 0 4).takenBy = 0 ∧
    (standby.round 0 4).row = some (demand 5 1) ∧ standby.arbiterHere 0 4 = none ∧ (demand 5 1).stby = (demand 5 1).member ∧
    (standby.round 0 4).isOpen = false ∧ (standby.arbiter 0 4).takenBy = 0 ∧ 3 ≤ standby.beatsDue 0 4 ∧ standby.calRuns 0 4 = false ∧
    (∃ x ∈ (idle.arbiter 0 4).rows, x.round = (demand 5 0).round) ∧ 2 ^ 30 ≤ (idle.gtc - (idle.arbiter 0 4).firstTick).toNat ∧
    idle.arbiterOf 0 4 = some (demand 5 0) ∧ (demand 5 0).ctx = 0 ∧ (demand 5 0).gid = 4 ∧
    (standby.round 0 4).row = some (demand 5 1) ∧ standby.activeArb (demand 5 1) ≠ (demand 5 1).member ∧
    idle.dpostOf 0 4 = none ∧ posted.dpostOf 0 4 = some dpost ∧ (posted.round 0 4).cal.ticks = [] ∧
    2 ^ 30 ≤ (posted.gtc - BitVec.ofNat 64 dpost.x0).toNat := by
  and_intros <;> first | exact ⟨demand 5 0, by decide, by decide⟩ | decide

/-! ## The host -/

/-- Window 0 with a block, a machine behind it. -/
def asks (s : State) (code : BitVec 16) (flags : BitVec 16) (args : SMap Word) : State :=
  { s with wins := [(0, { code := code, flags := flags, args := args }), (4, { code := code, flags := flags, args := args })] }

/-- The conditions of a doorbell as one test. -/
theorem rings_of {s : State} {w : Nat} {q : BitVec 32} (h : (decide (w < 5) && !s.busy w && (decide (4 ≤ w) || decide (q ≠ (s.win w).rseq))
    && decide ((s.win w).flags.toNat < 4) && (decide (w ≠ 4) || sideBand (s.win w)) && (decide (4 ≤ w) || !s.hostDown)) = true) :
    s.rings w q := by
  simp only [Bool.and_eq_true, Bool.or_eq_true, decide_eq_true_eq, Bool.not_eq_true'] at h
  obtain ⟨⟨⟨⟨⟨h1, h2⟩, h3⟩, h4⟩, h5⟩, h6⟩ := h
  exact ⟨h1, h2, fun hw => h3.resolve_left (by omega), h4, fun hw => h5.resolve_left (by omega), fun hw => h6.resolve_left (by omega)⟩

/-- A graph image at 0x8000: its header's first bytes, by the version it names, and a node record with a gang of so many cores. -/
def imaged (version gsize : Byte) : State :=
  { asks (on core0) 9 0 [(0, 0x8000#64)] with
    mem := [(0x8000, version), (0x8004, 1#8), (0x8006, 2#8), (0x8007, 1#8), (0x8009, 1#8)] ++ if gsize = 0 then [] else [(0x8103, gsize)] }

/-- What LAUNCH finds at its image: a header and node records, well formed or not, or a fault of the header. -/
def finds (s : State) : Except Bool (Bool × Bool) := match s.uncopied.loadEx 0 ((s.win 0).arg 0).toNat 64 with
  | .ok bs => .ok (hdrOk ((s.win 0).arg 0).toNat bs, match s.uncopied.readGraph 0 ((s.win 0).arg 0).toNat 4 with
    | .error (.bad 2) => false
    | _ => true)
  | .error f => .error f.fatal

theorem test_meets_LaunchCommand :
    let bad := asks (on core0) 9 0 [(0, 0x8001#64)]
    (imaged 1 1).rings 0 5 ∧ (imaged 2 1).rings 0 5 ∧ (imaged 1 0).rings 0 5 ∧ { imaged 1 1 with ctxs := [] }.rings 0 5 ∧
    ((imaged 1 1).win 0).code = 9#16 ∧ finds (imaged 1 1) = .ok (true, true) ∧ finds (imaged 1 0) = .ok (true, false) ∧
    finds (imaged 2 1) = .ok (false, false) ∧ finds { imaged 1 1 with poison := [(0x100, .soft)] } = .error true ∧
    finds { imaged 1 1 with ctxs := [] } = .error false ∧ bad.rings 0 5 ∧ ((bad.win 0).arg 0).toNat % 64 ≠ 0 := by
  and_intros <;> first | decide +kernel | exact rings_of (by decide)

theorem test_meets_WindowsAnswer :
    let x : NodeEntry := { node .run 0 [] with cores := [0], ran := [0] }
    let t := { graph { core0 with preempt := false } x (node .wait 1 []) with ctxs := [(0, { pages := [page0], saveBase := 0x10000#64 })] }
    let h := on core0
    let q := asks h 2 0 [(0, 0x113#64)]
    let save := asks h 2 1 [(0, 2#64), (1, 0x20000#64)]
    let ask := asks t 2 1 [(0, 3#64), (1, 1#64)]
    h.hostDown = false ∧ (asks h 1 0 []).rings 0 5 ∧ ((asks h 1 0 []).win 0).code = 1#16 ∧ 0#32 = ((asks h 1 0 []).win 0).rseq ∧
    q.rings 0 5 ∧ (q.win 0).set = false ∧ ((q.win 0).arg 0).toNat = 0x113 ∧
    save.rings 0 5 ∧ (save.win 0).set = true ∧ ((save.win 0).arg 1).toNat % 65536 = 0 ∧ save.launchedIn (· == 0) = false ∧
    save.launchedIn (fun _ => true) = false ∧ ask.rings 0 5 ∧ (ask.ctx 0).saveBase ≠ 0#64 ∧ ask.running 0 = [(0, 3, x)] ∧
    ask.savable x = true ∧ ask.node? 0 3 = some x ∧ (asks h 0x10 0 []).rings 0 5 ∧ 0x10 ≤ (0x10#16).toNat ∧
    sideBand ((asks h 1 0 []).win 4) = false ∧ 0x1000 + 8 ≤ 0x8000000000 ∧ (∀ i < 8, h.copying (0x1000 + i) = false) ∧ ((h.win 0).eprod - 0#32).toNat ≤ 60 := by
  and_intros <;> first | decide +kernel | exact rings_of (by decide)

/-- One of three frames far apart is not the firmware's own. -/
theorem free_frame : ∃ i ∈ [1, 0x1000, 0x2000], reservedFrames (65536 * i) 65536 = false := by
  by_contra hn
  simp only [List.mem_cons, List.not_mem_nil, or_false, not_exists, not_and, Bool.not_eq_false] at hn
  have h1 := hn 1 (.inl rfl)
  have h2 := hn 0x1000 (.inr (.inl rfl))
  have h3 := hn 0x2000 (.inr (.inr rfl))
  unfold reservedFrames Config.scanArea Config.faultRing Config.scanFrames at h1 h2 h3
  generalize Config.scanFrame % (Config.hbmFrames - 0x1A5) = a at h1 h2 h3
  generalize Config.ringFrame % (Config.hbmFrames - 0x1A5) = b at h1 h2 h3
  simp only [Bool.or_eq_true, Bool.and_eq_true, decide_eq_true_eq] at h1 h2 h3
  by_cases hb : b < a <;> simp only [hb, if_true, if_false] at h1 h2 h3 <;> omega

/-- The first frame of the scan area is the firmware's own. -/
theorem scan_frame : reservedFrames Config.scanArea 65536 = true ∧ Config.scanArea % 65536 = 0 ∧
    Config.scanArea + 65536 ≤ 0x8000000000 := by
  have h := Nat.mod_lt Config.scanFrame (y := Config.hbmFrames - Config.scanFrames) (by decide)
  unfold reservedFrames Config.scanArea
  generalize Config.scanFrame % (Config.hbmFrames - Config.scanFrames) = a at h ⊢
  simp only [Bool.or_eq_true, Bool.and_eq_true, decide_eq_true_eq]
  unfold Config.hbmFrames Config.scanFrames at *
  omega

/-- MAP of 64 KiB at 0x10000, readable and presence-capable, over a physical range. -/
def mapAt (pa : Nat) : State := asks (on core0) 3 0 [(0, 0x10000#64), (1, BitVec.ofNat 64 pa), (2, 0x10000#64), (3, 0x47#64)]

theorem test_meets_Map (pa : Nat) : (mapAt pa).rings 0 5 ∧ ((mapAt pa).win 0).code.toNat = 3 ∧
    (mapAt pa).rangeOk 0 0x10000 0x10000 (2 ^ 16) = true ∧ (mapAt pa).noUsers 0 ((mapAt pa).touched 0 0x10000 0x10000) ∧
    ((mapAt pa).touched 0 0x10000 0x10000).all (fun p => !p.pin) = true ∧ pageBits ((0x47#8).toNat / 16 % 4) = some 16 := by
  refine ⟨rings_of rfl, rfl, rfl, ?_, rfl, rfl⟩
  unfold State.noUsers
  exact ⟨rfl, rfl, rfl⟩

/-- The same over a pinned page. -/
theorem test_meets_MapPinned (pa : Nat) :
    let p := { mapAt pa with ctxs := [(0, { pages := [{ page0 with va := 0x10000, attr := 0xCF#16 }] })] }
    p.rings 0 5 ∧ p.rangeOk 0 0x10000 0x10000 (2 ^ 16) = true ∧ (p.win 0).flags.getLsbD 1 = false ∧
    (p.touched 0 0x10000 0x10000).all (fun p => !p.pin) = false :=
  ⟨rings_of rfl, rfl, show (0#16).getLsbD 1 = false from by decide, rfl⟩

theorem test_meets_MapFrames : (∃ pa, reservedFrames pa 65536 = false ∧ pa % 2 ^ 16 = 0 ∧ pa + 65536 ≤ 0x8000000000) ∧
    ∃ pa, reservedFrames pa 65536 = true ∧ pa % 2 ^ 16 = 0 ∧ pa + 65536 ≤ 0x8000000000 := by
  refine ⟨?_, _, scan_frame⟩
  obtain ⟨i, hi, h⟩ := free_frame
  refine ⟨65536 * i, h, ?_⟩
  simp only [List.mem_cons, List.not_mem_nil, or_false] at hi
  omega

/-- UNMAP, INVAL, PIN or UNPIN of the page at 0. -/
def changes (s : State) (code : Nat) : State := asks s (BitVec.ofNat 16 code) 0 [(1, 0x10000#64)]

theorem test_meets_MappingsChange :
    let busy := changes (has (acc .store 8)) 4
    let f : InFlight := { code := 4, flags := 0, seq := 5, args := [], old := [page0], accs := [(0, 3)] }
    let later := (on core0).updCtx 0 fun x => { x with inFlight := some f }
    (∀ code ∈ [4, 5, 6, 7], let u := changes (on core0) code
      (u.win 0).code.toNat = code ∧ u.rangeOk 0 0 0x10000 65536 = true ∧ u.noUsers 0 (u.touched 0 0 0x10000) ∧
      (u.touched 0 0 0x10000).all (fun p => !p.pin) = true) ∧
    (changes (on core0) 4).rings 0 5 ∧ (changes (on core0) 5).rings 0 5 ∧ (changes (on core0) 6).rings 0 5 ∧
    (changes (on core0) 7).rings 0 5 ∧ busy.rings 0 5 ∧ busy.rangeOk 0 0 0x10000 65536 = true ∧
    ¬busy.noUsers 0 (busy.touched 0 0 0x10000) ∧ (busy.touched 0 0 0x10000).all (fun p => !p.pin) = true ∧
    (later.ctx 0).inFlight = some f ∧ later.stillUsed f = false := by
  unfold State.noUsers
  and_intros <;> first | decide +kernel | exact rings_of (by decide)

theorem test_meets_PinnedRefuses : ∀ code ∈ [4#16, 5#16],
    let p := { asks (on core0) code 0 [(1, 0x10000#64)] with ctxs := [(0, { pages := [{ page0 with attr := 0xCF#16 }] })] }
    p.rings 0 5 ∧ p.rangeOk 0 0 0x10000 65536 = true ∧ (p.win 0).flags.getLsbD 1 = false ∧
    (p.touched 0 0 0x10000).all (fun p => !p.pin) = false := by
  intro code hc
  simp only [List.mem_cons, List.not_mem_nil, or_false] at hc
  rcases hc with rfl | rfl <;> exact ⟨rings_of (by decide), by decide, by decide, by decide⟩

/-- A graph image at 0 of host memory for a base address: one section of so many bytes that follow the header. -/
def imageAt (base size : Nat) : Memory :=
  (leBytes 4 0x3130495A ++ leBytes 4 0 ++ leBytes 8 base ++ leBytes 8 112 ++ leBytes 8 size).zipIdx.filterMap fun p =>
    if p.1 = 0#8 then none else some (hostMem + p.2, p.1)

/-- LOADGRAPH of that image into a context with pages and accesses outstanding. -/
def loads (base size : Nat) (len : Word) (accs : List Access) (pages : List Page) : State :=
  { asks (on { core0 with accs := accs }) 8 0 [(1, len)] with ctxs := [(0, { pages := pages })], mem := imageAt base size }

/-- The pages a load replaces. -/
def replaced (s : State) (secs : List (Nat × Nat × Nat × Nat)) : List Page :=
  secs.flatMap fun x => s.touched 0 x.1 (65536 * framesOf x.2.2.1)

/-- The sections of that image, and whether no page that the load replaces reaches past them. -/
def secsOf (s : State) : List (Nat × Nat × Nat × Nat) :=
  (ziSections (s.mem.readBytes (hostPa ((s.win 0).arg 0)) 112) ((s.win 0).arg 1).toNat).getD []
def whole (s : State) : Bool := (secsOf s).all fun x =>
  (s.touched 0 x.1 (65536 * framesOf x.2.2.1)).all fun p => p.within x.1 (65536 * framesOf x.2.2.1)

/-- Where the contexts use at most the first frame, the firmware has a frame to choose. -/
theorem frame_free {s : State} (hs : ∀ c ∈ s.ctxs, ∀ p ∈ c.2.entries, p.pa + 2 ^ p.bits ≤ 65536) : ∃ fr, s.framesFor 1 [fr] ≠ none := by
  obtain ⟨i, hi, h⟩ := free_frame
  refine ⟨65536 * i, ?_⟩
  have hb : 1 ≤ i ∧ i ≤ 0x2000 := by
    simp only [List.mem_cons, List.not_mem_nil, or_false] at hi
    omega
  have hf : s.freeFrame (65536 * i) = true := by
    unfold State.freeFrame hbmEnd
    rw [h, decide_eq_true (by omega), decide_eq_true (by omega)]
    simp only [Bool.not_false, Bool.and_self, Bool.true_and, List.all_eq_true, Bool.or_eq_true, decide_eq_true_eq]
    exact fun c hc p hp => .inl (le_trans (hs c hc p hp) (by omega))
  unfold State.framesFor
  simp [hf]

theorem lowFrames_short (s : State) : ∀ f need i : Nat, (s.lowFrames f need i).length ≤ f
  | 0, _, _ => by simp [State.lowFrames]
  | _ + 1, 0, _ => by simp [State.lowFrames]
  | f + 1, need + 1, i => by
    unfold State.lowFrames
    split
    · exact Nat.succ_le_succ (lowFrames_short s f need (i + 1))
    · exact Nat.le_succ_of_le (lowFrames_short s f (need + 1) (i + 1))

/-- There are never 2^29 frames. -/
theorem no_space (s : State) : s.framesFor (2 ^ 29) [] = none := by
  have h := lowFrames_short s (hbmEnd / 65536) (2 ^ 29) 0
  unfold State.framesFor
  rw [if_neg fun hc => absurd hc.1 (by decide)]
  exact if_neg fun hl => by rw [hl] at h; revert h; decide

theorem test_meets_LoadFrames : (∃ fr, (loads 0x10000 4 0x100 [] []).framesFor 1 [fr] ≠ none) ∧
    ∃ fr, (loads 0 4 0x100 [acc .store 8] [page0]).framesFor 1 [fr] ≠ none := by
  constructor <;> refine frame_free fun c hc p hp => ?_ <;> rw [List.mem_singleton.1 hc] at hp
  · cases hp
  · rw [List.mem_singleton.1 hp]; decide

theorem test_meets_LoadGraph :
    let bare := loads 0x10000 4 0x100 [] []
    let part := loads 0 4 0x100 [] [{ page0 with bits := 21 }]
    let busy := loads 0 4 0x100 [acc .store 8] [page0]
    let huge := loads 0x10000 (2 ^ 45) (BitVec.ofNat 64 (2 ^ 50)) [] []
    bare.rings 0 5 ∧ part.rings 0 5 ∧ busy.rings 0 5 ∧ huge.rings 0 5 ∧ (bare.win 0).code = 8#16 ∧
    secsOf bare ≠ [] ∧ whole bare = true ∧ replaced bare (secsOf bare) = [] ∧ bare.noUsers 0 [] ∧
    whole part = false ∧ whole busy = true ∧ ¬busy.noUsers 0 (replaced busy (secsOf busy)) ∧ whole huge = true ∧
    ((secsOf huge).map fun x => framesOf x.2.2.1).sum = 2 ^ 29 ∧ ((secsOf bare).map fun x => framesOf x.2.2.1).sum = 1 ∧
    ziSections (bare.mem.readBytes (hostPa 0) 112) 0 = none := by
  unfold State.noUsers
  and_intros <;> first | decide +kernel | exact rings_of (by decide)

theorem test_meets_FirmwareActs :
    let g := asks (graph core0 (node .run 0 []) (node .wait 1 [])) 0xA 0 [(0, 0x8000#64)]
    let f : InFlight := { code := 3, flags := 0, seq := 9, args := [] }
    let reset := fun (level : Word) => asks { on core0 with ctxs := [(1, { inFlight := some f })] } 0xD 0 [(0, level)]
    let attest := fun (a : Word) (no : Bool) => asks { on core0 with certsRefused := no } 0xE 0 [(0, a)]
    let at_ := fun (x : Word) => ({ on core0 with stopAt := some x, gtc := 0x500#64 } : State)
    g.rings 0 5 ∧ g.launch? 1 5 = some (launch [(0, 3), (0, 4)] true) ∧
    g.launchesOf (fun l => decide (l.ctx = 0) && decide (l.image = 0x8000) && decide (l.count = 0)) = [(1, 5)] ∧
    (launch [(0, 3), (0, 4)] true).count = 0 ∧ (asks (on core0) 0xA 0 [(0, 0x8001#64)]).rings 0 5 ∧
    (reset 0).rings 0 5 ∧ (reset 0).rings 4 5 ∧ (reset 1).rings 0 5 ∧ (reset 2).rings 0 5 ∧ ((reset 1).win 0).arg 0 = 1#64 ∧
    ((reset 1).win 4).code = 0xD#16 ∧ ((reset 1).ctx 1).inFlight = some f ∧ (reset 1).hostDown = false ∧
    (attest 0 true).rings 0 5 ∧ (attest 0 true).rings 4 5 ∧ (attest 0 false).rings 0 5 ∧ (attest 0 false).rings 4 5 ∧
    (attest (BitVec.ofNat 64 (2 ^ 52)) false).rings 0 5 ∧ (asks (on core0) 0xF 0 [(0, 0x500#64)]).rings 0 5 ∧
    (at_ 0x500).stopAt = some 0x500#64 ∧ (0x500#64 : Word).toNat ≤ (at_ 0x500).gtc.toNat ∧ (at_ 0x501).gtc.toNat < (0x501#64 : Word).toNat := by
  and_intros <;> first | decide +kernel | exact rings_of (by decide)

/-- A snapshot area at 0 with one range, of no bytes, SEQ 3 and PSEQ 1. -/
def area : State := { on core0 with mem := [(0, 1#8), (4, 1#8), (8, 3#8), (0x20, 1#8)] }
def areaOf : SnapArea := ⟨3, 0, 0, 1, [(0, 0)]⟩
def flying : InFlight := { code := 0xB, flags := 0, seq := 5, args := [0, 2, 1, 0, 0, 0, 0] }

theorem test_meets_Snapshots :
    let q := asks area 0xB 0 []
    let b := asks { graph core0 (node .run 0 []) (node .wait 1 []) with mem := area.mem } 0xB 0 []
    let r := asks area 0xC 0 [(1, 2#64)]
    let f := area.updCtx 0 fun x => { x with inFlight := some flying }
    q.rings 0 5 ∧ (q.ctx 0).inFlight = none ∧ q.snapArea 0 0 = some areaOf ∧ q.anyRuns 0 = false ∧ b.rings 0 5 ∧
    b.snapArea 0 0 = some areaOf ∧ b.anyRuns 0 = true ∧ q.readRanges 0 areaOf.ranges = .ok [] ∧
    ok (q.store ⟨0, none, none⟩ 1#2 65536 []) = true ∧ ok (q.store ⟨0, none, none⟩ 1#2 8 (leBytes 8 4)) = true ∧
    r.rings 0 5 ∧ r.snapArea 0 0 = some areaOf ∧ ((r.win 0).arg 1).toNat ≠ r.devId.toNat ∧
    (∀ x ∈ areaOf.ranges, r.rangeMapped 0 Need.write x.1 x.2 = true) ∧ ok (r.writeRanges 0 areaOf.ranges []) = true ∧
    (f.ctx 0).inFlight = some flying ∧ flying.code = 0xB#16 ∧ flying.args.getD 2 0 = 1#64 ∧ f.snapArea 0 0 = some areaOf ∧
    translateRange (area.pages 0) 0 Need.write 0 = .ok [] ∧
    translateRange (area.pages 0) 0x20 Need.write 8 = .ok [0x20, 0x21, 0x22, 0x23, 0x24, 0x25, 0x26, 0x27] ∧ ok (q.storeNow 0 65536 []) = true ∧ ok (q.storeNow 0 8 (leBytes 8 4)) = true ∧
    (∀ p ∈ [0x20, 0x21, 0x22, 0x23, 0x24, 0x25, 0x26, 0x27], area.linkFault p = none) ∧
    ok (area.uncopied.load ⟨0, none, none⟩ 1#2 0 areaOf.slen) = true := by
  and_intros <;> first | decide +kernel | exact rings_of (by decide)

theorem test_meets_LinksAndErrors :
    let d := { still with hostDown := true }
    let x : MemPort := { down := true }
    let v : State := { still with memPorts := [(1, x)] }
    let hbm : SoftError := ⟨.hbm, 0x1000, none⟩
    let c : State := { still with channels := [(channelCode 0x1000, { recent := List.replicate 255 0x100000#64, copying := false })] }
    let walked : State := still.updCore 0 fun c => { c with winClk := 65536 }
    let m : State := { still with channels := [(3, { copying := true })] }
    still.hostDown = false ∧ d.hostDown = true ∧ (still.memPort 1).down = false ∧ (still.memPort 1).lost = false ∧ (v.memPort 1).down = true ∧
    (∀ n < 64, ∀ a ∈ (d.core n).accs, ∀ p ∈ a.pas, d.linkFault p = none) ∧ inHost hostMem = true ∧
    softCode hbm.place ≠ none ∧ (∀ k ∈ still.errorCtxs hbm, still.untraced k) ∧ (∀ k ∈ c.errorCtxs hbm, c.untraced k) ∧ inHbm hbm.pa = true ∧
    255 ≤ ((SMap.get {} c.channels (channelCode hbm.pa)).recent.filter fun t => decide ((c.gtc - t).toNat ≤ 2 ^ 30)).length ∧
    (SMap.get {} c.channels (channelCode hbm.pa)).copying = false ∧ SMap.get 0 c.spares (channelCode hbm.pa / 512) < 2 ∧
    paExists 0x1000 = true ∧ (still.core 0).run ≠ .idle ∧ still.untraced (still.core 0).ctx ∧
    (SMap.get {} m.channels 3).copying = true ∧ 115 * 256 ≤ (0x7300#64).toInt ∧ 65536 ≤ (walked.core 0).winClk ∧
    walked.traceOn (walked.core 0).ctx 9 = false := by
  unfold State.untraced
  and_intros <;> decide +kernel

/-! ## The effects of the commands -/

/-- `with_ ks` with the core and the memory changed. -/
def work (f : Core → Core) (mem : Memory) (ks : List Cmd) : State := { (with_ ks).updCore 0 f with mem := mem }

/-- Port p stands as `x`. -/
def atPort (p : Nat) (x : Port) (c : Core) : Core := { c with ports := [(p, x)] }

/-- Bytes from an address on; they translate to themselves and can be read, or written, in context 0. -/
def run (va n : Nat) : List Nat := (List.range n).map (va + ·)
def reads (s : State) (va n : Nat) : Bool := decide (translateRange (s.pages 0) va Need.read n = .ok (run va n)) &&
  (run va n).all fun p => !s.copying p && decide (s.linkFault p = none) && !s.poisoned p
def writes (s : State) (va n : Nat) : Bool := decide (translateRange (s.pages 0) va Need.write n = .ok (run va n)) &&
  (run va n).all fun p => !s.copying p && decide (s.linkFault p = none)

/-- The descriptor of a pattern of two elements at 0x1000 stands at 0x3000; a PORT.BIND of IN port 3 with it. -/
def bindCmd : Cmd := { cmd 0x10 .issued with a := 0x3000, w3 := BitVec.ofNat 32 (3 * 2 ^ 28 + 2 ^ 25 + 3 * 2 ^ 23) }
def descMem : Memory := [(0x3001, 0x10#8), (0x3008, 2#8), (0x300C, 1#8), (0x3010, 1#8), (0x3014, 1#8), (0x3018, 1#8)]

theorem test_meets_PortBind :
    let s := work id descMem [bindCmd]
    let busy := work (atPort 3 (port0 1)) descMem [bindCmd]
    let p := bindCmd.w3.toNat / 2 ^ 28
    s.cmd? 7 = some bindCmd ∧ busy.cmd? 7 = some bindCmd ∧ s.accsDone bindCmd = true ∧ s.mayStart bindCmd = true ∧ busy.mayStart bindCmd = true ∧
    s.bindPending bindCmd p = false ∧ busy.bindPending bindCmd p = false ∧ (s.core 0).elemsNaming p = [] ∧ (busy.core 0).elemsNaming p = [] ∧
    s.flushWaits 0 = false ∧ busy.flushWaits 0 = false ∧
    s.streamQuiet 0 p = true ∧ busy.streamQuiet 0 p = false ∧ ok ((busy.started bindCmd).readBind 0 bindCmd.w3 bindCmd.a.toNat) = true ∧
    (match (s.started bindCmd).readBind 0 bindCmd.w3 bindCmd.a.toNat with
      | .ok (s1, d) => decide (d.wlen = 0) && !s1.windowClash 0 p 0 0
      | .error _ => false) = true := by
  and_intros <;> decide +kernel

/-- PORT.FEED of two data tokens and a marker to FEED port 3; PORT.TAKE with SKIP from TAKE port 3; a COPY.DEM of two chunks of 8
bytes for IN port 3. -/
def feedCmd : Cmd := { cmd 0x11 .issued with w3 := BitVec.ofNat 32 (3 * 2 ^ 28 + 2 * 2 ^ 25 + 2 ^ 21) }
def takeCmd : Cmd := { cmd 0x12 .started with areg := 6, w3 := BitVec.ofNat 32 (3 * 2 ^ 28 + 2 ^ 27) }
def demCmd : Cmd := { cmd 0x32 .started with a := 0x1000, b := 0x2000, c := 8, d := 2, w3 := BitVec.ofNat 32 (2 ^ 25 + 3 * 2 ^ 21) }

theorem test_meets_PortCommands :
    let feeds (n : Nat) := work (atPort 3 { port0 3 with fifo := List.replicate n ⟨0, 5⟩ }) [] [feedCmd]
    let takes (ts : List Token) := work (atPort 3 { port0 4 with fifo := ts }) [] [takeCmd]
    let x : Port := { port0 1 with desc := { (port0 1).desc with base := 0x2000 } }
    let dem := work (atPort 3 x) [] [demCmd]
    feedCmd.w3.toNat / 2 ^ 28 = 3 ∧ takeCmd.w3.toNat / 2 ^ 28 = 3 ∧ feedCmd.w3.toNat / 2 ^ 25 % 8 = 2 ∧
    (∀ n ∈ [0, 15], (feeds n).cmd? 7 = some feedCmd ∧ (feeds n).accsDone feedCmd = true ∧ (feeds n).mayStart feedCmd = true ∧
      (feeds n).bindPending feedCmd 3 = false ∧ ((feeds n).core 0 |>.port 3).role = 3 ∧ (feeds n).outPending 0 3 = none) ∧
    (feedTokens feedCmd).length = 3 ∧ (∀ ts ∈ [[], [Token.marker 0], [Token.marker 0, ⟨0, 5⟩]], (takes ts).cmd? 7 = some takeCmd ∧
      (takes ts).takersBefore takeCmd 3 = false ∧ (takes ts).accsDone takeCmd = true) ∧
    dem.cmd? 7 = some demCmd ∧ dem.accsDone demCmd = true ∧ dem.demOf 0 3 = some demCmd ∧ (dem.core 0).run ≠ .idle ∧
    feedPlace 3 ∉ (dem.core 0).pausedPorts ∧ x.role = 1 ∧ x.ended = false ∧ x.fifo = [] ∧ x.levels[x.ctl]? = none ∧ x.past = false ∧
    demCmd.slotOf (x.addrOf x.off).1 = some ((x.visits - demCmd.x0) % demCmd.slots) ∧ x.visits - demCmd.x0 < demCmd.d.toNat ∧
    demCmd.done < (x.visits - demCmd.x0 + 1) * demCmd.c.toNat := by
  and_intros <;> decide +kernel

/-- CFG.LOAD or CFG.RECONF of the record at 0x4000. -/
def loadCmd (opc : Nat) : Cmd := { cmd opc .started with a := 0x4000 }
def recMem : Memory := recBytes.zipIdx.filterMap fun p => if p.1 = 0#8 then none else some (0x4000 + p.2, p.1)
def loading (opc : Nat) : State := work id recMem [loadCmd opc]

/-- Code of context 0 at low addresses is what memory holds. -/
def lowCode (s : State) : RecSource := fun va n => if va + n ≤ 0x10000 then .ok (s.mem.readBytes va n) else s.loadEx 0 va n

theorem loadEx_low {s : State} (hp : s.pages 0 = [page0]) (hc : s.channels = []) (hd : s.hostDown = false) (hm : s.memPorts = [])
    (hx : s.poison = []) : s.loadEx 0 = lowCode s := by
  funext va n
  unfold lowCode
  split
  · next h =>
    refine State.loadEx_ok (fun i hi => ?_) (fun v i hi => ?_)
    · rw [hp]
      have h1 : page0.covers (va + i) = true := by
        simp [Page.covers, page0]; omega
      have h3 : paExists (va + i) = true := by
        unfold paExists inHbm hbmEnd; rw [decide_eq_true (by omega)]; rfl
      unfold Machine.translate
      simp only [List.find?, h1]
      simp [h3, page0, Page.valid, Page.rd, Page.wr, Page.ex, Page.presence, Need.fetch]
    · unfold State.blocked State.copying State.linkFault State.poisoned State.poisonAt State.expanderGone
      rw [hd, hm, hc, hx]; simp [SMap.get]
  · rfl

/-- The record is read, and binds no port. -/
def bindsNone : Except RecErr Loaded → Bool
  | .ok l => decide (l.binds = [])
  | .error _ => false

theorem record_loads : ∃ l, (loading 0).readRecord 0 0x4000 (fun _ => false) = .ok l ∧ l.binds = [] := by
  have h : bindsNone ((loading 0).readRecordFrom (lowCode (loading 0)) 0 0x4000 fun _ => false) = true := by decide +kernel
  have e : (loading 0).readRecord 0 0x4000 (fun _ => false) = (loading 0).readRecordFrom (lowCode (loading 0)) 0 0x4000 fun _ => false := by
    unfold State.readRecord
    rw [loadEx_low rfl rfl rfl rfl rfl]
  rw [← e] at h
  generalize (loading 0).readRecord 0 0x4000 (fun _ => false) = r at h
  cases r with
  | ok l => exact ⟨l, rfl, of_decide_eq_true h⟩
  | error _ => cases h

/-- Installing a record that binds no port succeeds. -/
theorem installs {l : Loaded} (hb : l.binds = []) (s : State) (n va : Nat) : ∃ t, s.install n va l false = .ok t := by
  unfold State.install
  rw [hb]
  exact ⟨_, rfl⟩

theorem test_meets_ConfigLoads :
    let s := loading 0
    let k := loadCmd 0
    s.cmd? 7 = some k ∧ s.accsDone k = true ∧ s.earlier k = [] ∧ (s.core 0).accs = [] ∧ (s.core 0).loadOver = true ∧
    (s.core 0).preempt = false ∧ s.flushWaits 0 = false ∧ s.endWaits 0 = false ∧
    ∃ l, s.readRecord 0 0x4000 (fun p => false && decide (((s.core 0).port p).role = 5)) = .ok l ∧
      s.flushBanks 0 (s.banksChanged 0 l.binds false) = s ∧ ∃ s1, (s.endLoad 0).install 0 0x4000 l false = .ok s1 := by
  refine ⟨by decide, by decide, by decide, by decide, by decide, by decide, by decide, by decide, ?_⟩
  obtain ⟨l, hl, hb⟩ := record_loads
  exact ⟨l, hl, by rw [hb]; rfl, installs hb _ _ _⟩

/-- A CFG.PATCH of one entry, which gives router 17 the switch field 1 of its last output. -/
def patchCmd (st : CmdState) : Cmd := { cmd 0x01 st with a := 0x3000, w3 := 1 }
def patchMem : Memory := [(0x3000, 1#8), (0x3003, 17#8)]

theorem test_meets_ConfigPatch :
    let k := patchCmd .issued
    let s := work id patchMem [k]
    let j : Cmd := { patchCmd .started with sub := 1, list := [0x11000001] }
    let t := work id [] [j]
    let held := work (fun c => { c with fab := { c.fab with q := [(outPlace 17 3, [.tok ⟨0, 5⟩])] } }) [] [j]
    s.cmd? 7 = some k ∧ s.mayStart k = true ∧ s.accsDone k = true ∧ k.w3.toNat % 512 = 1 ∧ k.a.toNat % 4 = 0 ∧
    (match (s.started k).load k.windowAgent k.hint 0x3000 4 with
      | .ok (s1, bs) => decide (leNat bs = 0x11000001) && decide (leNat bs / 2 ^ 12 % 4096 = 0)
          && decide (routingCycle (fun r => (SMap.get 0#64 (patchRoutes (s1.routesBefore 0 k.id) [leNat bs]) r).toNat) = none)
      | .error _ => false) = true ∧
    t.cmd? 7 = some j ∧ t.accsDone j = true ∧ (∀ i ∈ t.patches 0, 7 ≤ i.id) ∧
    (∀ x < 1024, switches (t.core 0).fab.routes j.list x = true →
      (t.core 0).queue x = [] ∧ (t.core 0).rev x = 0 ∧ (t.core 0).cancels x = 0) ∧
    switches (held.core 0).fab.routes j.list (outPlace 17 3) = true ∧ (held.core 0).queue (outPlace 17 3) ≠ [] := by
  and_intros <;> decide +kernel

/-- A COPY of one row of 16 bytes, and a gather COPY.IND of one row that the index 2 at 0x1000 names. -/
def rowCopy : Cmd := { cmd 0x30 .started with c := 16 }
def indCmd : Cmd := { cmd 0x33 .started with c := 8, d := 1, e := 0x3000 }

theorem test_meets_CopyPieces :
    let at_ := fun (va : Nat) => (List.range 8).map (va + ·)
    (∀ k ∈ [rowCopy, demCmd, indCmd], let s := work id [(0x1000, 2#8)] [k]
      let r := k.done / k.rowLen
      let q := k.done % k.rowLen
      let j := if k.opc = 0x33#8 ∧ q = 0 then { k with x0 := 2 } else k
      s.cmd? 7 = some k ∧ s.accsDone k = true ∧ k.fills = false ∧ (k.opc = 0x30#8 → k.mode = 0 ∧ k.done ∉ k.list) ∧ k.buf = [] ∧
      k.done < k.total ∧ (∀ i ∈ s.cmds, i.half = []) ∧ (∀ i ∈ s.cmds, i.id ≠ k.id → s.servable 0 i = false) ∧ s.ringOpen 0 k = true ∧
      j.srcVa r q % 8 = 0 ∧ j.dstVa r q % 8 = 0 ∧ q + 8 ≤ k.rowLen ∧ j.sharesWord r (j.dstVa r q) = false ∧ j.slotsAt (j.dstVa r q) ≤ 1 ∧
      translateRange (s.pages 0) (j.srcVa r q) Need.read 8 = .ok (at_ (j.srcVa r q)) ∧
      translateRange (s.pages 0) (j.dstVa r q) Need.write 8 = .ok (at_ (j.dstVa r q)) ∧ (at_ (j.dstVa r q)).Nodup ∧
      ∀ i < 8, s.findWindow 0 (j.srcVa r q + i) = none ∧ s.findWindow 0 (j.dstVa r q + i) = none ∧
        s.copying (j.srcVa r q + i) = false ∧ s.linkFault (j.srcVa r q + i) = none ∧ s.poisoned (j.srcVa r q + i) = false ∧
        s.copying (j.dstVa r q + i) = false ∧ s.linkFault (j.dstVa r q + i) = none) ∧
    (let s := work id [(0x1000, 2#8)] [indCmd]
     let j := { indCmd with x0 := 2 }
     translateRange (s.pages 0) (wrapVa (indCmd.a.toNat + 0 * indCmd.indSize)) Need.read indCmd.indSize = .ok [0x1000, 0x1001] ∧
     2 = leNat ([0x1000, 0x1001].map s.mem.read) ∧ ok (translateRange (s.pages 0) (j.srcVa 0 0) Need.read 8) = true ∧
     ok (translateRange (s.pages 0) (j.dstVa 0 0) Need.write 8) = true) ∧
    (let k := { demCmd with d := 4, done := 16 }
     let s := work id [] [k]
     k.opc = 0x32#8 ∧ k.slots ≤ k.done / k.rowLen ∧ k.done < k.total ∧
     ((s.core 0).port (k.w3.toNat / 2 ^ 21 % 16)).visits - k.x0 < k.done / k.rowLen - k.slots + 1) := by
  decide +kernel

/-- A COPY.MC from core 0 to its gang of two, both with a ring of two chunks of 8 bytes at 0x2000. -/
def mcCmd (id n done : Nat) (buf : SMap Byte) : Cmd :=
  { cmd 0x31 .started with id := id, owner := .core n, c := 8, d := 2, e := 3, w3 := BitVec.ofNat 32 (2 ^ 25), done := done, buf := buf }

/-- The members' cores with those commands. -/
def casting (done : Nat) (buf : SMap Byte) : State := { with_ [mcCmd 7 0 done buf, mcCmd 8 1 done []] with
  cores := [(0, { core0 with gang := [0, 1] }), (1, { core0 with gang := [0, 1], rank := 1 })] }

theorem test_meets_Multicasts :
    let at_ := fun (va : Nat) => (List.range 8).map (va + ·)
    let full : SMap Byte := (List.range 8).map fun i => (i, 5#8)
    (∀ buf ∈ [[], full], let s := casting 0 buf
      let root := mcCmd 7 0 0 buf
      let j := mcCmd 8 1 0 []
      s.cmd? 7 = some root ∧ s.cmd? 8 = some j ∧ s.mcOn root 1 = some j ∧ s.mcOn j 0 = some root ∧ ((s.core 1).members 1)[j.rootRank]? = some 0 ∧
      s.runs root = true ∧ s.runs j = true ∧ j.done < root.total ∧ s.mcOpen 1 root j = true ∧
      (∀ i ∈ s.cmds, i.id ≠ 7 → s.servable 0 i = false) ∧ (∀ i ∈ s.cmds, i.half = []) ∧ root.mcLen 0 = 8 ∧ root.dstVa 0 0 = 0x2000 ∧
      translateRange (s.pages 0) 0x2000 Need.write 8 = .ok (at_ 0x2000) ∧ root.slotsAt 0x2000 ≤ 1 ∧ (at_ 0x2000).Nodup ∧
      root.mcMissing 0 8 = (if buf = [] then some 0 else none) ∧ wrapVa root.a.toNat = 0x1000 ∧
      translateRange (s.pages 0) 0x1000 Need.read 8 = .ok (at_ 0x1000) ∧
      ∀ i < 8, s.findWindow 0 (0x1000 + i) = none ∧ s.findWindow 1 (0x2000 + i) = none ∧ s.copying (0x1000 + i) = false ∧
        s.linkFault (0x1000 + i) = none ∧ s.poisoned (0x1000 + i) = false ∧ s.copying (0x2000 + i) = false ∧ s.linkFault (0x2000 + i) = none) ∧
    (let s := casting 16 []
     let root := mcCmd 7 0 16 []
     s.cmd? 7 = some root ∧ s.runs root = true ∧ s.isRoot 0 root = true ∧
     ∀ p ∈ root.mcCores ((s.core 0).members 0), s.mcOn root p.1 = some (if p.1 = 0 then root else mcCmd 8 1 16 []) ∧ root.total ≤ 16) := by
  decide +kernel

/-- An MM.ACC form on a region of two rows of one element at 0x1000, rows 8 bytes apart: the form, the format, the elements done. -/
def accCmd (var fmt done : Nat) : Cmd :=
  { cmd 0x45 .started with var := BitVec.ofNat 4 var, b := 8, c := 1, w3 := BitVec.ofNat 32 (fmt * 2 ^ 29), done := done }

theorem test_meets_AccumulatorMoves :
    let four := fun (va : Nat) => (List.range 4).map (va + ·)
    (∀ k ∈ [accCmd 0 0 0, accCmd 1 0 0, accCmd 2 0 1, accCmd 2 1 0, accCmd 1 0 2, accCmd 2 0 2], let s := work id [] [k]
      s.cmd? 7 = some k ∧ s.runs k = true ∧ k.buf = [] ∧ k.regRow + k.regM ≤ 256 ∧ k.regCol + k.regN ≤ 192 ∧ k.regM * k.regN = 2) ∧
    wrapVa (0x1000 + (0 / 1 : Nat) * sx 8 64 + (4 * (0 % 1) : Nat)) = 0x1000 ∧
    wrapVa (0x1000 + (1 / 1 : Nat) * sx 8 64 + (4 * (1 % 1) : Nat)) = 0x1008 ∧
    (∀ va ∈ [0x1000, 0x1008], let s := work id [] [accCmd 1 0 0]
      translateRange (s.pages 0) va Need.read 4 = .ok (four va) ∧ translateRange (s.pages 0) va Need.write 4 = .ok (four va) ∧
      ∀ i < 4, s.findWindow 0 (va + i) = none ∧ s.copying (va + i) = false ∧ s.linkFault (va + i) = none ∧ s.poisoned (va + i) = false) ∧
    ((work id [] [accCmd 2 0 1]).core 0).accReadBad (accCmd 2 0 1) 1 = false ∧ ((List.range 2).flatMap fun y => four (0x1000 + 8 * y)).Nodup ∧
    ((work id [] []).core 0).rlx 0 = false := by
  decide +kernel

/-- An MM.OUT of one word to FEED port 3 that has put so many tokens into its FIFO, and that port. -/
def outCmd (x0 : Nat) : Cmd := { cmd 0x46 .started with c := 0, x0 := x0, w3 := BitVec.ofNat 32 (3 * 2 ^ 27) }
def outPort (feeds : Nat) (fifo : List Token) : Port := { port0 3 with fifo := fifo, feeds := [(7, feeds)] }

theorem test_meets_TilesGoOut :
    let k := outCmd 1
    let x := outPort 15 (List.replicate 15 ⟨0, 5⟩)
    let s := work (atPort 3 x) [] [k]
    let c := s.core 0
    let next := { x with fifo := x.fifo ++ [c.outToken k x.compat s.free k.x0], feeds := [(k.id, 16)] }
    let e := work (atPort 3 (outPort 1 [])) [] [outCmd 3]
    s.cmd? 7 = some k ∧ s.runs k = true ∧ k.outPort = 3 ∧ s.outPending 0 3 = some k ∧ x.fifo.length = 15 ∧
    (∀ y ∈ k.outCell x.compat k.x0, c.accBad k.bank y.1 y.2 = false) ∧
    Core.settle (feedPlace 3) settleFuel (c.setPort 3 next) = c.setPort 3 next ∧
    e.cmd? 7 = some (outCmd 3) ∧ e.runs (outCmd 3) = true ∧ e.outPending 0 3 = none ∧ (outCmd 3).outTotal false = 3 ∧
    (outPort 1 []).compat = false ∧ (outPort 1 []).bindCmd = none ∧ (outPort 1 []).feeds = [(7, 1)] := by
  decide +kernel

/-- INTERSECT of the lists 1, 3 at 0x1000 and 3 at 0x2000, with CPF, and IX.COUNT of the list 1, 3 into 4 bins with ranks. -/
def joinCmd : Cmd := { cmd 0x52 .started with c := 0x3000, d := BitVec.ofNat 64 (2 ^ 32 + 2), e := 0x4000, w3 := BitVec.ofNat 32 (2 ^ 29) }
def countCmd : Cmd := { cmd 0x53 .started with b := 0x2000, c := 0x3000, d := 2, e := 0x4000, w3 := BitVec.ofNat 32 (3 * 2 ^ 18) }
def joining (k : Cmd) : State := work id [(0x1000, 1#8), (0x1002, 3#8), (0x2000, 3#8)] [k]

theorem test_meets_KeyLists :
    let s := joining joinCmd
    let found := (List.range [1, 3].length).filterMap fun i => ([3].idxOf? ([1, 3].getD i 0)).map fun j => ([1, 3].getD i 0, i, j)
    s.cmd? 7 = some joinCmd ∧ s.runs joinCmd = true ∧ s.ixTurn joinCmd = true ∧ joinCmd.w3.getLsbD 29 = true ∧
    joinCmd.d.toNat % 2 ^ 32 = 2 ∧ joinCmd.d.toNat / 2 ^ 32 = 1 ∧ found = [(3, 1, 0)] ∧
    [0x1000, 0x1002, 0x2000].map (fun va => leNat ((run va 2).map s.mem.read)) = [1, 3, 3] ∧ reads s 0x1000 4 = true ∧ reads s 0x2000 2 = true ∧
    writes s 0x3000 16 = true ∧ writes s 0x4000 8 = true ∧ translateRange (s.pages 0) 0x4000 Need.pwrite 8 = .ok (run 0x4000 8) ∧
    s.isFull 0x4000 = false ∧ (run 0x1000 4 ++ run 0x2000 2 ++ run 0x3000 16 ++ run 0x4000 8).Nodup := by
  and_intros <;> decide +kernel

theorem test_meets_KeyCounts :
    let s := joining countCmd
    s.cmd? 7 = some countCmd ∧ s.runs countCmd = true ∧ s.ixTurn countCmd = true ∧ countCmd.w3.toNat / 2 ^ 18 % 4096 + 1 = 4 ∧
    [0x1000, 0x1002].map (fun va => leNat ((run va 2).map s.mem.read)) = [1, 3] ∧ reads s 0x1000 4 = true ∧
    writes s 0x2000 16 = true ∧ writes s 0x3000 20 = true ∧ writes s 0x4000 8 = true ∧
    (run 0x2000 16 ++ run 0x3000 20 ++ run 0x4000 8).Nodup := by
  and_intros <;> decide +kernel

/-- An AUC whose rounds are over, an AUC.PRICE, with their lists at 0x3000, 0x4000 and 0x5000. -/
def doneAuc (opc : Nat) : Cmd := { cmd opc .started with list := [0x3000, 0x4000, 0x5000], auction := { auction with round := 8 } }

theorem test_meets_AuctionsWrite : ∀ opc ∈ [0x70, 0x71],
    let k := doneAuc opc
    let s := with_ [k]
    let n := if opc = 0x71 then 48 else 6
    let m := if opc = 0x71 then 0 else 8
    s.cmd? 7 = some k ∧ s.unitTurn (sameAuc k) k = true ∧ k.auction.limit ≤ k.auction.round ∧ k.auction.rows.length = 3 ∧
    k.auction.prices.length = 2 ∧ writes s 0x3000 n = true ∧ writes s 0x4000 m = true ∧ writes s 0x5000 8 = true ∧
    translate (s.pages 0) 0x5000 Need.pwrite = .ok 0x5000 ∧ s.isFull 0x5000 = false ∧
    (run 0x3000 n ++ run 0x4000 m ++ run 0x5000 8).Nodup := by
  decide +kernel

/-- A SEL form of two lines of two FP16 scores at 0x1000, the greatest of each with its weight. -/
def selCmd (opc : Nat) : Cmd := { cmd opc .started with
  b := BitVec.ofNat 64 (2 * 2 ^ 32 + 2), c := 4, d := 0x3000, e := 0x4000, w3 := BitVec.ofNat 32 (8 * 2 ^ 22) }

theorem test_meets_SelectionsWrite : ∀ opc ∈ [0x60, 0x61],
    let k := selCmd opc
    let s := with_ [k]
    s.cmd? 7 = some k ∧ s.unitTurn Cmd.isSel k = true ∧ k.b.toNat % 2 ^ 32 = 2 ∧ k.b.toNat / 2 ^ 32 = 2 ∧ k.w3.toNat / 2 ^ 26 + 1 = 1 ∧
    k.w3.getLsbD 20 = false ∧ k.w3.toNat / 2 ^ 22 % 16 = 8 ∧
    (∀ l < 2, ∀ x < 2, reads s (wrapVa (k.a.toNat + (if opc = 0x60 then l * k.c.toNat + x * 2 else x * k.c.toNat + l * 2 : Nat))) 2 = true) ∧
    (∀ l < 2, writes s (wrapVa (k.d.toNat + (l * 1 * 2 : Nat))) 2 = true ∧ writes s (wrapVa (k.e.toNat + (l * 1 * 4 : Nat))) 4 = true) ∧
    (run 0x1000 8 ++ run 0x3000 4 ++ run 0x4000 8).Nodup := by
  decide +kernel

/-- A NODE.SIG of the node in entry 3 of die 0, which waits for 2, by so much. -/
def sigCmd (st : CmdState) (dec : Nat) : Cmd := { cmd 0x92 st with a := 3, w3 := BitVec.ofNat 32 dec }

theorem test_meets_NodeSignals :
    let x := node .wait 2 [1]
    let s (ks : List Cmd) : State := { graph core0 x (node .wait 1 []) with cmds := ks }
    (s [sigCmd .issued 1]).node? 0 3 = some x ∧ (s [sigCmd .issued 1]).launch? 1 5 = some (launch [(0, 3), (0, 4)] true) ∧
    (s [{ cmd 0x30 .started with id := 6 }, sigCmd .issued 1]).earlier (sigCmd .issued 1) ≠ [] ∧
    (s [{ cmd 0x30 .started with id := 6 }, sigCmd .issued 1]).cmd? 7 = some (sigCmd .issued 1) ∧
    (∀ dec ≤ 2, (s [sigCmd .started dec]).cmd? 7 = some (sigCmd .started dec) ∧ (s [sigCmd .started dec]).runs (sigCmd .started dec) = true ∧
      (sigCmd .started dec).w3.toNat % 256 = dec) ∧ x.nr.kind = 0 ∧ x.ctx = 0 := by
  decide +kernel

/-- A GLAUNCH of the image at 0x8000, and its request at die 1; GDONE or not. -/
def glaunch (st : CmdState) (gdone : Nat) : Cmd := { cmd 0x91 st with a := 0x8000, b := 9, w3 := BitVec.ofNat 32 (gdone * 2 ^ 31) }
def asking (gdone count : Nat) : State := { asked none count with
  cmds := [glaunch .started gdone], reqs := [{ request none with gdone := some 7 }] }

theorem test_meets_CommandsLaunch :
    let s := { imaged 1 1 with cmds := [glaunch .issued 0] }
    s.cmd? 7 = some (glaunch .issued 0) ∧ s.mayStart (glaunch .issued 0) = true ∧ s.accsDone (glaunch .issued 0) = true ∧
    ok (s.uncopied.loadEx 0 0x8000 64) = true ∧
    (∀ g < 2, ∀ n ∈ [0, 2], (asking g n).cmd? 7 = some (glaunch .started g) ∧ ((asking g n).reqs.head?.map fun r => (r.home, r.gdone, r.win)) =
      some (1, some 7, none) ∧ (glaunch .started g).w3.getLsbD 31 = decide (g = 1)) ∧
    (asking 0 0).freeEntry 1 = some 0 ∧ (∃ e ∈ (asking 1 2).gathering 1 0 0x8000, 1 < e.2.count) ∧
    ∃ i ∈ { launch [(0, 3)] true with gdone := [7] }.gdone, i = 7 := by
  decide +kernel

/-- A PLACE of one expert on die 0 with 5 tokens: its record, for a gang of 16, at 0x4000. -/
def placeCmd : Cmd := { cmd 0x90 .started with c := 0x3000, d := 1, w3 := BitVec.ofNat 32 (2 ^ 28) }

theorem test_meets_PlaceLays :
    let s := work id [(0x1000, 5#8), (0x2079, 0x40#8)] [placeCmd]
    let m := coreCounts [5] 16
    s.cmd? 7 = some placeCmd ∧ s.runs placeCmd = true ∧ placeCmd.tlb = [] ∧ (List.range 4).filter (fun d => placeCmd.w3.getLsbD (28 + d)) = [0] ∧
    reads s 0x1000 4 = true ∧ leNat ((run 0x1000 4).map s.mem.read) = 5 ∧ ([5].filter fun v => decide (v ≠ 0)).length ≤ 16 ∧
    (∀ x < 3, x ∈ [0] ↔ x < 1 ∧ m.getD x 0 ≠ 0) ∧ layRegions [0] m [] [0] = [(0, 0, 0, 16)] ∧
    reads s (wrapVa (0x2000 + (8 * (16 * 0 + 16 - 1) : Nat))) 8 = true ∧ leNat ((run 0x2078 8).map s.mem.read) = 0x4000 ∧
    (match s.loadEx 0 0x4000 64 with | .ok h => ok (s.copyParts 0 (recordParts 0x4000 h)) | .error _ => false) = true ∧
    writes s 0x3000 16 = true ∧ (run 0x3000 16).Nodup := by
  and_intros <;> decide +kernel

/-- Context 0 in or before round 5 of group 4 at tick 50, with a command and memory. -/
def exchanging (r : Round) (mem : Memory) (k : Cmd) : State := { inRound r {} [k] 50 with mem := mem }

/-- A DPOST with the descriptor at 0x1000 of a member that is not the arbiter, members at 0x2000, its row at 0x3000. -/
def postCmd : Cmd := { cmd 0x80 .issued with b := 0x3000 }
def groupMem : Memory := [(0x1000, 4#8), (0x1002, 2#8), (0x1004, 1#8), (0x1008, 1#8), (0x100A, 1#8), (0x100C, 0x20#8), (0x100D, 3#8),
  (0x1011, 0x20#8), (0x3000, 1#8)]

theorem test_meets_DemandsPost :
    let s := exchanging { num := 5, row := some (demand 4 1) } groupMem postCmd
    let g := Group.of ((run 0x1000 64).map s.mem.read)
    s.cmd? 7 = some postCmd ∧ s.mayStart postCmd = true ∧ s.accsDone postCmd = true ∧ s.traceMode 0 ≠ 2 ∧ (s.round 0 4).isOpen = false ∧
    (s.round 0 4).row ≠ none ∧ g = ⟨4, 2, 1, 0, 1, 1, 800, 0x2000, 0, 0, 0⟩ ∧ g.ok = true ∧
    s.meetsWindow postCmd 0x1000 64 = false ∧ s.meetsWindow postCmd 0x3000 8 = false ∧ reads s 0x1000 64 = true ∧
    (∀ m < 2, reads s (wrapVa (0x2000 + (2 * m : Nat))) 2 = true ∧ reads s (wrapVa (0x3000 + (4 * m : Nat))) 4 = true) ∧
    (s.arbiter 0 4).takenBy = 0 := by
  and_intros <;> decide +kernel

/-- An XSEND of one entry at 0x2000 to a member, of a row of 8 bytes at 0x1000, with members deferred and RD or not. -/
def sendCmd (deferred : List Nat) (rd : Nat) : Cmd := { cmd 0x81 .started with
  c := 1, d := 8, e := 0x4000, w3 := BitVec.ofNat 32 (rd * 2 ^ 28), sub := 4, list := [2, 0, 1, 0x5000] ++ deferred }
def sending (k : Cmd) (m : Nat) : State :=
  exchanging { num := 5, isOpen := true, posted := true, cal := cal2, row := some (demand 5 0) } [(0x2001, 0x10#8), (0x2008, BitVec.ofNat 8 m)] k

theorem test_meets_EntriesAreSent : ∀ x ∈ [([], 1, 1), ([1], 0, 1), ([], 0, 0), ([], 0, 1)],
    let k := sendCmd x.1 x.2.1
    let s := sending k x.2.2
    let m := x.2.2
    s.cmd? 7 = some k ∧ s.runs k = true ∧ k.done < k.sendN ∧ s.sendTurn k = true ∧ wrapVa (k.b.toNat + (16 * k.done : Nat)) = 0x2000 ∧
    reads s 0x2000 16 = true ∧ k.w3.getLsbD 28 = decide (x.2.1 = 1) ∧ leNat ((run 0x2008 2).map s.mem.read) = m ∧ writes s 0x2008 2 = true ∧
    (m ∈ k.list.drop 4 ↔ x.1 = [1]) ∧ reads s (wrapVa (0x5000 + (8 * (m * 1 + 0) : Nat))) 8 = true ∧
    leNat ((run 0x2000 8).map s.mem.read) = 0x1000 ∧ reads s 0x1000 8 = true ∧ k.rowIn = 8 ∧ k.rowOut = 8 ∧
    (k.outRow ((run 0x1000 8).map s.mem.read)).1.length = 8 ∧ 8 ≤ s.leftTo (s.round 0 4) 1 ∧
    (s.round 0 4).cal.grants.filter (fun g => decide (g.dst = 1)) = [⟨0, 100, 1, 4096⟩] ∧ (s.round 0 4).queue = [] ∧ (s.round 0 4).phase = 0 ∧
    writes s (wrapVa (0 + (0 * k.rowOut : Nat))) 8 = true ∧ (run 0 8 ++ run 0x2008 2).Nodup := by
  decide +kernel

/-- A command of the exchange unit at its end: an XSEND that has gone through its entries, or an XWAIT. -/
def endCmd (opc done x1 : Nat) : Cmd := { cmd opc .started with c := 1, e := 0x4000, sub := 4, done := done, x1 := x1, list := [2, 0, 1, 0x5000] }

theorem test_meets_RoundsEnd :
    let ends : Round := { num := 5, isOpen := true, posted := true, ended := true, cal := cal2, markers := [(1, 1)] }
    (∀ x ∈ [(0x81, 1, 0), (0x81, 1, 1), (0x81, 2, 0), (0x82, 0, 0)], let k := endCmd x.1 x.2.1 x.2.2
      let s := exchanging ends [] k
      s.cmd? 7 = some k ∧ s.runs k = true ∧ k.sendN = 1 ∧ writes s 0x4000 8 = true ∧ writes s 0x2000 64 = true) ∧
    (exchanging { ends with ended := false } [] (endCmd 0x82 0 0)).runs (endCmd 0x82 0 0) = true ∧
    (∀ m ∈ cal2.senders, 1 ≤ SMap.get 0 ends.markers m ∧ SMap.get 0 ends.markers m - 1 ≤ SMap.get 0 ends.recvBy m) ∧
    ((exchanging ends [] (endCmd 0x82 0 0)).ctx 0).recvHold = [] ∧ ends.late = 0 ∧ ends.lost = false ∧ (run 0x2000 64).Nodup := by
  decide +kernel

/-- A gang of two: core 0 holds an anti-token in the register of the link into its west edge, and core 1 is the other member. -/
def linked (x : Nat) : State := { on core0 with
  cores := [(0, { core0 with gang := [0, 1], fab := { rev := [(x, 1)] } }), (1, { core0 with gang := [0, 1], rank := 1 })] }

/-- Which edges a link joins is free: where one joins the west edge of member 0 with an edge of member 1, the anti-token passes. -/
theorem test_meets_AntiTokenLinks (side pos : Nat) (h : Config.edgeLink 2 0 3 0 = some (1, side, pos)) :
    let s := linked (linkPlace 3 0)
    isLink (linkPlace 3 0) = true ∧ s.linkFrom 0 (linkPlace 3 0) = some (1, outPlace (edgeRouter side pos) side) ∧
    (s.core 0).rev (linkPlace 3 0) ≠ 0 ∧ (s.core 1).queue (outPlace (edgeRouter side pos) side) = [] ∧
    (s.core 1).rev (outPlace (edgeRouter side pos) side) = 0 ∧ s.patched 1 (outPlace (edgeRouter side pos) side) = false := by
  refine ⟨by decide, ?_, by decide, ?_, rfl, Bool.and_false _⟩
  · have hs : ((linked (linkPlace 3 0)).core 0).linkEnd ((linkPlace 3 0 - 4224) / 16) (linkPlace 3 0 % 16) = some (1, side, pos) := h
    unfold State.linkFrom
    dsimp only
    rw [hs]
    rfl
  · unfold Core.queue
    split
    · rfl
    · split <;> rfl

theorem test_meets_AntiTokensWait :
    let s := { anti (inPlace 16 0) [] west with cmds := [{ patchCmd .started with sub := 1, list := [0x11000001] }] }
    isLink (inPlace 16 0) = false ∧ (s.core 0).srcOf (inPlace 16 0) = outPlace 17 3 ∧ s.patched 0 (outPlace 17 3) = true := by
  decide +kernel

/-! ## The machine as a whole -/

/-- The word ADD g3, g1, g5 stands at the core's SOFF, a turn of the core is due, and nothing else. -/
def fetching (a : List Turn) : State := { on core0 with mem := [(65, 0x45#8), (66, 0x30#8)], agenda := a }

theorem test_meets_StepRunsTheDecoded :
    let u := { tick 3 (fetching []) with cur := 0 }
    let bs := [0x00#8, 0x45#8, 0x30#8, 0x00#8, 0, 0, 0, 0, 0, 0, 0, 0, 0, 0, 0, 0]
    (fetching [⟨3, .core 0⟩]).power = .on ∧ (fetching [⟨3, .core 0⟩]).agenda = ⟨3, .core 0⟩ :: [] ∧ stopDue u = false ∧
    (u.core 0).issues = true ∧ (u.core 0).stopsAtEntry (u.core 0).atBoundary = false ∧ (u.core 0).soff.toNat < (u.core 0).stream.2 ∧
    u.fetchGroup 0 0 = .ok bs ∧ isCmdBytes bs = false ∧ decode bs = .ok (.add 3 1 5, 1) ∧
    isFetched (.heartbeat 0 4) = false ∧ stopDue (tick 3 (fetching [])) = false ∧ (on core0).recsPending = false ∧
    ((on core0).ctx 0).rounds = [] := by
  and_intros <;> decide +kernel

theorem test_meets_EncodeDecodeAgree : (Instr.memxLd 1 2 3 3 0 0).wf = true ∧ encode (.memxLd 1 2 3 3 0 0) = some [0x08108330#32] := by decide

/-- A step whose state before it is in the form. -/
theorem test_meets_MemoryFormKept : (fetching [⟨3, .event (.tkoffProbe 9 2)⟩]).mem.wf = true ∧
    (match step (fetching [⟨3, .event (.tkoffProbe 9 2)⟩]) with | .next t => t.tkoff == 7#64 | _ => false) = true := by
  exact ⟨by decide, by decide +kernel⟩

/-! ## Ill-formed terms -/

theorem test_reserved_policy : (Instr.memxLd 1 2 3 3 3 0).wf = false ∧ (Instr.memxLds 1 2 3 3 0 0).wf = false ∧
    (Instr.memxLds 1 2 3 0 3 0).wf = false ∧ (Instr.memxSt 1 2 3 3 3 0).wf = false := by decide
theorem test_reserved_codes : (Instr.bp 0 4).wf = false ∧ (Instr.drain 5).wf = false ∧ (Instr.drain 4).wf = true := by decide
theorem test_no_such_unit : (Instr.pacerAdmit 64).wf = false ∧ (Instr.inPortSend 0 16).wf = false ∧ (Instr.nodeDispatch 4).wf = false ∧
    (Instr.nodeComplete 0 4096).wf = false ∧ (Instr.ident 5 0).wf = false := by decide

/-! ## Words -/

theorem test_decode_alu : decode (bytesOf [0x00304500]) = .ok (.add 3 1 5, 1) := by decide +kernel
/-- TRACE.MARK of marker 7 with register g5. -/
theorem test_decode_command : decode (bytesOf [0xFA000000, 0x14000000, 0, 0x00010007]) = .ok (.traceMark
    { ga := 0, gb := 0, hint := 0, prio := 0, close := false, after := false, var := 0, a := 5, b := 0, c := 0, d := 0, e := 0, mode := 0, nw := 0
      wa := 0, wb := 0, dv := false, dt := 0, mi := 0, tix := 0, w3 := 0x00010007 }, 4) := by decide +kernel
/-- The last row of the spec's encoding example, with the bits 19:14 that its own fields give (log 7). -/
theorem test_decode_indexed : decode (bytesOf [0x08108330]) = .ok (.memxLd 1 2 3 3 0 0, 1) := by decide +kernel
theorem test_reserved_cell : (match decode (bytesOf [0x000000FF]) with | .error (.reservedCell _) => true | _ => false) = true := by
  decide +kernel

/-! ## Single steps, from R170, R172, R182, R195, R84, R251 -/

/-- What an instruction leaves on a machine, asked of the state after it. -/
def leaves (i : Instr) (s : State) (p : State → Bool) : Bool := match exec i s with | .next t => p t | _ => false

theorem test_div_by_zero : leaves (.div 3 1 57) (on core0) (fun t => t.here.reg 3 == 0xFFFFFFFFFFFFFFFF#64) = true := by decide +kernel
theorem test_rem_by_zero : leaves (.rem 3 2 57) (on core0) (fun t => t.here.reg 3 == 0xFFFFFFFFFFFFFFFD#64) = true := by decide +kernel
theorem test_div_truncates : leaves (.div 3 2 47) (on { core0 with regs := [(2, 0xFFFFFFFFFFFFFFF9#64), (47, 2#64)] })
    (fun t => t.here.reg 3 == 0xFFFFFFFFFFFFFFFD#64) = true := by decide +kernel
theorem test_rem_of_minimum : leaves (.rem 3 1 2) (on { core0 with regs := [(1, 0x8000000000000000#64), (2, 0xFFFFFFFFFFFFFFFF#64)] })
    (fun t => t.here.reg 3 == 0#64) = true := by decide +kernel
/-- Only bits 5:0 of b count. -/
theorem test_shift_low_bits : leaves (.shl 3 1 4) (on core0) (fun t => t.here.reg 3 == 6#64) = true := by decide +kernel
theorem test_discarded_destination : leaves (.add 57 1 5) (on core0) (fun t => t.here.reg 57 == 0#64 && t.here.reg 56 == 9#64) = true := by
  decide +kernel
theorem test_field_past_63 : leaves (.bfx 3 2 7 60) (on core0) (fun t => t.here.reg 3 == 15#64) = true := by decide +kernel
theorem test_mulh_signed : leaves (.mulh 3 2 1) (on core0) (fun t => t.here.reg 3 == 0xFFFFFFFFFFFFFFFF#64) = true := by decide +kernel
theorem test_loop_from_zero : leaves (.loop 9 4) (on core0)
    (fun t => t.here.reg 9 == 0xFFFFFFFFFFFFFFFF#64 && t.here.soff == 4#32) = true := by decide +kernel
theorem test_pclr_of_empty : leaves (.pclr 4 0 0) (on core0) (fun t => t.here.accs.length == 1 && t.here.stc == 1#6) = true := by decide +kernel
theorem test_trap_saves : leaves (.trap 0x1234) (on core0) (fun t => t.here.hm && t.here.code == 0x1234#16 && t.here.epc == 1#32) = true := by
  decide +kernel
/-- Special register 57 is reserved: class 2, code 6, at the instruction's own word (R378). -/
theorem test_reserved_special_register : leaves (.mfs 3 57) (on core0)
    (fun t => t.here.hm && t.here.cls == 2#8 && t.here.code == 6#16 && t.here.epc == 0#32) = true := by decide +kernel

/-- Code 15 under scale 128 and super-scale 0.5 has the value 0.25 (R84). -/
theorem test_codebook : (dqnFn (0x42 * 2 ^ 56 + 0xD * 2 ^ 52 + 0x3F000000) 0x800F 0 0).1 = 0x3E800000#32 := by decide +kernel
theorem test_abs_of_minimum : ((intFn fun a _ _ => if a < 0 then -a else a) (0x07 * 2 ^ 56 + 2 * 2 ^ 52) 0x8000 0 0).1.toNat % 65536 = 0x8000 := by
  decide +kernel

end Sys2Proof.Tests
end

section
/-! PROOFS. The machine's own step: what lets ticks pass, what a core's turn runs, and the state after reset. -/

namespace Sys2Proof.Machine

/-! ## Time passes -/

/-- What one pass of probes may change (R303): the contexts and the outbox, and no context without a group. -/
structure State.ProbesOnly (s t : State) : Prop where
  rest : { t with ctxs := s.ctxs, outbox := s.outbox } = s
  ctx : ∀ k, (s.ctx k).rounds = [] → t.ctx k = s.ctx k

theorem State.ProbesOnly.refl (s : State) : s.ProbesOnly s := ⟨rfl, fun _ _ => rfl⟩

theorem State.ProbesOnly.trans {s t u : State} (h : s.ProbesOnly t) (h' : t.ProbesOnly u) : s.ProbesOnly u where
  rest := calc
    { u with ctxs := s.ctxs, outbox := s.outbox }
      = { { u with ctxs := t.ctxs, outbox := t.outbox } with ctxs := s.ctxs, outbox := s.outbox } := rfl
    _ = { t with ctxs := s.ctxs, outbox := s.outbox } := by rw [h'.rest]
    _ = s := h.rest
  ctx k hk := by
    have ht := h.ctx k hk
    rw [h'.ctx k (by rw [ht]; exact hk), ht]

/-- A fold of operations that each only probe only probes. -/
theorem State.ProbesOnly.foldl {α : Type} {f : State → α → State} (hf : ∀ (s : State) a, s.ProbesOnly (f s a)) (l : List α)
    (s : State) : s.ProbesOnly (l.foldl f s) :=
  List.foldlRecOn l f (.refl s) fun t ht a _ => ht.trans (hf t a)

@[simp] theorem State.ctx_emit (s : State) (o : Outbound) (k : Nat) : (s.emit o).ctx k = s.ctx k := rfl

theorem State.ctx_setArbiter_other (s : State) (gid : Nat) (a : Arbiter) {j k : Nat} (h : j ≠ k) :
    (s.setArbiter k gid a).ctx j = s.ctx j := State.ctx_updCtx_other _ _ _ _ h

/-- A context without a group has no demand row, so its arbiter is not probed. -/
theorem State.probeArb_of_no_rounds {s : State} {k : Nat} (h : (s.ctx k).rounds = []) (gid : Nat) : s.probeArb k gid = s := by
  have hrow : (s.round k gid).row = none := by rw [State.round, h]; rfl
  simp [State.probeArb, hrow]

theorem State.probesOnly_probeArb (s : State) (k gid : Nat) : s.ProbesOnly (s.probeArb k gid) where
  rest := by
    unfold State.probeArb
    split
    · rfl
    · split <;> rfl
  ctx j hj := by
    by_cases hjk : j = k
    · subst hjk
      rw [State.probeArb_of_no_rounds hj]
    · unfold State.probeArb
      split
      · rfl
      · split
        · rfl
        · rw [State.ctx_emit, State.ctx_setArbiter_other _ _ _ hjk]

theorem State.probesOnly_probeAll (s : State) : s.ProbesOnly s.probeAll := by
  refine .foldl (fun s k => .foldl (fun s gid => ?_) _ s) _ s
  split
  · exact s.probesOnly_probeArb k gid
  · exact .refl s

/-- Ticks that end while no fault record waits: waiting commands are noted, the clock goes on, and only probes follow. -/
theorem tick_probesOnly {s : State} (h : s.recsPending = false) (dt : Nat) :
    ({ s.noteReady with gtc := s.gtc + BitVec.ofNat 64 dt } : State).ProbesOnly (tick dt s) := by
  simp only [tick, h, Bool.false_and, Bool.false_eq_true, if_false]
  split
  · exact .refl _
  · exact State.probesOnly_probeAll _

theorem tick_gtc {s : State} (h : s.recsPending = false) (dt : Nat) : (tick dt s).gtc = s.gtc + BitVec.ofNat 64 dt :=
  congrArg State.gtc (tick_probesOnly h dt).rest

/-- Time moves nothing but the clock, the notes in waiting commands, and what the probes touch. -/
theorem tick_frame {s : State} (h : s.recsPending = false) (dt : Nat) :
    { tick dt s with gtc := s.gtc, cmds := s.cmds, ctxs := s.ctxs, outbox := s.outbox } = s :=
  congrArg (fun t : State => { t with gtc := s.gtc, cmds := s.cmds }) (tick_probesOnly h dt).rest

theorem tick_ctx {s : State} (h : s.recsPending = false) (dt : Nat) {k : Nat} (hk : (s.ctx k).rounds = []) :
    (tick dt s).ctx k = s.ctx k :=
  (tick_probesOnly h dt).ctx k hk

/-! ## A core's turn -/

/-- A core that no HURDLE holds is not let go. -/
theorem State.letGo_of_not_held {s : State} {n : Nat} (h : (s.core n).heldBy = none) (b : Bool) : s.letGo n b = s := by
  simp [State.letGo, h]

theorem Core.issues_heldBy {c : Core} (h : c.issues = true) : c.heldBy = none := by
  simp only [Core.issues, Bool.and_eq_true, decide_eq_true_eq] at h
  obtain ⟨⟨⟨-, held⟩, -⟩, -⟩ := h
  exact held

/-- Core n fetches an instruction: its SOFF lies in its stream and names no inner word of a command, and the bytes there
decode (R144, R145, R373). -/
structure State.fetches (s : State) (n : Nat) (group : List Byte) (i : Instr) : Prop where
  inside : (s.core n).soff.toNat < (s.core n).stream.2
  held : s.fetchGroup n (s.core n).soff.toNat = .ok group
  aligned : isCmdBytes (group.drop (4 * ((s.core n).soff.toNat % 4))) = true → (s.core n).soff.toNat % 4 = 0
  decodes : ∃ len, decode (group.drop (4 * ((s.core n).soff.toNat % 4))) = .ok (i, len)

theorem State.fetches.fetchInstr {s : State} {n : Nat} {group : List Byte} {i : Instr} (h : s.fetches n group i) :
    s.fetchInstr n = .ok i := by
  obtain ⟨len, hdec⟩ := h.decodes
  have hcmd : ¬(isCmdBytes (group.drop (4 * ((s.core n).soff.toNat % 4))) = true ∧ ¬(s.core n).soff.toNat % 4 = 0) :=
    fun ⟨hb, ho⟩ => ho (h.aligned hb)
  simp [State.fetchInstr, Nat.not_le.mpr h.inside, h.held, hdec, hcmd]

theorem State.keepGroup_of_ok {s : State} {n idx : Nat} {group : List Byte} (h : s.fetchGroup n idx = .ok group) :
    s.keepGroup n idx = s.setCore n { s.core n with group := some (idx / 4, group) } := by
  simp [State.keepGroup, h, State.updCore]

/-- The turn of a core that issues and does not stop at record entry runs what it fetches. -/
theorem coreTurn_runs {s : State} {n : Nat} {group : List Byte} {i : Instr} (hi : (s.core n).issues = true)
    (hs : (s.core n).stopsAtEntry (s.core n).atBoundary = false) (hf : s.fetches n group i) :
    coreTurn n s = exec i { s.setCore n { s.core n with group := some ((s.core n).soff.toNat / 4, group) } with cur := n } := by
  simp only [coreTurn, State.letGo_of_not_held (Core.issues_heldBy hi), hs, hi, hf.fetchInstr, State.keepGroup_of_ok hf.held,
    Bool.not_true, Bool.false_eq_true, if_false]

/-! ## The next act -/

theorem nextAct_cons {s : State} {dt : Nat} {a : Act} {r : List Turn} (h : s.agenda = ⟨dt, a⟩ :: r) :
    nextAct s = (a, tick dt { s with agenda := r }) := by
  simp [nextAct, h]

theorem nextAct_nil {s : State} (h : s.agenda = []) : nextAct s = (.core s.cur, idleTick s) := by
  simp [nextAct, h]

/-- A running module with no stop due performs its next act. -/
theorem step_act {s t : State} {a : Act} (hp : s.power = .on) (hn : nextAct s = (a, t)) (hd : stopDue t = false) :
    step s = act a t := by
  simp [step, hp, runStep, hn, hd]

/-- A core's turn comes next: the first of the agenda, or with an empty agenda that of the core whose turn it is. -/
theorem step_coreTurn {s u : State} {n : Nat} (hp : s.power = .on)
    (hu : (s.agenda = [] ∧ n = s.cur ∧ u = { idleTick s with cur := n }) ∨
      (∃ dt r, s.agenda = ⟨dt, .core n⟩ :: r ∧ u = { tick dt { s with agenda := r } with cur := n }))
    (hd : stopDue u = false) : step s = coreTurn n u := by
  obtain ⟨ha, rfl, rfl⟩ | ⟨dt, r, ha, rfl⟩ := hu
  · exact step_act hp (nextAct_nil ha) hd
  · exact step_act hp (nextAct_cons ha) hd

/-- An event of the agenda that is no fetched instruction runs as it stands. -/
theorem step_event {s : State} {i : Instr} {dt : Nat} {r : List Turn} (hp : s.power = .on) (ha : s.agenda = ⟨dt, .event i⟩ :: r)
    (hf : isFetched i = false) (hd : stopDue (tick dt { s with agenda := r }) = false) :
    step s = exec i (tick dt { s with agenda := r }) := by
  rw [step_act hp (nextAct_cons ha) hd]
  simp [act, hf]

/-- Settles O56: the turn that is due, the fetch and the held group are each read off once, and the only acts of time are
probes, which leave every context without a group as it is. -/
theorem stepRunsTheDecoded : Obligations.StepRunsTheDecoded := by
  unfold Obligations.StepRunsTheDecoded
  refine ⟨?core, fun s i dt r hp ha hf hd => step_event hp ha hf hd, ?time⟩
  case core =>
    intro s u n i group len hp hu hd c bs hi hs hin hg hcmd hdec
    rw [step_coreTurn hp hu hd]
    exact coreTurn_runs hi hs ⟨hin, hg, hcmd, len, hdec⟩
  case time =>
    intro s dt h
    exact ⟨tick_gtc h dt, tick_frame h dt, fun k _ hk => tick_ctx h dt hk⟩

/-! ## Reset -/

/-- Without a save area a context has no trace area (R414). -/
theorem State.untraced_of_no_saveArea {s : State} {k : Nat} (h : (s.ctx k).saveBase = 0) : s.untraced k := by
  simp [State.untraced, State.traceHdr, h]

/-- A sector listed nowhere, of a module whose every port has its expander, is not poisoned. -/
theorem State.poisoned_reset (pa : Nat) : State.reset.poisoned pa = false := by
  have hat : State.reset.poisonAt pa = .clean := rfl
  have hgone : State.reset.expanderGone pa = false := Bool.and_false _
  simp [State.poisoned, hat, hgone]

/-- A core with nothing listed in its register file reads zero everywhere, the zero register included (R146). -/
theorem Core.reg_default (r : Nat) : ({} : Core).reg r = 0 := ite_self _

theorem Core.pred_default {p : Nat} (h : 0 < p) : ({} : Core).pred p = false := by
  simp [Core.pred, Nat.ne_of_gt h]

theorem Core.mask_default {m : Nat} (h : 0 < m) : ({} : Core).mask m = 0 := by
  simp [Core.mask, Nat.ne_of_gt h, SMap.get]

/-- Settles O58: every table of the reset state lists nothing, so each accessor answers its default. -/
theorem resetState : Obligations.ResetState := by
  unfold Obligations.ResetState
  refine ⟨rfl, rfl, rfl, rfl, rfl, rfl, rfl, ?ctxs, fun _ _ => rfl, fun _ => rfl, fun pa => ⟨rfl, State.poisoned_reset pa⟩, ?cores,
    fun n => Core.reg_default, fun n p => Core.pred_default, fun n m => Core.mask_default⟩
  case ctxs =>
    exact fun k => ⟨rfl, rfl, rfl, rfl, rfl, rfl, State.untraced_of_no_saveArea rfl, fun g => ⟨rfl, rfl⟩⟩
  case cores =>
    exact fun n => ⟨rfl, rfl, rfl, rfl, rfl, rfl, rfl, rfl, rfl⟩

end Sys2Proof.Machine
end

section
/-! PROOFS. Fences, waits and stops of the control core. -/

namespace Sys2Proof.Machine

/-! ## Closing the open batch (R29) -/

/-- A core that may close its open batch: none is open, or BTC has room. -/
theorem Core.mayClose_of {c : Core} (h : c.openBatch = [] ∨ c.btc ≠ 63#6) : c.mayClose = true := by
  simpa [Core.mayClose] using h

theorem Core.closeBatch_openBatch (c : Core) : c.closeBatch.openBatch = [] := by
  unfold Core.closeBatch
  split
  · assumption
  · rfl

/-- Closing the batch leaves every counter but BTC. -/
theorem Core.countersWithin_closeBatch (c : Core) (l st cp t b : BitVec 4) :
    c.closeBatch.countersWithin l st cp t b = true ↔ c.ldc.toNat ≤ l.toNat ∧ c.stc.toNat ≤ st.toNat ∧ c.cpc.toNat ≤ cp.toNat ∧
      c.tlc.toNat ≤ t.toNat ∧ c.closeBatch.btc.toNat ≤ b.toNat := by
  unfold Core.closeBatch
  split <;> simp [Core.countersWithin, and_assoc]

theorem Core.closeBatch_soff (c : Core) : c.closeBatch.soff = c.soff := by
  unfold Core.closeBatch
  split <;> rfl

/-- A core that issues has not stopped at a safe point (R189). -/
theorem Core.issues_stopMask {c : Core} (h : c.issues = true) : c.stopMask = none := by
  simp only [Core.issues, Bool.and_eq_true, decide_eq_true_eq] at h
  exact h.2

/-- A ready NOP only goes on. -/
theorem execNop_acts {s : State} (h : s.ready [] [] []) : execNop s = .next (s.advance s.cur 1) := h.acts

/-! ## Fences (R128, R180) -/

/-- The accesses of core n as a release at a scope leaves them (R125). -/
def State.shownAccs (s : State) (n : Nat) (sc : BitVec 2) : List Access :=
  if sc = 0 then (s.core n).accs.map fun a => if s.showable n a then { a with shown := true } else a else (s.core n).accs

theorem State.core_publish (s : State) (n : Nat) (sc : BitVec 2) :
    (s.publish n sc).core n = { s.core n with accs := s.shownAccs n sc } := by
  unfold State.publish State.shownAccs
  split <;> simp [State.updCore, *]

/-- A release touches its core alone. -/
theorem State.setCore_publish (s : State) (n : Nat) (sc : BitVec 2) (c : Core) : (s.publish n sc).setCore n c = s.setCore n c := by
  unfold State.publish
  split <;> simp [State.updCore]

/-- The accesses that what follows a release at a scope waits for. -/
theorem Core.releaseIds_eq (c : Core) (sc : BitVec 2) :
    c.releaseIds sc = (c.accs.filter fun a => decide (sc ≠ 0) || !a.shown).map (·.id) := by
  by_cases h : sc = 0#2 <;> simp [Core.releaseIds, Core.unseenIds, Core.accIds, h]

/-- A ready fence acts on the core that its release has left. -/
theorem fence_acts {s : State} (h : s.ready [] [] []) (rel : Bool) (sc : BitVec 2) (f : Core → Core) :
    fence rel sc f s = .next (s.withHere ((f (if rel then (s.publish s.cur sc).core s.cur else s.here)).next 1)) := by
  rw [fence, h.acts, State.withHere]
  cases rel
  · rfl
  · rw [if_pos rfl, if_pos rfl, State.updCore, State.setCore_publish]

/-- Settles O12: the ready instruction acts, its batch may close, and each form's next core is read off its definition. -/
theorem fencesWaitsAndStops : Obligations.FencesWaitsAndStops := by
  unfold Obligations.FencesWaitsAndStops
  refine ⟨?fences, ?stops, ?drain, ?safe⟩
  case fences =>
    intro s sc h c on seen held
    have hseen : seen = { on with accs := s.shownAccs s.cur sc } := by
      unfold State.shownAccs
      by_cases h0 : sc = 0 <;> simp only [seen, h0, if_true, if_false] <;> rfl
    have hheld : Core.releaseIds { c with accs := s.shownAccs s.cur sc } sc = held := by
      rw [Core.releaseIds_eq]
      simp only [held, hseen]
    have release (f : Core → Core) : fence true sc f s =
        .next (s.withHere ((f { c with accs := s.shownAccs s.cur sc }).next 1)) := by
      rw [fence_acts h, if_pos rfl, State.core_publish]
      rfl
    refine ⟨execNop_acts h, fence_acts h false sc _, (release _).trans ?_, (release _).trans ?_⟩ <;>
    · rw [hheld, hseen]
      rfl
  case stops =>
    intro s l st cp t b h hb c shut
    have hsoff : shut.soff = c.soff := Core.closeBatch_soff c
    refine ⟨?halt, ?wait⟩
    case halt =>
      show execHalt s = _
      rw [execHalt, h.acts, if_pos (Core.mayClose_of hb), ← hsoff]
      rfl
    case wait =>
      show execWait l st cp t b s = _
      rw [execWait, h.acts]
      simp only [Core.mayClose_of hb, if_true, Core.closeBatch_openBatch, true_and, Core.countersWithin_closeBatch, ← hsoff]
      rfl
  case drain =>
    intro s p h hb c shut
    have hsoff : shut.soff = c.soff := Core.closeBatch_soff c
    show execDrain p s = _
    rw [execDrain, h.acts]
    simp only [Core.mayClose_of hb, ← hsoff, List.any_eq_true, Bool.and_eq_true, decide_eq_true_eq, Bool.not_true,
      Bool.false_eq_true, if_false]
    by_cases hk : ∃ k ∈ s.cmds, k.owner = .core s.cur ∧ p.toNat ∈ s.drainPaths s.cur k
    · rw [if_pos hk, if_pos hk]
      rfl
    · rw [if_neg hk, if_neg hk]
      rfl
  case safe =>
    intro s i m h hm
    have hstop : s.here.stopMask = none := Core.issues_stopMask h.issues
    show execSafe i s = _
    rw [execSafe, h.acts, hm]
    by_cases hh : s.here.hm = true
    · rw [if_pos hh, if_neg (by simp [hh]), ← hstop]
      rfl
    · rw [if_neg hh]
      have hcond : (s.here.preempt && s.here.atBoundary) = true ↔
          s.here.hm = false ∧ s.here.preempt = true ∧ s.here.atBoundary = true := by simp [hh]
      simp only [hcond]
      rfl

end Sys2Proof.Machine
end

section
/-! PROOFS. Presence words: the performance of PLD, PST and PCLR at the home slice, and of the PLDs deferred there. -/

namespace Sys2Proof.Machine

/-! ## An access is done (R28, R167, R177) -/

theorem State.core_accessDone_same (s : State) (n : Nat) (a : Access) : (s.accessDone n a).core n = { s.core n with
    moved := s.gtc
    accs := (s.core n).accs.filter fun b => decide (b.id ≠ a.id)
    holdAcc := (s.core n).holdAcc.filter fun i => decide (i ≠ a.id)
    holdAll := (s.core n).holdAll.filter fun i => decide (i ≠ a.id)
    holdStore := (s.core n).holdStore.filter fun i => decide (i ≠ a.id)
    ldc := if a.inLdc then (s.core n).ldc - 1 else (s.core n).ldc
    stc := if a.inStc then (s.core n).stc - 1 else (s.core n).stc } :=
  State.core_setCore_same ..

theorem State.core_accessDone_other (s : State) {n m : Nat} (a : Access) (h : m ≠ n) : (s.accessDone n a).core m = s.core m :=
  State.core_setCore_other _ _ _ _ h

/-- A value that lands changes its register and, in a core stopped at a safe point, the note that it is live (R189). -/
theorem State.core_landReg_same (s : State) (n r : Nat) (v : Word) : (s.landReg n r v).core n =
    { s.core n with regs := ((s.landReg n r v).core n).regs, late := ((s.landReg n r v).core n).late } := by
  unfold State.landReg
  split
  · rfl
  · simp [State.updCore]

theorem State.core_landReg_other (s : State) {n m : Nat} (r : Nat) (v : Word) (h : m ≠ n) :
    (s.landReg n r v).core m = s.core m := by
  unfold State.landReg
  split
  · rfl
  · exact State.core_setCore_other _ _ _ _ h

theorem State.reg_landReg (s : State) (n r q : Nat) (v : Word) :
    ((s.landReg n r v).core n).reg q = if q = r ∧ q ≠ 57 then v else (s.core n).reg q := by
  unfold State.landReg
  by_cases h57 : r = 57
  · have hq : ¬(q = r ∧ q ≠ 57) := fun ⟨h, h'⟩ => h' (h.trans h57)
    rw [if_pos h57, if_neg hq]
  · rw [if_neg h57]
    by_cases hq : q = r
    · subst hq
      simp [State.updCore, Core.reg, h57]
    · simp [State.updCore, Core.reg, SMap.get_set_other _ _ _ hq, hq]

theorem State.late_landReg (s : State) (n r : Nat) (v : Word) : ((s.landReg n r v).core n).late =
    if r ≠ 57 ∧ (s.core n).stopMask ≠ none then (s.core n).late ||| BitVec.ofNat 64 (2 ^ r) else (s.core n).late := by
  unfold State.landReg
  by_cases h57 : r = 57
  · simp [h57]
  · cases hm : (s.core n).stopMask <;> simp [h57, State.updCore, hm, setBit]

/-- Performing an access without a result takes it off its core. -/
theorem performed_accessDone (s : State) (n : Nat) (a : Access) : Performed s (s.accessDone n a) n a none := by
  have hc := s.core_accessDone_same n a
  have hlate : ((s.accessDone n a).core n).late = (s.core n).late := by rw [hc]
  exact {
    accs := by rw [hc]
    ldc := by rw [hc]
    stc := by rw [hc]
    holdAcc := by rw [hc]
    holdAll := by rw [hc]
    holdStore := by rw [hc]
    regs := fun r => by rw [hc]; rfl
    late := hlate
    core := by rw [hc]
    others := fun m hm => s.core_accessDone_other a hm }

/-- Performing an access with a result lands its value too. -/
theorem performed_landAccess (s : State) (n : Nat) (a : Access) (v : Word) :
    Performed s (s.landAccess n a v) n a (some (a.dst, v)) := by
  have hl := s.core_landReg_same n a.dst v
  have hc : (s.landAccess n a v).core n = _ := (s.landReg n a.dst v).core_accessDone_same n a
  have hlate : ((s.landAccess n a v).core n).late = ((s.landReg n a.dst v).core n).late := by rw [hc]
  exact {
    accs := by rw [hc, hl]
    ldc := by rw [hc, hl]
    stc := by rw [hc, hl]
    holdAcc := by rw [hc, hl]
    holdAll := by rw [hc, hl]
    holdStore := by rw [hc, hl]
    regs := fun r => by rw [hc]; exact s.reg_landReg n a.dst r v
    late := hlate.trans (s.late_landReg n a.dst v)
    core := by rw [hc, hl]
    others := fun m hm => ((s.landReg n a.dst v).core_accessDone_other a hm).trans (s.core_landReg_other a.dst v hm) }

/-- What an access does to the cores tells all of its performance. -/
theorem Performed.of_cores {s s1 t : State} {n : Nat} {a : Access} {result : Option (Nat × Word)} (h : Performed s1 t n a result)
    (hs : s1.cores = s.cores) : Performed s t n a result := by
  have hcore (m : Nat) : s1.core m = s.core m := by rw [State.core_of, State.core_of, hs]
  cases result <;> exact {
    accs := hcore n ▸ h.accs, ldc := hcore n ▸ h.ldc, stc := hcore n ▸ h.stc, holdAcc := hcore n ▸ h.holdAcc
    holdAll := hcore n ▸ h.holdAll, holdStore := hcore n ▸ h.holdStore, regs := hcore n ▸ h.regs
    late := by simpa only [hcore n] using h.late, core := hcore n ▸ h.core
    others := fun m hm => (h.others m hm).trans (hcore m) }

/-- Performing an access touches nothing but the cores. -/
theorem State.landAccess_frame (s : State) (n : Nat) (a : Access) (v : Word) : { s.landAccess n a v with cores := s.cores } = s := by
  unfold State.landAccess State.landReg
  split <;> rfl

/-! ## An access that may be performed (R112, R117, R123, R125, R409) -/

variable {s : State} {n : Nat} {a : Access}

theorem State.performable.mayPerform (h : s.performable n a) : (s.core n).mayPerform a = true := by
  simp only [Core.mayPerform, Core.outstanding, Bool.and_eq_true, List.all_eq_true, Bool.or_eq_true, decide_eq_true_eq,
    Bool.not_eq_true', List.any_eq_false]
  refine ⟨fun b hb => ?_, h.waits⟩
  rcases Nat.lt_or_ge b.id a.id with hlt | hge
  · right
    have hfar := h.older b hb (.inl hlt)
    simp only [Access.overlaps, List.any_eq_false]
    exact fun q hq => by simpa using fun p hp he => hfar p hp q hq he.symm
  · exact .inl hge

theorem State.performable.blocked (h : s.performable n a) {p : Nat} (hp : p ∈ a.pas) (va : Nat) : s.blocked va p = none := by
  simp [State.blocked, h.free p hp, h.reached p hp]

/-- An access that may be performed is, as it is tried for the first time or once more. -/
theorem State.performable.tried {t : State} (h : s.performable n a) (ht : s.perform n a = .ok t) :
    s.tryAccess n a.id a.refused = t := by
  have htakes : a.takes.all s.cmdDone = true := List.all_eq_true.mpr h.takes
  have hcopy : a.pas.any s.copying = false := List.any_eq_false.mpr fun p hp => by simp [h.free p hp]
  simp [State.tryAccess, h.out, h.placed, h.notDeferred, h.mayPerform, htakes, hcopy, ht]

/-- The event that performs it: the first performance, or the second issue of a refused PLD (R117). -/
theorem State.performable.goes {t : State} (h : s.performable n a) (hg : ∀ e ∈ (s.core n).again, e.2.1 ≠ a.id)
    (ht : s.perform n a = .ok t) :
    (if a.refused then exec (.pldReissue n a.id) s else exec (.scalarAccessComplete n a.id) s) = .next t := by
  have htry := h.tried ht
  have hagain : ((s.core n).again.find? fun e => decide (e.2.1 = a.id)) = none :=
    List.find?_eq_none.mpr fun e he => by simpa using hg e he
  cases hr : a.refused with
  | true =>
    show execPldReissue n a.id s = _
    rw [execPldReissue, hagain, ← htry, hr]
  | false =>
    show execScalarAccessComplete n a.id s = _
    rw [execScalarAccessComplete, ← htry, hr]

/-! ## Presence words (R112–R114, R117) -/

section word
variable {pa : Nat} (hpas : a.pas = (List.range 8).map (pa + ·)) (hleft : a.left = [(0, 8)])

include hpas in
theorem Access.word_head : a.pas.headD 0 = pa := by rw [hpas]; rfl

include hpas in
theorem Access.mem_word {k : Nat} (hk : k < 8) : pa + k ∈ a.pas := by rw [hpas]; exact List.mem_map.mpr ⟨k, List.mem_range.mpr hk, rfl⟩

include hleft in
/-- An access in one piece is performed by that piece. -/
theorem State.pickPiece_one : s.pickPiece a = (some (0, 8), s) := by rw [State.pickPiece, hleft]

include hpas in
/-- A sound word that may be read is read from memory. -/
theorem State.performable.reads_word (h : s.performable n a) (hs : s.sound a) :
    s.homeReads a.va a.pas = .ok (s.mem.readBytes pa 8) := by
  have := s.homeReads_ok (n := 8) a.va pa fun va i hi =>
    ⟨h.blocked (Access.mem_word hpas hi) va, hs _ (Access.mem_word hpas hi)⟩
  rwa [hpas]

include hpas hleft in
/-- What a PLD of a sound word does: a full word's data, a deferral while the table has room, a refusal (R112, R117). -/
theorem State.performable.pld (h : s.performable n a) (hk : a.kind = .pld) (hs : s.sound a) : s.perform n a = .ok
    (if s.isFull pa then s.landAccess n a (BitVec.ofNat 64 (s.mem.readNat pa 8))
    else if 4096 ≤ s.deferCount (homeSlice pa) then s.setAccess n { a with refused := true }
    else { s.setAccess n { a with deferred := true, refused := false } with
      deferrals := s.deferrals ++ [⟨s.nextDeferral, pa / 8, .pld n a.id, none⟩], nextDeferral := s.nextDeferral + 1 }) := by
  have hp : s.perform n a = s.performPld n a := by simp only [State.perform, State.pickPiece_one hleft, hk]
  rw [hp, State.performPld, h.reads_word hpas hs, Access.word_head hpas]
  simp only [apply_ite Except.ok]
  rfl

include hpas hleft in
/-- PST fills an empty word, and with it the deferrals on the word (R113). -/
theorem State.performable.pst (h : s.performable n a) (hk : a.kind = .pst) (he : s.isFull pa = false) : s.perform n a = .ok
    (State.accessDone { s.keepHosts (pa / 8 * 8) 8 with
      mem := s.mem.writeNat (pa / 8 * 8) 8 (BitVec.ofNat 64 a.val.toNat).toNat
      full := SMap.set false s.full (pa / 8) true
      deferrals := s.deferrals.map fun d =>
        if d.word = pa / 8 ∧ d.filled = none then { d with filled := some (BitVec.ofNat 64 a.val.toNat) } else d } n a) := by
  have hb : s.blocked a.va pa = none := h.blocked (Access.mem_word hpas (k := 0) (by decide)) a.va
  have hp : s.perform n a = (s.fillWord a.va (a.pas.headD 0) (BitVec.ofNat 64 a.val.toNat)).map (·.accessDone n a) := by
    simp only [State.perform, State.pickPiece_one hleft, hk]
  rw [hp, Access.word_head hpas, State.fillWord, he, hb]
  rfl

include hpas hleft in
/-- PCLR empties its word (R114). -/
theorem State.performable.pclr (h : s.performable n a) (hk : a.kind = .pclr) :
    s.perform n a = .ok ((s.setFull pa false).accessDone n a) := by
  have hb : s.blocked a.va pa = none := h.blocked (Access.mem_word hpas (k := 0) (by decide)) a.va
  simp only [State.perform, State.pickPiece_one hleft, hk, Access.word_head hpas, hb]

end word

theorem State.keepHosts_cores (s : State) (pa k : Nat) : (s.keepHosts pa k).cores = s.cores := by
  induction k generalizing s pa with
  | zero => rfl
  | succ k ih =>
    rw [State.keepHosts, ih, State.keepHost]
    split <;> rfl

/-- The presence bit of one word, set or cleared, leaves those of all others. -/
theorem State.isFull_set (f : SMap Bool) (w : Nat) (b : Bool) (p : Nat) :
    SMap.get false (SMap.set false f w b) (p / 8) = if p / 8 = w then b else SMap.get false f (p / 8) := by
  by_cases h : p / 8 = w
  · rw [if_pos h, h, SMap.get_set_same]
  · rw [if_neg h, SMap.get_set_other _ _ _ h]

/-- The low bytes of a value are those of the value cut to them. -/
theorem leBytes_mod (n v : Nat) : leBytes n (v % 256 ^ n) = leBytes n v := by
  induction n generalizing v with
  | zero => rfl
  | succ n ih =>
    have hlow : BitVec.ofNat 8 (v % 256 ^ (n + 1)) = BitVec.ofNat 8 v := by
      apply BitVec.eq_of_toNat_eq
      simp only [BitVec.toNat_ofNat]
      exact Nat.mod_mod_of_dvd v (Dvd.intro_left (256 ^ n) rfl)
    have hdiv : v % 256 ^ (n + 1) / 256 = v / 256 % 256 ^ n := by rw [Nat.pow_succ, Nat.mul_comm, Nat.mod_mul_right_div_self]
    rw [leBytes, leBytes, hlow, hdiv, ih]

/-- A run of bytes written at once stands there, and nothing else has changed. -/
theorem stored_writeBytes {s t : State} {pa : Nat} {bs : List Byte} (h : t.mem = s.mem.writeBytes pa bs) :
    Stored s t ((List.range bs.length).map (pa + ·)) bs where
  inside k hk _ := by
    have hk' : k < bs.length := by simpa using hk
    have hget : ((List.range bs.length).map (pa + ·)).getD k 0 = pa + k := by simp [hk']
    rw [hget, h, Memory.read_writeBytes_in _ _ _ _ hk', List.getElem?_eq_getElem hk']
  outside p hp := by
    rw [h]
    refine Memory.read_writeBytes_other _ _ ?_
    by_contra hin
    exact hp (List.mem_map.mpr ⟨p - pa, List.mem_range.mpr (by omega), by omega⟩)

/-- A deferral whose word is filled lands in its access (R112). -/
theorem State.landDeferral_pld {s : State} {d : Deferral} {n : Nat} {a : Access} {v : Word}
    (hd : s.deferrals.find? (fun e => decide (e.id = d.id)) = some d) (hv : d.filled = some v) (hw : d.who = .pld n a.id)
    (ha : (s.core n).accs.find? (fun b => decide (b.id = a.id)) = some a) : s.landDeferral d.id =
      State.landAccess { s with deferrals := s.deferrals.filter fun e => decide (e.id ≠ d.id) } n a v := by
  rw [State.landDeferral, hd]
  simp only [hv, hw]
  have : (State.core { s with deferrals := s.deferrals.filter fun e => decide (e.id ≠ d.id) } n) = s.core n := rfl
  rw [this, ha]

/-- Settles O20: each kind's performance is one equation for `perform`, and each is read through what lands on the core. -/
theorem presenceIsPerformed : Obligations.PresenceIsPerformed := by
  unfold Obligations.PresenceIsPerformed
  refine ⟨?words, ?second, ?deferred⟩
  case words =>
    intro s n a pa h hpas hal hleft hg go
    have acts {t : State} (ht : s.perform n a = .ok t) : go = .next t := h.goes hg ht
    refine ⟨fun hk hs hf => ?full, fun hk hs hf hroom => ?defer, fun hk hs hf hroom => ?refuse, fun hk hr hf => ?fills,
      fun hk hr => ?clears⟩
    case full =>
      have ht := h.pld hpas hleft hk hs
      rw [if_pos hf] at ht
      exact ⟨_, acts ht, performed_landAccess .., s.landAccess_frame ..⟩
    case defer =>
      have ht := h.pld hpas hleft hk hs
      rw [if_neg (by simp [hf]), if_neg (by omega)] at ht
      exact ⟨_, acts ht, rfl, congrArg Core.accs (State.core_setCore_same s _ n), rfl, rfl⟩
    case refuse =>
      have ht := h.pld hpas hleft hk hs
      rw [if_neg (by simp [hf]), if_pos hroom] at ht
      exact ⟨_, acts ht, rfl, rfl, rfl, congrArg Core.accs (State.core_setCore_same s _ n)⟩
    case fills =>
      have hword : pa / 8 * 8 = pa := by omega
      have hval : (BitVec.ofNat 64 a.val.toNat).toNat = a.val.toNat % 256 ^ 8 := BitVec.toNat_ofNat ..
      refine ⟨_, acts (h.pst hpas hleft hk hf), (performed_accessDone _ n a).of_cores (State.keepHosts_cores ..), ?stored,
        fun p => State.isFull_set s.full (pa / 8) true p, rfl⟩
      rw [hpas]
      refine stored_writeBytes (bs := leBytes 8 a.val.toNat) ?_
      show s.mem.writeNat (pa / 8 * 8) 8 (BitVec.ofNat 64 a.val.toNat).toNat = _
      rw [hword, hval, Memory.writeNat, leBytes_mod]
    case clears =>
      exact ⟨_, acts (h.pclr hpas hleft hk), (performed_accessDone _ n a).of_cores rfl, rfl, rfl,
        fun p => State.isFull_set s.full (pa / 8) false p⟩
  case second =>
    intro s va pa v hf
    rw [State.fillWord, if_pos hf]
  case deferred =>
    intro s d n a v hd hv hw ha
    refine ⟨_, congrArg Host.Outcome.next (State.landDeferral_pld hd hv hw ha), (performed_landAccess _ n a v).of_cores rfl, ?_, ?_⟩
    · exact congrArg State.deferrals (State.landAccess_frame _ n a v)
    · exact congrArg (fun t : State => { t with deferrals := s.deferrals }) (State.landAccess_frame _ n a v)

end Sys2Proof.Machine
end

section
/-! PROOFS. Anti-tokens: one acts through `fabricAct` inside a fabric, and through `linkAnti` over a gang's edge link. -/

namespace Sys2Proof.Machine

/-! ## Acts of a fabric -/

/-- What an act of a running fabric makes of its core. -/
theorem State.fabricAct_ok {s : State} {n place : Nat} {k : Core → FabRes} {c : Core} {f : Flags} (hr : (s.core n).run ≠ .idle)
    (hp : place ∉ (s.core n).pausedPorts) (hk : k (s.core n) = .ok c f) : s.fabricAct n place k = s.acted n c f := by
  simp only [State.fabricAct, hr, hp, or_self, if_false, hk]
  rfl

/-! ## Reverse slots (R57) -/

theorem Core.rev_setRev (c : Core) (x v y : Nat) : (c.setRev x v).rev y = if y = x then v else c.rev y := by
  by_cases h : y = x
  · rw [if_pos h, h]
    exact SMap.get_set_same ..
  · rw [if_neg h]
    exact SMap.get_set_other _ _ _ h

@[simp] theorem Core.queue_setRev (c : Core) (x v y : Nat) : (c.setRev x v).queue y = c.queue y := rfl

theorem State.core_stir_same (s : State) (n : Nat) (f : Core → Core) :
    (s.stir n f).core n = { f (s.core n) with drained := false, moved := s.gtc } := State.core_setCore_same ..

theorem State.core_stir_other (s : State) {n m : Nat} (f : Core → Core) (h : m ≠ n) : (s.stir n f).core m = s.core m :=
  State.core_setCore_other _ _ _ _ h

/-! ## An anti-token at its source (R58–R60) -/

section source
variable {s : State} {n dst : Nat}

/-- An anti-token of a place inside a fabric whose path no CFG.PATCH switches acts on that fabric. -/
theorem antiToken_turns {c : Core} (hl : isLink dst = false) (hp : s.patched n ((s.core n).srcOf dst) = false)
    (hr : (s.core n).run ≠ .idle) (hd : dst ∉ (s.core n).pausedPorts) (hk : (s.core n).antiStep dst = .ok c Flags.none) :
    s.turns n (.antiTokenArrival n dst) c 0#6 := by
  show execAntiTokenArrival n dst s = _
  rw [execAntiTokenArrival, if_neg (by simp [hl]), if_neg (by simp [hp]), State.fabricAct_ok hr hd hk]
  rfl

variable {c : Core} (hrev : c.rev dst ≠ 0) (hsrc : c.srcOf dst ≠ nowhere)

include hrev hsrc in
/-- It meets the data token that its branch has not taken. -/
theorem Core.antiStep_meets {d : BitVec 32} {rest : List Slot} (hq : c.queue (c.srcOf dst) = .tok ⟨0#5, d⟩ :: rest)
    (ht : dst ∉ c.took (c.srcOf dst)) : c.antiStep dst = .ok (Core.settle (c.srcOf dst) settleFuel
      ((c.setRev dst (c.rev dst - 1)).setTook (c.srcOf dst) (dst :: c.took (c.srcOf dst)))) Flags.none := by
  have hm : c.meets (c.srcOf dst) dst = true := by simp [Core.meets, hq, ht, Token.isData]
  simp only [Core.antiStep, hrev, hsrc, hm, if_true, if_false]
  rfl

include hrev hsrc in
/-- At an empty source of one branch it enters the source's reverse side. -/
theorem Core.antiStep_enters (hq : c.queue (c.srcOf dst) = []) (hd : (c.destsOf (c.srcOf dst)).length ≤ 1) :
    c.antiStep dst = (c.setRev dst (c.rev dst - 1)).antiAtSource (c.srcOf dst) := by
  have hm : c.meets (c.srcOf dst) dst = false := by simp [Core.meets, hq]
  simp only [Core.antiStep, hrev, hsrc, hm, hd, if_true, if_false, Bool.false_eq_true]

end source

/-- A free register's reverse slot takes an anti-token. -/
theorem Core.antiAtSource_register {c : Core} {x : Nat} (hx : x < 1024) (hr : c.rev x = 0) :
    c.antiAtSource x = .ok (c.setRev x 1) Flags.none := by
  simp only [Core.antiAtSource, hx, hr, if_true]

/-- An element with results under way holds it (R59). -/
theorem Core.antiAtSource_busy {c : Core} {r : Nat} (hr : r < 256) (hb : c.heldAt (elemPlace r) < (c.est r).buf.length)
    (h7 : c.heldAt (elemPlace r) < 7) : c.antiAtSource (elemPlace r) =
      .ok (Core.settle (elemPlace r) settleFuel (c.setHeld (elemPlace r) (c.heldAt (elemPlace r) + 1))) Flags.none := by
  have hlo : ¬elemPlace r < 1024 := by unfold elemPlace; omega
  have hhi : elemPlace r < 1280 := by unfold elemPlace; omega
  have hsite : elemPlace r - 1024 = r := by unfold elemPlace; omega
  have hgone : c.heldAt (elemPlace r) < inflight (c.queue (elemPlace r)) + (c.est r).buf.length := by omega
  rw [Core.antiAtSource, if_neg hlo, if_pos hhi, hsite, Core.antiAtElem]
  simp only [hgone, if_true, Nat.not_le.mpr h7, if_false]

/-! ## Over a gang's edge link (R40, R57) -/

/-- Over a link it passes into the empty register of the other member's fabric. -/
theorem State.linkAnti_passes {s : State} {n dst m x : Nat} (hl : s.linkFrom n dst = some (m, x)) (hr : (s.core n).rev dst ≠ 0)
    (hq : (s.core m).queue x = []) (hx : (s.core m).rev x = 0) (hp : s.patched m x = false) : s.linkAnti n dst =
      (s.stir n fun c => c.setRev dst (c.rev dst - 1)).stir m fun f => f.setRev x 1 := by
  simp only [State.linkAnti, hl, hr, hp, hq, hx, Bool.false_eq_true, or_self, if_false, if_true]

theorem antiToken_link {s : State} {n dst : Nat} (hl : isLink dst = true) :
    exec (.antiTokenArrival n dst) s = .next (s.linkAnti n dst) := by
  show execAntiTokenArrival n dst s = _
  rw [execAntiTokenArrival, if_pos hl]

/-- Settles O36: a switched path takes none, a link hands it to the other fabric, and inside a fabric `antiStep` is one of its
three outcomes. -/
theorem antiTokens : Obligations.AntiTokens := by
  unfold Obligations.AntiTokens
  intro s n dst c src c1
  refine ⟨?link, ?switched, ?inside⟩
  case link =>
    intro m x hlink hfrom hmn hrev hq hx hp
    refine ⟨_, antiToken_link hlink, fun y => ?_, fun y => ?_⟩ <;> rw [State.linkAnti_passes hfrom hrev hq hx hp]
    · rw [State.core_stir_other _ _ hmn.symm, State.core_stir_same]
      exact Core.rev_setRev ..
    · rw [State.core_stir_same, State.core_stir_other _ _ hmn]
      exact Core.rev_setRev ..
  case switched =>
    intro h
    by_cases hl : isLink dst = true
    · rw [if_pos hl] at h
      obtain ⟨m, x, hfrom, hp⟩ := h
      rw [antiToken_link hl]
      simp only [State.linkAnti, hfrom, hp, or_true, if_true]
    · rw [if_neg hl] at h
      show execAntiTokenArrival n dst s = _
      rw [execAntiTokenArrival, if_neg hl, if_pos h]
  case inside =>
    intro hl hr hd hp hrev hsrc
    refine ⟨fun d rest hq ht => ?meets, fun hq hone => ?enters⟩
    case meets => exact antiToken_turns hl hp hr hd (Core.antiStep_meets hrev hsrc hq ht)
    case enters =>
      have henter := Core.antiStep_enters hrev hsrc (List.head?_eq_none_iff.mp hq) hone
      refine ⟨fun hx hfree => ?register, fun r hsite hr256 hb h7 => ?busy⟩
      case register => exact antiToken_turns hl hp hr hd (henter.trans (Core.antiAtSource_register hx hfree))
      case busy =>
        rw [hsite] at hb h7 ⊢
        refine antiToken_turns hl hp hr hd (henter.trans ?_)
        show c1.antiAtSource src = _
        rw [hsite]
        exact Core.antiAtSource_busy hr256 hb h7

end Sys2Proof.Machine
end

section
/-! PROOFS. Stream commands issue: each form issues its own words, and a command that is accepted retires or enters its
queues. -/

namespace Sys2Proof.Machine

/-! ## The words a form issues (R157, R202) -/

/-- A bit set to what it is. -/
theorem setBit_of_eq {m : Nat} {x : BitVec m} {i : Nat} {b : Bool} (hi : i < m) (h : x.getLsbD i = b) : setBit x i b = x := by
  apply BitVec.eq_of_getLsbD_eq
  intro j _
  rw [setBit_get _ _ _ _ hi]
  split
  · rw [← h, ‹j = i›]
  · rfl

/-- A bit of a word, read off a field of it. -/
theorem BitVec.getLsbD_eq_decide {m : Nat} (x : BitVec m) (i : Nat) : x.getLsbD i = decide (x.toNat / 2 ^ i % 2 = 1) := by
  rw [← BitVec.testBit_toNat, Nat.testBit_eq_decide_div_mod_eq]

variable {w : CmdWords}

/-- A HURDLE whose ACT is the form's, or the reserved code of the form with ACT 0, keeps its words. -/
theorem withAct_self {a : Nat} (ha : a < 3) (h : w.hurdleAct = a ∨ (a = 0 ∧ w.hurdleAct = 3)) : withAct a w = w := by
  unfold withAct
  split
  · rfl
  · have hact : w.w3.toNat / 2 ^ 28 % 4 = a := by
      rcases h with h | h
      · exact h
      · contradiction
    have h28 : w.w3.getLsbD 28 = (a == 1) := by
      rw [BitVec.getLsbD_eq_decide, beq_eq_decide]
      exact decide_eq_decide.mpr (by omega)
    have h29 : w.w3.getLsbD 29 = (a == 2) := by
      rw [BitVec.getLsbD_eq_decide, beq_eq_decide]
      exact decide_eq_decide.mpr (by omega)
    rw [setBit_of_eq (by decide) h28, setBit_of_eq (by decide) h29]

/-- A SCATTER whose OP is the form's, or a code above 4 with the form of ADD, keeps its words. -/
theorem withOp_self {op : Nat} (ho : op < 5) (h : w.scatterOp = op ∨ (op = 0 ∧ 5 ≤ w.scatterOp)) : withOp op w = w := by
  unfold withOp
  unfold CmdWords.scatterOp at h
  split
  · rfl
  · have hop : w.w3.toNat / 2 ^ 10 % 8 = op := by omega
    have bit (i : Nat) (hi : i < 3) : w.w3.getLsbD (10 + i) = op.testBit i := by
      rw [BitVec.getLsbD_eq_decide, Nat.testBit_eq_decide_div_mod_eq, ← hop]
      refine decide_eq_decide.mpr ?_
      interval_cases i <;> omega
    rw [setBit_of_eq (by decide) (bit 0 (by decide)), setBit_of_eq (by decide) (bit 1 (by decide)),
      setBit_of_eq (by decide) (bit 2 (by decide))]

theorem withDir_self {b : Bool} (h : w.indScatter = b) : withDir b w = w := by
  rw [withDir, setBit_of_eq (by decide) h]

theorem withMode_self {m : BitVec 2} (h : w.mode = m ∨ (m = 0 ∧ w.mode = 3)) : withMode m w = w := by
  unfold withMode
  rcases h with rfl | ⟨rfl, h⟩
  · exact ite_self _
  · rw [if_pos ⟨h, rfl⟩]

/-- The mode codes of a COPY form other than the fills. -/
theorem copyMode_cases {m : BitVec 2} (h1 : m ≠ 1#2) (h2 : m ≠ 2#2) : m = 0#2 ∨ (0#2 = 0#2 ∧ m = 3#2) := by
  revert m
  decide

theorem withVar_self {v : BitVec 4} (h : w.var = v) : withVar v w = w := by subst h; rfl

theorem cmdOf_opcode {i : Instr} {opc : Nat} (h : cmdOf i = some (opc, w)) : opc < 256 := by
  unfold cmdOf at h
  split at h <;> cases h <;> decide

/-- The words a form issues: those of the instruction, with the field that names the form set to the form's code. -/
def formWords : Instr → CmdWords → CmdWords
  | .hurdleArriveWait _ => withAct 0
  | .hurdleArrive _ => withAct 1
  | .hurdleWait _ => withAct 2
  | .copy _ => withMode 0#2
  | .copyFill _ => withMode 1#2
  | .copyWfill _ => withMode 2#2
  | .copyIndGather _ => withDir false
  | .copyIndScatter _ => withDir true
  | .mmAccZero _ => withVar 0#4
  | .mmAccLoad _ => withVar 1#4
  | .mmAccStore _ => withVar 2#4
  | .scatterAdd _ => withOp 0
  | .scatterMin _ => withOp 1
  | .scatterMax _ => withOp 2
  | .scatterFirst _ => withOp 3
  | .scatterLast _ => withOp 4
  | _ => id

/-- Each form issues under its opcode. -/
theorem exec_form {i : Instr} {opc : Nat} (h : cmdOf i = some (opc, w)) (s : State) :
    exec i s = issueCmd opc (formWords i w) s := by
  unfold cmdOf at h
  split at h <;> cases h <;> rfl

/-- In a command the encodings admit, the field that names the form holds its code already (R202, R214, R220, R279). -/
theorem formWords_self {i : Instr} {opc : Nat} (h : cmdOf i = some (opc, w)) (hw : i.wf = true) : formWords i w = w := by
  unfold formWords
  split
  case h_17 => rfl
  all_goals
    cases h
    obtain ⟨-, hform⟩ := Bool.and_eq_true_iff.mp hw
  case h_1.refl =>
    have hact : w.hurdleAct ≠ 1 ∧ w.hurdleAct ≠ 2 := by simpa using hform
    exact withAct_self (by decide) (by unfold CmdWords.hurdleAct at *; omega)
  case h_2.refl => exact withAct_self (by decide) (.inl (of_decide_eq_true hform))
  case h_3.refl => exact withAct_self (by decide) (.inl (of_decide_eq_true hform))
  case h_4.refl =>
    have hmode : w.mode ≠ 1#2 ∧ w.mode ≠ 2#2 := by simpa using hform
    exact withMode_self (copyMode_cases hmode.1 hmode.2)
  case h_5.refl => exact withMode_self (.inl (of_decide_eq_true hform))
  case h_6.refl => exact withMode_self (.inl (of_decide_eq_true hform))
  case h_7.refl => exact withDir_self (by simpa using hform)
  case h_8.refl => exact withDir_self hform
  case h_9.refl => exact withVar_self (of_decide_eq_true hform)
  case h_10.refl => exact withVar_self (of_decide_eq_true hform)
  case h_11.refl => exact withVar_self (of_decide_eq_true hform)
  case h_12.refl =>
    have hop : w.scatterOp = 0 ∨ 5 ≤ w.scatterOp := by simpa using hform
    exact withOp_self (by decide) (hop.imp_right fun h => ⟨rfl, h⟩)
  case h_13.refl => exact withOp_self (by decide) (.inl (of_decide_eq_true hform))
  case h_14.refl => exact withOp_self (by decide) (.inl (of_decide_eq_true hform))
  case h_15.refl => exact withOp_self (by decide) (.inl (of_decide_eq_true hform))
  case h_16.refl => exact withOp_self (by decide) (.inl (of_decide_eq_true hform))

/-- A command the encodings admit issues under its opcode with its words as they stand. -/
theorem exec_command {i : Instr} {opc : Nat} (h : cmdOf i = some (opc, w)) (hw : i.wf = true) (s : State) :
    exec i s = issueCmd opc w s := by
  rw [exec_form h, formWords_self h hw]

/-! ## What holds an issue (R26, R28, R128, R216) -/

theorem Core.outstanding_eq_false {c : Core} {ids : List Nat} (h : ∀ a ∈ c.accs, a.id ∉ ids) : c.outstanding ids = false :=
  List.any_eq_false.mpr fun a ha => by simpa using h a ha

theorem Core.guardsHold_iff (c : Core) (w : CmdWords) : c.guardsHold w = true ↔ c.enabled w := by
  simp [Core.guardsHold, Core.enabled, and_assoc]

theorem Core.participates_iff (c : Core) (w : CmdWords) :
    mcParticipates c.rank (c.operand (w.used 0x31) 0 w.e) w.w3 = true ↔ c.partOf w := by
  simp [mcParticipates, Core.partOf, Core.operand, CmdWords.used]

/-- An accepted command retires by its guards or by the mask of its COPY.MC, or it acts. -/
theorem State.accepts.issue {s : State} {opc : Nat} (h : s.accepts opc w) : issueCmd opc w s =
    if !s.here.guardsHold w then .next (if w.close && !s.here.mayClose then s else s.withHere (s.here.retired w))
    else if opc = 0x31 ∧ !mcParticipates s.here.rank (s.here.operand (w.used opc) 0 w.e) w.w3 then
      .next (if w.close && !s.here.mayClose then s
        else s.withHere { s.here.retired w with mcIssued := s.here.mcIssued + 1 })
    else .next (s.issueActing s.cur opc w) := by
  have hmode : (s.here.hm && (decide (opc = 0 ∨ opc = 2) || (decide (opc = 0x21) && w.var.getLsbD 0))) = false := by
    cases hm : s.here.hm with
    | false => rfl
    | true =>
      obtain ⟨h0, h2, h21⟩ := h.mode hm
      simpa [h0, h2] using h21
  have hall := Core.outstanding_eq_false fun a ha => (h.fences a ha).1
  have hstore := Core.outstanding_eq_false fun a ha => (h.fences a ha).2
  have hreads : ((readsOf w opc).any fun r => s.regPending s.cur r.toNat) = false :=
    List.any_eq_false.mpr fun r hr => by simp [h.reads r hr]
  have hmask : (decide (opc = 0x44) && s.maskPending s.cur (w.w3.toNat % 8)) = false := by
    by_cases h44 : opc = 0x44
    · simp [h.masks.2 h44]
    · simp [h44]
  have hi : (s.core s.cur).issues = true := h.issues
  unfold State.here at hmode hall hstore
  simp only [issueCmd, hi, h.fields, hmode, hall, hstore, hreads, h.masks.1, hmask, h.room, Bool.not_true, Bool.or_self,
    Bool.false_eq_true, if_false]
  rfl

theorem Core.closeBatch_of_empty {c : Core} (h : c.openBatch = []) : c.closeBatch = c := by
  rw [Core.closeBatch, if_pos h]

/-- Going past a command, as the issue does it. -/
theorem Core.past_eq (c : Core) (close : Prop) [Decidable close] : c.past close = (if close then c.closeBatch else c).next 4 := by
  have hclosed : (if close ∧ c.openBatch ≠ [] then
      { c with openBatch := [], batchNo := c.batchNo + 1, btc := c.btc + 1 } else c) = if close then c.closeBatch else c := by
    by_cases hc : close
    · by_cases ho : c.openBatch = []
      · rw [if_neg fun h => h.2 ho, if_pos hc, Core.closeBatch, if_pos ho]
      · rw [if_pos ⟨hc, ho⟩, if_pos hc, Core.closeBatch, if_neg ho]
    · rw [if_neg fun h => hc h.1, if_neg hc]
  have hsoff : (if close then c.closeBatch else c).soff = c.soff := by
    rw [apply_ite Core.soff, Core.closeBatch_soff, ite_self]
  rw [Core.past, hclosed, ← hsoff]
  rfl

theorem Core.past_congr (c : Core) {p q : Prop} [Decidable p] [Decidable q] (h : p ↔ q) : c.past p = c.past q := by
  rw [Core.past_eq, Core.past_eq]
  simp only [h]

@[simp] theorem Core.accs_past (c : Core) (close : Prop) [Decidable close] : (c.past close).accs = c.accs := by
  by_cases h : close ∧ c.openBatch ≠ []
  · simp only [Core.past, if_pos h]
  · simp only [Core.past, if_neg h]

/-- Replacing the outstanding accesses before or after going past a command is the same. -/
theorem Core.past_accs (c : Core) (close : Prop) [Decidable close] (l : List Access) :
    { c.past close with accs := l } = Core.past { c with accs := l } close := by
  by_cases h : close ∧ c.openBatch ≠ []
  · simp only [Core.past, if_pos h]
  · simp only [Core.past, if_neg h]

/-! ## The command that a tag names (R24) -/

/-- The last member of a list that passes a test, with what follows it. -/
theorem List.getLast?_filter_eq_some {α : Type} {p : α → Bool} {l : List α} {x : α} :
    (l.filter p).getLast? = some x ↔ p x = true ∧ ∃ before after, l = before ++ x :: after ∧ ∀ y ∈ after, p y = false := by
  rw [List.getLast?_filter, List.find?_eq_some_iff_append]
  refine and_congr_right fun _ => ⟨?_, ?_⟩
  · rintro ⟨as, bs, hl, h⟩
    refine ⟨bs.reverse, as.reverse, ?_, fun y hy => by simpa using h y (List.mem_reverse.mp hy)⟩
    simpa using congrArg List.reverse hl
  · rintro ⟨before, after, rfl, h⟩
    exact ⟨after.reverse, before.reverse, by simp, fun y hy => by simp [h y (List.mem_reverse.mp hy)]⟩

theorem State.mem_bindTag (s : State) (n : Nat) (tag : BitVec 6) (i : Nat) : i ∈ s.bindTag n tag ↔ s.latestOf n tag i := by
  have hmem : i ∈ s.bindTag n tag ↔ (s.producers n tag).getLast? = some i := by
    unfold State.bindTag
    split
    · rename_i j hj
      rw [hj, List.mem_singleton, Option.some.injEq, eq_comm]
    · rename_i hj
      simp [hj]
  rw [hmem, State.producers, List.getLast?_map, Option.map_eq_some_iff]
  constructor
  · rintro ⟨j, hj, hid⟩
    obtain ⟨hp, before, after, hl, hafter⟩ := List.getLast?_filter_eq_some.mp hj
    simp only [Bool.and_eq_true, decide_eq_true_eq] at hp
    exact ⟨before, j, after, hl, hid, hp.1, hp.2, fun x hx ho => by simpa [ho] using hafter x hx⟩
  · rintro ⟨before, j, after, hl, hid, ho, ht, hafter⟩
    refine ⟨j, List.getLast?_filter_eq_some.mpr ⟨by simp [ho, ht], before, after, hl, fun x hx => ?_⟩, hid⟩
    by_cases hx' : x.owner = .core n <;> simp [hx', hafter x hx]

/-! ## The destination of a PORT.TAKE (R167, R212) -/

/-- Commands that would land in a register no longer do. -/
theorem State.cmds_claimReg (s : State) (n r : Nat) :
    (s.claimReg n r).cmds = s.cmds.map fun k => if k.takes n r then { k with areg := 57#6 } else k := by
  unfold State.claimReg
  by_cases h : r = 57
  · have hsame : (fun k : Cmd => if k.takes n r then { k with areg := 57#6 } else k) = id := by
      funext k
      by_cases ht : k.takes n r = true
      · have hd : k.areg.toNat = r := by unfold Cmd.takes at ht; simp at ht; exact ht.2
        have : k.areg = 57#6 := BitVec.eq_of_toNat_eq (hd.trans h)
        simp [ht, ← this]
      · simp [ht]
    rw [if_pos h, hsame, List.map_id]
  · rw [if_neg h]

theorem State.core_claimReg_same (s : State) (n r : Nat) : (s.claimReg n r).core n =
    { s.core n with accs := (s.core n).accs.map fun a => if a.targets r then { a with dst := 57 } else a } := by
  unfold State.claimReg
  by_cases h : r = 57
  · have hsame : (fun a : Access => if a.targets r then { a with dst := 57 } else a) = id := by
      funext a
      by_cases ht : a.targets r = true
      · have hd : a.dst = 57 := by unfold Access.targets at ht; simp at ht; exact ht.1.trans h
        simp [← hd]
      · simp [ht]
    rw [if_pos h, hsame, List.map_id]
  · rw [if_neg h]
    exact State.core_setCore_same ..

theorem State.core_claimReg_other (s : State) {n m : Nat} (r : Nat) (h : m ≠ n) : (s.claimReg n r).core m = s.core m := by
  unfold State.claimReg
  split
  · rfl
  · exact State.core_setCore_other _ _ _ _ h

/-- A claim leaves everything but its core and the commands. -/
theorem State.apart_claimReg (s : State) (n r : Nat) : (s.claimReg n r).apart = s.apart := by
  unfold State.claimReg
  split <;> rfl

/-! ## A command enters its queues (R24, R25, R28, R29) -/

/-- The core that has queued a command, before its batch closes. -/
def Core.joined (c : Core) (opc : Nat) (w : CmdWords) (id : Nat) : Core := { c with
  lastOf := (afterKeys opc w.prio.toNat w.w3).foldl (fun m q => SMap.put m q id) c.lastOf
  cpc := if countsCpc opc then c.cpc + 1 else c.cpc
  tlc := if countsTlc opc then c.tlc + 1 else c.tlc
  ldc := if opc = 0x12 then c.ldc + 1 else c.ldc
  holdTake := if opc = 0x12 then c.holdTake ++ [id] else c.holdTake
  mcIssued := if opc = 0x31 then c.mcIssued + 1 else c.mcIssued
  cfgBy := if opc = 0 ∨ opc = 2 then some id else c.cfgBy
  heldBy := if opc = 0x21 ∧ w.var.getLsbD 0 = true ∧ w.w3.toNat / 2 ^ 28 % 4 ≠ 1 then some id else c.heldBy
  openBatch := if joinsBatch opc then c.openBatch ++ [id] else c.openBatch }

variable {s : State} {opc : Nat}

/-- The command that issues: its words, and for a CFG.PATCH the list it will switch. -/
def State.queuedCmd (s : State) (opc : Nat) (w : CmdWords) : Cmd :=
  if opc = 1 then { s.newCmd s.cur opc w with list := s.peekPatch (s.newCmd s.cur opc w) } else s.newCmd s.cur opc w

theorem State.queuedCmd_eq (s : State) (opc : Nat) (w : CmdWords) :
    s.queuedCmd opc w = { s.newCmd s.cur opc w with list := (s.queuedCmd opc w).list } := by
  unfold State.queuedCmd
  split <;> rfl

/-- The batch a command is in closes by its CLOSE bit, by a BATCH, or at its 32nd command (R29). -/
theorem Core.issued_eq (c : Core) (h : opc < 256) : c.issued (s.queuedCmd opc w) w.close = (c.joined opc w s.nextCmd).past
    (w.close = true ∨ opc = 0x20 ∨ (joinsBatch opc = true ∧ 31 ≤ c.openBatch.length) ∨ 32 ≤ c.openBatch.length) := by
  have hopc : (BitVec.ofNat 8 opc).toNat = opc := Nat.mod_eq_of_lt h
  have hcond : (w.close || decide (opc = 0x20) || decide (32 ≤ (c.joined opc w s.nextCmd).openBatch.length)) = true ↔
      (w.close = true ∨ opc = 0x20 ∨ (joinsBatch opc = true ∧ 31 ≤ c.openBatch.length) ∨ 32 ≤ c.openBatch.length) := by
    have hlen : 32 ≤ (c.joined opc w s.nextCmd).openBatch.length ↔
        (joinsBatch opc = true ∧ 31 ≤ c.openBatch.length) ∨ 32 ≤ c.openBatch.length := by
      by_cases hj : joinsBatch opc = true
      · simp only [Core.joined, hj, if_true, List.length_append, List.length_singleton, true_and]
        omega
      · simp [Core.joined, hj]
    simp only [Bool.or_eq_true, decide_eq_true_eq, hlen, or_assoc]
  rw [← Core.past_congr _ hcond, Core.past_eq, State.queuedCmd_eq]
  simp only [Core.issued, State.newCmd, hopc]
  rfl

/-- What the issue of a command leaves, but for the command itself. -/
def State.issuing (s : State) (opc : Nat) (w : CmdWords) : State :=
  let s1 : State := { s.withHere (s.here.issued (s.queuedCmd opc w) w.close) with nextCmd := s.nextCmd + 1 }
  if opc = 0x12 then s1.claimReg s.cur w.a.toNat else s1

theorem State.issueActing_eq (s : State) (opc : Nat) (w : CmdWords) : s.issueActing s.cur opc w =
    if opc = 0x20 ∧ s.here.openBatch = [] then s.issuing opc w
    else { s.issuing opc w with cmds := (s.issuing opc w).cmds ++ [s.queuedCmd opc w] } := rfl

theorem State.cmds_issuing : (s.issuing opc w).cmds =
    s.cmds.map fun j => if opc = 0x12 ∧ j.takes s.cur w.a.toNat then { j with areg := 57#6 } else j := by
  unfold State.issuing
  by_cases h : opc = 0x12
  · simp only [h, if_true, true_and]
    exact State.cmds_claimReg ..
  · simp [h, State.withHere]

theorem State.here_issuing (h : opc < 256) : (s.issuing opc w).core s.cur = Core.past
    { s.here.joined opc w s.nextCmd with
      accs := s.here.accs.map fun x => if opc = 0x12 ∧ x.targets w.a.toNat then { x with dst := 57 } else x }
    (w.close = true ∨ opc = 0x20 ∨ (joinsBatch opc = true ∧ 31 ≤ s.here.openBatch.length) ∨ 32 ≤ s.here.openBatch.length) := by
  rw [← Core.past_accs, ← Core.issued_eq s.here h]
  unfold State.issuing
  have hset (c : Core) : State.core { s.withHere c with nextCmd := s.nextCmd + 1 } s.cur = c := State.core_setCore_same ..
  have haccs : (s.here.issued (s.queuedCmd opc w) w.close).accs = s.here.accs := by
    rw [Core.issued_eq s.here h, Core.accs_past]
    rfl
  by_cases h12 : opc = 0x12
  · simp only [h12, if_true, true_and, State.core_claimReg_same, hset] at haccs ⊢
    rw [haccs]
  · simp only [h12, if_false, false_and, List.map_id', hset, ← haccs]

theorem State.core_issuing_other {m : Nat} (h : m ≠ s.cur) : (s.issuing opc w).core m = s.core m := by
  have hset : (s.withHere (s.here.issued (s.queuedCmd opc w) w.close)).core m = s.core m := State.core_setCore_other _ _ _ _ h
  unfold State.issuing
  split
  · exact (State.core_claimReg_other _ _ h).trans hset
  · exact hset

theorem State.apart_issuing : (s.issuing opc w).apart = { s.apart with nextCmd := s.nextCmd + 1 } := by
  unfold State.issuing
  split
  · exact State.apart_claimReg ..
  · rfl

/-- What a command waits for (R24, R29, R139, R197). -/
theorem State.mem_waits_newCmd (s : State) (opc : Nat) (w : CmdWords) (i : Nat) : i ∈ (s.newCmd s.cur opc w).waits ↔
    (1 ≤ w.nw.toNat ∧ s.latestOf s.cur w.wa i) ∨ (w.nw = 2 ∧ s.latestOf s.cur w.wb i) ∨
    (w.after = true ∧ s.here.previous opc w i ∧ s.cmdDone i = false) ∨ (opc = 0x20 ∧ i ∈ s.here.openBatch) := by
  have hprev : i ∈ (afterKeys opc w.prio.toNat w.w3).filterMap (fun q =>
      ((s.here.lastOf.find? fun e => decide (e.1 = q)).map (·.2))) ↔ s.here.previous opc w i := by
    simp only [List.mem_filterMap, Option.map_eq_some_iff, Core.previous]
  have hmem {p : Prop} [Decidable p] {l : List Nat} : i ∈ (if p then l else []) ↔ p ∧ i ∈ l := by
    split <;> simp [*]
  have hc : s.core s.cur = s.here := rfl
  simp only [State.newCmd, List.mem_dedup, List.mem_append, hc, hmem, State.mem_bindTag, List.mem_filter, hprev, or_assoc,
    and_assoc, Bool.not_eq_true']
  rfl

/-- A command whose guards hold enters its queues. -/
theorem queuedCmd_issueActing (h : opc < 256) (ho : ¬(opc = 0x20 ∧ s.here.openBatch = [])) :
    QueuedCmd s (s.issueActing s.cur opc w) opc w (s.queuedCmd opc w) := by
  have hk := s.queuedCmd_eq opc w
  have ht : s.issueActing s.cur opc w = { s.issuing opc w with cmds := (s.issuing opc w).cmds ++ [s.queuedCmd opc w] } := by
    rw [State.issueActing_eq, if_neg ho]
  have hapart : (s.issuing opc w).apart = { s.apart with nextCmd := s.nextCmd + 1 } := State.apart_issuing
  have hcur : (s.issuing opc w).apart.cur = s.cur := by rw [hapart]; rfl
  have hcore (m : Nat) : (s.issueActing s.cur opc w).core m = (s.issuing opc w).core m := by rw [ht]; rfl
  exact {
    cmds := by rw [ht]; exact congrArg (· ++ _) State.cmds_issuing
    ident := by rw [hk]; exact ⟨rfl, rfl, rfl, rfl, rfl⟩
    words := by rw [hk]; exact ⟨rfl, rfl, rfl, rfl, rfl, rfl, rfl, rfl⟩
    a := by
      rw [hk]
      show (if opc = 0x12 then 0#64 else s.here.operand (w.used opc) 4 w.a) = _
      by_cases h12 : opc = 0x12 <;> simp [h12, Core.operand]
    b := by rw [hk]; rfl
    c := by rw [hk]; rfl
    d := by rw [hk]; rfl
    e := by rw [hk]; rfl
    waits := fun i => by rw [hk]; exact s.mem_waits_newCmd opc w i
    accs := by
      rw [hk]
      show (if opc ∈ [0x03, 0x04, 0x12, 0x20, 0xA0] then [] else s.here.releasedIds) = _
      simp only [List.mem_cons, List.not_mem_nil, or_false]
      rfl
    batch := by rw [hk]; rfl
    fresh := by rw [hk]; exact ⟨rfl, rfl, rfl⟩
    mask := by rw [hk]; rfl
    next := by rw [ht]; exact congrArg State.nextCmd hapart
    core := by
      have hhere : (s.issueActing s.cur opc w).here = (s.issuing opc w).core s.cur := by
        rw [ht, ← hcur]
        rfl
      rw [hhere, hk]
      exact State.here_issuing h
    others := fun m hm => (hcore m).trans (State.core_issuing_other hm)
    rest := by
      rw [ht]
      exact congrArg (fun t : State => { t with cores := s.cores, cmds := s.cmds, nextCmd := s.nextCmd }) hapart }

/-- A BATCH of an empty open batch queues nothing (R29). -/
theorem issuing_empty_batch (ho : s.here.openBatch = []) : (s.issuing 0x20 w).cmds = s.cmds ∧
    (s.issuing 0x20 w).core s.cur =
      { s.here.past False with lastOf := ((s.issuing 0x20 w).core s.cur).lastOf } := by
  have haccs : s.here.accs.map (fun x => if 0x20 = 0x12 ∧ x.targets w.a.toNat then { x with dst := 57 } else x) = s.here.accs := by
    simp
  refine ⟨by rw [State.cmds_issuing]; simp, ?_⟩
  rw [State.here_issuing (by decide), haccs, Core.past_eq, Core.past_eq, if_neg not_false]
  rw [Core.closeBatch_of_empty (by exact ho), ite_self]
  rfl

/-- Settles O38: an admitted command issues its own words; an accepted one retires by its guards or its COPY.MC's mask, and
otherwise enters its queues. -/
theorem commandsIssue : Obligations.CommandsIssue := by
  unfold Obligations.CommandsIssue
  refine ⟨?acts, ?retires⟩
  case acts =>
    intro s i opc w hi hwf hacc hen hpart
    have hopc := cmdOf_opcode hi
    have hexec : exec i s = .next (s.issueActing s.cur opc w) := by
      have hmc : ¬(opc = 0x31 ∧ (!mcParticipates s.here.rank (s.here.operand (w.used opc) 0 w.e) w.w3) = true) := by
        rintro ⟨rfl, hno⟩
        rw [(s.here.participates_iff w).mpr (hpart rfl)] at hno
        exact absurd hno (by decide)
      rw [exec_command hi hwf, hacc.issue, (s.here.guardsHold_iff w).mpr hen, if_neg (by decide), if_neg hmc]
    refine ⟨fun ho => ⟨_, _, hexec, queuedCmd_issueActing hopc ho⟩, ?_⟩
    rintro rfl ho
    rw [State.issueActing_eq, if_pos ⟨rfl, ho⟩] at hexec
    obtain ⟨hcmds, hcore⟩ := issuing_empty_batch (w := w) ho
    exact ⟨_, hexec, hcmds, hcore, fun m hm => State.core_issuing_other hm⟩
  case retires =>
    intro s i opc w hi hwf hacc hclose
    have hstall : (w.close && !s.here.mayClose) = false := by
      cases hc : w.close with
      | false => rfl
      | true => simp [hclose hc]
    have hretired : s.here.retired w = s.here.past (w.close = true) := (Core.past_eq ..).symm
    rw [exec_command hi hwf, hacc.issue, hstall, hretired]
    refine ⟨fun hen => ?_, fun hen h31 hpart => ?_⟩
    · have hg : s.here.guardsHold w = false := by
        rw [← Bool.not_eq_true, s.here.guardsHold_iff]
        exact hen
      rw [hg]
      rfl
    · subst h31
      have hp : mcParticipates s.here.rank (s.here.operand (w.used 0x31) 0 w.e) w.w3 = false := by
        rw [← Bool.not_eq_true, s.here.participates_iff]
        exact hpart
      rw [(s.here.guardsHold_iff w).mpr hen, hp]
      rfl

end Sys2Proof.Machine
end

section
/-! PROOFS. Dispatch of a runner node: the entries of the graph engine, a context without a trace area, members as they begin and as a
record that binds nothing is installed on them. -/

namespace Sys2Proof.Machine

/-! ## Entries of the graph engine (R320) -/

section
variable (s : State) {d e d' e' : Nat}

@[simp] theorem State.dep_setDep_same (x : DepEntry) : (s.setDep d e x).dep d e = x := by
  unfold State.setDep State.dep
  rw [State.die_setDie_same]
  split
  · next hx => rw [SMap.get_del_same, hx]
  · exact SMap.get_put_same ..

theorem State.dep_setDep_other (x : DepEntry) (h : (d', e') ≠ (d, e)) : (s.setDep d e x).dep d' e' = s.dep d' e' := by
  unfold State.setDep State.dep
  by_cases hd : d' = d
  · have he : e' ≠ e := fun he => h (by rw [hd, he])
    subst hd
    rw [State.die_setDie_same]
    split
    · exact SMap.get_del_other _ _ he
    · exact SMap.get_put_other _ _ _ he
  · rw [State.die_setDie_other _ _ _ _ hd]

@[simp] theorem State.node?_setDep_node (x : NodeEntry) : (s.setDep d e (.node x)).node? d e = some x := by
  simp [State.node?]

@[simp] theorem State.launch?_setDep_launch (l : LaunchEntry) : (s.setDep d e (.launch l)).launch? d e = some l := by
  simp [State.launch?]

theorem State.node?_setDep_other (x : DepEntry) (h : (d', e') ≠ (d, e)) : (s.setDep d e x).node? d' e' = s.node? d' e' := by
  unfold State.node?; rw [State.dep_setDep_other s x h]

theorem State.launch?_setDep_other (x : DepEntry) (h : (d', e') ≠ (d, e)) : (s.setDep d e x).launch? d' e' = s.launch? d' e' := by
  unfold State.launch?; rw [State.dep_setDep_other s x h]

end

theorem State.node?_congr {s t : State} (h : t.dies = s.dies) (d e : Nat) : t.node? d e = s.node? d e := by
  unfold State.node? State.dep State.die; rw [h]

theorem State.launch?_congr {s t : State} (h : t.dies = s.dies) (d e : Nat) : t.launch? d e = s.launch? d e := by
  unfold State.launch? State.dep State.die; rw [h]

/-! ## A context without a trace area (R414) -/

section
variable {s : State} {k : Nat} (h : s.untraced k)
include h

theorem State.untraced.traceMode : s.traceMode k = 0 := by
  unfold State.traceMode; rw [show s.traceHdr k = none from h]; rfl

theorem State.untraced.traceRoom : s.traceRoom k = true := by
  unfold State.traceRoom; rw [show s.traceHdr k = none from h]

theorem State.untraced.trace (t agent pc soff img d0 d1 : Nat) : s.trace k t agent pc soff img d0 d1 = s := by
  unfold State.trace; rw [show s.traceHdr k = none from h]

theorem State.untraced.logDispatch (d e : Nat) (cores : List Nat) : s.logDispatch k d e cores = s := by
  unfold State.logDispatch
  rw [if_neg (by rw [h.traceMode]; decide), h.trace]

/-- A READY node that waits may be dispatched, onto the cores that it finds. -/
theorem State.untraced.mayDispatch {d e : Nat} {x : NodeEntry} (hk : x.ctx = k) (hw : s.waits x = true) : s.mayDispatch d e x = true := by
  subst hk
  unfold State.waits at hw
  simp only [Bool.and_eq_true] at hw
  obtain ⟨⟨⟨_, hholds⟩, hheld⟩, hlaunched⟩ := hw
  simp [State.mayDispatch, hholds, hheld, hlaunched, h.traceRoom, h.traceMode]

theorem State.untraced.choice {d e : Nat} {x : NodeEntry} (hk : x.ctx = k) : s.choice (d, e, x) = s.coresFor (d, e, x) := by
  subst hk
  simp [State.choice, h.traceMode]

end

/-! ## The choice of a node (R323, R324) -/

section
variable {s : State} {d e : Nat} {x : NodeEntry} {cores : List Nat}

/-- A node of cores is no affair of the engines. -/
theorem State.dispatchEngine_runner (h : ∀ y, s.node? d e = some y → y.nr.kind = 0) : s.dispatchEngine d e = s := by
  unfold State.dispatchEngine
  split
  · rfl
  · next y hy => rw [if_neg fun hc => hc.1 (h y hy)]

theorem State.dispatchEngines_runners (h : ∀ i y, s.node? d i = some y → y.nr.kind = 0) (l : List Nat) :
    l.foldl (fun s e => s.dispatchEngine d e) s = s := by
  induction l with
  | nil => rfl
  | cons i r ih => rw [List.foldl_cons, State.dispatchEngine_runner (h i), ih]

/-- No replay finds its next DISPATCH of no use. -/
theorem State.checkDispatches_none (h : ∀ k < 4, s.traceMode k = 2 → s.dispatchForeign k d = false) : s.checkDispatches d = s := by
  have : (List.range 4).filter (fun k => decide (s.traceMode k = 2) && s.dispatchForeign k d) = [] := by
    refine List.filter_eq_nil_iff.mpr fun k hk => ?_
    rw [Bool.and_eq_true, decide_eq_true_eq]
    rintro ⟨hm, hf⟩
    rw [h k (List.mem_range.mp hk) hm] at hf
    cases hf
  unfold State.checkDispatches; rw [this]; rfl

theorem State.waits_of_waiting (h : (d, e, x) ∈ s.waiting d) : s.waits x = true := by
  unfold State.waiting at h
  obtain ⟨⟨i, y⟩, _, hy⟩ := List.mem_filterMap.mp h
  split at hy
  · split at hy
    · next hw => cases hy; exact hw
    · cases hy
  · cases hy

/-- The only waiting node of a die that finds its cores is dispatched onto them. -/
theorem nodeDispatch_single (hw : s.waiting d = [(d, e, x)]) (hk : ∀ i y, s.node? d i = some y → y.nr.kind = 0)
    (hu : s.untraced x.ctx) (hc : s.coresFor (d, e, x) = some cores)
    (hf : ∀ k < 4, s.traceMode k = 2 → s.dispatchForeign k d = false) :
    exec (.nodeDispatch d) s = .next (s.dispatchOnto (d, e, x) cores) := by
  have hr : s.ranked [(d, e, x)] = [(d, e, x)] := rfl
  have hfix : s.fixBlocks [(d, e, x)] = s := by simp [State.fixBlocks, hc]
  have hd : s.mayDispatch d e x = true := hu.mayDispatch rfl (State.waits_of_waiting (by rw [hw]; exact .head _))
  show execNodeDispatch d s = _
  simp only [execNodeDispatch, State.checkDispatches_none hf, State.dispatchEngines_runners hk, hw, hr, hfix, List.findSome?_cons, hd,
    hu.choice rfl, hc, if_true, Option.map_some]

end

/-! ## Members begin, and the record is installed (R323) -/

section
variable (x : NodeEntry) (l : LaunchEntry) (d e : Nat) (cores : List Nat)

theorem State.beginMembers_apart (ns : List Nat) (s : State) (rank : Nat) :
    (s.beginMembers x l d e cores rank ns).apart = s.apart := by
  induction ns generalizing s rank with
  | nil => rfl
  | cons n r ih => unfold State.beginMembers; rw [ih, State.apart_updCore]

theorem State.core_beginMembers_other (ns : List Nat) {m : Nat} (s : State) (rank : Nat) (h : m ∉ ns) :
    (s.beginMembers x l d e cores rank ns).core m = s.core m := by
  induction ns generalizing s rank with
  | nil => rfl
  | cons n r ih =>
    obtain ⟨hn, hr⟩ := List.ne_and_not_mem_of_not_mem_cons h
    unfold State.beginMembers
    rw [ih _ _ hr, State.core_updCore_other _ _ _ _ hn]

/-- The i-th of the members begins with rank i. -/
theorem State.core_beginMembers (ns : List Nat) {i n : Nat} (s : State) (rank : Nat) (hns : ns.Nodup) (hi : ns[i]? = some n) :
    (s.beginMembers x l d e cores rank ns).core n = freshCore (s.core n) x l d e (rank + i) cores := by
  induction ns generalizing s rank i with
  | nil => cases hi
  | cons m r ih =>
    obtain ⟨hm, hr⟩ := List.nodup_cons.mp hns
    unfold State.beginMembers
    cases i with
    | zero =>
      cases hi
      rw [State.core_beginMembers_other _ _ _ _ _ _ _ _ hm, State.core_updCore_same]; rfl
    | succ j =>
      have hn : n ≠ m := fun h => hm (h ▸ List.mem_of_getElem? hi)
      rw [ih _ _ hr hi, State.core_updCore_other _ _ _ _ hn, Nat.add_right_comm, Nat.add_assoc]

end

section
variable {va : Nat} {ld : Loaded} (hb : ld.binds = [])
include hb

/-- A core without windows takes a record that binds nothing. -/
theorem State.install_unbound {s : State} {n : Nat} (h : (s.core n).banks = []) : s.install n va ld false =
    .ok (s.updCore n fun c => { c.unbindPorts.installed va ld with moved := s.gtc }) := by
  have hc : s.banksChanged n [] false = [] :=
    List.filter_eq_nil_iff.mpr fun p _ => by simp [bindingOf, State.bank, h, SMap.get]
  simp only [State.install, hb, hc, State.unbindBanks, State.applyBinds, Bool.false_eq_true, if_false, State.updCore_updCore]

/-- So do all members. -/
theorem State.installAll_unbound (ns : List Nat) (s : State) (hns : ns.Nodup) (h : ∀ n ∈ ns, (s.core n).banks = []) :
    ∃ t, s.installAll va ld ns = .ok t ∧ t.apart = s.apart ∧ (∀ n ∉ ns, t.core n = s.core n) ∧
      ∀ n ∈ ns, t.core n = { (s.core n).unbindPorts.installed va ld with moved := s.gtc } := by
  induction ns generalizing s with
  | nil => exact ⟨s, rfl, rfl, fun _ _ => rfl, fun _ hn => nomatch hn⟩
  | cons n r ih =>
    obtain ⟨hn, hr⟩ := List.nodup_cons.mp hns
    unfold State.installAll
    rw [State.install_unbound hb (h n (.head _))]
    have hother : ∀ m, m ≠ n → (s.updCore n fun c => { c.unbindPorts.installed va ld with moved := s.gtc }).core m = s.core m :=
      fun m hm => State.core_updCore_other _ _ _ _ hm
    obtain ⟨t, ht, ha, ho, hm⟩ := ih (s.updCore n fun c => { c.unbindPorts.installed va ld with moved := s.gtc }) hr
      fun m hm => by rw [hother m fun he => hn (he ▸ hm)]; exact h m (.tail _ hm)
    refine ⟨t, ht, ha, fun m hm => ?_, fun m hmem => ?_⟩
    · obtain ⟨h1, h2⟩ := List.ne_and_not_mem_of_not_mem_cons hm
      rw [ho m h2, hother m h1]
    · rcases List.mem_cons.mp hmem with rfl | h2
      · rw [ho m hn, State.core_updCore_same]
      · rw [hm m h2, hother m fun he => hn (he ▸ h2)]; rfl

end

/-! ## The registers of a member as it begins -/

theorem SMap.get_of_not_mem {α : Type} (z : α) {m : SMap α} {i : Nat} (h : i ∉ m.map Prod.fst) : SMap.get z m i = z := by
  induction m with
  | nil => rfl
  | cons p m ih =>
    obtain ⟨hi, hm⟩ := List.ne_and_not_mem_of_not_mem_cons h
    exact (if_neg hi).trans (ih hm)

/-- Leaving out the defaults changes no value. -/
theorem SMap.get_filter_ne {α : Type} [DecidableEq α] (z : α) {m : SMap α} (h : (m.map Prod.fst).Nodup) (i : Nat) :
    SMap.get z (m.filter fun p => decide (p.2 ≠ z)) i = SMap.get z m i := by
  induction m with
  | nil => rfl
  | cons p m ih =>
    obtain ⟨hp, hm⟩ := List.nodup_cons.mp h
    by_cases hz : p.2 = z
    · rw [List.filter_cons_of_neg (by simpa using hz), ih hm]
      by_cases hi : i = p.1
      · rw [hi, SMap.get_of_not_mem z hp]; exact (hz.symm.trans (if_pos rfl).symm)
      · exact (if_neg hi).symm
    · rw [List.filter_cons_of_pos (by simpa using hz)]
      simp only [SMap.get, ih hm]

theorem Core.reg_freshCore (old : Core) (x : NodeEntry) (l : LaunchEntry) (d e rank : Nat) (cores : List Nat) (r : Nat) :
    (freshCore old x l d e rank cores).reg r =
      if r = 0 then l.arg else if r = 1 then x.nr.narg else if r = 2 then BitVec.ofNat 64 (nodeHandle d e) else 0 := by
  unfold Core.reg
  split
  · next h57 => subst h57; rfl
  · exact SMap.get_filter_ne (m := [(0, l.arg), (1, x.nr.narg), (2, BitVec.ofNat 64 (nodeHandle d e))]) 0#64
      (by decide : ([0, 1, 2] : List Nat).Nodup) r

theorem Core.pred_freshCore (old : Core) (x : NodeEntry) (l : LaunchEntry) (d e rank : Nat) (cores : List Nat) (p : Nat) (hp : 0 < p) :
    (freshCore old x l d e rank cores).pred p = false := by
  show (decide (p = 0) || (0#16).getLsbD p) = false
  simp [Nat.pos_iff_ne_zero.mp hp]

theorem Core.mask_freshCore (old : Core) (x : NodeEntry) (l : LaunchEntry) (d e rank : Nat) (cores : List Nat) (m : Nat) (hm : 0 < m) :
    (freshCore old x l d e rank cores).mask m = 0 :=
  if_neg (Nat.pos_iff_ne_zero.mp hm)

/-- Settles O45: the choice falls on the one waiting node, the members begin afresh in rank order, and a record that binds no port
cannot fail to be installed on them. -/
theorem nodeIsDispatched : Obligations.NodeIsDispatched := by
  unfold Obligations.NodeIsDispatched
  intro s d e va x l cores ld hw hk hx hst hl hu hc hne hnd hrec hb hf
  let x1 : NodeEntry := { x with st := .run, cores := cores, ran := cores, fixed := [], dispatched := s.gtc }
  let s1 := (s.setDep d e (.node x1)).beginMembers x l d e cores 0 cores
  have hfresh : ∀ i n, cores[i]? = some n → s1.core n = freshCore (s.core n) x l d e i cores := fun i n hi => by
    have := State.core_beginMembers x l d e cores cores (s.setDep d e (.node x1)) 0 hnd hi
    rwa [Nat.zero_add] at this
  obtain ⟨t, ht, ha, -, hcores⟩ := State.installAll_unbound (va := va) hb cores s1 hnd fun n hn => by
    obtain ⟨i, hi⟩ := List.getElem?_of_mem hn
    rw [hfresh i n hi]; rfl
  have hexec : exec (.nodeDispatch d) s = .next t := by
    rw [nodeDispatch_single hw hk hu hc hf]
    simp only [State.dispatchOnto, hst, hl, State.startRunner, hne, hrec, hu.logDispatch, reduceCtorEq, if_false]
    rw [show s1.installAll va ld cores = .ok t from ht]
  have hdies : t.dies = (s.setDep d e (.node x1)).dies := by
    rw [show t.dies = t.apart.dies from rfl, ha, State.beginMembers_apart]; rfl
  refine ⟨t, hexec, ?_, fun i n hi => ?_⟩
  · rw [State.node?_congr hdies, State.node?_setDep_node]
  · rw [hcores n (List.mem_of_getElem? hi), hfresh i n hi]
    exact ⟨rfl, rfl, rfl, rfl, rfl, rfl, rfl, rfl, rfl, rfl, rfl, rfl, rfl, rfl, rfl, Core.reg_freshCore (s.core n) x l d e i cores,
      Core.pred_freshCore (s.core n) x l d e i cores, Core.mask_freshCore (s.core n) x l d e i cores, rfl, rfl⟩

end Sys2Proof.Machine
end

section
/-! PROOFS. Nodes of a graph: counts and messages, cancellation, completion, NODE.SIG and the fixing of a block. What a runner that
leaves its core writes back and logs touches no graph entry and no message. -/

namespace Sys2Proof.Machine

/-! ## What write-backs and trace records leave alone (R104, R414) -/

/-- Graph entries and messages, and what a context's trace area depends on: links and mappings. -/
def State.setting (s : State) :=
  (s.dies, s.msgs, s.hostDown, s.memPorts, fun k => ((s.ctx k).saveBase, (s.ctx k).pages))

/-- The same, and which cores run. -/
def State.standing (s : State) := (s.setting, fun n => (s.core n).run)

section
variable (s : State) (n : Nat)

theorem State.standing_updCore (f : Core → Core) (h : ∀ c, (f c).run = c.run) : (s.updCore n f).standing = s.standing := by
  refine Prod.ext rfl (funext fun m => ?_)
  show ((s.updCore n f).core m).run = (s.core m).run
  by_cases hm : m = n
  · rw [hm, State.core_updCore_same, h]
  · rw [State.core_updCore_other _ _ _ _ hm]

theorem State.setting_updCtx (f : Context → Context) (h : ∀ c, (f c).saveBase = c.saveBase ∧ (f c).pages = c.pages) :
    (s.updCtx n f).setting = s.setting := by
  have hc : ∀ k, (((s.updCtx n f).ctx k).saveBase, ((s.updCtx n f).ctx k).pages) = ((s.ctx k).saveBase, (s.ctx k).pages) := fun k => by
    by_cases hk : k = n
    · rw [hk, State.ctx_updCtx_same, (h _).1, (h _).2]
    · rw [State.ctx_updCtx_other _ _ _ _ hk]
  unfold State.setting
  rw [funext hc]; rfl

theorem State.standing_updCtx (f : Context → Context) (h : ∀ c, (f c).saveBase = c.saveBase ∧ (f c).pages = c.pages) :
    (s.updCtx n f).standing = s.standing :=
  Prod.ext (State.setting_updCtx s n f h) rfl

theorem State.standing_keepHosts (pa k : Nat) : (s.keepHosts pa k).standing = s.standing := by
  induction k generalizing s pa with
  | zero => rfl
  | succ k ih =>
    rw [State.keepHosts, ih]
    unfold State.keepHost
    split <;> rfl

theorem State.standing_homeWrite {t : State} {pol : BitVec 2} {va pa : Nat} {v : Byte} {clears : Bool}
    (h : s.homeWrite pol va pa v clears = .ok t) : t.standing = s.standing := by
  obtain ⟨-, -, -, hr⟩ := State.homeWrite_cases h
  show State.standing { t with mem := s.mem, poison := s.poison, hostOld := s.hostOld } = s.standing
  rw [hr]

theorem State.standing_storeBytes {t : State} {pol : BitVec 2} {va0 n0 va : Nat} {l : List (Nat × Byte)}
    (h : s.storeBytes none pol va0 n0 va l = .ok t) : t.standing = s.standing := by
  induction l generalizing s va with
  | nil => cases h; rfl
  | cons p r ih =>
    unfold State.storeBytes State.storeByte State.settleFor at h
    simp only [Option.bind_none, ite_self] at h
    split at h
    · cases h
    · next u hu =>
      split at hu
      · cases hu
      · next w hw =>
        cases hu
        exact (ih _ h).trans (State.standing_homeWrite _ hw)

theorem State.standing_devWrite {t : State} {k va : Nat} {bs : List Byte} (h : s.devWrite k va bs = some t) :
    t.standing = s.standing := by
  unfold State.devWrite at h
  split at h
  · cases h
  · split at h
    · cases h
    · next u hu => 
      cases h
      have hs : u.standing = s.uncopied.standing := State.standing_storeBytes _ hu
      exact hs

theorem State.standing_traceField (pa k v : Nat) : (s.traceField pa k v).standing = s.standing := State.standing_keepHosts s pa k

theorem State.standing_traceLose (k : Nat) : (s.traceLose k).standing = s.standing := by
  unfold State.traceLose
  split
  · rfl
  · exact State.standing_traceField ..

@[simp] theorem State.standing_trace (k t agent pc soff img d0 d1 : Nat) : (s.trace k t agent pc soff img d0 d1).standing = s.standing := by
  unfold State.trace
  split
  · rfl
  · split
    · rfl
    · split
      · exact State.standing_traceLose ..
      · extract_lets bs
        split
        · exact State.standing_traceLose ..
        · next u hu => exact (State.standing_traceField ..).trans (State.standing_devWrite s hu)

@[simp] theorem State.standing_traceCore (t d0 d1 soff : Nat) : (s.traceCore n t d0 d1 soff).standing = s.standing :=
  State.standing_trace ..

theorem State.standing_spill (l : List (Nat × (Word × Nat))) : (s.spill n l).standing = s.standing := by
  induction l generalizing s with
  | nil => rfl
  | cons p r ih => obtain ⟨i, key, cnt⟩ := p; rw [State.spill, ih, State.standing_traceCore]

theorem State.standing_flushMerges (l : List (Nat × ElemState)) : (s.flushMerges n l).standing = s.standing := by
  induction l generalizing s with
  | nil => rfl
  | cons p r ih =>
    obtain ⟨site, x⟩ := p
    rw [State.flushMerges, ih]
    split
    · exact State.standing_trace ..
    · rfl

theorem State.standing_foldl {α : Type} (f : State → α → State) (h : ∀ s a, (f s a).standing = s.standing) (l : List α) :
    (l.foldl f s).standing = s.standing := by
  induction l generalizing s with
  | nil => rfl
  | cons a r ih => rw [List.foldl_cons, ih, h]

theorem State.standing_writeChans : (s.writeChans n).standing = s.standing := by
  refine State.standing_foldl s _ (fun u i => ?_) _
  split
  · next w hw => exact State.standing_devWrite u hw
  · exact State.standing_traceLose ..

theorem State.standing_consumeLog (k i : Nat) : (s.consumeLog k i).standing = s.standing := by
  unfold State.consumeLog
  split
  · rfl
  · exact (State.standing_traceField ..).trans (State.standing_updCtx _ _ _ fun c => ⟨rfl, rfl⟩)

theorem State.standing_traceStop (k : Nat) : (s.traceStop k).standing = s.standing := by
  unfold State.traceStop
  split
  · rfl
  · exact State.standing_traceField ..

theorem State.standing_diverge (found : Nat) : (s.diverge n found).standing = s.standing :=
  (State.standing_traceCore ..).trans (State.standing_traceStop ..)

theorem State.standing_endLoad : (s.endLoad n).standing = s.standing := by
  unfold State.endLoad
  extract_lets k s1 s2 s3 sum s4 s5
  have h1 : s1.standing = s.standing := by
    unfold s1; split
    · exact State.standing_flushMerges ..
    · rfl
  have h2 : s2.standing = s1.standing := State.standing_spill ..
  have h3 : s3.standing = s2.standing := by
    unfold s3; split
    · exact State.standing_writeChans ..
    · rfl
  have h4 : s4.standing = s3.standing := State.standing_traceCore ..
  have h5 : s5.standing = s4.standing := by
    unfold s5; split
    · split
      · rfl
      · extract_lets want s6
        split
        · exact State.standing_consumeLog ..
        · exact (State.standing_diverge ..).trans (State.standing_consumeLog ..)
    · rfl
  refine (State.standing_updCore _ _ _ fun c => ?_).trans (by rw [h5, h4, h3, h2, h1])
  rfl

theorem State.standing_stored (m : Memory) (p : SMap Poison) : State.standing { s with mem := m, poison := p } = s.standing := rfl

theorem State.standing_writeBack (x : Sector) : (s.writeBack x).standing = s.standing := by
  unfold State.writeBack
  split
  · exact (State.standing_stored _ _ _).trans (State.standing_keepHosts ..)
  · rfl

theorem State.standing_writeBackList (l : List (Nat × Sector)) : (s.writeBackList l).standing = s.standing := by
  induction l generalizing s with
  | nil => rfl
  | cons p r ih => obtain ⟨i, x⟩ := p; rw [State.writeBackList, ih, State.standing_writeBack]

theorem State.standing_flushBanks (l : List Nat) : (s.flushBanks n l).standing = s.standing := by
  induction l generalizing s with
  | nil => rfl
  | cons b r ih =>
    rw [State.flushBanks, ih]
    refine (State.standing_updCore _ _ _ fun c => ?_).trans (State.standing_writeBackList ..)
    rfl

theorem State.setting_vacate : (s.vacate n).setting = s.setting := rfl

theorem State.run_vacate (m : Nat) : ((s.vacate n).core m).run = if m = n then .idle else (s.core m).run := by
  unfold State.vacate
  extract_lets s2 u
  change (u.core m).run = _
  split
  · next hm => rw [hm, State.core_updCore_same]
  · next hm => rw [State.core_updCore_other _ _ _ _ hm]; rfl

theorem State.standing_left : ((s.flushCore n).endLoad n).standing = s.standing :=
  (State.standing_endLoad ..).trans (State.standing_flushBanks ..)

theorem State.setting_of_standing {s t : State} (h : t.standing = s.standing) : t.setting = s.setting := congrArg Prod.fst h

theorem State.run_of_standing {s t : State} (h : t.standing = s.standing) (m : Nat) : (t.core m).run = (s.core m).run :=
  congrFun (congrArg Prod.snd h) m

/-- A core is left: nothing of the setting changes, and only this core falls idle. -/
theorem State.setting_leaveCore : (s.leaveCore n).setting = s.setting := by
  rw [State.leaveCore, State.setting_vacate, State.setting_of_standing (State.standing_left s n)]

theorem State.run_leaveCore (m : Nat) : ((s.leaveCore n).core m).run = if m = n then .idle else (s.core m).run := by
  rw [State.leaveCore, State.run_vacate, State.run_of_standing (State.standing_left s n)]

theorem State.leaveCores_cons (r : List Nat) : s.leaveCores (n :: r) = (s.leaveCore n).leaveCores r := by
  delta State.leaveCores
  rfl

theorem State.setting_leaveCores (l : List Nat) : (s.leaveCores l).setting = s.setting := by
  induction l generalizing s with
  | nil => rfl
  | cons n r ih => rw [State.leaveCores_cons, ih, State.setting_leaveCore]

theorem State.run_leaveCores (l : List Nat) (m : Nat) : ((s.leaveCores l).core m).run = if m ∈ l then .idle else (s.core m).run := by
  induction l generalizing s with
  | nil => rfl
  | cons n r ih =>
    rw [State.leaveCores_cons, ih, State.run_leaveCore]
    by_cases h1 : m ∈ r <;> by_cases h2 : m = n <;> simp [h1, h2]

theorem State.setting_freeSlots (k : Nat) (l : List Nat) : (s.freeSlots k l).setting = s.setting := by
  induction l generalizing s with
  | nil => rfl
  | cons i r ih => rw [State.freeSlots, ih]; exact State.setting_updCtx _ _ _ fun c => ⟨rfl, rfl⟩

end

/-- What a context without a trace area lacks: an area, its mapping, or the link to it. -/
theorem State.untraced_iff {s : State} {k : Nat} : s.untraced k ↔ (s.ctx k).saveBase = 0#64 ∨
    ∀ pa, translate (s.ctx k).pages ((s.ctx k).saveBase.toNat + 64 * 425984) Need.rw = .ok pa → (s.linkFault pa).isSome = true := by
  unfold State.untraced State.traceHdr
  dsimp only
  split
  · next hb => exact iff_of_true rfl (.inl hb)
  · next hb =>
    split
    · next ht => exact iff_of_true rfl (.inr fun pa hpa => by rw [ht] at hpa; cases hpa)
    · next pa ht =>
      split
      · next hl => exact iff_of_true rfl (.inr fun q hq => by rw [ht] at hq; cases hq; exact hl)
      · next hl => exact iff_of_false (by simp) fun h => h.elim hb fun h => hl (h pa ht)

section
variable {s t : State} (h : t.setting = s.setting)
include h

theorem State.dies_of_setting : t.dies = s.dies := congrArg (·.1) h
theorem State.msgs_of_setting : t.msgs = s.msgs := congrArg (·.2.1) h

/-- A context keeps having no trace area while its mappings and the links stand. -/
theorem State.untraced_of_setting {k : Nat} (hu : s.untraced k) : t.untraced k := by
  have hd : t.hostDown = s.hostDown := congrArg (·.2.2.1) h
  have hm : t.memPorts = s.memPorts := congrArg (·.2.2.2.1) h
  have hc : ((t.ctx k).saveBase, (t.ctx k).pages) = ((s.ctx k).saveBase, (s.ctx k).pages) := congrFun (congrArg (·.2.2.2.2) h) k
  obtain ⟨hb, hp⟩ := Prod.mk.inj hc
  have hl : ∀ pa, t.linkFault pa = s.linkFault pa := fun pa => by unfold State.linkFault; rw [hd, hm]
  rw [State.untraced_iff] at hu ⊢
  simpa only [hb, hp, hl] using hu

end

/-! ## Nodes (R320, R322, R370) -/

section
variable {s : State} {d e : Nat} {x : NodeEntry} {l : LaunchEntry}

/-- A node and a launch entry stand at different places. -/
theorem State.node?_ne_launch? {d' e' : Nat} (hx : s.node? d e = some x) (hl : s.launch? d' e' = some l) : (d', e') ≠ (d, e) := by
  rintro hp
  obtain ⟨rfl, rfl⟩ := Prod.mk.inj hp
  unfold State.node? at hx
  unfold State.launch? at hl
  split at hx
  · next n hn => rw [hn] at hl; cases hl
  · cases hx

theorem State.untraced_setDep {k : Nat} (y : DepEntry) : (s.setDep d e y).untraced k ↔ s.untraced k := Iff.rfl

/-- The messages that a node sends to its successors. -/
def NodeEntry.messages (x : NodeEntry) (d : Nat) (l : LaunchEntry) (err : Bool) (cause : Nat) : List GraphMsg :=
  x.nr.succ.filterMap fun i => (l.nodes[i]?).map fun p => ⟨d, p.1, p.2, 1, err, cause⟩

theorem State.sendSucc_eq (hl : s.launch? x.home x.launch = some l) (err : Bool) (cause : Nat) :
    s.sendSucc d x err cause = { s with msgs := s.msgs ++ x.messages d l err cause } := by
  rw [State.sendSucc, hl]; rfl

/-- Some node of the graph other than the one at (d, e) is not over. -/
def State.others (s : State) (l : LaunchEntry) (d e : Nat) : Prop :=
  ∃ p ∈ l.nodes, p ≠ (d, e) ∧ ∃ y, s.node? p.1 p.2 = some y ∧ y.st ≠ .done ∧ y.st ≠ .cancelled

/-- The graph then goes on, whatever becomes of that one. -/
theorem State.others.checkGraph {t : State} (h : s.others l d e) {l' : LaunchEntry} (hl : t.launch? x.home x.launch = some l')
    (hn : l'.nodes = l.nodes) (ht : ∀ d' e', (d', e') ≠ (d, e) → ∀ y, s.node? d' e' = some y → t.node? d' e' = some y) :
    t.checkGraph x.home x.launch = t := by
  obtain ⟨p, hp, hne, y, hy, hdone, hcancelled⟩ := h
  have hover : t.nodeOver p = false := by
    rw [State.nodeOver, ht p.1 p.2 hne y hy]; simp [hdone, hcancelled]
  have hall : l'.nodes.all t.nodeOver = false := List.all_eq_false.mpr ⟨p, hn ▸ hp, by rw [hover]; decide⟩
  unfold State.checkGraph
  rw [hl]
  exact if_neg (by rw [hall, Bool.and_false]; decide)

/-- What a node that ends does last: its successors are told, and its graph goes on. -/
theorem State.others.ends {t : State} (h : s.others l d e) (hu : t.untraced x.ctx) {l' : LaunchEntry}
    (hl : t.launch? x.home x.launch = some l') (hn : l'.nodes = l.nodes)
    (ht : ∀ d' e', (d', e') ≠ (d, e) → ∀ y, s.node? d' e' = some y → t.node? d' e' = some y)
    (type agent pc soff img d0 d1 : Nat) (err : Bool) (cause : Nat) :
    ((t.trace x.ctx type agent pc soff img d0 d1).sendSucc d x err cause).checkGraph x.home x.launch =
      { t with msgs := t.msgs ++ x.messages d l err cause } := by
  rw [hu.trace, State.sendSucc_eq hl, NodeEntry.messages, hn]
  exact h.checkGraph hl hn ht

/-- A waiting node of cores is counted down. -/
theorem State.decrement_waiting (hx : s.node? d e = some x) (hst : x.st = .wait) (hk : x.nr.kind = 0) (h0 : 0 < x.count) {amount : Nat}
    (ha : amount ≤ x.count) (opc : Nat) : s.decrement d e amount opc = s.setDep d e (.node
      (if amount < x.count then { x with count := x.count - amount } else { x with st := .ready, count := 0, tReady := s.gtc })) := by
  simp only [State.decrement, hx, hst]
  rw [if_pos ⟨ha, by omega⟩]
  by_cases he : amount = x.count
  · rw [if_pos he, if_neg (by omega), State.becomeReady, State.dispatchEngine_runner]
    intro y hy
    rw [State.node?_setDep_node] at hy
    cases hy
    exact hk
  · rw [if_neg he, if_pos (by omega)]

/-- A waiting node is cancelled, and its graph goes on. -/
theorem State.cancelNode_waiting (hx : s.node? d e = some x) (hst : x.st = .wait) (hl : s.launch? x.home x.launch = some l)
    (hu : s.untraced x.ctx) (ho : s.others l d e) (cause : Nat) :
    (s.cancelNode d e cause).msgs = s.msgs ++ x.messages d l true cause ∧
    (s.cancelNode d e cause).node? d e = some { x with st := .cancelled, cores := [], slots := [], fixed := [], preemptAt := none } ∧
    (s.cancelNode d e cause).launch? x.home x.launch = some { l with state := if l.state = 0 then cause else l.state } := by
  have hplace := State.node?_ne_launch? hx hl
  let s2 : State := { s with cmds := s.cmds.filter fun k => decide (k.owner ≠ Owner.node d e) }
  let s3 := s2.freeSlots x.ctx x.slots
  let s4 := s3.setDep d e (.node { x with st := .cancelled, cores := [], slots := [], fixed := [], preemptAt := none })
  let l' : LaunchEntry := { l with state := if l.state = 0 then cause else l.state }
  let s5 := s4.setDep x.home x.launch (.launch l')
  have hset : s3.setting = s.setting := State.setting_freeSlots s2 x.ctx x.slots
  have hdies := State.dies_of_setting hset
  have hl4 : s4.launch? x.home x.launch = some l := by
    rw [State.launch?_setDep_other _ _ hplace, State.launch?_congr hdies, hl]
  have hl5 : s5.launch? x.home x.launch = some l' := State.launch?_setDep_launch _ _
  have hend : s.cancelNode d e cause = { s5 with msgs := s5.msgs ++ x.messages d l true cause } := by
    have hu5 : s5.untraced x.ctx := State.untraced_of_setting hset hu
    have hnodes : ∀ d' e', (d', e') ≠ (d, e) → ∀ y, s.node? d' e' = some y → s5.node? d' e' = some y := fun d' e' hne y hy => by
      rw [State.node?_setDep_other _ _ (State.node?_ne_launch? hy hl).symm, State.node?_setDep_other _ _ hne, State.node?_congr hdies, hy]
    rw [← ho.ends hu5 hl5 rfl hnodes 4 (agentWord 8 d 0) 0 0xFFFFFFFF 0 (nodeHandle d e) cause]
    simp only [State.cancelNode, hx, hst, reduceCtorEq, or_self, if_false]
    rw [show s4.launch? x.home x.launch = some l from hl4]
  rw [hend]
  refine ⟨?_, ?_, hl5⟩
  · show s3.msgs ++ _ = _
    rw [State.msgs_of_setting hset]
  · exact (State.node?_setDep_other _ _ hplace.symm).trans (State.node?_setDep_node _ _)

/-- A node is over: its cores fall idle, its successors are told, and its graph goes on. -/
theorem State.completeNode_goes (hx : s.node? d e = some x) (hl : s.launch? x.home x.launch = some l)
    (hu : s.untraced x.ctx) (ho : s.others l d e) :
    (s.completeNode d e x).msgs = s.msgs ++ x.messages d l false 0 ∧
    (s.completeNode d e x).node? d e = some { x with st := .done, cores := [], fixed := [], preemptAt := none } ∧
    ∀ n ∈ x.cores, ((s.completeNode d e x).core n).run = .idle := by
  have hplace := State.node?_ne_launch? hx hl
  have hset := State.setting_leaveCores s x.cores
  have hdies := State.dies_of_setting hset
  let s2 := (s.leaveCores x.cores).setDep d e (.node { x with st := .done, cores := [], fixed := [], preemptAt := none })
  have hl2 : s2.launch? x.home x.launch = some l := by
    rw [State.launch?_setDep_other _ _ hplace, State.launch?_congr hdies, hl]
  have hend : s.completeNode d e x = { s2 with msgs := s2.msgs ++ x.messages d l false 0 } := by
    have hu2 : s2.untraced x.ctx := State.untraced_of_setting hset hu
    exact ho.ends hu2 hl2 rfl (fun d' e' hne y hy =>
      (State.node?_setDep_other _ _ hne).trans ((State.node?_congr hdies d' e').trans hy)) ..
  rw [hend]
  refine ⟨?_, State.node?_setDep_node _ _, fun n hn => ?_⟩
  · show (s.leaveCores x.cores).msgs ++ _ = _
    rw [State.msgs_of_setting hset]
  · show ((s.leaveCores x.cores).core n).run = .idle
    rw [State.run_leaveCores, if_pos hn]

end

/-! ## Commands complete (R24, R225) -/

theorem State.apart_finishCmd (s : State) (id : Nat) : (s.finishCmd id).apart = s.apart := by
  unfold State.finishCmd
  split
  · rfl
  · extract_lets rest rest' s1
    split <;> rfl

theorem State.cmd?_finishCmd (s : State) (id : Nat) : (s.finishCmd id).cmd? id = none := by
  unfold State.finishCmd
  split
  · next h => exact h
  · extract_lets rest rest' s1
    have hrest : s1.cmd? id = none := List.find?_eq_none.mpr fun j hj => by
      have := (List.mem_filter.mp (List.mem_filter.mp hj).1).2
      simpa using this
    split
    · exact hrest
    · exact hrest

/-- A NODE.SIG counts its node down as it completes. -/
theorem State.goSig_counts {s : State} {d e : Nat} {x : NodeEntry} {k : Cmd} (hx : s.node? d e = some x)
    (hk : k.a.toNat = 4096 * d + e) (hd : d < 4) (he : e < 4096) (hctx : x.ctx = k.ctx) :
    s.goSig k = (s.finishCmd k.id).decrement d e (k.w3.toNat % 256) 0x92 := by
  have h1 : k.a.toNat / 4096 = d := by omega
  have h2 : k.a.toNat % 4096 = e := by omega
  simp only [State.goSig, h1, h2, hx]
  exact if_pos ⟨by omega, hctx⟩

/-- Settles O44: counting a waiting node down, cancelling it and completing one are the lemmas above; a NODE.SIG that starts or
completes passes to the rules of its opcode. -/
theorem nodesGo : Obligations.NodesGo := by
  unfold Obligations.NodesGo
  intro s d e x l hx hl hu others messages
  refine ⟨fun m hm hdst hentry hst => ?_, fun hrun hothers hover hleave => ?_, ?_, fun hw hp hfix => ?_⟩
  · subst hdst hentry
    refine ⟨fun herr h0 ha hkind => ?_, fun herr hothers => ?_⟩
    · let s1 : State := { s with msgs := s.msgs.erase m }
      refine ⟨s1.decrement m.dst m.entry m.amount 0, ?_, ?_⟩
      · show execDecrementMessage m.src m.dst s = _
        simp [execDecrementMessage, hm, herr, s1]
      · rw [State.decrement_waiting (s := s1) hx hst hkind h0 ha]
        exact ⟨rfl, rfl, State.node?_setDep_node _ _⟩
    · let s1 : State := { s with msgs := s.msgs.erase m }
      refine ⟨s1.cancelNode m.dst m.entry m.cause, ?_, State.cancelNode_waiting (s := s1) hx hst hl hu hothers m.cause⟩
      show execErrorToken m.src m.dst s = _
      simp [execErrorToken, hm, herr, s1]
  · refine ⟨s.completeNode d e x, ?_, State.completeNode_goes hx hl hu hothers⟩
    show execNodeComplete d e s = _
    simp only [execNodeComplete, hx, hrun, ne_eq, not_true_eq_false, if_false]
    split at hover
    · next hkind =>
      have hall : x.cores.all (fun n => s.memberOver n && !s.flushWaits n && !s.endWaits n) = true :=
        List.all_eq_true.mpr fun n hn => by
          obtain ⟨hf, he⟩ := hleave n hn
          simp [List.all_eq_true.mp hover n hn, hf, he]
      rw [if_pos hkind, if_pos hall]
    · next hkind =>
      obtain ⟨-, hcmds, hnone⟩ := hover
      rw [if_neg hkind, if_neg (by simpa using hnone), if_neg (by omega)]
  · intro n k hk howner hopc dec
    have hadv : ∀ t : State, t.advanceOwner k = t := fun t => by rw [State.advanceOwner, howner]
    have ho : k.opc.toNat = 0x92 := by rw [hopc]; rfl
    refine ⟨fun hearlier => ?_, fun hruns ha hd he hctx hst hkind h0 hdec => ?_⟩
    · have hstart : s.startOf k = s := by
        simp only [State.startOf, ho]
        exact if_pos hearlier
      show execCommandStart k.id s = _
      simp [execCommandStart, hk, hadv, hstart]
    · let s1 := s.finishCmd k.id
      have happ : s1.apart = s.apart := State.apart_finishCmd s k.id
      have hx1 : s1.node? d e = some x := (State.node?_congr (congrArg State.dies happ) d e).trans hx
      have hgtc : s1.apart.gtc = s.apart.gtc := congrArg State.gtc happ
      have hmem : s1.apart.mem = s.apart.mem := congrArg State.mem happ
      refine ⟨s1.decrement d e dec 0x92, ?_, ?_⟩
      · have hcomplete : s.completeOf k = s1.decrement d e dec 0x92 := by
          simp only [State.completeOf, ho]
          exact State.goSig_counts hx ha hd he hctx
        show execCommandComplete k.id s = _
        simp [execCommandComplete, hk, hruns, hadv, hcomplete]
      · rw [State.decrement_waiting hx1 hst hkind h0 hdec, show s1.gtc = s.gtc from hgtc]
        exact ⟨State.cmd?_finishCmd s k.id, hmem, State.node?_setDep_node _ _⟩
  · show execEffectivePriorityReaches3 d e s = _
    simp only [execEffectivePriorityReaches3, hx]
    rw [State.fixBlock, if_pos ⟨hw, hp, hfix⟩]

end Sys2Proof.Machine
end

section
/-! PROOFS. The places of a fabric: what a place holds after tokens are taken, what a running element or operator leaves, and the
tokens of inputs that all hold data. -/

namespace Sys2Proof.Machine

/-! ## Places below the ports (R39, R40) -/

theorem inPlace_lt {r k : Nat} (hr : r < 256) (hk : k < 8) : inPlace r k < 4096 := by
  unfold inPlace
  omega

theorem inPlace_injective (r : Nat) : Function.Injective (inPlace r) := fun i j h => by
  unfold inPlace at h
  omega

theorem Core.queue_of_lt (c : Core) {x : Nat} (hx : x < 4160) : c.queue x = SMap.get [] c.fab.q x := by
  rw [Core.queue, if_neg (by omega), if_neg (by omega)]

theorem Core.setQueue_of_lt (c : Core) {x : Nat} (hx : x < 4160) (q : List Slot) :
    c.setQueue x q = { c with fab := { c.fab with q := SMap.set [] c.fab.q x q } } := by
  rw [Core.setQueue, if_neg (by omega), if_neg (by omega)]

theorem Core.queue_pop (c : Core) {x y : Nat} (hx : x < 4160) (hy : y < 4160) :
    (c.pop x).queue y = if y = x then (c.queue y).drop 1 else c.queue y := by
  rw [Core.pop, Core.setQueue_of_lt c hx, Core.queue_of_lt _ hy, Core.queue_of_lt c hy, Core.queue_of_lt c hx]
  split
  case isTrue h => rw [h, SMap.get_set_same]
  case isFalse h => rw [SMap.get_set_other _ _ _ h]

/-- Taking a token at each of several places takes one from each. -/
theorem Core.queue_popAll {l : List Nat} (hl : ∀ x ∈ l, x < 4160) (hd : l.Nodup) (c : Core) {y : Nat} (hy : y < 4160) :
    (l.foldl Core.pop c).queue y = if y ∈ l then (c.queue y).drop 1 else c.queue y := by
  induction l generalizing c with
  | nil => rfl
  | cons x l ih =>
    obtain ⟨hxl, hd⟩ := List.nodup_cons.mp hd
    rw [List.foldl_cons, ih (fun z hz => hl z (List.mem_cons_of_mem _ hz)) hd, Core.queue_pop c (hl x List.mem_cons_self) hy]
    by_cases hyx : y = x
    · simp [hyx, hxl]
    · simp [hyx]

@[simp] theorem Core.queue_setSegs (c : Core) (x : Nat) (l : List Nat) (y : Nat) : (c.setSegs x l).queue y = c.queue y := rfl

@[simp] theorem Core.queue_setEst (c : Core) (x : Nat) (e : ElemState) (y : Nat) : (c.setEst x e).queue y = c.queue y := rfl

/-! ## Elements and operators act (R42, R45) -/

section acts
variable {s : State} {n r op : Nat} {f : Nat → Core → FabRes} {c : Core} {fl : Flags}

theorem State.site.hasOp (h : s.site n r op) : s.hasOp n r [op] = true := by
  simp [State.hasOp, h.inside, h.op]

/-- An element that is not paused leaves what its step gives. -/
theorem State.site.acts (h : s.site n r op) (hf : f r (s.core n) = .ok c fl) : siteStep op f n r s = .next (s.acted n c fl) := by
  rw [siteStep, if_pos h.hasOp, State.fabricAct_ok h.runs h.goes hf]

/-- An operator that is not paused leaves what its step gives. -/
theorem State.operator.acts (h : s.operator n r op) (hf : f r (s.core n) = .ok c fl) :
    ctlStep op f n r s = .next (s.acted n c fl) := by
  rw [ctlStep, if_pos ⟨h.inside, h.op⟩, State.fabricAct_ok h.runs h.goes hf]

end acts

/-! ## Inputs that all hold data (R42, R65) -/

@[simp] theorem Token.isData_data (d : BitVec 32) : (⟨0#5, d⟩ : Token).isData = true := rfl

/-- Numbered inputs with a data token at each. -/
def dataAt (t : Nat → BitVec 32) (ks : List Nat) : List (Nat × Token) := ks.map fun k => (k, ⟨0#5, t k⟩)

/-- The tokens that a step finds at inputs which all hold data. -/
theorem Core.inputs_of_data {c : Core} {place : Nat → Nat} {t : Nat → BitVec 32} {ks : List Nat}
    (h : ∀ k ∈ ks, c.holdsData (place k) (t k)) :
    (ks.filterMap fun k => (c.input (place k)).map fun u => (k, u)) = dataAt t ks := by
  induction ks with
  | nil => rfl
  | cons k ks ih =>
    have hk : c.input (place k) = some ⟨0#5, t k⟩ := h k List.mem_cons_self
    rw [List.filterMap_cons, hk, ih fun j hj => h j (List.mem_cons_of_mem _ hj)]
    rfl

/-- Members that all agree agree with the first. -/
theorem eq_head?_of_agree {α : Type} {l : List α} (h : ∀ x ∈ l, ∀ y ∈ l, x = y) {x : α} (hx : x ∈ l) : some x = l.head? := by
  cases l with
  | nil => exact absurd hx List.not_mem_nil
  | cons y l => exact congrArg some (h x hx y List.mem_cons_self)

end Sys2Proof.Machine
end

section
/-! PROOFS. Elements of several operands: what they take and fire on. -/

namespace Sys2Proof.Machine

section takes
variable {c : Core} {r : Nat} {t : Nat → BitVec 32}

/-- The token of a numbered input. -/
theorem find?_dataAt (ks : List Nat) (k : Nat) :
    (dataAt t ks).find? (fun p => decide (p.1 = k)) = if k ∈ ks then some (k, ⟨0#5, t k⟩) else none := by
  induction ks with
  | nil => rfl
  | cons j ks ih =>
    rw [dataAt] at ih ⊢
    by_cases hj : j = k
    · simp [hj]
    · simp [hj, Ne.symm hj, ih]

/-- The bits of operand k: its token's, or those of the immediate that stands for b (R42). -/
theorem operandBits_dataAt (w : Nat) (ks : List Nat) (k : Nat) :
    operandBits w (dataAt t ks) k = if k ∈ ks then t k else if k = 1 ∧ wImmb w = true then
      BitVec.ofNat 32 (wImm w % 2 ^ fmtWidth (wFmt w)) else 0#32 := by
  rw [operandBits, find?_dataAt]
  by_cases hk : k ∈ ks
  · rw [if_pos hk, if_pos hk]
  · rw [if_neg hk, if_neg hk]

/-- Outside every segment no counter of the inputs ends one. -/
theorem Core.segAll_outside {ks : List Nat} (h : ∀ k ∈ ks, c.segs (inPlace r k) = [0, 0, 0, 0]) :
    (c.segAll r ks).2 = ks.map fun _ => [] :=
  List.map_congr_left fun k hk => by rw [h k hk]; rfl

theorem segsAgree_of_agree (w : Nat) {zs : List (List Nat)} (h : ∀ x ∈ zs, ∀ y ∈ zs, x = y) : segsAgree w zs = true := by
  rw [segsAgree, Bool.or_eq_true]
  exact .inr (List.all_eq_true.mpr fun x hx => decide_eq_true (eq_head?_of_agree h hx))

theorem Core.segAll_agree {ks : List Nat} (h : ∀ k ∈ ks, c.segs (inPlace r k) = [0, 0, 0, 0]) (w : Nat) :
    segsAgree w (c.segAll r ks).2 = true := by
  refine segsAgree_of_agree w fun x hx y hy => ?_
  rw [Core.segAll_outside h] at hx hy
  obtain ⟨-, -, rfl⟩ := List.mem_map.mp hx
  obtain ⟨-, -, rfl⟩ := List.mem_map.mp hy
  rfl

theorem Core.queue_segAll (ks : List Nat) (y : Nat) : (c.segAll r ks).1.queue y = c.queue y :=
  List.foldlRecOn (motive := fun d : Core => d.queue y = c.queue y) ks _ rfl fun _ hd _ _ => hd

/-- The fabric with a token taken at each of several inputs of an element. -/
def Core.takeInputs (c : Core) (r : Nat) (ks : List Nat) : Core := ks.foldl (fun c k => c.pop (inPlace r k)) c

theorem Core.queue_takeInputs {ks : List Nat} (hr : r < 256) (hk : ∀ k ∈ ks, k < 8) (hd : ks.Nodup) (c : Core) {y : Nat}
    (hy : y < 4160) :
    (c.takeInputs r ks).queue y = if y ∈ ks.map (inPlace r) then (c.queue y).drop 1 else c.queue y := by
  rw [Core.takeInputs, ← List.foldl_map (f := inPlace r) (g := Core.pop)]
  refine Core.queue_popAll (fun x hx => ?_) (hd.map (inPlace_injective r)) c hy
  obtain ⟨k, hks, rfl⟩ := List.mem_map.mp hx
  have := inPlace_lt hr (hk k hks)
  omega

theorem operands_lt {w k : Nat} (h : k ∈ operands w) : k < 3 := by
  have : k ∈ [0, 1, 2] := List.mem_of_mem_filter h
  simp only [List.mem_cons, List.not_mem_nil, or_false] at this
  omega

theorem operands_nodup (w : Nat) : (operands w).Nodup := List.Nodup.filter _ (by decide)

/-- An element with room whose operand inputs all hold data fires on them all (R48). -/
theorem Core.firing_full (hroom : c.hasRoom r) (h : ∀ k ∈ operands (c.word r), c.holdsData (inPlace r k) (t k))
    (hp : wPmode (c.word r) ≠ 0 → ∃ p, c.holdsData (inPlace r 3) p) :
    c.firing r = c.fireFull r (dataAt t (operands (c.word r))) := by
  have howed : (if wPmode (c.word r) = 0 then none else c.predOwed r) = none := by
    split
    case isTrue => rfl
    case isFalse hm =>
      obtain ⟨p, hp⟩ := hp hm
      rw [Core.predOwed, show c.input (inPlace r 3) = _ from hp]
      rfl
  rw [Core.firing, howed, Core.inputs_of_data h]
  simp [dataAt, Nat.not_le.mpr hroom]

variable {ks : List Nat} (hsegs : ∀ k ∈ ks, c.segs (inPlace r k) = [0, 0, 0, 0])
include hsegs

/-- Without a predicate it takes one token from each operand input. -/
theorem Core.fireFull_plain (hm : wPmode (c.word r) = 0) :
    let bits := operandBits (c.word r) (dataAt t ks)
    c.fireFull r (dataAt t ks) = .fires ((c.segAll r ks).1.takeInputs r ks) (bits 0) (bits 1) (bits 2) := by
  have hagree := Core.segAll_agree hsegs (c.word r)
  simp [Core.fireFull, Core.takeInputs, dataAt, hm, hagree, Function.comp_def]

/-- With a predicate it takes that token too, and on zero only takes them (R50). -/
theorem Core.fireFull_predicated (hm : wPmode (c.word r) ≠ 0) {p : BitVec 32} (hp : c.holdsData (inPlace r 3) p) :
    let bits := operandBits (c.word r) (dataAt t ks)
    let c1 := ((c.segAll r ks).1.takeInputs r (3 :: ks)).setEst r
      { ((c.segAll r ks).1.pop (inPlace r 3)).est r with owed := [] }
    c.fireFull r (dataAt t ks) = if p = 0#32 then .skipped c1 (bits 0) else .fires c1 (bits 0) (bits 1) (bits 2) := by
  have hagree := Core.segAll_agree hsegs (c.word r)
  have hp' : c.input (inPlace r 3) = some ⟨0#5, p⟩ := hp
  simp [Core.fireFull, Core.takeInputs, dataAt, hm, hp', hagree, Function.comp_def]

end takes

/-- Settles O22: `fireFull` takes the tokens of all inputs, and its operands are their data. -/
theorem elementTakesOperands : Obligations.ElementTakesOperands := by
  unfold Obligations.ElementTakesOperands
  intro c r t p w ins operand hr hroom hin
  have hdata : ∀ k ∈ operands w, c.holdsData (inPlace r k) (t k) := fun k hk => (hin k hk).1
  have hsegs : ∀ k ∈ operands w, c.segs (inPlace r k) = [0, 0, 0, 0] := fun k hk => (hin k hk).2
  have hlt : ∀ k ∈ operands w, k < 3 := fun k => operands_lt
  have hnodup := operands_nodup w
  have hbits : operandBits w (dataAt t (operands w)) = operand := funext (operandBits_dataAt w (operands w))
  refine ⟨fun hm => ?plain, fun hm hp => ?predicated⟩
  case plain =>
    refine ⟨(c.segAll r (operands w)).1.takeInputs r (operands w), ?_, fun y hy => ?_⟩
    · rw [Core.firing_full hroom hdata (absurd hm), Core.fireFull_plain hsegs hm, ← hbits]
    · rw [Core.queue_takeInputs hr (fun k hk => (hlt k hk).trans (by decide)) hnodup _ (by omega), Core.queue_segAll]
  case predicated =>
    have hfires := (Core.firing_full hroom hdata fun _ => ⟨p, hp⟩).trans (Core.fireFull_predicated hsegs hm hp)
    rw [show operandBits (c.word r) (dataAt t (operands w)) = operand from hbits] at hfires
    have hqueue : ∀ e, ∀ y < 4096, (((c.segAll r (operands w)).1.takeInputs r (3 :: operands w)).setEst r e).queue y =
        if y ∈ inPlace r 3 :: ins then (c.queue y).drop 1 else c.queue y := fun e y hy => by
      have hall : ∀ k ∈ 3 :: operands w, k < 8 := List.forall_mem_cons.mpr
        ⟨by decide, fun k hk => (hlt k hk).trans (by decide)⟩
      have hnone : 3 ∉ operands w := fun h => absurd (hlt 3 h) (by decide)
      rw [Core.queue_setEst, Core.queue_takeInputs hr hall (List.nodup_cons.mpr ⟨hnone, hnodup⟩) _ (by omega), Core.queue_segAll]
      rfl
    exact ⟨fun hne => ⟨_, hfires.trans (if_neg hne), hqueue _⟩, fun hz => ⟨_, hfires.trans (if_pos hz), hqueue _⟩⟩

end Sys2Proof.Machine
end

section
/-! PROOFS. The control operators: what each leaves of the fabric, case by case, and that MERGE without a trace area chooses by
R45. -/

namespace Sys2Proof.Machine

/-! ## One case of an operator each (R45, R239) -/

section cases
variable {c : Core} {r : Nat} {p d : BitVec 32} {u : Token}

theorem Core.ctlFree_of_empty {x : Nat} (h : c.queue x = []) : c.ctlFree x = true := decide_eq_true h

theorem Core.steer_data (ha : c.holdsData (inPlace r 4) p) (hb : c.holdsData (inPlace r 5) d)
    (hfree : c.queue (if p = 0#32 then ctlF r else ctlT r) = []) : c.steer r =
      .ok (((c.pop (inPlace r 4)).pop (inPlace r 5)).push (if p = 0#32 then ctlF r else ctlT r) [⟨0#5, d⟩]) Flags.none := by
  simp only [Core.holdsData] at ha hb
  simp [Core.steer, ha, hb, Core.ctlFree_of_empty hfree]

theorem Core.steer_control (hu : u.isData = false) (ha : c.input (inPlace r 4) = some u) (hb : c.input (inPlace r 5) = some u)
    (hT : c.queue (ctlT r) = []) (hF : c.queue (ctlF r) = []) : c.steer r =
      .ok ((((c.pop (inPlace r 4)).pop (inPlace r 5)).push (ctlT r) [u]).push (ctlF r) [u]) Flags.none := by
  simp [Core.steer, ha, hb, hu, Core.ctlFree_of_empty hT, Core.ctlFree_of_empty hF]

theorem Core.carry_constant (hT : c.queue (ctlT r) = []) (hbusy : (c.est (1024 + r)).busy = false)
    (hi : rIn (c.route r) 0 = 0) : c.carry r = .ok ((c.setEst (1024 + r) { c.est (1024 + r) with busy := true }).push (ctlT r)
      [⟨0#5, BitVec.ofNat 32 (rCinit (c.route r))⟩]) Flags.none := by
  simp [Core.carry, Core.ctlFree_of_empty hT, hbusy, hi, Token.ofData]

theorem Core.carry_initial (hT : c.queue (ctlT r) = []) (hbusy : (c.est (1024 + r)).busy = false)
    (hi : rIn (c.route r) 0 ≠ 0) (ha : c.holdsData (inPlace r 4) d) : c.carry r =
      .ok (((c.pop (inPlace r 4)).setEst (1024 + r) { c.est (1024 + r) with busy := true }).push (ctlT r) [⟨0#5, d⟩])
        Flags.none := by
  simp only [Core.holdsData] at ha
  simp [Core.carry, Core.ctlFree_of_empty hT, hbusy, hi, ha]

theorem Core.carry_loop (hT : c.queue (ctlT r) = []) (hbusy : (c.est (1024 + r)).busy = true)
    (hb : c.holdsData (inPlace r 5) d) : c.carry r = .ok ((c.pop (inPlace r 5)).push (ctlT r) [⟨0#5, d⟩]) Flags.none := by
  simp only [Core.holdsData] at hb
  simp [Core.carry, Core.ctlFree_of_empty hT, hbusy, hb]

/-- A control token of the back-edge makes the next output initial again. -/
theorem Core.carry_ends (hT : c.queue (ctlT r) = []) (hbusy : (c.est (1024 + r)).busy = true) (hu : u.isData = false)
    (hb : c.input (inPlace r 5) = some u) : c.carry r = .ok (((c.pop (inPlace r 5)).setEst (1024 + r)
      { c.est (1024 + r) with busy := false }).push (ctlT r) [u]) Flags.none := by
  simp [Core.carry, Core.ctlFree_of_empty hT, hbusy, hb, hu]

theorem Core.drop_data (ha : c.holdsData (inPlace r 4) d) : c.dropOp r = .ok (c.pop (inPlace r 4)) Flags.none := by
  simp only [Core.holdsData] at ha
  simp [Core.dropOp, ha]

theorem Core.drop_control (hu : u.isData = false) (ha : c.input (inPlace r 4) = some u) (hT : c.queue (ctlT r) = []) :
    c.dropOp r = .ok ((c.pop (inPlace r 4)).push (ctlT r) [u]) Flags.none := by
  simp [Core.dropOp, ha, hu, Core.ctlFree_of_empty hT]

end cases

/-! ## INVAR, where no control token stands at v (R45) -/

section invar
variable {c : Core} {r : Nat} {p d : BitVec 32} {u : Token} (hT : c.queue (ctlT r) = [])
  (hv : ∀ t, c.input (inPlace r 4) = some t → t.isData = true)
include hT hv

theorem Core.invar_repeats (hbusy : (c.est (1024 + r)).busy = true) (hb : c.holdsData (inPlace r 5) d) :
    c.invar r = .ok ((c.pop (inPlace r 5)).push (ctlT r) [⟨0#5, (c.est (1024 + r)).val⟩]) Flags.none := by
  simp only [Core.holdsData] at hb
  cases ha : c.input (inPlace r 4) with
  | none => simp [Core.invar, Core.ctlFree_of_empty hT, ha, hb, hbusy, Token.ofData]
  | some t => simp [Core.invar, Core.ctlFree_of_empty hT, ha, hv t ha, hb, hbusy, Token.ofData]

theorem Core.invar_releases (hu : u.isData = false) (hb : c.input (inPlace r 5) = some u)
    (ho : u.order = some (rClvl (c.route r))) : c.invar r = .ok (((c.pop (inPlace r 5)).setEst (1024 + r)
      { c.est (1024 + r) with busy := false }).push (ctlT r) [u]) Flags.none := by
  cases ha : c.input (inPlace r 4) with
  | none => simp [Core.invar, Core.ctlFree_of_empty hT, ha, hb, hu, ho]
  | some t => simp [Core.invar, Core.ctlFree_of_empty hT, ha, hv t ha, hb, hu, ho]

omit hv in
theorem Core.invar_takes (hbusy : (c.est (1024 + r)).busy = false) (ha : c.holdsData (inPlace r 4) p)
    (hb : c.holdsData (inPlace r 5) d) : c.invar r = .ok ((((c.pop (inPlace r 5)).pop (inPlace r 4)).setEst (1024 + r)
      { c.est (1024 + r) with busy := true, val := p }).push (ctlT r) [⟨0#5, p⟩]) Flags.none := by
  simp only [Core.holdsData] at ha hb
  simp [Core.invar, Core.ctlFree_of_empty hT, ha, hb, hbusy, Token.ofData]

end invar

/-- A control token's order is its level or its rank: no token has both. -/
theorem Token.order_eq {u : Token} {k : Nat} (hu : u.isData = false) (h : u.level? = some k ∨ u.rank? = some k) :
    u.order = some k := by
  rw [Token.order, hu]
  cases h with
  | inl hl => simp [hl]
  | inr hr =>
    have hlevel : u.level? = none := by
      unfold Token.rank? at hr
      unfold Token.level?
      split at hr
      · exact if_neg (by omega)
      · cases hr
    simp [hlevel, hr]

/-! ## MERGE (R45, R422) -/

section merge
variable {c : Core} {r : Nat}

theorem heldData_eq_false {t : Option Token} (h : ∀ u, t = some u → u.isData = false) : heldData t = false := by
  cases t with
  | none => rfl
  | some u => exact h u rfl

theorem Core.holdsData.held {x : Nat} {d : BitVec 32} (h : c.holdsData x d) : heldData (c.input x) = true := by
  rw [show c.input x = _ from h]
  rfl

section choice
variable (ha : heldData (c.input (inPlace r 4)) = true) (hb : heldData (c.input (inPlace r 5)) = true)

include ha in
theorem Core.mergeChoice_first (hb' : heldData (c.input (inPlace r 5)) = false) : c.mergeChoice r = some 0 := by
  rw [Core.mergeChoice, ha, hb']

include hb in
theorem Core.mergeChoice_second (ha' : heldData (c.input (inPlace r 4)) = false) : c.mergeChoice r = some 1 := by
  rw [Core.mergeChoice, ha', hb]

include ha hb in
theorem Core.mergeChoice_both : c.mergeChoice r = some (if (c.est (1024 + r)).k = 1 then 1 else 0) := by
  rw [Core.mergeChoice, ha, hb]

end choice

/-- With data at an input MERGE matches no control tokens. -/
theorem Core.mergeControl_of_data (h : heldData (c.input (inPlace r 4)) = true ∨ heldData (c.input (inPlace r 5)) = true) :
    Core.mergeControl r c = .idle := by
  unfold Core.mergeControl
  cases ha : c.input (inPlace r 4) with
  | none => rfl
  | some a =>
    cases hb : c.input (inPlace r 5) with
    | none => rfl
    | some b =>
      rw [ha, hb] at h
      exact if_pos h

theorem Core.mergeControl_match {u : Token} (hu : u.isData = false) (ha : c.input (inPlace r 4) = some u)
    (hb : c.input (inPlace r 5) = some u) (hT : c.queue (ctlT r) = []) : Core.mergeControl r c =
      .ok (((c.pop (inPlace r 4)).pop (inPlace r 5)).push (ctlT r) [u]) Flags.none := by
  simp [Core.mergeControl, ha, hb, hu, Core.ctlFree_of_empty hT]

theorem Core.mergeTake_data {i : Nat} {d : BitVec 32} (h : c.holdsData (inPlace r (4 + i)) d) (hT : c.queue (ctlT r) = []) :
    Core.mergeTake r i c = .ok (((c.pop (inPlace r (4 + i))).setEst (1024 + r) { c.est (1024 + r) with k := 1 - i }).push (ctlT r)
      [⟨0#5, d⟩]) Flags.none := by
  rw [Core.mergeTake, show c.input (inPlace r (4 + i)) = _ from h]
  simp [Core.ctlFree_of_empty hT]

/-- A MERGE of a running node acts by `State.merge`. -/
theorem merge_exec {s : State} {n : Nat} (h : s.operator n r 2) : exec (.merge n r) s = .next (s.merge n r) := by
  show execMerge n r s = _
  rw [execMerge, if_pos ⟨h.inside, h.op, h.runs⟩]

/-- Without a trace area MERGE takes the data token that R45's alternation chooses. -/
theorem State.operator.merge_takes {s : State} {n i : Nat} {d : BitVec 32} (h : s.operator n r 2)
    (hu : s.untraced (s.core n).ctx) (hT : (s.core n).queue (ctlT r) = []) (hchoice : (s.core n).mergeChoice r = some i)
    (hd : (s.core n).holdsData (inPlace r (4 + i)) d) (hi : i < 2) :
    s.turns n (.merge n r) ((((s.core n).pop (inPlace r (4 + i))).setEst (1024 + r)
      { (s.core n).est (1024 + r) with k := 1 - i }).push (ctlT r) [⟨0#5, d⟩]) 0#6 := by
  have hidle : Core.mergeControl r (s.core n) = .idle := Core.mergeControl_of_data (by
    obtain rfl | rfl : i = 0 ∨ i = 1 := by omega
    · exact .inl hd.held
    · exact .inr hd.held)
  have htake := Core.mergeTake_data hd hT
  refine (merge_exec h).trans (congrArg _ ?_)
  rw [State.merge, hidle]
  simp only [hu.traceMode, hchoice, htake, zero_ne_one, OfNat.zero_ne_ofNat, false_and, if_false]
  exact State.fabricAct_ok h.runs h.goes htake

/-- Matching control tokens go together. -/
theorem State.operator.merge_match {s : State} {n : Nat} {u : Token} (h : s.operator n r 2) (hu : u.isData = false)
    (ha : (s.core n).input (inPlace r 4) = some u) (hb : (s.core n).input (inPlace r 5) = some u)
    (hT : (s.core n).queue (ctlT r) = []) :
    s.turns n (.merge n r) ((((s.core n).pop (inPlace r 4)).pop (inPlace r 5)).push (ctlT r) [u]) 0#6 := by
  have hmatch := Core.mergeControl_match hu ha hb hT
  refine (merge_exec h).trans (congrArg _ ?_)
  rw [State.merge, hmatch]
  exact State.fabricAct_ok h.runs h.goes hmatch

end merge

/-- Settles O34: each operator acts by the equation of its case, and MERGE by its choice. -/
theorem controlOperators : Obligations.ControlOperators := by
  unfold Obligations.ControlOperators
  intro s n r p d u c w ia ib e T F free
  refine ⟨fun h => ⟨fun ha hb hfree => ?_, fun hu ha hb hT hF => ?_⟩, fun h hun hT => ?merge,
    fun h hT => ⟨fun hbusy hi => ?_, fun hbusy hi ha => ?_, fun hbusy hb => ?_, fun hbusy hu hb => ?_⟩,
    fun h hT hv => ⟨fun hbusy ha hb => ?_, fun hbusy hb => ?_, fun hu hb ho => ?_⟩,
    fun h => ⟨fun ha => ?_, fun hu ha hT => ?_⟩⟩
  case merge =>
    refine ⟨fun ha hb => ?_, fun hb ha => ?_, fun ha ⟨q, hb⟩ hk => ?_, fun hb ⟨q, ha⟩ hk => ?_, fun hu ha hb => ?_⟩
    · exact h.merge_takes hun hT (Core.mergeChoice_first ha.held (heldData_eq_false hb)) ha (by decide)
    · exact h.merge_takes hun hT (Core.mergeChoice_second hb.held (heldData_eq_false ha)) hb (by decide)
    · exact h.merge_takes hun hT ((Core.mergeChoice_both ha.held hb.held).trans (congrArg some (if_neg hk))) ha (by decide)
    · exact h.merge_takes hun hT ((Core.mergeChoice_both ha.held hb.held).trans (congrArg some (if_pos hk))) hb (by decide)
    · exact h.merge_match hu ha hb hT
  · exact h.acts (Core.steer_data ha hb hfree)
  · exact h.acts (Core.steer_control hu ha hb hT hF)
  · exact h.acts (Core.carry_constant hT hbusy hi)
  · exact h.acts (Core.carry_initial hT hbusy hi ha)
  · exact h.acts (Core.carry_loop hT hbusy hb)
  · exact h.acts (Core.carry_ends hT hbusy hu hb)
  · exact h.acts (Core.invar_takes hT hbusy ha hb)
  · exact h.acts (Core.invar_repeats hT hv hbusy hb)
  · exact h.acts (Core.invar_releases hT hv hu hb (Token.order_eq hu ho))
  · exact h.acts (Core.drop_data ha)
  · exact h.acts (Core.drop_control hu ha hT)

end Sys2Proof.Machine
end

section
/-! PROOFS. The Pacer: admission, LPIN and LPOUT, the completion of an iteration and the return of its baton. -/

namespace Sys2Proof.Machine

/-! ## Tokens pass LPIN and LPOUT (R51, R248) -/

section pass
variable {c : Core} {r : Nat} {t : Token}

theorem Core.lpReady_of_room (hroom : c.hasRoom r) : c.lpReady r = c.input (inPlace r 0) := if_neg (Nat.not_le.mpr hroom)

theorem Core.lpPass_of_input (ht : c.input (inPlace r 0) = some t) :
    c.lpPass r = ((c.pop (inPlace r 0)).segSee (inPlace r 0) t).push (elemPlace r) [t] := by
  rw [Core.lpPass, ht]

theorem Core.fireLpin_control (hroom : c.hasRoom r) (ht : c.input (inPlace r 0) = some t) (hd : t.isData = false) :
    c.fireLpin r = .ok (((c.pop (inPlace r 0)).segSee (inPlace r 0) t).push (elemPlace r) [t]) Flags.none := by
  rw [Core.fireLpin, Core.lpReady_of_room hroom, ht, ← Core.lpPass_of_input ht]
  exact if_neg (by simp [hd])

/-- The core with a data token of LPOUT r counted for its iteration. -/
def Core.countPassed (c : Core) (r : Nat) : Core :=
  let i := wImm (c.word r) % 8
  { c with pacer := { c.pacer with passed := SMap.put c.pacer.passed i (SMap.get 0 c.pacer.passed i + 1) } }

theorem Core.fireLpout_ready (hroom : c.hasRoom r) (ht : c.input (inPlace r 0) = some t) :
    let c1 := if t.isData then c.countPassed r else c
    c.fireLpout r = .ok (((c1.pop (inPlace r 0)).segSee (inPlace r 0) t).push (elemPlace r) [t]) Flags.none := by
  intro c1
  have ht1 : c1.input (inPlace r 0) = some t := by
    rw [← ht]
    unfold c1
    split <;> rfl
  rw [Core.fireLpout, Core.lpReady_of_room hroom, ht, ← Core.lpPass_of_input ht1]
  rfl

end pass

/-! ## Admission (R51, R217) -/

section admits
variable {c : Core}

theorem Core.mayAdmit_of_open (hk : c.pacer.flight < c.pacer.k) (hw : c.pacer.whold = false) (hins : c.sitesOf 0x90 ≠ [])
    (hready : ∀ j ∈ c.sitesOf 0x90, c.hasRoom j ∧ ∃ d, c.holdsData (inPlace j 0) d) : c.mayAdmit = true := by
  have hall : ∀ j ∈ c.sitesOf 0x90, ∃ d, c.lpReady j = some ⟨0#5, d⟩ := fun j hj => by
    obtain ⟨hroom, d, hd⟩ := hready j hj
    exact ⟨d, (Core.lpReady_of_room hroom).trans hd⟩
  simp only [Core.mayAdmit, hk, hw, hins, ne_eq, not_false_eq_true, decide_true, Bool.not_false, Bool.and_self, Bool.true_and,
    List.all_eq_true]
  intro j hj
  obtain ⟨d, hd⟩ := hall j hj
  rw [hd]
  rfl

/-- The core after an admission. -/
def Core.admission (c : Core) : Core :=
  let entered := (c.sitesOf 0x90).foldl Core.lpPass c
  { entered with pacer := { entered.pacer with flight := entered.pacer.flight + 1, admitted := entered.pacer.admitted + 1 } }

theorem State.pacerAdmit_open {s : State} {n : Nat} (hrun : (s.core n).run ≠ .idle)
    (hp : elemPlace (((s.core n).sitesOf 0x90).headD 0) ∉ (s.core n).pausedPorts) (hmay : (s.core n).mayAdmit = true) :
    s.pacerAdmit n false = s.acted n (s.core n).admission 0#6 :=
  (if_neg Bool.false_ne_true).trans (State.fabricAct_ok hrun hp (if_pos hmay))

end admits

/-- Settles O32: an admission needs all that `mayAdmit` asks, and every other step of the Pacer is one equation. -/
theorem pacerSteps : Obligations.PacerSteps := by
  unfold Obligations.PacerSteps
  intro s n r t c x passed ins outs entered admitted admissible
  have hadmits : c.run ≠ .idle → admissible → s.pacerAdmit n (s.batonJoined n c.pacer.admitted) = admitted := by
    rintro hrun ⟨hk, hw, hins, hjoined, hready, hp⟩
    rw [hjoined]
    exact State.pacerAdmit_open hrun hp (Core.mayAdmit_of_open hk hw hins hready)
  refine ⟨fun hrun ho => congrArg _ (hadmits hrun ho), fun h hroom ht => ?lpin, fun h hroom ht => ?lpout,
    fun hrun hout hlt hall => ?complete, fun hrun hret => ?baton⟩
  case lpin =>
    have hready : c.lpReady r = some t := (Core.lpReady_of_room hroom).trans ht
    have hstep : exec (.lpin n r) s = .next (if t.isData then s.pacerAdmit n (s.batonJoined n c.pacer.admitted)
        else s.fabricAct n (elemPlace r) (Core.fireLpin r)) := by
      show execLpin n r s = _
      rw [execLpin, if_pos h.hasOp, show (s.core n).lpReady r = _ from hready]
    refine ⟨fun hd => ?control, fun hd ho => ?data⟩
    case control =>
      rw [State.turns, hstep, hd, if_neg Bool.false_ne_true,
        State.fabricAct_ok h.runs h.goes (Core.fireLpin_control hroom ht hd)]
      rfl
    case data => rw [hstep, if_pos hd, hadmits h.runs ho]
  case lpout => exact h.acts (Core.fireLpout_ready hroom ht)
  case complete =>
    have hmay : c.mayComplete = true := by
      simp only [Core.mayComplete, Bool.and_eq_true, decide_eq_true_eq, List.all_eq_true]
      exact ⟨⟨hout, hlt⟩, hall⟩
    exact congrArg _ (if_pos ⟨hrun, hmay⟩)
  case baton => exact congrArg _ (if_pos ⟨hrun, hret⟩)

end Sys2Proof.Machine
end

section
/-! PROOFS. Integer elements: the numbers of a format as bit vectors of its width, and the operations on them. -/

namespace Sys2Proof.Machine

/-! ## Numbers of a format (R42, R68) -/

section numbers
variable {w : Nat}

theorem ofNat_toNat_self (A : BitVec w) : BitVec.ofNat w A.toNat = A := by rw [BitVec.ofNat_toNat, BitVec.setWidth_eq]

variable (signed : Bool)

/-- The number that a pattern stands for in a format of that signedness. -/
def numOf (A : BitVec w) : Int := if signed then A.toInt else A.toNat

/-- A pattern extended to a token as a format of that signedness says. -/
def tokenOf (A : BitVec w) : BitVec 32 := if signed then A.signExtend 32 else A.zeroExtend 32

/-- The order of patterns that a format of that signedness gives. -/
def lessIn (A B : BitVec w) : Bool := if signed then decide (A.toInt < B.toInt) else decide (A.toNat < B.toNat)

@[simp] theorem ofInt_numOf (A : BitVec w) : BitVec.ofInt w (numOf signed A) = A := by
  cases signed
  · exact (BitVec.ofInt_natCast ..).trans (ofNat_toNat_self A)
  · exact BitVec.ofInt_toInt

theorem numOf_inj {A B : BitVec w} : numOf signed A = numOf signed B ↔ A = B :=
  ⟨fun h => by rw [← ofInt_numOf signed A, h, ofInt_numOf], fun h => by rw [h]⟩

theorem numOf_lt {A B : BitVec w} : numOf signed A < numOf signed B ↔ lessIn signed A B = true := by
  cases signed <;> simp [numOf, lessIn]

theorem numOf_le {A B : BitVec w} : numOf signed A ≤ numOf signed B ↔ lessIn signed B A = false := by
  rw [← not_lt, numOf_lt, Bool.not_eq_true]

/-- A number's sign: only signed formats have negative numbers. -/
theorem numOf_neg {A : BitVec w} : numOf signed A < 0 ↔ signed = true ∧ A.toInt < 0 := by
  cases signed <;> simp [numOf]

end numbers

/-- The integer formats are of 1 to 32 bits. -/
theorem IntFmt.width_of_code {m w : Nat} {signed : Bool} (h : IntFmt.ofCode m = some (w, signed)) : 0 < w ∧ w ≤ 32 := by
  unfold IntFmt.ofCode at h
  split_ifs at h <;> cases h <;> decide

theorem isFloatFmt_of_intFmt {m w : Nat} {signed : Bool} (h : IntFmt.ofCode m = some (w, signed)) : isFloatFmt m = false := by
  unfold IntFmt.ofCode at h
  split_ifs at h <;> subst m <;> rfl

theorem toNat_ofInt_lowBits (v : Int) (w : Nat) : (BitVec.ofInt w v).toNat = lowBits v w := BitVec.toNat_ofInt ..

section format
variable {m w : Nat} {signed : Bool} (h : IntFmt.ofCode m = some (w, signed))
include h

theorem intFmt_of_code : intFmt m = (w, signed) := by rw [intFmt, h]; rfl

theorem pattern_eq (a : BitVec 32) : pattern m a = (a.truncate w).toNat := by
  rw [pattern, intFmt_of_code h, BitVec.toNat_setWidth]

theorem intVal_eq (a : BitVec 32) : intVal m a = numOf signed (a.truncate w) := by
  rw [intVal, intFmt_of_code h]
  cases signed
  · exact congrArg Int.ofNat (BitVec.toNat_setWidth ..).symm
  · show sx a.toNat w = (a.setWidth w).toInt
    rw [sx_toInt _ _ (IntFmt.width_of_code h).1, BitVec.ofNat_toNat]

theorem intExt_eq (v : Int) : intExt m v = tokenOf signed (BitVec.ofInt w v) := by
  have hpos := (IntFmt.width_of_code h).1
  rw [intExt, intFmt_of_code h]
  cases signed
  · show BitVec.ofNat 32 (lowBits v w) = (BitVec.ofInt w v).zeroExtend 32
    rw [← toNat_ofInt_lowBits, BitVec.ofNat_toNat]
  · show BitVec.ofInt 32 (sx (lowBits v w) w) = (BitVec.ofInt w v).signExtend 32
    rw [sx_toInt _ _ hpos, ← toNat_ofInt_lowBits, ofNat_toNat_self]
    rfl

end format

/-! ## What the shared forms of an element compute (R232) -/

section forms
variable {word w : Nat} {signed : Bool} (h : IntFmt.ofCode (wFmt word) = some (w, signed)) (a b x : BitVec 32)
include h

theorem intFn_eq (f : Int → Int → Int → Int) : intFn f word a b x = (tokenOf signed (BitVec.ofInt w
    (f (numOf signed (a.truncate w)) (numOf signed (b.truncate w)) (numOf signed (x.truncate w)))), Flags.none) := by
  rw [intFn, intExt_eq h, intVal_eq h, intVal_eq h, intVal_eq h]

theorem patFn_eq (f : Nat → Nat → Nat → Nat) : patFn f word a b x =
    (tokenOf signed (BitVec.ofNat w (f w (a.truncate w).toNat (b.truncate w).toNat)), Flags.none) := by
  rw [patFn, intExt_eq h, intFmt_of_code h, pattern_eq h, pattern_eq h, BitVec.ofInt_natCast]

theorem shiftFn_eq (f : Nat → Int → Nat → Nat → Int) : shiftFn f word a b x = (tokenOf signed (BitVec.ofInt w
    (f w (numOf signed (a.truncate w)) (a.truncate w).toNat (b.toNat % 64))), Flags.none) := by
  rw [shiftFn, intExt_eq h, intFmt_of_code h, pattern_eq h, intVal_eq h]

theorem cmpFn_eq (f : Int → Int → Bool) : cmpFn f word a b x =
    (bit32 (f (numOf signed (a.truncate w)) (numOf signed (b.truncate w))), Flags.none) := by
  rw [cmpFn, intVal_eq h, intVal_eq h]

theorem cmpuFn_eq (f : Nat → Nat → Bool) : cmpuFn f word a b x =
    (bit32 (f (a.truncate w).toNat (b.truncate w).toNat), Flags.none) := by
  rw [cmpuFn, pattern_eq h, pattern_eq h]

theorem macFn_eq : macFn word a b x = intFn (fun a b c => a * b + c) word a b x :=
  if_neg (Bool.eq_false_iff.mp (isFloatFmt_of_intFmt h))

theorem selFn_eq : selFn word a b x = (tokenOf signed (if x = 0#32 then a.truncate w else b.truncate w), Flags.none) := by
  rw [selFn, h]
  show (intExt (wFmt word) (intVal (wFmt word) (if x = 0#32 then a else b)), Flags.none) = _
  rw [intExt_eq h, intVal_eq h, ofInt_numOf]
  split <;> rfl

end forms

/-! ## The operations on patterns (R233) -/

section operations
variable {w : Nat} (A B : BitVec w) (signed : Bool)

theorem ofInt_sub (u v : Int) : BitVec.ofInt w (u - v) = BitVec.ofInt w u - BitVec.ofInt w v := by
  rw [Int.sub_eq_add_neg, BitVec.ofInt_add, BitVec.ofInt_neg, BitVec.sub_eq_add_neg]

theorem ofInt_min : BitVec.ofInt w (if numOf signed A ≤ numOf signed B then numOf signed A else numOf signed B) =
    if lessIn signed B A then B else A := by
  rw [apply_ite (BitVec.ofInt w), ofInt_numOf, ofInt_numOf]
  simp only [numOf_le]
  cases lessIn signed B A <;> rfl

theorem ofInt_max : BitVec.ofInt w (if numOf signed A ≤ numOf signed B then numOf signed B else numOf signed A) =
    if lessIn signed A B then B else A := by
  rcases eq_or_ne A B with rfl | hne
  · simp
  · have hle : numOf signed A ≤ numOf signed B ↔ lessIn signed A B = true := by
      rw [← numOf_lt, le_iff_lt_or_eq, numOf_inj]
      simp [hne]
    rw [apply_ite (BitVec.ofInt w), ofInt_numOf, ofInt_numOf]
    simp only [hle]

theorem ofInt_abs : BitVec.ofInt w (if numOf signed A < 0 then -numOf signed A else numOf signed A) =
    if signed = true ∧ A.toInt < 0 then -A else A := by
  rw [apply_ite (BitVec.ofInt w), BitVec.ofInt_neg, ofInt_numOf]
  simp only [numOf_neg]

theorem ofNat_and : BitVec.ofNat w (A.toNat &&& B.toNat) = A &&& B := by rw [← BitVec.toNat_and, ofNat_toNat_self]
theorem ofNat_or : BitVec.ofNat w (A.toNat ||| B.toNat) = A ||| B := by rw [← BitVec.toNat_or, ofNat_toNat_self]
theorem ofNat_xor : BitVec.ofNat w (A.toNat ^^^ B.toNat) = A ^^^ B := by rw [← BitVec.toNat_xor, ofNat_toNat_self]
theorem ofNat_not : BitVec.ofNat w (2 ^ w - 1 - A.toNat) = ~~~A := by rw [← BitVec.toNat_not, ofNat_toNat_self]

theorem ofInt_shl (k : Nat) : BitVec.ofInt w (if w ≤ k then 0 else (A.toNat * 2 ^ k : Nat)) = A <<< k := by
  split
  case isTrue hk => rw [BitVec.shiftLeft_eq_zero hk]; rfl
  case isFalse =>
    rw [BitVec.ofInt_natCast, ← Nat.shiftLeft_eq]
    rfl

theorem ofInt_shr (k : Nat) : BitVec.ofInt w ((A.toNat / 2 ^ k : Nat) : Int) = A >>> k := by
  rw [BitVec.ofInt_natCast, ← Nat.shiftRight_eq_div_pow, ← BitVec.toNat_ushiftRight, ofNat_toNat_self]

theorem ofInt_sar (hw : 0 < w) (k : Nat) : BitVec.ofInt w (sarInt w A.toNat k) = A.sshiftRight k := by
  rw [sarInt, sx_toInt _ _ hw, ofNat_toNat_self, BitVec.sshiftRight, Int.shiftRight_eq_div_pow]

theorem popcNat_eq (w p : Nat) : popcNat w p = ((List.range w).filter fun i => p.testBit i).length := by
  induction w generalizing p with
  | zero => rfl
  | succ w ih =>
    have hlow : (p % 2 = 1) = (p.testBit 0 = true) := by rw [Nat.testBit_zero, decide_eq_true_eq]
    rw [popcNat, ih, List.range_succ_eq_map, List.filter_cons, List.filter_map]
    simp only [Function.comp_def, Nat.testBit_succ, ← hlow]
    split
    · rw [List.length_cons, List.length_map]; omega
    · rw [List.length_map]; omega

end operations

/-! ## An element yields -/

/-- An element that fires delivers what its operation computes. -/
theorem State.yields_of_wise {s : State} {n r op : Nat} {i : Instr} {f : ElemFn} {a b x v : BitVec 32}
    (hi : exec i s = wise op f n r s) (hv : f ((s.core n).word r) a b x = (v, Flags.none)) :
    s.yields n r i op a b x v 0#6 := fun c1 hs hf => by
  have hfire : Core.fireWise f r (s.core n) = .ok (c1.push (elemPlace r) [⟨0#5, v⟩]) Flags.none := by
    simp only [Core.fireWise, hf, hv]
    rfl
  exact hi.trans (hs.acts (f := Core.fireWise f) hfire)

section yields
variable {s : State} {n r op w : Nat} {i : Instr} {signed : Bool} {a b x : BitVec 32} {V : BitVec w} {v : Bool}
  (h : IntFmt.ofCode (wFmt ((s.core n).word r)) = some (w, signed))
include h

theorem State.yields_intFn {f : Int → Int → Int → Int} (hi : exec i s = wise op (intFn f) n r s)
    (hV : BitVec.ofInt w (f (numOf signed (a.truncate w)) (numOf signed (b.truncate w)) (numOf signed (x.truncate w))) = V) :
    s.yields n r i op a b x (tokenOf signed V) 0#6 :=
  State.yields_of_wise hi (by rw [intFn_eq h, hV])

theorem State.yields_patFn {f : Nat → Nat → Nat → Nat} (hi : exec i s = wise op (patFn f) n r s)
    (hV : BitVec.ofNat w (f w (a.truncate w).toNat (b.truncate w).toNat) = V) :
    s.yields n r i op a b x (tokenOf signed V) 0#6 :=
  State.yields_of_wise hi (by rw [patFn_eq h, hV])

theorem State.yields_shiftFn {f : Nat → Int → Nat → Nat → Int} (hi : exec i s = wise op (shiftFn f) n r s)
    (hV : BitVec.ofInt w (f w (numOf signed (a.truncate w)) (a.truncate w).toNat (b.toNat % 64)) = V) :
    s.yields n r i op a b x (tokenOf signed V) 0#6 :=
  State.yields_of_wise hi (by rw [shiftFn_eq h, hV])

theorem State.yields_cmpFn {f : Int → Int → Bool} (hi : exec i s = wise op (cmpFn f) n r s)
    (hv : f (numOf signed (a.truncate w)) (numOf signed (b.truncate w)) = v) : s.yields n r i op a b x (bit32 v) 0#6 :=
  State.yields_of_wise hi (by rw [cmpFn_eq h, hv])

theorem State.yields_cmpuFn {f : Nat → Nat → Bool} (hi : exec i s = wise op (cmpuFn f) n r s)
    (hv : f (a.truncate w).toNat (b.truncate w).toNat = v) : s.yields n r i op a b x (bit32 v) 0#6 :=
  State.yields_of_wise hi (by rw [cmpuFn_eq h, hv])

theorem State.yields_selFn (hi : exec i s = wise op selFn n r s) :
    s.yields n r i op a b x (tokenOf signed (if x = 0#32 then a.truncate w else b.truncate w)) 0#6 :=
  State.yields_of_wise hi (selFn_eq h a b x)

end yields

/-- Settles O23: each operation is one of the shared forms, which on the format's patterns is a bit-vector operation. -/
theorem integerElements : Obligations.IntegerElements := by
  unfold Obligations.IntegerElements
  intro s n r w signed a b x h A B X k less out bit
  refine ⟨?add, ?sub, ?mul, ?mac, ?min, ?max, ?abs, ?neg, ?and, ?or, ?xor, ?not, ?shl, ?shr, ?sar, ?eq, ?ne, ?lt, ?le, ?ltu, ?leu,
    ?sel, ?emux, ?clz, ?popc, ?eand, ?eor⟩
  case add => exact State.yields_intFn h rfl (by rw [BitVec.ofInt_add, ofInt_numOf, ofInt_numOf])
  case sub => exact State.yields_intFn h rfl (by rw [ofInt_sub, ofInt_numOf, ofInt_numOf])
  case mul => exact State.yields_intFn h rfl (by rw [BitVec.ofInt_mul, ofInt_numOf, ofInt_numOf])
  case mac =>
    refine State.yields_of_wise (f := macFn) rfl ?_
    rw [macFn_eq h, intFn_eq h, BitVec.ofInt_add, BitVec.ofInt_mul, ofInt_numOf, ofInt_numOf, ofInt_numOf]
    rfl
  case min => exact State.yields_intFn h rfl (ofInt_min A B signed)
  case max => exact State.yields_intFn h rfl (ofInt_max A B signed)
  case abs => exact State.yields_intFn h rfl (ofInt_abs A signed)
  case neg => exact State.yields_intFn h rfl (by rw [BitVec.ofInt_neg, ofInt_numOf])
  case and => exact State.yields_patFn h rfl (ofNat_and A B)
  case or => exact State.yields_patFn h rfl (ofNat_or A B)
  case xor => exact State.yields_patFn h rfl (ofNat_xor A B)
  case not => exact State.yields_patFn h rfl (ofNat_not A)
  case shl => exact State.yields_shiftFn h rfl (ofInt_shl A k)
  case shr => exact State.yields_shiftFn h rfl (ofInt_shr A k)
  case sar => exact State.yields_shiftFn h rfl (ofInt_sar A (IntFmt.width_of_code h).1 k)
  case eq => exact State.yields_cmpFn h rfl (decide_eq_decide.mpr (numOf_inj signed))
  case ne => exact State.yields_cmpFn h rfl (decide_eq_decide.mpr (numOf_inj signed).not)
  case lt => exact State.yields_cmpFn h rfl (by rw [Bool.eq_iff_iff, decide_eq_true_eq, numOf_lt]; rfl)
  case le => exact State.yields_cmpFn h rfl (by rw [Bool.eq_iff_iff, decide_eq_true_eq, numOf_le, Bool.not_eq_true']; rfl)
  case ltu => exact State.yields_cmpuFn h rfl rfl
  case leu => exact State.yields_cmpuFn h rfl rfl
  case sel => exact State.yields_selFn h rfl
  case emux => exact State.yields_selFn h rfl
  case clz => exact State.yields_patFn h rfl rfl
  case popc => exact State.yields_patFn h rfl (by rw [popcNat_eq])
  case eand =>
    refine State.yields_of_wise rfl (congrArg (·, Flags.none) ?_)
    rw [← Bool.decide_and]
    rfl
  case eor =>
    refine State.yields_of_wise rfl (congrArg (·, Flags.none) ?_)
    rw [← Bool.decide_or]
    rfl

end Sys2Proof.Machine
end

section
/-! PROOFS. LUT islands: a firing on data, and the bits of the cells, of the state and of the tokens sent. -/

namespace Sys2Proof.Machine

/-! ## Bits of numbers built in a fold -/

/-- Bits added at rising places stand at their places. -/
theorem testBit_foldl_bits (f : Nat → Bool) (n : Nat) :
    let x := (List.range n).foldl (fun acc j => acc + (f j).toNat * 2 ^ j) 0
    x < 2 ^ n ∧ ∀ j < n, x.testBit j = f j := by
  induction n with
  | zero => simp
  | succ n ih =>
    intro x
    obtain ⟨hlt, hbits⟩ := ih
    set y := (List.range n).foldl (fun acc j => acc + (f j).toNat * 2 ^ j) 0
    have hx : x = 2 ^ n * (f n).toNat + y := by
      unfold x
      rw [List.range_succ, List.foldl_append, List.foldl_cons, List.foldl_nil, Nat.add_comm, Nat.mul_comm]
    have hf := Nat.mul_le_mul_left (2 ^ n) (Bool.toNat_le (f n))
    refine ⟨by rw [hx, pow_succ]; omega, fun j hj => ?_⟩
    rw [hx, Nat.testBit_two_pow_mul_add _ hlt]
    split
    case isTrue h => exact hbits j h
    case isFalse h =>
      obtain rfl : j = n := by omega
      rw [Nat.sub_self]
      cases f j <;> rfl

/-- Setting a clear bit by addition sets that bit only. -/
theorem testBit_add_two_pow {x i : Nat} (h : x.testBit i = false) (j : Nat) :
    (x + 2 ^ i).testBit j = (x.testBit j || decide (j = i)) := by
  rcases lt_trichotomy j i with hj | rfl | hj
  · rw [Nat.add_comm, Nat.testBit_two_pow_add_gt hj, decide_eq_false hj.ne, Bool.or_false]
  · rw [Nat.add_comm, Nat.testBit_two_pow_add_eq, h, decide_eq_true rfl]
    rfl
  · obtain ⟨m, rfl⟩ : ∃ m, j = m + 1 + i := ⟨j - i - 1, by omega⟩
    have heven : x / 2 ^ i % 2 = 0 := by simpa [Nat.testBit_eq_decide_div_mod_eq] using h
    have hhalf : (x / 2 ^ i + 1) / 2 = x / 2 ^ i / 2 := by omega
    rw [Nat.testBit_add, Nat.add_div_right _ (Nat.two_pow_pos i), Nat.testBit_add x, Nat.testBit_succ, Nat.testBit_succ, hhalf,
      decide_eq_false hj.ne', Bool.or_false]

/-- Bits added where they are still clear are the bits of those that a condition picks. -/
theorem testBit_foldl_or (place : Nat → Nat) (picked : Nat → Prop) [DecidablePred picked] (l : List Nat) (x b : Nat) :
    (l.foldl (fun acc j => if picked j ∧ !acc.testBit (place j) then acc + 2 ^ place j else acc) x).testBit b = true ↔
      x.testBit b = true ∨ ∃ j ∈ l, picked j ∧ place j = b := by
  induction l generalizing x with
  | nil => simp
  | cons j l ih =>
    rw [List.foldl_cons, ih]
    have hstep : (if picked j ∧ !x.testBit (place j) then x + 2 ^ place j else x).testBit b = true ↔
        x.testBit b = true ∨ (picked j ∧ place j = b) := by
      split
      case isTrue h =>
        rw [testBit_add_two_pow (by simpa using h.2), Bool.or_eq_true, decide_eq_true_eq, eq_comm (a := b)]
        exact or_congr_right (and_iff_right h.1).symm
      case isFalse h =>
        refine ⟨.inl, fun hb => hb.elim id fun ⟨hp, hb⟩ => ?_⟩
        subst hb
        simpa [hp] using h
    simp only [hstep, List.mem_cons, exists_eq_or_imp, or_assoc]

/-! ## Cells (R163, R249) -/

/-- Values stored at the keys of a list that a condition picks. -/
theorem get_foldl_set {picked : Nat → Bool} (v : Nat → Bool) (base : Nat) {l : List Nat} (m : SMap Bool) {j : Nat}
    (hp : picked j = true) (h : j ∈ l ∨ SMap.get false m (base + j) = v j) :
    SMap.get false (l.foldl (fun m j => if picked j then SMap.set false m (base + j) (v j) else m) m) (base + j) = v j := by
  induction l generalizing m with
  | nil => exact h.resolve_left List.not_mem_nil
  | cons x l ih =>
    rw [List.foldl_cons]
    refine ih _ ?_
    by_cases hx : j = x
    · subst hx
      exact .inr (by rw [if_pos hp, SMap.get_set_same])
    · refine h.imp (fun hm => (List.mem_cons.mp hm).resolve_left hx) fun hm => ?_
      split
      · rw [SMap.get_set_other _ _ _ (by omega), hm]
      · exact hm

section cells
variable (c : Core) (k i lanes o : Nat)

theorem Core.testBit_cellPass {j : Nat} (hj : j < 64) : (c.cellPass k lanes o).testBit j =
    if cellSE (c.cell k j) then SMap.get false c.fab.bits (64 * k + j) else cellEval lanes o (c.cell k j) :=
  (testBit_foldl_bits (fun j => if cellSE (c.cell k j) then SMap.get false c.fab.bits (64 * k + j)
    else cellEval lanes o (c.cell k j)) 64).2 j hj

theorem Core.cellStore_bit {j : Nat} (hj : j < 64) (hs : cellSE (c.cell k j) = true) :
    SMap.get false (c.cellStore k lanes o).fab.bits (64 * k + j) = cellEval lanes o (c.cell k j) :=
  get_foldl_set (picked := fun j => cellSE (c.cell k j)) (fun j => cellEval lanes o (c.cell k j)) (64 * k) _ hs
    (.inl (List.mem_range.mpr hj))

theorem Core.pack_bit {b : Nat} (hb : b < 32) : (c.pack k i o).data.getLsbD b = true ↔
    ∃ j < 64, cellSite (c.cell k j) = i + 1 ∧ cellBit (c.cell k j) = b ∧ o.testBit j = true := by
  rw [Core.pack, Token.ofData, BitVec.getLsbD_ofNat]
  have hfold := testBit_foldl_or (fun j => cellBit (c.cell k j))
    (fun j => cellSite (c.cell k j) = i + 1 ∧ o.testBit j = true) (List.range 64) 0 b
  simp only [and_assoc] at hfold
  simp only [hb, decide_true, Bool.true_and, hfold, Nat.zero_testBit, Bool.false_eq_true, false_or, List.mem_range]
  exact exists_congr fun j => and_congr_right fun _ => and_congr_right fun _ => and_comm

end cells

/-! ## Islands act (R65) -/

theorem islandStep_acts {s : State} {n k mode : Nat} {c : Core} (hk : k < 16) (hm : islMode ((s.core n).island k) = mode)
    (hrun : (s.core n).run ≠ .idle) (hp : islePlace k 0 ∉ (s.core n).pausedPorts)
    (hf : Core.fireIsland k (s.core n) = .ok c Flags.none) : islandStep mode n k s = .next (s.acted n c 0#6) := by
  rw [islandStep, if_pos ⟨hk, hm⟩, State.fabricAct_ok hrun hp hf]
  rfl

/-- Settles O35: with data at every input `fireIsland` takes it, and both modes are that step. -/
theorem islandsFire : Obligations.IslandsFire := by
  unfold Obligations.IslandsFire
  refine ⟨?fires, fun c k i lanes o => ⟨fun j hj => c.testBit_cellPass k lanes o hj,
    fun j hj hs => c.cellStore_bit k lanes o hj hs, fun b hb => c.pack_bit k i o hb, rfl⟩⟩
  intro s n k t c w ins outs ends seen taken lanes o fired hk hrun hp hins hdata hroom hends
  have hfire : Core.fireIsland k c = .ok fired Flags.none := by
    have htoks := Core.inputs_of_data (place := islePlace k) hdata
    have hlanes : ((dataAt t ins).map fun p => p.2.data.toNat * 2 ^ (32 * p.1)).sum = lanes := by
      rw [dataAt, List.map_map]
      rfl
    have hstart : ¬(ins = [] ∨ (dataAt t ins).length < ins.length) := by simp [dataAt, hins]
    have hfree : ¬(outs.any fun i => decide (2 ≤ (c.queue (elemPlace (islOutRouter w i))).length)) = true := by
      simpa [List.any_eq_true] using hroom
    have hall : ((dataAt t ins).all fun p => p.2.isData) = true := by simp [dataAt]
    have hagree : ¬(!w.testBit 56 && (ins.map ends).any fun z => decide (some z ≠ (ins.map ends).head?)) = true := by
      simp only [Bool.and_eq_true, Bool.not_eq_true', List.any_eq_true, decide_eq_true_eq]
      rintro ⟨hnative, z, hz, hne⟩
      have hsame := hends.resolve_left (by rw [hnative]; exact Bool.false_ne_true)
      refine hne (eq_head?_of_agree (fun u hu v hv => ?_) hz)
      obtain ⟨i, hi, rfl⟩ := List.mem_map.mp hu
      obtain ⟨j, hj, rfl⟩ := List.mem_map.mp hv
      exact hsame i hi j hj
    rw [Core.fireIsland]
    dsimp only
    rw [htoks, if_neg hstart, if_neg hfree, if_pos hall, if_neg hagree, hlanes]
  exact ⟨fun hm => islandStep_acts hk hm hrun hp hfire, fun hm => islandStep_acts hk hm hrun hp hfire⟩

end Sys2Proof.Machine
end

section
/-! PROOFS. Floating elements: the shared form of an element that computes in a floating format. -/

namespace Sys2Proof.Machine

/-- An element that fires delivers what its operation computes, raising its flags. -/
theorem State.yields_flags_of_wise {s : State} {n r op : Nat} {i : Instr} {f : ElemFn} {a b x v : BitVec 32} {fl : Flags}
    (hi : exec i s = wise op f n r s) (hv : f ((s.core n).word r) a b x = (v, fl)) :
    s.yields n r i op a b x v fl := fun c1 hs hf => by
  have hfire : Core.fireWise f r (s.core n) = .ok (c1.push (elemPlace r) [⟨0#5, v⟩]) fl := by
    simp only [Core.fireWise, hf, hv]
    rfl
  exact hi.trans (hs.acts (f := Core.fireWise f) hfire)

/-- An operand of an element of floating format `m`, read at the element's width. -/
def floatOperand (m : FloatFmt) (word : Nat) (u : BitVec 32) : XR := m.decode (u.toNat % 2 ^ fmtWidth (wFmt word))

section floats
variable {s : State} {n r op : Nat} {i : Instr} {m : FloatFmt} {a b x : BitVec 32}
  (hm : FloatFmt.ofCode (wFmt ((s.core n).word r)) = some m)
include hm

theorem floatFmt_of_code : floatFmt (wFmt ((s.core n).word r)) = m := by rw [floatFmt, hm]; rfl

/-- An operation on decoded operands delivers its value rounded once, with its own flags and those of the rounding (R74). -/
theorem State.yields_floatFn {f : RMode → XR → XR → XR → XR × Flags} {v : XR} {fl : Flags}
    (hi : exec i s = wise op (floatFn f) n r s)
    (hv : f (wRm ((s.core n).word r)) (floatOperand m ((s.core n).word r) a) (floatOperand m ((s.core n).word r) b)
      (floatOperand m ((s.core n).word r) x) = (v, fl)) :
    s.yields n r i op a b x (BitVec.ofNat 32 (m.round v (wRm ((s.core n).word r))).1)
      (fl ||| (m.round v (wRm ((s.core n).word r))).2) := by
  refine State.yields_flags_of_wise hi ?_
  simp only [floatOperand] at hv
  simp only [floatFn, floatFmt_of_code hm, hv]

/-- A comparison delivers its bit, a function of whether an operand is NaN and of their order, and raises nothing (R234). -/
theorem State.yields_fcmpFn {f : Ordering → Bool} {onNan : Bool} (v : Bool → Ordering → Bool)
    (hi : exec i s = wise op (fcmpFn f onNan) n r s) (hv : ∀ q o, (if q then onNan else f o) = v q o) :
    s.yields n r i op a b x
        (bit32 (v ((floatOperand m ((s.core n).word r) a).isNaN || (floatOperand m ((s.core n).word r) b).isNaN)
      (XR.cmp (floatOperand m ((s.core n).word r) a) (floatOperand m ((s.core n).word r) b)))) 0#6 := by
  refine State.yields_flags_of_wise hi ?_
  simp only [fcmpFn, floatFmt_of_code hm, hv]
  rfl

end floats

theorem isFloatFmt_of_mem {m : Nat} (h : m ∈ [7, 8, 9]) : isFloatFmt m = true := by
  simp only [List.mem_cons, List.not_mem_nil, or_false] at h
  rcases h with rfl | rfl | rfl <;> rfl

theorem macFn_float {word : Nat} (h : wFmt word ∈ [7, 8, 9]) : macFn word = floatFn fmaX word := by
  funext a b x
  exact if_pos (isFloatFmt_of_mem h)

/-- Settles O25: each operation is `floatFn` of its exact function, or `fcmpFn` of its test of the order. -/
theorem floatElements : Obligations.FloatElements := by
  unfold Obligations.FloatElements
  intro s n r m a b x word hfmt hm rm dec A B X out bit nan fma
  refine ⟨State.yields_floatFn hm rfl rfl, State.yields_floatFn hm rfl rfl, State.yields_floatFn hm rfl rfl,
    State.yields_floatFn hm rfl rfl, ?mac, State.yields_floatFn hm rfl rfl, State.yields_floatFn hm rfl rfl,
    State.yields_floatFn hm rfl rfl, State.yields_floatFn hm rfl rfl, ?eq, ?ne, ?lt, ?le⟩
  case mac =>
    refine State.yields_flags_of_wise (f := macFn) rfl ?_
    rw [macFn_float hfmt, floatFn, floatFmt_of_code hm]
    rfl
  case eq => exact State.yields_fcmpFn hm (fun q o => !q && decide (o = .eq)) rfl (by rintro (_ | _) (_ | _ | _) <;> rfl)
  case ne => exact State.yields_fcmpFn hm (fun q o => q || decide (o ≠ .eq)) rfl (by rintro (_ | _) (_ | _ | _) <;> rfl)
  case lt => exact State.yields_fcmpFn hm (fun q o => !q && decide (o = .lt)) rfl (by rintro (_ | _) (_ | _ | _) <;> rfl)
  case le => exact State.yields_fcmpFn hm (fun q o => !q && decide (o ≠ .gt)) rfl (by rintro (_ | _) (_ | _ | _) <;> rfl)

/-- Settles O26: by the kind of the operand, each function is one of its cases. -/
theorem floatFunctions : Obligations.FloatFunctions := by
  unfold Obligations.FloatFunctions
  intro s n r m a b x word hfmt hm A out
  have hout : ∀ {i : Instr} {op : Nat} {f : XR → XR × Flags} {v : XR} {fl : Flags},
      exec i s = wise op (floatFn fun _ a _ _ => f a) n r s → f A = (v, fl) → out i op v fl :=
    fun hi hv => State.yields_floatFn hm hi hv
  refine ⟨fun hA => ?nan, fun g hA => ?inf, fun g e hA => ?zero, fun g k e hA hk => ?fin⟩
  case nan =>
    exact ⟨hout (f := frcpX) rfl (by rw [hA]; rfl), hout (f := frsqX) rfl (by rw [hA]; rfl),
      hout (f := fexp2X) rfl (by rw [hA]; rfl), hout (f := flog2X) rfl (by rw [hA]; rfl)⟩
  case inf =>
    cases g <;> exact ⟨hout (f := frcpX) rfl (by rw [hA]; rfl), hout (f := frsqX) rfl (by rw [hA]; rfl),
      hout (f := fexp2X) rfl (by rw [hA]; rfl), hout (f := flog2X) rfl (by rw [hA]; rfl)⟩
  case zero =>
    exact ⟨hout (f := frcpX) rfl (by rw [hA]; rfl), hout (f := frsqX) rfl (by rw [hA]; rfl),
      hout (f := fexp2X) rfl (by rw [hA]; rfl), hout (f := flog2X) rfl (by rw [hA]; rfl)⟩
  case fin =>
    cases g <;> exact ⟨hout (f := frcpX) rfl (by rw [hA]; exact if_neg hk), hout (f := frsqX) rfl (by rw [hA]; exact if_neg hk),
      hout (f := fexp2X) rfl (by rw [hA]; exact if_neg hk), hout (f := flog2X) rfl (by rw [hA]; exact if_neg hk)⟩
end Sys2Proof.Machine
end

section
/-! PROOFS. Saturating elements: clamping to a range, and the packed lanes of the DOT forms. -/

namespace Sys2Proof.Machine

/-- The range of an integer format, its bounds written as powers of the integers. -/
theorem intRange_eq (w : Nat) (signed : Bool) :
    intRange w signed = (if signed then -2 ^ (w - 1) else 0, if signed then 2 ^ (w - 1) - 1 else 2 ^ w - 1) := by
  cases signed <;> simp [intRange]

theorem satFn_eq {word w : Nat} {signed : Bool} (h : IntFmt.ofCode (wFmt word) = some (w, signed)) (f : Int → Int → Int)
    (a b x : BitVec 32) :
    let v := f (numOf signed (a.truncate w)) (numOf signed (b.truncate w))
    let lo : Int := if signed then -2 ^ (w - 1) else 0
    let hi : Int := if signed then 2 ^ (w - 1) - 1 else 2 ^ w - 1
    satFn f word a b x =
      (tokenOf signed (BitVec.ofInt w (satInt v lo hi)), if lo ≤ v ∧ v ≤ hi then Flags.none else Flags.sat) := by
  intro v lo hi
  simp only [satFn, intExt_eq h, intVal_eq h, intFmt_of_code h, intRange_eq]
  rfl

/-- Lane k of g bits is the number that stands in the bits from g·k on. -/
theorem lane_eq (signed : Bool) {g : Nat} (hg : 0 < g) (k : Nat) (u : BitVec 32) :
    lane signed g k u = numOf signed ((u >>> (g * k)).truncate g : BitVec g) := by
  have hbits : ((u >>> (g * k)).truncate g : BitVec g) = BitVec.ofNat g (u.toNat / 2 ^ (g * k) % 2 ^ g) := by
    apply BitVec.eq_of_toNat_eq
    simp [Nat.shiftRight_eq_div_pow]
  rw [lane, hbits]
  cases signed
  · simp [numOf]
  · simp only [numOf, if_true, sx_toInt _ _ hg]

theorem dotFn_eq {word w : Nat} {signed : Bool} (h : IntFmt.ofCode (wFmt word) = some (w, signed)) (lanes : Nat) {g : Nat}
    (hg : 0 < g) (a b x : BitVec 32) :
    let part := fun (k : Nat) (u : BitVec 32) => numOf signed ((u >>> (g * k)).truncate g : BitVec g)
    let v := x.toInt + ((List.range lanes).map fun k => part k a * part k b).sum
    dotFn lanes g word a b x = (BitVec.ofInt 32 (if wSat word then satInt v (-2 ^ 31) (2 ^ 31 - 1) else v),
      if wSat word = false ∨ (-2 ^ 31 ≤ v ∧ v ≤ 2 ^ 31 - 1) then Flags.none else Flags.sat) := by
  intro part v
  simp only [dotFn, intFmt_of_code h, lane_eq signed hg, intRange_eq]
  cases wSat word <;> simp [part, v]

/-- Settles O24: the operands are numbers of the format, and each form is `satFn` or `dotFn` of them. -/
theorem saturatingElements : Obligations.SaturatingElements := by
  unfold Obligations.SaturatingElements
  intro s n r w signed a b x h val lo hi clamp sat part dot
  exact ⟨State.yields_flags_of_wise rfl (satFn_eq h (· + ·) a b x), State.yields_flags_of_wise rfl (satFn_eq h (· - ·) a b x),
    State.yields_flags_of_wise rfl (dotFn_eq h 4 (g := 8) (by decide) a b x),
    State.yields_flags_of_wise rfl (dotFn_eq h 2 (g := 16) (by decide) a b x)⟩
end Sys2Proof.Machine
end

section
/-! PROOFS. Exact arithmetic of extended reals as rational arithmetic, rounding to a multiple of a power of two, and the
encodings of the formats. -/

namespace Sys2Proof.Machine

/-! ## Values as rationals (R74, R76) -/

theorem ratOf_fin (g : Bool) (m : Nat) (e : Int) : ratOf (.fin g m e) = (if g then -1 else 1) * (m : ℚ) * 2 ^ e := rfl

theorem two_zpow_pos (e : Int) : (0 : ℚ) < 2 ^ e := zpow_pos two_pos e

/-- A finite value as an integer number of units 2^q. -/
theorem finAt_mul (g : Bool) (m : Nat) {e q : Int} (h : q ≤ e) : (finAt g m e q : ℚ) * 2 ^ q = ratOf (.fin g m e) := by
  have hpow : (2 : ℚ) ^ (e - q).toNat * 2 ^ q = 2 ^ e := by
    rw [← zpow_natCast, Int.toNat_sub_of_le h, ← zpow_add₀ two_ne_zero, sub_add_cancel]
  cases g <;> simp [finAt, ratOf_fin, ← hpow, mul_assoc]

theorem ratOf_ofSign (v : Int) (q : Int) : ratOf (.fin (decide (v < 0)) v.natAbs q) = v * 2 ^ q := by
  rw [ratOf_fin, Nat.cast_natAbs]
  rcases lt_or_ge v 0 with hv | hv
  · simp [hv, abs_of_neg hv]
  · simp [hv.not_gt, abs_of_nonneg hv]

theorem ratOf_ofInt (v : Int) : ratOf (XR.ofInt v) = v := by rw [XR.ofInt, ratOf_ofSign, zpow_zero, mul_one]

/-- The exponent at which two finite values are both whole numbers of units. -/
def lowExp (d e : Int) : Int := if d ≤ e then d else e

theorem lowExp_le_left (d e : Int) : lowExp d e ≤ d := by unfold lowExp; split <;> omega
theorem lowExp_le_right (d e : Int) : lowExp d e ≤ e := by unfold lowExp; split <;> omega

section exact
variable (g h : Bool) (m k : Nat) (d e : Int) (rm : RMode)

/-- The sum of two finite values in units of their common exponent. -/
def sumUnits : Int := finAt g m d (lowExp d e) + finAt h k e (lowExp d e)

theorem sumUnits_mul : (sumUnits g h m k d e : ℚ) * 2 ^ lowExp d e = ratOf (.fin g m d) + ratOf (.fin h k e) := by
  rw [sumUnits, Int.cast_add, add_mul, finAt_mul _ _ (lowExp_le_left d e), finAt_mul _ _ (lowExp_le_right d e)]

theorem sumUnits_eq_zero : sumUnits g h m k d e = 0 ↔ ratOf (.fin g m d) + ratOf (.fin h k e) = 0 := by
  rw [← sumUnits_mul, mul_eq_zero, or_iff_left (two_zpow_pos _).ne', Int.cast_eq_zero]

theorem XR.add_fin : XR.add (.fin g m d) (.fin h k e) rm = (if sumUnits g h m k d e = 0 then
      .fin ((decide (m = 0) && g && (decide (k = 0) && h)) || decide (rm = .rd)) 0 0
    else .fin (decide (sumUnits g h m k d e < 0)) (sumUnits g h m k d e).natAbs (lowExp d e), Flags.none) := by
  show (if sumUnits g h m k d e = 0 then _ else _) = _
  split <;> rfl

theorem ratOf_add : ratOf (XR.add (.fin g m d) (.fin h k e) rm).1 = ratOf (.fin g m d) + ratOf (.fin h k e) := by
  rw [XR.add_fin, ← sumUnits_mul]
  dsimp only
  split
  case isTrue hv => simp [ratOf_fin, hv]
  case isFalse => rw [ratOf_ofSign]

/-- The sign of a zero sum (R76). -/
theorem neg_add_of_zero (hz : ratOf (.fin g m d) + ratOf (.fin h k e) = 0) : (XR.add (.fin g m d) (.fin h k e) rm).1.neg? =
    ((decide (m = 0) && g && decide (k = 0) && h) || decide (rm = .rd)) := by
  rw [XR.add_fin, if_pos ((sumUnits_eq_zero ..).mpr hz), Bool.and_assoc _ _ h]
  rfl

theorem ratOf_mul : ratOf (XR.mul (.fin g m d) (.fin h k e)).1 = ratOf (.fin g m d) * ratOf (.fin h k e) := by
  rw [XR.mul, ratOf_fin, ratOf_fin, ratOf_fin, zpow_add₀ two_ne_zero, Nat.cast_mul]
  cases g <;> cases h <;> simp <;> ring

/-- The numeric order of finite values is that of the rationals. -/
theorem cmp_fin : XR.cmp (.fin g m d) (.fin h k e) = compare (ratOf (.fin g m d)) (ratOf (.fin h k e)) := by
  rw [← finAt_mul g m (lowExp_le_left d e), ← finAt_mul h k (lowExp_le_right d e)]
  show compare (finAt g m d (lowExp d e)) (finAt h k e (lowExp d e)) = _
  have hmono : StrictMono fun z : Int => (z : ℚ) * 2 ^ lowExp d e :=
    fun a b hab => mul_lt_mul_of_pos_right (Int.cast_lt.mpr hab) (two_zpow_pos _)
  rw [← cmp_eq_compare, ← cmp_eq_compare]
  exact (hmono.cmp_map_eq ..).symm

end exact

/-! ## Rounding to a multiple of 2^q (R75) -/

section rounding
variable (neg : Bool) (m : Nat) (e q : Int) (rm : RMode)

/-- Whether a magnitude that lies `r` of 2^k units above n is rounded up. -/
def roundsUp (n r k : Nat) : Bool :=
  match rm with
  | .rne => decide (2 ^ (k - 1) < r) || (decide (r = 2 ^ (k - 1)) && decide (n % 2 = 1))
  | .rz => false
  | .ru => decide (r ≠ 0) && !neg
  | .rd => decide (r ≠ 0) && neg

theorem roundAt_exact (h : q ≤ e) : roundAt neg m e q rm = (m * 2 ^ (e - q).toNat, false) := if_pos h

theorem roundAt_below (h : ¬q ≤ e) : roundAt neg m e q rm = (let k := (q - e).toNat
    (if roundsUp neg rm (m / 2 ^ k) (m % 2 ^ k) k then m / 2 ^ k + 1 else m / 2 ^ k, decide (m % 2 ^ k ≠ 0))) := by
  rw [roundAt, if_neg h]
  cases rm <;> rfl

/-- Scaled by 2^k, a magnitude below 2^q is its whole part and its rest. -/
theorem scaled_eq {k : Nat} (hk : e + k = q) : (m : ℚ) * 2 ^ (e - q) = (m / 2 ^ k : Nat) + (m % 2 ^ k : Nat) / 2 ^ k := by
  have hpow : (2 : ℚ) ^ (e - q) = 1 / 2 ^ k := by
    rw [← hk, sub_add_cancel_left, zpow_neg, zpow_natCast, one_div]
  have hm : (m : ℚ) = 2 ^ k * (m / 2 ^ k : Nat) + (m % 2 ^ k : Nat) := mod_cast (Nat.div_add_mod m (2 ^ k)).symm
  rw [hpow, mul_one_div]
  nth_rw 1 [hm]
  field_simp

/-- What a rounded multiple n of a unit is to the exact multiple v in a mode (R75). -/
structure RoundsTo (v : ℚ) (n : Nat) (inexact : Bool) : Prop where
  inexact : inexact = true ↔ (n : ℚ) ≠ v
  exact : ∀ z : Nat, (z : ℚ) = v → n = z
  down : (rm = .rz ∨ (rm = .ru ∧ neg = true) ∨ (rm = .rd ∧ neg = false)) → (n : ℚ) ≤ v ∧ v < n + 1
  up : ((rm = .ru ∧ neg = false) ∨ (rm = .rd ∧ neg = true)) → v ≤ n ∧ (n : ℚ) < v + 1
  nearest : rm = .rne → 2 * |(n : ℚ) - v| ≤ 1 ∧ (2 * |(n : ℚ) - v| = 1 → n % 2 = 0)

theorem RoundsTo.of_exact {v : ℚ} {n : Nat} (h : (n : ℚ) = v) : RoundsTo neg rm v n false where
  inexact := by simp [h]
  exact := fun z hz => Nat.cast_injective (h.trans hz.symm)
  down := fun _ => by simp [h]
  up := fun _ => by simp [h]
  nearest := fun _ => by simp [h]

/-- The direction in which a fraction f above the whole number n is rounded. -/
def fractionUp (n : Nat) (f : ℚ) : Prop :=
  match rm with
  | .rne => 1 / 2 < f ∨ (f = 1 / 2 ∧ n % 2 = 1)
  | .rz => False
  | .ru => neg = false
  | .rd => neg = true

variable {neg rm} in
theorem RoundsTo.of_fraction {v f : ℚ} {n : Nat} {up : Bool} (hv : v = n + f) (h0 : 0 < f) (h1 : f < 1)
    (hup : up = true ↔ fractionUp neg rm n f) : RoundsTo neg rm v (if up then n + 1 else n) true := by
  have hne : ∀ z : Nat, (z : ℚ) ≠ v := fun z hz => by
    have hlow : (n : ℚ) < z := by linarith
    have hhigh : (z : ℚ) < (n + 1 : Nat) := by push_cast; linarith
    exact absurd (Nat.cast_lt.mp hlow) (by have := Nat.cast_lt.mp hhigh; omega)
  refine ⟨by simpa only [true_iff] using hne _, fun z hz => absurd hz (hne z), fun hm => ?down, fun hm => ?up, fun hm => ?nearest⟩
  case down =>
    have hdown : up = false := by
      rw [← Bool.not_eq_true, hup]
      rcases hm with rfl | ⟨rfl, rfl⟩ | ⟨rfl, rfl⟩ <;> simp [fractionUp]
    rw [hdown, if_neg Bool.false_ne_true]
    constructor <;> linarith
  case up =>
    have hup' : up = true := by
      rw [hup]
      rcases hm with ⟨rfl, rfl⟩ | ⟨rfl, rfl⟩ <;> rfl
    rw [hup', if_pos rfl]
    push_cast
    constructor <;> linarith
  case nearest =>
    subst hm
    simp only [fractionUp] at hup
    cases up
    case false =>
      simp only [Bool.false_eq_true, false_iff, not_or, not_and, not_lt] at hup
      obtain ⟨hle, hodd⟩ := hup
      have habs : |(n : ℚ) - v| = f := by rw [hv, sub_add_cancel_left, abs_neg, abs_of_pos h0]
      rw [if_neg Bool.false_ne_true, habs]
      refine ⟨by linarith, fun heq => ?_⟩
      have := hodd (by linarith)
      omega
    case true =>
      have hup := hup.mp rfl
      have habs : |((n + 1 : Nat) : ℚ) - v| = 1 - f := by
        rw [hv, Nat.cast_add, Nat.cast_one, add_sub_add_left_eq_sub, abs_of_pos (by linarith)]
      rw [if_pos rfl, habs]
      rcases hup with hlt | ⟨heq, hodd⟩
      · exact ⟨by linarith, fun heq => by linarith⟩
      · exact ⟨by linarith, fun _ => by omega⟩

theorem roundsUp_zero (n k : Nat) : roundsUp neg rm n 0 k = false := by
  cases rm <;> simp [roundsUp, (Nat.two_pow_pos (k - 1)).ne]

theorem roundsUp_iff {n r k : Nat} (hr : 0 < r) (hk : 0 < k) :
    roundsUp neg rm n r k = true ↔ fractionUp neg rm n ((r : ℚ) / 2 ^ k) := by
  obtain ⟨j, rfl⟩ := Nat.exists_eq_succ_of_ne_zero hk.ne'
  have hpos : (0 : ℚ) < 2 ^ (j + 1) := by positivity
  have hlt : (2 : ℕ) ^ j < r ↔ (1 / 2 : ℚ) < r / 2 ^ (j + 1) := by
    rw [lt_div_iff₀ hpos, pow_succ, mul_comm, mul_assoc, mul_one_div_cancel two_ne_zero, mul_one, ← Nat.cast_lt (α := ℚ)]
    push_cast
    rfl
  have heq : r = 2 ^ j ↔ (r : ℚ) / 2 ^ (j + 1) = 1 / 2 := by
    rw [div_eq_iff hpos.ne', pow_succ, mul_comm, mul_assoc, mul_one_div_cancel two_ne_zero, mul_one, ← Nat.cast_inj (R := ℚ)]
    push_cast
    rfl
  cases rm <;> simp only [roundsUp, fractionUp, Nat.succ_eq_add_one, Nat.add_sub_cancel, Bool.or_eq_true, Bool.and_eq_true,
    decide_eq_true_eq, hlt, heq, Bool.false_eq_true, hr.ne', ne_eq, not_false_eq_true, true_and, Bool.not_eq_true']

/-- Rounding a magnitude to a multiple of 2^q, as R75 states it. -/
theorem roundAt_roundsTo : RoundsTo neg rm ((m : ℚ) * 2 ^ (e - q)) (roundAt neg m e q rm).1 (roundAt neg m e q rm).2 := by
  by_cases h : q ≤ e
  · rw [roundAt_exact neg m e q rm h]
    refine RoundsTo.of_exact neg rm ?_
    rw [Nat.cast_mul, Nat.cast_pow, Nat.cast_ofNat, ← zpow_natCast, Int.toNat_sub_of_le h]
  · obtain ⟨k, hk⟩ := Int.eq_ofNat_of_zero_le (a := q - e) (by omega)
    have hkpos : 0 < k := by omega
    have hv := scaled_eq m e q (k := k) (by omega)
    have hr : m % 2 ^ k < 2 ^ k := Nat.mod_lt _ (by positivity)
    rw [roundAt_below neg m e q rm h, hk, Int.toNat_natCast]
    dsimp only
    generalize m / 2 ^ k = n at *
    generalize m % 2 ^ k = r at *
    rcases Nat.eq_zero_or_pos r with rfl | hr0
    · rw [roundsUp_zero]
      exact RoundsTo.of_exact neg rm (by rw [hv]; simp)
    · rw [decide_eq_true hr0.ne']
      exact RoundsTo.of_fraction hv (by positivity) ((div_lt_one (by positivity)).mpr (mod_cast hr))
          (roundsUp_iff neg rm hr0 hkpos)

end rounding

/-! ## Encodings (R71, R72, R75) -/

section encodings
variable {f : FloatFmt} (neg : Bool) (rm : RMode)

/-- The largest finite magnitude is the one below the encodings that the format keeps for infinities and NaNs. -/
structure Regular (f : FloatFmt) : Prop where
  normal : 2 ^ f.mb ≤ f.maxFin
  largest : f.maxFin + 1 = if f.ieee then (2 ^ f.eb - 1) * 2 ^ f.mb else if f.canon.isSome then 2 ^ f.eb * 2 ^ f.mb - 1
    else 2 ^ f.eb * 2 ^ f.mb
  nan : f.ieee = true → f.canon.isSome = true

theorem regular_of_mem (h : f ∈ [.fp32, .fp16, .bf16, .e4m3, .e5m2, .e2m1]) : Regular f := by
  simp only [List.mem_cons, List.not_mem_nil, or_false] at h
  rcases h with rfl | rfl | rfl | rfl | rfl | rfl <;> exact ⟨by decide, by decide, by decide⟩

/-- The value that exponent field E and mantissa field M stand for (R71). -/
def fieldsValue (f : FloatFmt) (neg : Bool) (E M : Nat) : XR :=
  if E = 0 then .fin neg M (1 - (f.bias : Int) - f.mb) else .fin neg (2 ^ f.mb + M) ((E : Int) - f.bias - f.mb)

theorem magLt_eq_false {a b : Nat} {d e : Int} (hde : e ≤ d) (h : b ≤ a * 2 ^ (d - e).toNat) : magLt a d b e = false := by
  rw [magLt]
  split
  case isTrue hed =>
    obtain rfl := le_antisymm hed hde
    simpa using h
  case isFalse => simpa using h

/-- A magnitude m of exponent field E, of at most the largest finite magnitude, does not overflow. -/
theorem magLt_maxFin {E m : Nat} (hm : m < 2 * 2 ^ f.mb) (hEle : E * 2 ^ f.mb ≤ f.maxFin)
    (hle : E * 2 ^ f.mb + m ≤ f.maxFin + 2 ^ f.mb) :
    magLt (2 ^ f.mb + f.maxFin % 2 ^ f.mb) (((f.maxFin / 2 ^ f.mb : Nat) : Int) - f.bias - f.mb) m ((E : Int) - f.bias - f.mb) =
      false := by
  have hmax := Nat.div_add_mod f.maxFin (2 ^ f.mb)
  have hfield : E ≤ f.maxFin / 2 ^ f.mb := (Nat.le_div_iff_mul_le (by positivity)).mpr hEle
  refine magLt_eq_false (by omega) ?_
  generalize f.maxFin / 2 ^ f.mb = Q at *
  generalize f.maxFin % 2 ^ f.mb = R at *
  obtain ⟨d, rfl⟩ := Nat.exists_eq_add_of_le hfield
  rw [show ((E + d : Nat) : Int) - f.bias - f.mb - ((E : Int) - f.bias - f.mb) = (d : Int) by omega, Int.toNat_natCast]
  cases d with
  | zero => rw [← hmax] at hle; simp only [Nat.add_zero, Nat.pow_zero, Nat.mul_one] at *; rw [mul_comm] at hle; omega
  | succ d =>
    calc m ≤ (2 ^ f.mb + R) * 2 := by omega
      _ ≤ (2 ^ f.mb + R) * 2 ^ (d + 1) := Nat.mul_le_mul_left _ (by rw [pow_succ]; have := Nat.two_pow_pos d; omega)

/-- A magnitude that is a whole number of the format's last place, and does not overflow, is encoded as it is. -/
theorem roundFin_exact {m : Nat} {e : Int} (hm : m ≠ 0)
    (hq : (if (Nat.log2 m : Int) + e - f.mb < 1 - f.bias - f.mb then 1 - (f.bias : Int) - f.mb else Nat.log2 m + e - f.mb) = e)
    (hno : magLt (2 ^ f.mb + f.maxFin % 2 ^ f.mb) (((f.maxFin / 2 ^ f.mb : Nat) : Int) - f.bias - f.mb) m e = false) :
    f.roundFin neg m e rm = (f.withSign neg (if (Nat.log2 m : Int) + e < 1 - f.bias then m else
      (Nat.log2 m + e + f.bias).toNat * 2 ^ f.mb +
        ((if Nat.log2 m ≤ f.mb then m * 2 ^ (f.mb - Nat.log2 m) else m / 2 ^ (Nat.log2 m - f.mb)) - 2 ^ f.mb)), 0#6) := by
  unfold FloatFmt.roundFin
  dsimp only
  rw [hq, roundAt_exact _ _ _ _ _ le_rfl]
  simp only [sub_self, Int.toNat_zero, pow_zero, mul_one, hno, Bool.false_eq_true, if_false, if_neg hm]
  split <;> rfl

/-- A finite value of the format, of exponent field E and mantissa field M, is rounded to those fields with no flag. -/
theorem round_fieldsValue {E M : Nat} (hM : M < 2 ^ f.mb) (hf : 2 ^ f.mb ≤ f.maxFin) (hle : E * 2 ^ f.mb + M ≤ f.maxFin) :
    f.round (fieldsValue f neg E M) rm = (f.withSign neg (E * 2 ^ f.mb + M), 0#6) := by
  rw [fieldsValue]
  rcases Nat.eq_zero_or_pos E with rfl | hE
  · rw [if_pos rfl, Nat.zero_mul, Nat.zero_add]
    rcases Nat.eq_zero_or_pos M with rfl | hM0
    · rfl
    have hlog : Nat.log2 M < f.mb := (Nat.log2_lt hM0.ne').mpr hM
    have hno := magLt_maxFin (f := f) (E := 1) (m := M) (by omega) (by omega) (by omega)
    rw [FloatFmt.round, if_neg hM0.ne', roundFin_exact neg rm hM0.ne' (if_pos (by omega)) (by simpa using hno), if_pos (by omega)]
  · have hm0 : 2 ^ f.mb + M ≠ 0 := by positivity
    have hlog : Nat.log2 (2 ^ f.mb + M) = f.mb := (Nat.log2_eq_iff hm0).mpr ⟨by omega, by rw [pow_succ]; omega⟩
    have hno := magLt_maxFin (f := f) (E := E) (m := 2 ^ f.mb + M) (by omega) (by omega) (by omega)
    have hexp : ((f.mb : Int) + (E - f.bias - f.mb) + f.bias).toNat = E := by omega
    rw [if_neg hE.ne', FloatFmt.round, if_neg hm0, roundFin_exact neg rm hm0 (by rw [hlog, if_neg] <;> omega) hno, hlog,
      if_neg (by omega), if_pos le_rfl, hexp, Nat.sub_self, pow_zero, mul_one, Nat.add_sub_cancel_left]

/-- The magnitude bits of an encoding. -/
theorem fields_eq (x : Nat) : x / 2 ^ f.mb % 2 ^ f.eb * 2 ^ f.mb + x % 2 ^ f.mb = x % 2 ^ (f.eb + f.mb) := by
  rw [Nat.add_comm f.eb, pow_add, Nat.mod_mul]
  ring

/-- An encoding is its sign and its magnitude bits. -/
theorem withSign_fields {x : Nat} (hx : x < 2 ^ (1 + f.eb + f.mb)) :
    f.withSign (f.signBit x) (x / 2 ^ f.mb % 2 ^ f.eb * 2 ^ f.mb + x % 2 ^ f.mb) = x := by
  have hsign : x / 2 ^ (f.eb + f.mb) < 2 := by
    rw [Nat.div_lt_iff_lt_mul (by positivity), ← pow_succ']
    rwa [show f.eb + f.mb + 1 = 1 + f.eb + f.mb by omega]
  have hx := Nat.div_add_mod x (2 ^ (f.eb + f.mb))
  rw [fields_eq, FloatFmt.withSign, FloatFmt.signBit, Nat.testBit_eq_decide_div_mod_eq]
  generalize x / 2 ^ (f.eb + f.mb) = top at *
  interval_cases top <;> simp <;> omega

/-- What a pattern of the format decodes to. -/
theorem decode_cases (hf : Regular f) (x : Nat) :
    (f.decode x = .nan ∧ f.canon.isSome) ∨
    (f.ieee = true ∧ f.decode x = .inf (f.signBit x) ∧ x / 2 ^ f.mb % 2 ^ f.eb * 2 ^ f.mb + x % 2 ^ f.mb = f.infBits) ∨
    (f.decode x = fieldsValue f (f.signBit x) (x / 2 ^ f.mb % 2 ^ f.eb) (x % 2 ^ f.mb) ∧
      x / 2 ^ f.mb % 2 ^ f.eb * 2 ^ f.mb + x % 2 ^ f.mb ≤ f.maxFin) := by
  have hE : x / 2 ^ f.mb % 2 ^ f.eb < 2 ^ f.eb := Nat.mod_lt _ (by positivity)
  have hM : x % 2 ^ f.mb < 2 ^ f.mb := Nat.mod_lt _ (by positivity)
  have hlargest := hf.largest
  unfold FloatFmt.decode
  dsimp only
  generalize x / 2 ^ f.mb % 2 ^ f.eb = E at *
  generalize x % 2 ^ f.mb = M at *
  by_cases htop : f.ieee = true ∧ E = 2 ^ f.eb - 1
  · obtain ⟨hieee, rfl⟩ := htop
    rw [if_pos ⟨hieee, rfl⟩]
    by_cases hM0 : M = 0
    · subst hM0
      exact .inr (.inl ⟨hieee, rfl, rfl⟩)
    · rw [if_neg hM0]
      exact .inl ⟨rfl, hf.nan hieee⟩
  rw [if_neg htop]
  by_cases hnan : ¬f.ieee = true ∧ f.canon.isSome = true ∧ E = 2 ^ f.eb - 1 ∧ M = 2 ^ f.mb - 1
  · rw [if_pos hnan]
    exact .inl ⟨rfl, hnan.2.1⟩
  rw [if_neg hnan]
  refine .inr (.inr ⟨rfl, ?_⟩)
  have hbelow : ∀ {k : Nat}, E < k → E * 2 ^ f.mb + M + 1 ≤ k * 2 ^ f.mb := fun {k} hk =>
    calc E * 2 ^ f.mb + M + 1 ≤ (E + 1) * 2 ^ f.mb := by rw [Nat.add_mul]; omega
      _ ≤ k * 2 ^ f.mb := Nat.mul_le_mul_right _ hk
  cases hieee : f.ieee
  · rw [hieee, if_neg Bool.false_ne_true] at hlargest
    have hall := hbelow hE
    cases hcanon : f.canon.isSome
    · rw [hcanon, if_neg Bool.false_ne_true] at hlargest
      omega
    · rw [hcanon, if_pos rfl] at hlargest
      have hne : E = 2 ^ f.eb - 1 → M ≠ 2 ^ f.mb - 1 := fun hE hM => hnan ⟨by simp [hieee], hcanon, hE, hM⟩
      have hsum : (2 ^ f.eb - 1) * 2 ^ f.mb + 2 ^ f.mb = 2 ^ f.eb * 2 ^ f.mb :=
          by rw [← Nat.succ_mul, Nat.succ_eq_add_one]; congr 1; omega
      rcases eq_or_ne E (2 ^ f.eb - 1) with rfl | htopE
      · have := hne rfl
        omega
      · have := hbelow (k := 2 ^ f.eb - 1) (by omega)
        omega
  · rw [hieee, if_pos rfl] at hlargest
    have := hbelow (k := 2 ^ f.eb - 1) (by have : E ≠ 2 ^ f.eb - 1 := fun h => htop ⟨hieee, h⟩; omega)
    omega

theorem round_decode (hf : Regular f) {x : Nat} (hx : x < 2 ^ (1 + f.eb + f.mb)) :
    if (f.decode x).isNaN then f.canon = some (f.round (f.decode x) rm).1 else f.round (f.decode x) rm = (x, 0#6) := by
  rcases decode_cases hf x with ⟨hnan, hsome⟩ | ⟨hieee, hinf, hbits⟩ | ⟨hfin, hle⟩
  · obtain ⟨c, hc⟩ := Option.isSome_iff_exists.mp hsome
    simp [hnan, XR.isNaN, FloatFmt.round, hc]
  · rw [hinf, if_neg (by simp [XR.isNaN]), FloatFmt.round, if_pos hieee, ← hbits, withSign_fields hx]
    rfl
  · have hnum : (f.decode x).isNaN = false := by rw [hfin, fieldsValue]; split <;> rfl
    rw [hnum, if_neg Bool.false_ne_true, hfin, round_fieldsValue _ _ (Nat.mod_lt _ (by positivity)) hf.normal hle,
        withSign_fields hx]

end encodings

/-- Settles O27: sums and products are those of the rationals, `roundAt` rounds as R75 says, and what a pattern decodes to is
rounded to the pattern's own fields. -/
theorem realArithmetic : Obligations.RealArithmetic := by
  unfold Obligations.RealArithmetic
  refine ⟨fun g h m k d e rm => ?sums, fun neg m e q rm => ?rounds, fun m rm x hm hx => round_decode rm (regular_of_mem hm) hx⟩
  case sums =>
    exact ⟨ratOf_add g h m k d e rm, ratOf_mul g h m k d e, by rw [XR.add_fin]; rfl, rfl, rfl, neg_add_of_zero g h m k d e rm⟩
  case rounds =>
    obtain ⟨hinexact, hexact, hdown, hup, hnearest⟩ := roundAt_roundsTo neg m e q rm
    exact ⟨hinexact, hexact, hdown, hup, hnearest⟩

end Sys2Proof.Machine
end

section
/-! PROOFS. Conversions: integer codes and their widths, rounding to an integer, and the shapes of CVT and DQN. -/

namespace Sys2Proof.Machine

/-! ## Integer codes (R67) -/

section codes
variable {c w : Nat} {signed : Bool} (h : IntFmt.ofCode c = some (w, signed))
include h

theorem fmtWidth_of_intFmt : fmtWidth c = w := by
  unfold IntFmt.ofCode at h
  split_ifs at h <;> cases h <;> subst c <;> rfl

theorem floatFmt_none_of_intFmt : FloatFmt.ofCode c = none := by
  unfold IntFmt.ofCode at h
  split_ifs at h <;> subst c <;> rfl

/-- The number that a token stands for in an integer format is that of its low bits. -/
theorem intVal_low (a : BitVec 32) : intVal c a =
    if signed then (BitVec.ofNat w (a.toNat % 2 ^ fmtWidth c)).toInt else ((a.toNat % 2 ^ fmtWidth c : Nat) : Int) := by
  have hlow : a.truncate w = BitVec.ofNat w (a.toNat % 2 ^ w) := by
    apply BitVec.eq_of_toNat_eq
    simp
  rw [intVal_eq h, fmtWidth_of_intFmt h, hlow, numOf]
  simp

theorem decodeFmt_int (a : BitVec 32) : decodeFmt (a.toNat % 2 ^ fmtWidth c) c = XR.ofInt (intVal c a) := by
  have hpos := (IntFmt.width_of_code h).1
  rw [decodeFmt, floatFmt_none_of_intFmt h, intVal_low h]
  simp only [h, fmtWidth_of_intFmt h]
  cases signed
  · simp
  · simp [sx_toInt _ _ hpos]

end codes

/-! ## Rounding to an integer format (R74, R81) -/

/-- A number and a finite value in the numeric order are an integer and a rational. -/
theorem cmp_ofInt_fin (z : Int) (g : Bool) (k : Nat) (e : Int) :
    XR.cmp (XR.ofInt z) (.fin g k e) = compare (z : ℚ) (ratOf (.fin g k e)) := by
  rw [← ratOf_ofInt, XR.ofInt, cmp_fin]

theorem cmp_fin_ofInt (z : Int) (g : Bool) (k : Nat) (e : Int) :
    XR.cmp (.fin g k e) (XR.ofInt z) = compare (ratOf (.fin g k e)) (z : ℚ) := by
  rw [← ratOf_ofInt z, XR.ofInt, cmp_fin]

theorem intRange_le (w : Nat) (signed : Bool) : (intRange w signed).1 ≤ (intRange w signed).2 := by
  have := Nat.two_pow_pos (w - 1)
  have := Nat.two_pow_pos w
  cases signed <;> simp only [intRange, if_true, Bool.false_eq_true, if_false] <;> omega

section toInt
variable (g : Bool) (k : Nat) (e : Int) (w : Nat) (signed : Bool) (rm : RMode)

/-- A finite value whose rounded number lies below the range gives the least number of the format. -/
theorem toIntFmt_below (h : roundIntFin g k e rm < (intRange w signed).1) :
    toIntFmt (.fin g k e) w signed rm = ((intRange w signed).1, Flags.inv ||| Flags.sat) := by
  have hc : satInt (roundIntFin g k e rm) (intRange w signed).1 (intRange w signed).2 = (intRange w signed).1 := if_pos h
  simp only [toIntFmt, hc, ne_eq, h.ne', not_false_eq_true, if_true]

/-- A finite value whose rounded number lies above the range gives the greatest number of the format. -/
theorem toIntFmt_above (h : (intRange w signed).2 < roundIntFin g k e rm) :
    toIntFmt (.fin g k e) w signed rm = ((intRange w signed).2, Flags.inv ||| Flags.sat) := by
  have hle := intRange_le w signed
  have hc : satInt (roundIntFin g k e rm) (intRange w signed).1 (intRange w signed).2 = (intRange w signed).2 :=
    (if_neg (by omega)).trans (if_pos h)
  simp only [toIntFmt, hc, ne_eq, h.ne, not_false_eq_true, if_true]

/-- A finite value whose rounded number lies in the range gives it; what was dropped raises INX, or INV where the value itself lay
outside the range (R77, R81). -/
theorem toIntFmt_within (hlo : (intRange w signed).1 ≤ roundIntFin g k e rm) (hhi : roundIntFin g k e rm ≤ (intRange w signed).2) :
    toIntFmt (.fin g k e) w signed rm = (roundIntFin g k e rm,
      if (roundIntFin g k e rm : ℚ) = ratOf (.fin g k e) then Flags.none
      else if ((intRange w signed).1 : ℚ) ≤ ratOf (.fin g k e) ∧ ratOf (.fin g k e) ≤ ((intRange w signed).2 : ℚ) then Flags.inx
      else Flags.inv) := by
  have hc : satInt (roundIntFin g k e rm) (intRange w signed).1 (intRange w signed).2 = roundIntFin g k e rm :=
    (if_neg (by omega)).trans (if_neg (by omega))
  simp only [toIntFmt, hc, ne_eq, not_true_eq_false, if_false, cmp_ofInt_fin, cmp_fin_ofInt, compare_eq_iff_eq, Bool.and_eq_true,
    bne_iff_ne, compare_gt_iff_gt, not_lt]
  split_ifs <;> rfl

end toInt

/-! ## CVT (R81, R235) -/

section cvt
variable {word : Nat} {a : BitVec 32} (b x : BitVec 32)

theorem cvtFn_float {m k : FloatFmt} (hm : FloatFmt.ofCode (wFmt word) = some m) (hk : FloatFmt.ofCode (wImm word % 16) = some k) :
    let enc := a.toNat % 2 ^ fmtWidth (wImm word % 16)
    cvtFn word a b x = if wImm word % 16 = wFmt word then
        (BitVec.ofNat 32 (if (k.decode enc).isNaN then k.canonNaN else enc), Flags.none)
      else (BitVec.ofNat 32 (m.round (k.decode enc) (wRm word)).1, (m.round (k.decode enc) (wRm word)).2) := by
  simp only [cvtFn, hm, hk]

theorem cvtFn_of_int {m : FloatFmt} {w : Nat} {signed : Bool} (hm : FloatFmt.ofCode (wFmt word) = some m)
    (hi : IntFmt.ofCode (wImm word % 16) = some (w, signed)) :
    let v := XR.ofInt (intVal (wImm word % 16) a)
    cvtFn word a b x = (BitVec.ofNat 32 (m.round v (wRm word)).1, (m.round v (wRm word)).2) := by
  simp only [cvtFn, hm, floatFmt_none_of_intFmt hi, decodeFmt_int hi]

theorem cvtFn_to_int {k : FloatFmt} {w : Nat} {signed : Bool} (hi : IntFmt.ofCode (wFmt word) = some (w, signed))
    (hk : FloatFmt.ofCode (wImm word % 16) = some k) :
    let o := toIntFmt (k.decode (a.toNat % 2 ^ fmtWidth (wImm word % 16))) w signed (wRm word)
    cvtFn word a b x = (tokenOf signed (BitVec.ofInt w o.1), o.2) := by
  simp only [cvtFn, hk, floatFmt_none_of_intFmt hi, intExt_eq hi, intFmt_of_code hi]

theorem cvtFn_int {w w' : Nat} {signed signed' : Bool} (hi : IntFmt.ofCode (wFmt word) = some (w, signed))
    (hj : IntFmt.ofCode (wImm word % 16) = some (w', signed')) :
    let v := intVal (wImm word % 16) a
    cvtFn word a b x = if wSat word ∧ ¬((intRange w signed).1 ≤ v ∧ v ≤ (intRange w signed).2) then
        (tokenOf signed (BitVec.ofInt w (satInt v (intRange w signed).1 (intRange w signed).2)), Flags.sat)
      else (tokenOf signed (BitVec.ofInt w v), Flags.none) := by
  simp only [cvtFn, floatFmt_none_of_intFmt hi, floatFmt_none_of_intFmt hj, intExt_eq hi, intFmt_of_code hi]

end cvt

/-! ## DQN (R84, R237) -/

section dqn
variable {word : Nat} {a : BitVec 32} (b x : BitVec 32)

/-- A product delivered as FP32, with its own flags and those of the rounding. -/
def dqnOut (word : Nat) (p : XR × Flags) : ElemRes :=
  (BitVec.ofNat 32 (FloatFmt.fp32.round p.1 (wRm word)).1, p.2 ||| (FloatFmt.fp32.round p.1 (wRm word)).2)

theorem dqnFn_mx_nan (hd : wFmt word ≠ 0xD) (hs : a.toNat / 256 % 256 = 255) : dqnFn word a b x =
    dqnOut word (.nan, Flags.none) := by
  simp only [dqnFn, if_neg hd, if_pos hs, dqnOut]

theorem dqnFn_mx (hd : wFmt word ≠ 0xD) (hs : a.toNat / 256 % 256 ≠ 255) : dqnFn word a b x =
    dqnOut word (XR.mul (decodeFmt a.toNat (wFmt word)) (.fin false 1 (((a.toNat / 256 % 256 : Nat) : Int) - 127))) := by
  simp only [dqnFn, if_neg hd, if_neg hs, dqnOut]

theorem dqnFn_qc4_zero (hd : wFmt word = 0xD) (hs : a.toNat / 256 % 256 = 0) : dqnFn word a b x = (0#32, Flags.none) := by
  simp only [dqnFn, if_pos hd, if_pos hs]

theorem dqnFn_qc4 (hd : wFmt word = 0xD) (hs : a.toNat / 256 % 256 ≠ 0) {g : Bool} {k : Nat} {e : Int}
    (hq : qc4Value a.toNat = .fin g k e) : dqnFn word a b x =
      dqnOut word (XR.mul (.fin g (k * (a.toNat / 256 % 256)) (e - 8)) (FloatFmt.fp32.decode (wImm word))) := by
  simp only [dqnFn, if_pos hd, if_neg hs, dqnOut, hq, XR.mul]
  cases g <;> simp [Flags.none, Int.sub_eq_add_neg]

/-- No level of the codebook is zero (R83). -/
theorem qc4Value_ne_zero {c : Nat} {g : Bool} {k : Nat} {e : Int} (h : qc4Value c = .fin g k e) : k ≠ 0 := by
  have hmag : ∀ i, (qc4Mag i).1 ≠ 0 := fun i => by
    simp only [qc4Mag]
    split_ifs <;> decide
  simp only [qc4Value] at h
  split at h <;> cases h <;> exact hmag _

end dqn

/-- Settles O28: CVT is one of its four shapes by the kinds of its two codes, and DQN a product of the code and its scale. -/
theorem conversions : Obligations.Conversions := by
  unfold Obligations.Conversions
  intro s n r a b x word src dst rm enc cvt ext val
  have hcvt : ∀ {v : BitVec 32} {f : Flags}, cvtFn word a b x = (v, f) → cvt v f := fun h => State.yields_flags_of_wise rfl h
  refine ⟨fun m k hm hk => ?float, fun m w sg hm hi => ?ofInt, fun k w sg hi hk => ?toInt, fun w sg w' sg' hi hj => ?int, ?dqn⟩
  case float =>
    have h := cvtFn_float (a := a) b x hm hk
    split
    case isTrue heq =>
      obtain rfl : m = k := Option.some.inj (hm.symm.trans ((congrArg FloatFmt.ofCode heq.symm).trans hk))
      exact hcvt (h.trans (if_pos heq))
    case isFalse hne => exact hcvt (h.trans (if_neg hne))
  case ofInt =>
    intro v
    have h := cvtFn_of_int (a := a) b x hm hi
    rw [intVal_low hi] at h
    exact hcvt h
  case toInt =>
    intro lo hi'
    have h := cvtFn_to_int (a := a) b x hi hk
    have hrange : intRange w sg = (lo, hi') := intRange_eq w sg
    refine ⟨fun hv => ?nan, fun g hv => ?inf, fun g q e hv => ⟨fun hz => ?below, fun hz => ?above, fun hlo hhi => ?within⟩⟩ <;>
      (rw [show k.decode (a.toNat % 2 ^ fmtWidth (wImm word % 16)) = _ from hv] at h; refine hcvt (h.trans ?_))
    case nan => rfl
    case inf => cases g <;> simp [toIntFmt, hrange] <;> rfl
    case below => rw [toIntFmt_below _ _ _ _ _ _ (by rwa [hrange]), hrange]; rfl
    case above => rw [toIntFmt_above _ _ _ _ _ _ (by rwa [hrange]), hrange]; rfl
    case within =>
      rw [toIntFmt_within _ _ _ _ _ _ (by rwa [hrange]) (by rwa [hrange]), hrange, ← hv]
      rfl
  case int =>
    intro v lo hi'
    have h := cvtFn_int (a := a) b x hi hj
    rw [intVal_low hj, show intRange w sg = (lo, hi') from intRange_eq w sg] at h
    split
    case isTrue hout =>
      refine hcvt (h.trans ((if_pos hout).trans ?_))
      have hclamp : satInt v lo hi' = if v < lo then lo else hi' := by
        unfold satInt
        split_ifs <;> omega
      exact congrArg (fun z => (tokenOf sg (BitVec.ofInt w z), Flags.sat)) hclamp
    case isFalse hin => exact hcvt (h.trans (if_neg hin))
  case dqn =>
    intro sc dqn
    have hdqn : ∀ {v : XR} {p : XR × Flags}, dqnFn word a b x = dqnOut word p → p = (v, 0#6) → dqn v := by
      rintro v p h rfl
      exact State.yields_flags_of_wise rfl (h.trans (congrArg (Prod.mk _) BitVec.zero_or))
    refine ⟨fun hd => ⟨fun hs => ?mxNan, fun g k e hs hv => ?mxFin, fun hs hv => ?mxCodeNan, fun g hs hv => ?mxInf⟩,
      fun hd => ⟨fun hs => ?zero, fun g k e h q f hs hc hS => ?fin, fun hs hS => ?nan, fun g k e h hs hc hS => ?inf⟩⟩
    case mxNan => exact State.yields_flags_of_wise rfl ((dqnFn_mx_nan b x hd hs).trans (congrArg (Prod.mk _) BitVec.zero_or))
    case mxFin => exact hdqn (dqnFn_mx b x hd hs) (by rw [hv, XR.mul]; cases g <;> simp [Flags.none, sc])
    case mxCodeNan => exact hdqn (dqnFn_mx b x hd hs) (by rw [hv]; rfl)
    case mxInf => exact hdqn (dqnFn_mx b x hd hs) (by rw [hv, XR.mul]; cases g <;> simp [Flags.none])
    case zero => exact State.yields_flags_of_wise rfl (dqnFn_qc4_zero b x hd hs)
    case fin => exact hdqn (dqnFn_qc4 b x hd hs hc) (by rw [hS]; rfl)
    case nan =>
      obtain ⟨g, k, e, hc⟩ : ∃ g k e, qc4Value a.toNat = .fin g k e := by unfold qc4Value; dsimp only; split <;> exact
          ⟨_, _, _, rfl⟩
      exact hdqn (dqnFn_qc4 b x hd hs hc) (by rw [hS]; rfl)
    case inf =>
      have hne : k * (a.toNat / 256 % 256) ≠ 0 := Nat.mul_ne_zero (qc4Value_ne_zero hc) hs
      exact hdqn (dqnFn_qc4 b x hd hs hc) (by rw [hS]; exact if_neg hne)

end Sys2Proof.Machine
end

section
/-! PROOFS. QNT: how members gather and leave, and the scale and codes of a block. -/

namespace Sys2Proof

/-- A value stored and then removed leaves no trace. -/
theorem SMap.del_put_same {α : Type} (m : SMap α) (i : Nat) (v : α) : SMap.del (SMap.put m i v) i = SMap.del m i := by
  induction m with
  | nil => simp [SMap.put, SMap.del]
  | cons e m ih =>
    obtain ⟨k, w⟩ := e
    by_cases h : i = k
    · simp [SMap.put, SMap.del, h]
    · by_cases h2 : i < k
      · simp [SMap.put, SMap.del, h, h2]
      · simp [SMap.put, SMap.del, h, h2, ih]

/-- The second of two stores at a key counts, where the first is listed. -/
theorem SMap.set_set_same {α : Type} [DecidableEq α] {d v : α} (m : SMap α) (i : Nat) (hv : v ≠ d) (w : α) :
    SMap.set d (SMap.set d m i v) i w = SMap.set d m i w := by
  unfold SMap.set
  rw [if_neg hv, SMap.del_put_same, SMap.put_put_same]

end Sys2Proof

namespace Sys2Proof.Machine

/-! ## Gathering and closing (R236) -/

@[simp] theorem Core.est_setEst_same (c : Core) (r : Nat) (e : ElemState) : (c.setEst r e).est r = e := SMap.get_set_same ..

theorem Core.setEst_setEst (c : Core) (r : Nat) {e : ElemState} (he : e ≠ {}) (e' : ElemState) :
    (c.setEst r e).setEst r e' = c.setEst r e' := by
  unfold Core.setEst
  simp only [SMap.set_set_same _ _ he]

@[simp] theorem Core.word_setEst (c : Core) (r q : Nat) (e : ElemState) : (c.setEst r e).word q = c.word q := rfl
@[simp] theorem Core.est_setSegs (c : Core) (x q : Nat) (l : List Nat) : (c.setSegs x l).est q = c.est q := rfl
@[simp] theorem Core.word_setSegs (c : Core) (x q : Nat) (l : List Nat) : (c.setSegs x l).word q = c.word q := rfl

theorem Core.pop_setSegs (c : Core) {x : Nat} (hx : x < 4160) (l : List Nat) : (c.setSegs x l).pop x = (c.pop x).setSegs x l := by
  rw [Core.pop, Core.pop, Core.setQueue_of_lt _ hx, Core.setQueue_of_lt _ hx, Core.queue_setSegs]
  rfl

theorem Core.est_pop (c : Core) {x : Nat} (hx : x < 4160) (q : Nat) : (c.pop x).est q = c.est q := by
  rw [Core.pop, Core.setQueue_of_lt _ hx]
  rfl

theorem Core.word_pop (c : Core) {x : Nat} (hx : x < 4160) (q : Nat) : (c.pop x).word q = c.word q := by
  rw [Core.pop, Core.setQueue_of_lt _ hx]
  rfl

/-- QNT has the one operand. -/
theorem operands_qnt {w : Nat} (h : wOp w = 0x41) : operands w = [0] := by
  simp [operands, usesInput, h, opHasB, opHasC]

/-- A QNT with room and a member at its input fires on it. -/
theorem Core.firing_qnt {c : Core} {r : Nat} {d : BitVec 32} (hop : wOp (c.word r) = 0x41) (hroom : c.hasRoom r)
    (hp : wPmode (c.word r) = 0) (hd : c.holdsData (inPlace r 0) d) :
    c.firing r = .fires ((c.setSegs (inPlace r 0) (segData (c.segs (inPlace r 0))).1).pop (inPlace r 0)) d
        (operandBits (c.word r) (dataAt (fun _ => d) [0]) 1)
      (operandBits (c.word r) (dataAt (fun _ => d) [0]) 2) := by
  have hops := operands_qnt hop
  rw [Core.firing_full (t := fun _ => d) hroom (by simpa [hops] using hd) (absurd hp), hops]
  simp [Core.fireFull, Core.segAll, segsAgree, dataAt, hp, operandBits]

/-- A block as it leaves: each member's code with the scale code above it. -/
def codedTokens (w free : Nat) (ts : List Token) : List Token :=
  let o := qntBlock w free (ts.map fun t => FloatFmt.fp32.decode t.data.toNat)
  o.2.1.map fun k => Token.ofData (BitVec.ofNat 32 (o.1 * 256 + k))

theorem Token.kind_ne_kept {t : Token} (h : t.isData = true) : t.kind ≠ keptKind := by
  rw [of_decide_eq_true h]
  decide

/-- Without kept tokens the codes take the places of the members in order. -/
theorem qntEmit_eq {sc : Nat} {ts : List Token} (h : ∀ t ∈ ts, t.isData = true) {cs : List Nat} (hlen : cs.length = ts.length) :
    qntEmit sc ts cs = cs.map fun k => Token.ofData (BitVec.ofNat 32 (sc * 256 + k)) := by
  induction ts generalizing cs with
  | nil => rw [List.length_eq_zero_iff.mp hlen]; rfl
  | cons t ts ih =>
    obtain ⟨k, cs, rfl⟩ := List.exists_cons_of_length_eq_add_one hlen
    rw [qntEmit, if_neg (Token.kind_ne_kept (h t List.mem_cons_self)), List.map_cons,
      ih (fun u hu => h u (List.mem_cons_of_mem _ hu)) (by simpa using hlen)]

/-- The greatest magnitude of a block. -/
def blockMax (vs : List XR) : XR := vs.foldl maxMag (.fin false 0 0)

/-- The greatest exponent of an MX element format (R236). -/
def mxTop (w : Nat) : Int := if wFmt w = 0xA then 8 else if wFmt w = 0xB then 15 else 2

/-- A finite value has a sign, a magnitude and an exponent. -/
theorem exists_fin {v : XR} (h : v.isNaN = false ∧ v.isInf = false) : ∃ g m e, v = .fin g m e := by
  cases v with
  | nan => cases h.1
  | inf => cases h.2
  | fin g m e => exact ⟨g, m, e, rfl⟩

/-! ## Magnitudes (R236) -/

theorem ratOf_abs (g : Bool) (m : Nat) (e : Int) : ratOf (XR.abs (.fin g m e)) = |ratOf (.fin g m e)| := by
  rw [XR.abs, ratOf_fin, ratOf_fin, abs_mul, abs_mul, abs_of_pos (two_zpow_pos e), Nat.abs_cast]
  cases g <;> simp

theorem isZero_iff (g : Bool) (m : Nat) (e : Int) : (XR.fin g m e).isZero = true ↔ ratOf (.fin g m e) = 0 := by
  rw [ratOf_fin, XR.isZero, decide_eq_true_eq, mul_eq_zero, mul_eq_zero, Nat.cast_eq_zero]
  cases g <;> simp [(two_zpow_pos e).ne']

theorem ratOf_nonneg (m : Nat) (e : Int) : 0 ≤ ratOf (.fin false m e) := by
  have := two_zpow_pos e
  simp only [ratOf_fin, Bool.false_eq_true, if_false, one_mul]
  positivity

/-- The greatest magnitude of finite values, from a magnitude on, bounds each and is one of them or the first. -/
theorem foldl_maxMag {vs : List XR} (h : ∀ v ∈ vs, v.isNaN = false ∧ v.isInf = false) (m : Nat) (e : Int) :
    ∃ m' e', vs.foldl maxMag (.fin false m e) = .fin false m' e' ∧ ratOf (.fin false m e) ≤ ratOf (.fin false m' e') ∧
      (∀ v ∈ vs, |ratOf v| ≤ ratOf (.fin false m' e')) ∧
      (XR.fin false m' e' = .fin false m e ∨ ∃ v ∈ vs, |ratOf v| = ratOf (.fin false m' e')) := by
  induction vs generalizing m e with
  | nil => exact ⟨m, e, rfl, le_rfl, fun v hv => absurd hv List.not_mem_nil, .inl rfl⟩
  | cons v vs ih =>
    obtain ⟨g, k, d, rfl⟩ := exists_fin (h v List.mem_cons_self)
    have ih := ih fun u hu => h u (List.mem_cons_of_mem _ hu)
    have habs := ratOf_abs g k d
    rw [XR.abs] at habs
    rw [List.foldl_cons, maxMag]
    simp only [XR.abs, cmp_fin, compare_lt_iff_lt]
    split
    case isTrue hlt =>
      obtain ⟨m', e', hfold, hle, hall, hone⟩ := ih k d
      refine ⟨m', e', hfold, hlt.le.trans hle, ?_, .inr ?_⟩
      · simpa [← habs, hle] using hall
      · rcases hone with heq | ⟨u, hu, heq⟩
        · exact ⟨_, List.mem_cons_self, by rw [← habs, heq]⟩
        · exact ⟨u, List.mem_cons_of_mem _ hu, heq⟩
    case isFalse hge =>
      obtain ⟨m', e', hfold, hle, hall, hone⟩ := ih m e
      refine ⟨m', e', hfold, hle, ?_, ?_⟩
      · simpa [← habs, (not_lt.mp hge).trans hle] using hall
      · rcases hone with heq | ⟨u, hu, heq⟩
        · exact .inl heq
        · exact .inr ⟨u, List.mem_cons_of_mem _ hu, heq⟩

/-- The greatest magnitude of finite members. -/
theorem blockMax_fin {vs : List XR} (h : ∀ v ∈ vs, v.isNaN = false ∧ v.isInf = false) :
    ∃ m e, blockMax vs = .fin false m e ∧ (∀ v ∈ vs, |ratOf v| ≤ ratOf (.fin false m e)) ∧
      (ratOf (.fin false m e) = 0 ∨ ∃ v ∈ vs, |ratOf v| = ratOf (.fin false m e)) := by
  obtain ⟨m, e, hfold, -, hall, hone⟩ := foldl_maxMag h 0 0
  refine ⟨m, e, hfold, hall, hone.imp_left fun heq => ?_⟩
  rw [heq]
  simp [ratOf_fin]

theorem blockMax_isZero {vs : List XR} (h : ∀ v ∈ vs, v.isNaN = false ∧ v.isInf = false) :
    (blockMax vs).isZero = true ↔ ∀ v ∈ vs, ratOf v = 0 := by
  obtain ⟨m, e, hmax, hall, hone⟩ := blockMax_fin h
  rw [hmax, isZero_iff]
  refine ⟨fun hz v hv => abs_nonpos_iff.mp (hz ▸ hall v hv), fun hz => ?_⟩
  rcases hone with heq | ⟨v, hv, heq⟩
  · exact heq
  · rw [← heq, hz v hv, abs_zero]

theorem blockMax_ne_zero {vs : List XR} (h : ∀ v ∈ vs, v.isNaN = false ∧ v.isInf = false) (hne : ∃ v ∈ vs, ratOf v ≠ 0) :
    (blockMax vs).isZero = false := by
  rw [← Bool.not_eq_true, blockMax_isZero h]
  push Not
  exact hne

/-- The binary logarithm of a magnitude, rounded down. -/
theorem floorLog2_spec {g : Bool} {m : Nat} (hm : m ≠ 0) (e : Int) :
    2 ^ floorLog2 (.fin g m e) ≤ |ratOf (.fin g m e)| ∧ |ratOf (.fin g m e)| < 2 ^ (floorLog2 (.fin g m e) + 1) := by
  have hpos := two_zpow_pos e
  have hlow : (2 : ℚ) ^ Nat.log2 m ≤ m := mod_cast Nat.log2_self_le hm
  have hhigh : (m : ℚ) < 2 ^ (Nat.log2 m + 1) := mod_cast Nat.lt_log2_self
  rw [← ratOf_abs, XR.abs, ratOf_fin, floorLog2]
  simp only [Bool.false_eq_true, if_false, one_mul]
  constructor
  · rw [zpow_add₀ two_ne_zero, zpow_natCast]
    exact mul_le_mul_of_nonneg_right hlow hpos.le
  · rw [add_right_comm, zpow_add₀ two_ne_zero, ← Nat.cast_succ, zpow_natCast]
    exact mul_lt_mul_of_pos_right hhigh hpos

theorem any_special_iff {vs : List XR} :
    (vs.any fun v => v.isNaN || v.isInf) = false ↔ ∀ v ∈ vs, v.isNaN = false ∧ v.isInf = false := by
  simp

/-! ## The scale and the codes of a block (R236) -/

section block
variable {w free : Nat} {vs : List XR}

theorem qntBlock_special (h : (vs.any fun v => v.isNaN || v.isInf) = true) :
    qntBlock w free vs = (if wFmt w = 0xD then 0 else 255, vs.map fun _ => 0, Flags.inv) := by
  by_cases hw : wFmt w = 0xD <;> simp [qntBlock, h, hw]

variable (hfin : (vs.any fun v => v.isNaN || v.isInf) = false)
include hfin

theorem qntBlock_zeros (hz : (blockMax vs).isZero = true) : qntBlock w free vs = (0, vs.map fun _ => 0, Flags.none) := by
  unfold blockMax at hz
  simp only [qntBlock, hfin, hz, Bool.false_eq_true, if_false, if_true]

variable (hz : (blockMax vs).isZero = false)
include hz

theorem qntBlock_mx (hw : wFmt w ≠ 0xD) :
    let e := max (floorLog2 (blockMax vs) - mxTop w) (-127)
    let cs := vs.map fun v => roundClamp (floatFmt (wFmt w)) (scaleX v (-e)) (wRm w)
    qntBlock w free vs = ((e + 127).toNat, cs.map (·.1), cs.foldl (fun f p => f ||| p.2) Flags.none) := by
  unfold blockMax at hz
  simp only [qntBlock, hfin, hz, hw, Bool.false_eq_true, if_false, ne_eq, not_false_eq_true, decide_true, if_true]
  rfl

/-- The scale code of a QC4 block, before it is clamped. -/
def qc4Scale (am : Nat) (ae : Int) (sm : Nat) (se : Int) : Int :=
  match quotFin false am (ae + 8) sm se with
  | .fin _ qm qe => roundIntFin false qm qe .rne
  | _ => 0

theorem qntBlock_qc4 (hw : wFmt w = 0xD) {sm am : Nat} {se ae : Int} {g : Bool}
    (hs : FloatFmt.fp32.decode (wImm w) = .fin false sm se) (hm : sm ≠ 0) (ha : blockMax vs = .fin g am ae) :
    let n := qc4Scale am ae sm se
    let sc := (satInt n 1 255).toNat
    qntBlock w free vs = (sc, vs.map fun v => qc4Nearest v sc (.fin false sm se),
      if 255 < n then Flags.ovf else if n < 1 then Flags.unf else Flags.none) := by
  rw [ha] at hz
  unfold blockMax at ha
  simp only [qntBlock, hfin, hz, hw, Bool.false_eq_true, if_false, ne_eq, not_true_eq_false, decide_false, hs, ha, hm]
  rfl

omit hfin hz in
theorem satInt_code (n : Int) : 1 ≤ (satInt n 1 255).toNat ∧ (satInt n 1 255).toNat ≤ 255 := by
  unfold satInt
  split_ifs <;> omega

/-- With a super-scale that is not positive and finite the codes are free (log 24). -/
theorem qntBlock_free (hw : wFmt w = 0xD) (hs : ∀ sm se, FloatFmt.fp32.decode (wImm w) = .fin false sm se → sm = 0) :
    qntBlock w free vs = (0, (List.range vs.length).map fun i => (Config.freeByte free i).toNat % 16, Flags.inv) := by
  unfold blockMax at hz
  simp only [qntBlock, hfin, hz, hw, Bool.false_eq_true, if_false, ne_eq, not_true_eq_false, decide_false]
  split
  case h_1 heq _ => rw [if_pos (hs _ _ heq)]
  case h_2 => rfl

end block

/-- A block has a code for each member. -/
theorem qntBlock_length (w free : Nat) (vs : List XR) : (qntBlock w free vs).2.1.length = vs.length := by
  cases hfin : vs.any fun v => v.isNaN || v.isInf
  case true => rw [qntBlock_special hfin, List.length_map]
  cases hz : (blockMax vs).isZero
  case true => rw [qntBlock_zeros hfin hz, List.length_map]
  by_cases hw : wFmt w = 0xD
  case neg => rw [qntBlock_mx hfin hz hw, List.length_map, List.length_map]
  by_cases hs : ∀ sm se, FloatFmt.fp32.decode (wImm w) = .fin false sm se → sm = 0
  case pos => rw [qntBlock_free hfin hz hw hs, List.length_map, List.length_range]
  push Not at hs
  obtain ⟨sm, se, hs, hm⟩ := hs
  obtain ⟨am, ae, ha, -⟩ := blockMax_fin (any_special_iff.mp hfin)
  rw [qntBlock_qc4 hfin hz hw hs hm ha, List.length_map]

theorem Core.qntFlush_eq (c : Core) (r free : Nat) (h : ∀ t ∈ (c.est r).buf, t.isData = true) :
    c.qntFlush r free = ((c.setEst r { c.est r with buf := [], n := 0 }).push (elemPlace r)
        (codedTokens (c.word r) free (c.est r).buf),
      (qntBlock (c.word r) free ((c.est r).buf.map fun t => FloatFmt.fp32.decode t.data.toNat)).2.2) := by
  have hfilter : (c.est r).buf.filter (fun t => decide (t.kind ≠ keptKind)) = (c.est r).buf :=
    List.filter_eq_self.mpr fun t ht => decide_eq_true (Token.kind_ne_kept (h t ht))
  rw [Core.qntFlush, hfilter]
  dsimp only
  rw [qntEmit_eq h (by rw [qntBlock_length, List.length_map])]
  rfl

section fires
variable {c : Core} {r free : Nat} {d : BitVec 32} {t : Token}

/-- A member joins a block that it does not close. -/
theorem Core.fireQnt_member (hop : wOp (c.word r) = 0x41) (hroom : c.hasRoom r) (hr : r < 256) (hp : wPmode (c.word r) = 0)
    (hd : c.holdsData (inPlace r 0) d) :
    let x := inPlace r 0
    let e := c.est r
    let joined := ((c.pop x).setSegs x (segData (c.segs x)).1).setEst r { e with buf := e.buf ++ [Token.ofData d], n := e.n + 1 }
    Core.fireQnt free r c = if (wSegi (c.word r) = false ∧ 0 ∈ (segData (c.segs x)).2) ∨ qntSize (c.word r) ≤ e.n + 1 then
      .ok (joined.qntFlush r free).1 (joined.qntFlush r free).2 else .ok joined Flags.none := by
  have hx : inPlace r 0 < 4160 := (inPlace_lt hr (by decide)).trans (by decide)
  have hin : c.input (inPlace r 0) = some ⟨0#5, d⟩ := hd
  dsimp only
  rw [Core.fireQnt, Core.firing_qnt hop hroom hp hd, Core.pop_setSegs _ hx]
  simp only [hin, Token.isData_data, Bool.not_true, Bool.false_and, Core.est_setSegs, Core.est_pop _ hx]
  by_cases hclose : (wSegi (c.word r) = false ∧ 0 ∈ (segData (c.segs (inPlace r 0))).2) ∨ qntSize (c.word r) ≤ (c.est r).n + 1
  · rw [if_pos hclose, if_pos (by simpa using hclose)]
  · rw [if_neg hclose, if_neg (by simpa using hclose)]

/-- A control token closes the open block, and stays for the next step. -/
theorem Core.fireQnt_control (hroom : c.hasRoom r) (ht : c.input (inPlace r 0) = some t) (hc : t.isData = false)
    (hbuf : (c.est r).buf ≠ []) :
    Core.fireQnt free r c = .ok (c.qntFlush r free).1 (c.qntFlush r free).2 := by
  rw [Core.fireQnt]
  simp only [ht, hc, hbuf, show (c.queue (elemPlace r)).length < elemRoom (c.word r) from hroom, Bool.not_false, ne_eq,
    not_false_eq_true, decide_true, Bool.and_self]

end fires

/-! ## The nearest level of the codebook (R83) -/

/-- The first of the indices below n + 1 at which f is least. -/
theorem foldl_least (f : Nat → ℚ) (n : Nat) :
    let k := (List.range (n + 1)).foldl (fun best i => if f i < f best then i else best) 0
    k < n + 1 ∧ ∀ j < n + 1, f k ≤ f j ∧ (f k = f j → k ≤ j) := by
  induction n with
  | zero =>
    refine ⟨by simp, fun j hj => ?_⟩
    obtain rfl : j = 0 := by omega
    simp
  | succ n ih =>
    rw [List.range_succ, List.foldl_append]
    generalize (List.range (n + 1)).foldl (fun best i => if f i < f best then i else best) 0 = k at *
    obtain ⟨hk, hleast⟩ := ih
    simp only [List.foldl_cons, List.foldl_nil]
    split
    case isTrue hlt =>
      refine ⟨by omega, fun j hj => ?_⟩
      rcases Nat.lt_succ_iff_lt_or_eq.mp hj with hj | rfl
      · have := (hleast j hj).1
        exact ⟨by linarith, fun heq => absurd heq (by linarith)⟩
      · exact ⟨le_rfl, fun _ => le_rfl⟩
    case isFalse hge =>
      refine ⟨by omega, fun j hj => ?_⟩
      rcases Nat.lt_succ_iff_lt_or_eq.mp hj with hj | rfl
      · exact hleast j hj
      · exact ⟨not_lt.mp hge, fun _ => by omega⟩

theorem ratOf_negate (g : Bool) (m : Nat) (e : Int) : ratOf (XR.negate (.fin g m e)) = -ratOf (.fin g m e) := by
  rw [XR.negate, ratOf_fin, ratOf_fin]
  cases g <;> simp

theorem ratOf_scaleX (g : Bool) (m : Nat) (e k : Int) : ratOf (scaleX (.fin g m e) k) = ratOf (.fin g m e) * 2 ^ k := by
  rw [scaleX, ratOf_fin, ratOf_fin, zpow_add₀ two_ne_zero, mul_assoc, mul_assoc, mul_assoc]

theorem qc4Value_fin (i : Nat) : ∃ g m e, qc4Value i = .fin g m e := by
  unfold qc4Value
  dsimp only
  split <;> exact ⟨_, _, _, rfl⟩

theorem exists_add_fin (g h : Bool) (m k : Nat) (d e : Int) (rm : RMode) :
    ∃ g' m' e', (XR.add (.fin g m d) (.fin h k e) rm).1 = .fin g' m' e' := by
  rw [XR.add_fin]
  dsimp only
  split <;> exact ⟨_, _, _, rfl⟩

/-- The distance of v·2^8 from level i, as a rational. -/
def farFrom (v : XR) (sc sm : Nat) (se : Int) (i : Nat) : ℚ := |ratOf v * 2 ^ 8 - ratOf (qc4Value i) * sc * (sm * 2 ^ se)|

/-- A level of the codebook times the scale is a finite value. -/
theorem exists_qc4Level (sc sm : Nat) (se : Int) (i : Nat) :
    ∃ h k d, (XR.mul (XR.mul (qc4Value i) (.fin false sc 0)).1 (.fin false sm se)).1 = .fin h k d ∧
      ratOf (.fin h k d) = ratOf (qc4Value i) * sc * (sm * 2 ^ se) := by
  obtain ⟨h, k, d, hq⟩ := qc4Value_fin i
  refine ⟨_, _, _, by rw [hq]; rfl, (ratOf_mul (h != false) false (k * sc) sm (d + 0) se).trans ?_⟩
  have hscaled : ratOf (.fin (h != false) (k * sc) (d + 0)) = ratOf (qc4Value i) * ratOf (.fin false sc 0) := by
    rw [hq]
    exact ratOf_mul h false k sc d 0
  rw [hscaled]
  simp [ratOf_fin]

theorem qc4Dist_fin (g : Bool) (m : Nat) (e : Int) (sc sm : Nat) (se : Int) (i : Nat) :
    ∃ m' e', qc4Dist (.fin g m e) sc (.fin false sm se) i = .fin false m' e' ∧
      ratOf (.fin false m' e') = farFrom (.fin g m e) sc sm se i := by
  obtain ⟨h, k, d, hlevel, hval⟩ := exists_qc4Level sc sm se i
  obtain ⟨g', m', e', hsum⟩ := exists_add_fin g (!h) m k (e + 8) d .rne
  have hdist : qc4Dist (.fin g m e) sc (.fin false sm se) i = XR.abs (.fin g' m' e') := by
    simp only [qc4Dist, hlevel]
    exact congrArg XR.abs hsum
  refine ⟨m', e', hdist, ?_⟩
  have hrat : ratOf (.fin g' m' e') = ratOf (.fin g m e) * 2 ^ 8 - ratOf (qc4Value i) * sc * (sm * 2 ^ se) := by
    have hscale := ratOf_scaleX g m e 8
    have hneg := ratOf_negate h k d
    rw [scaleX] at hscale
    rw [XR.negate, hval] at hneg
    rw [← hsum, ratOf_add, hscale, hneg, ← sub_eq_add_neg]
    rfl
  rw [farFrom, ← hrat, ← ratOf_abs]
  rfl

/-- A member's code is the level nearest it, the lower among equals. -/
theorem qc4Nearest_spec {v : XR} (hv : v.isNaN = false ∧ v.isInf = false) (sc sm : Nat) (se : Int) :
    let k := qc4Nearest v sc (.fin false sm se)
    k < 16 ∧ ∀ j < 16, farFrom v sc sm se k ≤ farFrom v sc sm se j ∧ (farFrom v sc sm se k = farFrom v sc sm se j → k ≤ j) := by
  obtain ⟨g, m, e, rfl⟩ := exists_fin hv
  have hcmp : ∀ i j, (XR.cmp (qc4Dist (.fin g m e) sc (.fin false sm se) i) (qc4Dist (.fin g m e) sc (.fin false sm se) j) = .lt) ↔
      farFrom (.fin g m e) sc sm se i < farFrom (.fin g m e) sc sm se j := fun i j => by
    obtain ⟨mi, ei, hi, hri⟩ := qc4Dist_fin g m e sc sm se i
    obtain ⟨mj, ej, hj, hrj⟩ := qc4Dist_fin g m e sc sm se j
    rw [hi, hj, cmp_fin, hri, hrj, compare_lt_iff_lt]
  have hleast := foldl_least (farFrom (.fin g m e) sc sm se) 15
  simp only [qc4Nearest, hcmp]
  exact hleast

/-- Settles O30: a member joins or closes its block, a control token closes it, and a block is one of the shapes of `qntBlock`. -/
theorem qntBlocks : Obligations.QntBlocks := by
  unfold Obligations.QntBlocks
  refine ⟨fun s n r d t => ?fires, fun w free vs hfmt => ?block⟩
  case fires =>
    intro c w x e joined seen closes block coded counted hsite hroom hp hbuf
    have hexec : ∀ {c' : Core} {f : Flags}, Core.fireQnt s.free r c = .ok c' f → exec (.qnt n r) s = counted (s.acted n c' f) := by
      intro c' f h
      show Host.Outcome.next (if s.hasOp n r [0x41] then _ else s) = _
      rw [if_pos hsite.hasOp, State.fabricAct_ok hsite.runs hsite.goes h]
    have hflush : ∀ {c' : Core} {ts : List Token}, c'.word r = w → (c'.est r).buf = ts → (∀ t ∈ ts, t.isData = true) →
        c'.qntFlush r s.free = ((c'.setEst r { c'.est r with buf := [], n := 0 }).push (elemPlace r) (codedTokens w s.free ts),
          (block ts).2.2) := by
      rintro c' ts hw rfl h
      rw [Core.qntFlush_eq c' r s.free h, hw]
    have hmember := fun hd => Core.fireQnt_member (free := s.free) (d := d) hsite.op hroom hsite.inside hp hd
    refine ⟨fun hd hno => hexec ((hmember hd).trans (if_neg hno)), fun hd hyes => ?closes, fun ht hctl hne => ?control⟩
    case closes =>
      refine hexec ((hmember hd).trans ((if_pos hyes).trans ?_))
      have hx : x < 4160 := (inPlace_lt hsite.inside (by decide)).trans (by decide)
      have hne : joined ≠ {} := fun h => by simpa [joined] using congrArg ElemState.buf h
      rw [hflush (c' := seen.setEst r joined) (Core.word_pop c hx r) (congrArg _ (Core.est_setEst_same ..)) ?_,
          Core.est_setEst_same,
        Core.setEst_setEst _ _ hne]
      · rfl
      · intro t ht
        rcases List.mem_append.mp ht with ht | ht
        · exact hbuf t ht
        · rw [List.mem_singleton.mp ht]; rfl
    case control =>
      refine hexec ((Core.fireQnt_control hroom ht hctl hne).trans ?_)
      rw [hflush rfl rfl hbuf]
      rfl
  case block =>
    intro o emax
    refine ⟨fun ⟨v, hv, hs⟩ => ?special, fun hfin hz => ?zeros, fun hw hfin hne => ?mx, fun sm se hw hfin hne hs hsm => ?qc4⟩
    case special => exact qntBlock_special (List.any_eq_true.mpr ⟨v, hv, by simpa using hs⟩)
    case zeros => exact qntBlock_zeros (any_special_iff.mpr hfin) ((blockMax_isZero hfin).mpr hz)
    case mx =>
      have hz := blockMax_ne_zero hfin hne
      have hmxBlock := qntBlock_mx (free := free) (any_special_iff.mpr hfin) hz hw
      obtain ⟨m, e, hmax, hall, hone⟩ := blockMax_fin hfin
      rw [hmax, ← Bool.not_eq_true, isZero_iff] at hz
      have hm : m ≠ 0 := fun h => hz (by simp [h, ratOf_fin])
      obtain ⟨hlow, hhigh⟩ := floorLog2_spec (g := false) hm e
      rw [abs_of_nonneg (ratOf_nonneg m e), ← hmax] at hlow hhigh
      refine ⟨floorLog2 (blockMax vs), fun v hv => ?_, ?_, ?_, fun i => ?_⟩
      · exact (hall v hv).trans_lt (hmax ▸ hhigh)
      · obtain ⟨v, hv, heq⟩ := hone.resolve_left hz
        exact ⟨v, hv, by rw [heq, ← hmax]; exact hlow⟩
      · exact congrArg Prod.fst hmxBlock
      · rw [show o.2.1 = _ from congrArg (·.2.1) hmxBlock, List.map_map, List.getElem?_map]
        rfl
    case qc4 =>
      intro far
      obtain ⟨m, e, hmax, -⟩ := blockMax_fin hfin
      have hblock : o = _ := qntBlock_qc4 (free := free) (any_special_iff.mpr hfin) (blockMax_ne_zero hfin hne) hw hs hsm hmax
      have hsc : 1 ≤ o.1 ∧ o.1 ≤ 255 := by
        rw [hblock]
        exact satInt_code _
      refine ⟨hsc.1, hsc.2, qntBlock_length w free vs, fun i k v hv hk => ?_⟩
      have hcode : k = qc4Nearest v o.1 (.fin false sm se) := by
        have hcodes : o.2.1 = vs.map fun v => qc4Nearest v o.1 (.fin false sm se) := by rw [hblock]
        rw [hcodes, List.getElem?_map, hv] at hk
        exact (Option.some.inj hk).symm
      rw [hcode]
      exact qc4Nearest_spec (hfin v (List.mem_of_getElem? hv)) o.1 sm se

end Sys2Proof.Machine
end

section
/-! PROOFS. What the reads of a command leave: its kept pages grow and windows fill, and nothing else of the engines moves. -/

namespace Sys2Proof.Machine

/-! ## Commands by identifier -/

section cmds
variable {s : State} {id : Nat} {k : Cmd} {f : Cmd → Cmd}

/-- Changing the commands of an identifier changes the one that it names. -/
theorem State.cmd?_updCmd_same (hf : ∀ j, (f j).id = j.id) (h : s.cmd? id = some k) : (s.updCmd id f).cmd? id = some (f k) := by
  have hid : k.id = id := by simpa using List.find?_some h
  rw [State.cmd?, State.updCmd_cmds, List.find?_map]
  have hp : ((fun j : Cmd => decide (j.id = id)) ∘ fun j => if j.id = id then f j else j) = fun j => decide (j.id = id) := by
    funext j
    show decide ((if j.id = id then f j else j).id = id) = _
    split
    · rw [hf]
    · rfl
  rw [hp, ← State.cmd?, h, Option.map_some, if_pos hid]

theorem State.cmd?_id (h : s.cmd? id = some k) : k.id = id := by simpa using List.find?_some h

end cmds

/-! ## Reads of a command (R103, R140) -/

/-- A command without the pages it keeps. -/
def Cmd.unkept (id : Nat) (j : Cmd) : Cmd := if j.id = id then { j with tlb := [] } else j

/-- `t` is `s` after reads that core n makes for command id: the engines' state and the commands stand, but for the pages that the
command keeps; without windows memory and the cores stand too. -/
structure Reads (n id : Nat) (s t : State) : Prop where
  mx : ∀ m, (t.core m).mx = (s.core m).mx
  cmds : t.cmds.map (Cmd.unkept id) = s.cmds.map (Cmd.unkept id)
  nextCmd : t.nextCmd = s.nextCmd
  gtc : t.gtc = s.gtc
  still : (∀ va, s.findWindow n va = none) → t.mem = s.mem ∧ t.cores = s.cores

theorem Reads.refl (n id : Nat) (s : State) : Reads n id s s := ⟨fun _ => rfl, rfl, rfl, rfl, fun _ => ⟨rfl, rfl⟩⟩

/-- Windows are the cores'. -/
theorem State.findWindow_congr {s t : State} (h : t.cores = s.cores) (n va : Nat) : t.findWindow n va = s.findWindow n va := by
  unfold State.findWindow State.core
  rw [h]

theorem Reads.trans {n id : Nat} {s t u : State} (h : Reads n id s t) (h' : Reads n id t u) : Reads n id s u where
  mx := fun m => (h'.mx m).trans (h.mx m)
  cmds := h'.cmds.trans h.cmds
  nextCmd := h'.nextCmd.trans h.nextCmd
  gtc := h'.gtc.trans h.gtc
  still := fun hw => by
    obtain ⟨hm, hc⟩ := h.still hw
    obtain ⟨hm', hc'⟩ := h'.still fun va => (State.findWindow_congr hc n va).trans (hw va)
    exact ⟨hm'.trans hm, hc'.trans hc⟩

/-- The command that reads stands as it did, but for the pages it keeps. -/
theorem Reads.cmd? {n id : Nat} {s t : State} (h : Reads n id s t) {k : Cmd} (hk : s.cmd? id = some k) :
    ∃ tl, t.cmd? id = some { k with tlb := tl } := by
  have hkid := State.cmd?_id hk
  have hp : ((fun j : Cmd => decide (j.id = id)) ∘ Cmd.unkept id) = fun j => decide (j.id = id) := by
    funext j
    show decide ((Cmd.unkept id j).id = id) = _
    unfold Cmd.unkept
    split <;> rfl
  have hfind : ∀ u : State, (u.cmds.map (Cmd.unkept id)).find? (fun j => decide (j.id = id)) = (u.cmd? id).map (Cmd.unkept id) :=
    fun u => by rw [List.find?_map, hp]; rfl
  have heq : (t.cmd? id).map (Cmd.unkept id) = some (Cmd.unkept id k) := by
    rw [← hfind, h.cmds, hfind, hk]
    rfl
  obtain ⟨u, hu, hstrip⟩ := Option.map_eq_some_iff.mp heq
  have huid := State.cmd?_id hu
  refine ⟨u.tlb, hu.trans (congrArg some ?_)⟩
  unfold Cmd.unkept at hstrip
  rw [if_pos huid, if_pos hkid] at hstrip
  have := congrArg (fun j : Cmd => { j with tlb := u.tlb }) hstrip
  exact this

/-- Keeping pages is a read's own change. -/
theorem Reads.keepPages (n id : Nat) (s : State) (g : Agent) (hg : g.cmd = some id) (va len : Nat) :
    Reads n id s (s.keepPages g va len) := by
  have hcmds : (s.keepPages g va len).cmds.map (Cmd.unkept id) = s.cmds.map (Cmd.unkept id) := by
    simp only [State.keepPages, hg, State.updCmd_cmds, List.map_map]
    refine List.map_congr_left fun j _ => ?_
    show Cmd.unkept id (if j.id = id then _ else j) = Cmd.unkept id j
    unfold Cmd.unkept
    by_cases hj : j.id = id <;> simp [hj]
  have hrest : (s.keepPages g va len).cores = s.cores ∧ (s.keepPages g va len).nextCmd = s.nextCmd ∧
      (s.keepPages g va len).gtc = s.gtc := by
    simp only [State.keepPages, hg]
    exact ⟨rfl, rfl, rfl⟩
  obtain ⟨hcores, hnext, hgtc⟩ := hrest
  exact ⟨fun m => by rw [State.core, hcores]; rfl, hcmds, hnext, hgtc, fun _ => ⟨State.mem_keepPages .., hcores⟩⟩

/-! ### Windows fill -/

/-- Of the machine what a window's filling leaves: commands and time, and each core's engine. -/
def State.engines (s : State) := (s.cmds, s.nextCmd, s.gtc, fun m => (s.core m).mx)

theorem State.engines_setBank (s : State) (m b : Nat) (k : Bank) : (s.setBank m b k).engines = s.engines := by
  have hmx : ∀ j, ((s.setBank m b k).core j).mx = (s.core j).mx := fun j => by
    by_cases hj : j = m
    · rw [hj, State.setBank, State.core_updCore_same]
    · rw [State.setBank, State.core_updCore_other _ _ _ _ hj]
  unfold State.engines
  rw [funext hmx]
  rfl

theorem State.engines_keepHosts (s : State) (pa k : Nat) : (s.keepHosts pa k).engines = s.engines := by
  induction k generalizing s pa with
  | zero => rfl
  | succ k ih =>
    rw [State.keepHosts, ih, State.keepHost]
    split <;> rfl

theorem State.engines_stored (s : State) (m : Memory) (p : SMap Poison) : State.engines { s with mem := m, poison := p } =
    s.engines :=
  rfl

theorem State.engines_evict (s : State) (m b va : Nat) : (s.evict m b va).engines = s.engines := by
  unfold State.evict
  extract_lets k
  split
  · rfl
  · rw [State.engines_setBank, State.writeBack]
    split
    · exact (State.engines_stored _ _ _).trans (State.engines_keepHosts ..)
    · rfl

theorem State.engines_fill {s t : State} {m b va pa : Nat} (h : s.fill m b va pa = .ok t) : t.engines = s.engines := by
  unfold State.fill at h
  dsimp only at h
  split at h
  · cases h; rfl
  · split at h
    · cases h
    · split at h
      · cases h
      · cases h
        rw [State.engines_setBank, State.engines_evict]

/-- A byte that core n reads. -/
theorem Reads.loadByte {n id : Nat} {s t : State} {pol : BitVec 2} {va pa : Nat} {v : Byte}
    (h : s.loadByte (some n) pol va pa = .ok (t, v)) : Reads n id s t := by
  unfold State.loadByte at h
  split at h
  · split at h
    · cases h
    · cases h; exact Reads.refl ..
  · next w b hw =>
    have hwin : s.findWindow n va ≠ none := fun h0 => by simp [h0] at hw
    split at h
    · cases h
    · next u hu =>
      have hengines := State.engines_fill hu
      have htu : t = u := by
        dsimp only at h
        split at h
        · cases h; rfl
        · split at h <;> cases h
          rfl
      subst htu
      obtain ⟨hcmds, hrest⟩ := Prod.mk.inj hengines
      obtain ⟨hnext, hrest⟩ := Prod.mk.inj hrest
      obtain ⟨hgtc, hmx⟩ := Prod.mk.inj hrest
      exact ⟨congrFun hmx, by rw [hcmds], hnext, hgtc, fun h0 => absurd (h0 va) hwin⟩

theorem Reads.loadBytes {n id : Nat} {s t : State} {pol : BitVec 2} {va : Nat} {ps : List Nat} {bs : List Byte}
    (h : s.loadBytes (some n) pol va ps = .ok (t, bs)) : Reads n id s t := by
  induction ps generalizing s va bs with
  | nil => cases h; exact Reads.refl ..
  | cons p ps ih =>
    unfold State.loadBytes at h
    split at h
    · cases h
    · next s1 v h1 =>
      split at h
      · cases h
      · next s2 vs h2 =>
        cases h
        exact (Reads.loadByte h1).trans (ih h2)

theorem Reads.load {n id : Nat} {s t : State} {g : Agent} (hc : g.core = some n) (hg : g.cmd = some id) {pol : BitVec 2}
    {va len : Nat}
    {bs : List Byte} (h : s.load g pol va len = .ok (t, bs)) : Reads n id s t := by
  unfold State.load at h
  split at h
  · cases h
  · rw [hc] at h
    exact (Reads.keepPages n id s g hg va len).trans (Reads.loadBytes h)

theorem Reads.loadNat {n id : Nat} {s t : State} {g : Agent} (hc : g.core = some n) (hg : g.cmd = some id) {pol : BitVec 2}
    {va len v : Nat} (h : s.loadNat g pol va len = .ok (t, v)) : Reads n id s t := by
  unfold State.loadNat at h
  cases hl : s.load g pol va len with
  | error e => rw [hl] at h; cases h
  | ok p =>
    obtain ⟨u, bs⟩ := p
    rw [hl] at h
    cases h
    exact Reads.load hc hg hl

end Sys2Proof.Machine
end

section
/-! PROOFS. The reads of a k-step, form by form. -/

namespace Sys2Proof.Machine

/-! ## Reading functions -/

/-- A reading function from s on makes only reads of core n for command id. -/
def Readings (n id : Nat) (s : State) {ε β : Type} (r : Except ε (State × β)) : Prop := ∀ t b, r = .ok (t, b) → Reads n id s t

section readings
variable {n id : Nat} {s : State} {ε β γ : Type}

theorem Readings.ok (b : β) : Readings n id s (.ok (s, b) : Except ε (State × β)) := fun t c h => by
  cases h
  exact Reads.refl ..

theorem Readings.error (e : ε) : Readings n id s (.error e : Except ε (State × β)) := fun t b h => by cases h

/-- Reads after which a reading function goes on. -/
theorem Readings.after {t : State} (h : Reads n id s t) {r : Except ε (State × β)} (hr : Readings n id t r) : Readings n id s r :=
  fun u b hu => h.trans (hr u b hu)

theorem Readings.map {r : Except ε (State × β)} (h : Readings n id s r) (f : State × β → γ) :
    Readings n id s (r.map fun p => (p.1, f p)) := fun t c heq => by
  cases r with
  | error e => cases heq
  | ok p =>
    cases heq
    exact h p.1 p.2 rfl

theorem Readings.asA {r : Except MemFault (State × β)} (h : Readings n id s r) : Readings n id s (asA r) := fun t b heq => by
  cases r with
  | error e => cases heq
  | ok p => cases heq; exact h _ _ rfl

theorem Readings.asB {r : Except MemFault (State × β)} (h : Readings n id s r) : Readings n id s (asB r) := fun t b heq => by
  cases r with
  | error e => cases heq
  | ok p => cases heq; exact h _ _ rfl

theorem Readings.ite {p : Prop} [Decidable p] {r r' : Except ε (State × β)} (h : Readings n id s r) (h' : Readings n id s r') :
    Readings n id s (if p then r else r') := by
  split
  · exact h
  · exact h'

theorem Readings.thread {α : Type} {f : State → α → Except ε (State × β)} (hf : ∀ s a, Readings n id s (f s a)) (s : State)
    (l : List α) :
    Readings n id s (thread f s l) := by
  induction l generalizing s with
  | nil => exact Readings.ok _
  | cons a l ih =>
    unfold Machine.thread
    split
    · exact Readings.error _
    · next t b ht =>
      refine Readings.after (hf s a t b ht) ?_
      split
      · exact Readings.error _
      · next u bs hu => exact Readings.after (ih t u bs hu) (Readings.ok _)

end readings

/-! ## Operands of an MM form (R256, R258–R260, R427) -/

section operands
variable {n : Nat} {k : Cmd} (ho : k.owner = .core n) (s : State)
include ho

theorem Cmd.windowAgent_core : k.windowAgent = ⟨k.ctx, some n, some k.id⟩ := by rw [Cmd.windowAgent, ho]

theorem readings_loadNat (va len : Nat) : Readings n k.id s (s.loadNat k.windowAgent k.hint va len) := fun t v h => by
  rw [Cmd.windowAgent_core ho] at h
  exact Reads.loadNat rfl rfl h

theorem readings_readPacked (t : Tensor) (base : Int) (idx : Nat) : Readings n k.id s (s.readPacked k t base idx) := by
  unfold State.readPacked
  exact Readings.ite ((readings_loadNat ho s _ _).map _) ((readings_loadNat ho s _ _).map _)

theorem readings_readDense (t : Tensor) (row kk : Nat) : Readings n k.id s (s.readDense k t row kk) := by
  unfold State.readDense
  exact readings_readPacked ho s _ _ _

theorem readings_readFactor (t : Tensor) (row kk : Nat) : Readings n k.id s (s.readFactor k t row kk) := by
  unfold State.readFactor
  refine Readings.ite (Readings.ok _) ?_
  dsimp only
  split
  · exact Readings.error _
  · next s1 c h1 =>
    refine Readings.after (readings_loadNat ho s _ _ _ _ h1) (Readings.ite (Readings.ok _) (Readings.ite (Readings.ok _) ?_))
    split
    · exact Readings.error _
    · next s2 g h2 => exact Readings.after (readings_loadNat ho s1 _ _ _ _ h2) (Readings.ok _)

theorem readings_spBlock (row q16 : Nat) : Readings n k.id s (s.spBlock k row q16) := by
  unfold State.spBlock
  dsimp only
  split
  · exact Readings.error _
  · next s1 bb h1 =>
    refine Readings.after ((readings_loadNat ho s _ _).asA _ _ h1)
        (Readings.ite (Readings.error _) (Readings.ite (Readings.ok _) ?_))
    split
    · exact Readings.error _
    · next s2 eb h2 =>
      refine Readings.after (Readings.ite (Readings.ok _) (readings_loadNat ho s1 _ _).asA _ _ h2)
          (Readings.ite (Readings.error _) ?_)
      exact Readings.thread (fun u p => (readings_readPacked ho u _ _ _).asA.map _) s2 _

theorem readings_scanCols {α : Type} (a b lim : Nat) {read : State → Nat → Nat → Except MxErr (State × α)}
    (hr : ∀ u p c, Readings n k.id u (read u p c)) (prev : Option Nat) (p f : Nat) :
    Readings n k.id s (s.scanCols k a b lim read prev p f) := by
  induction f generalizing s prev p with
  | zero => exact Readings.ok _
  | succ f ih =>
    rw [State.scanCols.eq_def]
    dsimp only
    split
    · exact Readings.error _
    · next s1 c h1 =>
      refine Readings.after ((readings_loadNat ho s _ _).asA _ _ h1)
          (Readings.ite (Readings.error _) (Readings.ite (Readings.ok _) ?_))
      split
      · exact Readings.error _
      · next s2 x h2 =>
        refine Readings.after (Readings.ite ((hr s1 p c).map _) (Readings.ok _) _ _ h2) (Readings.ite (Readings.ok _) ?_)
        split
        · exact Readings.error _
        · next s3 r h3 => exact Readings.after (ih s2 _ _ _ _ h3) (Readings.ok _)

theorem readings_rowPtrs (r : Nat) : Readings n k.id s (s.rowPtrs k r) := by
  unfold State.rowPtrs
  split
  · exact Readings.error _
  · next s1 lo h1 =>
    refine Readings.after ((readings_loadNat ho s _ _).asA _ _ h1) ?_
    split
    · exact Readings.error _
    · next s2 hi h2 =>
      exact Readings.after ((readings_loadNat ho s1 _ _).asA _ _ h2) (Readings.ite (Readings.error _) (Readings.ok _))

theorem readings_rowA (kk i : Nat) : Readings n k.id s (s.rowA k kk i) := by
  unfold State.rowA
  dsimp only
  split
  · exact Readings.thread (fun u d => (readings_readDense ho u _ _ _).asA.map _) s _
  · exact (Readings.thread (fun u q => readings_spBlock ho u _ _) s _).map _
  · split
    · exact Readings.error _
    · next s1 lo hi h1 =>
      exact Readings.after (readings_rowPtrs ho s _ _ _ h1)
        (readings_scanCols ho s1 _ _ _ (fun u q c => (readings_readPacked ho u _ _ _).asA.map _) _ _ _)

theorem readings_blockRows (p c : Nat) : Readings n k.id s (s.blockRows k p c) := by
  unfold State.blockRows
  exact Readings.thread (fun u r => Readings.thread (fun w d => (readings_readPacked ho w _ _ _).asA.map _) u _) s _

theorem readings_blockRowA (kk b : Nat) : Readings n k.id s (s.blockRowA k kk b) := by
  unfold State.blockRowA
  dsimp only
  split
  · exact Readings.error _
  · next s1 lo hi h1 =>
    exact Readings.after (readings_rowPtrs ho s b _ _ h1)
      ((readings_scanCols ho s1 _ _ _ (fun u q c => readings_blockRows ho u q c) _ _ _).map _)

theorem readings_rowsA (kk : Nat) : Readings n k.id s (s.rowsA k kk) := by
  unfold State.rowsA
  exact Readings.ite ((Readings.thread (fun u b => readings_blockRowA ho u _ _) s _).map _)
    (Readings.thread (fun u i => readings_rowA ho u _ _) s _)

theorem readings_elemB (j kk : Nat) : Readings n k.id s (s.elemB k j kk) := by
  unfold State.elemB
  exact Readings.ite (readings_readDense ho s _ _ _).asB (readings_readDense ho s _ _ _).asB

/-- A k-step reads its rows of A and its columns of B. -/
theorem readings_kstepRead (kk : Nat) : Readings n k.id s (s.kstepRead k kk) := by
  unfold State.kstepRead
  split
  · exact Readings.error _
  · next s1 rows h1 =>
    refine Readings.after (readings_rowsA ho s kk _ _ h1) ?_
    dsimp only
    split
    · exact Readings.error _
    · next s2 bs h2 =>
      exact Readings.after (Readings.thread (fun u q => (Readings.thread (fun w j => readings_elemB ho w _ _) u _).map _) s1 _ _ _ h2)
        (Readings.ok _)

theorem readings_factors (t : Tensor) (row0 m kk : Nat) : Readings n k.id s (s.factors k t row0 m kk) :=
  Readings.thread (fun u _ => readings_readFactor ho u _ _ _) s _

/-- A k-step reads its factors. -/
theorem readings_kstepFactors (kk : Nat) : Readings n k.id s (s.kstepFactors k kk) := by
  unfold State.kstepFactors
  refine Readings.thread (fun u b => ?_) s _
  dsimp only
  split
  · exact Readings.error _
  · next s1 fa h1 =>
    refine Readings.after ((readings_factors ho u _ _ _ _).asA _ _ h1) ?_
    split
    · exact Readings.error _
    · next s2 fb h2 =>
      exact Readings.after (Readings.ite (Readings.ok _) (readings_factors ho s1 _ _ _ _).asB _ _ h2) (Readings.ok _)

end operands

end Sys2Proof.Machine
end

section
/-! PROOFS. Tiles: bank words after a pass over a region, k-steps and the completion of an integer tile. -/

namespace Sys2Proof.Machine

/-! ## A pass over a region (R254) -/

section passes
variable {σ α ι : Type} {get : σ → Nat → α} {upd : σ → ι → σ} {key : ι → Nat} {new : ι → α → α}

/-- A pass leaves what lies outside its cells. -/
theorem foldl_outside (hother : ∀ st p x, x ≠ key p → get (upd st p) x = get st x) {l : List ι} {x : Nat}
    (hx : ∀ p ∈ l, key p ≠ x)
    (st : σ) : get (l.foldl upd st) x = get st x := by
  induction l generalizing st with
  | nil => rfl
  | cons p l ih =>
    rw [List.foldl_cons, ih fun q hq => hx q (List.mem_cons_of_mem _ hq)]
    exact hother st p x (hx p List.mem_cons_self).symm

/-- A pass that comes to each cell once makes of each what its step does. -/
theorem foldl_inside (hother : ∀ st p x, x ≠ key p → get (upd st p) x = get st x)
    (hsame : ∀ st p, get (upd st p) (key p) = new p (get st (key p))) {l : List ι} (hl : (l.map key).Nodup) {p : ι} (hp : p ∈ l)
    (st : σ) : get (l.foldl upd st) (key p) = new p (get st (key p)) := by
  induction l generalizing st with
  | nil => exact absurd hp List.not_mem_nil
  | cons q l ih =>
    obtain ⟨hq, hl⟩ := List.nodup_cons.mp hl
    rw [List.foldl_cons]
    rcases List.mem_cons.mp hp with rfl | hp
    · rw [foldl_outside hother (fun r hr heq => hq (List.mem_map.mpr ⟨r, hr, heq⟩)), hsame]
    · rw [ih hl hp, hother]
      exact fun heq => hq (heq ▸ List.mem_map_of_mem hp)

end passes

theorem mem_region {m n : Nat} {p : Nat × Nat} : p ∈ region m n ↔ p.1 < m ∧ p.2 < n := by
  obtain ⟨i, j⟩ := p
  simp [region]

theorem accKey_inj {b b' i i' j j' : Nat} (hi : i < 256) (hi' : i' < 256) (hj : j < 256) (hj' : j' < 256) :
    accKey b i j = accKey b' i' j' ↔ b = b' ∧ i = i' ∧ j = j' := by
  unfold accKey
  omega

theorem region_nodup (m n : Nat) : (region m n).Nodup := by
  refine List.nodup_flatMap.mpr ⟨fun i _ => List.nodup_range.map fun a b h => (Prod.mk.inj h).2, ?_⟩
  refine List.nodup_range.imp fun {i j} hij => ?_
  intro p hp hq
  obtain ⟨a, -, rfl⟩ := List.mem_map.mp hp
  obtain ⟨b, -, hb⟩ := List.mem_map.mp hq
  exact hij (Prod.mk.inj hb).1.symm

section tile
variable (k : Cmd)

theorem Cmd.tileM_le : k.tileM ≤ 256 := by
  unfold Cmd.tileM
  omega

theorem Cmd.tileN_le : k.tileN ≤ 256 := by
  unfold Cmd.tileN
  omega

/-- The key of a tile's word. -/
def Cmd.tileKey (p : Nat × Nat) : Nat := accKey k.bank p.1 p.2

theorem Cmd.tileKeys_nodup : ((region k.tileM k.tileN).map k.tileKey).Nodup := by
  refine (region_nodup _ _).map_on fun p hp q hq h => ?_
  have hM := k.tileM_le
  have hN := k.tileN_le
  obtain ⟨hp1, hp2⟩ := mem_region.mp hp
  obtain ⟨hq1, hq2⟩ := mem_region.mp hq
  obtain ⟨-, h1, h2⟩ := (accKey_inj (by omega) (by omega) (by omega) (by omega)).mp h
  exact Prod.ext h1 h2

/-- The word (b, i, j) belongs to the tile. -/
abbrev Cmd.inTile (b i j : Nat) : Prop := b = k.bank ∧ i < k.tileM ∧ j < k.tileN

variable {σ α : Type} {get : σ → Nat → α} {upd : σ → Nat × Nat → σ} {new : Nat × Nat → α → α}

/-- A pass over a tile makes of each of its words what its step does, and leaves every other word. -/
theorem Cmd.foldl_tile (hother : ∀ st p x, x ≠ k.tileKey p → get (upd st p) x = get st x)
    (hsame : ∀ st p, get (upd st p) (k.tileKey p) = new p (get st (k.tileKey p))) (st : σ) {b i j : Nat} (hi : i < 256)
        (hj : j < 256) :
    get ((region k.tileM k.tileN).foldl upd st) (accKey b i j) =
      if k.inTile b i j then new (i, j) (get st (accKey b i j)) else get st (accKey b i j) := by
  have hM := k.tileM_le
  have hN := k.tileN_le
  split
  case isTrue h =>
    obtain ⟨rfl, hi', hj'⟩ := h
    exact foldl_inside (key := k.tileKey) hother hsame k.tileKeys_nodup (p := (i, j)) (mem_region.mpr ⟨hi', hj'⟩) st
  case isFalse h =>
    refine foldl_outside hother (fun p hp heq => h ?_) st
    obtain ⟨hp1, hp2⟩ := mem_region.mp hp
    obtain ⟨rfl, rfl, rfl⟩ := (accKey_inj (by omega) hi (by omega) hj).mp heq
    exact ⟨rfl, hp1, hp2⟩

end tile

/-! ## Words of a bank -/

section words
variable (c : Core) (b i j x : Nat)

theorem Core.acc_setAcc (v : BitVec 32) :
    SMap.get 0#32 (c.setAcc b i j v).mx.acc x = if x = accKey b i j then v else SMap.get 0#32 c.mx.acc x := by
  split
  case isTrue h => rw [h]; exact SMap.get_set_same ..
  case isFalse h => exact SMap.get_set_other _ _ _ h

theorem Core.work_setWork (v : BitVec 48) :
    SMap.get 0#48 (c.setWork b i j v).mx.work x = if x = accKey b i j then v else SMap.get 0#48 c.mx.work x := by
  split
  case isTrue h => rw [h]; exact SMap.get_set_same ..
  case isFalse h => exact SMap.get_set_other _ _ _ h

end words

/-! ## k-steps (R86, R90, R263) -/

section kstep
variable (k : Cmd) (kk : Nat) (rows : List (List (Nat × XR))) (bs : List (Nat × List XR))
  (fs : List (Nat × List (Option XR) × List (Option XR))) (c : Core) {b i j : Nat} (hi : i < 256) (hj : j < 256)
include hi hj

/-- A k-step adds to the working registers of an integer tile, modulo 2^48. -/
theorem kstepAdd_workWord : (kstepAdd k kk rows bs fs c).1.workWord b i j = c.workWord b i j +
    if k.tA.isInt = true ∧ k.inTile b i j then BitVec.ofInt 48 (intSum (pairsAt (rows.getD i []) bs j kk 64)) else 0 := by
  rw [Core.workWord, kstepAdd]
  cases hint : k.tA.isInt
  case true =>
    simp only [if_true, true_and]
    rw [k.foldl_tile (get := fun (st : Core × Flags) x => SMap.get 0#48 st.1.mx.work x)
      (new := fun p w => w + BitVec.ofInt 48 (intSum (pairsAt (rows.getD p.1 []) bs p.2 kk 64)))
      (fun st p x hx => (Core.work_setWork ..).trans (if_neg hx)) (fun st p => (Core.work_setWork ..).trans (if_pos rfl)) _ hi hj]
    split
    · rfl
    · exact (BitVec.add_zero _).symm
  case false =>
    simp only [Bool.false_eq_true, if_false, false_and]
    refine Eq.trans ?_ (BitVec.add_zero _).symm
    exact congrArg (SMap.get 0#48 · (accKey b i j)) (List.foldlRecOn (motive := fun st : Core × Flags => st.1.mx.work = c.mx.work)
      (region k.tileM k.tileN) _ rfl fun _ h _ _ => h)

/-- A k-step makes the words of a floating tile what their blocks' sums make of them. -/
theorem kstepAdd_accWord : (kstepAdd k kk rows bs fs c).1.accWord b i j =
    if k.tA.isInt = false ∧ k.inTile b i j then (floatElem k (rows.getD i []) bs fs i j (c.accWord b i j)).1 else c.accWord b i j := by
  rw [Core.accWord, kstepAdd]
  cases hint : k.tA.isInt
  case true =>
    simp only [if_true, Bool.true_eq_false, false_and, if_false]
    exact congrArg (SMap.get 0#32 · (accKey b i j)) (List.foldlRecOn (motive := fun st : Core × Flags => st.1.mx.acc = c.mx.acc)
      (region k.tileM k.tileN) _ rfl fun _ h _ _ => h)
  case false =>
    simp only [Bool.false_eq_true, if_false, true_and]
    exact k.foldl_tile (get := fun (st : Core × Flags) x => SMap.get 0#32 st.1.mx.acc x)
      (new := fun p w => (floatElem k (rows.getD p.1 []) bs fs p.1 p.2 w).1)
      (fun st p x hx => (Core.acc_setAcc ..).trans (if_neg hx)) (fun st p => (Core.acc_setAcc ..).trans (if_pos rfl)) _ hi hj

end kstep

/-! ### The step (R254, R263) -/

/-- Flags of a runner's command are its core's. -/
theorem State.raiseFor_core {k : Cmd} {n : Nat} (ho : k.owner = .core n) (s : State) (f : Flags) : s.raiseFor k f = s.raise n f := by
  rw [State.raiseFor, ho]

theorem State.mx_raise (s : State) (n m : Nat) (f : Flags) : ((s.raise n f).core m).mx = (s.core m).mx := by
  rw [State.raise]
  split
  · rfl
  · by_cases hm : m = n
    · rw [hm, State.core_updCore_same]; rfl
    · rw [State.core_updCore_other _ _ _ _ hm]

theorem State.mem_raise (s : State) (n : Nat) (f : Flags) : (s.raise n f).mem = s.mem := by
  rw [State.raise]
  split <;> rfl

theorem State.cmds_raise (s : State) (n : Nat) (f : Flags) : (s.raise n f).cmds = s.cmds := by
  rw [State.raise]
  split <;> rfl

theorem State.runs_of_started {s : State} {k : Cmd} (hst : k.state = .started) (ha : s.accsDone k = true) : s.runs k = true := by
  simp [State.runs, hst, ha]

/-- A prepared MM form takes its next k-step as it was read. -/
theorem State.kstep_read {s s2 s3 : State} {n : Nat} {k : Cmd} {rows : List (List (Nat × XR))} {bs : List (Nat × List XR)}
    {fs : List (Nat × List (Option XR) × List (Option XR))} (hk : s.cmd? k.id = some k) (harr : k.onArray = true)
    (hruns : s.runs k = true) (hover : s.overtaken k = false) (hlist : k.list ≠ []) (hsub : k.sub ≠ 0) (hdone : k.done < k.ksteps)
    (h2 : s.kstepRead k (k.k0 + 64 * k.done) = .ok (s2, rows, bs)) (h3 : s2.kstepFactors k (k.k0 + 64 * k.done) = .ok (s3, fs))
    (hbad : k.tA.isInt = false → (s3.core n).tileBad k = false) :
    let a := kstepAdd k (k.k0 + 64 * k.done) rows bs fs (s3.core n)
    s.kstep n k = ((s3.setCore n a.1).raiseFor k a.2).updCmd k.id fun j => { j with done := j.done + 1 } := by
  have hprep : s.mxPrepare n k = .ok s := by rw [State.mxPrepare, if_pos hlist, State.mxSetUp, if_pos hsub]
  have hparity : (!k.tA.isInt && (s3.core n).tileBad k) = false := by
    cases hint : k.tA.isInt
    · rw [hbad hint]; rfl
    · rfl
  rw [State.kstep, if_neg (by simp [harr, hruns, hover]), hprep]
  simp only [hk, if_neg (Nat.not_le.mpr hdone), h2, h3, hparity, Bool.false_eq_true, if_false]

/-- KSTEP_COMPLETE takes the next k-step with the products as they were read. -/
theorem kstepComplete_spec {s s2 s3 : State} {n : Nat} {k : Cmd} {rows : List (List (Nat × XR))} {bs : List (Nat × List XR)}
    {fs : List (Nat × List (Option XR) × List (Option XR))} (hk : s.cmd? k.id = some k) (ho : k.owner = .core n)
    (harr : k.onArray = true) (hruns : s.runs k = true) (hover : s.overtaken k = false) (hlist : k.list ≠ []) (hsub : k.sub ≠ 0)
    (hdone : k.done < k.ksteps) (h2 : s.kstepRead k (k.k0 + 64 * k.done) = .ok (s2, rows, bs))
    (h3 : s2.kstepFactors k (k.k0 + 64 * k.done) = .ok (s3, fs)) (hbad : k.tA.isInt = false → (s3.core n).tileBad k = false) :
    ∃ t tl, exec (.kstepComplete k.id) s = .next t ∧ t.cmd? k.id = some { k with done := k.done + 1, tlb := tl } ∧
      t.mem = s3.mem ∧ ((∀ va, s.findWindow n va = none) → t.mem = s.mem) ∧
      (t.core n).mx = (kstepAdd k (k.k0 + 64 * k.done) rows bs fs (s3.core n)).1.mx ∧ (s3.core n).mx = (s.core n).mx := by
  have hreads : Reads n k.id s s3 := (readings_kstepRead ho s _ _ _ h2).trans (readings_kstepFactors ho s2 _ _ _ h3)
  obtain ⟨tl, htl⟩ := hreads.cmd? hk
  have hstep : exec (.kstepComplete k.id) s = .next (s.kstep n k) := by
    show execKstepComplete k.id s = _
    rw [execKstepComplete, hk]
    dsimp only
    rw [ho]
  rw [State.kstep_read hk harr hruns hover hlist hsub hdone h2 h3 hbad, State.raiseFor_core ho] at hstep
  refine ⟨_, tl, hstep, ?_, ?_, fun hw => ?_, ?_, hreads.mx n⟩
  · refine State.cmd?_updCmd_same (k := { k with tlb := tl }) (fun _ => rfl) ?_
    rw [State.cmd?, State.cmds_raise]
    exact htl
  · exact State.mem_raise ..
  · exact (State.mem_raise ..).trans (hreads.still hw).1
  · rw [State.core_updCmd, State.mx_raise, State.core_setCore_same]

/-! ### The end of an integer tile (R90, R268) -/

theorem State.mem_finishCmd (s : State) (id : Nat) : (s.finishCmd id).mem = s.mem := by
  show (s.finishCmd id).apart.mem = s.apart.mem
  rw [State.apart_finishCmd]

theorem State.mx_finishCmd (s : State) (id m : Nat) : ((s.finishCmd id).core m).mx = (s.core m).mx := by
  unfold State.finishCmd
  split
  · rfl
  · next k _ =>
    extract_lets rest rest' s1
    split
    · rfl
    · next last _ n _ =>
      by_cases hm : m = n
      · rw [hm, State.core_updCore_same]
        show (if k.arm = none then (s.core n).fall k.opc.toNat last else s.core n).mx = _
        split <;> rfl
      · rw [State.core_updCore_other _ _ _ _ hm]
        rfl

/-- Words of a tile, clamped as its working registers say, which are then zero. -/
def Core.clampTile (c : Core) (k : Cmd) : Core × Flags :=
  (region k.tileM k.tileN).foldl (fun st p =>
    ((st.1.setAcc k.bank p.1 p.2 (satWork (st.1.workWord k.bank p.1 p.2)).1).setWork k.bank p.1 p.2 0#48,
      st.2 ||| (satWork (st.1.workWord k.bank p.1 p.2)).2)) (c, Flags.none)

theorem satWork_value (v : BitVec 48) : (satWork v).1 = BitVec.ofInt 32 (max (-2 ^ 31) (min (2 ^ 31 - 1) v.toInt)) := by
  have hclamp : satInt v.toInt (-2 ^ 31) (2 ^ 31 - 1) = max (-2 ^ 31) (min (2 ^ 31 - 1) v.toInt) := by
    unfold satInt
    split_ifs <;> omega
  rw [satWork, ← hclamp]
  rfl

/-- A word and its working register. -/
def Core.bankCell (c : Core) (x : Nat) : BitVec 32 × BitVec 48 := (SMap.get 0#32 c.mx.acc x, SMap.get 0#48 c.mx.work x)

theorem Core.accWord_clampTile (c : Core) (k : Cmd) {b i j : Nat} (hi : i < 256) (hj : j < 256) :
    (c.clampTile k).1.accWord b i j = if k.inTile b i j then
      BitVec.ofInt 32 (max (-2 ^ 31) (min (2 ^ 31 - 1) (c.workWord b i j).toInt)) else c.accWord b i j := by
  have h := k.foldl_tile (get := fun (st : Core × Flags) x => st.1.bankCell x) (new := fun _ w => ((satWork w.2).1, 0#48))
    (upd := fun st p => ((st.1.setAcc k.bank p.1 p.2 (satWork (st.1.workWord k.bank p.1 p.2)).1).setWork k.bank p.1 p.2 0#48,
      st.2 ||| (satWork (st.1.workWord k.bank p.1 p.2)).2))
    (fun st p x hx => Prod.ext ((Core.acc_setAcc ..).trans (if_neg hx)) ((Core.work_setWork ..).trans (if_neg hx)))
    (fun st p => Prod.ext ((Core.acc_setAcc ..).trans (if_pos rfl)) ((Core.work_setWork ..).trans (if_pos rfl)))
    (c, Flags.none) (b := b) hi hj
  have hacc := congrArg Prod.fst h
  rw [Core.accWord, Core.clampTile]
  refine Eq.trans hacc ?_
  split
  · exact satWork_value _
  · rfl

theorem State.goMm_int {s : State} {n : Nat} {k : Cmd} (ho : k.owner = .core n) (hlist : k.list ≠ []) (hsub : k.sub ≠ 0)
    (hdone : k.ksteps ≤ k.done) (hint : k.tA.isInt = true) :
    let a := (s.core n).clampTile k
    s.goMm n k = ((s.setCore n a.1).raise n a.2).finishCmd k.id := by
  rw [State.goMm, if_neg (by simp [hlist, hsub]), if_neg (by omega), if_pos hint]
  exact congrArg (·.finishCmd k.id) (State.raiseFor_core ho ..)

/-- COMMAND_COMPLETE takes a command of a core to its completion. -/
theorem exec_commandComplete {s : State} {n : Nat} {k : Cmd} (hk : s.cmd? k.id = some k) (ho : k.owner = .core n)
    (hruns : s.runs k = true) : exec (.commandComplete k.id) s = .next (s.completeOf k) := by
  show execCommandComplete k.id s = _
  rw [execCommandComplete, hk]
  dsimp only
  rw [if_pos hruns, State.advanceOwner, ho]

theorem State.completeOf_mm {s : State} {n : Nat} {k : Cmd} (ho : k.owner = .core n) (harr : k.onArray = true) :
    s.completeOf k = s.goMm n k := by
  have hopc : 0x40 ≤ k.opc.toNat ∧ k.opc.toNat ≤ 0x43 := of_decide_eq_true harr
  have hcore : k.core?.getD 0 = n := by rw [Cmd.core?, ho]; rfl
  unfold State.completeOf
  rw [hcore]
  obtain ⟨hlo, hhi⟩ := hopc
  generalize k.opc.toNat = o at *
  interval_cases o <;> rfl

theorem commandComplete_int {s : State} {n : Nat} {k : Cmd} (hk : s.cmd? k.id = some k) (ho : k.owner = .core n)
    (harr : k.onArray = true) (hruns : s.runs k = true) (hlist : k.list ≠ []) (hsub : k.sub ≠ 0) (hdone : k.ksteps ≤ k.done)
    (hint : k.tA.isInt = true) :
    ∃ t, exec (.commandComplete k.id) s = .next t ∧ t.cmd? k.id = none ∧ t.mem = s.mem ∧
      (t.core n).mx = ((s.core n).clampTile k).1.mx := by
  refine ⟨_, exec_commandComplete hk ho hruns, ?_⟩
  rw [State.completeOf_mm ho harr, State.goMm_int ho hlist hsub hdone hint]
  exact ⟨State.cmd?_finishCmd .., (State.mem_finishCmd ..).trans (State.mem_raise ..),
    by rw [State.mx_finishCmd, State.mx_raise, State.core_setCore_same]⟩

end Sys2Proof.Machine
end

section
/-! PROOFS. Sums of products, exact; and the tokens of an MM.OUT. -/

namespace Sys2Proof.Machine

/-! ## Integer products (R90) -/

/-- The product of two integers, rounded, is their product. -/
theorem mul_ofInt (y z : Int) : (match (XR.mul (XR.ofInt y) (XR.ofInt z)).1 with
    | .fin n m e => roundIntFin n m e .rz
    | _ => 0) = y * z := by
  show roundIntFin (decide (y < 0) != decide (z < 0)) (y.natAbs * z.natAbs) 0 .rz = y * z
  rw [roundIntFin, roundAt_exact _ _ _ _ _ le_rfl]
  rcases lt_or_ge y 0 with hy | hy <;> rcases lt_or_ge z 0 with hz | hz <;>
    simp [hy, hz, abs_of_neg, abs_of_nonneg, not_lt.mpr]

theorem intSum_ofInt (zs : List (Int × Int)) :
    intSum (zs.map fun z => (XR.ofInt z.1, XR.ofInt z.2)) = (zs.map fun z => z.1 * z.2).sum := by
  have hfold : ∀ a : Int, (zs.map fun z => (XR.ofInt z.1, XR.ofInt z.2)).foldl (fun a p => a + (match (XR.mul p.1 p.2).1 with
      | .fin n m e => roundIntFin n m e .rz
      | _ => 0)) a = a + (zs.map fun z => z.1 * z.2).sum := by
    induction zs with
    | nil => intro a; simp
    | cons z zs ih => intro a; rw [List.map_cons, List.foldl_cons, ih, mul_ofInt, List.map_cons, List.sum_cons, add_assoc]
  exact (hfold 0).trans (zero_add _)

/-! ## Block sums (R86) -/

/-- A finite extended real of value r. -/
def Valued (v : XR) (r : ℚ) : Prop := ∃ g m e, v = .fin g m e ∧ ratOf v = r

section valued
variable {a b : XR} {q r : ℚ}

theorem Valued.finite (h : Valued a r) : a.isNaN = false ∧ a.isInf = false := by
  obtain ⟨g, m, e, rfl, -⟩ := h
  exact ⟨rfl, rfl⟩

theorem Valued.of_finite (h : a.isNaN = false ∧ a.isInf = false) : Valued a (ratOf a) := by
  obtain ⟨g, m, e, rfl⟩ := exists_fin h
  exact ⟨g, m, e, rfl, rfl⟩

theorem Valued.mul (ha : Valued a q) (hb : Valued b r) : Valued (XR.mul a b).1 (q * r) := by
  obtain ⟨g, m, d, rfl, rfl⟩ := ha
  obtain ⟨h, k, e, rfl, rfl⟩ := hb
  exact ⟨_, _, _, rfl, ratOf_mul g h m k d e⟩

theorem Valued.add (ha : Valued a q) (hb : Valued b r) (rm : RMode) : Valued (XR.add a b rm).1 (q + r) := by
  obtain ⟨g, m, d, rfl, rfl⟩ := ha
  obtain ⟨h, k, e, rfl, rfl⟩ := hb
  obtain ⟨g', m', e', hsum⟩ := exists_add_fin g h m k d e rm
  exact ⟨g', m', e', hsum, ratOf_add g h m k d e rm⟩

/-- The sum of finite products is exact. -/
theorem Valued.sumX {ps : List XR} {f : XR → ℚ} (hne : ps ≠ []) (h : ∀ p ∈ ps, Valued p (f p)) :
    Valued (sumX ps).1 (ps.map f).sum := by
  have hnan : ps.any XR.isNaN = false := List.any_eq_false.mpr fun p hp => by simp [(h p hp).finite]
  have hinf : ∀ g, (ps.any fun p => decide (p = .inf g)) = false := fun g => List.any_eq_false.mpr fun p hp => by
    obtain ⟨_, _, _, rfl, -⟩ := h p hp
    simp
  have hfold : ∀ (l : List XR) (a : XR) (q : ℚ), Valued a q → (∀ p ∈ l, Valued p (f p)) →
      Valued (l.foldl (fun a b => (XR.add a b .rne).1) a) (q + (l.map f).sum) := by
    intro l
    induction l with
    | nil => intro a q ha _; simpa using ha
    | cons p l ih =>
      intro a q ha hl
      rw [List.foldl_cons, List.map_cons, List.sum_cons, ← add_assoc]
      exact ih _ _ (ha.add (hl p List.mem_cons_self) _) fun r hr => hl r (List.mem_cons_of_mem _ hr)
  cases ps with
  | nil => exact absurd rfl hne
  | cons p ps =>
    simp only [Machine.sumX, hnan, hinf, Bool.and_self, Bool.or_self, Bool.false_eq_true, if_false]
    rw [List.map_cons, List.sum_cons]
    exact hfold ps p _ (h p List.mem_cons_self) fun r hr => h r (List.mem_cons_of_mem _ hr)

/-- A block adds its exact sum, scaled by its factors, to the accumulator, rounded once to FP32. -/
theorem blockAdd_finite {acc : BitVec 32} {ab : List (XR × XR)} {x y : XR} (hne : ab ≠ [])
    (hab : ∀ p ∈ ab, (p.1.isNaN = false ∧ p.1.isInf = false) ∧ (p.2.isNaN = false ∧ p.2.isInf = false))
    (hx : x.isNaN = false ∧ x.isInf = false) (hy : y.isNaN = false ∧ y.isInf = false)
    (hacc : (FloatFmt.fp32.decode acc.toNat).isNaN = false ∧ (FloatFmt.fp32.decode acc.toNat).isInf = false) :
    ∃ v, Valued v (ratOf (FloatFmt.fp32.decode acc.toNat) +
        (ab.map fun p => ratOf p.1 * ratOf p.2).sum * (ratOf x * ratOf y)) ∧
      (blockAdd acc ab (some x) (some y)).1 = BitVec.ofNat 32 (FloatFmt.fp32.round v .rne).1 := by
  have hprod : ∀ p ∈ ab, Valued (XR.mul p.1 p.2).1 (ratOf p.1 * ratOf p.2) := fun p hp =>
    (Valued.of_finite (hab p hp).1).mul (Valued.of_finite (hab p hp).2)
  have hmul : ∀ v ∈ (ab.map fun p => XR.mul p.1 p.2).map (·.1), Valued v (ratOf v) := fun v hv => by
    rw [List.map_map] at hv
    obtain ⟨p, hp, rfl⟩ := List.mem_map.mp hv
    exact Valued.of_finite (hprod p hp).finite
  have hsum := Valued.sumX (by simpa using hne) hmul
  have hvalue : (((ab.map fun p => XR.mul p.1 p.2).map (·.1)).map ratOf).sum = (ab.map fun p => ratOf p.1 * ratOf p.2).sum := by
    rw [List.map_map, List.map_map]
    refine congrArg List.sum (List.map_congr_left fun p hp => ?_)
    obtain ⟨_, _, _, -, h⟩ := hprod p hp
    exact h
  rw [hvalue] at hsum
  refine ⟨_, (Valued.of_finite hacc).add (hsum.mul ((Valued.of_finite hx).mul (Valued.of_finite hy))) .rne, ?_⟩
  cases ab with
  | nil => exact absurd rfl hne
  | cons p ab => rfl

end valued

/-! ## Tokens of an MM.OUT (R271) -/

section tokens
variable (c : Core) (k : Cmd) (free : Nat)

/-- Pieces of one length laid end to end. -/
theorem range_mul_map {α : Type} (f : Nat → α) (m n : Nat) :
    (List.range (m * n)).map f = (List.range m).flatMap fun i => (List.range n).map fun j => f (i * n + j) := by
  induction m with
  | zero => simp
  | succ m ih =>
    rw [Nat.succ_mul, List.range_add, List.map_append, ih, List.range_succ, List.flatMap_append, List.map_map]
    simp [Function.comp_def]

theorem Core.outWord_exact {b : Nat} (h : c.rlx b = false) (i j : Nat) : c.outWord b i j free = c.accWord b i j := by
  simp [Core.outWord, h]

/-- Place j of a run of n + 1 places that begins at i (n + 1). -/
theorem run_div {i j n : Nat} (hj : j < n + 1) : (i * (n + 1) + j) / (n + 1) = i := by
  rw [Nat.add_comm, Nat.add_mul_div_right _ _ n.succ_pos, Nat.div_eq_of_lt hj, zero_add]

theorem run_mod {i j n : Nat} (hj : j < n + 1) : (i * (n + 1) + j) % (n + 1) = j := by
  rw [Nat.add_comm, Nat.add_mul_mod_self_right, Nat.mod_eq_of_lt hj]

/-- Token j of row i in a compatible stream. -/
theorem Core.outToken_compat (i : Nat) {j : Nat} (hj : j < k.regN + 1) : c.outToken k true free (i * (k.regN + 1) + j) =
    if j = k.regN then Token.marker (if i + 1 = k.regM then 1 else 0)
    else Token.ofData (c.outWord k.bank (k.regRow + i) (k.regCol + j) free) := by
  unfold Core.outToken
  dsimp only
  rw [if_pos rfl, if_pos rfl, run_div hj, run_mod hj]

/-- Token j of row i in a native stream, after the rows' number. -/
theorem Core.outToken_native (i : Nat) {j : Nat} (hj : j < k.regN + 1) : c.outToken k false free (i * (k.regN + 1) + j + 1) =
    if j = 0 then Token.prefixOf 0 k.regN
    else Token.ofData (c.outWord k.bank (k.regRow + i) (k.regCol + (j - 1)) free) := by
  unfold Core.outToken
  dsimp only
  rw [if_neg Bool.false_ne_true, if_neg Bool.false_ne_true, if_neg (Nat.succ_ne_zero _), Nat.add_sub_cancel, run_div hj, run_mod hj]

/-- Row i of a region as data tokens. -/
def Core.rowTokens (i : Nat) : List Token :=
  (List.range k.regN).map fun j => ⟨0#5, c.accWord k.bank (k.regRow + i) (k.regCol + j)⟩

variable (h : c.rlx k.bank = false)
include h

/-- A compatible stream: each row, then its marker. -/
theorem Core.outTokens_compat : (List.range (k.outTotal true)).map (c.outToken k true free) =
    (List.range k.regM).flatMap fun i => c.rowTokens k i ++ [Token.marker (if i + 1 = k.regM then 1 else 0)] := by
  have htotal : k.outTotal true = k.regM * (k.regN + 1) := by rw [Cmd.outTotal, if_pos rfl, Nat.mul_succ]
  rw [htotal, range_mul_map]
  refine List.flatMap_congr fun i hi => ?_
  rw [List.range_succ, List.map_append]
  refine congrArg₂ (· ++ ·) (List.map_congr_left fun j hj => ?_) ?_
  · have hj := List.mem_range.mp hj
    rw [c.outToken_compat k free i (by omega), if_neg hj.ne, c.outWord_exact free h]
    rfl
  · rw [List.map_singleton, c.outToken_compat k free i k.regN.lt_succ_self, if_pos rfl]

/-- A native stream: the rows' number, then each row under its length. -/
theorem Core.outTokens_native : (List.range (k.outTotal false)).map (c.outToken k false free) =
    Token.prefixOf 1 k.regM :: (List.range k.regM).flatMap fun i => Token.prefixOf 0 k.regN :: c.rowTokens k i := by
  have htotal : k.outTotal false = k.regM * (k.regN + 1) + 1 := by rw [Cmd.outTotal, if_neg Bool.false_ne_true, Nat.add_comm]
  rw [htotal, List.range_succ_eq_map, List.map_cons, List.map_map, range_mul_map]
  refine congrArg₂ List.cons rfl (List.flatMap_congr fun i hi => ?_)
  rw [List.range_succ_eq_map, List.map_cons, List.map_map]
  refine congrArg₂ List.cons ?_ (List.map_congr_left fun j hj => ?_)
  · exact (c.outToken_native k free i k.regN.succ_pos).trans (if_pos rfl)
  · refine (c.outToken_native k free i (Nat.succ_lt_succ (List.mem_range.mp hj))).trans ((if_neg (Nat.succ_ne_zero _)).trans ?_)
    rw [Nat.succ_sub_one, c.outWord_exact free h]
    rfl

end tokens

end Sys2Proof.Machine
end

section
/-! PROOFS. Entries of an MM.ARM. -/

namespace Sys2Proof.Machine

/-! ## Arms (R269) -/

/-- The arm moves past its entry. -/
def Cmd.pastEntry (id : Nat) (gtc : Word) (j : Cmd) : Cmd :=
  if j.id = id then { j with done := j.done + 1, tWait := some gtc, tlb := [] } else j

theorem Cmd.pastEntry_unkept (id : Nat) (gtc : Word) (j : Cmd) : Cmd.pastEntry id gtc (j.unkept id) = Cmd.pastEntry id gtc j := by
  unfold Cmd.pastEntry Cmd.unkept
  split <;> simp_all

theorem Cmd.pastEntry_id (id : Nat) (gtc : Word) (j : Cmd) : (Cmd.pastEntry id gtc j).id = j.id := by
  unfold Cmd.pastEntry
  split <;> rfl

/-- An arm's entry as the command that starts. -/
def Cmd.entryCmd (arm : Cmd) (id : Nat) (bs : List Byte) : Cmd := { armCmd arm id bs with x1 := arm.done * 16 }

/-- The fields of an MM.ACC.ZERO entry. -/
theorem Cmd.entryCmd_zero {bs : List Byte} (hentry : entryField bs 0x2C 1 = 0x45) (hvar : entryField bs 0x2D 1 = 0) (arm : Cmd)
    (id : Nat) : (arm.entryCmd id bs).opc = 0x45#8 ∧ (arm.entryCmd id bs).var = 0 := by
  unfold Cmd.entryCmd armCmd
  dsimp only
  rw [hentry, hvar]
  exact ⟨rfl, rfl⟩

/-- Changing the command that stands last leaves those of other identifiers. -/
theorem State.updCmd_last {s : State} {l : List Cmd} {e : Cmd} (hl : ∀ j ∈ l, j.id ≠ e.id) (hs : s.cmds = l ++ [e])
    (f : Cmd → Cmd) :
    (s.updCmd e.id f).cmds = l ++ [f e] := by
  rw [State.updCmd_cmds, hs, List.map_append, List.map_singleton, if_pos rfl]
  exact congrArg (· ++ _) ((List.map_congr_left fun j hj => if_neg (hl j hj)).trans (List.map_id _))

theorem State.mxBegin_last {s : State} {l : List Cmd} {e : Cmd} (n : Nat) (hl : ∀ j ∈ l, j.id ≠ e.id) (hs : s.cmds = l ++ [e]) :
    ∃ x y, (s.mxBegin n e).cmds = l ++ [{ e with state := .started, x0 := x, x1 := y }] :=
  ⟨_, _, State.updCmd_last hl hs _⟩

section arms
variable {s s1 : State} {n : Nat} {arm : Cmd} {bs : List Byte} (ho : arm.owner = .core n)
include ho

/-- An entry is read for its arm. -/
theorem reads_readArm (h : s.readArm arm = .ok (s1, bs)) : Reads n arm.id s s1 := by
  have hcore : arm.core? = some n := by rw [Cmd.core?, ho]
  exact Reads.load (g := ⟨arm.ctx, arm.core?, some arm.id⟩) hcore rfl h

/-- After its entry is read an arm moves past it, and the other commands stand as before the read. -/
theorem armNext_eq (h : s.readArm arm = .ok (s1, bs)) :
    s1.armNext arm = { s1 with cmds := s.cmds.map (Cmd.pastEntry arm.id s.gtc) } := by
  obtain ⟨-, hcmds, -, hgtc, -⟩ := reads_readArm ho h
  have hfactor : ∀ l : List Cmd, l.map (Cmd.pastEntry arm.id s.gtc) = (l.map (Cmd.unkept arm.id)).map
      (Cmd.pastEntry arm.id s.gtc) :=
    fun l => by
      rw [List.map_map]
      exact List.map_congr_left fun j _ => (Cmd.pastEntry_unkept _ _ _).symm
  rw [hfactor, ← hcmds, ← hfactor, ← hgtc]
  rfl

theorem exec_armEntryStart (hk : s.cmd? arm.id = some arm) : exec (.armEntryStart arm.id) s = .next (s.armStep n arm) := by
  show execArmEntryStart arm.id s = _
  rw [execArmEntryStart, hk]
  dsimp only
  rw [ho]

variable (hopc : arm.opc = 0x44#8) (hruns : s.runs arm = true) (hdone : arm.done < arm.b.toNat)
    (hread : s.readArm arm = .ok (s1, bs))
include hopc hruns hdone hread

/-- An entry whose mask bit is false completes at once. -/
theorem armStep_false (hmask : arm.mask.getLsbD (entryField bs 0x2E 1) = false) :
    s.armStep n arm = { s1 with cmds := s.cmds.map (Cmd.pastEntry arm.id s.gtc) } := by
  rw [← armNext_eq ho hread, State.armStep, if_neg (by simp [hopc, hruns, hdone]), hread]
  simp [hmask]

/-- An MM.ACC.ZERO entry that acts begins when the engine chooses it. -/
theorem armStep_enter (hmask : arm.mask.getLsbD (entryField bs 0x2E 1) = true) (hentry : entryField bs 0x2C 1 = 0x45)
    (hvar : entryField bs 0x2D 1 = 0) (hzero : entryZeroOk bs = true) (hregion : regionErr (arm.entryCmd s.nextCmd bs) = none)
    (hfree : s1.mxFree n (arm.entryCmd s.nextCmd bs) = true)
    (hbest : s1.bestOf (s1.mxRivals n) { arm.entryCmd s.nextCmd bs with id := arm.id } = true) :
    s.armStep n arm = State.mxBegin { s1.armNext arm with
      cmds := (s1.armNext arm).cmds ++ [arm.entryCmd s.nextCmd bs], nextCmd := s1.nextCmd + 1 } n (arm.entryCmd s.nextCmd bs) := by
  obtain ⟨-, -, hnext, -, -⟩ := reads_readArm ho hread
  obtain ⟨heopc, -⟩ := Cmd.entryCmd_zero hentry hvar arm s.nextCmd
  have hready : s1.outReady n { arm.entryCmd s.nextCmd bs with id := arm.id } = true := by simp [State.outReady, heopc]
  have harr : (arm.entryCmd s.nextCmd bs).onArray = false := by simp [Cmd.onArray, heopc, isMm]
  have hopcOk : entryOpcOk (entryField bs 0x2C 1) = true := by rw [hentry]; rfl
  rw [State.armStep, if_neg (by simp [hopc, hruns, hdone]), hread]
  simp only [hmask, hopcOk, hzero, Bool.not_true, Bool.false_eq_true, if_false]
  rw [hnext]
  change (if !s1.mxFree n (arm.entryCmd s.nextCmd bs) || !s1.outReady n { arm.entryCmd s.nextCmd bs with id := arm.id } ||
      !s1.bestOf (s1.mxRivals n) { arm.entryCmd s.nextCmd bs with id := arm.id } then s else State.enterMx { s1.armNext arm with
      cmds := (s1.armNext arm).cmds ++ [arm.entryCmd s.nextCmd bs], nextCmd := s.nextCmd + 1 } n (arm.entryCmd s.nextCmd bs)) = _
  rw [if_neg (by simp [hfree, hready, hbest]), State.enterMx, harr, if_neg Bool.false_ne_true, hregion]
  dsimp only
  rw [if_neg (by simp [heopc])]

/-- It then stands started behind the arm's other entries. -/
theorem armStep_zero (hmask : arm.mask.getLsbD (entryField bs 0x2E 1) = true) (hentry : entryField bs 0x2C 1 = 0x45)
    (hvar : entryField bs 0x2D 1 = 0) (hzero : entryZeroOk bs = true) (hregion : regionErr (arm.entryCmd s.nextCmd bs) = none)
    (hfree : s1.mxFree n (arm.entryCmd s.nextCmd bs) = true)
    (hbest : s1.bestOf (s1.mxRivals n) { arm.entryCmd s.nextCmd bs with id := arm.id } = true)
    (hnew : ∀ j ∈ s.cmds, j.id < s.nextCmd) :
    ∃ k, (s.armStep n arm).cmds = s.cmds.map (Cmd.pastEntry arm.id s.gtc) ++ [k] ∧ (s.armStep n arm).mem = s1.mem ∧
      k.state = .started ∧ k.arm = some arm.id ∧ k.opc = 0x45#8 ∧ k.var = 0 ∧ k.c = BitVec.ofNat 64 (entryField bs 0x10 8) ∧
      k.w3 = BitVec.ofNat 32 (entryField bs 0x28 4) := by
  obtain ⟨heopc, hevar⟩ := Cmd.entryCmd_zero hentry hvar arm s.nextCmd
  have hothers : ∀ j ∈ s.cmds.map (Cmd.pastEntry arm.id s.gtc), j.id ≠ (arm.entryCmd s.nextCmd bs).id := fun j hj => by
    obtain ⟨i, hi, rfl⟩ := List.mem_map.mp hj
    rw [Cmd.pastEntry_id]
    exact (hnew i hi).ne
  rw [armStep_enter ho hopc hruns hdone hread hmask hentry hvar hzero hregion hfree hbest, armNext_eq ho hread]
  obtain ⟨x, y, hcmds⟩ := State.mxBegin_last (s := { s1 with
    cmds := s.cmds.map (Cmd.pastEntry arm.id s.gtc) ++ [arm.entryCmd s.nextCmd bs], nextCmd := s1.nextCmd + 1 }) n hothers rfl
  exact ⟨_, hcmds, rfl, rfl, rfl, heopc, hevar, rfl, rfl⟩

end arms

end Sys2Proof.Machine
end

section
/-! PROOFS. Commands of a core complete; an MM.OUT fills its port's FIFO and completes. -/

namespace Sys2Proof.Machine

/-! ## Completion (R24, R28) -/

section completion
variable {s : State} {n : Nat} {k : Cmd}

/-- The core of a command that completes: counters fall and the core's holds on the command end. -/
def Core.releases (c : Core) (k : Cmd) (last : Bool) : Core :=
  { (if k.arm = none then c.fall k.opc.toNat last else c) with
    heldBy := if c.heldBy = some k.id ∧ c.preempt = false then none else c.heldBy
    cfgBy := if c.cfgBy = some k.id then none else c.cfgBy
    holdTake := c.holdTake.filter fun i => decide (i ≠ k.id)
    served := c.served.filter fun i => decide (i ≠ k.id) }

/-- Commands that stay as one of them completes: the others, but for the BATCHes whose commands are all complete. -/
def State.staying (s : State) (id : Nat) : List Cmd :=
  let rest := s.cmds.filter fun j => decide (j.id ≠ id)
  rest.filter fun j => !(decide (j.opc = 0x20#8) && j.waits.all fun w => rest.all fun i => decide (i.id ≠ w))

theorem State.finishCmd_eq (hk : s.cmd? k.id = some k) (ho : k.owner = .core n) :
    ∃ last, s.finishCmd k.id = ({ s with cmds := s.staying k.id } : State).updCore n fun c => c.releases k last := by
  rw [State.finishCmd, hk]
  dsimp only
  rw [ho]
  exact ⟨_, rfl⟩

theorem State.mem_staying {j : Cmd} (hid : j.id ≠ k.id) (hbatch : j.opc ≠ 0x20#8) : j ∈ s.staying k.id ↔ j ∈ s.cmds := by
  simp [State.staying, hid, hbatch]

/-- What a core is but for what the completion of its commands changes. -/
theorem Core.releases_apart (c : Core) (k : Cmd) (last : Bool) : { c.releases k last with
    cpc := c.cpc, tlc := c.tlc, ldc := c.ldc, btc := c.btc, heldBy := c.heldBy, cfgBy := c.cfgBy
    holdTake := c.holdTake, served := c.served } = c := by
  unfold Core.releases
  split <;> rfl

theorem completed_finishCmd (hk : s.cmd? k.id = some k) (ho : k.owner = .core n) :
    Completed s (s.finishCmd k.id) n k (s.core n) := by
  have hgone := State.cmd?_finishCmd s k.id
  obtain ⟨last, heq⟩ := State.finishCmd_eq hk ho
  rw [heq] at hgone ⊢
  have hcore : ((({ s with cmds := s.staying k.id } : State).updCore n fun c => c.releases k last).core n) =
      (s.core n).releases k last :=
    State.core_updCore_same ..
  have hfall : ∀ {α : Type} (f : Core → α),
      (∀ c : Core, f (c.releases k last) = f (if k.arm = none then c.fall k.opc.toNat last else c)) →
      f ((s.core n).releases k last) = if k.arm = none then f ((s.core n).fall k.opc.toNat last) else f (s.core n) :=
    fun f h => by rw [h]; split <;> rfl
  have hopc : k.opc.toNat = 0x12 ↔ k.opc = 0x12#8 := by bv_omega
  exact {
    gone := hgone
    others := fun j hid hbatch => State.mem_staying hid hbatch
    cpc := by rw [hcore, hfall Core.cpc fun _ => rfl, Core.fall]; simp only [ite_and]; split_ifs <;> rfl
    tlc := by rw [hcore, hfall Core.tlc fun _ => rfl, Core.fall]; simp only [ite_and]; split_ifs <;> rfl
    heldBy := by rw [hcore]; rfl
    cfgBy := by rw [hcore]; rfl
    core := by rw [hcore]; exact Core.releases_apart ..
    ldc := by rw [hcore, hfall Core.ldc fun _ => rfl, Core.fall]; simp only [hopc, ite_and]; split_ifs <;> rfl
    taken := by rw [hcore]; rfl
    cores := fun m hm => State.core_updCore_other _ _ _ _ hm }

/-- What a completion leaves of its core. -/
theorem Completed.keeps {t : State} {c : Core} (h : Completed s t n k c) {α : Type} (f : Core → α)
    (hf : ∀ c cpc tlc ldc btc heldBy cfgBy holdTake served,
    f { c with cpc, tlc, ldc, btc, heldBy, cfgBy, holdTake, served } = f c) : f (t.core n) = f c := by
  rw [← hf (t.core n) c.cpc c.tlc c.ldc c.btc c.heldBy c.cfgBy c.holdTake c.served]
  exact congrArg f h.core

end completion

/-! ## The FIFO of an MM.OUT (R271) -/

section out
variable {s : State} {n : Nat} {k : Cmd}

@[simp] theorem Core.port_setPort (c : Core) (p : Nat) (x : Port) : (c.setPort p x).port p = x := SMap.get_put_same ..

/-- A full FIFO takes no token. -/
theorem State.refill_full {p : Nat} (h : 16 ≤ ((s.core n).port p).fifo.length) (f : Nat) : State.refill n p f s = s := by
  cases f with
  | zero => rfl
  | succ f =>
    rw [State.refill]
    split
    · rfl
    · exact if_pos h

/-- A port without an MM.OUT takes no token. -/
theorem State.refill_none {p : Nat} (h : s.outPending n p = none) (f : Nat) : State.refill n p f s = s := by
  cases f with
  | zero => rfl
  | succ f => rw [State.refill, h]

/-- No token of the feeding commands has left the FIFO and no stream has ended: nothing completes. -/
theorem State.portDone_held {p : Nat} (hfifo : 16 ≤ ((s.core n).port p).fifo.length)
    (hfeeds : feedsOff (feedsTotal ((s.core n).port p).feeds - ((s.core n).port p).fifo.length) ((s.core n).port p).feeds =
      ([], ((s.core n).port p).feeds)) : s.portDone n p = s := by
  have hne : ((s.core n).port p).fifo ≠ [] := fun h => by simp [h] at hfifo
  unfold State.portDone
  simp only [hfeeds, hne, false_and, and_false, if_false, and_self, if_true]
  exact State.refill_full hfifo 64

/-- The port of an MM.OUT after its next token has joined the fifteen in the FIFO. -/
def Core.outNext (c : Core) (k : Cmd) (free : Nat) : Port :=
  let x := c.port k.outPort
  { x with fifo := x.fifo ++ [c.outToken k x.compat free k.x0], feeds := [(k.id, 16)] }

/-- The machine then. -/
def State.outPlaced (s : State) (n : Nat) (k : Cmd) : State :=
  let c := s.core n
  { (s.setCore n { c.setPort k.outPort (c.outNext k s.free) with drained := false, moved := s.gtc }).updCmd k.id
      fun j => { j with x0 := j.x0 + 1 } with free := s.free + 1 }

theorem State.core_outPlaced (s : State) (n : Nat) (k : Cmd) : (s.outPlaced n k).core n =
    { (s.core n).setPort k.outPort ((s.core n).outNext k s.free) with drained := false, moved := s.gtc } :=
  State.core_setCore_same ..

theorem State.port_outPlaced (s : State) (n : Nat) (k : Cmd) :
    ((s.outPlaced n k).core n).port k.outPort = (s.core n).outNext k s.free := by
  rw [State.core_outPlaced]
  exact Core.port_setPort ..

/-- The sixteenth token of an MM.OUT joins the FIFO. -/
theorem State.refill_sixteenth (hpend : s.outPending n k.outPort = some k) (hfifo : ((s.core n).port k.outPort).fifo.length = 15)
    (hfeeds : ((s.core n).port k.outPort).feeds = [(k.id, 15)])
    (hcell : ∀ e, k.outCell ((s.core n).port k.outPort).compat k.x0 = some e → (s.core n).accBad k.bank e.1 e.2 = false)
    (hsettle : Core.settle (feedPlace k.outPort) settleFuel ((s.core n).setPort k.outPort ((s.core n).outNext k s.free)) =
      (s.core n).setPort k.outPort ((s.core n).outNext k s.free)) (f : Nat) :
    State.refill n k.outPort (f + 1) s = s.outPlaced n k := by
  have hplace : feedPlaceIn k.id [(k.id, 15)] - (feedsTotal [(k.id, 15)] - 15) = 15 := by simp [feedPlaceIn, feedsTotal]
  have hone : feedOne k.id [(k.id, 15)] = [(k.id, 16)] := by simp [feedOne]
  rw [State.refill, hpend]
  dsimp only
  refine (if_neg (by omega)).trans ((if_neg ?_).trans ?_)
  · split
    · next e he => rw [hcell e he]; exact Bool.false_ne_true
    · exact Bool.false_ne_true
  rw [hfeeds, hfifo, hplace, hone, List.take_of_length_le hfifo.le, List.drop_eq_nil_of_le hfifo.le]
  refine Eq.trans (congrArg (State.refill n k.outPort f) ?_) (State.refill_full ?_ f)
  · rw [State.outPlaced, ← hsettle]
    rfl
  · rw [State.port_outPlaced, Core.outNext, List.length_append, hfifo]
    rfl

theorem State.completeOf_out (ho : k.owner = .core n) (hopc : k.opc = 0x46#8) :
    s.completeOf k = (State.refill n k.outPort 17 s).portDone n k.outPort := by
  have hcore : k.core?.getD 0 = n := by rw [Cmd.core?, ho]; rfl
  rw [State.completeOf, hcore, hopc]
  rfl

/-- The MM.OUT has then placed one token more, and waits for room. -/
theorem commandComplete_place (hk : s.cmd? k.id = some k) (ho : k.owner = .core n) (hruns : s.runs k = true)
    (hopc : k.opc = 0x46#8)
    (hpend : s.outPending n k.outPort = some k) (hfifo : ((s.core n).port k.outPort).fifo.length = 15)
    (hfeeds : ((s.core n).port k.outPort).feeds = [(k.id, 15)])
    (hcell : ∀ e, k.outCell ((s.core n).port k.outPort).compat k.x0 = some e → (s.core n).accBad k.bank e.1 e.2 = false)
    (hsettle : Core.settle (feedPlace k.outPort) settleFuel ((s.core n).setPort k.outPort ((s.core n).outNext k s.free)) =
      (s.core n).setPort k.outPort ((s.core n).outNext k s.free)) :
    exec (.commandComplete k.id) s = .next (s.outPlaced n k) ∧ (s.outPlaced n k).cmd? k.id = some { k with x0 := k.x0 + 1 } := by
  have hport := s.port_outPlaced n k
  have hlen : ((s.core n).outNext k s.free).fifo.length = 16 := by rw [Core.outNext, List.length_append, hfifo]; rfl
  have hheld : (s.outPlaced n k).portDone n k.outPort = s.outPlaced n k := by
    refine State.portDone_held (by rw [hport, hlen]) ?_
    rw [hport, hlen]
    simp [Core.outNext, feedsTotal, feedsOff]
  refine ⟨?_, State.cmd?_updCmd_same (s := s.setCore n _) (fun _ => rfl) hk⟩
  rw [exec_commandComplete hk ho hruns]
  rw [State.completeOf_out ho hopc, State.refill_sixteenth hpend hfifo hfeeds hcell hsettle, hheld]

/-- The machine once the tokens of the MM.OUT are counted off. -/
def State.outDrained (s : State) (n : Nat) (k : Cmd) : State :=
  let c := s.core n
  s.setCore n (c.setPort k.outPort { c.port k.outPort with feeds := [], bindCmd := none })

/-- An MM.OUT whose tokens have all left the FIFO completes. -/
theorem commandComplete_out (hk : s.cmd? k.id = some k) (ho : k.owner = .core n) (hruns : s.runs k = true) (hopc : k.opc = 0x46#8)
    (hpend : s.outPending n k.outPort = none) (htotal : k.outTotal ((s.core n).port k.outPort).compat ≤ k.x0)
    (hfifo : ((s.core n).port k.outPort).fifo = []) (hbind : ((s.core n).port k.outPort).bindCmd = none) {m : Nat} (hm : m ≠ 0)
    (hfeeds : ((s.core n).port k.outPort).feeds = [(k.id, m)]) :
    ∃ t, exec (.commandComplete k.id) s = .next t ∧ t.cmd? k.id = none ∧ t.mem = s.mem ∧ (t.core n).mx = (s.core n).mx := by
  have hdrained : (State.refill n k.outPort 17 s).portDone n k.outPort = State.refill n k.outPort 64
      ((s.outDrained n k).finishCmd k.id) := by
    rw [State.refill_none hpend, State.portDone]
    simp only [hfeeds, hfifo, hbind]
    have hoff : feedsOff (feedsTotal [(k.id, m)]) [(k.id, m)] = ([k.id], []) := by
      simp [feedsTotal, feedsOff, hm]
    have hover : s.feedOver ((s.core n).port k.outPort).compat k.id = true := by
      simp [State.feedOver, hk, htotal]
    simp [hoff, hover, State.finishCmds, State.outDrained, hfifo]
  have hcompleted : Completed (s.outDrained n k) ((s.outDrained n k).finishCmd k.id) n k ((s.outDrained n k).core n) :=
    completed_finishCmd (s := s.outDrained n k) hk ho
  have hport : ((((s.outDrained n k).finishCmd k.id).core n).port k.outPort).compat = ((s.core n).port k.outPort).compat := by
    rw [hcompleted.keeps (fun c => (c.port k.outPort).compat) fun _ _ _ _ _ _ _ _ _ => rfl, State.outDrained,
        State.core_setCore_same,
      Core.port_setPort]
    rfl
  have hstill : ((s.outDrained n k).finishCmd k.id).outPending n k.outPort = none := by
    refine List.find?_eq_none.mpr fun j hj hjp => List.find?_eq_none.mp hpend j ?_ (by rwa [hport] at hjp)
    refine (hcompleted.others j (fun hid => ?_) fun hbatch => by simp [hbatch] at hjp).mp hj
    exact List.find?_eq_none.mp hcompleted.gone j hj (decide_eq_true hid)
  rw [exec_commandComplete hk ho hruns, State.completeOf_out ho hopc, hdrained, State.refill_none hstill]
  refine ⟨_, rfl, hcompleted.gone, State.mem_finishCmd .., ?_⟩
  rw [State.mx_finishCmd, State.outDrained, State.core_setCore_same]
  rfl

end out

end Sys2Proof.Machine
end

section
/-! PROOFS. A command's bytes outside every window: translation, reads and writes at their homes. -/

namespace Sys2Proof.Machine

/-! ## Translation through the pages a command keeps (R140) -/

/-- Where a page's find succeeds does not change when pages found before it are kept: of pages apart one covers an address. -/
theorem find?_kept {pages tlb kept : List Page} (hapart : pagesApart pages) (hkept : ∀ p ∈ kept, p ∈ tlb ∨ p ∈ pages) (va : Nat) :
    ((tlb ++ kept) ++ pages).find? (·.covers va) = (tlb ++ pages).find? (·.covers va) := by
  rw [List.append_assoc, List.find?_append, List.find?_append, List.find?_append]
  cases htlb : tlb.find? (·.covers va) with
  | some p => rfl
  | none =>
    rw [Option.none_or, Option.none_or]
    cases hk : kept.find? (·.covers va) with
    | none => rfl
    | some p =>
      have hpva : p.covers va = true := List.find?_some (p := fun p : Page => p.covers va) hk
      have hp : p ∈ pages := (hkept p (List.mem_of_find?_eq_some hk)).resolve_left fun h => List.find?_eq_none.mp htlb p h hpva
      cases hq : pages.find? (·.covers va) with
      | none => exact absurd hpva (List.find?_eq_none.mp hq p hp)
      | some q =>
        have hqva : q.covers va = true := List.find?_some (p := fun p : Page => p.covers va) hq
        have hpq := hapart p hp q (List.mem_of_find?_eq_some hq)
        simp only [Page.covers, Bool.and_eq_true, decide_eq_true_eq] at hpva hqva
        rw [Option.some_or, hpq.resolve_right (by omega)]

theorem translate_congr {ps qs : List Page} {va : Nat} (h : ps.find? (·.covers va) = qs.find? (·.covers va)) (need : Need) :
    translate ps va need = translate qs va need := by
  unfold translate
  rw [h]

/-- What a range translates to, byte by byte. -/
theorem translateRange_get {pages : List Page} {need : Need} {va n : Nat} {ps : List Nat}
    (h : translateRange pages va need n = .ok ps) :
    ps.length = n ∧ ∀ i < n, translate pages (va + i) need = .ok (ps.getD i 0) := by
  induction n generalizing va ps with
  | zero =>
    cases h
    exact ⟨rfl, fun i hi => absurd hi (Nat.not_lt_zero i)⟩
  | succ n ih =>
    unfold translateRange at h
    split at h
    · cases h
    · next pa hpa =>
      split at h
      · cases h
      · next pas hpas =>
        cases h
        obtain ⟨hlen, hget⟩ := ih hpas
        refine ⟨by rw [List.length_cons, hlen], fun i hi => ?_⟩
        cases i with
        | zero => exact hpa
        | succ i => rw [← Nat.add_assoc, Nat.add_right_comm]; exact hget i (by omega)

/-! ## Steps of a command that write memory -/

/-- `t` is `s` after writes that an agent makes for command id: cores, translation, and what keeps storage from being reached stand,
and the command is as far as it was. -/
structure Writing (g : Agent) (id : Nat) (s t : State) : Prop where
  cores : t.cores = s.cores
  translate : ∀ va need, translate (t.pagesFor g) va need = translate (s.pagesFor g) va need
  blocked : ∀ va pa, t.blocked va pa = s.blocked va pa
  done : (t.cmd? id).map Cmd.done = (s.cmd? id).map Cmd.done

section writing
variable {g : Agent} {id : Nat} {s t u : State}

theorem Writing.refl (g : Agent) (id : Nat) (s : State) : Writing g id s s := ⟨rfl, fun _ _ => rfl, fun _ _ => rfl, rfl⟩

theorem Writing.trans (h : Writing g id s t) (h' : Writing g id t u) : Writing g id s u where
  cores := h'.cores.trans h.cores
  translate := fun va need => (h'.translate va need).trans (h.translate va need)
  blocked := fun va pa => (h'.blocked va pa).trans (h.blocked va pa)
  done := h'.done.trans h.done

variable (hg : g.cmd = some id)
include hg

/-- Translation depends on the command's kept pages and on its context. -/
theorem State.pagesFor_of_cmd {k : Cmd} (hk : s.cmd? id = some k) : s.pagesFor g = k.tlb ++ s.pages g.ctx := by
  rw [State.pagesFor, hg, Option.bind_some, hk]

theorem Writing.keepPages {k : Cmd} (hk : s.cmd? id = some k) (hapart : pagesApart (s.pages g.ctx)) (va len : Nat) :
    Writing g id s (s.keepPages g va len) := by
  have hpages := State.pagesFor_of_cmd hg hk
  obtain ⟨kept, hkept, heq⟩ : ∃ kept : List Page, (∀ p ∈ kept, p ∈ k.tlb ∨ p ∈ s.pages g.ctx) ∧
      (s.keepPages g va len).cmd? id = some { k with tlb := k.tlb ++ kept } ∧ (s.keepPages g va len).pages g.ctx = s.pages g.ctx ∧
      (s.keepPages g va len).cores = s.cores ∧ ∀ a pa, (s.keepPages g va len).blocked a pa = s.blocked a pa := by
    unfold State.keepPages
    rw [hg]
    have hkept := State.cmd?_updCmd_same (f := fun j => { j with tlb := j.tlb ++
      (((List.range ((va % 65536 + len + 65535) / 65536)).filterMap fun i =>
        (s.pagesFor g).find? (·.covers (va / 65536 * 65536 + 65536 * i))).filter fun p => decide (p ∉ j.tlb)).dedup })
            (fun _ => rfl) hk
    refine ⟨_, fun p hp => ?_, hkept, rfl, rfl, fun _ _ => rfl⟩
    obtain ⟨hp, -⟩ := List.mem_filter.mp (List.mem_dedup.mp hp)
    obtain ⟨i, -, hi⟩ := List.mem_filterMap.mp hp
    have hmem := List.mem_of_find?_eq_some hi
    rw [hpages] at hmem
    exact List.mem_append.mp hmem
  obtain ⟨hcmd, hctx, hcores, hblocked⟩ := heq
  refine ⟨hcores, fun a need => ?_, hblocked, by rw [hcmd, hk]; rfl⟩
  rw [State.pagesFor_of_cmd hg hcmd, hctx, hpages]
  exact translate_congr (find?_kept hapart hkept a) need

/-- Changes of the commands that leave the one that writes its kept pages and its progress. -/
theorem Writing.withCmds {l : List Cmd} {k j : Cmd} (hk : s.cmd? id = some k)
    (hj : ({ s with cmds := l } : State).cmd? id = some j)
    (htlb : j.tlb = k.tlb) (hdone : j.done = k.done) : Writing g id s { s with cmds := l } where
  cores := rfl
  translate := fun a need => by
    rw [State.pagesFor_of_cmd hg hj, State.pagesFor_of_cmd hg hk, htlb]
    rfl
  blocked := fun _ _ => rfl
  done := by
    rw [hj, hk, Option.map_some, Option.map_some, hdone]

/-- What a command is about to write tears no word of its own. -/
theorem Writing.tear {k : Cmd} (hk : s.cmd? id = some k) (va len : Nat) :
    Writing g id s (s.tear (some id) g va len) ∧ (s.tear (some id) g va len).cmd? id = some k := by
  obtain ⟨f, hf, hid, hsame⟩ : ∃ f : Cmd → Cmd, s.tear (some id) g va len = { s with cmds := s.cmds.map f } ∧
      (∀ j, (f j).id = j.id) ∧ ∀ j, j.id = id → f j = j := by
    refine ⟨_, rfl, fun j => ?_, fun j hj => ?_⟩
    · split
      · rfl
      · split <;> rfl
    · split
      · rfl
      · exact if_pos (.inr (.inl hj))
  have hcmd : ({ s with cmds := s.cmds.map f } : State).cmd? id = some k := by
    have hp : ((fun j : Cmd => decide (j.id = id)) ∘ f) = fun j => decide (j.id = id) := funext fun j => by
      rw [Function.comp_apply, hid]
    show (s.cmds.map f).find? (fun j => decide (j.id = id)) = some k
    rw [List.find?_map, hp, ← State.cmd?, hk, Option.map_some, hsame k (State.cmd?_id hk)]
  rw [hf]
  exact ⟨Writing.withCmds hg hk hcmd rfl rfl, hcmd⟩

/-- Noting what a command covers of a sector changes nothing else. -/
theorem Writing.cover {k : Cmd} (hk : s.cmd? id = some k) (whole : Bool) (va pa len : Nat) :
    Writing g id s (s.cover (some id) whole va pa len).1 ∧ (s.cover (some id) whole va pa len).1.mem = s.mem ∧
      ∃ j, (s.cover (some id) whole va pa len).1.cmd? id = some j := by
  have hupd : ∀ c : SMap Bool, Writing g id s (s.updCmd id fun j => { j with covered := c }) ∧
      (s.updCmd id fun j => { j with covered := c }).mem = s.mem ∧
      ∃ j, (s.updCmd id fun j => { j with covered := c }).cmd? id = some j := fun c => by
    have hj := State.cmd?_updCmd_same (f := fun j => { j with covered := c }) (fun _ => rfl) hk
    exact ⟨Writing.withCmds hg hk hj rfl rfl, rfl, _, hj⟩
  unfold State.cover
  split
  · exact ⟨Writing.refl .., rfl, k, hk⟩
  · next j hj =>
    have hid : j.id = id := by
      cases whole
      · cases hj
      · exact State.cmd?_id hj
    extract_lets sector held
    split
    · exact ⟨Writing.refl .., rfl, k, hk⟩
    · rw [hid]
      exact hupd _

omit hg

theorem Writing.homeWrite {pol : BitVec 2} {va pa : Nat} {v : Byte} {clears : Bool} (h : s.homeWrite pol va pa v clears = .ok t) :
    Writing g id s t ∧ t.cmd? id = s.cmd? id ∧ t.mem = s.mem.write pa v := by
  obtain ⟨-, hmem, -, hrest⟩ := State.homeWrite_cases h
  have hcmds : t.cmds = s.cmds := by rw [← hrest]
  have hcores : t.cores = s.cores := by rw [← hrest]
  have hctxs : t.ctxs = s.ctxs := by rw [← hrest]
  have hcmd : ∀ i, t.cmd? i = s.cmd? i := fun i => by rw [State.cmd?, hcmds]; rfl
  refine ⟨⟨hcores, fun a need => ?_, State.homeWrite_blocked h, by rw [hcmd]⟩, hcmd id, hmem⟩
  have hpages : t.pagesFor g = s.pagesFor g := by
    unfold State.pagesFor State.pages State.ctx
    rw [hctxs, show t.cmd? = s.cmd? from funext hcmd]
  rw [hpages]

end writing

/-! ## Bytes outside every window (R103, R125) -/

section plain
variable {s t : State} {n : Nat}

theorem State.blocked_none {pa : Nat} (hcopy : s.copying pa = false) (hlink : s.linkFault pa = none) (va : Nat) :
    s.blocked va pa = none := by
  simp [State.blocked, hcopy, hlink]

theorem State.unpublished_congr (h : t.cores = s.cores) (hu : s.unpublished n) : t.unpublished n := by
  unfold State.unpublished State.core
  rw [h]
  exact hu

variable (hu : s.unpublished n)
include hu

/-- Without a published store an agent of the core reads what memory holds. -/
theorem State.shownByte_none (pa : Nat) : s.shownByte n pa = none := by
  refine List.findSome?_eq_none_iff.mpr fun a ha => ?_
  rw [hu a (List.mem_reverse.mp ha)]
  rfl

/-- Without a published store nothing is performed early. -/
theorem State.settleShown_none (pa : Nat) : s.settleShown n pa = s := by
  have hnone : (s.core n).accs.find? (fun a => a.shown && a.left.any (a.pieceIn pa)) = none :=
    List.find?_eq_none.mpr fun a ha => by rw [hu a ha]; exact Bool.false_ne_true
  rw [State.settleShown, hnone]

theorem State.loadByte_plain {pol : BitVec 2} {va pa : Nat} (hwin : s.findWindow n va = none)
    (hblocked : ∀ a, s.blocked a pa = none)
    (hclean : s.poisoned pa = false) : s.loadByte (some n) pol va pa = .ok (s, s.mem.read pa) := by
  unfold State.loadByte State.homeSeen State.homeRead
  simp [hwin, State.shownByte_none hu, hblocked, hclean]

/-- Bytes read outside every window. -/
theorem State.loadBytes_plain {pol : BitVec 2} {va : Nat} {ps : List Nat} (hwin : ∀ i < ps.length, s.findWindow n (va + i) = none)
    (hread : s.readable ps) : s.loadBytes (some n) pol va ps = .ok (s, ps.map s.mem.read) := by
  induction ps generalizing va with
  | nil => rfl
  | cons p ps ih =>
    obtain ⟨hcopy, hlink, hclean⟩ := hread p List.mem_cons_self
    have hrest := ih (va := va + 1) (fun i hi => by
      rw [Nat.add_right_comm]; exact hwin (i + 1) (Nat.succ_lt_succ hi)) fun q hq => hread q (List.mem_cons_of_mem _ hq)
    unfold State.loadBytes
    rw [State.loadByte_plain (va := va) hu (hwin 0 (Nat.succ_pos _)) (State.blocked_none hcopy hlink) hclean]
    dsimp only
    rw [hrest]
    rfl

/-- A byte written outside every window is written at its home. -/
theorem State.storeByte_plain {g : Agent} {id : Nat} {pol : BitVec 2} {va pa : Nat} (v : Byte) (whole clears : Bool)
    (hwin : s.findWindow n va = none) (hblocked : s.blocked va pa = none) :
    ∃ t, s.storeByte (some n) pol va pa v whole clears = .ok t ∧ Writing g id s t ∧ t.cmd? id = s.cmd? id ∧
      t.mem = s.mem.write pa v := by
  obtain ⟨t, ht⟩ := State.homeWrite_ok s pol va pa v clears hblocked
  obtain ⟨hw, hcmd, hmem⟩ := Writing.homeWrite (g := g) (id := id) ht
  refine ⟨t, ?_, hw, hcmd, hmem⟩
  have halso : t.alsoWindow (some n) va pa v clears = t := by
    simp [State.alsoWindow, State.findWindow_congr hw.cores, hwin]
  unfold State.storeByte State.settleFor
  simp [State.settleShown_none hu, hwin, ht, halso]

end plain

/-- Listed bytes of a word at their translated addresses. -/
def Memory.writeAt (at_ : Nat → Nat) (m : Memory) (es : List (Nat × Byte)) : Memory :=
  es.foldl (fun m e => m.write (at_ e.1) e.2) m

/-- Bytes that a command writes outside every window are written at their homes. -/
theorem State.putBytes_plain {s : State} {n id : Nat} {g : Agent} {k : Cmd} {pol : BitVec 2} (whole : Nat → Bool)
    {at_ : Nat → Nat}
    {es : List (Nat × Byte)} (hcore : g.core = some n) (hg : g.cmd = some id) (hk : s.cmd? id = some k) (hu : s.unpublished n)
    (htr : ∀ e ∈ es, translate (s.pagesFor g) e.1 Need.write = .ok (at_ e.1)) (hwin : ∀ e ∈ es, s.findWindow n e.1 = none)
    (hblocked : ∀ e ∈ es, s.blocked e.1 (at_ e.1) = none) :
    ∃ t, s.putBytes g id pol whole es = .ok t ∧ Writing g id s t ∧ t.mem = Memory.writeAt at_ s.mem es := by
  induction es generalizing s k with
  | nil => exact ⟨s, rfl, Writing.refl .., rfl⟩
  | cons e es ih =>
    obtain ⟨va, v⟩ := e
    obtain ⟨hcover, hcmem, j, hj⟩ := Writing.cover hg hk (whole va) va (at_ va) 1
    have hcu := State.unpublished_congr hcover.cores hu
    have hcwin : (s.cover (some id) (whole va) va (at_ va) 1).1.findWindow n va = none :=
      (State.findWindow_congr hcover.cores n va).trans (hwin _ List.mem_cons_self)
    obtain ⟨t, ht, hw, hcmd, hmem⟩ := State.storeByte_plain (g := g) (id := id) (pol := pol) hcu v (whole va)
      (s.cover (some id) (whole va) va (at_ va) 1).2 hcwin ((hcover.blocked va (at_ va)).trans (hblocked _ List.mem_cons_self))
    have hst := hcover.trans hw
    obtain ⟨u, hu', hwu, humem⟩ := ih (hcmd.trans hj) (State.unpublished_congr hst.cores hu)
      (fun e he => (hst.translate e.1 _).trans (htr e (List.mem_cons_of_mem _ he)))
      (fun e he => (State.findWindow_congr hst.cores n e.1).trans (hwin e (List.mem_cons_of_mem _ he)))
      (fun e he => (hst.blocked e.1 _).trans (hblocked e (List.mem_cons_of_mem _ he)))
    refine ⟨u, ?_, hst.trans hwu, ?_⟩
    · unfold State.putBytes
      rw [htr _ List.mem_cons_self]
      dsimp only
      rw [hcore, ht]
      exact hu'
    · rw [humem, hmem, hcmem]
      rfl

section writeAt
variable {at_ : Nat → Nat} {m : Memory} {es : List (Nat × Byte)} {p : Nat}

theorem Memory.read_writeAt_other (h : ∀ e ∈ es, at_ e.1 ≠ p) : (Memory.writeAt at_ m es).read p = m.read p := by
  induction es generalizing m with
  | nil => rfl
  | cons e es ih =>
    refine (ih fun x hx => h x (List.mem_cons_of_mem _ hx)).trans ?_
    exact Memory.read_write_other m e.2 (h e List.mem_cons_self).symm

/-- Where every byte listed for an address is one, that one is read there. -/
theorem Memory.read_writeAt_in {v : Byte} (hv : ∀ e ∈ es, at_ e.1 = p → e.2 = v) (hex : ∃ e ∈ es, at_ e.1 = p) :
    (Memory.writeAt at_ m es).read p = v := by
  induction es generalizing m with
  | nil => obtain ⟨e, he, -⟩ := hex; exact absurd he List.not_mem_nil
  | cons e es ih =>
    have hrest : ∀ x ∈ es, at_ x.1 = p → x.2 = v := fun x hx => hv x (List.mem_cons_of_mem _ hx)
    by_cases hlater : ∃ x ∈ es, at_ x.1 = p
    · exact ih hrest hlater
    · have hother : ∀ x ∈ es, at_ x.1 ≠ p := fun x hx hxp => hlater ⟨x, hx, hxp⟩
      obtain ⟨x, hx, hxp⟩ := hex
      obtain rfl : x = e := (List.mem_cons.mp hx).resolve_right fun h => hother x h hxp
      refine (Memory.read_writeAt_other hother).trans ?_
      show (m.write (at_ x.1) x.2).read p = v
      rw [hxp, Memory.read_write_same]
      exact hv x List.mem_cons_self hxp

end writeAt

end Sys2Proof.Machine
end

section
/-! PROOFS. The elements of an MM.ACC, one after the other. -/

namespace Sys2Proof.Machine

/-! ## A store form begins (R93) -/

section begin
variable {s : State} {n : Nat} {k : Cmd} {l : List Nat}

theorem State.accBegin_other (h : k.var ≠ 2#4) (s : State) : s.accBegin k = s := if_pos (.inl h)

/-- Only the free values that a store form takes are noted as it begins. -/
theorem State.accBegin_eq (s : State) (k : Cmd) :
    ∃ (l : Cmd → List Nat) (f : Nat), s.accBegin k = { s.updCmd k.id fun j => { j with list := l j } with free := f } := by
  rw [State.accBegin]
  split
  · refine ⟨Cmd.list, s.free, ?_⟩
    have hmap : (s.cmds.map fun j => if j.id = k.id then { j with list := j.list } else j) = s.cmds :=
      (List.map_congr_left fun j _ => ite_self j).trans (List.map_id _)
    show s = { s with cmds := s.cmds.map fun j => if j.id = k.id then { j with list := j.list } else j }
    rw [hmap]
  · exact ⟨_, _, rfl⟩

/-- Commands of other identifiers stand as one changes. -/
theorem State.mem_updCmd_other {id : Nat} {f : Cmd → Cmd} (hf : ∀ j, (f j).id = j.id) {j : Cmd} (h : j.id ≠ id) :
    j ∈ (s.updCmd id f).cmds ↔ j ∈ s.cmds := by
  rw [State.updCmd_cmds, List.mem_map]
  constructor
  · rintro ⟨i, hi, rfl⟩
    by_cases hid : i.id = id
    · rw [if_pos hid, hf] at h
      exact absurd hid h
    · rwa [if_neg hid]
  · exact fun hj => ⟨j, hj, if_neg h⟩

/-- The command as it has begun, and the rest of the machine. -/
theorem State.accBegin_spec (hk : s.cmd? k.id = some k) :
    (∃ l, (s.accBegin k).cmd? k.id = some { k with list := l }) ∧
      (∀ g : Agent, g.cmd = some k.id → Writing g k.id s (s.accBegin k)) ∧ (s.accBegin k).mem = s.mem ∧
      (s.accBegin k).ctxs = s.ctxs ∧ ∀ j, j.id ≠ k.id → (j ∈ (s.accBegin k).cmds ↔ j ∈ s.cmds) := by
  obtain ⟨l, f, heq⟩ := s.accBegin_eq k
  rw [heq]
  have hj := State.cmd?_updCmd_same (f := fun j => { j with list := l j }) (fun _ => rfl) hk
  refine ⟨⟨l k, hj⟩, fun g hg => ?_, rfl, rfl, fun j hid => ?_⟩
  · have hw := Writing.withCmds hg hk hj rfl rfl
    exact ⟨hw.cores, hw.translate, hw.blocked, hw.done⟩
  · exact State.mem_updCmd_other (s := s) (f := fun j => { j with list := l j }) (fun _ => rfl) hid

/-! ## One step of the run (R270) -/

theorem State.runs_accBegin (hruns : s.runs k = true) (hcores : (s.accBegin k).cores = s.cores) :
    (s.accBegin k).runs { k with list := l } = true := by
  have hcore : ∀ m, (s.accBegin k).core m = s.core m := fun m => by rw [State.core, hcores]; rfl
  rw [← hruns, State.runs, State.runs, State.accsDone, State.accsDone]
  simp only [hcore]

variable (hk : s.cmd? k.id = some k) (hruns : s.runs k = true) (hj : (s.accBegin k).cmd? k.id = some { k with list := l })
  (hcores : (s.accBegin k).cores = s.cores)
include hk hruns hj hcores

/-- A started MM.ACC with elements left does its next. -/
theorem State.accRun_elem (hdone : k.done < k.regM * k.regN) (hbad : k.var = 2#4 → (s.core n).accReadBad k k.done = false) {t : State}
    (h : (s.accBegin k).accElem n { k with list := l } = .ok t) : State.accRun n k.id 1 s = t := by
  have hcore : (s.accBegin k).core n = s.core n := by rw [State.core, hcores]; rfl
  have hparity : (decide (k.var = 2#4) && ((s.accBegin k).core n).accReadBad { k with list := l } k.done) = false := by
    by_cases hv : k.var = 2#4
    · rw [hcore]
      exact (congrArg (_ && ·) (hbad hv)).trans (Bool.and_false _)
    · simp [hv]
  rw [State.accRun, hk, Option.map_some, Option.bind_some, hj, Option.map_some]
  dsimp only
  rw [if_neg (by simp [State.runs_accBegin hruns hcores])]
  refine (if_neg (Nat.not_le.mpr hdone)).trans ((if_neg (by rw [hparity]; exact Bool.false_ne_true)).trans ?_)
  rw [h]
  rfl

/-- A started MM.ACC whose elements are done completes. -/
theorem State.accRun_end (hdone : k.regM * k.regN ≤ k.done) (f : Nat) : State.accRun n k.id (f + 1) s =
    (if k.var = 2#4 then s.accBegin k else (s.accBegin k).updCore n fun c => c.setRlx k.bank false).finishCmd k.id := by
  rw [State.accRun, hk, Option.map_some, Option.bind_some, hj, Option.map_some]
  dsimp only
  rw [if_neg (by simp [State.runs_accBegin hruns hcores])]
  exact if_pos hdone

end begin

/-! ## Elements of a region -/

section region
variable (k : Cmd) {x y : Nat}

theorem Cmd.regN_pos : 0 < k.regN := Nat.succ_pos _

theorem Cmd.regRow_lt (hx : x < k.regM * k.regN) (hrow : k.regRow + k.regM ≤ 256) : k.regRow + x / k.regN < 256 := by
  have := Nat.div_lt_of_lt_mul (Nat.mul_comm k.regM k.regN ▸ hx)
  omega

theorem Cmd.regCol_lt (x : Nat) (hcol : k.regCol + k.regN ≤ 192) : k.regCol + x % k.regN < 256 := by
  have := Nat.mod_lt x k.regN_pos
  omega

end region

/-- An element's new word, and the end of its step. -/
theorem State.accNext_setAcc {s : State} {n : Nat} {k j : Cmd} (hj : s.cmd? k.id = some j) (v : BitVec 32) {row col : Nat}
    (hrow : row < 256) (hcol : col < 256) :
    let t := (s.updCore n fun c => c.setAcc k.bank row col v).accNext k
    t.mem = s.mem ∧ (∃ u, t.cmd? k.id = some u ∧ u.done = j.done + 1 ∧ u.buf = []) ∧ ∀ b i j, i < 256 → j < 256 →
      (t.core n).accWord b i j = if b = k.bank ∧ i = row ∧ j = col then v else (s.core n).accWord b i j := by
  intro t
  refine ⟨rfl, ⟨_, State.cmd?_updCmd_same (s := s.updCore n _) (fun _ => rfl) hj, rfl, rfl⟩, fun b i j hi hj => ?_⟩
  have hcore : t.core n = (s.core n).setAcc k.bank row col v := (State.core_updCmd ..).trans (State.core_updCore_same ..)
  rw [hcore, Core.accWord, Core.acc_setAcc]
  exact if_congr (accKey_inj hi hrow hj hcol) rfl rfl

/-! ## Loads (R123, R270) -/

/-- Four bytes staged in an empty buffer. -/
theorem Cmd.stage_four {k : Cmd} (hbuf : k.buf = []) (va : Nat) {bs : List Byte} (hbs : bs.length = 4) :
    (k.stage va bs).length = 4 ∧ (k.stage va bs).map Prod.snd = bs := by
  obtain ⟨b0, b1, b2, b3, rfl⟩ : ∃ b0 b1 b2 b3, bs = [b0, b1, b2, b3] := by
    match bs, hbs with
    | [b0, b1, b2, b3], _ => exact ⟨b0, b1, b2, b3, rfl⟩
  have hstage : k.stage va [b0, b1, b2, b3] = [(va, b0), (va + 1, b1), (va + 2, b2), (va + 3, b3)] := by
    simp [Cmd.stage, hbuf, List.range_succ, SMap.put]
  rw [hstage]
  exact ⟨rfl, rfl⟩

theorem State.load_plain {s : State} {n : Nat} {g : Agent} {k : Cmd} {pol : BitVec 2} {va len : Nat} {qs : List Nat}
    (hcore : g.core = some n) (hg : g.cmd = some k.id) (hk : s.cmd? k.id = some k) (hu : s.unpublished n)
    (htr : translateRange (k.tlb ++ s.pages g.ctx) va Need.read len = .ok qs) (hwin : ∀ i < len, s.findWindow n (va + i) = none)
    (hread : s.readable qs) : s.load g pol va len = .ok (s.keepPages g va len, qs.map s.mem.read) := by
  obtain ⟨hlen, -⟩ := translateRange_get htr
  have hcores : (s.keepPages g va len).cores = s.cores := by rw [State.keepPages, hg]; rfl
  have hreads : (s.keepPages g va len).readable qs := by rw [State.keepPages, hg]; exact hread
  rw [State.load, State.pagesFor_of_cmd hg hk, htr]
  dsimp only
  rw [hcore, State.loadBytes_plain (State.unpublished_congr hcores hu) (fun i hi => ?_) hreads, State.mem_keepPages]
  rw [State.findWindow_congr hcores]
  exact hwin i (hlen ▸ hi)

section load
variable {s : State} {n : Nat} {k : Cmd} {qs : List Nat} (hk : s.cmd? k.id = some k) (ho : k.owner = .core n) (hbuf : k.buf = [])
include hk ho hbuf

/-- LOAD of an element that lies in one word: what memory holds there. -/
theorem State.accLoad_word (hu : s.unpublished n) {x : Nat} (hword : k.accVa (x / k.regN) (x % k.regN) % 8 ≤ 4)
    (htr : translateRange (k.tlb ++ s.pages k.ctx) (k.accVa (x / k.regN) (x % k.regN)) Need.read 4 = .ok qs)
    (hwin : ∀ i < 4, s.findWindow n (k.accVa (x / k.regN) (x % k.regN) + i) = none) (hread : s.readable qs) :
    s.accLoad n k x = .ok (((s.keepPages k.windowAgent (k.accVa (x / k.regN) (x % k.regN)) 4).updCore n fun c =>
      c.setAcc k.bank (k.regRow + x / k.regN) (k.regCol + x % k.regN) (BitVec.ofNat 32 (leNat (qs.map s.mem.read)))).accNext k) := by
  have hagent := Cmd.windowAgent_core ho
  have hload := State.load_plain (g := k.windowAgent) (pol := k.hint) (by rw [hagent]) (by rw [hagent]) hk hu
      (by rw [hagent]; exact htr)
    hwin hread
  have hlen : (qs.map s.mem.read).length = 4 := by rw [List.length_map]; exact (translateRange_get htr).1
  obtain ⟨hall, hvals⟩ := Cmd.stage_four hbuf (k.accVa (x / k.regN) (x % k.regN)) hlen
  have hpart : Nat.min (8 - k.accVa (x / k.regN) (x % k.regN) % 8) 4 = 4 := Nat.min_eq_right (by omega)
  unfold State.accLoad
  simp only [hbuf, List.length_nil, Nat.add_zero, Nat.sub_zero, hpart]
  rw [hload]
  dsimp only
  rw [if_neg (by omega), hvals]

end load

end Sys2Proof.Machine
end

section
/-! PROOFS. An MM.ACC clears, loads and stores its elements. -/

namespace Sys2Proof.Machine

section steps
variable {s : State} {n : Nat} {k : Cmd}

/-- A piece of an MM.ACC is its next element. -/
theorem State.pieceOf_acc (hk : s.cmd? k.id = some k) (ho : k.owner = .core n) (hruns : s.runs k = true) (hopc : k.opc = 0x45#8)
    (x : Nat) : s.pieceOf k.id x = State.accRun n k.id 1 s := by
  rw [State.pieceOf, hk]
  dsimp only
  rw [if_neg (by simp [hruns]), if_pos hopc, Cmd.core?, ho]
  rfl

theorem State.accElem_zero (h : k.var = 0#4) : s.accElem n k =
    .ok ((s.updCore n fun c => c.setAcc k.bank (k.regRow + k.done / k.regN) (k.regCol + k.done % k.regN) 0#32).accNext k) := by
  rw [State.accElem, h]
  rfl

theorem State.accElem_load (h : k.var = 1#4) : s.accElem n k = s.accLoad n k k.done := by
  rw [State.accElem, h]
  rfl

theorem State.accElem_store (h : k.var = 2#4) : s.accElem n k =
    (s.accStore n k k.done).map fun s1 => (s1.raiseFor k ((s.core n).accOut k k.done).2).accNext k := by
  rw [State.accElem, h]
  rfl

end steps

/-! ## Clearing and loading (R270) -/

section fill
variable {s : State} {n : Nat} {k : Cmd} {qs : List Nat} (hk : s.cmd? k.id = some k) (ho : k.owner = .core n)
    (hruns : s.runs k = true)
  (hopc : k.opc = 0x45#8) (hrow : k.regRow + k.regM ≤ 256) (hcol : k.regCol + k.regN ≤ 192) (hdone : k.done < k.regM * k.regN)
include hk ho hruns hopc hrow hcol hdone

/-- What the next element of a form that fills the bank does. -/
theorem State.pieceOf_fill (hvar : k.var ≠ 2#4) {u : State} {j : Cmd} {v : BitVec 32}
    (h : s.accElem n k = .ok ((u.updCore n fun c =>
      c.setAcc k.bank (k.regRow + k.done / k.regN) (k.regCol + k.done % k.regN) v).accNext k))
    (hu : u.cmd? k.id = some j) (hj : j.done = k.done) (hcores : u.cores = s.cores) (hmem : u.mem = s.mem) (x : Nat) :
    (s.pieceOf k.id x).mem = s.mem ∧ (∃ i, (s.pieceOf k.id x).cmd? k.id = some i ∧ i.done = k.done + 1 ∧ i.buf = []) ∧
      ∀ b i j, i < 256 → j < 256 → ((s.pieceOf k.id x).core n).accWord b i j =
        if b = k.bank ∧ i = k.regRow + k.done / k.regN ∧ j = k.regCol + k.done % k.regN then v else (s.core n).accWord b i j := by
  have hbegin := State.accBegin_other hvar s
  have hstep := State.accRun_elem (n := n) (l := k.list) hk hruns (by rw [hbegin]; exact hk) (by rw [hbegin]) hdone
    (fun h => absurd h hvar) (by rw [hbegin]; exact h)
  have hcore : u.core n = s.core n := by rw [State.core, hcores]; rfl
  rw [State.pieceOf_acc hk ho hruns hopc, hstep]
  have hend := State.accNext_setAcc hu (n := n) v (k.regRow_lt hdone hrow) (k.regCol_lt k.done hcol)
  rw [hj, hcore, hmem] at hend
  exact hend

theorem pieceOf_accZero (hvar : k.var = 0#4) (x : Nat) :
    (s.pieceOf k.id x).mem = s.mem ∧ (∃ i, (s.pieceOf k.id x).cmd? k.id = some i ∧ i.done = k.done + 1 ∧ i.buf = []) ∧
      ∀ b i j, i < 256 → j < 256 → ((s.pieceOf k.id x).core n).accWord b i j =
        if b = k.bank ∧ i = k.regRow + k.done / k.regN ∧ j = k.regCol + k.done % k.regN then 0 else (s.core n).accWord b i j :=
  State.pieceOf_fill hk ho hruns hopc hrow hcol hdone (by simp [hvar]) (State.accElem_zero hvar) hk rfl rfl rfl x

theorem pieceOf_accLoad (hbuf : k.buf = []) (hu : s.unpublished n) (hvar : k.var = 1#4)
    (hword : k.accVa (k.done / k.regN) (k.done % k.regN) % 8 ≤ 4)
    (htr : translateRange (k.tlb ++ s.pages k.ctx) (k.accVa (k.done / k.regN) (k.done % k.regN)) Need.read 4 = .ok qs)
    (hwin : ∀ i < 4, s.findWindow n (k.accVa (k.done / k.regN) (k.done % k.regN) + i) = none) (hread : s.readable qs) (x : Nat) :
    (s.pieceOf k.id x).mem = s.mem ∧ (∃ i, (s.pieceOf k.id x).cmd? k.id = some i ∧ i.done = k.done + 1 ∧ i.buf = []) ∧
      ∀ b i j, i < 256 → j < 256 → ((s.pieceOf k.id x).core n).accWord b i j =
        if b = k.bank ∧ i = k.regRow + k.done / k.regN ∧ j = k.regCol + k.done % k.regN then
          BitVec.ofNat 32 (leNat (qs.map s.mem.read)) else (s.core n).accWord b i j := by
  have hg : k.windowAgent.cmd = some k.id := by rw [Cmd.windowAgent_core ho]
  obtain ⟨tl, htl⟩ := (Reads.keepPages n k.id s k.windowAgent hg (k.accVa (k.done / k.regN) (k.done % k.regN)) 4).cmd? hk
  have hcores : (s.keepPages k.windowAgent (k.accVa (k.done / k.regN) (k.done % k.regN)) 4).cores = s.cores := by
    rw [State.keepPages, hg]
    rfl
  exact State.pieceOf_fill hk ho hruns hopc hrow hcol hdone (by simp [hvar])
    ((State.accElem_load hvar).trans (State.accLoad_word hk ho hbuf hu hword htr hwin hread)) htl rfl hcores
        (State.mem_keepPages ..) x

end fill

/-! ## Storing (R93, R270) -/

section words
variable (k : Cmd)

theorem Cmd.accSize_cases : k.accSize = 4 ∨ k.accSize = 2 := by
  unfold Cmd.accSize
  split
  · exact .inl rfl
  · exact .inr rfl

/-- Address of element y. -/
def Cmd.accAt (y : Nat) : Nat := k.accVa (y / k.regN) (y % k.regN)

variable {k} (ha : k.a.toNat % k.accSize = 0) (hb : k.b.toNat % k.accSize = 0)
include ha hb

/-- An element of an aligned region is aligned. -/
theorem Cmd.accAt_aligned (y : Nat) : k.accAt y % k.accSize = 0 := by
  have hstride : (k.accSize : Int) ∣ sx k.b.toNat 64 := by
    unfold sx
    rcases k.accSize_cases with h | h <;> rw [h] at hb ⊢ <;> dsimp only <;> split <;> omega
  have hsum : (k.accSize : Int) ∣ k.a.toNat + (y / k.regN : Nat) * sx k.b.toNat 64 + (k.accSize * (y % k.regN) : Nat) :=
    ((Int.natCast_dvd_natCast.mpr (Nat.dvd_of_mod_eq_zero ha)).add (hstride.mul_left _)).add
      (Int.natCast_dvd_natCast.mpr (Nat.dvd_mul_right ..))
  unfold Cmd.accAt Cmd.accVa wrapVa
  generalize (k.a.toNat : Int) + (y / k.regN : Nat) * sx k.b.toNat 64 + (k.accSize * (y % k.regN) : Nat) = z at hsum ⊢
  rcases k.accSize_cases with h | h <;> rw [h] at hsum ⊢ <;> omega

/-- Its bytes lie in one word. -/
theorem Cmd.accAt_word (y : Nat) {i : Nat} (hi : i < k.accSize) : (k.accAt y + i) / 8 = k.accAt y / 8 := by
  have haligned := Cmd.accAt_aligned ha hb y
  rcases k.accSize_cases with h | h <;> rw [h] at hi haligned <;> omega

theorem Cmd.accWords_aligned (y : Nat) : k.accWords y = [k.accAt y / 8] := by
  have hlast := Cmd.accAt_word ha hb y (i := k.accSize - 1) (by rcases k.accSize_cases with h | h <;> omega)
  have hlast' : (k.accAt y + k.accSize - 1) / 8 = k.accAt y / 8 := by
    rw [← hlast]
    rcases k.accSize_cases with h | h <;> rw [h] <;> rfl
  show [k.accAt y / 8, (k.accAt y + k.accSize - 1) / 8].dedup = _
  rw [hlast']
  simp

end words

/-! ### Bytes of one word -/

section listed
variable {α : Type} {m : SMap α} {i : Nat} {v : α} {e : Nat × α}

theorem SMap.mem_put (h : e ∈ SMap.put m i v) : e = (i, v) ∨ e ∈ m := by
  induction m with
  | nil => exact .inl (List.mem_singleton.mp h)
  | cons x m ih =>
    unfold SMap.put at h
    split at h
    · next hi =>
      rcases List.mem_cons.mp h with rfl | h
      · exact .inl (by rw [hi])
      · exact .inr (List.mem_cons_of_mem _ h)
    · split at h
      · exact List.mem_cons.mp h
      · rcases List.mem_cons.mp h with rfl | h
        · exact .inr List.mem_cons_self
        · exact (ih h).imp_right (List.mem_cons_of_mem _)

/-- The keys after a put: its own and those that were there. -/
theorem SMap.key_put {a : Nat} (h : a = i ∨ ∃ w, (a, w) ∈ m) : ∃ w, (a, w) ∈ SMap.put m i v := by
  induction m with
  | nil =>
    obtain rfl : a = i := h.resolve_right fun ⟨w, hw⟩ => List.not_mem_nil hw
    exact ⟨v, List.mem_singleton.mpr rfl⟩
  | cons x m ih =>
    unfold SMap.put
    split
    · next hi =>
      rcases h with rfl | ⟨w, hw⟩
      · exact ⟨v, by rw [hi]; exact List.mem_cons_self⟩
      · rcases List.mem_cons.mp hw with rfl | hw
        · exact ⟨v, List.mem_cons_self⟩
        · exact ⟨w, List.mem_cons_of_mem _ hw⟩
    · split
      · rcases h with rfl | ⟨w, hw⟩
        · exact ⟨v, List.mem_cons_self⟩
        · exact ⟨w, List.mem_cons_of_mem _ hw⟩
      · rcases h with h | ⟨w, hw⟩
        · exact (ih (.inl h)).imp fun _ => List.mem_cons_of_mem _
        · rcases List.mem_cons.mp hw with rfl | hw
          · exact ⟨_, List.mem_cons_self⟩
          · exact (ih (.inr ⟨w, hw⟩)).imp fun _ => List.mem_cons_of_mem _

end listed

/-- A pass reaches what one of its steps reaches and all of them keep. -/
theorem foldl_reaches {σ ι : Type} {f : σ → ι → σ} {Q : σ → Prop} (hkeep : ∀ st p, Q st → Q (f st p)) {l : List ι} {p : ι}
    (hp : p ∈ l)
    (hreach : ∀ st, Q (f st p)) (st : σ) : Q (l.foldl f st) := by
  induction l generalizing st with
  | nil => exact absurd hp List.not_mem_nil
  | cons q l ih =>
    rcases List.mem_cons.mp hp with rfl | hp
    · exact List.foldlRecOn (motive := Q) l f (hreach st) fun st h q _ => hkeep st q h
    · exact ih hp _

/-- Bytes from an address on, of which those in word w are listed. -/
def putWord (w va : Nat) (bs : List Byte) (m : SMap Byte) : SMap Byte :=
  ((List.range bs.length).zip bs).foldl (fun m p => if (va + p.1) / 8 = w then SMap.put m (va + p.1) p.2 else m) m

theorem mem_zip_range {bs : List Byte} {p : Nat × Byte} (h : p ∈ (List.range bs.length).zip bs) :
    p.1 < bs.length ∧ p.2 = bs.getD p.1 0 := by
  obtain ⟨i, hi, rfl⟩ := List.mem_iff_getElem.mp h
  have hlen : i < bs.length := by simpa using hi
  simp [hlen]

theorem mem_putWord {w va : Nat} {bs : List Byte} {m : SMap Byte} {e : Nat × Byte} (h : e ∈ putWord w va bs m) :
    e ∈ m ∨ ∃ i < bs.length, e = (va + i, bs.getD i 0) := by
  refine List.foldlRecOn (motive := fun m' : SMap Byte => e ∈ m' → e ∈ m ∨ ∃ i < bs.length, e = (va + i, bs.getD i 0)) _ _ .inl ?_ h
  intro m' ih p hp he
  split at he
  · rcases SMap.mem_put he with rfl | he
    · obtain ⟨hlt, hval⟩ := mem_zip_range hp
      exact .inr ⟨p.1, hlt, by rw [hval]⟩
    · exact ih he
  · exact ih he

theorem putWord_keeps {w va a : Nat} {bs : List Byte} {m : SMap Byte} (h : ∃ v, (a, v) ∈ m) : ∃ v, (a, v) ∈ putWord w va bs m := by
  refine List.foldlRecOn (motive := fun m : SMap Byte => ∃ v, (a, v) ∈ m) _ _ h fun m ih p _ => ?_
  split
  · exact SMap.key_put (.inr ih)
  · exact ih

theorem putWord_reaches {w va i : Nat} {bs : List Byte} (hi : i < bs.length) (hw : (va + i) / 8 = w) (m : SMap Byte) :
    ∃ v, (va + i, v) ∈ putWord w va bs m := by
  have hp : (i, bs.getD i 0) ∈ (List.range bs.length).zip bs := List.mem_iff_getElem.mpr ⟨i, by simpa using hi, by simp [hi]⟩
  refine foldl_reaches (Q := fun m : SMap Byte => ∃ v, (va + i, v) ∈ m) (fun m p h => ?_) hp (fun m => ?_) m
  · split
    · exact SMap.key_put (.inr h)
    · exact h
  · rw [if_pos hw]
    exact SMap.key_put (.inl rfl)

section bytes
variable (c : Core) (k : Cmd) (w : Nat)

theorem Core.accBytes_eq : c.accBytes k w = ((List.range (k.regM * k.regN)).filter fun y => decide (w ∈ k.accWords y)).foldl
    (fun m y => putWord w (k.accAt y) (c.accOut k y).1 m) [] := rfl

theorem Core.length_accOut (y : Nat) : (c.accOut k y).1.length = k.accSize := by
  unfold Core.accOut Cmd.accSize
  dsimp only
  split <;> exact leBytes_length ..

variable {c k w}

/-- What a word takes are bytes of its elements. -/
theorem Core.mem_accBytes {e : Nat × Byte} (h : e ∈ c.accBytes k w) :
    ∃ y < k.regM * k.regN, w ∈ k.accWords y ∧ ∃ i < k.accSize, e = (k.accAt y + i, (c.accOut k y).1.getD i 0) := by
  rw [Core.accBytes_eq] at h
  refine List.foldlRecOn (motive := fun m : SMap Byte => e ∈ m → ∃ y < k.regM * k.regN, w ∈ k.accWords y ∧
    ∃ i < k.accSize, e = (k.accAt y + i, (c.accOut k y).1.getD i 0)) _ _ (fun h => absurd h List.not_mem_nil) ?_ h
  intro m ih y hy he
  obtain ⟨hy, hw⟩ := List.mem_filter.mp hy
  rcases mem_putWord he with he | ⟨i, hi, heq⟩
  · exact ih he
  · exact ⟨y, List.mem_range.mp hy, of_decide_eq_true hw, i, c.length_accOut k y ▸ hi, heq⟩

/-- Each byte of each of its elements that lies in it is there. -/
theorem Core.key_accBytes {y i : Nat} (hy : y < k.regM * k.regN) (hw : w ∈ k.accWords y) (hi : i < k.accSize)
    (hword : (k.accAt y + i) / 8 = w) : ∃ v, (k.accAt y + i, v) ∈ c.accBytes k w := by
  rw [Core.accBytes_eq]
  refine foldl_reaches (Q := fun m : SMap Byte => ∃ v, (k.accAt y + i, v) ∈ m) (fun m z h => putWord_keeps h)
    (List.mem_filter.mpr ⟨List.mem_range.mpr hy, decide_eq_true hw⟩) (fun m => putWord_reaches ?_ hword m) []
  rw [c.length_accOut k y]
  exact hi

end bytes

end Sys2Proof.Machine
end

section
/-! PROOFS. An MM.ACC stores the words of its region. -/

namespace Sys2Proof.Machine

/-! ## Places of the bytes of a region -/

/-- The physical address that a byte is written to, where it has one. -/
def placeOf (pages : List Page) (va : Nat) : Nat :=
  match translate pages va Need.write with
  | .ok p => p
  | .error _ => 0

theorem translate_placeOf {pages : List Page} {va len : Nat} {ps : List Nat} (h : translateRange pages va Need.write len = .ok ps)
    {i : Nat} (hi : i < len) :
    translate pages (va + i) Need.write = .ok (placeOf pages (va + i)) ∧ placeOf pages (va + i) = ps.getD i 0 := by
  have hget := (translateRange_get h).2 i hi
  have hplace : placeOf pages (va + i) = ps.getD i 0 := by rw [placeOf, hget]
  exact ⟨hget.trans (congrArg _ hplace.symm), hplace⟩

/-- Of lists that share no place, a place names its list and its place there. -/
theorem nodup_flatMap_inj {m : Nat} {qs : Nat → List Nat} (h : ((List.range m).flatMap qs).Nodup) {y z i j : Nat} (hy : y < m)
    (hz : z < m)
    (hi : i < (qs y).length) (hj : j < (qs z).length) (heq : (qs y).getD i 0 = (qs z).getD j 0) : y = z ∧ i = j := by
  obtain ⟨heach, hpair⟩ := List.nodup_flatMap.mp h
  rw [List.getD_eq_getElem _ _ hi, List.getD_eq_getElem _ _ hj] at heq
  have hyz : y = z := by
    by_contra hne
    have : Std.Symm (Function.onFun List.Disjoint qs) := ⟨fun _ _ => List.Disjoint.symm⟩
    have hdisjoint : List.Disjoint (qs y) (qs z) := hpair.forall (List.mem_range.mpr hy) (List.mem_range.mpr hz) hne
    exact hdisjoint (List.getElem_mem hi) (heq ▸ List.getElem_mem hj)
  subst hyz
  exact ⟨rfl, (List.Nodup.getElem_inj_iff (heach y (List.mem_range.mpr hy))).mp heq⟩

/-! ## A word written whole (R139) -/

section stored
variable {c : Core} {k : Cmd} {pages : List Page} {qs : Nat → List Nat} {w : Nat} (m : Memory)
  (ha : k.a.toNat % k.accSize = 0) (hb : k.b.toNat % k.accSize = 0)
  (hqs : ∀ y < k.regM * k.regN, translateRange pages (k.accAt y) Need.write k.accSize = .ok (qs y))
include ha hb hqs

/-- What a word takes goes to the places of its elements. -/
theorem place_accBytes {e : Nat × Byte} (h : e ∈ c.accBytes k w) : ∃ y < k.regM * k.regN, k.accAt y / 8 = w ∧ ∃ i < k.accSize,
    e = (k.accAt y + i, (c.accOut k y).1.getD i 0) ∧ placeOf pages e.1 = (qs y).getD i 0 := by
  obtain ⟨y, hy, hw, i, hi, rfl⟩ := Core.mem_accBytes h
  rw [Cmd.accWords_aligned ha hb] at hw
  exact ⟨y, hy, (List.mem_singleton.mp hw).symm, i, hi, rfl, (translate_placeOf (hqs y hy) hi).2⟩

theorem stored_other {p : Nat} (hp : ∀ y < k.regM * k.regN, k.accAt y / 8 = w → p ∉ qs y) :
    (Memory.writeAt (placeOf pages) m (c.accBytes k w)).read p = m.read p := by
  refine Memory.read_writeAt_other fun e he heq => ?_
  obtain ⟨y, hy, hw, i, hi, -, hplace⟩ := place_accBytes ha hb hqs he
  have hlen : i < (qs y).length := (translateRange_get (hqs y hy)).1.symm ▸ hi
  refine hp y hy hw ?_
  rw [← heq, hplace, List.getD_eq_getElem _ _ hlen]
  exact List.getElem_mem hlen

variable (hnodup : ((List.range (k.regM * k.regN)).flatMap qs).Nodup)
include hnodup

theorem stored_byte {y i : Nat} (hy : y < k.regM * k.regN) (hw : k.accAt y / 8 = w) (hi : i < k.accSize) :
    (Memory.writeAt (placeOf pages) m (c.accBytes k w)).read ((qs y).getD i 0) = (c.accOut k y).1.getD i 0 := by
  have hlen : ∀ z < k.regM * k.regN, (qs z).length = k.accSize := fun z hz => (translateRange_get (hqs z hz)).1
  refine Memory.read_writeAt_in (fun e he heq => ?_) ?_
  · obtain ⟨z, hz, -, j, hj, rfl, hplace⟩ := place_accBytes ha hb hqs he
    obtain ⟨rfl, rfl⟩ := nodup_flatMap_inj hnodup hz hy (hlen z hz ▸ hj) (hlen y hy ▸ hi) (hplace.symm.trans heq)
    rfl
  · obtain ⟨v, hv⟩ := Core.key_accBytes (c := c) (w := w) hy
      (by rw [Cmd.accWords_aligned ha hb, hw]; exact List.mem_singleton.mpr rfl)
      hi ((Cmd.accAt_word ha hb y hi).trans hw)
    exact ⟨_, hv, (translate_placeOf (hqs y hy) hi).2⟩

/-- Each element of a word stands where it belongs. -/
theorem stored_element {y : Nat} (hy : y < k.regM * k.regN) (hw : k.accAt y / 8 = w) :
    (qs y).map (Memory.writeAt (placeOf pages) m (c.accBytes k w)).read = (c.accOut k y).1 := by
  have hlen : (qs y).length = k.accSize := (translateRange_get (hqs y hy)).1
  have hout := c.length_accOut k y
  refine List.ext_getElem (by rw [List.length_map, hlen, hout]) fun i hi hi' => ?_
  have hiq : i < (qs y).length := by rwa [List.length_map] at hi
  have hbyte := stored_byte (c := c) m ha hb hqs hnodup hy hw (hlen ▸ hiq)
  rw [List.getD_eq_getElem _ _ hiq, List.getD_eq_getElem _ _ hi'] at hbyte
  rw [List.getElem_map]
  exact hbyte

end stored

/-! ## The store of an element (R139, R262) -/

section store
variable {s : State} {n : Nat} {k : Cmd} {qs : Nat → List Nat} (hk : s.cmd? k.id = some k) (ho : k.owner = .core n)
  (hu : s.unpublished n) (hapart : pagesApart (s.pages k.ctx))
  (ha : k.a.toNat % k.accSize = 0) (hb : k.b.toNat % k.accSize = 0)
  (hqs : ∀ y < k.regM * k.regN, translateRange (k.tlb ++ s.pages k.ctx) (k.accAt y) Need.write k.accSize = .ok (qs y))
include hk ho ha hb hqs

/-- An element whose word was written with an element before it writes nothing. -/
theorem State.accStore_later {x y : Nat} (hx : x < k.regM * k.regN) (hy : y < x) (hword : k.accAt y / 8 = k.accAt x / 8) :
    s.accStore n k x = .ok s := by
  have hagent := Cmd.windowAgent_core ho
  have hpages : s.pagesFor k.windowAgent = k.tlb ++ s.pages k.ctx := by
    rw [State.pagesFor_of_cmd (by rw [hagent]) hk, hagent]
  have hfirst : ((k.accWords x).filter fun w => (List.range x).all fun y => decide (w ∉ k.accWords y)) = [] := by
    refine List.filter_eq_nil_iff.mpr fun w hw hall => ?_
    rw [Cmd.accWords_aligned ha hb] at hw
    have hnot := of_decide_eq_true (List.all_eq_true.mp hall y (List.mem_range.mpr hy))
    rw [Cmd.accWords_aligned ha hb, hword] at hnot
    exact hnot hw
  unfold State.accStore
  dsimp only
  rw [hpages]
  change (match translateRange _ (k.accAt x) _ _ with | .error f => _ | .ok _ => _) = _
  rw [hqs x hx, hfirst]
  rfl

include hu hapart

/-- The first element of a word writes all of it. -/
theorem State.accStore_first (hwin : ∀ y < k.regM * k.regN, ∀ i < k.accSize, s.findWindow n (k.accAt y + i) = none)
    (hblocked : ∀ y < k.regM * k.regN, ∀ p ∈ qs y, ∀ a, s.blocked a p = none) {x : Nat} (hx : x < k.regM * k.regN)
    (hword : ∀ y < x, k.accAt y / 8 ≠ k.accAt x / 8) : ∃ t, s.accStore n k x = .ok t ∧ Writing k.windowAgent k.id s t ∧
      t.mem = Memory.writeAt (placeOf (k.tlb ++ s.pages k.ctx)) s.mem ((s.core n).accBytes k (k.accAt x / 8)) := by
  have hagent := Cmd.windowAgent_core ho
  have hg : k.windowAgent.cmd = some k.id := by rw [hagent]
  have hcore : k.windowAgent.core = some n := by rw [hagent]
  have hctx : k.windowAgent.ctx = k.ctx := by rw [hagent]
  have hpages : s.pagesFor k.windowAgent = k.tlb ++ s.pages k.ctx := by rw [State.pagesFor_of_cmd hg hk, hctx]
  have hfirst : ((k.accWords x).filter fun w => (List.range x).all fun y => decide (w ∉ k.accWords y)) = [k.accAt x / 8] := by
    rw [Cmd.accWords_aligned ha hb]
    refine List.filter_eq_self.mpr fun w hw => List.all_eq_true.mpr fun y hy => decide_eq_true ?_
    rw [Cmd.accWords_aligned ha hb, List.mem_singleton, List.mem_singleton.mp hw]
    exact (hword y (List.mem_range.mp hy)).symm
  have hkeep := Writing.keepPages hg hk (hctx ▸ hapart) (8 * (k.accAt x / 8)) 8
  obtain ⟨j, hj⟩ : ∃ j, (s.keepPages k.windowAgent (8 * (k.accAt x / 8)) 8).cmd? k.id = some j := by
    obtain ⟨tl, htl⟩ := (Reads.keepPages n k.id s k.windowAgent hg (8 * (k.accAt x / 8)) 8).cmd? hk
    exact ⟨_, htl⟩
  obtain ⟨htear, hj'⟩ := Writing.tear hg hj (8 * (k.accAt x / 8)) 8
  have hready := hkeep.trans htear
  have htr : ∀ e ∈ (s.core n).accBytes k (k.accAt x / 8),
      translate (((s.keepPages k.windowAgent (8 * (k.accAt x / 8)) 8).tear (some k.id) k.windowAgent
          (8 * (k.accAt x / 8)) 8).pagesFor
        k.windowAgent) e.1 Need.write = .ok (placeOf (k.tlb ++ s.pages k.ctx) e.1) := fun e he => by
    obtain ⟨y, hy, -, i, hi, rfl, -⟩ := place_accBytes ha hb hqs he
    rw [hready.translate, hpages]
    exact (translate_placeOf (hqs y hy) hi).1
  obtain ⟨t, ht, hwriting, hmem⟩ := State.putBytes_plain (pol := k.hint)
    (fun v => (List.range 128).all fun b => (List.range k.regM).any fun r => k.accRowHas r (v / 128 * 128 + b)) hcore hg hj'
    (State.unpublished_congr hready.cores hu) htr
    (fun e he => by
      obtain ⟨y, hy, -, i, hi, rfl, -⟩ := place_accBytes ha hb hqs he
      rw [State.findWindow_congr hready.cores]
      exact hwin y hy i hi)
    (fun e he => by
      obtain ⟨y, hy, -, i, hi, rfl, hplace⟩ := place_accBytes ha hb hqs he
      have hlen : i < (qs y).length := (translateRange_get (hqs y hy)).1.symm ▸ hi
      rw [hready.blocked, hplace, List.getD_eq_getElem _ _ hlen]
      exact hblocked y hy _ (List.getElem_mem hlen) _)
  refine ⟨t, ?_, hready.trans hwriting, by rw [hmem, State.mem_tear, State.mem_keepPages]⟩
  unfold State.accStore
  dsimp only
  rw [hpages]
  change (match translateRange _ (k.accAt x) _ _ with | .error f => _ | .ok _ => _) = _
  rw [hqs x hx, hfirst]
  exact ht

end store

end Sys2Proof.Machine
end

section
/-! PROOFS. A store form of MM.ACC goes on and an MM.ACC completes. -/

namespace Sys2Proof.Machine

/-! ## Words written out (R93) -/

section out
variable (c : Core) (k : Cmd) (y : Nat)

/-- A word written out keeps all but its last four bits, and those too where the bank is not relaxed or the value not finite. -/
theorem Core.outWord_value (b i j free : Nat) :
    (c.outWord b i j free).toNat / 16 = (c.accWord b i j).toNat / 16 ∧
      (c.rlx b = false ∨ (c.accWord b i j).toNat / 2 ^ 23 % 256 = 255 → c.outWord b i j free = c.accWord b i j) := by
  unfold Core.outWord
  dsimp only
  split
  · next h =>
    obtain ⟨hrlx, hexp⟩ := (Bool.and_eq_true _ _).mp h
    have hlt := (c.accWord b i j).isLt
    refine ⟨?_, fun h => ?_⟩
    · rw [BitVec.toNat_ofNat, Nat.mod_eq_of_lt (by omega)]
      omega
    · rcases h with h | h
      · exact absurd (hrlx.symm.trans h) (by decide)
      · exact absurd h (of_decide_eq_true hexp)
  · exact ⟨rfl, fun _ => rfl⟩

/-- The bytes of an element stored as FP32. -/
theorem Core.accOut_word (h : k.w3.toNat / 2 ^ 29 % 4 = 0) :
    let word := c.accWord k.bank (k.regRow + y / k.regN) (k.regCol + y % k.regN)
    ∃ v, v < 2 ^ 32 ∧ (c.accOut k y).1 = leBytes 4 v ∧ v / 16 = word.toNat / 16 ∧
      (c.rlx k.bank = false ∨ word.toNat / 2 ^ 23 % 256 = 255 → v = word.toNat) := by
  obtain ⟨hkept, hexact⟩ := c.outWord_value k.bank (k.regRow + y / k.regN) (k.regCol + y % k.regN) (k.list.headD 0 + y)
  exact ⟨_, BitVec.isLt _, congrArg Prod.fst (if_pos h), hkept, fun hx => congrArg BitVec.toNat (hexact hx)⟩

/-- The bytes of an element stored as BF16 or FP16. -/
theorem Core.accOut_half (h : k.w3.toNat / 2 ^ 29 % 4 ≠ 0) : (c.accOut k y).1 =
    leBytes 2 ((if k.w3.toNat / 2 ^ 29 % 4 = 1 then FloatFmt.bf16 else FloatFmt.fp16).round
      (FloatFmt.fp32.decode (c.accWord k.bank (k.regRow + y / k.regN) (k.regCol + y % k.regN)).toNat) .rne).1 :=
  congrArg Prod.fst (if_neg h)

end out

/-! ## The next element of a store form -/

section store
variable {s : State} {n : Nat} {k : Cmd} {qs : Nat → List Nat} (hk : s.cmd? k.id = some k) (ho : k.owner = .core n)
  (hruns : s.runs k = true) (hopc : k.opc = 0x45#8) (hvar : k.var = 2#4) (hdone : k.done < k.regM * k.regN)
  (hbad : (s.core n).accReadBad k k.done = false)
include hk ho hruns hopc hvar hdone hbad

/-- What follows the store of an element. -/
theorem State.pieceOf_store {l : List Nat} {u : State} (hj : (s.accBegin k).cmd? k.id = some { k with list := l })
    (hbegin : Writing k.windowAgent k.id s (s.accBegin k)) (hstore : (s.accBegin k).accStore n { k with list := l } k.done = .ok u)
    (hu : Writing k.windowAgent k.id (s.accBegin k) u) (x : Nat) :
    (s.pieceOf k.id x).mem = u.mem ∧ ∃ i, (s.pieceOf k.id x).cmd? k.id = some i ∧ i.done = k.done + 1 ∧ i.buf = [] := by
  have helem : (s.accBegin k).accElem n { k with list := l } =
      .ok ((u.raise n (((s.accBegin k).core n).accOut { k with list := l } k.done).2).accNext { k with list := l }) := by
    rw [State.accElem_store (k := { k with list := l }) hvar, hstore, Except.map, State.raiseFor_core
        (k := { k with list := l }) ho]
  rw [State.pieceOf_acc hk ho hruns hopc, State.accRun_elem hk hruns hj hbegin.cores hdone (fun _ => hbad) helem]
  refine ⟨State.mem_raise .., ?_⟩
  have hdone' := hu.done
  rw [hj] at hdone'
  obtain ⟨i, hi, hid⟩ := Option.map_eq_some_iff.mp hdone'
  refine ⟨_, State.cmd?_updCmd_same (k := i) (fun _ => rfl) ?_, congrArg (· + 1) hid, rfl⟩
  rw [State.cmd?, State.cmds_raise]
  exact hi

variable (hu : s.unpublished n) (hapart : pagesApart (s.pages k.ctx))
  (ha : k.a.toNat % k.accSize = 0) (hb : k.b.toNat % k.accSize = 0)
  (hqs : ∀ y < k.regM * k.regN, translateRange (k.tlb ++ s.pages k.ctx) (k.accAt y) Need.write k.accSize = .ok (qs y))
include hu hapart ha hb hqs

/-- A word is written whole as the first of its elements is stored, and the others find it written. -/
theorem pieceOf_accStore (hwin : ∀ y < k.regM * k.regN, ∀ i < k.accSize, s.findWindow n (k.accAt y + i) = none)
    (hblocked : ∀ y < k.regM * k.regN, ∀ p ∈ qs y, ∀ a, s.blocked a p = none) (x : Nat) :
    (∃ i, (s.pieceOf k.id x).cmd? k.id = some i ∧ i.done = k.done + 1 ∧ i.buf = []) ∧
      ((∃ y < k.done, k.accAt y / 8 = k.accAt k.done / 8) → (s.pieceOf k.id x).mem = s.mem) ∧
      ((∀ y < k.done, k.accAt y / 8 ≠ k.accAt k.done / 8) → ∃ l, (s.pieceOf k.id x).mem =
        Memory.writeAt (placeOf (k.tlb ++ s.pages k.ctx)) s.mem ((s.core n).accBytes { k with list := l } (k.accAt k.done / 8))) := by
  obtain ⟨⟨l, hj⟩, hbegin, hmem, hctxs, -⟩ := State.accBegin_spec hk
  have hbegin := hbegin k.windowAgent (by rw [Cmd.windowAgent_core ho])
  have hpages : (s.accBegin k).pages k.ctx = s.pages k.ctx := by rw [State.pages, State.ctx, hctxs]; rfl
  have hqs' : ∀ y < k.regM * k.regN, translateRange (k.tlb ++ (s.accBegin k).pages k.ctx) (k.accAt y) Need.write k.accSize =
      .ok (qs y) :=
    fun y hy => by rw [hpages]; exact hqs y hy
  by_cases hfirst : ∃ y < k.done, k.accAt y / 8 = k.accAt k.done / 8
  · obtain ⟨y, hy, hword⟩ := hfirst
    have hstore := State.accStore_later (k := { k with list := l }) hj ho ha hb hqs' hdone hy hword
    obtain ⟨hsame, hnext⟩ := State.pieceOf_store hk ho hruns hopc hvar hdone hbad hj hbegin hstore (Writing.refl ..) x
    exact ⟨hnext, fun _ => hsame.trans hmem, fun h => absurd hword (h y hy)⟩
  · have hfirst' : ∀ y < k.done, k.accAt y / 8 ≠ k.accAt k.done / 8 := fun y hy hword => hfirst ⟨y, hy, hword⟩
    obtain ⟨u, hstore, hwriting, humem⟩ := State.accStore_first (k := { k with list := l }) hj ho
      (State.unpublished_congr hbegin.cores hu) (by rw [hpages]; exact hapart) ha hb hqs'
      (fun y hy i hi => by rw [State.findWindow_congr hbegin.cores]; exact hwin y hy i hi)
      (fun y hy p hp a => by rw [hbegin.blocked]; exact hblocked y hy p hp a) hdone hfirst'
    obtain ⟨hsame, hnext⟩ := State.pieceOf_store hk ho hruns hopc hvar hdone hbad hj hbegin hstore hwriting x
    refine ⟨hnext, fun h => absurd h hfirst, fun _ => ⟨l, ?_⟩⟩
    have hcore : (s.accBegin k).core n = s.core n := by rw [State.core, hbegin.cores]; rfl
    rw [hsame, humem, hmem, hcore, hpages]
    rfl

end store

/-! ## Completion (R270) -/

section complete
variable {s s1 t : State} {n : Nat} {k : Cmd} {l : List Nat} {c : Core}

/-- A completion of a command whose list alone has changed. -/
theorem Completed.before (h : Completed s1 t n { k with list := l } c) (hcmds : ∀ j, j.id ≠ k.id → (j ∈ s1.cmds ↔ j ∈ s.cmds))
    (hcores : ∀ m, m ≠ n → s1.core m = s.core m) : Completed s t n k c :=
  { h with
    others := fun j hid hbatch => (h.others j hid hbatch).trans (hcmds j hid)
    cores := fun m hm => (h.cores m hm).trans (hcores m hm) }

theorem State.completeOf_acc (ho : k.owner = .core n) (hopc : k.opc = 0x45#8) : s.completeOf k = s.accGo n k := by
  have hcore : k.core?.getD 0 = n := by rw [Cmd.core?, ho]; rfl
  rw [State.completeOf, hcore, hopc]
  rfl

/-- An MM.ACC whose elements are done completes; a form that fills the bank leaves it not relaxed. -/
theorem commandComplete_acc (hk : s.cmd? k.id = some k) (ho : k.owner = .core n) (hruns : s.runs k = true) (hopc : k.opc = 0x45#8)
    (hdone : k.regM * k.regN ≤ k.done) : ∃ t, exec (.commandComplete k.id) s = .next t ∧ t.mem = s.mem ∧
      Completed s t n k (if k.var = 2#4 then s.core n else (s.core n).setRlx k.bank false) := by
  obtain ⟨⟨l, hj⟩, hbegin, hmem, -, hcmds⟩ := State.accBegin_spec hk
  have hbegin := hbegin k.windowAgent (by rw [Cmd.windowAgent_core ho])
  have hcore : ∀ m, (s.accBegin k).core m = s.core m := fun m => by rw [State.core, hbegin.cores]; rfl
  rw [exec_commandComplete hk ho hruns, State.completeOf_acc ho hopc, State.accGo,
    State.accRun_end hk hruns hj hbegin.cores hdone (2 * (k.regM * k.regN - k.done) + 1)]
  refine ⟨_, rfl, ?_⟩
  by_cases hvar : k.var = 2#4
  · rw [if_pos hvar, if_pos hvar]
    refine ⟨(State.mem_finishCmd ..).trans hmem, ?_⟩
    have h := completed_finishCmd (k := { k with list := l }) hj ho
    rw [hcore] at h
    exact h.before hcmds fun m _ => hcore m
  · rw [if_neg hvar, if_neg hvar]
    refine ⟨(State.mem_finishCmd ..).trans hmem, ?_⟩
    have h := completed_finishCmd (s := (s.accBegin k).updCore n fun c => c.setRlx k.bank false) (k := { k with list := l }) hj ho
    rw [State.core_updCore_same, hcore] at h
    exact h.before hcmds fun m hm => (State.core_updCore_other _ _ _ _ hm).trans (hcore m)

end complete

end Sys2Proof.Machine
end

section
/-! PROOFS. The matrix engine's steps, as its obligation states them. -/

namespace Sys2Proof.Machine

/-- The bytes of the elements of one word, as a store leaves them. -/
theorem stored_word {s : State} {n : Nat} {k : Cmd} {qs : Nat → List Nat} {l : List Nat} {m : Memory}
    (ha : k.a.toNat % k.accSize = 0) (hb : k.b.toNat % k.accSize = 0)
    (hqs : ∀ y < k.regM * k.regN, translateRange (k.tlb ++ s.pages k.ctx) (k.accAt y) Need.write k.accSize = .ok (qs y))
    (hnodup : ((List.range (k.regM * k.regN)).flatMap qs).Nodup) {y : Nat} (hy : y < k.regM * k.regN) {w : Nat}
        (hw : k.accAt y / 8 = w)
    (hm : m = Memory.writeAt (placeOf (k.tlb ++ s.pages k.ctx)) s.mem ((s.core n).accBytes { k with list := l } w)) :
    let word := (s.core n).accWord k.bank (k.regRow + y / k.regN) (k.regCol + y % k.regN)
    if k.w3.toNat / 2 ^ 29 % 4 = 0 then ∃ v, v < 2 ^ 32 ∧ (qs y).map m.read = leBytes 4 v ∧ v / 16 = word.toNat / 16 ∧
        ((s.core n).rlx k.bank = false ∨ word.toNat / 2 ^ 23 % 256 = 255 → v = word.toNat)
      else (qs y).map m.read = leBytes 2 ((if k.w3.toNat / 2 ^ 29 % 4 = 1 then FloatFmt.bf16 else FloatFmt.fp16).round
        (FloatFmt.fp32.decode word.toNat) .rne).1 := by
  intro word
  have hstored : (qs y).map m.read = ((s.core n).accOut { k with list := l } y).1 := by
    rw [hm]
    exact stored_element (k := { k with list := l }) s.mem ha hb hqs hnodup hy hw
  rw [hstored]
  split
  · next hmf => exact (s.core n).accOut_word { k with list := l } y hmf
  · next hmf => exact (s.core n).accOut_half { k with list := l } y hmf

/-- Settles O41: each clause by its own lemma. A k-step is one pass over the tile after reads that leave the engine; an arm's step,
an MM.ACC's element and an MM.OUT's token are each one act of the engine. -/
theorem matrixSteps : Obligations.MatrixSteps := by
  unfold Obligations.MatrixSteps
  refine ⟨?_, intSum_ofInt, ?_, ?_, ?_, ?_, ?_⟩
  · intro s s2 s3 n k rows bs fs hk ho harr hst haccs hover hlist hsub
    have hruns := State.runs_of_started hst haccs
    refine ⟨fun hdone h2 h3 hbad => ?_, fun _ hdone hint => ?_⟩
    · obtain ⟨t, tl, hstep, hcmd, hmem, hstill, hmx, hmx3⟩ :=
        kstepComplete_spec hk ho harr hruns hover hlist hsub hdone h2 h3 hbad
      refine ⟨t, tl, hstep, hcmd, hmem, hstill, fun b i j _ hi hj => ⟨?_, ?_⟩⟩
      · have h := kstepAdd_workWord k (k.k0 + 64 * k.done) rows bs fs (s3.core n) (b := b) hi hj
        rw [Core.workWord, Core.workWord, hmx3, ← hmx] at h
        exact h
      · have h := kstepAdd_accWord k (k.k0 + 64 * k.done) rows bs fs (s3.core n) (b := b) hi hj
        rw [Core.accWord, Core.accWord, hmx3, ← hmx] at h
        exact h
    · obtain ⟨t, hstep, hgone, hmem, hmx⟩ := commandComplete_int hk ho harr hruns hlist hsub hdone hint
      refine ⟨t, hstep, hgone, hmem, fun b i j _ hi hj => ?_⟩
      have h := (s.core n).accWord_clampTile k (b := b) hi hj
      rw [Core.accWord, ← hmx] at h
      exact h
  · intro acc ab x y finite old hne hab hx hy hold
    obtain ⟨v, ⟨g, m, e, rfl, hval⟩, hsum⟩ := blockAdd_finite hne hab hx hy hold
    exact ⟨_, ⟨rfl, rfl⟩, hval, hsum⟩
  · intro s s1 n arm bs hk ho hopc hst haccs hdone hread moved
    have hruns := State.runs_of_started hst haccs
    refine ⟨fun hmask => ?_, fun hmask hentry hvar hzero hregion hfree hbest hnew => ?_⟩
    · rw [exec_armEntryStart ho hk, armStep_false ho hopc hruns hdone hread hmask]
      rfl
    · obtain ⟨k, hcmds, hmem, hfields⟩ := armStep_zero ho hopc hruns hdone hread hmask hentry hvar hzero hregion hfree hbest hnew
      exact ⟨_, k, exec_armEntryStart ho hk, hcmds, hmem, hfields⟩
  · intro s n k qs hk ho hruns hopc hbuf hrow hcol hapart hu c pages mf size count va word x next t
    refine ⟨fun _ hx _ hform => ?_, ?_, fun hdone => ?_⟩
    · rcases hform with hvar | ⟨hvar, hword, htr, hwin, hread⟩
      · obtain ⟨hmem, hnext, hacc⟩ := pieceOf_accZero hk ho hruns hopc hrow hcol hx hvar x
        refine ⟨hmem, hnext, fun b i j _ hi hj => ?_⟩
        exact (hacc b i j hi hj).trans (if_congr Iff.rfl (if_pos hvar).symm rfl)
      · obtain ⟨hmem, hnext, hacc⟩ := pieceOf_accLoad hk ho hruns hopc hrow hcol hx hbuf hu hvar hword htr hwin hread x
        refine ⟨hmem, hnext, fun b i j _ hi hj => ?_⟩
        exact (hacc b i j hi hj).trans (if_congr Iff.rfl (if_neg (by rw [hvar]; decide)).symm rfl)
    · intro hvar hx _ ha hb hbad hqs hnodup here
      have hranges : ∀ y < count, translateRange pages (k.accAt y) Need.write k.accSize = .ok (qs y) := fun y hy => (hqs y hy).1
      have hhere : ∀ y, y ∈ here ↔ y < count ∧ k.accAt y / 8 = k.accAt x / 8 := fun y => by
        rw [List.mem_filter, List.mem_range, decide_eq_true_eq]
        rfl
      obtain ⟨hnext, hlater, hfirst⟩ := pieceOf_accStore hk ho hruns hopc hvar hx hbad hu hapart ha hb hranges
        (fun y hy => (hqs y hy).2.1) (fun y hy p hp => State.blocked_none ((hqs y hy).2.2 p hp).1 ((hqs y hy).2.2 p hp).2) x
      refine ⟨hnext, fun ⟨y, hy, hyx⟩ => hlater ⟨y, hyx, ((hhere y).mp hy).2⟩, fun hleast => ?_⟩
      obtain ⟨l, hmem⟩ := hfirst fun y hyx hword => absurd (hleast y ((hhere y).mpr ⟨hyx.trans hx, hword⟩)) (Nat.not_le.mpr hyx)
      refine ⟨fun p hp => ?_, fun y hy => stored_word ha hb hranges hnodup ((hhere y).mp hy).1 ((hhere y).mp hy).2 hmem⟩
      rw [hmem]
      exact stored_other (k := { k with list := l }) s.mem ha hb hranges fun y hy hword hpy =>
        hp (List.mem_flatMap.mpr ⟨y, (hhere y).mpr ⟨hy, hword⟩, hpy⟩)
    · exact commandComplete_acc hk ho hruns hopc hdone
  · intro c k free hrlx words
    exact ⟨c.outTokens_native k free hrlx, c.outTokens_compat k free hrlx⟩
  · intro s n k hk ho hruns hopc p c x next
    refine ⟨fun hpend hfifo hfeeds hcell hsettle => ?_, fun hpend htotal hfifo hbind hfeeds => ?_⟩
    · obtain ⟨hstep, hcmd⟩ := commandComplete_place hk ho hruns hopc hpend hfifo hfeeds hcell hsettle
      exact ⟨_, hstep, s.core_outPlaced n k, hcmd, rfl⟩
    · obtain ⟨m, hm, hfeeds⟩ := hfeeds
      exact commandComplete_out hk ho hruns hopc hpend htotal hfifo hbind hm hfeeds

end Sys2Proof.Machine
end

section
/-! PROOFS. The issue of a scalar access, for every form: what a release shows first, and the access that is then outstanding. -/

namespace Sys2Proof.Machine

/-! ## A release that issues (R125) -/

theorem State.here_released (s : State) (release : Option (BitVec 2)) :
    (s.released release).here = { s.here with accs := (s.released release).here.accs } := by
  cases release with
  | none => rfl
  | some sc =>
    have hcur : (s.publish s.cur sc).cur = s.cur := by unfold State.publish; split <;> rfl
    simp only [State.released, State.here, hcur, State.core_publish]

/-- A release touches nothing but its own core. -/
theorem State.setCore_released (s : State) (release : Option (BitVec 2)) (c : Core) :
    (s.released release).setCore s.cur c = s.setCore s.cur c := by
  cases release with
  | none => rfl
  | some sc => exact s.setCore_publish s.cur sc c

@[simp] theorem State.cur_released (s : State) (release : Option (BitVec 2)) : (s.released release).cur = s.cur := by
  simpa using congrArg State.cur (s.setCore_released release {})

@[simp] theorem State.cmds_released (s : State) (release : Option (BitVec 2)) : (s.released release).cmds = s.cmds := by
  simpa using congrArg State.cmds (s.setCore_released release {})

theorem State.core_released_other (s : State) (release : Option (BitVec 2)) {m : Nat} (h : m ≠ s.cur) :
    (s.released release).core m = s.core m := by
  have := congrArg (fun t : State => t.core m) (s.setCore_released release {})
  simpa only [State.core_setCore_other _ _ _ _ h] using this

/-! ## What overtakes (R167) -/

/-- A mask that an MLD overtakes takes no earlier value. -/
theorem Core.claimMask_eq (c : Core) (m : Nat) :
    c.claimMask m = { c with accs := c.accs.map fun b => if b.kind = .mload ∧ b.dst = m then { b with dst := 0 } else b } := by
  have htarget (b : Access) : b.targetsMask m = true ↔ b.kind = .mload ∧ b.dst = m := by
    simp [Access.targetsMask]
  unfold Core.claimMask
  by_cases hm : m = 0
  · have hsame : (fun b : Access => if b.kind = .mload ∧ b.dst = m then { b with dst := 0 } else b) = id := by
      funext b
      split
      · next h => rw [← hm, ← h.2]; rfl
      · rfl
    rw [if_pos hm, hsame, List.map_id]
  · simp only [if_neg hm, htarget]

theorem translateRange_length {pages : List Page} {va : Nat} {need : Need} {n : Nat} {pas : List Nat}
    (h : translateRange pages va need n = .ok pas) : pas.length = n := by
  induction n generalizing va pas with
  | zero => cases h; rfl
  | succ n ih =>
    unfold translateRange at h
    split at h
    · cases h
    · split at h
      · cases h
      · next hr => cases h; rw [List.length_cons, ih hr]

/-! ## The access issues (R28, R176, R180) -/

/-- The scope a request releases at. -/
def Request.release (r : Request) : Option (BitVec 2) := if r.rel then some r.scope else none

/-- The access that a request becomes on a core. -/
def Request.fresh (r : Request) (c : Core) (pas : List Nat) : Access :=
  c.fresh r.kind r.ea pas r.pol r.dst r.val r.cmp r.release (BitVec.ofNat 8 r.opc)

/-- The request counts as its kind does (R28). -/
structure Request.counted (r : Request) : Prop where
  ldc : r.inLdc = r.kind.loads r.dst
  stc : r.inStc = r.kind.writes

theorem Core.access_eq_fresh {r : Request} (hr : r.counted) (c : Core) {pas : List Nat} (hlen : pas.length = r.size) :
    c.access r pas = r.fresh c pas := by
  have hout (i : Nat) : c.outstanding [i] = c.accs.any fun a => decide (a.id = i) := by simp [Core.outstanding]
  unfold Core.access Request.fresh Core.fresh Request.release
  cases r.rel
  · simp only [hr.ldc, hr.stc, hlen, hout]
    rfl
  · simp only [hr.ldc, hr.stc, hlen, hout, Core.releaseIds_eq]
    rfl

/-- The core of an access that issues: the accesses it overtakes, then the access, counted. -/
def Core.issuing (c : Core) (a : Access) (acquire : Bool) : Core := { c.next 1 with
  accs := c.accs.map a.overtaken ++ [a]
  nextAcc := c.nextAcc + 1
  holdAcc := if acquire then c.holdAcc ++ [a.id] else c.holdAcc
  ldc := if a.inLdc then c.ldc + 1 else c.ldc
  stc := if a.inStc then c.stc + 1 else c.stc }

/-- The commands after an access has overtaken the PORT.TAKEs into its register. -/
def State.cmdsOvertaken (s : State) (a : Access) : List Cmd := s.cmds.map fun k =>
  if a.inLdc ∧ a.kind ≠ .mload ∧ k.takes s.cur a.dst ∧ a.dst ≠ 57 then { k with areg := 57#6 } else k

/-- What the access claims of its destination, in the terms of what it overtakes. -/
theorem Request.overtaken_eq {r : Request} (hr : r.counted) (c : Core) (pas : List Nat) (b : Access) :
    (r.fresh c pas).overtaken b =
      if r.kind = .mload then (if b.kind = .mload ∧ b.dst = r.dst then { b with dst := 0 } else b)
      else if r.inLdc ∧ b.targets r.dst then { b with dst := 57 } else b := by
  rw [hr.ldc]
  rfl

/-- The core that an access leaves, from the core whose destinations it has claimed. -/
theorem Core.issuing_eq {c c2 : Core} {r : Request} (hr : r.counted) (pas : List Nat)
    (h : c2 = { c with accs := c.accs.map (r.fresh c pas).overtaken }) :
    { c2.next 1 with
      accs := c2.accs ++ [r.fresh c pas]
      nextAcc := c2.nextAcc + 1
      holdAcc := if r.acq then c2.holdAcc ++ [(r.fresh c pas).id] else c2.holdAcc
      ldc := if r.inLdc then c2.ldc + 1 else c2.ldc
      stc := if r.inStc then c2.stc + 1 else c2.stc } = c.issuing (r.fresh c pas) r.acq := by
  subst h
  rw [hr.ldc, hr.stc]
  rfl

/-- Claiming a register changes the core's accesses and the commands. -/
theorem State.setCore_claimReg (s : State) (n r : Nat) (c : Core) :
    (s.claimReg n r).setCore n c = { s.setCore n c with cmds := (s.claimReg n r).cmds } := by
  unfold State.claimReg
  split
  · rfl
  · simp [State.setCore]

/-- A PORT.TAKE into the zero register has nothing to lose. -/
theorem Cmd.claim_zero (k : Cmd) (n : Nat) : (if k.takes n 57 then { k with areg := 57#6 } else k) = k := by
  split
  · next h =>
    simp only [Cmd.takes, Bool.and_eq_true, decide_eq_true_eq] at h
    have : k.areg = 57#6 := BitVec.eq_of_toNat_eq h.2
    rw [← this]
  · rfl

/-- An access that issues on a core, with what it claims. -/
theorem State.updCore_claim {s s0 : State} {r : Request} (hr : r.counted) {n : Nat} {pas : List Nat} {c : Core} (hc : s0.core n = c)
    (hset : ∀ x, s0.setCore n x = s.setCore n x) (hn : n = s.cur) :
    ((if r.inLdc ∧ r.kind ≠ .mload then s0.claimReg n r.dst else s0).updCore n fun c1 =>
        let c2 := if r.kind = .mload then c1.claimMask r.dst else c1
        { c2.next 1 with
          accs := c2.accs ++ [r.fresh c pas]
          nextAcc := c2.nextAcc + 1
          holdAcc := if r.acq then c2.holdAcc ++ [(r.fresh c pas).id] else c2.holdAcc
          ldc := if r.inLdc then c2.ldc + 1 else c2.ldc
          stc := if r.inStc then c2.stc + 1 else c2.stc }) =
      { s.setCore n (c.issuing (r.fresh c pas) r.acq) with cmds := s.cmdsOvertaken (r.fresh c pas) } := by
  have hover := Request.overtaken_eq hr c pas
  have hcmds : s0.cmds = s.cmds := by simpa using congrArg State.cmds (hset {})
  by_cases hload : r.inLdc = true ∧ r.kind ≠ .mload
  · have hfun : (r.fresh c pas).overtaken = fun b => if b.targets r.dst then { b with dst := 57 } else b := by
      funext b
      simp [hover, hload]
    have htakes : (s0.claimReg n r.dst).cmds = s.cmdsOvertaken (r.fresh c pas) := by
      rw [State.cmds_claimReg, hcmds, State.cmdsOvertaken, hn]
      refine List.map_congr_left fun k _ => ?_
      have hl : (r.fresh c pas).inLdc = true ∧ (r.fresh c pas).kind ≠ .mload := ⟨hr.ldc.symm.trans hload.1, hload.2⟩
      have hd : (r.fresh c pas).dst = r.dst := rfl
      by_cases h57 : r.dst = 57
      · simp [hd, h57, k.claim_zero]
      · simp [hl, hd, h57]
    rw [if_pos hload, State.updCore, State.setCore_claimReg, State.core_claimReg_same, hset, htakes, hc]
    simp only [if_neg hload.2]
    rw [Core.issuing_eq hr pas (by rw [hfun])]
  · have hfun : (if r.kind = .mload then c.claimMask r.dst else c) = { c with accs := c.accs.map (r.fresh c pas).overtaken } := by
      split
      · next hm => simp [Core.claimMask_eq, funext hover, hm]
      · next hm =>
        have hid : (r.fresh c pas).overtaken = id := by
          funext b
          simp [hover, hm, show ¬r.inLdc = true from fun h => hload ⟨h, hm⟩]
        rw [hid, List.map_id]
    have htakes : s.cmdsOvertaken (r.fresh c pas) = s0.cmds := by
      have hl : ¬((r.fresh c pas).inLdc = true ∧ (r.fresh c pas).kind ≠ .mload) := fun h => hload ⟨hr.ldc.trans h.1, h.2⟩
      have hsame (k : Cmd) : (if (r.fresh c pas).inLdc ∧ (r.fresh c pas).kind ≠ .mload ∧ k.takes s.cur (r.fresh c pas).dst ∧
          (r.fresh c pas).dst ≠ 57 then { k with areg := 57#6 } else k) = k := if_neg fun h => hl ⟨h.1, h.2.1⟩
      simp only [State.cmdsOvertaken, hsame, List.map_id', hcmds]
    rw [if_neg hload, State.updCore, hc, hset, htakes, hcmds]
    simp only [hfun]
    rw [Core.issuing_eq hr pas rfl]
    rfl

/-- A free access issues. -/
theorem State.startAccess_eq {s : State} {r : Request} {pas : List Nat} (hr : r.counted) (hfree : s.freeToIssue r.inLdc r.inStc)
    (hea : r.ea.toNat < 2 ^ 56) (halign : r.aligned = true → r.ea.toNat % r.size = 0)
    (htr : translateRange (s.pages s.here.ctx) r.ea.toNat r.need r.size = .ok pas) :
    let c := (s.released r.release).here
    s.startAccess s.cur r = { s.setCore s.cur (c.issuing (r.fresh c pas) r.acq) with cmds := s.cmdsOvertaken (r.fresh c pas) } := by
  intro c
  have hall : (s.core s.cur).outstanding (s.core s.cur).holdAll = false := Core.outstanding_eq_false hfree.all
  have hstore : (r.inStc && (s.core s.cur).outstanding (s.core s.cur).holdStore) = false := by
    cases h : r.inStc
    · rfl
    · exact Core.outstanding_eq_false (hfree.stores h)
  have hldc : (r.inLdc && decide ((s.core s.cur).ldc = 63#6)) = false := by
    cases h : r.inLdc
    · rfl
    · exact decide_eq_false (hfree.loads h)
  have hstc : (r.inStc && decide ((s.core s.cur).stc = 63#6)) = false := by
    cases h : r.inStc
    · rfl
    · exact decide_eq_false (hfree.writes h)
  have hok : eaOk r.ea = true := decide_eq_true hea
  have hal : (r.aligned && decide (r.ea.toNat % r.size ≠ 0)) = false := by
    cases h : r.aligned
    · rfl
    · simp [halign h]
  have hpages : translateRange (s.pages (s.core s.cur).ctx) r.ea.toNat r.need r.size = .ok pas := htr
  have hrel : (if r.rel then s.publish s.cur r.scope else s) = s.released r.release := by
    unfold Request.release
    cases r.rel <;> rfl
  simp only [State.startAccess, hall, hstore, hldc, hstc, hok, hal, hpages, Bool.or_self, Bool.false_eq_true, if_false, Bool.not_true, hrel]
  have hcore : (s.released r.release).core s.cur = c := by rw [← State.cur_released s r.release]; rfl
  have hacc : c.access r pas = r.fresh c pas := c.access_eq_fresh hr (translateRange_length htr)
  rw [hcore, hacc]
  exact State.updCore_claim hr hcore (fun x => s.setCore_released _ x) rfl

/-- A free access issues, in the words of the statements. -/
theorem State.startAccess_issued {s : State} {r : Request} {pas : List Nat} (hr : r.counted) (hfree : s.freeToIssue r.inLdc r.inStc)
    (hea : r.ea.toNat < 2 ^ 56) (halign : r.aligned = true → r.ea.toNat % r.size = 0)
    (htr : translateRange (s.pages s.here.ctx) r.ea.toNat r.need r.size = .ok pas) :
    Issued s (s.startAccess s.cur r) (r.fresh (s.released r.release).here pas) r.acq r.release := by
  have heq := State.startAccess_eq hr hfree hea halign htr
  have hrel := s.here_released r.release
  dsimp only at heq
  generalize hc : (s.released r.release).here = c at heq hrel ⊢
  generalize r.fresh c pas = a at heq ⊢
  have hhere : (s.startAccess s.cur r).here = c.issuing a r.acq := by
    rw [heq]
    exact State.core_setCore_same ..
  exact {
    accs := by rw [hhere, hc]; rfl
    next := by rw [hhere, hrel]; rfl
    hold := by rw [hhere, hrel]; rfl
    ldc := by rw [hhere, hrel]; rfl
    stc := by rw [hhere, hrel]; rfl
    soff := by rw [hhere, hrel]; rfl
    core := by rw [hhere, hrel]; rfl
    cmds := by rw [heq]; rfl
    others := fun m hm => by
      rw [heq]
      exact State.core_setCore_other _ _ _ _ hm
    rest := by rw [heq]; rfl }

/-- An instruction that makes a request when it is ready sends its access. -/
theorem State.ready.sends {s : State} {i : Instr} {fields reads : List Reg} {masks : List Nat} {k : Nat → Core → State} {r : Request}
    {pas : List Nat} (h : s.ready fields reads masks) (hi : exec i s = s.issue fields reads masks k)
    (hk : k s.cur s.here = s.startAccess s.cur r) (hr : r.counted) (hfree : s.freeToIssue r.inLdc r.inStc)
    (hea : r.ea.toNat < 2 ^ 56) (halign : r.aligned = true → r.ea.toNat % r.size = 0)
    (htr : translateRange (s.pages s.here.ctx) r.ea.toNat r.need r.size = .ok pas) :
    s.sends i (r.fresh (s.released r.release).here pas) r.acq r.release :=
  ⟨_, hi.trans (h.acts.trans (by rw [hk])), State.startAccess_issued hr hfree hea halign htr⟩

/-! ## Loads (R176, R177) -/

theorem loadReq_counted (signed : Bool) (pol : BitVec 2) (d : Reg) (ea : Word) (size opc : Nat) :
    (loadReq signed pol d ea size opc).counted := ⟨rfl, rfl⟩

/-- LD and LDS of any size and policy. -/
theorem State.ready.sends_load {s : State} {i : Instr} {d a : Reg} {o : BitVec 14} {signed : Bool} {n opc : Nat} {pol : BitVec 2}
    (h : s.ready [d, a] [a] []) (hfree : s.freeToIssue true false) (hi : exec i s = ldForm signed n pol opc d a o s) (pas : List Nat)
    (hea : (eaMem (s.here.reg a.toNat) o n).toNat < 2 ^ 56)
    (htr : translateRange (s.pages s.here.ctx) (eaMem (s.here.reg a.toNat) o n).toNat Need.read n = .ok pas) :
    s.sends i (s.here.fresh (.load signed) (eaMem (s.here.reg a.toNat) o n) pas pol d.toNat 0 0 none (BitVec.ofNat 8 opc)) false :=
  h.sends (r := loadReq signed pol d (eaMem (s.here.reg a.toNat) o n) n opc) hi rfl (loadReq_counted ..) hfree hea nofun htr

/-- Settles O13: every form makes the load request of its size, policy and opcode. -/
theorem loadsIssue : Obligations.LoadsIssue := by
  unfold Obligations.LoadsIssue
  intro s d a o h hfree sends
  refine ⟨?_, ?_, ?_, ?_, ?_, ?_, ?_, ?_, ?_, ?_, ?_, ?_, ?_, ?_, ?_, ?_, ?_, ?_, ?_, ?_, ?_⟩ <;>
    exact h.sends_load hfree rfl

end Sys2Proof.Machine
end

section
/-! PROOFS. A store of a core is performed: no published store lies in its words, so that its bytes go to their homes alone. -/

namespace Sys2Proof.Machine

/-! ## Published stores elsewhere (R123, R125) -/

/-- No store that core n has published touches the word of a physical address. -/
def State.shownApart (s : State) (n pa : Nat) : Prop := ∀ a ∈ (s.core n).accs, a.shown = true → ∀ q ∈ a.pas, q / 8 ≠ pa / 8

section shownApart
variable {s : State} {n pa : Nat} (h : s.shownApart n pa)
include h

theorem State.settleShown_apart : s.settleShown n pa = s := by
  have hnone : (s.core n).accs.find? (fun a => a.shown && a.left.any (a.pieceIn pa)) = none := by
    refine List.find?_eq_none.mpr fun a ha hp => ?_
    simp only [Bool.and_eq_true, List.any_eq_true, Access.pieceIn, decide_eq_true_eq] at hp
    obtain ⟨hshown, p, -, q, hq, hword⟩ := hp
    exact h a ha hshown q (List.mem_of_mem_drop (List.mem_of_mem_take hq)) hword
  rw [State.settleShown, hnone]

end shownApart

/-! ## Bytes written at their homes -/

/-- The bytes of a list, written one after the other. -/
def Memory.writeAll (m : Memory) (es : List (Nat × Byte)) : Memory := es.foldl (fun m e => m.write e.1 e.2) m

theorem Memory.read_writeAll_other {m : Memory} {es : List (Nat × Byte)} {q : Nat} (h : ∀ e ∈ es, e.1 ≠ q) :
    (m.writeAll es).read q = m.read q := by
  induction es generalizing m with
  | nil => rfl
  | cons e es ih =>
    rw [Memory.writeAll, List.foldl_cons]
    exact (ih fun x hx => h x (List.mem_cons_of_mem _ hx)).trans (Memory.read_write_other _ _ (h e List.mem_cons_self).symm)

/-- The last byte written at a place stands there. -/
theorem Memory.read_writeAll_last {m : Memory} {es : List (Nat × Byte)} {k : Nat} (hk : k < es.length)
    (hlast : ∀ j (hj : j < es.length), k < j → es[j].1 ≠ es[k].1) : (m.writeAll es).read es[k].1 = es[k].2 := by
  induction es generalizing m k with
  | nil => exact absurd hk (Nat.not_lt_zero k)
  | cons e es ih =>
    cases k with
    | zero =>
      have hother : ∀ x ∈ es, x.1 ≠ e.1 := fun x hx => by
        obtain ⟨j, hj, rfl⟩ := List.mem_iff_getElem.mp hx
        exact hlast (j + 1) (Nat.succ_lt_succ hj) (Nat.succ_pos j)
      exact (Memory.read_writeAll_other (m := m.write e.1 e.2) hother).trans (Memory.read_write_same ..)
    | succ k => exact ih (Nat.lt_of_succ_lt_succ hk) fun j hj hkj => hlast (j + 1) (Nat.succ_lt_succ hj) (Nat.succ_lt_succ hkj)

/-- Bytes written at listed places, in the words of the statements. -/
theorem stored_writeAll {s t : State} {qs : List Nat} {bs : List Byte} (hlen : qs.length = bs.length)
    (h : t.mem = s.mem.writeAll (qs.zip bs)) : Stored s t qs bs where
  inside k hk hlast := by
    have hkz : k < (qs.zip bs).length := by simpa [hlen] using hlen ▸ hk
    have hkb : k < bs.length := hlen ▸ hk
    have hread := Memory.read_writeAll_last (m := s.mem) hkz fun j hj hkj => by
      have hjq : j < qs.length := by simp at hj; omega
      have := hlast j hjq hkj
      simpa [hjq, hk] using this
    rw [List.getElem_zip] at hread
    rw [h, List.getD_eq_getElem _ _ hk, List.getElem?_eq_getElem hkb, hread]
  outside p hp := by
    rw [h]
    exact Memory.read_writeAll_other fun e he heq => hp (heq ▸ (List.of_mem_zip he).1)

/-- Windows are found alike where cores have the same banks and gangs. -/
theorem State.findWindow_of_banks {s t : State} (h : ∀ m, (t.core m).banks = (s.core m).banks ∧ (t.core m).fused = (s.core m).fused ∧
    (t.core m).gang = (s.core m).gang) (n va : Nat) : t.findWindow n va = s.findWindow n va := by
  obtain ⟨-, hfused, hgang⟩ := h n
  unfold State.findWindow
  simp only [hfused, hgang, (h _).1]

/-- Replacing an access moves no window. -/
theorem State.findWindow_setAccess (s : State) (n m : Nat) (a : Access) (va : Nat) :
    (s.setAccess n a).findWindow m va = s.findWindow m va := by
  refine State.findWindow_of_banks (fun k => ?_) m va
  by_cases hk : k = n
  · subst hk
    rw [State.setAccess, State.core_updCore_same]
    exact ⟨rfl, rfl, rfl⟩
  · rw [State.setAccess, State.core_updCore_other _ _ _ _ hk]
    exact ⟨rfl, rfl, rfl⟩

/-! ## Stores outside the windows (R103, R106) -/

/-- A byte written at its home, its sector's poison left as it is: memory and the kept bytes of host memory may differ. -/
theorem State.homeWrite_part {s t : State} {pol : BitVec 2} {va pa : Nat} {v : Byte} (h : s.homeWrite pol va pa v false = .ok t) :
    t.mem = s.mem.write pa v ∧ { t with mem := s.mem, hostOld := s.hostOld } = s := by
  obtain ⟨-, hmem, hpoison, hrest⟩ := State.homeWrite_cases h
  refine ⟨hmem, ?_⟩
  have hp : t.poison = s.poison := hpoison
  rw [← hp] at hrest
  exact hrest

/-- What a store outside the windows may have changed: memory and the kept bytes of host memory. -/
structure AtHome (s t : State) (es : List (Nat × Byte)) : Prop where
  mem : t.mem = s.mem.writeAll es
  rest : { t with mem := s.mem, hostOld := s.hostOld } = s

theorem AtHome.cores {s t : State} {es : List (Nat × Byte)} (h : AtHome s t es) : t.cores = s.cores := by rw [← h.rest]

theorem AtHome.cons {s t u : State} {e : Nat × Byte} {es : List (Nat × Byte)} (h : AtHome s t [e]) (h' : AtHome t u es) :
    AtHome s u (e :: es) where
  mem := h'.mem.trans (by rw [h.mem]; rfl)
  rest := calc
    { u with mem := s.mem, hostOld := s.hostOld }
      = { { u with mem := t.mem, hostOld := t.hostOld } with mem := s.mem, hostOld := s.hostOld } := rfl
    _ = { t with mem := s.mem, hostOld := s.hostOld } := by rw [h'.rest]
    _ = s := h.rest

/-- A byte of a part of a sector, outside the windows. -/
theorem State.storeByte_home {s : State} {n va pa : Nat} (pol : BitVec 2) (v : Byte) (hapart : s.shownApart n pa)
    (hwin : s.findWindow n va = none) (hblocked : s.blocked va pa = none) :
    ∃ t, s.storeByte (some n) pol va pa v false false = .ok t ∧ AtHome s t [(pa, v)] := by
  obtain ⟨t, ht⟩ := State.homeWrite_ok s pol va pa v false hblocked
  obtain ⟨hmem, hrest⟩ := State.homeWrite_part ht
  have hhome : AtHome s t [(pa, v)] := ⟨hmem, hrest⟩
  refine ⟨t, ?_, hhome⟩
  have halso : t.alsoWindow (some n) va pa v false = t := by
    simp [State.alsoWindow, State.findWindow_congr hhome.cores, hwin]
  unfold State.storeByte State.settleFor
  simp [State.settleShown_apart hapart, hwin, ht, halso]

theorem coversSector_short {va0 len : Nat} (h : len < 128) (va : Nat) : coversSector va0 len va = false := by
  simp only [coversSector, Bool.and_eq_false_iff, decide_eq_false_iff_not]
  omega

/-- Bytes of an access that covers no sector, outside the windows. -/
theorem State.storeBytes_home {s : State} {n va va0 len : Nat} {pol : BitVec 2} {es : List (Nat × Byte)} (hlen : len < 128)
    (hapart : ∀ e ∈ es, s.shownApart n e.1) (hwin : ∀ i < es.length, s.findWindow n (va + i) = none)
    (hblocked : ∀ e ∈ es, ∀ a, s.blocked a e.1 = none) :
    ∃ t, s.storeBytes (some n) pol va0 len va es = .ok t ∧ AtHome s t es := by
  induction es generalizing s va with
  | nil => exact ⟨s, rfl, rfl, rfl⟩
  | cons e es ih =>
    obtain ⟨pa, v⟩ := e
    obtain ⟨t, ht, hst⟩ := State.storeByte_home (va := va) pol v (hapart _ List.mem_cons_self) (hwin 0 (Nat.succ_pos _))
      (hblocked _ List.mem_cons_self va)
    have hcore : t.core n = s.core n := by rw [State.core_of, State.core_of, hst.cores]
    have hfault (a pa : Nat) : t.blocked a pa = s.blocked a pa := by
      rw [← hst.rest]
      rfl
    obtain ⟨u, hu, htu⟩ := ih (s := t) (va := va + 1)
      (fun x hx => by rw [State.shownApart, hcore]; exact hapart x (List.mem_cons_of_mem _ hx))
      (fun i hi => by
        rw [State.findWindow_congr hst.cores, Nat.add_assoc, Nat.add_comm 1]
        exact hwin (i + 1) (Nat.succ_lt_succ hi))
      (fun x hx a => (hfault a x.1).trans (hblocked x (List.mem_cons_of_mem _ hx) a))
    refine ⟨u, ?_, hst.cons htu⟩
    unfold State.storeBytes
    rw [coversSector_short hlen, ht]
    exact hu

/-! ## A piece of a store (R123) -/

/-- The piece performed next is one of those left, whatever the free choice among them. -/
theorem State.pickPiece_mem (s : State) {a : Access} (h : a.left ≠ []) :
    ∃ p ∈ a.left, ∃ f, s.pickPiece a = (some p, { s with free := f }) := by
  unfold State.pickPiece
  split
  · next hl => exact absurd hl h
  · next p hl => exact ⟨p, by simp [hl], s.free, rfl⟩
  · next p q r hl =>
    have hi : (Config.freeWord s.draw.1).toNat % (r.length + 2) < (p :: q :: r).length := Nat.mod_lt _ (Nat.succ_pos _)
    refine ⟨(p :: q :: r)[(Config.freeWord s.draw.1).toNat % (r.length + 2)], by rw [hl]; exact List.getElem_mem hi, s.free + 1, ?_⟩
    dsimp only
    rw [List.getElem?_eq_getElem hi]
    rfl

/-- The bytes of a piece with their places. -/
theorem zip_piece {α β : Type} (l : List α) (r : List β) (i n : Nat) :
    ((l.zip r).drop i).take n = ((l.drop i).take n).zip ((r.drop i).take n) := by
  simp only [List.zip, List.drop_zipWith, List.take_zipWith]

section piece
variable {s : State} {n : Nat} {a : Access} (h : s.performable n a)
include h

/-- Without its own publication a store finds no published store in its words. -/
theorem State.performable.shownApart {q : Nat} (hq : q ∈ a.pas) : (s.setAccess n { a with shown := false }).shownApart n q := by
  intro b hb hshown x hx
  rw [State.setAccess, State.core_updCore_same] at hb
  obtain ⟨b0, hb0, rfl⟩ := List.mem_map.mp hb
  split at hshown
  · cases hshown
  · next hid =>
    rw [if_neg hid] at hx
    have hne : b0 ≠ a := fun he => hid (by rw [he])
    exact (h.older b0 hb0 (.inr ⟨hne, hshown⟩) q hq x hx).symm

theorem State.performable.storePiece (hwin : s.unwindowed n a) (hlen : a.pas.length < 128) {p : Nat × Nat} (hp : p ∈ a.left) :
    ∃ t, s.storePiece n a p = .ok (t, a.without p) ∧ AtHome (s.setAccess n { a with shown := false }) t
      (((a.pas.drop p.1).take p.2).zip (((leBytes a.pas.length a.val.toNat).drop p.1).take p.2)) := by
  have hplace : ∀ e ∈ ((a.pas.drop p.1).take p.2).zip (((leBytes a.pas.length a.val.toNat).drop p.1).take p.2), e.1 ∈ a.pas :=
    fun e he => List.mem_of_mem_drop (List.mem_of_mem_take (List.of_mem_zip he).1)
  obtain ⟨t, ht, hhome⟩ := State.storeBytes_home (s := s.setAccess n { a with shown := false }) (n := n) (va := a.va + p.1)
    (va0 := a.va) (pol := a.pol) hlen (fun e he => h.shownApart (hplace e he))
    (fun i hi => by
      have hfit := h.pieces.2 p hp
      have hin : i < p.2 := by simp at hi; omega
      rw [State.findWindow_setAccess, Nat.add_assoc]
      exact hwin (p.1 + i) (by omega))
    (fun e he x => h.blocked (hplace e he) x)
  refine ⟨t, ?_, hhome⟩
  unfold State.storePiece
  dsimp only
  rw [zip_piece, ht]
  rfl

end piece

/-! ## After a piece (R123, R28) -/

/-- The accesses of a core with one of them replaced. -/
def Core.withAccess (c : Core) (a : Access) : Core := { c with accs := c.accs.map fun b => if b.id = a.id then a else b }

theorem State.core_setAccess_same (s : State) (n : Nat) (a : Access) : (s.setAccess n a).core n = (s.core n).withAccess a :=
  State.core_updCore_same ..

theorem State.core_setAccess_other (s : State) {n m : Nat} (a : Access) (h : m ≠ n) : (s.setAccess n a).core m = s.core m :=
  State.core_updCore_other _ _ _ _ h

/-- The latest replacement of an access stands. -/
theorem Core.withAccess_withAccess (c : Core) {a b : Access} (h : b.id = a.id) : (c.withAccess a).withAccess b = c.withAccess b := by
  have hfun : ((fun x : Access => if x.id = b.id then b else x) ∘ fun x => if x.id = a.id then a else x) =
      fun x => if x.id = b.id then b else x := by
    funext x
    by_cases hx : x.id = a.id
    · simp [hx, h]
    · simp [hx, h]
  simp only [Core.withAccess, List.map_map, hfun]

/-- A replaced access is taken off as it stood. -/
theorem Core.filter_withAccess (c : Core) (a : Access) : ((c.withAccess a).accs.filter fun b => decide (b.id ≠ a.id)) =
    c.accs.filter fun b => decide (b.id ≠ a.id) := by
  have hmap (l : List Access) : ((l.map fun b => if b.id = a.id then a else b).filter fun b => decide (b.id ≠ a.id)) =
      l.filter fun b => decide (b.id ≠ a.id) := by
    induction l with
    | nil => rfl
    | cons b l ih =>
      by_cases hb : b.id = a.id
      · simpa [hb] using ih
      · simpa [hb] using ih
  exact hmap c.accs

/-- Taking off an access whose last piece has been performed, with nothing else of the cores changed. -/
theorem performed_lastPiece {s u : State} {n : Nat} {a b c : Access} (hb : b.id = a.id ∧ b.inLdc = a.inLdc ∧ b.inStc = a.inStc)
    (hc : c.id = a.id) (hu : u.core n = (s.core n).withAccess c) (hother : ∀ m, m ≠ n → u.core m = s.core m) :
    Performed s (u.accessDone n b) n a none := by
  obtain ⟨hid, hl, hs⟩ := hb
  have hcore := u.core_accessDone_same n b
  have hacc : ((u.core n).accs.filter fun x => decide (x.id ≠ b.id)) = (s.core n).accs.filter fun x => decide (x.id ≠ a.id) := by
    rw [hu, hid, ← hc]
    exact Core.filter_withAccess ..
  rw [hacc, hid, hl, hs, hu] at hcore
  have hlate : ((u.accessDone n b).core n).late = (s.core n).late := by rw [hcore]; rfl
  exact {
    accs := by rw [hcore]
    ldc := by rw [hcore]; rfl
    stc := by rw [hcore]; rfl
    holdAcc := by rw [hcore]; rfl
    holdAll := by rw [hcore]; rfl
    holdStore := by rw [hcore]; rfl
    regs := fun r => by rw [hcore]; rfl
    late := hlate
    core := by rw [hcore]; rfl
    others := fun m hm => (u.core_accessDone_other b hm).trans (hother m hm) }

theorem State.pieced_last (n : Nat) (f : State → Access → State) (s : State) {a : Access} (h : a.left = []) :
    State.pieced n f (s, a) = f s a := if_pos h

theorem State.pieced_more (n : Nat) (f : State → Access → State) (s : State) {a : Access} (h : a.left ≠ []) :
    State.pieced n f (s, a) = s.setAccess n a := if_neg h

theorem State.perform_store {s : State} {n : Nat} {a : Access} {p : Nat × Nat} {u : State} (hk : a.kind = .store ∨ a.kind = .mstore)
    (hp : s.pickPiece a = (some p, u)) :
    s.perform n a = (u.storePiece n a p).map (State.pieced n fun s a => s.accessDone n a) := by
  rcases hk with hk | hk <;> simp only [State.perform, hp, hk]

/-- Settles O18: the piece chosen goes to its homes; then the access stands without it, or is done. -/
theorem storeIsPerformed : Obligations.StoreIsPerformed := by
  unfold Obligations.StoreIsPerformed
  intro s n a h hrefused hwin hkind hlen
  obtain ⟨p, hp, f, hpick⟩ := s.pickPiece_mem h.pieces.1
  have hf : ({ s with free := f } : State).performable n a := { h with }
  obtain ⟨t, ht, hhome⟩ := hf.storePiece hwin hlen hp
  have hperform : s.perform n a = .ok (State.pieced n (fun s a => s.accessDone n a) (t, a.without p)) := by
    rw [State.perform_store hkind hpick, ht]
    rfl
  have hexec : exec (.scalarAccessComplete n a.id) s = .next (State.pieced n (fun s a => s.accessDone n a) (t, a.without p)) := by
    have := h.tried hperform
    rw [hrefused] at this
    exact congrArg Host.Outcome.next this
  have hmine : t.core n = (s.core n).withAccess { a with shown := false } := by
    rw [State.core_of, hhome.cores]
    exact State.core_setAccess_same ..
  have hothers (m : Nat) (hm : m ≠ n) : t.core m = s.core m := by
    rw [State.core_of, hhome.cores]
    exact State.core_setAccess_other _ _ hm
  have hstored : Stored s t ((a.pas.drop p.1).take p.2) (((leBytes a.pas.length a.val.toNat).drop p.1).take p.2) :=
    stored_writeAll (by simp) hhome.mem
  have hframe : { t with cores := s.cores, mem := s.mem, hostOld := s.hostOld, free := s.free } = s :=
    congrArg (fun u : State => { u with cores := s.cores, free := s.free }) hhome.rest
  by_cases hrest : (a.without p).left = []
  · rw [State.pieced_last n _ t hrest] at hexec
    exact ⟨p, hp, _, hexec, ⟨hstored.inside, hstored.outside⟩, hframe, fun hne => absurd hrest hne,
      fun _ => performed_lastPiece (c := { a with shown := false }) ⟨rfl, rfl, rfl⟩ rfl hmine hothers⟩
  · rw [State.pieced_more n _ t hrest] at hexec
    refine ⟨p, hp, _, hexec, ⟨hstored.inside, hstored.outside⟩, hframe, fun _ => ⟨fun m hm => (State.core_setAccess_other _ _ hm).trans (hothers m hm), ?_⟩,
      fun he => absurd he hrest⟩
    rw [State.core_setAccess_same, hmine, Core.withAccess_withAccess _ (a := { a with shown := false }) (b := a.without p) rfl]
    rfl

end Sys2Proof.Machine
end

section
/-! PROOFS. Every step keeps the memory in its canonical form. Memory is written through `Memory.write`, `writeBytes`, `writeNat`
and `filter` alone, and each keeps the form (Laws). What a step is made of is followed down to these: for every function `f` of the
model that returns a state there is one lemma `f_wf`, that the memory of the state it returns has the form where the memory of the
state it is given has. A function that leaves the memory alone by its definition needs none. -/

namespace Sys2Proof.Machine
section
variable {s t : State}

/-! ## Choices, folds and threads -/

theorem State.wf_ite {a b : State} {c : Prop} [Decidable c] (ha : a.mem.wf = true) (hb : b.mem.wf = true) :
    (if c then a else b).mem.wf = true := by
  split
  · exact ha
  · exact hb

theorem State.foldl_wf {α : Type} {f : State → α → State} {l : List α}
    (hf : ∀ s a, s.mem.wf = true → (f s a).mem.wf = true) (hm : s.mem.wf = true) : (l.foldl f s).mem.wf = true :=
  List.foldlRecOn l f hm fun s hs a _ => hf s a hs

theorem ok_of_map {ε α β : Type} {f : α → β} {r : Except ε α} {b : β} (h : r.map f = .ok b) : ∃ a, r = .ok a ∧ f a = b := by
  cases r with
  | error e => cases h
  | ok a => exact ⟨a, rfl, Except.ok.inj h⟩

theorem ok_of_asA {α : Type} {r : Except MemFault α} {a : α} (h : asA r = .ok a) : r = .ok a := by
  cases r with
  | error e => cases h
  | ok b => cases h; rfl

theorem ok_of_asB {α : Type} {r : Except MemFault α} {a : α} (h : asB r = .ok a) : r = .ok a := by
  cases r with
  | error e => cases h
  | ok b => cases h; rfl

theorem thread_wf {α β ε : Type} {f : State → α → Except ε (State × β)} {l : List α} {p : State × List β} (h : thread f s l = .ok p)
    (hf : ∀ s a p, f s a = .ok p → s.mem.wf = true → p.1.mem.wf = true) (hm : s.mem.wf = true) : p.1.mem.wf = true := by
  induction l generalizing s p with
  | nil =>
    cases h
    exact hm
  | cons a r ih =>
    unfold thread at h
    split at h
    · cases h
    · next heq =>
      split at h
      · cases h
      · next heq1 =>
        cases h
        exact (ih heq1 (hf _ _ _ heq hm) :)

theorem State.updCore_wf {n f} (hm : s.mem.wf = true) : (s.updCore n f).mem.wf = true := hm

theorem State.updCmd_wf {id f} (hm : s.mem.wf = true) : (s.updCmd id f).mem.wf = true := hm

theorem State.updCtx_wf {k f} (hm : s.mem.wf = true) : (s.updCtx k f).mem.wf = true := hm

theorem State.setDep_wf {d e x} (hm : s.mem.wf = true) : (s.setDep d e x).mem.wf = true := hm

theorem State.advance_wf {n k} (hm : s.mem.wf = true) : (s.advance n k).mem.wf = true := hm

theorem next_wf (h : (.next s : Host.Outcome State Fault Refusal) = .next t) (hm : s.mem.wf = true) : t.mem.wf = true := by
  cases h
  exact hm

theorem outcome_ite_wf {c : Prop} [Decidable c] {a b : Host.Outcome State Fault Refusal} (h : (if c then a else b) = .next t)
    (ha : a = .next t → t.mem.wf = true) (hb : b = .next t → t.mem.wf = true) : t.mem.wf = true := by
  split at h
  · exact ha h
  · exact hb h

/-! ## The functions of the model, in the order in which they call one another -/

theorem State.keepHost_wf {pa} (hm : s.mem.wf = true) : (s.keepHost pa).mem.wf = true := by
  unfold State.keepHost
  exact State.wf_ite hm hm

theorem State.keepHosts_wf {pa m} (hm : s.mem.wf = true) : (s.keepHosts pa m).mem.wf = true := by
  induction m generalizing s pa with
  | zero =>
    unfold State.keepHosts
    exact hm
  | succ _ ih =>
    unfold State.keepHosts
    exact ih (State.keepHost_wf hm)

theorem State.loadByte_wf {n pol va pa p} (h : s.loadByte n pol va pa = .ok p) (hm : s.mem.wf = true) : p.1.mem.wf = true := by
  unfold State.loadByte at h
  split at h
  · split at h
    · cases h
    · cases h
      exact hm
  · split at h
    · cases h
    · next heq1 =>
      dsimp only at h
      split at h
      · cases h
        exact State.fill_wf heq1 hm
      · split at h
        · cases h
        · cases h
          exact State.fill_wf heq1 hm

theorem State.loadBytes_wf {n pol va l p} (h : s.loadBytes n pol va l = .ok p) (hm : s.mem.wf = true) : p.1.mem.wf = true := by
  induction l generalizing s va p with
  | nil =>
    unfold State.loadBytes at h
    cases h
    exact hm
  | cons _ _ ih =>
    unfold State.loadBytes at h
    split at h
    · cases h
    · next heq =>
      split at h
      · cases h
      · next heq1 =>
        cases h
        exact (ih heq1 (State.loadByte_wf heq hm) :)

theorem State.keepPages_wf {g va n} (hm : s.mem.wf = true) : (s.keepPages g va n).mem.wf = true := by
  unfold State.keepPages
  dsimp only
  split <;> exact hm

theorem State.load_wf {g pol va n p} (h : s.load g pol va n = .ok p) (hm : s.mem.wf = true) : p.1.mem.wf = true := by
  unfold State.load at h
  split at h
  · cases h
  · exact State.loadBytes_wf h (State.keepPages_wf hm)

theorem State.armEntry_wf {arm i p} (h : s.armEntry arm i = .ok p) (hm : s.mem.wf = true) : p.1.mem.wf = true := by
  unfold State.armEntry at h
  exact State.load_wf h hm

theorem State.traceField_wf {pa n v} (hm : s.mem.wf = true) : (s.traceField pa n v).mem.wf = true := by
  unfold State.traceField
  exact Memory.wf_writeNat _ _ _ hm

theorem State.traceLose_wf {k} (hm : s.mem.wf = true) : (s.traceLose k).mem.wf = true := by
  unfold State.traceLose
  split
  · exact hm
  · exact State.traceField_wf hm

theorem State.alsoWindow_wf {n va pa v clears} (hm : s.mem.wf = true) : (s.alsoWindow n va pa v clears).mem.wf = true := by
  unfold State.alsoWindow
  split
  · exact hm
  · exact State.wf_ite hm hm

theorem State.holdNewer_wf {pol pa} (hm : s.mem.wf = true) : (s.holdNewer pol pa).mem.wf = true := by
  unfold State.holdNewer
  exact State.wf_ite hm (State.keepHost_wf hm)

theorem State.devWrite_wf {k va bs} (h : s.devWrite k va bs = some t) (hm : s.mem.wf = true) : t.mem.wf = true := by
  unfold State.devWrite at h
  split at h
  · cases h
  · split at h
    · cases h
    · next heq1 =>
      cases h
      exact (State.storeBytes_wf heq1 hm :)

theorem State.trace_wf {k t agent pc soff img d0 d1} (hm : s.mem.wf = true) : (s.trace k t agent pc soff img d0 d1).mem.wf = true := by
  unfold State.trace
  dsimp only
  split
  · exact hm
  · split
    · exact hm
    · split
      · exact State.traceLose_wf hm
      · split
        · exact State.traceLose_wf hm
        · next heq1 => exact State.traceField_wf (State.devWrite_wf heq1 hm)

theorem State.deliverEvents_wf {k m} (hm : s.mem.wf = true) : (s.deliverEvents k m).mem.wf = true := by
  induction m generalizing s with
  | zero =>
    unfold State.deliverEvents
    exact hm
  | succ _ ih =>
    unfold State.deliverEvents
    dsimp only
    split
    · exact hm
    · exact State.wf_ite hm (ih hm)

theorem State.postEvent_wf {k e} (hm : s.mem.wf = true) : (s.postEvent k e).mem.wf = true := by
  unfold State.postEvent
  exact State.wf_ite hm (State.deliverEvents_wf hm)

theorem State.writeRec_wf {k r} (hm : s.mem.wf = true) : (s.writeRec k r).mem.wf = true := by
  unfold State.writeRec
  exact State.wf_ite hm (State.postEvent_wf (State.trace_wf (Memory.wf_writeBytes _ _ hm)))

theorem State.writeRecs_wf {k l} (hm : s.mem.wf = true) : (s.writeRecs k l).mem.wf = true := by
  induction l generalizing s with
  | nil =>
    unfold State.writeRecs
    exact hm
  | cons _ _ ih =>
    unfold State.writeRecs
    exact ih (State.writeRec_wf hm)

theorem State.flushRecs_wf {k} (hm : s.mem.wf = true) : (s.flushRecs k).mem.wf = true := by
  unfold State.flushRecs
  exact State.writeRecs_wf hm

theorem State.flushAll_wf (hm : s.mem.wf = true) : (s.flushAll).mem.wf = true := by
  unfold State.flushAll
  exact State.foldl_wf (fun _ _ hs => State.flushRecs_wf hs) hm

theorem State.probeArb_wf {k gid} (hm : s.mem.wf = true) : (s.probeArb k gid).mem.wf = true := by
  unfold State.probeArb
  dsimp only
  split
  · exact hm
  · exact State.wf_ite hm hm

theorem State.probeAll_wf (hm : s.mem.wf = true) : (s.probeAll).mem.wf = true := by
  unfold State.probeAll
  exact State.foldl_wf (fun _ _ hs => State.foldl_wf (fun _ _ hs => State.wf_ite (State.probeArb_wf hs) hs) hs) hm

theorem State.traceStop_wf {k} (hm : s.mem.wf = true) : (s.traceStop k).mem.wf = true := by
  unfold State.traceStop
  split
  · exact hm
  · exact State.traceField_wf hm

theorem State.report_wf {k r} (hm : s.mem.wf = true) : (s.report k r).mem.wf = true := by
  unfold State.report
  exact State.wf_ite (State.traceStop_wf (State.trace_wf hm)) hm

theorem State.vacate_wf {n : Nat} (hm : s.mem.wf = true) : (s.vacate n).mem.wf = true := by
  have hw : (s.withdraw n).mem.wf = true := hm
  generalize hs : s.withdraw n = u at hw
  unfold State.vacate
  rw [hs]
  exact hw

theorem State.flushMerges_wf {n l} (hm : s.mem.wf = true) : (s.flushMerges n l).mem.wf = true := by
  induction l generalizing s with
  | nil =>
    unfold State.flushMerges
    exact hm
  | cons _ _ ih =>
    unfold State.flushMerges
    exact ih (State.wf_ite (State.trace_wf hm) hm)

theorem State.traceCore_wf {n t d0 d1 soff} (hm : s.mem.wf = true) : (s.traceCore n t d0 d1 soff).mem.wf = true := by
  unfold State.traceCore
  exact State.trace_wf hm

theorem State.spill_wf {n l} (hm : s.mem.wf = true) : (s.spill n l).mem.wf = true := by
  induction l generalizing s with
  | nil =>
    unfold State.spill
    exact hm
  | cons _ _ ih =>
    unfold State.spill
    exact ih (State.traceCore_wf hm)

theorem State.writeChans_wf {n} (hm : s.mem.wf = true) : (s.writeChans n).mem.wf = true := by
  unfold State.writeChans
  refine State.foldl_wf (fun _ _ hs => ?_) hm
  split
  · next heq => exact State.devWrite_wf heq hs
  · exact State.traceLose_wf hs

theorem State.consumeLog_wf {k n} (hm : s.mem.wf = true) : (s.consumeLog k n).mem.wf = true := by
  unfold State.consumeLog
  dsimp only
  split
  · exact hm
  · exact State.traceField_wf hm

theorem State.diverge_wf {n found} (hm : s.mem.wf = true) : (s.diverge n found).mem.wf = true := by
  unfold State.diverge
  exact State.traceCore_wf (State.traceStop_wf hm)

theorem State.endLoad_wf {n} (hm : s.mem.wf = true) : (s.endLoad n).mem.wf = true := by
  unfold State.endLoad
  extract_lets k s1 s2 s3 sum s4 s5
  have h1 : s1.mem.wf = true := State.wf_ite (State.flushMerges_wf hm) hm
  have h2 : s2.mem.wf = true := State.spill_wf h1
  have h3 : s3.mem.wf = true := State.wf_ite (State.writeChans_wf h2) h2
  have h4 : s4.mem.wf = true := State.traceCore_wf h3
  have h5 : s5.mem.wf = true := by
    refine State.wf_ite ?_ h4
    split
    · exact h4
    · exact State.wf_ite (State.consumeLog_wf h4) (State.diverge_wf (State.consumeLog_wf h4))
  exact State.updCore_wf h5

theorem State.flushBank_wf {n b} (hm : s.mem.wf = true) : (s.flushBank n b).mem.wf = true := by
  unfold State.flushBank
  exact State.writeBackList_wf _ hm

theorem State.flushBanks_wf {n l} (hm : s.mem.wf = true) : (s.flushBanks n l).mem.wf = true := by
  induction l generalizing s with
  | nil =>
    unfold State.flushBanks
    exact hm
  | cons _ _ ih =>
    unfold State.flushBanks
    exact ih (State.flushBank_wf hm)

theorem State.flushCore_wf {n} (hm : s.mem.wf = true) : (s.flushCore n).mem.wf = true := by
  unfold State.flushCore
  exact State.flushBanks_wf hm

theorem State.leaveCore_wf {n} (hm : s.mem.wf = true) : (s.leaveCore n).mem.wf = true := by
  unfold State.leaveCore
  exact State.vacate_wf (State.endLoad_wf (State.flushCore_wf hm))

theorem State.leaveCores_wf {l} (hm : s.mem.wf = true) : (s.leaveCores l).mem.wf = true := by
  induction l generalizing s with
  | nil =>
    unfold State.leaveCores
    exact hm
  | cons _ _ ih =>
    unfold State.leaveCores
    exact ih (State.leaveCore_wf hm)

theorem State.freeSlots_wf {k l} (hm : s.mem.wf = true) : (s.freeSlots k l).mem.wf = true := by
  induction l generalizing s with
  | nil =>
    unfold State.freeSlots
    exact hm
  | cons _ _ ih =>
    unfold State.freeSlots
    exact ih hm

theorem State.fillNow_wf {va pa v} (h : s.fillNow va pa v = .ok t) (hm : s.mem.wf = true) : t.mem.wf = true := by
  unfold State.fillNow at h
  obtain ⟨q, hq, rfl⟩ := ok_of_map h
  exact (State.fillWord_wf hq hm :)

theorem State.writeStatus_wf {home l} (hm : s.mem.wf = true) : (s.writeStatus home l).mem.wf = true := by
  unfold State.writeStatus
  dsimp only
  split
  · exact hm
  · split
    · next heq =>
      split at heq
      · cases heq
      · exact State.fillNow_wf heq hm
    · exact State.report_wf hm

theorem State.finishCmd_wf {id} (hm : s.mem.wf = true) : (s.finishCmd id).mem.wf = true := by
  unfold State.finishCmd
  dsimp only
  split
  · exact hm
  · split <;> exact hm

theorem State.requestLaunch_wf {die k image arg gdone win} (hm : s.mem.wf = true) :
    (s.requestLaunch die k image arg gdone win).mem.wf = true := by
  unfold State.requestLaunch
  dsimp only
  split
  · exact hm
  · split
    · split
      · exact State.report_wf hm
      · exact State.finishCmd_wf (State.report_wf hm)
    · exact State.report_wf hm

theorem State.requestAll_wf {die k arg l} (hm : s.mem.wf = true) : (s.requestAll die k arg l).mem.wf = true := by
  induction l generalizing s with
  | nil =>
    unfold State.requestAll
    exact hm
  | cons _ _ ih =>
    unfold State.requestAll
    exact ih (State.requestLaunch_wf hm)

theorem State.finishCmds_wf {l} (hm : s.mem.wf = true) : (s.finishCmds l).mem.wf = true := by
  induction l generalizing s with
  | nil =>
    unfold State.finishCmds
    exact hm
  | cons _ _ ih =>
    unfold State.finishCmds
    exact ih (State.finishCmd_wf hm)

theorem State.freeNodes_wf {l} (hm : s.mem.wf = true) : (s.freeNodes l).mem.wf = true := by
  induction l generalizing s with
  | nil =>
    unfold State.freeNodes
    exact hm
  | cons _ _ ih =>
    unfold State.freeNodes
    exact ih hm

theorem State.completeGraph_wf {home e l} (hm : s.mem.wf = true) : (s.completeGraph home e l).mem.wf = true := by
  unfold State.completeGraph
  exact State.freeNodes_wf (State.postEvent_wf (State.finishCmds_wf (State.wf_ite (State.requestAll_wf (State.writeStatus_wf hm))
    (State.writeStatus_wf hm))))

theorem State.checkGraph_wf {home e} (hm : s.mem.wf = true) : (s.checkGraph home e).mem.wf = true := by
  unfold State.checkGraph
  split
  · exact hm
  · exact State.wf_ite (State.completeGraph_wf hm) hm

theorem State.sendSucc_wf {d n err cause} (hm : s.mem.wf = true) : (s.sendSucc d n err cause).mem.wf = true := by
  unfold State.sendSucc
  split <;> exact hm

theorem State.cancelNode_wf {d e cause} (hm : s.mem.wf = true) : (s.cancelNode d e cause).mem.wf = true := by
  unfold State.cancelNode
  dsimp only
  split
  · exact hm
  · split
    · exact hm
    · split <;> exact State.checkGraph_wf (State.sendSucc_wf (State.trace_wf (State.freeSlots_wf (State.wf_ite
        (State.leaveCores_wf hm) hm))))

theorem State.cancelCore_wf {n cause} (hm : s.mem.wf = true) : (s.cancelCore n cause).mem.wf = true := by
  unfold State.cancelCore
  split
  · exact State.cancelNode_wf hm
  · exact State.leaveCore_wf hm

theorem State.coreFault_wf {n kind unit cls code sev addr soff opc restart} (hm : s.mem.wf = true) :
    (s.coreFault n kind unit cls code sev addr soff opc restart).mem.wf = true := by
  unfold State.coreFault
  exact State.wf_ite (State.cancelCore_wf (State.report_wf hm)) (State.report_wf hm)

theorem State.exception_wf {n epc cls code always opc} (hm : s.mem.wf = true) : (s.exception n epc cls code always opc).mem.wf = true := by
  unfold State.exception
  exact State.wf_ite (State.coreFault_wf hm) hm

theorem State.reservedAs_wf {n code opc} (hm : s.mem.wf = true) : (s.reservedAs n code opc).mem.wf = true := by
  unfold State.reservedAs
  exact State.exception_wf hm

theorem State.reservedUse_wf {n code} (hm : s.mem.wf = true) : (s.reservedUse n code).mem.wf = true := by
  unfold State.reservedUse
  exact State.reservedAs_wf hm

theorem State.issue_wf {fields reads : List Reg} {masks : List Nat} {k : Nat → Core → State} (h : s.issue fields reads masks k = .next t)
    (hm : s.mem.wf = true) (hk : ∀ n c, (k n c).mem.wf = true) : t.mem.wf = true := by
  unfold State.issue at h
  dsimp only at h
  split at h
  · cases h
    exact hm
  · split at h
    · cases h
      exact State.reservedUse_wf hm
    · split at h
      · cases h
        exact hm
      · cases h
        exact hk _ _

theorem State.writeReg_wf {n r v} (hm : s.mem.wf = true) : (s.writeReg n r v).mem.wf = true := by
  unfold State.writeReg
  exact State.wf_ite hm hm

theorem State.writeRes_wf {n d v} (hm : s.mem.wf = true) : (s.writeRes n d v).mem.wf = true := by
  unfold State.writeRes
  exact State.writeReg_wf (State.writeReg_wf hm)

theorem alu2_wf {f d a b} (h : alu2 f d a b s = .next t) (hm : s.mem.wf = true) : t.mem.wf = true := by
  unfold alu2 at h
  exact State.issue_wf h hm (fun _ _ => State.writeRes_wf hm)

theorem alu1_wf {f d a} (h : alu1 f d a s = .next t) (hm : s.mem.wf = true) : t.mem.wf = true := by
  unfold alu1 at h
  exact State.issue_wf h hm (fun _ _ => State.writeRes_wf hm)

theorem State.writePred_wf {n i v} (hm : s.mem.wf = true) : (s.writePred n i v).mem.wf = true := by
  unfold State.writePred
  exact State.writeReg_wf hm

theorem cmp2_wf {cc p a b} (h : cmp2 cc p a b s = .next t) (hm : s.mem.wf = true) : t.mem.wf = true := by
  unfold cmp2 at h
  exact State.issue_wf h hm fun _ _ => State.advance_wf (State.writePred_wf hm)

theorem predOp_wf {f d a b} (h : predOp f d a b s = .next t) (hm : s.mem.wf = true) : t.mem.wf = true := by
  unfold predOp at h
  exact State.issue_wf h hm fun _ _ => State.advance_wf (State.writePred_wf hm)

theorem execSel_wf {d a b p} (h : execSel d a b p s = .next t) (hm : s.mem.wf = true) : t.mem.wf = true := by
  unfold execSel at h
  exact State.issue_wf h hm (fun _ _ => State.writeRes_wf hm)

theorem State.scalarMemFault_wf {n f soff opc} (hm : s.mem.wf = true) : (s.scalarMemFault n f soff opc).mem.wf = true := by
  unfold State.scalarMemFault
  exact State.wf_ite hm (State.wf_ite (State.coreFault_wf hm) (State.coreFault_wf hm))

theorem State.publish_wf {n scope} (hm : s.mem.wf = true) : (s.publish n scope).mem.wf = true := by
  unfold State.publish
  exact State.wf_ite hm hm

theorem State.claimReg_wf {n r} (hm : s.mem.wf = true) : (s.claimReg n r).mem.wf = true := by
  unfold State.claimReg
  exact State.wf_ite hm hm

theorem State.startAccess_wf {n r} (hm : s.mem.wf = true) : (s.startAccess n r).mem.wf = true := by
  unfold State.startAccess
  dsimp only
  split
  · exact hm
  · split
    · exact State.reservedUse_wf hm
    · split
      · exact State.reservedUse_wf hm
      · split
        · exact State.scalarMemFault_wf hm
        · exact State.wf_ite (State.claimReg_wf (State.wf_ite (State.publish_wf hm) hm)) (State.wf_ite (State.publish_wf hm) hm)

theorem memxLoad_wf {signed d a b sz pol sc} (h : memxLoad signed d a b sz pol sc s = .next t) (hm : s.mem.wf = true)
    : t.mem.wf = true := by
  unfold memxLoad at h
  exact State.issue_wf h hm (fun _ _ => State.startAccess_wf hm)

theorem execMemxSt_wf {d a b sz pol sc} (h : execMemxSt d a b sz pol sc s = .next t) (hm : s.mem.wf = true) : t.mem.wf = true := by
  unfold execMemxSt at h
  exact State.issue_wf h hm (fun _ _ => State.startAccess_wf hm)

theorem execBfi_wf {d a w p} (h : execBfi d a w p s = .next t) (hm : s.mem.wf = true) : t.mem.wf = true := by
  unfold execBfi at h
  exact State.issue_wf h hm (fun _ _ => State.writeRes_wf hm)

theorem amoForm_wf {op w d a b sc o} (h : amoForm op w d a b sc o s = .next t) (hm : s.mem.wf = true) : t.mem.wf = true := by
  unfold amoForm at h
  exact State.issue_wf h hm (fun _ _ => State.startAccess_wf hm)

theorem cmp1_wf {cc p a i} (h : cmp1 cc p a i s = .next t) (hm : s.mem.wf = true) : t.mem.wf = true := by
  unfold cmp1 at h
  exact State.issue_wf h hm fun _ _ => State.advance_wf (State.writePred_wf hm)

theorem State.illegal_wf {n sub op opc} (hm : s.mem.wf = true) : (s.illegal n sub op opc).mem.wf = true := by
  unfold State.illegal
  exact State.exception_wf hm

theorem State.issueTo_wf {tgt : Int} {op : Nat} {fields reads : List Reg} {k : Nat → Core → State}
    (h : s.issueTo tgt op fields reads k = .next t) (hm : s.mem.wf = true) (hk : ∀ n c, (k n c).mem.wf = true) : t.mem.wf = true := by
  unfold State.issueTo at h
  split at h
  · cases h
    exact hm
  · split at h
    · cases h
      exact State.illegal_wf hm
    · exact State.issue_wf h hm hk

theorem execLoop_wf {d i} (h : execLoop d i s = .next t) (hm : s.mem.wf = true) : t.mem.wf = true := by
  unfold execLoop at h
  exact State.issueTo_wf h hm (fun _ _ => State.wf_ite (State.writeReg_wf hm) (State.writeReg_wf hm))

theorem alu0_wf {v d} (h : alu0 v d s = .next t) (hm : s.mem.wf = true) : t.mem.wf = true := by
  unfold alu0 at h
  exact State.issue_wf h hm (fun _ _ => State.writeRes_wf hm)

theorem execPld_wf {d a sc o} (h : execPld d a sc o s = .next t) (hm : s.mem.wf = true) : t.mem.wf = true := by
  unfold execPld at h
  exact State.issue_wf h hm (fun _ _ => State.startAccess_wf hm)

theorem execPst_wf {v a sc o} (h : execPst v a sc o s = .next t) (hm : s.mem.wf = true) : t.mem.wf = true := by
  unfold execPst at h
  exact State.issue_wf h hm (fun _ _ => State.startAccess_wf hm)

theorem execPclr_wf {a sc o} (h : execPclr a sc o s = .next t) (hm : s.mem.wf = true) : t.mem.wf = true := by
  unfold execPclr at h
  exact State.issue_wf h hm (fun _ _ => State.startAccess_wf hm)

theorem branchIf_wf {take o} (h : branchIf take o s = .next t) (hm : s.mem.wf = true) : t.mem.wf = true := by
  unfold branchIf at h
  exact State.issueTo_wf h hm (fun _ _ => State.wf_ite hm hm)

theorem execCall_wf {neg p o} (h : execCall neg p o s = .next t) (hm : s.mem.wf = true) : t.mem.wf = true := by
  unfold execCall at h
  exact State.issueTo_wf h hm (fun _ _ => State.wf_ite (State.writeReg_wf hm) hm)

theorem execWait_wf {u l st cp t b} (h : execWait l st cp t b s = .next u) (hm : s.mem.wf = true) : u.mem.wf = true := by
  unfold execWait at h
  exact State.issue_wf h hm (fun _ _ => hm)

theorem execNop_wf (h : execNop s = .next t) (hm : s.mem.wf = true) : t.mem.wf = true := by
  unfold execNop at h
  exact State.issue_wf h hm (fun _ _ => hm)

theorem execHalt_wf (h : execHalt s = .next t) (hm : s.mem.wf = true) : t.mem.wf = true := by
  unfold execHalt at h
  exact State.issue_wf h hm (fun _ _ => State.wf_ite hm hm)

theorem execSafe_wf {i} (h : execSafe i s = .next t) (hm : s.mem.wf = true) : t.mem.wf = true := by
  unfold execSafe at h
  refine State.issue_wf h hm (fun _ _ => ?_)
  dsimp only
  split
  · exact hm
  · split
    · exact State.reservedUse_wf hm
    · exact hm

theorem execTrap_wf {code} (h : execTrap code s = .next t) (hm : s.mem.wf = true) : t.mem.wf = true := by
  unfold execTrap at h
  exact State.issue_wf h hm (fun _ _ => State.wf_ite (State.reservedUse_wf hm) (State.exception_wf hm))

theorem execEret_wf (h : execEret s = .next t) (hm : s.mem.wf = true) : t.mem.wf = true := by
  unfold execEret at h
  exact State.issue_wf h hm (fun _ _ => State.wf_ite hm (State.reservedUse_wf hm))

theorem fence_wf {rel scope f} (h : fence rel scope f s = .next t) (hm : s.mem.wf = true) : t.mem.wf = true := by
  unfold fence at h
  exact State.issue_wf h hm (fun _ _ => State.wf_ite (State.publish_wf hm) hm)

theorem execDrain_wf {p} (h : execDrain p s = .next t) (hm : s.mem.wf = true) : t.mem.wf = true := by
  unfold execDrain at h
  exact State.issue_wf h hm (fun _ _ => State.wf_ite hm (State.wf_ite hm hm))

theorem jumpReg_wf {a} (h : jumpReg a s = .next t) (hm : s.mem.wf = true) : t.mem.wf = true := by
  unfold jumpReg at h
  exact State.issue_wf h hm (fun _ _ => State.wf_ite hm (State.wf_ite (State.illegal_wf hm) hm))

theorem execMfs_wf {d num} (h : execMfs d num s = .next t) (hm : s.mem.wf = true) : t.mem.wf = true := by
  unfold execMfs at h
  exact State.issue_wf h hm (fun _ _ => State.wf_ite (State.reservedUse_wf hm) (State.writeReg_wf hm))

theorem execMts_wf {a num} (h : execMts a num s = .next t) (hm : s.mem.wf = true) : t.mem.wf = true := by
  unfold execMts at h
  refine State.issue_wf h hm (fun _ _ => ?_)
  dsimp only
  split
  · exact hm
  · exact hm
  · exact hm
  · exact State.wf_ite (State.reservedUse_wf hm) (State.reservedUse_wf hm)

theorem execMld_wf {a m} (h : execMld a m s = .next t) (hm : s.mem.wf = true) : t.mem.wf = true := by
  unfold execMld at h
  exact State.issue_wf h hm (fun _ _ => State.startAccess_wf hm)

theorem execMst_wf {a m} (h : execMst a m s = .next t) (hm : s.mem.wf = true) : t.mem.wf = true := by
  unfold execMst at h
  exact State.issue_wf h hm (fun _ _ => State.startAccess_wf hm)

theorem State.writeMask_wf {n m v} (hm : s.mem.wf = true) : (s.writeMask n m v).mem.wf = true := by
  unfold State.writeMask
  exact State.wf_ite hm hm

theorem maskBit_wf {v a m} (h : maskBit v a m s = .next t) (hm : s.mem.wf = true) : t.mem.wf = true := by
  unfold maskBit at h
  exact State.issue_wf h hm (fun _ _ => State.writeMask_wf hm)

theorem execMtst_wf {a p m} (h : execMtst a p m s = .next t) (hm : s.mem.wf = true) : t.mem.wf = true := by
  unfold execMtst at h
  exact State.issue_wf h hm fun _ _ => State.advance_wf (State.writePred_wf hm)

theorem execTraceS_wf {v} (h : execTraceS v s = .next t) (hm : s.mem.wf = true) : t.mem.wf = true := by
  unfold execTraceS at h
  exact State.issue_wf h hm (fun _ _ => State.traceCore_wf hm)

theorem ldForm_wf {signed sz pol opc d a o} (h : ldForm signed sz pol opc d a o s = .next t) (hm : s.mem.wf = true) : t.mem.wf = true := by
  unfold ldForm at h
  exact State.issue_wf h hm (fun _ _ => State.startAccess_wf hm)

theorem stForm_wf {sz pol opc v a o} (h : stForm sz pol opc v a o s = .next t) (hm : s.mem.wf = true) : t.mem.wf = true := by
  unfold stForm at h
  exact State.issue_wf h hm (fun _ _ => State.startAccess_wf hm)

theorem State.issueAgain_wf {n a} (hm : s.mem.wf = true) : (s.issueAgain n a).mem.wf = true := by
  unfold State.issueAgain
  split
  · exact hm
  · exact State.wf_ite hm (State.scalarMemFault_wf hm)

theorem State.pickPiece_wf {a x} (h : s.pickPiece a = x) (hm : s.mem.wf = true) : x.2.mem.wf = true := by
  subst h
  unfold State.pickPiece
  split <;> exact hm

theorem State.pieced_wf {n : Nat} {f : State → Access → State} {x : State × Access}
    (hf : ∀ s a, s.mem.wf = true → (f s a).mem.wf = true) (hm : x.1.mem.wf = true) : (State.pieced n f x).mem.wf = true := by
  obtain ⟨u, a⟩ := x
  exact State.wf_ite (hf u a hm) hm

theorem State.landReg_wf {n r v} (hm : s.mem.wf = true) : (s.landReg n r v).mem.wf = true := by
  unfold State.landReg
  exact State.wf_ite hm hm

theorem State.landAccess_wf {n a v} (hm : s.mem.wf = true) : (s.landAccess n a v).mem.wf = true := by
  unfold State.landAccess
  exact State.landReg_wf hm

theorem State.loadPiece_wf {n a p x} (h : s.loadPiece n a p = .ok x) (hm : s.mem.wf = true) : x.1.mem.wf = true := by
  unfold State.loadPiece at h
  split at h
  · cases h
  · next heq =>
    cases h
    exact (State.loadBytes_wf heq hm :)

theorem State.storePiece_wf {n a p x} (h : s.storePiece n a p = .ok x) (hm : s.mem.wf = true) : x.1.mem.wf = true := by
  unfold State.storePiece at h
  obtain ⟨q, hq, rfl⟩ := ok_of_map h
  exact (State.storeBytes_wf hq hm :)

theorem State.homeAmo_wf {va pa bytes op x cmp p} (h : s.homeAmo va pa bytes op x cmp = .ok p) (hm : s.mem.wf = true)
    : p.1.mem.wf = true := by
  unfold State.homeAmo at h
  split at h
  · cases h
  · dsimp only at h
    split at h
    · cases h
      exact hm
    · cases h
      exact Memory.wf_writeNat _ _ _ hm

theorem State.amoLog_wf {mode k pa agent pc soff img} (hm : s.mem.wf = true) : (s.amoLog mode k pa agent pc soff img).mem.wf = true := by
  unfold State.amoLog
  split
  · exact State.trace_wf hm
  · split
    · exact hm
    · exact State.consumeLog_wf hm
  · exact hm

theorem State.performPld_wf {n a} (h : s.performPld n a = .ok t) (hm : s.mem.wf = true) : t.mem.wf = true := by
  unfold State.performPld at h
  dsimp only at h
  split at h
  · cases h
  · split at h
    · cases h
      exact State.landAccess_wf hm
    · split at h
      · cases h
        exact hm
      · cases h
        exact hm

theorem State.perform_wf {n a} (h : s.perform n a = .ok t) (hm : s.mem.wf = true) : t.mem.wf = true := by
  unfold State.perform at h
  dsimp only at h
  split at h
  · next heq =>
    cases h
    exact (State.pickPiece_wf heq hm :)
  · next p u heq =>
    have hu : u.mem.wf = true := State.pickPiece_wf heq hm
    split at h
    · obtain ⟨q, hq, rfl⟩ := ok_of_map h
      exact State.pieced_wf (fun _ _ hs => State.landAccess_wf hs) (State.loadPiece_wf hq hu)
    · obtain ⟨q, hq, rfl⟩ := ok_of_map h
      exact State.pieced_wf (fun _ _ hs => hs) (State.loadPiece_wf hq hu)
    · obtain ⟨q, hq, rfl⟩ := ok_of_map h
      exact State.pieced_wf (fun _ _ hs => hs) (State.storePiece_wf hq hu)
    · obtain ⟨q, hq, rfl⟩ := ok_of_map h
      exact State.pieced_wf (fun _ _ hs => hs) (State.storePiece_wf hq hu)
    · split at h
      · cases h
        exact hu
      · split at h
        · cases h
        · next heq2 =>
          cases h
          exact State.landAccess_wf (State.amoLog_wf (State.homeAmo_wf heq2 hu))
    · exact State.performPld_wf h hu
    · obtain ⟨q, hq, rfl⟩ := ok_of_map h
      exact (State.fillWord_wf hq hu :)
    · split at h
      · cases h
      · cases h
        exact hu

theorem State.tryAccess_wf {n id refused} (hm : s.mem.wf = true) : (s.tryAccess n id refused).mem.wf = true := by
  unfold State.tryAccess
  dsimp only
  split
  · exact hm
  · refine State.wf_ite (State.issueAgain_wf hm) (State.wf_ite hm ?_)
    split
    · next heq => exact State.perform_wf heq hm
    · exact State.scalarMemFault_wf hm

theorem execScalarAccessComplete_wf {core acc} (h : execScalarAccessComplete core acc s = .next t) (hm : s.mem.wf = true)
    : t.mem.wf = true := by
  unfold execScalarAccessComplete at h
  cases h
  exact State.tryAccess_wf hm

theorem State.landDeferral_wf {slot} (hm : s.mem.wf = true) : (s.landDeferral slot).mem.wf = true := by
  unfold State.landDeferral
  dsimp only
  split
  · exact hm
  · split
    · exact hm
    · split
      · split
        · exact hm
        · exact State.landAccess_wf hm
      · exact hm

theorem execPldDeferredComplete_wf {slot} (h : execPldDeferredComplete slot s = .next t) (hm : s.mem.wf = true) : t.mem.wf = true := by
  unfold execPldDeferredComplete at h
  cases h
  exact State.landDeferral_wf hm

theorem State.elemMemFault_wf {n r i f} (hm : s.mem.wf = true) : (s.elemMemFault n r i f).mem.wf = true := by
  unfold State.elemMemFault
  exact State.wf_ite hm (State.wf_ite (State.coreFault_wf hm) (State.coreFault_wf hm))

theorem State.pldaAccess_wf {n r va out} (h : s.pldaAccess n r va = .done t out) (hm : s.mem.wf = true) : t.mem.wf = true := by
  unfold State.pldaAccess at h
  split at h
  · cases h
  · split at h
    · cases h
    · split at h
      · cases h
        exact hm
      · split at h
        · cases h
        · cases h
          exact hm

theorem State.pldaAgain_wf {n r id va} (hm : s.mem.wf = true) : (s.pldaAgain n r id va).mem.wf = true := by
  unfold State.pldaAgain
  refine State.wf_ite hm ?_
  split
  · exact hm
  · exact State.elemMemFault_wf hm
  · next heq => exact (State.pldaAccess_wf heq hm :)

theorem execPldReissue_wf {core acc} (h : execPldReissue core acc s = .next t) (hm : s.mem.wf = true) : t.mem.wf = true := by
  unfold execPldReissue at h
  cases h
  split
  · exact State.pldaAgain_wf hm
  · exact State.tryAccess_wf hm

theorem State.issueActing_wf {n opc w} (hm : s.mem.wf = true) : (s.issueActing n opc w).mem.wf = true := by
  unfold State.issueActing
  exact State.wf_ite (State.wf_ite (State.claimReg_wf hm) hm) (State.wf_ite (State.claimReg_wf hm) hm)

theorem issueCmd_wf {opc w} (h : issueCmd opc w s = .next t) (hm : s.mem.wf = true) : t.mem.wf = true := by
  unfold issueCmd at h
  refine outcome_ite_wf h (next_wf · hm) fun h => ?_
  refine outcome_ite_wf h (next_wf · (State.reservedAs_wf hm)) fun h => ?_
  refine outcome_ite_wf h (next_wf · (State.reservedAs_wf hm)) fun h => ?_
  refine outcome_ite_wf h (next_wf · hm) fun h => ?_
  refine outcome_ite_wf h (next_wf · hm) fun h => ?_
  refine outcome_ite_wf h (next_wf · (State.wf_ite hm hm)) fun h => ?_
  refine outcome_ite_wf h (next_wf · (State.wf_ite hm hm)) fun h => ?_
  exact outcome_ite_wf h (next_wf · hm) (next_wf · (State.issueActing_wf hm))

theorem State.readArm_wf {arm p} (h : s.readArm arm = .ok p) (hm : s.mem.wf = true) : p.1.mem.wf = true :=
  State.armEntry_wf (i := arm.done) h hm

theorem State.cmdFaultAs_wf {k kind loc cls sub sev addr restart} (hm : s.mem.wf = true) :
    (s.cmdFaultAs k kind loc cls sub sev addr restart).mem.wf = true := by
  unfold State.cmdFaultAs
  extract_lets node image fault img s1
  have h1 : s1.mem.wf = true := State.report_wf hm
  cases sev with
  | fatal =>
    dsimp only
    split
    · exact State.cancelCore_wf h1
    · exact State.cancelNode_wf h1
  | paused => exact State.updCmd_wf h1
  | reported => exact h1

theorem State.cmdMemFault_wf {k f restart} (hm : s.mem.wf = true) : (s.cmdMemFault k f restart).mem.wf = true := by
  unfold State.cmdMemFault
  exact State.wf_ite hm (State.cmdFaultAs_wf hm)

theorem State.cmdFault_wf {k sub addr restart} (hm : s.mem.wf = true) : (s.cmdFault k sub addr restart).mem.wf = true := by
  unfold State.cmdFault
  exact State.cmdFaultAs_wf hm

theorem State.badWord_wf {k word} (hm : s.mem.wf = true) : (s.badWord k word).mem.wf = true := by
  unfold State.badWord
  exact State.cmdFaultAs_wf hm

theorem State.mxSetUp_wf {n k} (h : s.mxSetUp n k = .ok t) (hm : s.mem.wf = true) : t.mem.wf = true := by
  unfold State.mxSetUp at h
  split at h
  · cases h
    exact hm
  · split at h
    · cases h
    · cases h
      exact hm

theorem State.mxSetUp_error_wf {n k} (h : s.mxSetUp n k = .error t) (hm : s.mem.wf = true) : t.mem.wf = true := by
  unfold State.mxSetUp at h
  split at h
  · cases h
  · split at h
    · cases h
      exact State.badWord_wf hm
    · cases h

theorem State.mxPrepare_wf {n k} (h : s.mxPrepare n k = .ok t) (hm : s.mem.wf = true) : t.mem.wf = true := by
  unfold State.mxPrepare at h
  split at h
  · exact State.mxSetUp_wf h hm
  · split at h
    · cases h
    · next heq =>
      split at h
      · cases h
      · next heq1 =>
        dsimp only at h
        split at h
        · cases h
        · exact State.mxSetUp_wf h (State.load_wf heq1 (State.load_wf heq hm))

theorem State.mxPrepare_error_wf {n k} (h : s.mxPrepare n k = .error t) (hm : s.mem.wf = true) : t.mem.wf = true := by
  unfold State.mxPrepare at h
  split at h
  · exact State.mxSetUp_error_wf h hm
  · split at h
    · cases h
      exact State.cmdMemFault_wf hm
    · next heq =>
      have h1 := State.load_wf heq hm
      split at h
      · cases h
        exact State.cmdMemFault_wf h1
      · next heq1 =>
        have h2 := State.load_wf heq1 h1
        dsimp only at h
        split at h
        · cases h
          exact State.cmdFault_wf h2
        · exact State.mxSetUp_error_wf h h2

theorem State.refill_wf {n p m u} (hm : u.mem.wf = true) : (State.refill n p m u).mem.wf = true := by
  induction m generalizing u with
  | zero =>
    unfold State.refill
    exact hm
  | succ _ ih =>
    unfold State.refill
    dsimp only
    split
    · exact hm
    · exact State.wf_ite hm (State.wf_ite (State.badWord_wf hm) (ih hm))

theorem State.portDone_wf {n p} (hm : s.mem.wf = true) : (s.portDone n p).mem.wf = true := by
  unfold State.portDone
  dsimp only
  split <;> exact State.refill_wf (State.wf_ite hm (State.finishCmds_wf hm))

theorem State.enterMx_wf {n k} (hm : s.mem.wf = true) : (s.enterMx n k).mem.wf = true := by
  unfold State.enterMx
  dsimp only
  split
  · split
    · exact State.cmdFault_wf hm
    · split
      · exact hm
      · split
        · split
          · next heq4 => exact State.mxPrepare_error_wf heq4 hm
          · next heq4 => exact State.mxPrepare_wf heq4 hm
        · exact hm
  · split
    · exact State.cmdFault_wf hm
    · exact State.wf_ite (State.wf_ite (State.cmdFault_wf hm) (State.portDone_wf hm)) hm

theorem State.armStep_wf {n arm} (hm : s.mem.wf = true) : (s.armStep n arm).mem.wf = true := by
  unfold State.armStep
  dsimp only
  split
  · exact hm
  · split
    · exact State.cmdMemFault_wf hm
    · next heq => exact State.wf_ite (State.readArm_wf heq hm) (State.wf_ite (State.cmdFault_wf (State.readArm_wf heq hm)) (State.wf_ite
        (State.cmdFault_wf (State.readArm_wf heq hm)) (State.wf_ite hm (State.enterMx_wf (State.readArm_wf heq hm)))))

theorem execArmEntryStart_wf {cmd} (h : execArmEntryStart cmd s = .next t) (hm : s.mem.wf = true) : t.mem.wf = true := by
  unfold execArmEntryStart at h
  cases h
  split
  · exact hm
  · split
    · exact State.armStep_wf hm
    · exact hm

theorem State.loadNat_wf {g pol va n p} (h : s.loadNat g pol va n = .ok p) (hm : s.mem.wf = true) : p.1.mem.wf = true := by
  unfold State.loadNat at h
  obtain ⟨q, hq, rfl⟩ := ok_of_map h
  exact State.load_wf hq hm

theorem State.rowPtrs_wf {k r p} (h : s.rowPtrs k r = .ok p) (hm : s.mem.wf = true) : p.1.mem.wf = true := by
  unfold State.rowPtrs at h
  split at h
  · cases h
  · next heq =>
    split at h
    · cases h
    · next heq1 =>
      split at h
      · cases h
      · cases h
        exact State.loadNat_wf (ok_of_asA heq1) (State.loadNat_wf (ok_of_asA heq) hm)

theorem State.scanCols_wf {α : Type} {k from_ to_ lim} {read : State → Nat → Nat → Except MxErr (State × α)} {prev p m} {x : State × List α}
    (h : s.scanCols k from_ to_ lim read prev p m = .ok x)
    (hr : ∀ s p c x, read s p c = .ok x → s.mem.wf = true → x.1.mem.wf = true) (hm : s.mem.wf = true) : x.1.mem.wf = true := by
  induction m generalizing s prev p x with
  | zero =>
    cases h
    exact hm
  | succ _ ih =>
    unfold State.scanCols at h
    split at h
    · cases h
    · next s1 c heq =>
      have h1 : s1.mem.wf = true := State.loadNat_wf (ok_of_asA heq) hm
      generalize (decide (lim ≤ c) || _) = bad at h
      split at h
      · cases h
      · split at h
        · cases h
          exact h1
        · split at h
          · cases h
          · next s2 y heq2 =>
            have h2 : s2.mem.wf = true := by
              split at heq2
              · obtain ⟨q, hq, hp⟩ := ok_of_map heq2
                cases hp
                exact (hr _ _ _ _ hq h1 :)
              · cases heq2
                exact h1
            split at h
            · cases h
              exact h2
            · split at h
              · cases h
              · next heq3 =>
                cases h
                exact (ih heq3 h2 :)

theorem State.readPacked_wf {k t base idx p} (h : s.readPacked k t base idx = .ok p) (hm : s.mem.wf = true) : p.1.mem.wf = true := by
  unfold State.readPacked at h
  dsimp only at h
  split at h
  · obtain ⟨q, hq, rfl⟩ := ok_of_map h
    exact State.loadNat_wf hq hm
  · obtain ⟨q, hq, rfl⟩ := ok_of_map h
    exact State.loadNat_wf hq hm

theorem State.blockRows_wf {k p c x} (h : s.blockRows k p c = .ok x) (hm : s.mem.wf = true) : x.1.mem.wf = true := by
  unfold State.blockRows at h
  refine thread_wf h (fun _ _ _ h hs => thread_wf h (fun _ _ _ h hs => ?_) hs) hm
  obtain ⟨q, hq, rfl⟩ := ok_of_map h
  exact State.readPacked_wf (ok_of_asA hq) hs

theorem State.blockRowA_wf {k kk b p} (h : s.blockRowA k kk b = .ok p) (hm : s.mem.wf = true) : p.1.mem.wf = true := by
  unfold State.blockRowA at h
  dsimp only at h
  split at h
  · cases h
  · next heq =>
    obtain ⟨q, hq, rfl⟩ := ok_of_map h
    refine (State.scanCols_wf hq (fun _ _ _ _ h hs => ?_) (State.rowPtrs_wf heq hm) :)
    exact State.blockRows_wf h hs

theorem State.readDense_wf {k t row kk p} (h : s.readDense k t row kk = .ok p) (hm : s.mem.wf = true) : p.1.mem.wf = true := by
  unfold State.readDense at h
  exact State.readPacked_wf h hm

theorem State.spBlock_wf {k row q16 p} (h : s.spBlock k row q16 = .ok p) (hm : s.mem.wf = true) : p.1.mem.wf = true := by
  unfold State.spBlock at h
  dsimp only at h
  split at h
  · cases h
  · next s1 bb heq =>
    have h1 : s1.mem.wf = true := State.loadNat_wf (ok_of_asA heq) hm
    split at h
    · cases h
    · split at h
      · cases h
        exact h1
      · split at h
        · cases h
        · next s2 eb heq2 =>
          have h2 : s2.mem.wf = true := by
            split at heq2
            · cases heq2
              exact h1
            · exact State.loadNat_wf (ok_of_asA heq2) h1
          split at h
          · cases h
          · refine thread_wf h (fun _ _ _ h hs => ?_) h2
            obtain ⟨q, hq, rfl⟩ := ok_of_map h
            exact State.readPacked_wf (ok_of_asA hq) hs

theorem State.rowA_wf {k kk i p} (h : s.rowA k kk i = .ok p) (hm : s.mem.wf = true) : p.1.mem.wf = true := by
  unfold State.rowA at h
  dsimp only at h
  split at h
  · refine thread_wf h (fun _ _ _ h hs => ?_) hm
    obtain ⟨q, hq, rfl⟩ := ok_of_map h
    exact State.readDense_wf (ok_of_asA hq) hs
  · obtain ⟨q, hq, rfl⟩ := ok_of_map h
    refine (thread_wf hq (fun _ _ _ h hs => ?_) hm :)
    exact State.spBlock_wf h hs
  · split at h
    · cases h
    · next heq =>
      refine State.scanCols_wf h (fun _ _ _ _ h hs => ?_) (State.rowPtrs_wf heq hm)
      obtain ⟨q, hq, rfl⟩ := ok_of_map h
      exact State.readPacked_wf (ok_of_asA hq) hs

theorem State.rowsA_wf {k kk p} (h : s.rowsA k kk = .ok p) (hm : s.mem.wf = true) : p.1.mem.wf = true := by
  unfold State.rowsA at h
  split at h
  · obtain ⟨q, hq, rfl⟩ := ok_of_map h
    refine (thread_wf hq (fun _ _ _ h hs => ?_) hm :)
    exact State.blockRowA_wf h hs
  · exact thread_wf h (fun _ _ _ h hs => State.rowA_wf h hs) hm

theorem State.elemB_wf {k j kk p} (h : s.elemB k j kk = .ok p) (hm : s.mem.wf = true) : p.1.mem.wf = true := by
  unfold State.elemB at h
  split at h <;> exact State.readDense_wf (ok_of_asB h) hm

theorem State.kstepRead_wf {k kk p} (h : s.kstepRead k kk = .ok p) (hm : s.mem.wf = true) : p.1.mem.wf = true := by
  unfold State.kstepRead at h
  split at h
  · cases h
  · next heq =>
    dsimp only at h
    split at h
    · cases h
    · next heq1 =>
      cases h
      refine (thread_wf heq1 (fun _ _ _ h hs => ?_) (State.rowsA_wf heq hm) :)
      obtain ⟨q, hq, rfl⟩ := ok_of_map h
      exact thread_wf hq (fun _ _ _ h hs => State.elemB_wf h hs) hs

theorem State.kstepErr_wf {n k e} (hm : s.mem.wf = true) : (s.kstepErr n k e).mem.wf = true := by
  unfold State.kstepErr
  dsimp only
  split
  · exact State.wf_ite hm (State.cmdFaultAs_wf (State.wf_ite hm hm))
  · exact State.wf_ite hm (State.cmdFaultAs_wf (State.wf_ite hm hm))
  · exact State.cmdFaultAs_wf (State.wf_ite hm hm)

theorem State.readFactor_wf {k t row kk p} (h : s.readFactor k t row kk = .ok p) (hm : s.mem.wf = true) : p.1.mem.wf = true := by
  unfold State.readFactor at h
  split at h
  · cases h
    exact hm
  · dsimp only at h
    split at h
    · cases h
    · next heq =>
      split at h
      · cases h
        exact State.loadNat_wf heq hm
      · split at h
        · cases h
          exact State.loadNat_wf heq hm
        · split at h
          · cases h
          · next heq1 =>
            cases h
            exact State.loadNat_wf heq1 (State.loadNat_wf heq hm)

theorem State.factors_wf {k t row0 m kk p} (h : s.factors k t row0 m kk = .ok p) (hm : s.mem.wf = true) : p.1.mem.wf = true := by
  unfold State.factors at h
  exact thread_wf h (fun _ _ _ h hs => State.readFactor_wf h hs) hm

theorem State.kstepFactors_wf {k kk p} (h : s.kstepFactors k kk = .ok p) (hm : s.mem.wf = true) : p.1.mem.wf = true := by
  unfold State.kstepFactors at h
  refine thread_wf h (fun _ _ _ h hs => ?_) hm
  dsimp only at h
  split at h
  · cases h
  · next s1 fa heq =>
    have h1 : s1.mem.wf = true := State.factors_wf (ok_of_asA heq) hs
    split at h
    · cases h
    · next heq2 =>
      cases h
      split at heq2
      · cases heq2
        exact h1
      · exact (State.factors_wf (ok_of_asB heq2) h1 :)

theorem State.raise_wf {n f} (hm : s.mem.wf = true) : (s.raise n f).mem.wf = true := by
  unfold State.raise
  exact State.wf_ite hm hm

theorem State.raiseFor_wf {k f} (hm : s.mem.wf = true) : (s.raiseFor k f).mem.wf = true := by
  unfold State.raiseFor
  dsimp only
  split
  · exact State.raise_wf hm
  · split
    · exact hm
    · split
      · exact hm
      · split <;> exact hm

theorem State.kstep_wf {n k0} (hm : s.mem.wf = true) : (s.kstep n k0).mem.wf = true := by
  unfold State.kstep
  dsimp only
  split
  · exact hm
  · split
    · next heq => exact State.mxPrepare_error_wf heq hm
    · next heq =>
      split
      · exact State.mxPrepare_wf heq hm
      · split
        · exact State.mxPrepare_wf heq hm
        · split
          · exact State.kstepErr_wf (State.mxPrepare_wf heq hm)
          · next heq2 =>
            split
            · exact State.kstepErr_wf (State.kstepRead_wf heq2 (State.mxPrepare_wf heq hm))
            · next heq3 => exact State.wf_ite (State.badWord_wf (State.kstepFactors_wf heq3 (State.kstepRead_wf heq2
                (State.mxPrepare_wf heq hm)))) (State.raiseFor_wf (State.kstepFactors_wf heq3 (State.kstepRead_wf heq2
                (State.mxPrepare_wf heq hm))))

theorem execKstepComplete_wf {cmd} (h : execKstepComplete cmd s = .next t) (hm : s.mem.wf = true) : t.mem.wf = true := by
  unfold execKstepComplete at h
  cases h
  split
  · exact hm
  · split
    · exact State.kstep_wf hm
    · exact hm

theorem State.ixFault_wf {k sub bad} (hm : s.mem.wf = true) : (s.ixFault k sub bad).mem.wf = true := by
  unfold State.ixFault
  exact State.cmdFault_wf hm

theorem State.openGroup_wf {k xs} (hm : s.mem.wf = true) : (s.openGroup k xs).mem.wf = true := by
  unfold State.openGroup
  dsimp only
  split
  · exact State.ixFault_wf hm
  · split
    · exact State.ixFault_wf hm
    · split
      · exact State.cmdFaultAs_wf hm
      · exact hm

theorem State.takeIndices_wf {k m more} (hm : s.mem.wf = true) : (s.takeIndices k m more).mem.wf = true := by
  unfold State.takeIndices
  dsimp only
  split <;> exact hm

theorem State.readList_wf {k va n p} (h : s.readList k va n = .ok p) (hm : s.mem.wf = true) : p.1.mem.wf = true := by
  unfold State.readList at h
  exact thread_wf h (fun _ _ _ h hs => State.loadNat_wf h hs) hm

theorem State.beginGroup_wf {k} (hm : s.mem.wf = true) : (s.beginGroup k).mem.wf = true := by
  unfold State.beginGroup
  dsimp only
  split
  · exact State.wf_ite hm (State.wf_ite (State.openGroup_wf (State.takeIndices_wf hm)) (State.takeIndices_wf hm))
  · split
    · exact State.cmdMemFault_wf hm
    · next heq => exact State.openGroup_wf (State.readList_wf heq hm)

theorem State.destsOk_wf {k l} (h : s.destsOk k l = .ok t) (hm : s.mem.wf = true) : t.mem.wf = true := by
  induction l generalizing s t with
  | nil =>
    unfold State.destsOk at h
    cases h
    exact hm
  | cons _ _ ih =>
    unfold State.destsOk at h
    split at h
    · cases h
    · exact ih h (State.keepPages_wf hm)

theorem State.gatherRow_wf {k x p} (h : s.gatherRow k x = .ok p) (hm : s.mem.wf = true) : p.1.mem.wf = true := by
  unfold State.gatherRow at h
  split at h
  · cases h
  · next heq =>
    obtain ⟨q, hq, rfl⟩ := ok_of_map h
    exact State.destsOk_wf hq (State.load_wf heq hm)

theorem State.tear_wf {id g va n} (hm : s.mem.wf = true) : (s.tear id g va n).mem.wf = true := by
  unfold State.tear
  split <;> exact hm

theorem State.gatherWrite_wf {k buf l} (h : s.gatherWrite k buf l = .ok t) (hm : s.mem.wf = true) : t.mem.wf = true := by
  induction l generalizing s t with
  | nil =>
    unfold State.gatherWrite at h
    cases h
    exact hm
  | cons _ _ ih =>
    unfold State.gatherWrite at h
    split at h
    · cases h
    · next heq => exact ih h (State.store_wf heq hm)

theorem State.gatherGroup_wf {k} (hm : s.mem.wf = true) : (s.gatherGroup k).mem.wf = true := by
  unfold State.gatherGroup
  split
  · exact State.cmdMemFault_wf hm
  · next heq =>
    have hs := thread_wf heq (fun _ _ _ h hs => State.gatherRow_wf h hs) hm
    split
    · exact State.cmdMemFault_wf hs
    · next heq1 => exact (State.gatherWrite_wf heq1 hs :)

theorem State.scatterValue_wf {k x p} (h : s.scatterValue k x = .ok p) (hm : s.mem.wf = true) : p.1.mem.wf = true := by
  unfold State.scatterValue at h
  dsimp only at h
  split at h
  · cases h
  · next heq =>
    have hs := thread_wf heq (fun _ _ _ h hs => State.load_wf h hs) hm
    split at h <;>
    · cases h
      exact hs

theorem State.accumulate_wf {k va l p} (h : s.accumulate k va l = .ok p) (hm : s.mem.wf = true) : p.1.mem.wf = true := by
  induction l generalizing s va p with
  | nil =>
    unfold State.accumulate at h
    cases h
    exact hm
  | cons _ _ ih =>
    unfold State.accumulate at h
    dsimp only at h
    split at h
    · cases h
    · next heq =>
      split at h
      · cases h
      · next heq1 =>
        split at h
        · cases h
        · next heq2 =>
          cases h
          exact (ih heq2 (State.store_wf heq1 (State.loadNat_wf heq hm)) :)

theorem State.cover_wf {id whole va pa n p} (h : s.cover id whole va pa n = p) (hm : s.mem.wf = true) : p.1.mem.wf = true := by
  unfold State.cover at h
  split at h
  · cases h
    exact hm
  · dsimp only at h
    split at h
    · cases h
      exact hm
    · cases h
      exact hm

theorem State.storeFill_wf {g whole va l} (h : s.storeFill g whole va l = .ok t) (hm : s.mem.wf = true) : t.mem.wf = true := by
  induction hn : l.length using Nat.strong_induction_on generalizing s va l with
  | h m ih =>
    unfold State.storeFill at h
    split at h
    · next r =>
      have tail {v u pa w} (h : State.storeFill (if (State.cover v g.cmd (whole va) va pa 8).2 then
            (v.cover g.cmd (whole va) va pa 8).1.setPoison pa .clean else (v.cover g.cmd (whole va) va pa 8).1) g whole (va + 8) r = .ok t)
          (hf : State.fillWord u va pa w = .ok v) (hu : u.mem.wf = true) : t.mem.wf = true := by
        have hc : (v.cover g.cmd (whole va) va pa 8).1.mem.wf = true := State.cover_wf rfl (State.fillWord_wf hf hu)
        refine ih r.length ?_ h (State.wf_ite hc hc) rfl
        simp only [List.length_cons] at hn
        omega
      split at h
      · cases h
      · dsimp only at h
        split at h
        · split at h
          · cases h
          · split at h
            · cases h
            · next heq => exact tail h heq (State.settleAll_wf _ (State.tear_wf (State.keepPages_wf hm)))
        · split at h
          · cases h
          · split at h
            · cases h
            · next heq => exact tail h heq (State.tear_wf (State.keepPages_wf hm))
    · cases h
      exact hm

theorem State.scatterRow_wf {k x} (h : s.scatterRow k x = .ok t) (hm : s.mem.wf = true) : t.mem.wf = true := by
  unfold State.scatterRow at h
  dsimp only at h
  split at h
  · cases h
  · next heq =>
    split at h
    · cases h
    · split at h
      · obtain ⟨q, hq, rfl⟩ := ok_of_map h
        exact State.raiseFor_wf (State.accumulate_wf hq (State.scatterValue_wf heq hm))
      · split at h
        · obtain ⟨q, hq, rfl⟩ := ok_of_map h
          exact State.raiseFor_wf (State.storeFill_wf hq (State.scatterValue_wf heq hm))
        · obtain ⟨q, hq, rfl⟩ := ok_of_map h
          exact State.raiseFor_wf (State.store_wf hq (State.scatterValue_wf heq hm))

theorem State.scatterRows_wf {k l} (hm : s.mem.wf = true) : (s.scatterRows k l).mem.wf = true := by
  induction l generalizing s with
  | nil =>
    unfold State.scatterRows
    exact hm
  | cons _ _ ih =>
    unfold State.scatterRows
    split
    · split
      · exact hm
      · exact State.cmdMemFault_wf hm
    · next heq =>
      have hs := State.scatterRow_wf heq hm
      exact ih hs

theorem State.workGroup_wf {k} (hm : s.mem.wf = true) : (s.workGroup k).mem.wf = true := by
  unfold State.workGroup
  exact State.wf_ite hm (State.wf_ite (State.gatherGroup_wf hm) (State.scatterRows_wf hm))

theorem State.indexGroup_wf {k} (hm : s.mem.wf = true) : (s.indexGroup k).mem.wf = true := by
  unfold State.indexGroup
  dsimp only
  split
  · exact hm
  · split
    · split
      · exact State.wf_ite (State.beginGroup_wf hm) hm
      · exact State.workGroup_wf (State.wf_ite (State.beginGroup_wf hm) hm)
    · exact State.wf_ite (State.beginGroup_wf hm) hm

theorem execIndexGroupComplete_wf {cmd} (h : execIndexGroupComplete cmd s = .next t) (hm : s.mem.wf = true) : t.mem.wf = true := by
  unfold execIndexGroupComplete at h
  cases h
  split
  · exact hm
  · exact State.indexGroup_wf hm

theorem State.readRun_wf {k va size n p} (h : s.readRun k va size n = .ok p) (hm : s.mem.wf = true) : p.1.mem.wf = true := by
  unfold State.readRun at h
  exact thread_wf h (fun _ _ _ h hs => State.loadNat_wf h hs) hm

theorem State.readAuction_wf {k d p} (h : s.readAuction k d = .ok p) (hm : s.mem.wf = true) : p.1.mem.wf = true := by
  unfold State.readAuction at h
  split at h
  · cases h
  · next s1 sc heq =>
    have h1 : s1.mem.wf = true := thread_wf heq (fun _ _ _ h hs => State.readRun_wf h hs) hm
    split at h
    · cases h
    · next s2 caps heq2 =>
      have h2 : s2.mem.wf = true := State.readRun_wf heq2 h1
      split at h
      · cases h
      · next heq3 =>
        cases h
        split at heq3
        · cases heq3
          exact h2
        · exact (State.readRun_wf heq3 h2 :)

theorem State.prepareAuc_wf {k d p} (h : s.prepareAuc k d = .ok p) (hm : s.mem.wf = true) : p.1.mem.wf = true := by
  unfold State.prepareAuc at h
  split at h
  · cases h
  · split at h
    · cases h
    · split at h
      · cases h
      · split at h
        · cases h
        · next heq1 =>
          split at h
          · cases h
            exact State.readAuction_wf heq1 hm
          · cases h

theorem State.failStatus_wf {k stbase} (hm : s.mem.wf = true) : (s.failStatus k stbase).mem.wf = true := by
  unfold State.failStatus
  split
  · exact hm
  · split
    · exact hm
    · split
      · exact hm
      · next heq1 => exact State.fillNow_wf heq1 hm

theorem State.loadAuc_wf {k} (hm : s.mem.wf = true) : (s.loadAuc k).mem.wf = true := by
  unfold State.loadAuc
  dsimp only
  split
  · exact State.cmdMemFault_wf hm
  · next heq =>
    split
    · exact State.cmdFault_wf (State.failStatus_wf (State.load_wf heq hm))
    · exact State.cmdMemFault_wf (State.wf_ite (State.failStatus_wf (State.load_wf heq hm)) (State.load_wf heq hm))
    · next heq1 => exact State.prepareAuc_wf heq1 (State.load_wf heq hm)

theorem State.auctionRound_wf {k} (hm : s.mem.wf = true) : (s.auctionRound k).mem.wf = true := by
  unfold State.auctionRound
  exact State.wf_ite hm (State.wf_ite (State.loadAuc_wf hm) (State.wf_ite (State.raiseFor_wf hm) hm))

theorem execAuctionRound_wf {cmd} (h : execAuctionRound cmd s = .next t) (hm : s.mem.wf = true) : t.mem.wf = true := by
  unfold execAuctionRound at h
  cases h
  split
  · exact hm
  · exact State.auctionRound_wf hm

theorem State.enterEngine_wf {d e x} (hm : s.mem.wf = true) : (s.enterEngine d e x).mem.wf = true := by
  unfold State.enterEngine
  dsimp only
  split <;> exact hm

theorem State.nodeAdvance_wf {d e} (hm : s.mem.wf = true) : (s.nodeAdvance d e).mem.wf = true := by
  unfold State.nodeAdvance
  split
  · exact hm
  · exact State.wf_ite (State.enterEngine_wf hm) hm

theorem State.advanceOwner_wf {k} (hm : s.mem.wf = true) : (s.advanceOwner k).mem.wf = true := by
  unfold State.advanceOwner
  split
  · exact hm
  · exact State.nodeAdvance_wf hm

theorem State.startCfg_wf {k} (hm : s.mem.wf = true) : (s.startCfg k).mem.wf = true := by
  unfold State.startCfg
  exact State.wf_ite (State.cmdFault_wf hm) (State.wf_ite (State.cmdFault_wf hm) hm)

theorem State.patchFault_wf {n k sub addr} (hm : s.mem.wf = true) : (s.patchFault n k sub addr).mem.wf = true := by
  unfold State.patchFault
  exact State.coreFault_wf hm

theorem State.readPatch_wf {n k} (hm : s.mem.wf = true) : (s.readPatch n k).mem.wf = true := by
  unfold State.readPatch
  dsimp only
  split
  · exact hm
  · split
    · exact State.cmdMemFault_wf hm
    · next heq =>
      split
      · exact State.patchFault_wf (State.load_wf heq hm)
      · exact State.wf_ite (State.patchFault_wf (State.load_wf heq hm)) (State.load_wf heq hm)

theorem State.startPatch_wf {n k} (hm : s.mem.wf = true) : (s.startPatch n k).mem.wf = true := by
  unfold State.startPatch
  exact State.wf_ite (State.cmdFault_wf hm) (State.wf_ite (State.cmdFault_wf hm) (State.wf_ite (State.cmdFault_wf hm)
    (State.readPatch_wf hm)))

theorem State.startIter_wf {n k} (hm : s.mem.wf = true) : (s.startIter n k).mem.wf = true := by
  unfold State.startIter
  exact State.finishCmd_wf hm

theorem State.startPace_wf {n k} (hm : s.mem.wf = true) : (s.startPace n k).mem.wf = true := by
  unfold State.startPace
  exact State.wf_ite (State.cmdFault_wf hm) (State.wf_ite (State.cmdFault_wf hm) (State.finishCmd_wf hm))

theorem State.readBind_wf {n w3 va p} (h : s.readBind n w3 va = .ok p) (hm : s.mem.wf = true) : p.1.mem.wf = true := by
  unfold State.readBind at h
  dsimp only at h
  split at h
  · cases h
  · split at h
    · cases h
    · split at h
      · cases h
        exact hm
      · split at h
        · cases h
        · split at h
          · cases h
          · split at h
            · cases h
            · next heq =>
              split at h
              · cases h
              · split at h
                · cases h
                · split at h
                  · cases h
                  · cases h
                    exact State.load_wf heq hm

theorem State.bindWindow_wf {n p w} (hm : s.mem.wf = true) : (s.bindWindow n p w).mem.wf = true := by
  unfold State.bindWindow
  exact State.wf_ite hm (State.flushBank_wf hm)

theorem State.applyBind_wf {n p w0 w3 d} (h : s.applyBind n p w0 w3 d = .ok t) (hm : s.mem.wf = true) : t.mem.wf = true := by
  unfold State.applyBind at h
  dsimp only at h
  split at h
  · cases h
  · cases h
    exact State.bindWindow_wf hm

theorem State.tryBind_wf {n k} (hm : s.mem.wf = true) : (s.tryBind n k).mem.wf = true := by
  unfold State.tryBind
  dsimp only
  split
  · exact hm
  · split
    · exact State.cmdMemFault_wf hm
    · exact State.cmdFaultAs_wf hm
    · next heq =>
      have h1 := State.readBind_wf heq hm
      split
      · exact State.cmdMemFault_wf h1
      · exact State.cmdFaultAs_wf h1
      · next heq1 =>
        have h2 := State.applyBind_wf heq1 h1
        exact State.wf_ite h2 (State.finishCmd_wf h2)

theorem State.startBind_wf {n k} (hm : s.mem.wf = true) : (s.startBind n k).mem.wf = true := by
  unfold State.startBind
  exact State.wf_ite (State.cmdFault_wf hm) (State.wf_ite (State.cmdFault_wf hm) (State.wf_ite (State.cmdFault_wf hm) (State.wf_ite
    (State.cmdFault_wf hm) (State.tryBind_wf hm))))

theorem State.startFeed_wf {n k} (hm : s.mem.wf = true) : (s.startFeed n k).mem.wf = true := by
  unfold State.startFeed
  exact State.wf_ite hm (State.wf_ite (State.cmdFault_wf hm) (State.wf_ite (State.cmdFault_wf hm) (State.wf_ite hm (State.wf_ite hm
    (State.portDone_wf hm)))))

theorem State.startTake_wf {n k} (hm : s.mem.wf = true) : (s.startTake n k).mem.wf = true := by
  unfold State.startTake
  exact State.wf_ite hm (State.wf_ite (State.cmdFault_wf hm) hm)

theorem State.startBatch_wf {k} (hm : s.mem.wf = true) : (s.startBatch k).mem.wf = true := by
  unfold State.startBatch
  exact State.finishCmd_wf hm

theorem State.startHurdle_wf {k} (hm : s.mem.wf = true) : (s.startHurdle k).mem.wf = true := by
  unfold State.startHurdle
  exact State.wf_ite (State.cmdFault_wf hm) (State.wf_ite (State.cmdFault_wf hm) hm)

theorem State.startCopy_wf {k} (hm : s.mem.wf = true) : (s.startCopy k).mem.wf = true := by
  unfold State.startCopy
  exact State.wf_ite (State.cmdFault_wf hm) (State.wf_ite (State.cmdFault_wf hm) (State.wf_ite (State.cmdFault_wf hm) (State.wf_ite
    (State.finishCmd_wf hm) (State.wf_ite (State.cmdFaultAs_wf hm) hm))))

theorem State.startMc_wf {n k} (hm : s.mem.wf = true) : (s.startMc n k).mem.wf = true := by
  unfold State.startMc
  refine State.wf_ite (State.cmdFault_wf hm) (State.wf_ite (State.cmdFault_wf hm) (State.wf_ite hm (State.wf_ite (State.wf_ite
    (State.finishCmds_wf (State.foldl_wf (fun _ _ hs => ?_) hm)) (State.foldl_wf (fun _ _ hs => ?_) hm)) hm)))
  · split <;> exact hs
  · split <;> exact hs

theorem State.startDem_wf {n k} (hm : s.mem.wf = true) : (s.startDem n k).mem.wf = true := by
  unfold State.startDem
  exact State.wf_ite hm (State.wf_ite (State.cmdFault_wf hm) (State.wf_ite (State.cmdFault_wf hm) (State.wf_ite
    (State.finishCmd_wf hm) hm)))

theorem State.startMx_wf {n k} (hm : s.mem.wf = true) : (s.startMx n k).mem.wf = true := by
  unfold State.startMx
  exact State.wf_ite hm (State.enterMx_wf hm)

theorem State.startArm_wf {k} (hm : s.mem.wf = true) : (s.startArm k).mem.wf = true := by
  unfold State.startArm
  exact State.wf_ite (State.cmdFault_wf hm) (State.wf_ite (State.cmdFault_wf hm) (State.wf_ite (State.cmdFault_wf hm) (State.wf_ite
    (State.cmdFault_wf hm) hm)))

theorem State.startIx_wf {k} (hm : s.mem.wf = true) : (s.startIx k).mem.wf = true := by
  unfold State.startIx
  split
  · exact hm
  · split
    · exact State.cmdFaultAs_wf hm
    · exact State.wf_ite (State.finishCmd_wf hm) hm

theorem State.startSel_wf {k} (hm : s.mem.wf = true) : (s.startSel k).mem.wf = true := by
  unfold State.startSel
  split
  · exact hm
  · split
    · exact State.cmdFaultAs_wf hm
    · exact hm

theorem State.startAuc_wf {k} (hm : s.mem.wf = true) : (s.startAuc k).mem.wf = true := by
  unfold State.startAuc
  exact State.wf_ite hm (State.wf_ite (State.cmdFault_wf hm) (State.wf_ite (State.cmdFault_wf hm) (State.wf_ite (State.loadAuc_wf hm) hm)))

theorem State.logGrants_wf {k j num l} (hm : s.mem.wf = true) : (s.logGrants k j num l).mem.wf = true := by
  induction l generalizing s with
  | nil =>
    unfold State.logGrants
    exact hm
  | cons _ _ ih =>
    unfold State.logGrants
    exact ih (State.trace_wf hm)

theorem State.tryDpost_wf {k gid} (hm : s.mem.wf = true) : (s.tryDpost k gid).mem.wf = true := by
  unfold State.tryDpost
  dsimp only
  split
  · exact hm
  · exact State.wf_ite hm (State.finishCmd_wf (State.wf_ite (State.logGrants_wf hm) hm))

theorem State.arriveGrants_wf {k gid c} (hm : s.mem.wf = true) : (s.arriveGrants k gid c).mem.wf = true := by
  unfold State.arriveGrants
  dsimp only
  split
  · split
    · exact State.tryDpost_wf (State.wf_ite hm hm)
    · exact State.tryDpost_wf hm
  · exact hm

theorem State.mirror_wf {own o} (hm : s.mem.wf = true) : (s.mirror own o).mem.wf = true := by
  unfold State.mirror
  split <;> exact hm

theorem State.tryCalendar_wf {k gid} (hm : s.mem.wf = true) : (s.tryCalendar k gid).mem.wf = true := by
  unfold State.tryCalendar
  dsimp only
  split
  · exact hm
  · exact State.wf_ite (State.arriveGrants_wf (State.mirror_wf hm)) hm

theorem State.arriveRow_wf {row} (hm : s.mem.wf = true) : (s.arriveRow row).mem.wf = true := by
  unfold State.arriveRow
  dsimp only
  split
  · exact hm
  · split
    · exact State.tryCalendar_wf hm
    · split
      · exact State.tryCalendar_wf (State.mirror_wf hm)
      · exact State.tryCalendar_wf hm

theorem State.postRow_wf {row} (hm : s.mem.wf = true) : (s.postRow row).mem.wf = true := by
  unfold State.postRow
  exact State.wf_ite (State.arriveRow_wf hm) hm

theorem State.divergeUnit_wf {k agent} (hm : s.mem.wf = true) : (s.divergeUnit k agent).mem.wf = true := by
  unfold State.divergeUnit
  exact State.trace_wf (State.traceStop_wf hm)

theorem State.loggedGrants_wf {k num m prev p} (h : s.loggedGrants k num m prev = p) (hm : s.mem.wf = true) : p.1.mem.wf = true := by
  subst h
  induction m generalizing s prev with
  | zero => exact hm
  | succ _ ih =>
    unfold State.loggedGrants
    dsimp only
    split
    · exact hm
    · split
      · exact hm
      · exact ih (State.consumeLog_wf hm)

theorem State.openRound_wf {k g members counts} (hm : s.mem.wf = true) : (s.openRound k g members counts).mem.wf = true := by
  unfold State.openRound
  exact State.wf_ite (State.postRow_wf (State.wf_ite (State.probeArb_wf hm) hm)) (State.wf_ite (State.postRow_wf (State.divergeUnit_wf
    (State.wf_ite (State.probeArb_wf hm) hm))) (State.arriveGrants_wf (State.loggedGrants_wf rfl (State.wf_ite (State.probeArb_wf hm) hm))))

theorem State.startXsend_wf {k g} (hm : s.mem.wf = true) : (s.startXsend k g).mem.wf = true := by
  unfold State.startXsend
  dsimp only
  split
  · split
    · exact State.cmdMemFault_wf hm
    · next heq1 => exact State.finishCmd_wf (State.store_wf heq1 hm)
  · exact hm

theorem State.startExchange_wf {k} (hm : s.mem.wf = true) : (s.startExchange k).mem.wf = true := by
  unfold State.startExchange
  dsimp only
  split
  · exact State.cmdFaultAs_wf hm
  · split
    · exact hm
    · split
      · exact State.cmdMemFault_wf hm
      · next heq1 =>
        split
        · exact State.cmdFault_wf (State.load_wf heq1 hm)
        · split
          · exact State.cmdFaultAs_wf (State.load_wf heq1 hm)
          · split
            · split
              · exact hm
              · split
                · exact State.cmdMemFault_wf (State.load_wf heq1 hm)
                · next heq3 =>
                  split
                  · exact State.cmdMemFault_wf (State.readRun_wf heq3 (State.load_wf heq1 hm))
                  · next heq4 => exact State.openRound_wf (State.readRun_wf heq4 (State.readRun_wf heq3 (State.load_wf heq1 hm)))
            · exact State.wf_ite hm (State.startXsend_wf (State.load_wf heq1 hm))
            · exact State.wf_ite hm (State.load_wf heq1 hm)

theorem State.startPlace_wf {k} (hm : s.mem.wf = true) : (s.startPlace k).mem.wf = true := by
  unfold State.startPlace
  exact State.wf_ite (State.cmdFault_wf hm) (State.wf_ite (State.cmdFault_wf hm) hm)

theorem State.askGlaunch_wf {k} (hm : s.mem.wf = true) : (s.askGlaunch k).mem.wf = true := by
  unfold State.askGlaunch
  exact State.wf_ite (State.requestLaunch_wf hm) hm

theorem State.startGlaunch_wf {k} (hm : s.mem.wf = true) : (s.startGlaunch k).mem.wf = true := by
  unfold State.startGlaunch
  exact State.wf_ite (State.cmdFault_wf hm) (State.wf_ite (State.cmdFault_wf hm) (State.askGlaunch_wf hm))

theorem State.startSig_wf {k} (hm : s.mem.wf = true) : (s.startSig k).mem.wf = true := by
  unfold State.startSig
  exact State.wf_ite hm (State.wf_ite (State.cmdFault_wf hm) hm)

theorem State.startMark_wf {n k} (hm : s.mem.wf = true) : (s.startMark n k).mem.wf = true := by
  unfold State.startMark
  exact State.finishCmd_wf (State.traceCore_wf hm)

theorem State.startOf_wf {k} (hm : s.mem.wf = true) : (s.startOf k).mem.wf = true := by
  unfold State.startOf
  dsimp only
  split
  · exact State.startCfg_wf hm
  · exact State.startPatch_wf hm
  · exact State.startCfg_wf hm
  · exact State.startIter_wf hm
  · exact State.startPace_wf hm
  · exact State.startBind_wf hm
  · exact State.startFeed_wf hm
  · exact State.startTake_wf hm
  · exact State.startBatch_wf hm
  · exact State.startHurdle_wf hm
  · exact State.startCopy_wf hm
  · exact State.startMc_wf hm
  · exact State.startDem_wf hm
  · exact State.startCopy_wf hm
  · exact State.startMx_wf hm
  · exact State.startMx_wf hm
  · exact State.startMx_wf hm
  · exact State.startMx_wf hm
  · exact State.startArm_wf hm
  · exact State.startMx_wf hm
  · exact State.startMx_wf hm
  · exact State.startIx_wf hm
  · exact State.startIx_wf hm
  · exact State.startIx_wf hm
  · exact State.startIx_wf hm
  · exact State.startSel_wf hm
  · exact State.startSel_wf hm
  · exact State.startAuc_wf hm
  · exact State.startAuc_wf hm
  · exact State.startExchange_wf hm
  · exact State.startExchange_wf hm
  · exact State.startExchange_wf hm
  · exact State.startPlace_wf hm
  · exact State.startGlaunch_wf hm
  · exact State.startSig_wf hm
  · exact State.startMark_wf hm
  · exact hm

theorem execCommandStart_wf {cmd} (h : execCommandStart cmd s = .next t) (hm : s.mem.wf = true) : t.mem.wf = true := by
  unfold execCommandStart at h
  split at h
  · cases h
    exact hm
  · split at h
    · cases h
      exact State.advanceOwner_wf (State.startOf_wf hm)
    · cases h
      exact hm

theorem State.cfgErr_wf {n k e} (hm : s.mem.wf = true) : (s.cfgErr n k e).mem.wf = true := by
  unfold State.cfgErr
  split
  · exact State.cmdMemFault_wf hm
  · exact State.coreFault_wf hm
  · exact State.cmdFaultAs_wf hm

theorem State.unbindBanks_wf {n l} (hm : s.mem.wf = true) : (s.unbindBanks n l).mem.wf = true := by
  induction l generalizing s with
  | nil =>
    unfold State.unbindBanks
    exact hm
  | cons _ _ ih =>
    unfold State.unbindBanks
    exact ih (State.bindWindow_wf hm)

theorem State.applyBinds_wf {n l} (h : s.applyBinds n l = .ok t) (hm : s.mem.wf = true) : t.mem.wf = true := by
  induction l generalizing s t with
  | nil =>
    unfold State.applyBinds at h
    cases h
    exact hm
  | cons _ _ ih =>
    unfold State.applyBinds at h
    split at h
    · cases h
    · cases h
    · next heq => exact ih h (State.applyBind_wf heq hm)

theorem State.install_wf {n va l keep} (h : s.install n va l keep = .ok t) (hm : s.mem.wf = true) : t.mem.wf = true := by
  unfold State.install at h
  dsimp only at h
  split at h
  · cases h
  · next heq =>
    cases h
    exact (State.applyBinds_wf heq (State.wf_ite hm (State.unbindBanks_wf hm)) :)

theorem State.goCfg_wf {n k} (hm : s.mem.wf = true) : (s.goCfg n k).mem.wf = true := by
  unfold State.goCfg
  dsimp only
  refine State.wf_ite hm (State.wf_ite hm ?_)
  split
  · exact State.cfgErr_wf (State.flushBanks_wf hm)
  · split
    · exact State.cfgErr_wf (State.flushBanks_wf hm)
    · next heq => exact State.finishCmd_wf (State.install_wf heq (State.endLoad_wf (State.flushBanks_wf hm)))

theorem State.goPatch_wf {n k} (hm : s.mem.wf = true) : (s.goPatch n k).mem.wf = true := by
  unfold State.goPatch
  exact State.wf_ite (State.readPatch_wf hm) (State.wf_ite hm (State.finishCmd_wf hm))

theorem State.goBind_wf {n k} (hm : s.mem.wf = true) : (s.goBind n k).mem.wf = true := by
  unfold State.goBind
  exact State.wf_ite (State.tryBind_wf hm) (State.wf_ite (State.finishCmd_wf hm) hm)

theorem State.goTake_wf {n k} (hm : s.mem.wf = true) : (s.goTake n k).mem.wf = true := by
  unfold State.goTake
  dsimp only
  split
  · exact hm
  · split
    · exact hm
    · exact State.finishCmd_wf (State.landReg_wf hm)

theorem State.releaseHurdles_wf (hm : s.mem.wf = true) : (s.releaseHurdles).mem.wf = true := by
  unfold State.releaseHurdles
  exact State.finishCmds_wf hm

theorem State.waitAt_wf {k v} (hm : s.mem.wf = true) : (s.waitAt k v).mem.wf = true := by
  unfold State.waitAt
  exact State.wf_ite (State.finishCmd_wf hm) hm

theorem State.waitOnly_wf {n k} (hm : s.mem.wf = true) : (s.waitOnly n k).mem.wf = true := by
  unfold State.waitOnly
  exact State.wf_ite hm (State.wf_ite (State.wf_ite (State.finishCmd_wf hm) (State.waitAt_wf hm)) (State.waitAt_wf hm))

theorem State.arriveDie_wf {n k} (hm : s.mem.wf = true) : (s.arriveDie n k).mem.wf = true := by
  unfold State.arriveDie
  exact State.wf_ite (State.cmdFault_wf hm) (State.waitAt_wf hm)

theorem State.goHurdle_wf {n k} (hm : s.mem.wf = true) : (s.goHurdle n k).mem.wf = true := by
  unfold State.goHurdle
  dsimp only
  split
  · exact State.releaseHurdles_wf hm
  · split
    · exact State.releaseHurdles_wf (State.waitOnly_wf hm)
    · split
      · exact hm
      · split
        · exact State.finishCmd_wf hm
        · exact State.releaseHurdles_wf (State.waitAt_wf hm)
        · exact State.releaseHurdles_wf (State.arriveDie_wf hm)

theorem State.putBytes_wf {g id pol whole l} (h : s.putBytes g id pol whole l = .ok t) (hm : s.mem.wf = true) : t.mem.wf = true := by
  induction l generalizing s t with
  | nil =>
    unfold State.putBytes at h
    cases h
    exact hm
  | cons _ _ ih =>
    unfold State.putBytes at h
    split at h
    · cases h
    · split at h
      · next heq1 =>
        split at h
        · cases h
        · next heq2 => exact ih h (State.storeByte_wf heq2 (State.cover_wf heq1 hm))

theorem State.putRing_wf {g root own r va es} (h : s.putRing g root own r va es = .ok t) (hm : s.mem.wf = true) : t.mem.wf = true := by
  unfold State.putRing at h
  dsimp only at h
  split at h
  · exact State.putBytes_wf h (State.keepPages_wf hm)
  · obtain ⟨q, hq, rfl⟩ := ok_of_map h
    exact (State.putBytes_wf hq (State.keepPages_wf hm) :)

theorem State.flushWord_wf {dst k r va} (h : s.flushWord dst k r va = .ok t) (hm : s.mem.wf = true) : t.mem.wf = true := by
  unfold State.flushWord at h
  dsimp only at h
  obtain ⟨q, hq, rfl⟩ := ok_of_map h
  split at hq
  · exact (State.storeFill_wf hq hm :)
  · split at hq
    · exact (State.putRing_wf hq hm :)
    · exact (State.putBytes_wf hq hm :)

theorem State.pieceBytes_wf {src k r q len p} (h : s.pieceBytes src k r q len = .ok p) (hm : s.mem.wf = true) : p.1.mem.wf = true := by
  unfold State.pieceBytes at h
  split at h
  · exact State.load_wf h hm
  · split at h
    · cases h
      exact hm
    · cases h
      exact hm

theorem State.movePiece_wf {src dst k r q} (h : s.movePiece src dst k r q = .ok t) (hm : s.mem.wf = true) : t.mem.wf = true := by
  unfold State.movePiece at h
  dsimp only at h
  split at h
  · cases h
  · split at h
    · cases h
    · next heq1 =>
      split at h
      · exact State.flushWord_wf h (State.pieceBytes_wf heq1 (State.keepPages_wf hm))
      · cases h
        exact State.pieceBytes_wf heq1 (State.keepPages_wf hm)

theorem State.readIndex_wf {k r p} (h : s.readIndex k r = .ok p) (hm : s.mem.wf = true) : p.1.mem.wf = true := by
  unfold State.readIndex at h
  exact State.loadNat_wf h hm

theorem State.beginRow_wf {k r p} (h : s.beginRow k r = .ok p) (hm : s.mem.wf = true) : p.1.mem.wf = true := by
  unfold State.beginRow at h
  split at h
  · cases h
  · next heq =>
    dsimp only at h
    split at h
    · cases h
    · split at h
      · cases h
      · cases h
        exact State.keepPages_wf (State.keepPages_wf (State.readIndex_wf heq hm))

theorem State.peekRows_wf {k} (hm : s.mem.wf = true) : (s.peekRows k).mem.wf = true := by
  unfold State.peekRows
  exact State.wf_ite hm hm

theorem State.copyRun_wf {n id m u} (hm : u.mem.wf = true) : (State.copyRun n id m u).mem.wf = true := by
  induction m generalizing u with
  | zero =>
    unfold State.copyRun
    exact hm
  | succ f ih =>
    unfold State.copyRun
    split
    · exact hm
    · next k _ =>
      refine State.wf_ite hm (State.wf_ite ?_ (State.wf_ite hm ?_))
      · split
        · exact State.finishCmd_wf hm
        · split
          · exact State.cmdMemFault_wf hm
          · next heq => exact ih (State.flushWord_wf heq hm)
      · extract_lets c r q piece
        have hp : ∀ v k, v.mem.wf = true → (piece v k).mem.wf = true := by
          intro v k hv
          refine State.wf_ite (ih hv) ?_
          split
          · exact State.wf_ite hv (State.cmdMemFault_wf hv)
          · next heq =>
            have hw := State.movePiece_wf heq hv
            exact ih hw
        split
        · split
          · exact State.cmdMemFault_wf hm
          · next heq =>
            have h1 := State.beginRow_wf heq hm
            exact hp _ _ (State.updCmd_wf (State.peekRows_wf h1))
        · exact hp _ _ hm

theorem State.copyGo_wf {n k} (hm : s.mem.wf = true) : (s.copyGo n k).mem.wf = true := by
  unfold State.copyGo
  exact State.copyRun_wf hm

theorem State.mcFault_wf {root own e} (hm : s.mem.wf = true) : (s.mcFault root own e).mem.wf = true := by
  unfold State.mcFault
  exact State.wf_ite hm (State.cmdMemFault_wf hm)

theorem State.mcFetch_wf {n root i} (h : s.mcFetch n root i = .ok t) (hm : s.mem.wf = true) : t.mem.wf = true := by
  unfold State.mcFetch at h
  obtain ⟨q, hq, rfl⟩ := ok_of_map h
  exact (State.load_wf hq hm :)

theorem State.mcPut_wf {m root own i} (h : s.mcPut m root own i = .ok t) (hm : s.mem.wf = true) : t.mem.wf = true := by
  unfold State.mcPut at h
  dsimp only at h
  exact State.putRing_wf h (State.tear_wf hm)

theorem State.mcRun_wf {n m rootId f u} (hm : u.mem.wf = true) : (State.mcRun n m rootId f u).mem.wf = true := by
  induction f generalizing u with
  | zero =>
    unfold State.mcRun
    exact hm
  | succ _ ih =>
    unfold State.mcRun
    dsimp only
    split
    · exact hm
    · split
      · exact hm
      · refine State.wf_ite hm ?_
        split
        · exact State.mcFault_wf hm
        · split
          · split
            · exact State.mcFault_wf hm
            · next heq =>
              have hs := State.mcFetch_wf heq hm
              exact ih hs
          · split
            · exact State.mcFault_wf hm
            · next heq =>
              have hs := State.mcPut_wf heq hm
              exact ih hs

theorem State.mcGo_wf {n k} (hm : s.mem.wf = true) : (s.mcGo n k).mem.wf = true := by
  unfold State.mcGo
  dsimp only
  have hs := State.foldl_wf (l := k.mcCores ((s.core n).members n)) (fun s (p : Nat × Nat) hs =>
    State.mcRun_wf (n := n) (m := p.1) (rootId := k.id) (f := 3 * k.total + 1) hs) hm
  exact State.wf_ite hm (State.wf_ite (State.finishCmds_wf hs) hs)

theorem State.goMm_wf {n k} (hm : s.mem.wf = true) : (s.goMm n k).mem.wf = true := by
  unfold State.goMm
  split
  · split
    · next heq => exact State.mxPrepare_error_wf heq hm
    · next heq => exact State.mxPrepare_wf heq hm
  · split
    · exact hm
    · split
      · split
        · exact State.finishCmd_wf (State.raiseFor_wf hm)
      · exact State.finishCmd_wf (State.wf_ite hm hm)

theorem State.goArm_wf {k} (hm : s.mem.wf = true) : (s.goArm k).mem.wf = true := by
  unfold State.goArm
  exact State.wf_ite (State.finishCmd_wf hm) hm

theorem State.accBegin_wf {k} (hm : s.mem.wf = true) : (s.accBegin k).mem.wf = true := by
  unfold State.accBegin
  exact State.wf_ite hm hm

theorem State.accLoad_wf {n k x} (h : s.accLoad n k x = .ok t) (hm : s.mem.wf = true) : t.mem.wf = true := by
  unfold State.accLoad at h
  dsimp only at h
  split at h
  · cases h
  · next heq =>
    split at h
    · cases h
      exact State.load_wf heq hm
    · cases h
      exact State.load_wf heq hm

theorem State.accStore_wf {n k x} (h : s.accStore n k x = .ok t) (hm : s.mem.wf = true) : t.mem.wf = true := by
  unfold State.accStore at h
  dsimp only at h
  split at h
  · cases h
  · refine List.foldlRecOn (motive := fun (r : Except MemFault State) => ∀ t, r = .ok t → t.mem.wf = true) _ _ ?_ (fun r hr w _ => ?_) t h
    · intro t h
      cases h
      exact hm
    · intro t h
      split at h
      · cases h
      · next u =>
        have hu := State.keepPages_wf (g := k.windowAgent) (va := 8 * w) (n := 8) (hr u rfl)
        exact State.putBytes_wf h (State.tear_wf hu)

theorem State.accElem_wf {n k} (h : s.accElem n k = .ok t) (hm : s.mem.wf = true) : t.mem.wf = true := by
  unfold State.accElem at h
  dsimp only at h
  split at h
  · cases h
    exact hm
  · exact State.accLoad_wf h hm
  · obtain ⟨q, hq, rfl⟩ := ok_of_map h
    have h1 := State.accStore_wf hq hm
    exact State.raiseFor_wf (k := k) h1

theorem State.accRun_wf {n id f u} (hm : u.mem.wf = true) : (State.accRun n id f u).mem.wf = true := by
  induction f generalizing u with
  | zero =>
    unfold State.accRun
    exact hm
  | succ _ ih =>
    unfold State.accRun
    split
    · exact hm
    · next v k heq =>
      obtain ⟨w, hw, hv⟩ := Option.bind_eq_some_iff.1 heq
      obtain ⟨j, -, rfl⟩ := Option.map_eq_some_iff.1 hw
      obtain ⟨i, -, hi⟩ := Option.map_eq_some_iff.1 hv
      cases hi
      have hv := State.accBegin_wf (k := j) hm
      refine State.wf_ite hv (State.wf_ite (State.finishCmd_wf (State.wf_ite hv hv)) (State.wf_ite (State.badWord_wf hv) ?_))
      split
      · exact State.wf_ite hv (State.cmdFaultAs_wf hv)
      · next heq1 => exact ih (State.accElem_wf heq1 hv)

theorem State.accGo_wf {n k} (hm : s.mem.wf = true) : (s.accGo n k).mem.wf = true := by
  unfold State.accGo
  exact State.accRun_wf hm

theorem State.goGrouped_wf {k} (hm : s.mem.wf = true) : (s.goGrouped k).mem.wf = true := by
  unfold State.goGrouped
  exact State.wf_ite (State.finishCmd_wf hm) hm

theorem State.listEntry_wf {k va i p} (h : s.listEntry k va i = .ok p) (hm : s.mem.wf = true) : p.1.mem.wf = true := by
  unfold State.listEntry at h
  exact State.loadNat_wf h hm

/-- The state a walk over two lists ends with. -/
def Walk.state : Walk → State
  | .done s _ => s
  | .unsorted s _ => s
  | .mem s _ => s

theorem State.walk_wf {k f i j m px py} (hm : s.mem.wf = true) : (State.walk k f s i j m px py).state.mem.wf = true := by
  induction f generalizing s i j m px py with
  | zero => exact hm
  | succ f ih =>
    unfold State.walk
    split
    · exact hm
    · split
      · exact hm
      · next heq =>
        have h1 := State.loadNat_wf heq hm
        split
        · exact hm
        · next heq2 =>
          have h2 := State.loadNat_wf heq2 h1
          split
          · exact h2
          · split
            · exact h2
            · split
              · exact ih h2
              · split
                · exact ih h2
                · split
                  · exact h2
                  · next heq3 => exact ih (State.store_wf heq3 h2)

theorem State.goIntersect_wf {k} (hm : s.mem.wf = true) : (s.goIntersect k).mem.wf = true := by
  unfold State.goIntersect
  refine State.wf_ite hm ?_
  have hw := State.walk_wf (k := k) (f := k.reqs + k.d.toNat / 2 ^ 32 + 1) (i := 0) (j := 0) (m := 0) (px := none) (py := none) hm
  split
  · next heq =>
    rw [heq] at hw
    exact State.ixFault_wf hw
  · next heq =>
    rw [heq] at hw
    exact State.cmdMemFault_wf hw
  · next heq =>
    rw [heq] at hw
    split
    · exact State.cmdMemFault_wf hw
    · next heq1 =>
      refine State.finishCmd_wf ?_
      split at heq1
      · exact State.storeFill_wf heq1 hw
      · exact State.store_wf heq1 hw

theorem State.storeWords_wf {k va ws} (h : s.storeWords k va ws = .ok t) (hm : s.mem.wf = true) : t.mem.wf = true := by
  unfold State.storeWords at h
  exact State.store_wf h hm

theorem State.goCount_wf {k} (hm : s.mem.wf = true) : (s.goCount k).mem.wf = true := by
  unfold State.goCount
  refine State.wf_ite hm ?_
  split
  · exact State.cmdMemFault_wf hm
  · next s0 keys heq =>
    have h0 : s0.mem.wf = true := State.readList_wf heq hm
    split
    · exact State.ixFault_wf h0
    · dsimp only
      split
      · exact State.cmdMemFault_wf h0
      · next s1 heq1 =>
        have h1 : s1.mem.wf = true := State.storeWords_wf heq1 h0
        split
        · exact State.cmdMemFault_wf h1
        · next s2 heq2 =>
          have h2 : s2.mem.wf = true := State.storeWords_wf heq2 h1
          split
          · exact State.cmdMemFault_wf h2
          · next s3 heq3 =>
            refine State.finishCmd_wf ?_
            split at heq3
            · cases heq3
              exact h2
            · exact State.storeWords_wf heq3 h2

theorem State.lineScores_wf {k l p} (h : s.lineScores k l = .ok p) (hm : s.mem.wf = true) : p.1.mem.wf = true := by
  unfold State.lineScores at h
  refine thread_wf h (fun _ _ _ h hs => ?_) hm
  obtain ⟨q, hq, rfl⟩ := ok_of_map h
  exact State.loadNat_wf hq hs

theorem State.selLine_wf {k l cs} (h : s.selLine k l cs = .ok t) (hm : s.mem.wf = true) : t.mem.wf = true := by
  unfold State.selLine at h
  dsimp only at h
  split at h
  · cases h
  · next heq =>
    split at h
    · cases h
      exact State.store_wf heq hm
    · obtain ⟨q, hq, rfl⟩ := ok_of_map h
      have h1 := State.store_wf hq (State.store_wf heq hm)
      exact State.raiseFor_wf h1

theorem State.selLines_wf {k l} (hm : s.mem.wf = true) : (s.selLines k l).mem.wf = true := by
  induction l generalizing s with
  | nil =>
    unfold State.selLines
    exact State.finishCmd_wf hm
  | cons _ _ ih =>
    unfold State.selLines
    split
    · exact State.wf_ite hm (State.cmdFaultAs_wf hm)
    · next heq =>
      split
      · exact State.cmdMemFault_wf (State.lineScores_wf heq hm)
      · next heq1 => exact ih (State.selLine_wf heq1 (State.lineScores_wf heq hm))

theorem State.goSel_wf {k} (hm : s.mem.wf = true) : (s.goSel k).mem.wf = true := by
  unfold State.goSel
  exact State.wf_ite (State.selLines_wf hm) hm

theorem State.storeOuts_wf {k l} (h : s.storeOuts k l = .ok t) (hm : s.mem.wf = true) : t.mem.wf = true := by
  induction l generalizing s t with
  | nil =>
    unfold State.storeOuts at h
    cases h
    exact hm
  | cons _ _ ih =>
    unfold State.storeOuts at h
    split at h
    · cases h
    · next heq => exact ih h (State.store_wf heq hm)

theorem State.aucOutFault_wf {k f} (hm : s.mem.wf = true) : (s.aucOutFault k f).mem.wf = true := by
  unfold State.aucOutFault
  exact State.wf_ite hm (State.wf_ite (State.cmdMemFault_wf (State.failStatus_wf hm)) (State.cmdMemFault_wf hm))

theorem State.endAuc_wf {k outs word} (hm : s.mem.wf = true) : (s.endAuc k outs word).mem.wf = true := by
  unfold State.endAuc
  dsimp only
  split
  · exact State.aucOutFault_wf hm
  · next heq =>
    split
    · exact State.aucOutFault_wf (State.storeOuts_wf heq hm)
    · split
      · next heq2 => exact State.finishCmd_wf (State.fillWord_wf heq2 (State.storeOuts_wf heq hm))
      · exact State.wf_ite (State.finishCmd_wf (State.cmdFaultAs_wf (State.storeOuts_wf heq hm))) (State.aucOutFault_wf
          (State.storeOuts_wf heq hm))

theorem State.goAuc_wf {k} (hm : s.mem.wf = true) : (s.goAuc k).mem.wf = true := by
  unfold State.goAuc
  exact State.wf_ite hm (State.wf_ite (State.loadAuc_wf hm) (State.wf_ite hm (State.endAuc_wf hm)))

theorem State.goAucPrice_wf {k} (hm : s.mem.wf = true) : (s.goAucPrice k).mem.wf = true := by
  unfold State.goAucPrice
  exact State.wf_ite hm (State.wf_ite (State.loadAuc_wf hm) (State.endAuc_wf (State.raiseFor_wf hm)))

theorem State.putDefer_wf {k va dst defer} (h : s.putDefer k va dst defer = .ok t) (hm : s.mem.wf = true) : t.mem.wf = true := by
  unfold State.putDefer at h
  exact State.store_wf h hm

theorem State.release_wf {k gid} (hm : s.mem.wf = true) : (s.release k gid).mem.wf = true := hm

theorem State.sendRow_wf {k m slot bs} (hm : s.mem.wf = true) : (s.sendRow k m slot bs).mem.wf = true := by
  unfold State.sendRow
  extract_lets r sp
  refine State.release_wf (State.updCmd_wf ?_)
  exact hm

/-- The state an entry of a send leaves, where it leaves one. -/
def Entry.state? : Entry → Option State
  | .skip => none
  | .badEntry => none
  | .done s => some s
  | .mem s _ => some s

theorem State.sendEntry_wf {k} (h : (s.sendEntry k).state? = some t) (hm : s.mem.wf = true) : t.mem.wf = true := by
  unfold State.sendEntry at h
  dsimp only at h
  split at h
  · cases h
    exact hm
  · next heq =>
    have h1 := State.load_wf heq hm
    split at h
    · cases h
    · split at h
      · cases h
      · split at h
        · split at h
          · cases h
            exact h1
          · next heq1 =>
            cases h
            exact (State.putDefer_wf heq1 h1 :)
        · split at h
          · cases h
            exact h1
          · next heq1 =>
            have h2 := State.loadNat_wf heq1 h1
            split at h
            · cases h
              exact h2
            · next heq2 =>
              have h3 := State.load_wf heq2 h2
              split at h
              · cases h
                exact h3
              · split at h
                · cases h
                  exact h3
                · next u heq3 =>
                  have h4 : u.mem.wf = true := by
                    split at heq3
                    · exact State.store_wf heq3 h3
                    · cases heq3
                      exact State.sendRow_wf h3
                  split at h
                  · cases h
                    exact h3
                  · next heq4 =>
                    cases h
                    exact (State.putDefer_wf heq4 h4 :)

theorem State.sendRun_wf {id f u} (hm : u.mem.wf = true) : (State.sendRun id f u).mem.wf = true := by
  induction f generalizing u with
  | zero =>
    unfold State.sendRun
    exact hm
  | succ _ ih =>
    unfold State.sendRun
    split
    · exact hm
    · refine State.wf_ite hm ?_
      split
      · exact ih hm
      · exact State.cmdFault_wf hm
      · next heq =>
        have h1 := State.sendEntry_wf (congrArg Entry.state? heq) hm
        exact State.wf_ite hm (State.cmdMemFault_wf h1)
      · next heq =>
        have h1 := State.sendEntry_wf (congrArg Entry.state? heq) hm
        exact ih h1

theorem State.goXsend_wf {k} (hm : s.mem.wf = true) : (s.goXsend k).mem.wf = true := by
  unfold State.goXsend
  extract_lets u
  have hu : u.mem.wf = true := State.sendRun_wf hm
  split
  · exact hu
  · split
    · exact hu
    · split
      · split
        · exact State.cmdMemFault_wf hu
        · next heq =>
          have h1 := State.store_wf heq hu
          exact State.wf_ite (State.finishCmd_wf h1) h1
      · exact State.wf_ite (State.finishCmd_wf hu) hu

theorem State.unitReport_wf {k cls sub fatal paused addr restart} (hm : s.mem.wf = true) :
    (s.unitReport k cls sub fatal paused addr restart).mem.wf = true := by
  unfold State.unitReport
  exact State.report_wf hm

theorem State.closeRound_wf {k gid} (hm : s.mem.wf = true) : (s.closeRound k gid).mem.wf = true := by
  unfold State.closeRound
  exact State.wf_ite hm (State.unitReport_wf hm)

theorem State.goXwait_wf {k} (hm : s.mem.wf = true) : (s.goXwait k).mem.wf = true := by
  unfold State.goXwait
  dsimp only
  refine State.wf_ite hm ?_
  split
  · exact State.cmdMemFault_wf hm
  · next heq =>
    have h1 := State.store_wf heq hm
    split
    · refine State.cmdFault_wf (State.closeRound_wf ?_)
      exact State.wf_ite (State.updCtx_wf h1) h1
    · refine State.finishCmd_wf (State.closeRound_wf ?_)
      exact State.wf_ite (State.updCtx_wf h1) h1

theorem State.goPlace_wf {k} (hm : s.mem.wf = true) : (s.goPlace k).mem.wf = true := by
  unfold State.goPlace
  dsimp only
  split
  · exact State.cmdMemFault_wf hm
  · next heq =>
    split
    · exact State.cmdFault_wf hm
    · have h1 := State.load_wf heq hm
      split
      · exact State.cmdMemFault_wf h1
      · exact State.cmdFault_wf h1
      · split
        · exact State.cmdMemFault_wf h1
        · next heq2 =>
          have h2 := State.store_wf heq2 h1
          exact State.finishCmd_wf (State.updCtx_wf h2)

theorem State.goGlaunch_wf {k} (hm : s.mem.wf = true) : (s.goGlaunch k).mem.wf = true := by
  unfold State.goGlaunch
  exact State.wf_ite (State.askGlaunch_wf hm) hm

theorem State.logDispatch_wf {k d e cores} (hm : s.mem.wf = true) : (s.logDispatch k d e cores).mem.wf = true := by
  unfold State.logDispatch
  split
  · split
    · exact State.consumeLog_wf hm
    · exact hm
  · exact State.trace_wf hm

theorem State.dispatchEngine_wf {d e} (hm : s.mem.wf = true) : (s.dispatchEngine d e).mem.wf = true := by
  unfold State.dispatchEngine
  dsimp only
  split
  · exact hm
  · exact State.wf_ite (State.enterEngine_wf (State.logDispatch_wf hm)) hm

theorem State.becomeReady_wf {d e x} (hm : s.mem.wf = true) : (s.becomeReady d e x).mem.wf = true := by
  unfold State.becomeReady
  exact State.dispatchEngine_wf hm

theorem State.decrement_wf {d e amount opc} (hm : s.mem.wf = true) : (s.decrement d e amount opc).mem.wf = true := by
  unfold State.decrement
  dsimp only
  split
  · exact hm
  · split
    · exact hm
    · exact State.report_wf hm
    · exact State.wf_ite (State.wf_ite (State.becomeReady_wf hm) hm) (State.cancelNode_wf (State.report_wf hm))
    · exact State.cancelNode_wf (State.report_wf hm)

theorem State.goSig_wf {k} (hm : s.mem.wf = true) : (s.goSig k).mem.wf = true := by
  unfold State.goSig
  dsimp only
  split
  · exact State.wf_ite (State.decrement_wf (State.finishCmd_wf hm)) (State.cmdFault_wf hm)
  · exact State.cmdFault_wf hm

theorem State.completeOf_wf {k} (hm : s.mem.wf = true) : (s.completeOf k).mem.wf = true := by
  unfold State.completeOf
  dsimp only
  split
  · exact State.goCfg_wf hm
  · exact State.goPatch_wf hm
  · exact State.goCfg_wf hm
  · exact State.goBind_wf hm
  · exact State.portDone_wf hm
  · exact State.goTake_wf hm
  · exact State.goHurdle_wf hm
  · exact State.copyGo_wf hm
  · exact State.mcGo_wf hm
  · exact State.copyGo_wf hm
  · exact State.copyGo_wf hm
  · exact State.goMm_wf hm
  · exact State.goMm_wf hm
  · exact State.goMm_wf hm
  · exact State.goMm_wf hm
  · exact State.goArm_wf hm
  · exact State.accGo_wf hm
  · exact State.portDone_wf (State.refill_wf hm)
  · exact State.goGrouped_wf hm
  · exact State.goGrouped_wf hm
  · exact State.goIntersect_wf hm
  · exact State.goCount_wf hm
  · exact State.goSel_wf hm
  · exact State.goSel_wf hm
  · exact State.goAuc_wf hm
  · exact State.goAucPrice_wf hm
  · exact State.tryDpost_wf hm
  · exact State.goXsend_wf hm
  · exact State.goXwait_wf hm
  · exact State.goPlace_wf hm
  · exact State.goGlaunch_wf hm
  · exact State.goSig_wf hm
  · exact hm

theorem execCommandComplete_wf {cmd} (h : execCommandComplete cmd s = .next t) (hm : s.mem.wf = true) : t.mem.wf = true := by
  unfold execCommandComplete at h
  split at h
  · cases h
    exact hm
  · split at h
    · cases h
      exact State.advanceOwner_wf (State.completeOf_wf hm)
    · cases h
      exact hm

theorem State.portsDone_wf {n} (hm : s.mem.wf = true) : (s.portsDone n).mem.wf = true := by
  unfold State.portsDone
  exact State.foldl_wf (fun _ _ hs => State.portDone_wf hs) hm

theorem State.fabFault_wf {n site unit op sub sev count} (hm : s.mem.wf = true) :
    (s.fabFault n site unit op sub sev count).mem.wf = true := by
  unfold State.fabFault
  exact State.coreFault_wf hm

theorem State.fabricAct_wf {n place k} (hm : s.mem.wf = true) : (s.fabricAct n place k).mem.wf = true := by
  unfold State.fabricAct
  dsimp only
  split
  · exact hm
  · split
    · exact hm
    · exact State.portsDone_wf (State.raise_wf hm)
    · exact State.wf_ite (State.fabFault_wf hm) (State.fabFault_wf hm)

theorem wise_wf {op f core site} (h : wise op f core site s = .next t) (hm : s.mem.wf = true) : t.mem.wf = true := by
  unfold wise at h
  cases h
  exact State.wf_ite (State.fabricAct_wf hm) hm

theorem execQnt_wf {core site} (h : execQnt core site s = .next t) (hm : s.mem.wf = true) : t.mem.wf = true := by
  unfold execQnt at h
  cases h
  exact State.wf_ite (State.fabricAct_wf hm) hm

theorem siteStep_wf {op f core site} (h : siteStep op f core site s = .next t) (hm : s.mem.wf = true) : t.mem.wf = true := by
  unfold siteStep at h
  cases h
  exact State.wf_ite (State.fabricAct_wf hm) hm

theorem State.readElem_wf {n x off p} (h : s.readElem n x off = .ok p) (hm : s.mem.wf = true) : p.1.mem.wf = true := by
  unfold State.readElem at h
  split at h
  split at h
  · cases h
  · next heq =>
    cases h
    exact (State.load_wf heq hm :)

theorem State.writeElem_wf {n x off v} (h : s.writeElem n x off v = .ok t) (hm : s.mem.wf = true) : t.mem.wf = true := by
  unfold State.writeElem at h
  dsimp only at h
  split at h
  · split at h
    · cases h
    · split at h
      · cases h
      · next heq2 => exact State.storeByte_wf h (State.loadByte_wf heq2 hm)
  · exact State.store_wf h hm

theorem State.settleRelease_wf {n w} (hm : s.mem.wf = true) : (s.settleRelease n w).mem.wf = true := by
  unfold State.settleRelease
  exact State.wf_ite (State.settleAll_wf _ hm) hm

theorem State.amoaAccess_wf {n w va v cmp out} (h : s.amoaAccess n w va v cmp = .done t out) (hm : s.mem.wf = true) : t.mem.wf = true := by
  unfold State.amoaAccess at h
  dsimp only at h
  split at h
  · cases h
  · split at h
    · cases h
    · split at h
      · cases h
      · next heq =>
        cases h
        exact State.amoLog_wf (State.homeAmo_wf heq (State.settleShown_wf _ _ (State.settleRelease_wf hm)))

theorem State.elemAccess_wf {n r i v cmp out} (h : s.elemAccess n r i v cmp = .done t out) (hm : s.mem.wf = true) : t.mem.wf = true := by
  unfold State.elemAccess at h
  dsimp only at h
  split at h
  · split at h
    · cases h
    · next heq =>
      cases h
      exact (State.readElem_wf heq hm :)
  · split at h
    · cases h
    · next heq =>
      cases h
      exact State.writeElem_wf heq hm
  · exact State.amoaAccess_wf h hm
  · exact State.pldaAccess_wf h hm
  · split at h
    · cases h
    · split at h
      · cases h
      · split at h
        · cases h
        · next heq =>
          cases h
          exact State.fillWord_wf heq (State.settleShown_wf _ _ (State.settleRelease_wf hm))

theorem State.fireMem_wf {n r} (hm : s.mem.wf = true) : (s.fireMem n r).mem.wf = true := by
  unfold State.fireMem
  dsimp only
  refine State.wf_ite hm ?_
  split
  · exact hm
  · exact State.fabFault_wf hm
  · exact hm
  · exact State.wf_ite (State.fabFault_wf hm) hm
  · refine State.wf_ite (State.fabFault_wf hm) ?_
    split
    · exact hm
    · exact State.elemMemFault_wf hm
    · next heq =>
      have h1 := State.elemAccess_wf heq hm
      exact State.updCore_wf h1

theorem memStep_wf {op core site} (h : memStep op core site s = .next t) (hm : s.mem.wf = true) : t.mem.wf = true := by
  unfold memStep at h
  cases h
  exact State.wf_ite (State.fireMem_wf hm) hm

theorem State.pacerAdmit_wf {n joined} (hm : s.mem.wf = true) : (s.pacerAdmit n joined).mem.wf = true := by
  unfold State.pacerAdmit
  exact State.wf_ite hm (State.fabricAct_wf hm)

theorem execLpin_wf {core site} (h : execLpin core site s = .next t) (hm : s.mem.wf = true) : t.mem.wf = true := by
  unfold execLpin at h
  cases h
  split
  · split
    · exact hm
    · exact State.wf_ite (State.pacerAdmit_wf hm) (State.fabricAct_wf hm)
  · exact hm

theorem ctlStep_wf {op f core site} (h : ctlStep op f core site s = .next t) (hm : s.mem.wf = true) : t.mem.wf = true := by
  unfold ctlStep at h
  cases h
  exact State.wf_ite (State.fabricAct_wf hm) hm

theorem State.mergeLog_wf {n r i} (hm : s.mem.wf = true) : (s.mergeLog n r i).mem.wf = true := by
  unfold State.mergeLog
  exact State.wf_ite hm (State.trace_wf hm)

theorem State.merge_wf {n r} (hm : s.mem.wf = true) : (s.merge n r).mem.wf = true := by
  unfold State.merge
  dsimp only
  split
  · split
    · exact State.diverge_wf hm
    · split
      · split
        · exact State.wf_ite (State.consumeLog_wf (State.fabricAct_wf hm)) (State.fabricAct_wf hm)
        · exact hm
      · split
        · exact hm
        · split
          · exact State.wf_ite hm (State.wf_ite (State.mergeLog_wf (State.fabricAct_wf hm)) (State.fabricAct_wf hm))
          · exact hm
  · exact State.fabricAct_wf hm

theorem execMerge_wf {core site} (h : execMerge core site s = .next t) (hm : s.mem.wf = true) : t.mem.wf = true := by
  unfold execMerge at h
  cases h
  exact State.wf_ite (State.merge_wf hm) hm

theorem islandStep_wf {mode core island} (h : islandStep mode core island s = .next t) (hm : s.mem.wf = true) : t.mem.wf = true := by
  unfold islandStep at h
  cases h
  exact State.wf_ite (State.fabricAct_wf hm) hm

theorem execPacerAdmit_wf {core} (h : execPacerAdmit core s = .next t) (hm : s.mem.wf = true) : t.mem.wf = true := by
  unfold execPacerAdmit at h
  cases h
  exact State.pacerAdmit_wf hm

theorem execIterationComplete_wf {core} (h : execIterationComplete core s = .next t) (hm : s.mem.wf = true) : t.mem.wf = true := by
  unfold execIterationComplete at h
  dsimp only at h
  cases h
  exact State.wf_ite hm hm

theorem execBatonReturn_wf {core} (h : execBatonReturn core s = .next t) (hm : s.mem.wf = true) : t.mem.wf = true := by
  unfold execBatonReturn at h
  dsimp only at h
  cases h
  exact State.wf_ite hm hm

theorem State.linkAnti_wf {n dst} (hm : s.mem.wf = true) : (s.linkAnti n dst).mem.wf = true := by
  unfold State.linkAnti
  dsimp only
  split
  · exact hm
  · split
    · exact hm
    · split
      · exact State.wf_ite hm (State.wf_ite hm hm)
      · exact State.wf_ite hm hm

theorem execAntiTokenArrival_wf {core dst} (h : execAntiTokenArrival core dst s = .next t) (hm : s.mem.wf = true) : t.mem.wf = true := by
  unfold execAntiTokenArrival at h
  cases h
  exact State.wf_ite (State.linkAnti_wf hm) (State.wf_ite hm (State.fabricAct_wf hm))

theorem State.portMemFault_wf {n p place f} (hm : s.mem.wf = true) : (s.portMemFault n p place f).mem.wf = true := by
  unfold State.portMemFault
  exact State.wf_ite hm (State.wf_ite (State.coreFault_wf hm) (State.coreFault_wf hm))

theorem State.inSend_wf {n p} (hm : s.mem.wf = true) : (s.inSend n p).mem.wf = true := by
  unfold State.inSend
  dsimp only
  split
  · exact hm
  · split
    · exact State.portDone_wf hm
    · split
      · exact State.portDone_wf hm
      · split
        · exact hm
        · split
          · exact State.cmdFault_wf hm
          · exact hm
        · split
          · exact State.portDone_wf hm
          · split
            · exact State.portMemFault_wf hm
            · next heq2 => exact State.portDone_wf (State.readElem_wf heq2 hm)

theorem execInPortSend_wf {core port} (h : execInPortSend core port s = .next t) (hm : s.mem.wf = true) : t.mem.wf = true := by
  unfold execInPortSend at h
  cases h
  exact State.inSend_wf hm

theorem State.portMismatch_wf {n p} (hm : s.mem.wf = true) : (s.portMismatch n p).mem.wf = true := by
  unfold State.portMismatch
  exact State.fabFault_wf hm

theorem State.outWrite_wf {n p} (hm : s.mem.wf = true) : (s.outWrite n p).mem.wf = true := by
  unfold State.outWrite
  dsimp only
  split
  · exact hm
  · refine State.wf_ite hm ?_
    split
    · exact State.wf_ite (State.portDone_wf hm) (State.portMismatch_wf hm)
    · refine State.wf_ite (State.wf_ite (State.portDone_wf hm) (State.portMismatch_wf hm)) (State.wf_ite (State.portMismatch_wf hm) ?_)
      split
      · exact State.portMemFault_wf hm
      · next heq =>
        have hs := State.writeElem_wf heq hm
        exact State.portDone_wf hs

theorem execOutPortWrite_wf {core port} (h : execOutPortWrite core port s = .next t) (hm : s.mem.wf = true) : t.mem.wf = true := by
  unfold execOutPortWrite at h
  cases h
  exact State.outWrite_wf hm

theorem State.discardSurplus_wf {n} (hm : s.mem.wf = true) : (s.discardSurplus n).mem.wf = true := by
  unfold State.discardSurplus
  exact State.portsDone_wf (State.wf_ite hm (State.fabFault_wf hm))

theorem execFabricQuiescent_wf {core} (h : execFabricQuiescent core s = .next t) (hm : s.mem.wf = true) : t.mem.wf = true := by
  unfold execFabricQuiescent at h
  cases h
  exact State.wf_ite (State.discardSurplus_wf hm) hm

theorem State.checkDispatches_wf {d} (hm : s.mem.wf = true) : (s.checkDispatches d).mem.wf = true := by
  unfold State.checkDispatches
  exact State.foldl_wf (fun _ _ hs => State.divergeUnit_wf hs) hm

theorem State.fixBlock_wf {d e x} (hm : s.mem.wf = true) : (s.fixBlock d e x).mem.wf = true := by
  unfold State.fixBlock
  exact State.wf_ite hm hm

theorem State.fixBlocks_wf {l} (hm : s.mem.wf = true) : (s.fixBlocks l).mem.wf = true := by
  induction l generalizing s with
  | nil =>
    unfold State.fixBlocks
    exact hm
  | cons _ _ ih =>
    unfold State.fixBlocks
    exact ih (State.wf_ite (State.fixBlock_wf hm) hm)

theorem State.pldasAgain_wf {n l} (hm : s.mem.wf = true) : (s.pldasAgain n l).mem.wf = true := by
  induction l generalizing s with
  | nil =>
    unfold State.pldasAgain
    exact hm
  | cons _ _ ih =>
    unfold State.pldasAgain
    exact ih (State.pldaAgain_wf hm)

theorem State.resumeMember_wf {k d e rank n slot cores} (h : s.resumeMember k d e rank n slot cores = .ok t) (hm : s.mem.wf = true)
    : t.mem.wf = true := by
  unfold State.resumeMember at h
  split at h
  · cases h
  · next heq =>
    split at h
    · cases h
      exact State.load_wf heq hm
    · dsimp only at h
      cases h
      exact State.freeSlots_wf (State.portsDone_wf (State.pldasAgain_wf (State.load_wf heq hm)))

theorem State.resumeMembers_wf {k d e cores m l} (h : s.resumeMembers k d e cores m l = .ok t) (hm : s.mem.wf = true)
    : t.mem.wf = true := by
  induction l generalizing s m t with
  | nil =>
    unfold State.resumeMembers at h
    cases h
    exact hm
  | cons _ _ ih =>
    unfold State.resumeMembers at h
    split at h
    · cases h
    · next heq => exact ih h (State.resumeMember_wf heq hm)

theorem State.dispatchErr_wf {d e x err} (hm : s.mem.wf = true) : (s.dispatchErr d e x err).mem.wf = true := by
  unfold State.dispatchErr
  dsimp only
  split
  · exact State.wf_ite hm (State.wf_ite (State.cancelNode_wf (State.report_wf hm)) (State.report_wf hm))
  · exact State.cancelNode_wf (State.report_wf hm)
  · exact State.cancelNode_wf (State.report_wf hm)

theorem State.resumeRunner_wf {d e x cores} (hm : s.mem.wf = true) : (s.resumeRunner d e x cores).mem.wf = true := by
  unfold State.resumeRunner
  split
  · exact State.dispatchErr_wf hm
  · next heq => exact State.wf_ite (State.logDispatch_wf (State.resumeMembers_wf heq hm)) (State.resumeMembers_wf heq hm)

theorem State.completeNode_wf {d e x} (hm : s.mem.wf = true) : (s.completeNode d e x).mem.wf = true := by
  unfold State.completeNode
  exact State.checkGraph_wf (State.sendSucc_wf (State.trace_wf (State.leaveCores_wf hm)))

theorem State.beginMembers_wf {x le d e cores m l} (hm : s.mem.wf = true) : (s.beginMembers x le d e cores m l).mem.wf = true := by
  induction l generalizing s m with
  | nil =>
    unfold State.beginMembers
    exact hm
  | cons _ _ ih =>
    unfold State.beginMembers
    exact ih hm

theorem State.installAll_wf {va ld l} (h : s.installAll va ld l = .ok t) (hm : s.mem.wf = true) : t.mem.wf = true := by
  induction l generalizing s with
  | nil =>
    cases h
    exact hm
  | cons _ _ ih =>
    unfold State.installAll at h
    split at h
    · cases h
    · next heq => exact ih h (State.install_wf heq hm)

theorem State.startRunner_wf {d e x l cores} (hm : s.mem.wf = true) : (s.startRunner d e x l cores).mem.wf = true := by
  unfold State.startRunner
  dsimp only
  refine State.wf_ite (State.completeNode_wf (State.setDep_wf (State.logDispatch_wf hm))) ?_
  split
  · exact State.dispatchErr_wf hm
  · split
    · exact State.dispatchErr_wf (State.beginMembers_wf (State.setDep_wf (State.logDispatch_wf hm)))
    · next heq => exact State.installAll_wf heq (State.beginMembers_wf (State.setDep_wf (State.logDispatch_wf hm)))

theorem State.dispatchOnto_wf {a cores} (hm : s.mem.wf = true) : (s.dispatchOnto a cores).mem.wf = true := by
  unfold State.dispatchOnto
  split
  refine State.wf_ite (State.resumeRunner_wf hm) ?_
  split
  · exact hm
  · exact State.startRunner_wf hm

theorem execNodeDispatch_wf {die} (h : execNodeDispatch die s = .next t) (hm : s.mem.wf = true) : t.mem.wf = true := by
  unfold execNodeDispatch at h
  dsimp only at h
  split at h
  · cases h
    exact State.fixBlocks_wf (State.foldl_wf (fun _ _ hs => State.dispatchEngine_wf hs) (State.checkDispatches_wf hm))
  · cases h
    exact State.dispatchOnto_wf (State.fixBlocks_wf (State.foldl_wf (fun _ _ hs => State.dispatchEngine_wf hs)
      (State.checkDispatches_wf hm)))

theorem execNodeComplete_wf {die entry} (h : execNodeComplete die entry s = .next t) (hm : s.mem.wf = true) : t.mem.wf = true := by
  unfold execNodeComplete at h
  split at h
  · cases h
    exact hm
  · split at h
    · cases h
      exact hm
    · split at h
      · cases h
        exact State.wf_ite (State.completeNode_wf hm) hm
      · split at h
        · cases h
          exact hm
        · split at h
          · cases h
            exact State.nodeAdvance_wf hm
          · cases h
            exact State.completeNode_wf hm

theorem execDecrementMessage_wf {src dst} (h : execDecrementMessage src dst s = .next t) (hm : s.mem.wf = true) : t.mem.wf = true := by
  unfold execDecrementMessage at h
  split at h
  · cases h
    exact hm
  · cases h
    exact State.wf_ite hm (State.decrement_wf hm)

theorem execErrorToken_wf {src dst} (h : execErrorToken src dst s = .next t) (hm : s.mem.wf = true) : t.mem.wf = true := by
  unfold execErrorToken at h
  split at h
  · cases h
    exact hm
  · cases h
    exact State.wf_ite (State.cancelNode_wf hm) hm

theorem State.accepted_wf {gdone p} (h : s.accepted gdone = p) (hm : s.mem.wf = true) : p.1.mem.wf = true := by
  unfold State.accepted at h
  split at h
  · cases h
    exact hm
  · split at h
    · cases h
      exact hm
    · split at h
      · cases h
        exact hm
      · cases h
        exact State.finishCmd_wf hm

theorem State.answer_wf {win seq status res} (hm : s.mem.wf = true) : (s.answer win seq status res).mem.wf = true := hm

theorem State.launchOk_wf {win} (hm : s.mem.wf = true) : (s.launchOk win).mem.wf = true := by
  unfold State.launchOk
  split
  · exact hm
  · split <;> exact hm

theorem State.rejectGraph_wf {home e l} (hm : s.mem.wf = true) : (s.rejectGraph home e l).mem.wf = true := by
  unfold State.rejectGraph
  exact State.completeGraph_wf hm

theorem State.checkLaunch_wf {home e l} (hm : s.mem.wf = true) : (s.checkLaunch home e l).mem.wf = true := by
  unfold State.checkLaunch
  dsimp only
  split
  · exact hm
  · exact State.rejectGraph_wf (State.report_wf hm)
  · exact State.wf_ite hm (State.wf_ite (State.rejectGraph_wf (State.report_wf hm)) (State.report_wf hm))

theorem State.takeRequest_wf {r} (h : s.takeRequest r = some t) (hm : s.mem.wf = true) : t.mem.wf = true := by
  unfold State.takeRequest at h
  extract_lets put at h
  have hp : ∀ u e l, u.mem.wf = true → (put u e l).mem.wf = true := by
    intro u e l hu
    have h1 : ((u.launchOk r.win).accepted r.gdone).1.mem.wf = true := State.accepted_wf rfl (State.launchOk_wf hu)
    refine State.wf_ite ?_ h1
    exact State.wf_ite h1 (State.checkLaunch_wf h1)
  split at h
  · cases h
    exact hp _ _ _ hm
  · obtain ⟨e, -, rfl⟩ := Option.map_eq_some_iff.1 h
    exact hp _ _ _ hm

theorem execLaunchRequest_wf {die} (h : execLaunchRequest die s = .next t) (hm : s.mem.wf = true) : t.mem.wf = true := by
  unfold execLaunchRequest at h
  split at h
  · exact next_wf h hm
  · next r _ =>
    refine next_wf h ?_
    cases ht : ({ s with reqs := s.reqs.erase r } : State).takeRequest r with
    | none => exact hm
    | some u => exact State.takeRequest_wf ht hm

theorem State.writeHandles_wf {le m l p} (h : s.writeHandles le m l = p) (hm : s.mem.wf = true) : p.1.mem.wf = true := by
  subst h
  induction l generalizing s m with
  | nil =>
    unfold State.writeHandles
    exact hm
  | cons q _ ih =>
    unfold State.writeHandles
    split
    · exact hm
    · next heq => exact ih (State.store_wf heq hm)

theorem State.readyRoots_wf {l} (hm : s.mem.wf = true) : (s.readyRoots l).mem.wf = true := by
  induction l generalizing s with
  | nil =>
    unfold State.readyRoots
    exact hm
  | cons _ _ ih =>
    unfold State.readyRoots
    split
    · exact ih (State.wf_ite (State.becomeReady_wf hm) (State.dispatchEngine_wf hm))
    · exact ih hm

theorem State.activate_wf {home e l} (hm : s.mem.wf = true) : (s.activate home e l).mem.wf = true := by
  unfold State.activate
  split
  next s1 n fault heq =>
  have h1 : s1.mem.wf = true := by
    split at heq
    · cases heq
      exact hm
    · exact State.writeHandles_wf heq hm
  split
  · exact State.checkGraph_wf (State.readyRoots_wf h1)
  · exact State.wf_ite h1 (State.wf_ite (State.rejectGraph_wf (State.report_wf h1)) (State.report_wf h1))

/-- The recursion on a list, one step of it, with the step function a variable: for a step function whose reduction does not end soon. -/
theorem brecOn_cons {α : Type} {motive : List α → Type} (F : ∀ l, List.below (motive := motive) l → motive l) (a : α) (l : List α) :
    ∃ b, List.brecOn (motive := motive) (a :: l) F = F (a :: l) ⟨List.brecOn l F, b⟩ := ⟨_, rfl⟩

theorem State.reserveNodes_cons (s : State) (l : LaunchEntry) (home le m r rs) :
    s.reserveNodes l home le m (r :: rs) = (s.freeEntry r.die).bind fun e =>
      ((s.setDep r.die e (.node (newNode l home le m r))).reserveNodes l home le (m + 1) rs).map fun p => (p.1, (r.die, e) :: p.2) := by
  obtain ⟨b, hb⟩ := brecOn_cons (State.reserveNodes._f l home le) r rs
  delta State.reserveNodes
  rw [hb]
  delta State.reserveNodes._f
  dsimp only
  cases s.freeEntry r.die with
  | none => rfl
  | some e => rfl

theorem State.reserveNodes_wf {l home le m rs p} (h : s.reserveNodes l home le m rs = some p) (hm : s.mem.wf = true)
    : p.1.mem.wf = true := by
  induction rs generalizing s m p with
  | nil =>
    cases h
    exact hm
  | cons r rs ih =>
    rw [State.reserveNodes_cons, Option.bind_eq_some_iff] at h
    obtain ⟨e, -, he⟩ := h
    obtain ⟨q, hq, rfl⟩ := Option.map_eq_some_iff.1 he
    exact (ih hq (State.setDep_wf hm) :)

theorem execGraphLaunch_wf {die} (h : execGraphLaunch die s = .next t) (hm : s.mem.wf = true) : t.mem.wf = true := by
  unfold execGraphLaunch at h
  dsimp only at h
  split at h
  · cases h
    exact State.checkLaunch_wf hm
  · split at h
    · cases h
      exact State.activate_wf hm
    · split at h
      · cases h
        exact hm
      · split at h
        · cases h
          exact hm
        · next heq3 =>
          cases h
          exact State.activate_wf (State.reserveNodes_wf heq3 hm)

theorem State.requestPreempt_wf {d e x} (hm : s.mem.wf = true) : (s.requestPreempt d e x).mem.wf = true := by
  unfold State.requestPreempt
  exact State.foldl_wf (fun _ _ hs => hs) hm

theorem execAutoPreempt_wf {die entry} (h : execAutoPreempt die entry s = .next t) (hm : s.mem.wf = true) : t.mem.wf = true := by
  unfold execAutoPreempt at h
  split at h
  · cases h
    exact hm
  · dsimp only at h
    split at h
    · cases h
      exact hm
    · split at h
      · cases h
        exact hm
      · cases h
        exact State.requestPreempt_wf hm

theorem State.returnTokens_wf {n k} (hm : s.mem.wf = true) : (s.returnTokens n k).mem.wf = true := by
  unfold State.returnTokens
  exact State.wf_ite hm hm

theorem State.returnIndices_wf {k} (hm : s.mem.wf = true) : (s.returnIndices k).mem.wf = true := by
  unfold State.returnIndices
  dsimp only
  split
  · exact hm
  · exact State.wf_ite hm hm

theorem State.restCmds_wf {n} (hm : s.mem.wf = true) : (s.restCmds n).mem.wf = true := by
  unfold State.restCmds
  exact State.foldl_wf (fun _ _ hs => State.returnTokens_wf (State.returnIndices_wf hs)) hm

theorem State.discardBefore_wf {n} (hm : s.mem.wf = true) : (s.discardBefore n).mem.wf = true := by
  unfold State.discardBefore
  exact State.wf_ite hm hm

theorem State.unissueCfg_wf {n} (hm : s.mem.wf = true) : (s.unissueCfg n).mem.wf = true := by
  unfold State.unissueCfg
  dsimp only
  split <;> exact hm

theorem State.landFilled_wf {n} (hm : s.mem.wf = true) : (s.landFilled n).mem.wf = true := by
  unfold State.landFilled
  exact State.foldl_wf (fun _ _ hs => State.landDeferral_wf hs) hm

theorem State.saveMember_wf {d e rank n slot} (h : s.saveMember d e rank n slot = .ok t) (hm : s.mem.wf = true) : t.mem.wf = true := by
  unfold State.saveMember at h
  extract_lets live s0 c mine bs c1 keep at h
  have h1 : (s.landFilled n).mem.wf = true := State.landFilled_wf hm
  have h2 : ((s.landFilled n).flushCore n).mem.wf = true := State.flushCore_wf h1
  have h0 : s0.mem.wf = true := State.restCmds_wf (State.discardBefore_wf (State.unissueCfg_wf h2))
  clear_value s0
  split at h
  · cases h
  · next heq =>
    have h3 := State.store_wf heq h0
    cases h
    exact State.vacate_wf h3

theorem State.saveMembers_wf {d e m l} (h : s.saveMembers d e m l = .ok t) (hm : s.mem.wf = true) : t.mem.wf = true := by
  induction l generalizing s m with
  | nil =>
    cases h
    exact hm
  | cons q _ ih =>
    unfold State.saveMembers at h
    split at h
    · cases h
    · next heq => exact ih h (State.saveMember_wf heq hm)

theorem execPreemptSave_wf {die entry} (h : execPreemptSave die entry s = .next t) (hm : s.mem.wf = true) : t.mem.wf = true := by
  unfold execPreemptSave at h
  split at h
  · exact next_wf h hm
  · refine outcome_ite_wf h (next_wf · hm) fun h => ?_
    extract_lets slots s0 at h
    have h0 : s0.mem.wf = true := State.foldl_wf (fun _ _ hs => State.flushCore_wf hs) hm
    split at h
    · exact outcome_ite_wf h (next_wf · hm) (next_wf · (State.cancelNode_wf (State.report_wf h0)))
    · next heq => exact next_wf h (State.trace_wf (State.updCtx_wf (State.setDep_wf (State.saveMembers_wf heq h0))))

theorem State.cancelNodes_wf {cause l} (hm : s.mem.wf = true) : (s.cancelNodes cause l).mem.wf = true := by
  induction l generalizing s with
  | nil =>
    unfold State.cancelNodes
    exact hm
  | cons _ _ ih =>
    unfold State.cancelNodes
    exact ih (State.cancelNode_wf hm)

theorem State.cancelGraph_wf {home e cause} (hm : s.mem.wf = true) : (s.cancelGraph home e cause).mem.wf = true := by
  unfold State.cancelGraph
  dsimp only
  split
  · exact hm
  · exact State.wf_ite hm (State.wf_ite (State.completeGraph_wf hm) (State.cancelNodes_wf hm))

theorem State.cancelGraphs_wf {cause l} (hm : s.mem.wf = true) : (s.cancelGraphs cause l).mem.wf = true := by
  induction l generalizing s with
  | nil =>
    unfold State.cancelGraphs
    exact hm
  | cons _ _ ih =>
    unfold State.cancelGraphs
    exact ih (State.cancelGraph_wf hm)

theorem State.timeoutRecs_wf {k l} (hm : s.mem.wf = true) : (s.timeoutRecs k l).mem.wf = true := by
  induction l generalizing s with
  | nil =>
    unfold State.timeoutRecs
    exact hm
  | cons _ _ ih =>
    unfold State.timeoutRecs
    exact ih (State.report_wf hm)

theorem execPreemptTimeout_wf {ctx} (h : execPreemptTimeout ctx s = .next t) (hm : s.mem.wf = true) : t.mem.wf = true := by
  unfold execPreemptTimeout at h
  dsimp only at h
  split at h
  · cases h
    exact hm
  · cases h
    exact State.cancelGraphs_wf (State.timeoutRecs_wf hm)

theorem execDemandRowArrival_wf {row} (h : execDemandRowArrival row s = .next t) (hm : s.mem.wf = true) : t.mem.wf = true := by
  unfold execDemandRowArrival at h
  cases h
  exact State.arriveRow_wf hm

theorem State.arriveCopy_wf {k gid m c} (hm : s.mem.wf = true) : (s.arriveCopy k gid m c).mem.wf = true := by
  unfold State.arriveCopy
  exact State.wf_ite hm hm

theorem execGrantSequenceArrival_wf {ctx gid cal} (h : execGrantSequenceArrival ctx gid cal s = .next t) (hm : s.mem.wf = true)
    : t.mem.wf = true := by
  unfold execGrantSequenceArrival at h
  cases h
  split
  · exact State.arriveGrants_wf hm
  · exact State.arriveCopy_wf hm

theorem State.beat_wf {k gid} (hm : s.mem.wf = true) : (s.beat k gid).mem.wf = true := by
  unfold State.beat
  dsimp only
  split
  · exact hm
  · exact State.wf_ite hm hm

theorem execPhaseStart_wf {ctx gid} (h : execPhaseStart ctx gid s = .next t) (hm : s.mem.wf = true) : t.mem.wf = true := by
  unfold execPhaseStart at h
  dsimp only at h
  cases h
  exact State.wf_ite (State.beat_wf hm) hm

theorem execHeartbeat_wf {ctx gid} (h : execHeartbeat ctx gid s = .next t) (hm : s.mem.wf = true) : t.mem.wf = true := by
  unfold execHeartbeat at h
  cases h
  dsimp only
  split
  · exact State.wf_ite (State.beat_wf hm) hm
  · split
    · exact hm
    · exact State.wf_ite hm hm

theorem State.countPacket_wf {p} (hm : s.mem.wf = true) : (s.countPacket p).mem.wf = true := by
  unfold State.countPacket
  exact State.wf_ite hm hm

theorem State.setRound_wf {k gid r} (hm : s.mem.wf = true) : (s.setRound k gid r).mem.wf = true := hm

theorem State.writePacket_wf {p x} (h : s.writePacket p = x) (hm : s.mem.wf = true) : x.2.mem.wf = true := by
  subst h
  unfold State.writePacket
  split
  · exact hm
  · split
    · exact hm
    · dsimp only
      split
      · exact hm
      · exact State.unitReport_wf hm

theorem State.writePacket_some_wf {p u} (h : s.writePacket p = (some t, u)) (hm : s.mem.wf = true) : t.mem.wf = true := by
  unfold State.writePacket at h
  split at h
  · next heq =>
    cases h
    exact State.countPacket_wf (State.store_wf heq hm)
  · split at h
    · cases h
    · dsimp only at h
      split at h
      · cases h
        exact State.countPacket_wf (State.wf_ite (State.setRound_wf (State.unitReport_wf hm)) (State.unitReport_wf hm))
      · cases h

theorem State.noteLate_wf {p} (hm : s.mem.wf = true) : (s.noteLate p).mem.wf = true := by
  unfold State.noteLate
  exact State.wf_ite hm hm

theorem State.receive_wf {p} (hm : s.mem.wf = true) : (s.receive p).mem.wf = true := by
  unfold State.receive
  refine State.wf_ite hm ?_
  split
  · next heq =>
    have h1 := State.writePacket_some_wf heq (State.noteLate_wf hm)
    exact h1
  · next heq =>
    have h1 := State.writePacket_wf heq (State.noteLate_wf hm)
    exact h1

theorem execDispatchPacketReceive_wf {p} (h : execDispatchPacketReceive p s = .next t) (hm : s.mem.wf = true) : t.mem.wf = true := by
  unfold execDispatchPacketReceive at h
  cases h
  exact State.receive_wf hm

theorem execPacketAckReceive_wf {cmd count} (h : execPacketAckReceive cmd count s = .next t) (hm : s.mem.wf = true) : t.mem.wf = true := by
  unfold execPacketAckReceive at h
  cases h
  dsimp only
  split
  · exact hm
  · exact State.wf_ite hm hm

theorem execRoundEnd_wf {ctx gid} (h : execRoundEnd ctx gid s = .next t) (hm : s.mem.wf = true) : t.mem.wf = true := by
  unfold execRoundEnd at h
  dsimp only at h
  cases h
  exact State.wf_ite hm hm

theorem execEndOfRoundMarker_wf {ctx gid member bytes} (h : execEndOfRoundMarker ctx gid member bytes s = .next t) (hm : s.mem.wf = true)
    : t.mem.wf = true := by
  unfold execEndOfRoundMarker at h
  dsimp only at h
  cases h
  exact State.wf_ite hm hm

theorem State.failDpost_wf {k gid} (hm : s.mem.wf = true) : (s.failDpost k gid).mem.wf = true := by
  unfold State.failDpost
  split
  · exact hm
  · exact State.wf_ite (State.cmdFault_wf (State.closeRound_wf hm)) hm

theorem execRoundAbandon_wf {ctx gid round} (h : execRoundAbandon ctx gid round s = .next t) (hm : s.mem.wf = true) : t.mem.wf = true := by
  unfold execRoundAbandon at h
  cases h
  dsimp only
  split
  · exact hm
  · exact State.wf_ite (State.failDpost_wf hm) hm

theorem execAbandonNotice_wf {ctx gid} (h : execAbandonNotice ctx gid s = .next t) (hm : s.mem.wf = true) : t.mem.wf = true := by
  unfold execAbandonNotice at h
  cases h
  exact State.failDpost_wf hm

theorem execPeerLost_wf {ctx gid} (h : execPeerLost ctx gid s = .next t) (hm : s.mem.wf = true) : t.mem.wf = true := by
  unfold execPeerLost at h
  dsimp only at h
  cases h
  split
  · exact hm
  · exact State.wf_ite (State.cmdFault_wf (State.closeRound_wf hm)) hm

theorem State.takeover_wf {k gid old new} (hm : s.mem.wf = true) : (s.takeover k gid old new).mem.wf = true := by
  unfold State.takeover
  dsimp only
  split
  · exact State.wf_ite (State.postRow_wf (State.probeArb_wf (State.unitReport_wf hm))) (State.probeArb_wf (State.unitReport_wf hm))
  · exact State.probeArb_wf (State.unitReport_wf hm)

theorem execArbiterTakeover_wf {ctx gid} (h : execArbiterTakeover ctx gid s = .next t) (hm : s.mem.wf = true) : t.mem.wf = true := by
  unfold execArbiterTakeover at h
  cases h
  split
  · exact hm
  · exact State.wf_ite (State.takeover_wf hm) hm

theorem execTakeoverNotice_wf {ctx gid old new} (h : execTakeoverNotice ctx gid old new s = .next t) (hm : s.mem.wf = true)
    : t.mem.wf = true := by
  unfold execTakeoverNotice at h
  cases h
  exact State.takeover_wf hm

theorem execTkoffProbe_wf {remote roundTrip} (h : execTkoffProbe remote roundTrip s = .next t) (hm : s.mem.wf = true)
    : t.mem.wf = true := by
  unfold execTkoffProbe at h
  cases h
  exact hm

theorem State.launchRefused_wf {w} (hm : s.mem.wf = true) : (s.launchRefused w).mem.wf = true := by
  unfold State.launchRefused
  split <;> exact hm

theorem State.remake_wf {l} (hm : s.mem.wf = true) : (s.remake l).mem.wf = true := by
  induction l generalizing s with
  | nil =>
    unfold State.remake
    exact hm
  | cons _ _ ih =>
    unfold State.remake
    split
    · exact ih (State.wf_ite (State.launchRefused_wf hm) (State.requestLaunch_wf hm))
    · exact ih (State.requestLaunch_wf hm)

theorem State.dispatchEngines_wf (hm : s.mem.wf = true) : (s.dispatchEngines).mem.wf = true := by
  unfold State.dispatchEngines
  exact State.foldl_wf (fun _ _ hs => State.foldl_wf (fun _ _ hs => State.dispatchEngine_wf hs) hs) hm

theorem State.drainHold_wf {k l u} (hm : u.mem.wf = true) : (State.drainHold k l u).mem.wf = true := by
  induction l generalizing u with
  | nil =>
    unfold State.drainHold
    exact hm
  | cons _ _ ih =>
    unfold State.drainHold
    split
    · next heq =>
      have h1 := State.writePacket_some_wf heq hm
      exact ih h1
    · next heq =>
      have h1 := State.writePacket_wf heq hm
      exact h1

theorem State.liftFreeze_wf {k} (hm : s.mem.wf = true) : (s.liftFreeze k).mem.wf = true := by
  unfold State.liftFreeze
  exact State.dispatchEngines_wf (State.drainHold_wf (State.remake_wf hm))

theorem execEconsWrite_wf {ctx value} (h : execEconsWrite ctx value s = .next t) (hm : s.mem.wf = true) : t.mem.wf = true := by
  unfold execEconsWrite at h
  split at h
  · cases h
    exact hm
  · split at h
    · dsimp only at h
      cases h
      exact State.wf_ite (State.liftFreeze_wf (State.deliverEvents_wf hm)) (State.deliverEvents_wf hm)

theorem execWindowRegisterWrite_wf {ctx off bytes} (h : execWindowRegisterWrite ctx off bytes s = .next t) (hm : s.mem.wf = true)
    : t.mem.wf = true := by
  unfold execWindowRegisterWrite at h
  split at h
  · cases h
    exact hm
  · dsimp only at h
    cases h
    exact hm

theorem execHostMemRead_wf {hpa len} (h : execHostMemRead hpa len s = .next t) (hm : s.mem.wf = true) : t.mem.wf = true := by
  unfold execHostMemRead at h
  dsimp only at h
  split at h
  · cases h
    exact hm
  · cases h
    exact hm

theorem State.blockWrite_wf {pa bs} (hm : s.mem.wf = true) : (s.blockWrite pa bs).mem.wf = true := by
  unfold State.blockWrite
  exact Memory.wf_writeBytes _ _ hm

theorem execHostMemWrite_wf {hpa bytes} (h : execHostMemWrite hpa bytes s = .next t) (hm : s.mem.wf = true) : t.mem.wf = true := by
  unfold execHostMemWrite at h
  dsimp only at h
  split at h
  · cases h
    exact hm
  · cases h
    exact State.blockWrite_wf hm

theorem doorbell_wf {win : Nat} {seq : BitVec 32} {is : HostWindow → Bool} {run : HostWindow → State → State}
    (h : doorbell win seq is run s = .next t) (hr : ∀ w s, s.mem.wf = true → (run w s).mem.wf = true) (hm : s.mem.wf = true) :
    t.mem.wf = true := by
  unfold doorbell at h
  dsimp only at h
  refine outcome_ite_wf h (next_wf · hm) fun h => ?_
  refine outcome_ite_wf h (next_wf · hm) fun h => ?_
  refine outcome_ite_wf h (next_wf · hm) fun h => ?_
  refine outcome_ite_wf h (next_wf · (State.answer_wf hm)) fun h => ?_
  refine outcome_ite_wf h (next_wf · (State.answer_wf hm)) fun h => ?_
  exact next_wf h (hr _ _ hm)

theorem execIdent_wf {win seq} (h : execIdent win seq s = .next t) (hm : s.mem.wf = true) : t.mem.wf = true := by
  unfold execIdent at h
  exact doorbell_wf h (fun _ _ hs => State.answer_wf hs) hm

theorem execQuery_wf {win seq} (h : execQuery win seq s = .next t) (hm : s.mem.wf = true) : t.mem.wf = true := by
  unfold execQuery at h
  refine doorbell_wf h (fun _ _ hs => ?_) hm
  split <;> exact State.answer_wf hs

theorem querySet_wf {p win seq} {f : Word → State → Option State} (h : querySet p win seq f s = .next t)
    (hf : ∀ v s u, f v s = some u → s.mem.wf = true → u.mem.wf = true) (hm : s.mem.wf = true) : t.mem.wf = true := by
  unfold querySet at h
  refine doorbell_wf h (fun w s hs => ?_) hm
  split
  · next heq => exact (hf _ _ _ heq hs :)
  · exact hs

theorem execQuerySetTkoff_wf {win seq} (h : execQuerySetTkoff win seq s = .next t) (hm : s.mem.wf = true) : t.mem.wf = true := by
  unfold execQuerySetTkoff at h
  refine querySet_wf h (fun v s u hu hs => ?_) hm
  cases hu
  exact hs

theorem execQuerySetAgeing_wf {win seq} (h : execQuerySetAgeing win seq s = .next t) (hm : s.mem.wf = true) : t.mem.wf = true := by
  unfold execQuerySetAgeing at h
  refine querySet_wf h (fun v s u hu hs => ?_) hm
  split at hu
  · cases hu
  · cases hu
    exact hs

theorem execQuerySetSaveArea_wf {win seq} (h : execQuerySetSaveArea win seq s = .next t) (hm : s.mem.wf = true) : t.mem.wf = true := by
  unfold execQuerySetSaveArea at h
  refine querySet_wf h (fun v s u hu hs => ?_) hm
  split at hu
  · cases hu
  · cases hu
    exact hs

theorem State.preemptEach_wf {l} (hm : s.mem.wf = true) : (s.preemptEach l).mem.wf = true := by
  induction l generalizing s with
  | nil =>
    unfold State.preemptEach
    exact hm
  | cons _ _ ih =>
    unfold State.preemptEach
    exact ih (State.wf_ite (State.requestPreempt_wf hm) hm)

theorem State.preemptContext_wf {k} (hm : s.mem.wf = true) : (s.preemptContext k).mem.wf = true := by
  unfold State.preemptContext
  exact State.preemptEach_wf hm

theorem execQuerySetPreempt_wf {win seq} (h : execQuerySetPreempt win seq s = .next t) (hm : s.mem.wf = true) : t.mem.wf = true := by
  unfold execQuerySetPreempt at h
  refine querySet_wf h (fun v s u hu hs => ?_) hm
  split at hu
  · cases hu
  · cases hu
    exact State.wf_ite (State.preemptContext_wf hs) hs

theorem execQuerySetDeviceId_wf {win seq} (h : execQuerySetDeviceId win seq s = .next t) (hm : s.mem.wf = true) : t.mem.wf = true := by
  unfold execQuerySetDeviceId at h
  refine querySet_wf h (fun v s u hu hs => ?_) hm
  split at hu
  · cases hu
  · cases hu
    exact hs

theorem flightDoorbell_wf {code win : Nat} {seq : BitVec 32} {start go : InFlight → State → State}
    (h : flightDoorbell code win seq start go s = .next t) (hs : ∀ f s, s.mem.wf = true → (start f s).mem.wf = true)
    (hg : ∀ f s, s.mem.wf = true → (go f s).mem.wf = true) (hm : s.mem.wf = true) : t.mem.wf = true := by
  unfold flightDoorbell at h
  split at h
  · split at h
    · cases h
      exact hg _ _ hm
    · cases h
      exact hm
  · exact doorbell_wf h (fun w s => hs (w.flight seq) s) hm

theorem State.flushBankRange_wf {n b va len} (hm : s.mem.wf = true) : (s.flushBankRange n b va len).mem.wf = true := by
  unfold State.flushBankRange
  exact State.writeBackList_wf _ hm

theorem State.flushPage_wf {ctx va len} (hm : s.mem.wf = true) : (s.flushPage ctx va len).mem.wf = true := by
  unfold State.flushPage
  exact State.foldl_wf (fun _ _ hs => State.wf_ite (State.foldl_wf (fun _ _ hs => State.flushBankRange_wf hs) hs) hs) hm

theorem State.flushPages_wf {k ps} (hm : s.mem.wf = true) : (s.flushPages k ps).mem.wf = true := by
  unfold State.flushPages
  exact State.foldl_wf (fun _ _ hs => State.flushPage_wf hs) hm

theorem State.changePages_wf {k va len f} (hm : s.mem.wf = true) : (s.changePages k va len f).mem.wf = true := by
  unfold State.changePages
  exact State.flushPages_wf hm

theorem State.emptyWords_wf {pa len} (hm : s.mem.wf = true) : (s.emptyWords pa len).mem.wf = true := by
  unfold State.emptyWords
  exact Memory.wf_filter _ hm

theorem State.changeGo_wf {win f} (hm : s.mem.wf = true) : (s.changeGo win f).mem.wf = true := by
  unfold State.changeGo
  exact State.wf_ite hm (State.flushPages_wf hm)

theorem done_of_ite_refuse {c : Prop} [Decidable c] {st : Nat} {r : MapRes} (h : (if c then MapRes.refuse st else r) = .done t) :
    r = .done t := by
  split at h
  · cases h
  · exact h

theorem State.mapping_wf {k code force args} (h : s.mapping k code force args = .done t) (hm : s.mem.wf = true) : t.mem.wf = true := by
  unfold State.mapping at h
  extract_lets arg attr at h
  split at h
  · cases h
  · have h := done_of_ite_refuse (done_of_ite_refuse (done_of_ite_refuse (done_of_ite_refuse (done_of_ite_refuse h))))
    cases h
    split
    · exact State.updCtx_wf (State.wf_ite (State.emptyWords_wf (State.changePages_wf hm)) (State.changePages_wf hm))
    · exact State.changePages_wf hm
    · exact State.changePages_wf hm
    · exact State.changePages_wf hm
    · exact State.changePages_wf hm

theorem State.mapStart_wf {win f} (hm : s.mem.wf = true) : (s.mapStart win f).mem.wf = true := by
  unfold State.mapStart
  split
  · exact hm
  · next heq => exact State.changeGo_wf (State.mapping_wf heq hm)

theorem mapDoorbell_wf {code win seq} (h : mapDoorbell code win seq s = .next t) (hm : s.mem.wf = true) : t.mem.wf = true := by
  unfold mapDoorbell at h
  exact flightDoorbell_wf h (fun _ _ hs => State.mapStart_wf hs) (fun _ _ hs => State.changeGo_wf hs) hm

theorem execMap_wf {win seq} (h : execMap win seq s = .next t) (hm : s.mem.wf = true) : t.mem.wf = true := by
  unfold execMap at h
  exact mapDoorbell_wf h hm

theorem execUnmap_wf {win seq} (h : execUnmap win seq s = .next t) (hm : s.mem.wf = true) : t.mem.wf = true := by
  unfold execUnmap at h
  exact mapDoorbell_wf h hm

theorem execInval_wf {win seq} (h : execInval win seq s = .next t) (hm : s.mem.wf = true) : t.mem.wf = true := by
  unfold execInval at h
  exact mapDoorbell_wf h hm

theorem execPin_wf {win seq} (h : execPin win seq s = .next t) (hm : s.mem.wf = true) : t.mem.wf = true := by
  unfold execPin at h
  exact mapDoorbell_wf h hm

theorem execUnpin_wf {win seq} (h : execUnpin win seq s = .next t) (hm : s.mem.wf = true) : t.mem.wf = true := by
  unfold execUnpin at h
  exact mapDoorbell_wf h hm

theorem State.fillSection_wf {k attr va bs l} (hm : s.mem.wf = true) : (s.fillSection k attr va bs l).mem.wf = true := by
  induction l generalizing s va bs with
  | nil =>
    unfold State.fillSection
    exact hm
  | cons _ _ ih =>
    unfold State.fillSection
    exact ih (State.blockWrite_wf hm)

theorem State.fillSections_wf {k hpa l frames} (hm : s.mem.wf = true) : (s.fillSections k hpa l frames).mem.wf = true := by
  induction l generalizing s frames with
  | nil =>
    unfold State.fillSections
    exact hm
  | cons q _ ih =>
    unfold State.fillSections
    exact ih (State.fillSection_wf (State.changePages_wf hm))

theorem State.loadStart_wf {win frames f} (hm : s.mem.wf = true) : (s.loadStart win frames f).mem.wf = true := by
  unfold State.loadStart
  dsimp only
  split
  · exact hm
  · refine State.wf_ite hm ?_
    split
    · exact hm
    · exact State.changeGo_wf (State.fillSections_wf hm :)

theorem execLoadgraph_wf {win seq frames} (h : execLoadgraph win seq frames s = .next t) (hm : s.mem.wf = true) : t.mem.wf = true := by
  unfold execLoadgraph at h
  exact flightDoorbell_wf h (fun _ _ hs => State.loadStart_wf hs) (fun _ _ hs => State.changeGo_wf hs) hm

theorem State.launchStart_wf {win f} (hm : s.mem.wf = true) : (s.launchStart win f).mem.wf = true := by
  unfold State.launchStart
  exact State.wf_ite hm (State.requestLaunch_wf hm)

theorem execLaunch_wf {win seq} (h : execLaunch win seq s = .next t) (hm : s.mem.wf = true) : t.mem.wf = true := by
  unfold execLaunch at h
  exact flightDoorbell_wf h (fun _ _ hs => State.launchStart_wf hs) (fun _ _ hs => hs) hm

theorem execCancel_wf {win seq} (h : execCancel win seq s = .next t) (hm : s.mem.wf = true) : t.mem.wf = true := by
  unfold execCancel at h
  exact doorbell_wf h (fun _ _ hs => State.wf_ite (State.answer_wf hs) (State.answer_wf (State.cancelGraphs_wf hs))) hm

theorem State.endSnapshot_wf {win seq status res} (hm : s.mem.wf = true) : (s.endSnapshot win seq status res).mem.wf = true := by
  unfold State.endSnapshot
  exact State.dispatchEngines_wf hm

theorem State.storeNow_wf {k va bs} (h : s.storeNow k va bs = .ok t) (hm : s.mem.wf = true) : t.mem.wf = true := by
  unfold State.storeNow at h
  obtain ⟨q, hq, rfl⟩ := ok_of_map h
  exact (State.store_wf hq hm :)

theorem State.snapGo_wf {win f} (hm : s.mem.wf = true) : (s.snapGo win f).mem.wf = true := by
  unfold State.snapGo
  dsimp only
  split
  · exact State.endSnapshot_wf hm
  · split
    · exact hm
    · split
      · exact State.endSnapshot_wf hm
      · split
        · exact State.endSnapshot_wf hm
        · next heq2 =>
          split
          · exact State.endSnapshot_wf hm
          · next heq3 => exact (State.storeNow_wf heq3 (State.storeNow_wf heq2 hm) :)

theorem execSnapshot_wf {win seq} (h : execSnapshot win seq s = .next t) (hm : s.mem.wf = true) : t.mem.wf = true := by
  unfold execSnapshot at h
  split at h
  · exact flightDoorbell_wf h (fun _ _ hs => State.snapGo_wf hs) (fun _ _ hs => State.snapGo_wf hs) hm
  · exact doorbell_wf h (fun _ _ hs => State.snapGo_wf hs) hm

theorem execPartnerShardReceive_wf {ctx area seq shard} (h : execPartnerShardReceive ctx area seq shard s = .next t) (hm
    : s.mem.wf = true) : t.mem.wf = true := by
  unfold execPartnerShardReceive at h
  split at h
  · cases h
    exact hm
  · split at h
    · cases h
      exact hm
    · split at h
      · cases h
        exact hm
      · next heq1 =>
        split at h
        · cases h
          exact hm
        · next heq2 =>
          cases h
          exact (State.storeNow_wf heq2 (State.storeNow_wf heq1 hm) :)

theorem State.writeRanges_wf {k l bs} (h : s.writeRanges k l bs = .ok t) (hm : s.mem.wf = true) : t.mem.wf = true := by
  induction l generalizing s bs with
  | nil =>
    unfold State.writeRanges at h
    cases h
    exact hm
  | cons q _ ih =>
    unfold State.writeRanges at h
    split at h
    · cases h
    · next heq => exact ih h (State.storeNow_wf heq hm)

theorem execRestore_wf {win seq remote} (h : execRestore win seq remote s = .next t) (hm : s.mem.wf = true) : t.mem.wf = true := by
  unfold execRestore at h
  refine doorbell_wf h (fun _ _ hs => ?_) hm
  dsimp only
  split
  · exact State.answer_wf hs
  · split
    · exact State.answer_wf hs
    · split
      · exact State.answer_wf hs
      · split
        · exact State.answer_wf hs
        · next heq2 => exact State.answer_wf (State.writeRanges_wf heq2 hs)

theorem State.abortFlights_wf {old : State} (hm : s.mem.wf = true) : (old.abortFlights s).mem.wf = true := by
  unfold State.abortFlights
  refine State.wf_ite hm (State.foldl_wf (fun _ _ hs => ?_) hm)
  split <;> exact hs

theorem State.freeLaunches_wf {l} (hm : s.mem.wf = true) : (s.freeLaunches l).mem.wf = true := by
  induction l generalizing s with
  | nil =>
    unfold State.freeLaunches
    exact hm
  | cons _ _ ih =>
    unfold State.freeLaunches
    exact ih hm

theorem State.resetCtx_wf {k} (hm : s.mem.wf = true) : (s.resetCtx k).mem.wf = true := by
  unfold State.resetCtx
  extract_lets s1 s2 s3 x
  have h1 : s1.mem.wf = true := State.cancelGraphs_wf hm
  have h2 : s2.mem.wf = true := State.freeLaunches_wf h1
  have h3 : s3.mem.wf = true := State.flushPages_wf h2
  exact h3

theorem execResetContext_wf {win seq} (h : execResetContext win seq s = .next t) (hm : s.mem.wf = true) : t.mem.wf = true := by
  unfold execResetContext at h
  exact doorbell_wf h (fun _ _ hs => State.wf_ite (State.answer_wf hs) (State.wf_ite (State.answer_wf (State.abortFlights_wf
    (State.foldl_wf (fun _ _ hs => State.resetCtx_wf hs) hs))) (State.answer_wf (State.resetCtx_wf hs)))) hm

theorem State.reset_wf  : (State.reset).mem.wf = true := by
  unfold State.reset
  exact rfl

theorem State.dropHeld_wf (hm : s.mem.wf = true) : s.dropHeld.wf = true := by
  unfold State.dropHeld
  split
  · refine List.foldlRecOn (motive := fun (m : Memory) => m.wf = true) s.hostOld _ hm fun m hs e _ => ?_
    split
    · exact Memory.wf_write _ _ hs
    · exact hs
  · exact hm

theorem State.boot_wf {patch certs} (hm : s.mem.wf = true) : (s.boot patch certs).mem.wf = true := hm

theorem State.rebooted_wf (hm : s.mem.wf = true) : (s.rebooted).mem.wf = true := by
  unfold State.rebooted
  exact State.boot_wf (State.dropHeld_wf hm)

theorem execResetModule_wf {win seq} (h : execResetModule win seq s = .next t) (hm : s.mem.wf = true) : t.mem.wf = true := by
  unfold execResetModule at h
  exact doorbell_wf h (fun _ _ hs => State.answer_wf (State.abortFlights_wf (State.rebooted_wf hs))) hm

theorem execAttest_wf {win seq} (h : execAttest win seq s = .next t) (hm : s.mem.wf = true) : t.mem.wf = true := by
  unfold execAttest at h
  exact doorbell_wf h (fun _ _ hs => State.wf_ite (State.answer_wf hs) (State.wf_ite (State.answer_wf hs) (State.answer_wf
    (State.wf_ite hs (State.blockWrite_wf hs))))) hm

theorem execStopat_wf {win seq} (h : execStopat win seq s = .next t) (hm : s.mem.wf = true) : t.mem.wf = true := by
  unfold execStopat at h
  exact doorbell_wf h (fun _ _ hs => State.answer_wf hs) hm

theorem execStopTick_wf (h : execStopTick s = .next t) (hm : s.mem.wf = true) : t.mem.wf = true := by
  unfold execStopTick at h
  split at h
  · exact next_wf h hm
  · split at h
    · exact next_wf h hm
    · cases h
      dsimp only
      apply Memory.wf_writeBytes
      exact Memory.wf_writeBytes _ _ hm

theorem execPowerOn_wf {patch certs} (h : execPowerOn patch certs s = .next t) (hm : s.mem.wf = true) : t.mem.wf = true := by
  unfold execPowerOn at h
  cases h
  exact hm

theorem State.cutAll_wf {l} (hm : s.mem.wf = true) : (s.cutAll l).mem.wf = true := by
  induction l generalizing s with
  | nil =>
    unfold State.cutAll
    exact hm
  | cons _ _ ih =>
    unfold State.cutAll
    split
    · exact ih hm
    · exact ih (State.scalarMemFault_wf hm)

theorem execHostLinkDown_wf (h : execHostLinkDown s = .next t) (hm : s.mem.wf = true) : t.mem.wf = true := by
  unfold execHostLinkDown at h
  cases h
  exact State.wf_ite hm (State.cutAll_wf hm)

theorem State.reportAll_wf {kind loc cls sub} (hm : s.mem.wf = true) : (s.reportAll kind loc cls sub).mem.wf = true := by
  unfold State.reportAll
  exact State.foldl_wf (fun _ _ hs => State.report_wf hs) hm

theorem State.deliverAll_wf (hm : s.mem.wf = true) : (s.deliverAll).mem.wf = true := by
  unfold State.deliverAll
  exact State.foldl_wf (fun _ _ hs => State.deliverEvents_wf hs) hm

theorem execHostLinkUp_wf (h : execHostLinkUp s = .next t) (hm : s.mem.wf = true) : t.mem.wf = true := by
  unfold execHostLinkUp at h
  cases h
  exact State.wf_ite (State.reportAll_wf (State.deliverAll_wf hm)) hm

theorem execMemoryPortLinkDown_wf {port} (h : execMemoryPortLinkDown port s = .next t) (hm : s.mem.wf = true) : t.mem.wf = true := by
  unfold execMemoryPortLinkDown at h
  dsimp only at h
  cases h
  exact State.wf_ite hm (State.cutAll_wf hm)

theorem execMemoryPortLinkUp_wf {port} (h : execMemoryPortLinkUp port s = .next t) (hm : s.mem.wf = true) : t.mem.wf = true := by
  unfold execMemoryPortLinkUp at h
  dsimp only at h
  cases h
  exact State.wf_ite hm hm

theorem execExpanderLost_wf {port} (h : execExpanderLost port s = .next t) (hm : s.mem.wf = true) : t.mem.wf = true := by
  unfold execExpanderLost at h
  dsimp only at h
  cases h
  exact State.wf_ite hm hm

theorem execExpanderPoison_wf {pa} (h : execExpanderPoison pa s = .next t) (hm : s.mem.wf = true) : t.mem.wf = true := by
  unfold execExpanderPoison at h
  cases h
  exact State.wf_ite hm hm

theorem State.retire_wf {c} (hm : s.mem.wf = true) : (s.retire c).mem.wf = true := by
  unfold State.retire
  exact State.wf_ite hm (State.wf_ite hm (State.reportAll_wf hm))

theorem State.countError_wf {c} (hm : s.mem.wf = true) : (s.countError c).mem.wf = true := by
  unfold State.countError
  exact State.wf_ite (State.retire_wf hm) hm

theorem execCorrectedError_wf {e} (h : execCorrectedError e s = .next t) (hm : s.mem.wf = true) : t.mem.wf = true := by
  unfold execCorrectedError at h
  split at h
  · cases h
    exact hm
  · dsimp only at h
    cases h
    exact State.wf_ite (State.countError_wf (State.foldl_wf (fun _ _ hs => State.trace_wf hs) hm)) (State.foldl_wf
      (fun _ _ hs => State.trace_wf hs) hm)

theorem execUncorrectableError_wf {e} (h : execUncorrectableError e s = .next t) (hm : s.mem.wf = true) : t.mem.wf = true := by
  unfold execUncorrectableError at h
  dsimp only at h
  cases h
  split
  · exact State.wf_ite (State.retire_wf hm) hm
  · exact State.wf_ite hm hm
  · split <;> exact hm
  · exact hm
  · exact State.wf_ite hm (State.coreFault_wf hm)
  · exact State.wf_ite hm (State.coreFault_wf hm)
  · exact hm
  · exact State.cancelGraphs_wf (State.report_wf hm)

theorem execChannelRemapDone_wf {channel} (h : execChannelRemapDone channel s = .next t) (hm : s.mem.wf = true) : t.mem.wf = true := by
  unfold execChannelRemapDone at h
  dsimp only at h
  cases h
  exact State.wf_ite (State.reportAll_wf hm) hm

theorem execThermalThrottle_wf {die temp m} (h : execThermalThrottle die temp m s = .next t) (hm : s.mem.wf = true) : t.mem.wf = true := by
  unfold execThermalThrottle at h
  cases h
  exact State.wf_ite hm hm

theorem execThermalShutdown_wf {die temp} (h : execThermalShutdown die temp s = .next t) (hm : s.mem.wf = true) : t.mem.wf = true := by
  unfold execThermalShutdown at h
  split at h
  · cases h
    exact hm
  · cases h
    exact hm

theorem State.walkRecord_wf {n dir start e} (hm : s.mem.wf = true) : (s.walkRecord n dir start e).mem.wf = true := by
  unfold State.walkRecord
  exact State.traceCore_wf hm

theorem State.walkPort_wf {n p} (hm : s.mem.wf = true) : (s.walkPort n p).mem.wf = true := by
  unfold State.walkPort
  dsimp only
  split
  · exact State.wf_ite (State.walkRecord_wf hm) hm
  · split
    · split
      · exact hm
      · exact State.wf_ite (State.walkRecord_wf hm) hm
    · exact hm

theorem State.endWindow_wf {n} (hm : s.mem.wf = true) : (s.endWindow n).mem.wf = true := by
  unfold State.endWindow
  exact State.wf_ite (State.foldl_wf (fun _ _ hs => State.walkPort_wf hs) hm) hm

theorem execWalkerWindow_wf {core} (h : execWalkerWindow core s = .next t) (hm : s.mem.wf = true) : t.mem.wf = true := by
  unfold execWalkerWindow at h
  cases h
  exact State.wf_ite hm (State.endWindow_wf hm)

theorem execBadcode_wf {win seq} (h : execBadcode win seq s = .next t) (hm : s.mem.wf = true) : t.mem.wf = true := by
  unfold execBadcode at h
  dsimp only at h
  split at h
  · cases h
    exact hm
  · split at h
    · cases h
      exact hm
    · split at h
      · cases h
        exact hm
      · cases h
        exact State.answer_wf hm

theorem execArbiterAnswersNothing_wf {ctx gid} (h : execArbiterAnswersNothing ctx gid s = .next t) (hm : s.mem.wf = true)
    : t.mem.wf = true := by
  unfold execArbiterAnswersNothing at h
  cases h
  split
  · exact hm
  · exact State.wf_ite (State.failDpost_wf hm) hm

theorem execEffectivePriorityReaches3_wf {die entry} (h : execEffectivePriorityReaches3 die entry s = .next t) (hm : s.mem.wf = true)
    : t.mem.wf = true := by
  unfold execEffectivePriorityReaches3 at h
  split at h
  · cases h
    exact hm
  · cases h
    exact State.fixBlock_wf hm

theorem execPseqAcknowledged_wf {ctx} (h : execPseqAcknowledged ctx s = .next t) (hm : s.mem.wf = true) : t.mem.wf = true := by
  unfold execPseqAcknowledged at h
  split at h
  · cases h
    exact hm
  · split at h
    · cases h
      exact hm
    · cases h
      exact State.endSnapshot_wf hm

theorem execPartnerSlotRead_wf {ctx area device} (h : execPartnerSlotRead ctx area device s = .next t) (hm : s.mem.wf = true)
    : t.mem.wf = true := by
  unfold execPartnerSlotRead at h
  split at h
  · cases h
    exact hm
  · split at h
    · cases h
      exact hm
    · cases h
      exact hm

theorem execTimestampedProbe_wf {member} (h : execTimestampedProbe member s = .next t) (hm : s.mem.wf = true) : t.mem.wf = true := by
  unfold execTimestampedProbe at h
  cases h
  exact hm

theorem execUetRetransmit_wf {p} (h : execUetRetransmit p s = .next t) (hm : s.mem.wf = true) : t.mem.wf = true := by
  unfold execUetRetransmit at h
  cases h
  split <;> exact hm

theorem execCxlCacheSnoop_wf {pa store} (h : execCxlCacheSnoop pa store s = .next t) (hm : s.mem.wf = true) : t.mem.wf = true := by
  unfold execCxlCacheSnoop at h
  cases h
  dsimp only
  split
  · exact hm
  · split
    · exact hm
    · exact State.blockWrite_wf hm

theorem exec_wf {i : Instr} (h : exec i s = .next t) (hm : s.mem.wf = true) : t.mem.wf = true := by
  delta exec at h
  cases i with
  | li | lui => exact alu0_wf h hm
  | clz | ctz | popc | sext | zext | mov | bfx | bfxu | addi | andi | ori | xori | shli | shri | sari => exact alu1_wf h hm
  | add | sub | mul | mulh | mulhu | div | divu | rem | remu | and | or | xor | andn | shl | shr | sar | min | max | minu | maxu
    | leaX1 | leaX2 | leaX4 | leaX8 => exact alu2_wf h hm
  | amoAddW | amoMinW | amoMaxW | amoMinuW | amoMaxuW | amoAndW | amoOrW | amoXorW | amoSwapW | amoCasW | amoAddD | amoMinD
    | amoMaxD | amoMinuD | amoMaxuD | amoAndD | amoOrD | amoXorD | amoSwapD | amoCasD => exact amoForm_wf h hm
  | bp | bnp | j => exact branchIf_wf h hm
  | cmpiEq | cmpiNe | cmpiLt | cmpiLe | cmpiLtu | cmpiLeu => exact cmp1_wf h hm
  | cmpEq | cmpNe | cmpLt | cmpLe | cmpLtu | cmpLeu => exact cmp2_wf h hm
  | pand | por | pxor | pnot => exact predOp_wf h hm
  | steer | carry | invar | drop => exact ctlStep_wf h hm
  | fenceAcq | fenceRel | fenceFull => exact fence_wf h hm
  | cfgLoad | cfgPatch | cfgReconf | cfgIter | pace | portBind | portFeed | portTake | batch | hurdleArriveWait | hurdleArrive
    | hurdleWait | copy | copyFill | copyWfill | copyMc | copyDem | copyIndGather | copyIndScatter | mm | mmSp | mmBsr | mmCsr
    | mmArm | mmAccZero | mmAccLoad | mmAccStore | mmOut | gather | scatterAdd | scatterMin | scatterMax | scatterFirst
    | scatterLast | intersect | ixCount | selTopk | selColk | auc | aucPrice | dpost | xsend | xwait | place | glaunch | nodeSig
    | traceMark => exact issueCmd_wf h hm
  | lutn | matchFire => exact islandStep_wf h hm
  | jr | ret => exact jumpReg_wf h hm
  | ldsB | ldsH | ldsW | ldsBByp | ldsHByp | ldsWByp | ldsBStr | ldsHStr | ldsWStr | ldB | ldH | ldW | ldD | ldBByp | ldHByp
    | ldWByp | ldDByp | ldBStr | ldHStr | ldWStr | ldDStr => exact ldForm_wf h hm
  | stB | stH | stW | stD | stBByp | stHByp | stWByp | stDByp | stBStr | stHStr | stWStr | stDStr => exact stForm_wf h hm
  | mset | mclr => exact maskBit_wf h hm
  | lda | sta | amoa | plda | psta => exact memStep_wf h hm
  | memxLd | memxLds => exact memxLoad_wf h hm
  | rsum | rmax | rmin | rarg | rcnt | segn | smark | sconv | lpout => exact siteStep_wf h hm
  | elemAdd | elemSub | elemMul | elemMac | elemMin | elemMax | elemAbs | elemNeg | elemAnd | elemOr | elemXor | elemNot | elemShl
    | elemShr | elemSar | elemCmpEq | elemCmpNe | elemCmpLt | elemCmpLe | elemCmpLtu | elemCmpLeu | elemSel | elemDot4 | elemDot2
    | elemSatadd | elemSatsub | elemClz | elemPopc | fadd | fsub | fmul | fma | fmin | fmax | fabs | fneg | frcp | frsq | fexp2
    | flog2 | fcmpEq | fcmpNe | fcmpLt | fcmpLe | cvt | dqn | emux | eand | eor => exact wise_wf h hm
  | sel => exact execSel_wf h hm
  | memxSt => exact execMemxSt_wf h hm
  | bfi => exact execBfi_wf h hm
  | pld => exact execPld_wf h hm
  | pst => exact execPst_wf h hm
  | pclr => exact execPclr_wf h hm
  | wait => exact execWait_wf h hm
  | nop => exact execNop_wf h hm
  | halt => exact execHalt_wf h hm
  | safe => exact execSafe_wf h hm
  | trap => exact execTrap_wf h hm
  | eret => exact execEret_wf h hm
  | drain => exact execDrain_wf h hm
  | mfs => exact execMfs_wf h hm
  | mts => exact execMts_wf h hm
  | mld => exact execMld_wf h hm
  | mst => exact execMst_wf h hm
  | mtst => exact execMtst_wf h hm
  | traceS => exact execTraceS_wf h hm
  | loop => exact execLoop_wf h hm
  | call => exact execCall_wf h hm
  | scalarAccessComplete => exact execScalarAccessComplete_wf h hm
  | pldDeferredComplete => exact execPldDeferredComplete_wf h hm
  | pldReissue => exact execPldReissue_wf h hm
  | armEntryStart => exact execArmEntryStart_wf h hm
  | kstepComplete => exact execKstepComplete_wf h hm
  | indexGroupComplete => exact execIndexGroupComplete_wf h hm
  | auctionRound => exact execAuctionRound_wf h hm
  | qnt => exact execQnt_wf h hm
  | lpin => exact execLpin_wf h hm
  | merge => exact execMerge_wf h hm
  | pacerAdmit => exact execPacerAdmit_wf h hm
  | antiTokenArrival => exact execAntiTokenArrival_wf h hm
  | inPortSend => exact execInPortSend_wf h hm
  | outPortWrite => exact execOutPortWrite_wf h hm
  | fabricQuiescent => exact execFabricQuiescent_wf h hm
  | demandRowArrival => exact execDemandRowArrival_wf h hm
  | grantSequenceArrival => exact execGrantSequenceArrival_wf h hm
  | heartbeat => exact execHeartbeat_wf h hm
  | dispatchPacketReceive => exact execDispatchPacketReceive_wf h hm
  | packetAckReceive => exact execPacketAckReceive_wf h hm
  | roundAbandon => exact execRoundAbandon_wf h hm
  | abandonNotice => exact execAbandonNotice_wf h hm
  | arbiterTakeover => exact execArbiterTakeover_wf h hm
  | takeoverNotice => exact execTakeoverNotice_wf h hm
  | tkoffProbe => exact execTkoffProbe_wf h hm
  | powerOn => exact execPowerOn_wf h hm
  | hostLinkDown => exact execHostLinkDown_wf h hm
  | hostLinkUp => exact execHostLinkUp_wf h hm
  | expanderPoison => exact execExpanderPoison_wf h hm
  | thermalThrottle => exact execThermalThrottle_wf h hm
  | walkerWindow => exact execWalkerWindow_wf h hm
  | arbiterAnswersNothing => exact execArbiterAnswersNothing_wf h hm
  | timestampedProbe => exact execTimestampedProbe_wf h hm
  | uetRetransmit => exact execUetRetransmit_wf h hm
  | cxlCacheSnoop => exact execCxlCacheSnoop_wf h hm
  | commandStart => exact execCommandStart_wf h hm
  | commandComplete => exact execCommandComplete_wf h hm
  | nodeComplete => exact execNodeComplete_wf h hm
  | decrementMessage => exact execDecrementMessage_wf h hm
  | errorToken => exact execErrorToken_wf h hm
  | launchRequest => exact execLaunchRequest_wf h hm
  | autoPreempt => exact execAutoPreempt_wf h hm
  | preemptSave => exact execPreemptSave_wf h hm
  | snapshot => exact execSnapshot_wf h hm
  | partnerShardReceive => exact execPartnerShardReceive_wf h hm
  | stopTick => exact execStopTick_wf h hm
  | correctedError => exact execCorrectedError_wf h hm
  | effectivePriorityReaches3 => exact execEffectivePriorityReaches3_wf h hm
  | pseqAcknowledged => exact execPseqAcknowledged_wf h hm
  | partnerSlotRead => exact execPartnerSlotRead_wf h hm
  | iterationComplete => exact execIterationComplete_wf h hm
  | batonReturn => exact execBatonReturn_wf h hm
  | nodeDispatch => exact execNodeDispatch_wf h hm
  | graphLaunch => exact execGraphLaunch_wf h hm
  | preemptTimeout => exact execPreemptTimeout_wf h hm
  | phaseStart => exact execPhaseStart_wf h hm
  | roundEnd => exact execRoundEnd_wf h hm
  | endOfRoundMarker => exact execEndOfRoundMarker_wf h hm
  | peerLost => exact execPeerLost_wf h hm
  | hostMemRead => exact execHostMemRead_wf h hm
  | hostMemWrite => exact execHostMemWrite_wf h hm
  | memoryPortLinkDown => exact execMemoryPortLinkDown_wf h hm
  | memoryPortLinkUp => exact execMemoryPortLinkUp_wf h hm
  | expanderLost => exact execExpanderLost_wf h hm
  | uncorrectableError => exact execUncorrectableError_wf h hm
  | channelRemapDone => exact execChannelRemapDone_wf h hm
  | badcode => exact execBadcode_wf h hm
  | econsWrite => exact execEconsWrite_wf h hm
  | windowRegisterWrite => exact execWindowRegisterWrite_wf h hm
  | thermalShutdown => exact execThermalShutdown_wf h hm
  | ident => exact execIdent_wf h hm
  | query => exact execQuery_wf h hm
  | cancel => exact execCancel_wf h hm
  | restore => exact execRestore_wf h hm
  | resetContext => exact execResetContext_wf h hm
  | resetModule => exact execResetModule_wf h hm
  | attest => exact execAttest_wf h hm
  | stopat => exact execStopat_wf h hm
  | querySetTkoff => exact execQuerySetTkoff_wf h hm
  | querySetAgeing => exact execQuerySetAgeing_wf h hm
  | querySetSaveArea => exact execQuerySetSaveArea_wf h hm
  | querySetPreempt => exact execQuerySetPreempt_wf h hm
  | querySetDeviceId => exact execQuerySetDeviceId_wf h hm
  | map => exact execMap_wf h hm
  | unmap => exact execUnmap_wf h hm
  | inval => exact execInval_wf h hm
  | pin => exact execPin_wf h hm
  | unpin => exact execUnpin_wf h hm
  | loadgraph => exact execLoadgraph_wf h hm
  | launch => exact execLaunch_wf h hm

theorem State.letGo_wf {n boundary} (hm : s.mem.wf = true) : (s.letGo n boundary).mem.wf = true := by
  unfold State.letGo
  dsimp only
  split
  · exact State.wf_ite hm hm
  · exact hm

theorem State.overrun_wf {n} (hm : s.mem.wf = true) : (s.overrun n).mem.wf = true := by
  unfold State.overrun
  exact State.exception_wf hm

theorem State.fetchInstr_error_wf {n} (h : s.fetchInstr n = .error t) (hm : s.mem.wf = true) : t.mem.wf = true := by
  unfold State.fetchInstr at h
  extract_lets c at_ at h
  split at h
  · cases h
    exact State.overrun_wf hm
  · split at h
    · cases h
      exact State.scalarMemFault_wf hm
    · extract_lets bs cmd at h
      split at h
      · cases h
        exact State.illegal_wf hm
      · split at h
        · cases h
        · cases h
          exact State.illegal_wf hm

theorem State.keepGroup_wf {n idx} (hm : s.mem.wf = true) : (s.keepGroup n idx).mem.wf = true := by
  unfold State.keepGroup
  split <;> exact hm

theorem coreTurn_wf {n} (h : coreTurn n s = .next t) (hm : s.mem.wf = true) : t.mem.wf = true := by
  unfold coreTurn at h
  extract_lets u c at h
  have hu : u.mem.wf = true := State.letGo_wf hm
  refine outcome_ite_wf h (next_wf · hu) fun h => outcome_ite_wf h (next_wf · hu) fun h => ?_
  split at h
  · next heq => exact next_wf h (State.fetchInstr_error_wf heq hu)
  · exact exec_wf h (State.keepGroup_wf hu)

theorem State.linkHop_wf {n dst} (hm : s.mem.wf = true) : (s.linkHop n dst).mem.wf = true := by
  unfold State.linkHop
  dsimp only
  split
  · exact hm
  · split
    · exact State.wf_ite hm (State.wf_ite hm hm)
    · exact hm

theorem State.hopAct_wf {n dst} (hm : s.mem.wf = true) : (s.hopAct n dst).mem.wf = true := by
  unfold State.hopAct
  exact State.wf_ite (State.linkHop_wf hm) (State.wf_ite hm (State.fabricAct_wf hm))

theorem State.pieceStep_wf {id i} (hm : s.mem.wf = true) : (s.pieceStep id i).mem.wf = true := by
  unfold State.pieceStep
  split
  · exact hm
  · split
    · exact hm
    · refine State.wf_ite hm ?_
      split
      · split
        · exact hm
        · split
          · exact hm
          · exact State.wf_ite (State.mcRun_wf hm) hm
      · refine State.wf_ite hm (State.wf_ite (State.copyRun_wf hm) ?_)
        extract_lets c
        refine State.wf_ite hm ?_
        split
        · exact hm
        · next heq =>
          have h1 := State.movePiece_wf heq hm
          exact State.updCmd_wf h1

theorem State.pieceOf_wf {id i} (hm : s.mem.wf = true) : (s.pieceOf id i).mem.wf = true := by
  unfold State.pieceOf
  split
  · exact hm
  · exact State.wf_ite hm (State.wf_ite (State.accRun_wf hm) (State.wf_ite (State.sendRun_wf hm) (State.pieceStep_wf hm)))

theorem State.reasonOr_wf {base k u p} (h : s.reasonOr base k u = p) (hm : s.mem.wf = true) : p.2.mem.wf = true := by
  unfold State.reasonOr at h
  split at h
  · cases h
    exact hm
  · cases h
    exact hm

theorem State.sampleEvent_wf {n elem reason a} (hm : s.mem.wf = true) : (s.sampleEvent n elem reason a).mem.wf = true := by
  unfold State.sampleEvent
  dsimp only
  split
  · exact hm
  · split
    · exact hm
    · split
      · exact hm
      · split
        · exact hm
        · exact State.spill_wf hm

theorem State.clkStep_wf {n} (hm : s.mem.wf = true) : (s.clkStep n).mem.wf = true := by
  unfold State.clkStep
  dsimp only
  split
  · exact hm
  · exact State.wf_ite (State.sampleEvent_wf (State.reasonOr_wf rfl (State.wf_ite hm (State.endWindow_wf hm)))) (State.sampleEvent_wf
      (State.reasonOr_wf rfl (State.sampleEvent_wf (State.reasonOr_wf rfl (State.wf_ite hm (State.endWindow_wf hm))))))

theorem State.noteReady_wf (hm : s.mem.wf = true) : s.noteReady.mem.wf = true := hm

theorem tick_wf {dt} (hm : s.mem.wf = true) : (tick dt s).mem.wf = true := by
  unfold tick
  extract_lets u v
  have hu : u.mem.wf = true := State.wf_ite (State.noteReady_wf (State.flushAll_wf hm)) (State.noteReady_wf hm)
  exact State.wf_ite hu (State.probeAll_wf hu)

theorem nextAct_wf (hm : s.mem.wf = true) : (nextAct s).2.mem.wf = true := by
  unfold nextAct
  split
  · exact tick_wf hm
  · exact tick_wf hm

theorem act_wf {a} (h : act a s = .next t) (hm : s.mem.wf = true) : t.mem.wf = true := by
  unfold act at h
  cases a with
  | core n => exact coreTurn_wf h hm
  | event i => exact outcome_ite_wf h (next_wf · hm) (exec_wf · hm)
  | hop n dst => exact next_wf h (State.hopAct_wf hm)
  | piece id i => exact next_wf h (State.pieceOf_wf hm)
  | clk n => exact next_wf h (State.clkStep_wf hm)

theorem runStep_wf (h : runStep s = .next t) (hm : s.mem.wf = true) : t.mem.wf = true := by
  unfold runStep at h
  have h1 := nextAct_wf hm
  exact outcome_ite_wf h (exec_wf · h1) (act_wf · h1)

theorem stoppedStep_wf (h : stoppedStep s = .next t) (hm : s.mem.wf = true) : t.mem.wf = true := by
  unfold stoppedStep at h
  split at h
  · refine outcome_ite_wf h (exec_wf · hm) (next_wf · hm)
  · exact next_wf h hm
  · exact next_wf h hm

theorem shutStep_wf (h : shutStep s = .next t) (hm : s.mem.wf = true) : t.mem.wf = true := by
  unfold shutStep at h
  split at h
  · refine outcome_ite_wf h (exec_wf · hm) fun h => ?_
    cases h
  · cases h

theorem step_wf (h : step s = .next t) (hm : s.mem.wf = true) : t.mem.wf = true := by
  unfold step at h
  split at h
  · exact runStep_wf h hm
  · exact stoppedStep_wf h hm
  · exact shutStep_wf h hm

end

/-- Settles O60: every function a step is made of keeps the memory in its canonical form, since each write of it does. -/
theorem memoryFormKept : Obligations.MemoryFormKept := by
  unfold Obligations.MemoryFormKept
  intro s t hm h
  exact step_wf h hm

end Sys2Proof.Machine
end

section
/-! PROOFS. The windows of the fabric caches: the bytes of a sector, what filling a sector and writing into it change, and accesses
through a window and past it. -/

namespace Sys2Proof.Machine

/-! ## The bytes of a sector -/

theorem sectorByte_getLsbD (d : BitVec 1024) (i k : Nat) (hk : k < 8) : (sectorByte d i).getLsbD k = d.getLsbD (8 * i + k) := by
  rw [sectorByte, BitVec.getLsbD_ofNat, Nat.testBit_div_two_pow, BitVec.testBit_toNat, Nat.add_comm, decide_eq_true hk, Bool.true_and]

theorem sectorSet_getLsbD (d : BitVec 1024) (j : Nat) (v : Byte) (n : Nat) (hn : n < 1024) :
    (sectorSet d j v).getLsbD n = if 8 * j ≤ n ∧ n < 8 * j + 8 then v.getLsbD (n - 8 * j) else d.getLsbD n := by
  have hmask : (255 * 2 ^ (8 * j)).testBit n = decide (8 * j ≤ n ∧ n < 8 * j + 8) := by
    rw [Nat.testBit_mul_two_pow, show 255 = 2 ^ 8 - 1 from rfl, Nat.testBit_two_pow_sub_one, ← Bool.decide_and]
    exact decide_eq_decide.mpr (by omega)
  have hval : (v.toNat * 2 ^ (8 * j)).testBit n = (decide (8 * j ≤ n) && v.getLsbD (n - 8 * j)) := by
    rw [Nat.testBit_mul_two_pow, BitVec.testBit_toNat]
  simp only [sectorSet, BitVec.getLsbD_or, BitVec.getLsbD_and, BitVec.getLsbD_not, BitVec.getLsbD_ofNat, hn, hmask, hval,
    decide_true, Bool.true_and]
  by_cases hle : 8 * j ≤ n
  · by_cases hlt : n < 8 * j + 8
    · simp [hle, hlt]
    · simp [hle, hlt, BitVec.getLsbD_of_ge v (n - 8 * j) (by omega)]
  · simp [hle]

theorem sectorByte_sectorSet (d : BitVec 1024) (v : Byte) {i j : Nat} (hi : i < 128) :
    sectorByte (sectorSet d j v) i = if i = j then v else sectorByte d i := by
  refine BitVec.eq_of_getLsbD_eq fun k hk => ?_
  rw [sectorByte_getLsbD _ _ _ hk, sectorSet_getLsbD _ _ _ _ (by omega)]
  split
  · next h =>
    rw [if_pos (by omega), show 8 * i + k - 8 * j = k by omega]
  · next h =>
    rw [if_neg (by omega), sectorByte_getLsbD _ _ _ hk]

theorem leNat_testBit (bs : List Byte) (i k : Nat) (hk : k < 8) : (leNat bs).testBit (8 * i + k) = (bs.getD i 0#8).getLsbD k := by
  induction bs generalizing i with
  | nil => simp [leNat]
  | cons b bs ih =>
    rw [leNat, show 256 = 2 ^ 8 from rfl, Nat.add_comm, Nat.testBit_two_pow_mul_add _ b.isLt]
    cases i with
    | zero => simp [hk, BitVec.testBit_toNat]
    | succ i =>
      rw [if_neg (by omega), show 8 * (i + 1) + k - 8 = 8 * i + k by omega, ih]
      simp

theorem sectorByte_sectorOf (bs : List Byte) {i : Nat} (hi : i < 128) : sectorByte (sectorOf bs) i = bs.getD i 0#8 := by
  refine BitVec.eq_of_getLsbD_eq fun k hk => ?_
  rw [sectorByte_getLsbD _ _ _ hk, sectorOf, BitVec.getLsbD_ofNat, leNat_testBit _ _ _ hk]
  simp [show 8 * i + k < 1024 by omega]

theorem Memory.getD_readBytes (m : Memory) (a n i : Nat) (hi : i < n) : (m.readBytes a n).getD i 0#8 = m.read (a + i) := by
  induction n generalizing a i with
  | zero => omega
  | succ n ih =>
    cases i with
    | zero => rfl
    | succ i =>
      have := ih (a + 1) i (by omega)
      rw [show a + (i + 1) = a + 1 + i by omega, ← this]
      rfl

/-! ## Banks and sectors -/

@[simp] theorem State.bank_setBank_same (s : State) (k b : Nat) (x : Bank) : (s.setBank k b x).bank k b = x := by
  unfold State.bank State.setBank
  rw [State.core_updCore_same]
  exact SMap.get_put_same ..

theorem State.bank_setBank_other (s : State) {k b m c : Nat} (x : Bank) (h : (m, c) ≠ (k, b)) :
    (s.setBank k b x).bank m c = s.bank m c := by
  unfold State.bank State.setBank
  by_cases hm : m = k
  · subst hm
    rw [State.core_updCore_same]
    exact SMap.get_put_other _ _ _ fun hc => h (by rw [hc])
  · rw [State.core_updCore_other _ _ _ _ hm]

/-- Memory and the banks are as before, sector y of bank (k, b) apart. -/
structure SectorOnly (s t : State) (k b y : Nat) : Prop where
  mem : t.mem = s.mem
  poison : t.poison = s.poison
  full : t.full = s.full
  sectors : ∀ z, z ≠ y → SMap.get {} (t.bank k b).sectors z = SMap.get {} (s.bank k b).sectors z
  banks : ∀ m c, (m, c) ≠ (k, b) → t.bank m c = s.bank m c

theorem SectorOnly.refl (s : State) (k b y : Nat) : SectorOnly s s k b y := ⟨rfl, rfl, rfl, fun _ _ => rfl, fun _ _ _ => rfl⟩

theorem SectorOnly.trans {s t u : State} {k b y : Nat} (h : SectorOnly s t k b y) (h' : SectorOnly t u k b y) : SectorOnly s u k b y :=
  ⟨h'.mem.trans h.mem, h'.poison.trans h.poison, h'.full.trans h.full, fun z hz => (h'.sectors z hz).trans (h.sectors z hz),
    fun m c hc => (h'.banks m c hc).trans (h.banks m c hc)⟩

/-- Sector y of a bank replaced. -/
def State.setSector (s : State) (k b y : Nat) (x : Sector) : State :=
  s.setBank k b { s.bank k b with sectors := SMap.put (s.bank k b).sectors y x }

/-- The sector a bank has for a number. -/
def State.sector (s : State) (k b y : Nat) : Sector := SMap.get {} (s.bank k b).sectors y

@[simp] theorem State.sector_setSector (s : State) (k b y : Nat) (x : Sector) : (s.setSector k b y x).sector k b y = x := by
  rw [State.sector, State.setSector, State.bank_setBank_same]
  exact SMap.get_put_same ..

theorem sectorOnly_setSector (s : State) (k b y : Nat) (x : Sector) : SectorOnly s (s.setSector k b y x) k b y where
  mem := rfl
  poison := rfl
  full := rfl
  sectors z hz := by
    rw [State.setSector, State.bank_setBank_same]
    exact SMap.get_put_other _ _ _ hz
  banks m c hc := State.bank_setBank_other _ _ hc

theorem State.putWindow_eq (s : State) (k b va pa : Nat) (v : Byte) (dirty clears : Bool) :
    s.putWindow k b va pa v dirty clears = s.setSector k b (va / 128) ⟨pa / 128, (s.sector k b (va / 128)).dirty || dirty,
      sectorSet (s.sector k b (va / 128)).data (va % 128) v, (s.sector k b (va / 128)).poisoned && !clears⟩ := rfl

theorem State.putWindow_sectorOnly (s : State) (k b va pa : Nat) (v : Byte) (dirty clears : Bool) :
    SectorOnly s (s.putWindow k b va pa v dirty clears) k b (va / 128) := sectorOnly_setSector ..

theorem State.dirty_putWindow (s : State) (k b va pa : Nat) (v : Byte) (dirty clears : Bool) :
    ((s.putWindow k b va pa v dirty clears).sector k b (va / 128)).dirty = ((s.sector k b (va / 128)).dirty || dirty) := by
  rw [State.putWindow_eq, State.sector_setSector]

theorem State.sectorByte_putWindow (s : State) (k b va pa : Nat) (v : Byte) (dirty clears : Bool) {i : Nat} (hi : i < 128) :
    sectorByte ((s.putWindow k b va pa v dirty clears).sector k b (va / 128)).data i =
      if i = va % 128 then v else sectorByte (s.sector k b (va / 128)).data i := by
  rw [State.putWindow_eq, State.sector_setSector, sectorByte_sectorSet _ _ hi]

/-! ## Filling a sector (R103) -/

section fill
variable {s : State} {k b va pa : Nat}

theorem State.fill_held (h : (s.bank k b).holds va pa = true) : s.fill k b va pa = .ok s := by rw [State.fill, if_pos h]

/-- A sector of its home slice, as a bank takes it in. -/
def State.homeSector (s : State) (pa : Nat) : Sector :=
  { home := pa / 128, data := sectorOf (s.mem.readBytes (pa / 128 * 128) 128) }

theorem Bank.holds_of_absent {x : Bank} (h : ∀ e ∈ x.sectors, e.1 ≠ va / 128) : x.holds va pa = false := by
  rw [Bank.holds, List.any_eq_false]
  intro e he
  simp [h e he]

theorem find?_absent {α : Type} {l : List (Nat × α)} {y : Nat} (h : ∀ e ∈ l, e.1 ≠ y) : l.find? (fun e => decide (e.1 = y)) = none :=
  List.find?_eq_none.mpr fun e he => by simp [h e he]

theorem State.evictWaits_absent (h : ∀ e ∈ (s.bank k b).sectors, e.1 ≠ va / 128) : s.evictWaits k b va = false := by
  rw [State.evictWaits, List.any_eq_false]
  intro e he
  simp [h e he]

theorem State.evict_absent (h : ∀ e ∈ (s.bank k b).sectors, e.1 ≠ va / 128) : s.evict k b va = s := by
  simp only [State.evict, find?_absent h]

/-- A fill of a sector the bank does not hold evicts what stands in its place and reads the home slice. -/
theorem State.fill_missing (hheld : (s.bank k b).holds va pa = false) (hwaits : s.evictWaits k b va = false) :
    s.fill k b va pa = ((s.evict k b va).homeReads (va / 128 * 128) ((List.range 128).map (pa / 128 * 128 + ·))).map fun bs =>
      (s.evict k b va).setSector k b (va / 128) { home := pa / 128, data := sectorOf bs } := by
  rw [State.fill, hheld, hwaits]
  dsimp only [Bool.false_eq_true, if_false]
  cases (s.evict k b va).homeReads (va / 128 * 128) ((List.range 128).map (pa / 128 * 128 + ·)) with
  | error e => rfl
  | ok bs => rfl

/-- A fill that meets no copy of another frame changes its own sector alone. -/
theorem State.fill_sectorOnly {u : State} (hhome : ∀ e ∈ (s.bank k b).sectors, e.1 = va / 128 → e.2.home = pa / 128)
    (h : s.fill k b va pa = .ok u) : SectorOnly s u k b (va / 128) := by
  cases hheld : (s.bank k b).holds va pa with
  | true =>
    rw [State.fill_held hheld] at h
    cases h
    exact SectorOnly.refl ..
  | false =>
    have habsent : ∀ e ∈ (s.bank k b).sectors, e.1 ≠ va / 128 := by
      intro e he hkey
      rw [Bank.holds, List.any_eq_false] at hheld
      exact hheld e he (by simp [hkey, hhome e he hkey])
    rw [State.fill_missing hheld (State.evictWaits_absent habsent), State.evict_absent habsent] at h
    cases hreads : s.homeReads (va / 128 * 128) ((List.range 128).map (pa / 128 * 128 + ·)) with
    | error e =>
      rw [hreads] at h
      cases h
    | ok bs =>
      rw [hreads] at h
      cases h
      exact sectorOnly_setSector ..

/-- Filled where nothing stands in the way, the sector has the bytes of its home. -/
theorem State.fill_readable (hheld : (s.bank k b).holds va pa = false) (hwaits : s.evictWaits k b va = false)
    (hread : (s.evict k b va).readable ((List.range 128).map (pa / 128 * 128 + ·))) :
    s.fill k b va pa = .ok ((s.evict k b va).setSector k b (va / 128)
      { home := pa / 128, data := sectorOf ((s.evict k b va).mem.readBytes (pa / 128 * 128) 128) }) := by
  rw [State.fill_missing hheld hwaits, State.homeReads_ok]
  · rfl
  · intro v i hi
    obtain ⟨hcopy, hlink, hpoison⟩ := hread (pa / 128 * 128 + i) (List.mem_map.mpr ⟨i, List.mem_range.mpr hi, rfl⟩)
    exact ⟨State.blocked_none hcopy hlink v, hpoison⟩

/-- The copy of a sector of frame pa / 128 that its home slice has just given. -/
structure FreshSector (m : Memory) (x : Sector) (pa : Nat) : Prop where
  home : x.home = pa / 128
  clean : x.dirty = false
  sound : x.poisoned = false
  bytes : ∀ i < 128, sectorByte x.data i = m.read (pa / 128 * 128 + i)

theorem freshSector (m : Memory) (pa : Nat) :
    FreshSector m { home := pa / 128, data := sectorOf (m.readBytes (pa / 128 * 128) 128) } pa where
  home := rfl
  clean := rfl
  sound := rfl
  bytes i hi := by rw [sectorByte_sectorOf _ hi, Memory.getD_readBytes _ _ _ _ hi]

end fill

/-! ## Writing a sector back (R104) -/

theorem State.keepHosts_eq (s : State) (pa n : Nat) : ∃ l, s.keepHosts pa n = { s with hostOld := l } := by
  induction n generalizing s pa with
  | zero => exact ⟨s.hostOld, rfl⟩
  | succ n ih =>
    obtain ⟨l, hl⟩ : ∃ l, s.keepHost pa = { s with hostOld := l } := by
      unfold State.keepHost
      split
      · exact ⟨_, rfl⟩
      · exact ⟨s.hostOld, rfl⟩
    obtain ⟨l', hl'⟩ := ih (s.keepHost pa) (pa + 1)
    exact ⟨l', by rw [State.keepHosts, hl', hl]⟩

/-- A dirty sound sector written back: its bytes stand at its home, which is not poisoned. -/
theorem State.writeBack_sound (s : State) {x : Sector} (hd : x.dirty = true) (hp : x.poisoned = false) :
    ∃ l, s.writeBack x = { s with
      mem := s.mem.writeBytes (128 * x.home) (leBytes 128 x.data.toNat), poison := SMap.set .clean s.poison x.home .clean, hostOld := l } := by
  obtain ⟨l, hl⟩ := s.keepHosts_eq (128 * x.home) 128
  exact ⟨l, by rw [State.writeBack, if_pos hd, hp, hl]; rfl⟩

/-- Writing a sound sector back poisons nothing. -/
theorem SMap.get_set_clean (m : SMap Poison) (i j : Nat) (h : SMap.get .clean m j = .clean) :
    SMap.get .clean (SMap.set .clean m i .clean) j = .clean := by
  by_cases hj : j = i
  · rw [hj, SMap.get_set_same]
  · rw [SMap.get_set_other _ _ _ hj, h]

theorem State.poisonAt_clean {s : State} {p : Nat} (h : s.poisoned p = false) : s.poisonAt p = .clean := by
  simpa using (Bool.or_eq_false_iff.mp h).1

/-- What was readable is readable once a sound sector is written back. -/
theorem State.readable_writeBack {s : State} {x : Sector} (hd : x.dirty = true) (hp : x.poisoned = false) {ps : List Nat}
    (h : s.readable ps) : (s.writeBack x).readable ps := by
  obtain ⟨l, hl⟩ := s.writeBack_sound hd hp
  intro p hmem
  obtain ⟨hcopy, hlink, hpoison⟩ := h p hmem
  rw [hl]
  refine ⟨hcopy, hlink, Bool.or_eq_false_iff.mpr ⟨decide_eq_false (not_not.mpr ?_), (Bool.or_eq_false_iff.mp hpoison).2⟩⟩
  exact SMap.get_set_clean s.poison x.home (p / 128) (State.poisonAt_clean hpoison)

/-- A dirty copy of another frame is written back before its place is filled (R104, R140). -/
theorem State.fill_dirty {s : State} {k b va pa : Nat} {x : Sector} (hheld : (s.bank k b).holds va pa = false)
    (hfind : (s.bank k b).sectors.find? (fun e => decide (e.1 = va / 128)) = some (va / 128, x)) (hd : x.dirty = true)
    (hp : x.poisoned = false) (hcopy : ∀ e ∈ (s.bank k b).sectors, e.1 = va / 128 → s.copying (128 * e.2.home) = false)
    (hread : s.readable ((List.range 128).map (pa / 128 * 128 + ·))) :
    ∃ u, s.fill k b va pa = .ok u ∧ u.mem = s.mem.writeBytes (128 * x.home) (leBytes 128 x.data.toNat) ∧
      FreshSector u.mem (u.sector k b (va / 128)) pa := by
  have hwaits : s.evictWaits k b va = false := by
    rw [State.evictWaits, List.any_eq_false]
    intro e he
    by_cases hkey : e.1 = va / 128
    · simp [hcopy e he hkey]
    · simp [hkey]
  have hevict : s.evict k b va = (s.writeBack x).setBank k b { s.bank k b with sectors := SMap.del (s.bank k b).sectors (va / 128) } := by
    simp only [State.evict, hfind]
  refine ⟨_, State.fill_readable hheld hwaits ?_, ?_, ?_⟩
  · rw [hevict]
    exact State.readable_writeBack hd hp hread
  · obtain ⟨l, hl⟩ := s.writeBack_sound hd hp
    rw [hevict, hl]
    rfl
  · rw [State.sector_setSector]
    exact freshSector _ _

/-! ## Accesses through a window and past it -/

/-- A word no store of its core has published is seen by no load of it. -/
theorem State.shownByte_apart {s : State} {n pa : Nat} (h : s.shownApart n pa) : s.shownByte n pa = none := by
  refine List.findSome?_eq_none_iff.mpr fun a ha => ?_
  split
  · next hshown =>
    rw [Option.map_eq_none_iff, List.find?_eq_none]
    intro e he hpa
    obtain ⟨p, -, hp⟩ := List.mem_flatMap.mp he
    have hmem := List.of_mem_zip (List.mem_of_mem_drop (List.mem_of_mem_take hp))
    exact h a (List.mem_reverse.mp ha) hshown e.1 hmem.1 (by rw [of_decide_eq_true hpa])
  · rfl

section access
variable {s : State} {n k b va pa : Nat} (hwin : s.findWindow n va = some (k, b))
include hwin

theorem State.loadByte_window {u : State} (hfill : s.fill k b va pa = .ok u) (hp : (u.sector k b (va / 128)).poisoned = false) :
    s.loadByte (some n) 0#2 va pa = .ok (u, (s.shownByte n pa).getD (sectorByte (u.sector k b (va / 128)).data (va % 128))) := by
  unfold State.sector at hp
  unfold State.loadByte State.sector
  rw [if_pos rfl, Option.bind_some, hwin]
  dsimp only
  rw [hfill]
  dsimp only [Option.bind_some]
  cases s.shownByte n pa with
  | none => exact if_neg (by rw [hp]; exact Bool.false_ne_true)
  | some v => rfl

theorem State.storeByte_window {u : State} (v : Byte) (hapart : s.shownApart n pa) (hfill : s.fill k b va pa = .ok u) :
    s.storeByte (some n) 0#2 va pa v false false = .ok (u.putWindow k b va pa v true false) := by
  unfold State.storeByte State.settleFor
  rw [if_pos rfl, Option.bind_some, hwin]
  dsimp only
  rw [State.settleShown_apart hapart, hfill]

/-- A store at the home brings the copy a window holds up to date, which stays as clean or dirty as it was. -/
theorem State.storeByte_past {pol : BitVec 2} (v : Byte) (hpol : pol ≠ 0#2) (hcopy : s.copying pa = false) (hlink : s.linkFault pa = none)
    (hapart : s.shownApart n pa) :
    ∃ t, s.storeByte (some n) pol va pa v false false = .ok t ∧ t.mem = s.mem.write pa v ∧
      ((s.bank k b).holds va pa = true → (t.sector k b (va / 128)).dirty = (s.sector k b (va / 128)).dirty ∧
        sectorByte (t.sector k b (va / 128)).data (va % 128) = v) := by
  obtain ⟨u, hu⟩ : ∃ u, s.homeWrite pol va pa v false = .ok u := by
    rw [State.homeWrite, State.blocked_none hcopy hlink]
    exact ⟨_, rfl⟩
  obtain ⟨hmem, hrest⟩ := State.homeWrite_part hu
  have hcores : u.cores = s.cores := by rw [← hrest]
  have hbank : u.bank k b = s.bank k b := by rw [State.bank, State.core, hcores]; rfl
  have hstore : s.storeByte (some n) pol va pa v false false = .ok (u.alsoWindow (some n) va pa v false) := by
    unfold State.storeByte State.settleFor
    rw [if_neg hpol]
    dsimp only
    rw [State.settleShown_apart hapart, hu]
  have halso : u.alsoWindow (some n) va pa v false =
      if (s.bank k b).holds va pa then u.putWindow k b va pa v false false else u := by
    simp only [State.alsoWindow, Option.bind_some, State.findWindow_congr hcores, hwin, hbank]
  refine ⟨_, hstore, (State.mem_alsoWindow ..).trans hmem, fun hheld => ?_⟩
  rw [halso, if_pos hheld]
  refine ⟨?_, ?_⟩
  · rw [State.dirty_putWindow, Bool.or_false, State.sector, hbank, State.sector]
  · rw [State.sectorByte_putWindow _ _ _ _ _ _ _ _ (Nat.mod_lt _ (by decide)), if_pos rfl]

end access

/-- Past the windows a load takes what its core has published, or the byte at its home. -/
theorem State.loadByte_past (s : State) (n va pa : Nat) {pol : BitVec 2} (hpol : pol ≠ 0#2) (hcopy : s.copying pa = false)
    (hlink : s.linkFault pa = none) :
    (∀ w, s.shownByte n pa = some w → s.loadByte (some n) pol va pa = .ok (s, w)) ∧
    (s.shownApart n pa → s.poisoned pa = false → s.loadByte (some n) pol va pa = .ok (s, s.mem.read pa)) := by
  unfold State.loadByte State.homeSeen
  rw [if_neg hpol, Option.bind_some]
  dsimp only
  refine ⟨fun w hw => by rw [hw], fun hapart hpoison => ?_⟩
  rw [State.shownByte_apart hapart]
  dsimp only
  rw [State.homeRead, State.blocked_none hcopy hlink]
  dsimp only
  rw [if_neg (by rw [hpoison]; exact Bool.false_ne_true)]

/-- Settles O21, by what a fill leaves in the bank and what a write of one byte changes in a sector. -/
theorem windowBytes : Obligations.WindowBytes := by
  unfold Obligations.WindowBytes
  intro s n k b va pa v hwin sectors held home elsewhere apart fresh
  have only {t : State} (h : SectorOnly s t k b (va / 128)) : elsewhere t := ⟨h.mem, h.poison, h.full, h.sectors, h.banks⟩
  have new {m : Memory} {u : State} (h : FreshSector m (u.sector k b (va / 128)) pa) : fresh m u := ⟨h.home, h.clean, h.sound, h.bytes⟩
  refine ⟨fun u hhome hfill hsound => ?_, State.fill_held, fun hread => ⟨fun habsent => ?_, fun x hheld hfind hd hp hcopy => ?_⟩,
    fun pol hpol hcopy hlink => ?_⟩
  · have hu := State.fill_sectorOnly hhome hfill
    refine ⟨only hu, State.loadByte_window hwin hfill hsound, fun hapart => ⟨_, State.storeByte_window hwin v hapart hfill, ?_⟩⟩
    exact ⟨only (hu.trans (u.putWindow_sectorOnly ..)), (u.dirty_putWindow ..).trans (Bool.or_true _),
      fun i hi => u.sectorByte_putWindow _ _ _ _ _ _ _ hi⟩
  · refine ⟨_, State.fill_readable (Bank.holds_of_absent habsent) (State.evictWaits_absent habsent) ?_, new ?_⟩
    · rw [State.evict_absent habsent]
      exact hread
    · rw [State.sector_setSector, State.evict_absent habsent]
      exact freshSector _ _
  · obtain ⟨u, hfill, hmem, hfresh⟩ := State.fill_dirty hheld hfind hd hp hcopy hread
    exact ⟨u, hfill, hmem, new hfresh⟩
  · obtain ⟨hseen, hload⟩ := s.loadByte_past n va pa hpol hcopy hlink
    exact ⟨hseen, fun hapart => ⟨hload hapart, State.storeByte_past hwin v hpol hcopy hlink hapart⟩⟩

end Sys2Proof.Machine
end

section
/-! PROOFS. UNMAP while an access of a core uses the entry it removes, where the list of cores names that core's number twice. -/

namespace Sys2Proof.Machine

/-- A load outstanding, made with the entry of the page at 0. -/
def loadAtZero : Access :=
  { id := 3, kind := .load false, va := 0, pas := [0], pol := 0, dst := 1, val := 0, cmp := 0, waits := [], takes := [], left := [(0, 1)], got := 0
    shown := false, inLdc := true, inStc := false, deferred := false, refused := false, soff := 0, opc := 0 }

/-- UNMAP of the page at 0 stands in window 0; number 0 is listed for an idle core, the one a reading of the list finds, and for a
running one with the load outstanding. -/
def twoCoresZero : State :=
  { ctxs := [(0, { pages := [⟨0, 0, 16, 3#16⟩] })]
    wins := [(0, { code := 4, args := [(1, 0x10000#64)] })]
    cores := [(0, {}), (0, { run := .running, accs := [loadAtZero] })] }

theorem twoCoresZero_rings : twoCoresZero.rings 0 5 where
  known := by decide
  free := by decide
  new _ := by decide
  flags := by decide
  port h := absurd h (by decide)
  link _ := rfl

/-- The load uses the entry. -/
theorem twoCoresZero_used : ¬twoCoresZero.noUsers 0 (twoCoresZero.touched 0 0 0x10000) := by
  unfold State.noUsers
  decide

/-- The core that the command looks at is idle, so the command completes at once. -/
theorem twoCoresZero_completes : ∃ t, exec (.unmap 0 5) twoCoresZero = .next t ∧ (t.ctx 0).inFlight = none :=
  ⟨_, rfl, by decide +kernel⟩

/-- Refutes O52, in the clause of an UNMAP whose entry is in use: the users of an entry are the accesses of every core the list of
cores holds, but whether one has finished is asked of the core found under its number, and the statement takes any list of cores, one
with a number twice too. -/
theorem not_mappingsChange : ¬ Obligations.MappingsChange := by
  unfold Obligations.MappingsChange
  intro h
  obtain ⟨-, hunmap⟩ := h.1 twoCoresZero 0 5 twoCoresZero_rings (by decide)
  obtain ⟨t, f, hexec, -, -, hflight, -⟩ := hunmap.2.1 ⟨by decide, by decide⟩ (.inr (by decide)) twoCoresZero_used
  obtain ⟨u, hexec', hnone⟩ := twoCoresZero_completes
  cases hexec.symm.trans hexec'
  rw [hnone] at hflight
  cases hflight

end Sys2Proof.Machine
end

section
/-! PROOFS. Links, soft errors, temperature and the walker (R101, R362, R407–R410, R420). -/

set_option Elab.async false

namespace Sys2Proof.Machine

/-! ## Records in the contexts (R366, R409) -/

@[simp] theorem FaultRec.placed_fatal (r : FaultRec) : r.placed.fatal = r.fatal := by
  unfold FaultRec.placed
  split <;> rfl

@[simp] theorem FaultRec.placed_cause (r : FaultRec) : r.placed.cause = r.cause := by
  unfold FaultRec.placed
  split <;> rfl

/-- A record that is not fatal is added to its context's, and nothing else happens. -/
theorem State.report_of_not_fatal (s : State) (k : Nat) {r : FaultRec} (h : r.fatal = false) :
    s.report k r = s.updCtx k fun x => { x with pending := x.pending ++ [r.placed] } := by
  unfold State.report
  simp [h]

/-- A context has got one more record, of a cause and not fatal. -/
def State.Notified (s t : State) (cause k : Nat) : Prop :=
  ∃ r, (t.ctx k).pending = (s.ctx k).pending ++ [r] ∧ r.cause = cause ∧ r.fatal = false

/-- Reporting to each context of a list: each gets its record, no other changes, and nothing but contexts does. -/
theorem State.foldl_report (g : State → Nat → FaultRec) {cause : Nat} (hg : ∀ s k, (g s k).fatal = false ∧ (g s k).cause = cause)
    (s : State) (l : List Nat) (hl : l.Nodup) :
    let t := l.foldl (fun s k => s.report k (g s k)) s
    { t with ctxs := s.ctxs } = s ∧ (∀ k, k ∉ l → t.ctx k = s.ctx k) ∧ ∀ k ∈ l, s.Notified t cause k := by
  induction l generalizing s with
  | nil => exact ⟨rfl, fun _ _ => rfl, fun k hk => absurd hk List.not_mem_nil⟩
  | cons j l ih =>
    obtain ⟨hj, hl⟩ := List.nodup_cons.mp hl
    obtain ⟨hfatal, hcause⟩ := hg s j
    rw [List.foldl_cons, State.report_of_not_fatal s j hfatal]
    obtain ⟨hrest, hother, hin⟩ := ih (s.updCtx j fun x => { x with pending := x.pending ++ [(g s j).placed] }) hl
    refine ⟨?_, fun k hk => ?_, fun k hk => ?_⟩
    · exact congrArg (fun u : State => { u with ctxs := s.ctxs }) hrest
    · obtain ⟨hkj, hkl⟩ := not_or.mp (mt List.mem_cons.mpr hk)
      rw [hother k hkl, State.ctx_updCtx_other _ _ _ _ hkj]
    · obtain rfl | hkl := List.mem_cons.mp hk
      · refine ⟨(g s k).placed, ?_, by rw [FaultRec.placed_cause, hcause], by rw [FaultRec.placed_fatal, hfatal]⟩
        rw [hother k hj, State.ctx_updCtx_same]
      · obtain ⟨r, hr, hrest'⟩ := hin k hkl
        have hkj : k ≠ j := fun h => hj (h ▸ hkl)
        exact ⟨r, by rw [hr, State.ctx_updCtx_other _ _ _ _ hkj], hrest'⟩

/-- A reported record goes to every resident context, and nothing but contexts changes. -/
theorem State.reportAll_spec (s : State) (kind loc cls sub : Nat) :
    let t := s.reportAll kind loc cls sub
    { t with ctxs := s.ctxs } = s ∧ ∀ k < 4, s.Notified t (causeWord false cls (256 * sub)) k := by
  obtain ⟨hrest, -, hin⟩ := State.foldl_report (fun s k => ⟨s.gtc, agentWord kind loc 0, 0x3FFF, k, false, false, none,
    causeWord false cls (256 * sub), 0, 0xFFFFFFFF, 0, 0, 0, 0⟩) (fun _ _ => ⟨rfl, rfl⟩) s (List.range 4) List.nodup_range
  exact ⟨hrest, fun k hk => hin k (List.mem_range.mpr hk)⟩

section
variable (s : State) (kind loc cls sub : Nat)

@[simp] theorem State.reportAll_mem : (s.reportAll kind loc cls sub).mem = s.mem := by
  have h := congrArg State.mem (State.reportAll_spec s kind loc cls sub).1
  exact h

@[simp] theorem State.reportAll_cores : (s.reportAll kind loc cls sub).cores = s.cores := by
  have h := congrArg State.cores (State.reportAll_spec s kind loc cls sub).1
  exact h

@[simp] theorem State.reportAll_channels : (s.reportAll kind loc cls sub).channels = s.channels := by
  have h := congrArg State.channels (State.reportAll_spec s kind loc cls sub).1
  exact h

@[simp] theorem State.reportAll_corrected : (s.reportAll kind loc cls sub).corrected = s.corrected := by
  have h := congrArg State.corrected (State.reportAll_spec s kind loc cls sub).1
  exact h

@[simp] theorem State.reportAll_hostDown : (s.reportAll kind loc cls sub).hostDown = s.hostDown := by
  have h := congrArg State.hostDown (State.reportAll_spec s kind loc cls sub).1
  exact h

theorem State.notified_reportAll {k : Nat} (hk : k < 4) :
    s.Notified (s.reportAll kind loc cls sub) (causeWord false cls (256 * sub)) k :=
  (State.reportAll_spec s kind loc cls sub).2 k hk

end

/-! ## Held events reach the host (R358) -/

/-- Writing held events touches only windows and the lists of held events: every context's records stay. -/
theorem State.deliverEvents_spec (s : State) (k f : Nat) :
    let t := s.deliverEvents k f
    { t with ctxs := s.ctxs, wins := s.wins } = s ∧ ∀ j, (t.ctx j).pending = (s.ctx j).pending := by
  induction f generalizing s with
  | zero => exact ⟨rfl, fun _ => rfl⟩
  | succ f ih =>
    rw [State.deliverEvents]
    split
    · exact ⟨rfl, fun _ => rfl⟩
    · next e r he =>
      split
      · exact ⟨rfl, fun _ => rfl⟩
      · obtain ⟨hrest, hpend⟩ := ih (((s.setWin k { s.win k with
            events := SMap.put (s.win k).events ((s.win k).eprod.toNat % 60) e, eprod := (s.win k).eprod + 1 }).updCtx k
          fun x => { x with evHeld := r }))
        refine ⟨congrArg (fun u : State => { u with ctxs := s.ctxs, wins := s.wins }) hrest, fun j => (hpend j).trans ?_⟩
        by_cases hj : j = k
        · rw [hj, State.ctx_updCtx_same]; rfl
        · rw [State.ctx_updCtx_other _ _ _ _ hj]; rfl

theorem State.deliverAll_spec (s : State) :
    let t := s.deliverAll
    { t with ctxs := s.ctxs, wins := s.wins } = s ∧ ∀ j, (t.ctx j).pending = (s.ctx j).pending := by
  unfold State.deliverAll
  generalize List.range 4 = l
  induction l generalizing s with
  | nil => exact ⟨rfl, fun _ => rfl⟩
  | cons k l ih =>
    obtain ⟨hrest, hpend⟩ := State.deliverEvents_spec s k 60
    obtain ⟨hrest', hpend'⟩ := ih (s.deliverEvents k 60)
    rw [List.foldl_cons]
    exact ⟨(congrArg (fun u : State => { u with ctxs := s.ctxs, wins := s.wins }) hrest').trans hrest,
      fun j => (hpend' j).trans (hpend j)⟩

/-! ## Accesses that a lost link cuts off (R410) -/

theorem State.cutOff_eq_none {s : State} {n : Nat} (h : ∀ a ∈ (s.core n).accs, ∀ p ∈ a.pas, s.linkFault p = none) :
    s.cutOff n = none := by
  unfold State.cutOff
  refine List.findSome?_eq_none_iff.mpr fun a ha => ?_
  split
  · rfl
  · refine List.findSome?_eq_none_iff.mpr fun p hp => ?_
    rw [h a ha p hp]; rfl

/-- Where every access in flight still reaches its storage, nothing is cut off. -/
theorem State.cutAll_eq_self {s : State} {l : List Nat}
    (h : ∀ n ∈ l, ∀ a ∈ (s.core n).accs, ∀ p ∈ a.pas, s.linkFault p = none) : s.cutAll l = s := by
  induction l with
  | nil => rfl
  | cons n l ih =>
    rw [State.cutAll, State.cutOff_eq_none (h n List.mem_cons_self)]
    exact ih fun m hm => h m (List.mem_cons_of_mem _ hm)

/-! ## Corrected errors (R407–R409) -/

section
variable (s : State) (c : Nat)

/-- With a spare, the copy of a pseudo-channel begins. -/
theorem State.retire_of_spare (hcopy : (SMap.get {} s.channels c).copying = false) (hspare : SMap.get 0 s.spares (c / 512) < 2) :
    s.retire c = { s with
      channels := SMap.put s.channels c { SMap.get {} s.channels c with recent := [], copying := true }
      spares := SMap.put s.spares (c / 512) (SMap.get 0 s.spares (c / 512) + 1) } := by
  unfold State.retire
  simp [hcopy, hspare]

theorem State.retire_keeps : (s.retire c).mem = s.mem ∧ (s.retire c).cores = s.cores ∧ (s.retire c).corrected = s.corrected := by
  unfold State.retire
  extract_lets x stack
  split
  · exact ⟨rfl, rfl, rfl⟩
  · split
    · exact ⟨rfl, rfl, rfl⟩
    · simp

theorem State.countError_keeps :
    (s.countError c).mem = s.mem ∧ (s.countError c).cores = s.cores ∧ (s.countError c).corrected = s.corrected := by
  unfold State.countError
  extract_lets x recent s1
  split
  · exact State.retire_keeps s1 c
  · exact ⟨rfl, rfl, rfl⟩

end

/-- The 256th error within the span retires its pseudo-channel. -/
theorem State.countError_of_full (s : State) (c : Nat)
    (h : 255 ≤ ((SMap.get {} s.channels c).recent.filter fun t => decide ((s.gtc - t).toNat ≤ 2 ^ 30)).length) :
    ∃ recent, s.countError c =
      State.retire { s with channels := SMap.put s.channels c { SMap.get {} s.channels c with recent := recent } } c := by
  unfold State.countError
  extract_lets x recent s1
  have hfull : 256 ≤ recent.length := by
    simp only [recent, List.length_cons]
    exact Nat.succ_le_succ h
  exact ⟨recent, if_pos hfull⟩

/-- Where no context concerned is traced, no record of a corrected error is written. -/
theorem State.foldl_trace_untraced (s : State) (l : List Nat) (h : ∀ k ∈ l, s.untraced k) (t agent pc soff img d0 d1 : Nat) :
    l.foldl (fun s k => s.trace k t agent pc soff img d0 d1) s = s := by
  induction l with
  | nil => rfl
  | cons k l ih =>
    rw [List.foldl_cons, State.untraced.trace (h k List.mem_cons_self)]
    exact ih fun j hj => h j (List.mem_cons_of_mem _ hj)

/-- A corrected error of untraced contexts: it is counted, and one of memory also by its pseudo-channel. -/
theorem execCorrectedError_untraced {e : SoftError} {s : State} (hcode : softCode e.place ≠ none)
    (hu : ∀ k ∈ s.errorCtxs e, s.untraced k) :
    let s1 := { s with corrected := s.corrected + 1 }
    execCorrectedError e s = .next (if e.place = SoftPlace.hbm ∧ inHbm e.pa = true then s1.countError (channelCode e.pa) else s1) := by
  obtain ⟨code, hcode⟩ := Option.ne_none_iff_exists'.mp hcode
  unfold execCorrectedError
  rw [hcode]
  dsimp only
  rw [State.foldl_trace_untraced { s with corrected := s.corrected + 1 } _ hu]

end Sys2Proof.Machine
end

section
/-! PROOFS. What cancelling a core's work leaves of the records of its contexts (R365, R366). -/

set_option Elab.async false

namespace Sys2Proof.Machine

/-! ## Steps that change no context -/

section
variable (s : State) (n : Nat)

@[simp] theorem State.ctxs_keepHosts (pa k : Nat) : (s.keepHosts pa k).ctxs = s.ctxs := by
  induction k generalizing s pa with
  | zero => rfl
  | succ k ih =>
    rw [State.keepHosts, ih]
    unfold State.keepHost
    split <;> rfl

theorem State.ctxs_homeWrite {t : State} {pol : BitVec 2} {va pa : Nat} {v : Byte} {clears : Bool}
    (h : s.homeWrite pol va pa v clears = .ok t) : t.ctxs = s.ctxs := by
  obtain ⟨-, -, -, hr⟩ := State.homeWrite_cases h
  have hctxs := congrArg State.ctxs hr
  exact hctxs

theorem State.ctxs_storeBytes {t : State} {pol : BitVec 2} {va0 n0 va : Nat} {l : List (Nat × Byte)}
    (h : s.storeBytes none pol va0 n0 va l = .ok t) : t.ctxs = s.ctxs := by
  induction l generalizing s va with
  | nil => cases h; rfl
  | cons p r ih =>
    unfold State.storeBytes State.storeByte State.settleFor at h
    simp only [Option.bind_none, ite_self] at h
    split at h
    · cases h
    · next u hu =>
      split at hu
      · cases hu
      · next w hw =>
        cases hu
        exact (ih _ h).trans (State.ctxs_homeWrite _ hw)

theorem State.ctxs_devWrite {t : State} {k va : Nat} {bs : List Byte} (h : s.devWrite k va bs = some t) : t.ctxs = s.ctxs := by
  unfold State.devWrite at h
  split at h
  · cases h
  · split at h
    · cases h
    · next u hu =>
      cases h
      have hctxs : u.ctxs = s.ctxs := State.ctxs_storeBytes s.uncopied hu
      exact hctxs

@[simp] theorem State.ctxs_traceField (pa k v : Nat) : (s.traceField pa k v).ctxs = s.ctxs := State.ctxs_keepHosts s pa k

@[simp] theorem State.ctxs_traceLose (k : Nat) : (s.traceLose k).ctxs = s.ctxs := by
  unfold State.traceLose
  split
  · rfl
  · exact State.ctxs_traceField ..

@[simp] theorem State.ctxs_trace (k t agent pc soff img d0 d1 : Nat) : (s.trace k t agent pc soff img d0 d1).ctxs = s.ctxs := by
  unfold State.trace
  split
  · rfl
  · split
    · rfl
    · split
      · exact State.ctxs_traceLose ..
      · extract_lets bs
        split
        · exact State.ctxs_traceLose ..
        · next u hu => exact (State.ctxs_traceField ..).trans (State.ctxs_devWrite s hu)

@[simp] theorem State.ctxs_traceCore (t d0 d1 soff : Nat) : (s.traceCore n t d0 d1 soff).ctxs = s.ctxs := State.ctxs_trace ..

@[simp] theorem State.ctxs_traceStop (k : Nat) : (s.traceStop k).ctxs = s.ctxs := by
  unfold State.traceStop
  split
  · rfl
  · exact State.ctxs_traceField ..

theorem State.ctxs_diverge (found : Nat) : (s.diverge n found).ctxs = s.ctxs :=
  (State.ctxs_traceCore ..).trans (State.ctxs_traceStop ..)

theorem State.ctxs_spill (l : List (Nat × (Word × Nat))) : (s.spill n l).ctxs = s.ctxs := by
  induction l generalizing s with
  | nil => rfl
  | cons p r ih => obtain ⟨i, key, cnt⟩ := p; rw [State.spill, ih, State.ctxs_traceCore]

theorem State.ctxs_flushMerges (l : List (Nat × ElemState)) : (s.flushMerges n l).ctxs = s.ctxs := by
  induction l generalizing s with
  | nil => rfl
  | cons p r ih =>
    obtain ⟨site, x⟩ := p
    rw [State.flushMerges, ih]
    split
    · exact State.ctxs_trace ..
    · rfl

theorem State.ctxs_writeChans : (s.writeChans n).ctxs = s.ctxs := by
  refine List.foldlRecOn (motive := fun t : State => t.ctxs = s.ctxs) _ _ rfl fun t ht i _ => ?_
  split
  · next w hw => exact (State.ctxs_devWrite t hw).trans ht
  · exact (State.ctxs_traceLose ..).trans ht

theorem State.ctxs_writeBack (x : Sector) : (s.writeBack x).ctxs = s.ctxs := by
  unfold State.writeBack
  split
  · exact State.ctxs_keepHosts ..
  · rfl

theorem State.ctxs_writeBackList (l : List (Nat × Sector)) : (s.writeBackList l).ctxs = s.ctxs := by
  induction l generalizing s with
  | nil => rfl
  | cons p r ih => obtain ⟨i, x⟩ := p; rw [State.writeBackList, ih, State.ctxs_writeBack]

theorem State.ctxs_flushBanks (l : List Nat) : (s.flushBanks n l).ctxs = s.ctxs := by
  induction l generalizing s with
  | nil => rfl
  | cons b r ih => exact (ih _).trans (State.ctxs_writeBackList ..)

theorem State.ctxs_vacate : (s.vacate n).ctxs = s.ctxs := rfl

theorem State.ctxs_finishCmd (id : Nat) : (s.finishCmd id).ctxs = s.ctxs := by
  unfold State.finishCmd
  split
  · rfl
  · extract_lets rest rest' s' last
    split <;> rfl

theorem State.ctxs_finishCmds (l : List Nat) : (s.finishCmds l).ctxs = s.ctxs := by
  induction l generalizing s with
  | nil => rfl
  | cons i r ih => rw [State.finishCmds, ih, State.ctxs_finishCmd]

theorem State.ctxs_freeNodes (l : List (Nat × Nat)) : (s.freeNodes l).ctxs = s.ctxs := by
  induction l generalizing s with
  | nil => rfl
  | cons p r ih => exact ih _

theorem State.ctxs_sendSucc (d : Nat) (x : NodeEntry) (err : Bool) (cause : Nat) : (s.sendSucc d x err cause).ctxs = s.ctxs := by
  unfold State.sendSucc
  split <;> rfl

theorem State.ctxs_fillWord {t : State} {va pa : Nat} {v : Word} (h : s.fillWord va pa v = .ok t) : t.ctxs = s.ctxs := by
  unfold State.fillWord at h
  split at h
  · cases h
  · split at h <;> cases h
    exact State.ctxs_keepHosts ..

theorem State.ctxs_fillNow {t : State} {va pa : Nat} {v : Word} (h : s.fillNow va pa v = .ok t) : t.ctxs = s.ctxs := by
  unfold State.fillNow at h
  cases hu : s.uncopied.fillWord va pa v with
  | error f => rw [hu] at h; cases h
  | ok u =>
    rw [hu] at h
    cases h
    have hctxs : u.ctxs = s.ctxs := State.ctxs_fillWord s.uncopied hu
    exact hctxs

end

/-! ## Records stay until they are written -/

/-- Every record that waits in a context still waits there. -/
structure State.KeepsRecords (s t : State) : Prop where
  kept : ∀ k, ∀ r ∈ (s.ctx k).pending, r ∈ (t.ctx k).pending

theorem State.KeepsRecords.refl (s : State) : s.KeepsRecords s := ⟨fun _ _ hr => hr⟩

theorem State.KeepsRecords.trans {s t u : State} (h : s.KeepsRecords t) (h' : t.KeepsRecords u) : s.KeepsRecords u :=
  ⟨fun k r hr => h'.kept k r (h.kept k r hr)⟩

theorem State.KeepsRecords.of_pending {s t : State} (h : ∀ k, (t.ctx k).pending = (s.ctx k).pending) : s.KeepsRecords t :=
  ⟨fun k r hr => by rwa [h k]⟩

theorem State.KeepsRecords.of_ctxs {s t : State} (h : t.ctxs = s.ctxs) : s.KeepsRecords t :=
  .of_pending fun k => by rw [State.ctx, h]; rfl

section
variable (s : State)

theorem State.keepsRecords_updCtx (k : Nat) {f : Context → Context} (h : ∀ c, ∀ r ∈ c.pending, r ∈ (f c).pending) :
    s.KeepsRecords (s.updCtx k f) := by
  refine ⟨fun j r hr => ?_⟩
  by_cases hj : j = k
  · subst hj
    rw [State.ctx_updCtx_same]
    exact h _ r hr
  · rwa [State.ctx_updCtx_other _ _ _ _ hj]

/-- A report adds its record and keeps those that wait. -/
theorem State.keepsRecords_report (k : Nat) (r : FaultRec) : s.KeepsRecords (s.report k r) := by
  unfold State.report
  extract_lets r' s1
  have h1 : s1.ctxs = s.ctxs := by
    unfold s1
    split
    · rw [State.ctxs_traceStop, State.ctxs_trace]
    · rfl
  exact (State.KeepsRecords.of_ctxs h1).trans (State.keepsRecords_updCtx s1 k fun c r hr => List.mem_append_left _ hr)

theorem State.mem_pending_report (k : Nat) (r : FaultRec) : r.placed ∈ ((s.report k r).ctx k).pending := by
  unfold State.report
  rw [State.ctx_updCtx_same]
  exact List.mem_append_right _ List.mem_cons_self

theorem State.keepsRecords_consumeLog (k n : Nat) : s.KeepsRecords (s.consumeLog k n) := by
  unfold State.consumeLog
  split
  · exact State.KeepsRecords.refl s
  · refine (State.keepsRecords_updCtx s k ?_).trans (State.KeepsRecords.of_ctxs (State.ctxs_traceField ..))
    exact fun c r hr => hr

/-- The end of a load writes traces, and takes a log entry in replay. -/
theorem State.keepsRecords_endLoad (n : Nat) : s.KeepsRecords (s.endLoad n) := by
  unfold State.endLoad
  extract_lets k s1 s2 s3 sum s4 s5
  have h1 : s1.ctxs = s.ctxs := by
    unfold s1; split
    · exact State.ctxs_flushMerges ..
    · rfl
  have h2 : s2.ctxs = s1.ctxs := State.ctxs_spill ..
  have h3 : s3.ctxs = s2.ctxs := by
    unfold s3; split
    · exact State.ctxs_writeChans ..
    · rfl
  have h4 : s4.ctxs = s3.ctxs := State.ctxs_traceCore ..
  have h5 : s4.KeepsRecords s5 := by
    unfold s5; split
    · split
      · exact State.KeepsRecords.refl s4
      · extract_lets want s6
        have h6 : s4.KeepsRecords s6 := State.keepsRecords_consumeLog ..
        split
        · exact h6
        · exact h6.trans (State.KeepsRecords.of_ctxs (State.ctxs_diverge ..))
    · exact State.KeepsRecords.refl s4
  have h6 : s.KeepsRecords s5 := (State.KeepsRecords.of_ctxs (h4.trans (h3.trans (h2.trans h1)))).trans h5
  exact h6.trans (State.KeepsRecords.of_ctxs (State.updCore_ctxs ..))

theorem State.keepsRecords_leaveCore (n : Nat) : s.KeepsRecords (s.leaveCore n) :=
  (State.KeepsRecords.of_ctxs (State.ctxs_flushBanks s n (List.range 16))).trans
    ((State.keepsRecords_endLoad (s.flushCore n) n).trans (State.KeepsRecords.of_ctxs (State.ctxs_vacate ..)))

theorem State.keepsRecords_leaveCores (l : List Nat) : s.KeepsRecords (s.leaveCores l) := by
  induction l generalizing s with
  | nil => exact State.KeepsRecords.refl s
  | cons n r ih =>
    rw [State.leaveCores_cons]
    exact (State.keepsRecords_leaveCore s n).trans (ih _)

theorem State.keepsRecords_freeSlots (k : Nat) (l : List Nat) : s.KeepsRecords (s.freeSlots k l) := by
  induction l generalizing s with
  | nil => exact State.KeepsRecords.refl s
  | cons i r ih =>
    refine (State.keepsRecords_updCtx s k ?_).trans (ih _)
    exact fun c r hr => hr

/-! ## A graph completes (R325) -/

theorem State.keepsRecords_deliverEvents (k f : Nat) : s.KeepsRecords (s.deliverEvents k f) :=
  .of_pending (State.deliverEvents_spec s k f).2

theorem State.keepsRecords_postEvent (k : Nat) (e : BitVec 512) : s.KeepsRecords (s.postEvent k e) := by
  unfold State.postEvent
  split
  · exact State.KeepsRecords.refl s
  · refine (State.keepsRecords_updCtx s k ?_).trans (State.keepsRecords_deliverEvents ..)
    exact fun c r hr => hr

theorem State.keepsRecords_requestLaunch (die k image : Nat) (arg : Word) (gdone win : Option Nat) :
    s.KeepsRecords (s.requestLaunch die k image arg gdone win) := by
  unfold State.requestLaunch
  split
  · exact State.KeepsRecords.of_ctxs rfl
  · next f hf =>
    extract_lets s1
    have h1 : s.KeepsRecords s1 := State.keepsRecords_report ..
    split
    · split
      · exact h1
      · exact h1.trans (State.KeepsRecords.of_ctxs (State.ctxs_finishCmd ..))
    · exact h1.trans (State.keepsRecords_updCtx s1 k fun c r hr => hr)

theorem State.keepsRecords_requestAll (die k : Nat) (arg : Word) (l : List Nat) : s.KeepsRecords (s.requestAll die k arg l) := by
  induction l generalizing s with
  | nil => exact State.KeepsRecords.refl s
  | cons i r ih => exact (State.keepsRecords_requestLaunch ..).trans (ih _)

theorem State.keepsRecords_writeStatus (home : Nat) (l : LaunchEntry) : s.KeepsRecords (s.writeStatus home l) := by
  unfold State.writeStatus
  split
  · exact State.KeepsRecords.refl s
  · extract_lets w
    split
    · next u hu =>
      split at hu
      · cases hu
      · exact State.KeepsRecords.of_ctxs (State.ctxs_fillNow s hu)
    · exact State.keepsRecords_report ..

theorem State.keepsRecords_completeGraph (home e : Nat) (l : LaunchEntry) : s.KeepsRecords (s.completeGraph home e l) := by
  unfold State.completeGraph
  extract_lets s1 s2 s3 s4 s5
  have h1 : s.KeepsRecords s1 := State.keepsRecords_writeStatus ..
  have h2 : s1.KeepsRecords s2 := by
    unfold s2; split
    · exact State.keepsRecords_requestAll ..
    · exact State.KeepsRecords.refl s1
  have h3 : s2.KeepsRecords s3 := State.KeepsRecords.of_ctxs (State.ctxs_finishCmds ..)
  have h4 : s3.KeepsRecords s4 := State.keepsRecords_postEvent ..
  have h5 : s4.KeepsRecords s5 := State.KeepsRecords.of_ctxs (State.ctxs_freeNodes ..)
  exact h1.trans (h2.trans (h3.trans (h4.trans (h5.trans (State.keepsRecords_updCtx s5 l.ctx fun c r hr => hr)))))

theorem State.keepsRecords_checkGraph (home e : Nat) : s.KeepsRecords (s.checkGraph home e) := by
  unfold State.checkGraph
  split
  · exact State.KeepsRecords.refl s
  · split
    · exact State.keepsRecords_completeGraph ..
    · exact State.KeepsRecords.refl s

/-! ## A node or core is cancelled (R325, R365) -/

theorem State.keepsRecords_cancelNode (d e cause : Nat) : s.KeepsRecords (s.cancelNode d e cause) := by
  unfold State.cancelNode
  split
  · exact State.KeepsRecords.refl s
  · next n hn =>
    split
    · exact State.KeepsRecords.refl s
    · extract_lets s1 s2 s3 s4 s5 s6
      have h1 : s.KeepsRecords s1 := by
        unfold s1; split
        · exact State.keepsRecords_leaveCores ..
        · exact State.KeepsRecords.refl s
      have h2 : s1.KeepsRecords s2 := State.KeepsRecords.of_ctxs rfl
      have h3 : s2.KeepsRecords s3 := State.keepsRecords_freeSlots ..
      have h5 : s5.ctxs = s4.ctxs := by
        unfold s5; split <;> rfl
      have h6 : s6.ctxs = s5.ctxs := State.ctxs_trace ..
      have h7 : (s6.sendSucc d n true cause).ctxs = s3.ctxs := (State.ctxs_sendSucc ..).trans (h6.trans h5)
      exact h1.trans (h2.trans (h3.trans ((State.KeepsRecords.of_ctxs h7).trans (State.keepsRecords_checkGraph ..))))

theorem State.keepsRecords_cancelCore (n cause : Nat) : s.KeepsRecords (s.cancelCore n cause) := by
  unfold State.cancelCore
  split
  · exact State.keepsRecords_cancelNode ..
  · exact State.keepsRecords_leaveCore ..

end

/-- A fatal fault of a core leaves its record in the core's context, whatever is then cancelled. -/
theorem State.mem_pending_coreFault (s : State) (n kind unit cls code : Nat) (addr : Option Nat) (soff opc restart : Nat) :
    (s.coreRec n kind unit cls code .fatal addr soff opc restart).placed ∈
      ((s.coreFault n kind unit cls code .fatal addr soff opc restart).ctx (s.core n).ctx).pending := by
  rw [State.coreFault, if_pos rfl]
  exact (State.keepsRecords_cancelCore _ n 1).kept _ _ (State.mem_pending_report ..)

end Sys2Proof.Machine
end

section
/-! PROOFS. Links, soft errors, temperature and the walker: each event, and the statement of them together. -/

set_option Elab.async false

namespace Sys2Proof

theorem SMap.get_set {α : Type} [DecidableEq α] (d : α) (m : SMap α) (i j : Nat) (v : α) :
    SMap.get d (SMap.set d m i v) j = if j = i then v else SMap.get d m j := by
  split
  · next h => rw [h, SMap.get_set_same]
  · next h => exact SMap.get_set_other d m v h

theorem SMap.get_put {α : Type} (d : α) (m : SMap α) (i j : Nat) (v : α) :
    SMap.get d (SMap.put m i v) j = if j = i then v else SMap.get d m j := by
  split
  · next h => rw [h, SMap.get_put_same]
  · next h => exact SMap.get_put_other d m v h

end Sys2Proof

namespace Sys2Proof.Machine

/-! ## Links and the tier behind them (R101, R410) -/

section
variable (s : State)

theorem exec_hostLinkDown_reached (hup : s.hostDown = false)
    (h : ∀ n < 64, ∀ a ∈ (s.core n).accs, ∀ p ∈ a.pas, State.linkFault { s with hostDown := true } p = none) :
    exec .hostLinkDown s = .next { s with hostDown := true } := by
  change Host.Outcome.next _ = _
  rw [if_neg (by simp [hup]), State.cutAll_eq_self fun n hn => h n (List.mem_range.mp hn)]

/-- The host's link returns: held events are written, then every context gets its record. -/
theorem exec_hostLinkUp_down (hdown : s.hostDown = true) :
    ∃ t, exec .hostLinkUp s = .next t ∧ t.hostDown = false ∧ t.mem = s.mem ∧ t.cores = s.cores ∧
      ∀ k < 4, s.Notified t 0xF0400 k := by
  obtain ⟨hrest, hpend⟩ := State.deliverAll_spec { s with hostDown := false }
  generalize hu : State.deliverAll { s with hostDown := false } = u at hrest hpend
  have hstep : exec .hostLinkUp s = .next (u.reportAll 12 4 0xF 4) := by
    rw [← hu]
    exact congrArg Host.Outcome.next (if_pos hdown)
  have hhost : u.hostDown = false := by
    have h := congrArg State.hostDown hrest
    exact h
  have hmem : u.mem = s.mem := by
    have h := congrArg State.mem hrest
    exact h
  have hcores : u.cores = s.cores := by
    have h := congrArg State.cores hrest
    exact h
  refine ⟨_, hstep, by simp [hhost], by simp [hmem], by simp [hcores], fun k hk => ?_⟩
  obtain ⟨r, hr, hcause⟩ := State.notified_reportAll u 12 4 0xF 4 hk
  exact ⟨r, by rw [hr, hpend k]; rfl, hcause⟩

theorem exec_memoryPortLinkDown_reached {p : Nat} (hp : p < 4) (hup : (s.memPort p).down = false)
    (hlost : (s.memPort p).lost = false)
    (h : ∀ n < 64, ∀ a ∈ (s.core n).accs, ∀ pa ∈ a.pas, State.linkFault
      { s with memPorts := SMap.put s.memPorts p { s.memPort p with down := true, retrains := 0 } } pa = none) :
    exec (.memoryPortLinkDown p) s =
      .next { s with memPorts := SMap.put s.memPorts p { s.memPort p with down := true, retrains := 0 } } := by
  change Host.Outcome.next _ = _
  have hnot : ¬(4 ≤ p ∨ (s.memPort p).down = true ∨ (s.memPort p).lost = true) := by
    simp [hup, hlost, Nat.not_le.mpr hp]
  rw [if_neg hnot, State.cutAll_eq_self fun n hn => h n (List.mem_range.mp hn)]

theorem exec_memoryPortLinkUp_down {p : Nat} (hdown : (s.memPort p).down = true) :
    exec (.memoryPortLinkUp p) s = .next { s with memPorts := SMap.put s.memPorts p { s.memPort p with down := false } } :=
  congrArg Host.Outcome.next (if_pos hdown)

theorem exec_expanderLost_down {p : Nat} (hdown : (s.memPort p).down = true) :
    exec (.expanderLost p) s = .next { s with memPorts := SMap.put s.memPorts p ⟨false, 3, true⟩ } :=
  congrArg Host.Outcome.next (if_pos hdown)

/-! ## Poison -/

/-- A step poisons the sector of an address, and no other, and moves no byte. -/
def State.Poisons (i : Instr) (pa : Nat) (kind : Poison) : Prop :=
  ∃ t, exec i s = .next t ∧ t.mem = s.mem ∧ t.cores = s.cores ∧
    ∀ a, SMap.get .clean t.poison a = if a = pa / 128 then kind else SMap.get .clean s.poison a

variable {s} in
theorem State.Poisons.of_set {i : Instr} {t : State} {pa : Nat} {kind : Poison} (hstep : exec i s = .next t)
    (hmem : t.mem = s.mem) (hcores : t.cores = s.cores) (hpoison : t.poison = SMap.set .clean s.poison (pa / 128) kind) :
    s.Poisons i pa kind :=
  ⟨t, hstep, hmem, hcores, fun a => by rw [hpoison, SMap.get_set]⟩

theorem State.poisons_expanderPoison {pa : Nat} (h : inCxl pa = true) : s.Poisons (.expanderPoison pa) pa .expander :=
  .of_set (congrArg Host.Outcome.next (if_pos h)) rfl rfl rfl

/-! ## The host's snoop (R101) -/

/-- A byte after a store of a list, cut at the end of its line. -/
theorem Memory.read_writeBytes_line (m : Memory) (pa a : Nat) (bs : List Byte) :
    (m.writeBytes pa (bs.take (128 - pa % 128))).read a =
      if pa ≤ a ∧ a / 128 = pa / 128 then bs.getD (a - pa) (m.read a) else m.read a := by
  by_cases hline : pa ≤ a ∧ a / 128 = pa / 128
  · rw [if_pos hline]
    obtain ⟨k, rfl⟩ := Nat.exists_eq_add_of_le hline.1
    rw [Nat.add_sub_cancel_left]
    by_cases hk : k < bs.length
    · rw [Memory.read_writeBytes_in _ _ _ _ (by simp; omega), List.getElem_take, List.getD_eq_getElem _ _ hk]
    · rw [Memory.read_writeBytes_other _ _ (by simp; omega), List.getD_eq_default _ _ (by omega)]
  · rw [if_neg hline, Memory.read_writeBytes_other _ _ (by simp; omega)]

theorem exec_cxlCacheSnoop_host {pa : Nat} (store : Option (List Byte)) (hup : s.hostDown = false) (hpa : inHost pa = true) :
    ∃ t, exec (.cxlCacheSnoop pa store) s = .next t ∧
      (∀ e, e ∈ t.hostOld ↔ e ∈ s.hostOld ∧ e.1 / 128 ≠ pa / 128) ∧
      (store = none → { t with hostOld := s.hostOld } = s) ∧
      (∀ bs, store = some bs → { t with hostOld := s.hostOld, mem := s.mem, poison := s.poison } = s ∧
        ∀ a, t.mem.read a = if pa ≤ a ∧ a / 128 = pa / 128 then bs.getD (a - pa) (s.mem.read a) else s.mem.read a) := by
  have hnot : ¬(s.hostDown = true ∨ (!inHost pa) = true) := by simp [hup, hpa]
  have hold : ∀ e, e ∈ s.hostOld.filter (fun e => decide (e.1 / 128 ≠ pa / 128)) ↔ e ∈ s.hostOld ∧ e.1 / 128 ≠ pa / 128 :=
    fun e => by rw [List.mem_filter, decide_eq_true_iff]
  refine ⟨_, congrArg Host.Outcome.next (if_neg hnot), ?_⟩
  cases store with
  | none => exact ⟨hold, fun _ => rfl, fun bs h => by cases h⟩
  | some bs =>
    refine ⟨hold, fun h => (by cases h), fun bs' h => ?_⟩
    cases h
    exact ⟨rfl, fun a => Memory.read_writeBytes_line s.mem pa a bs⟩

/-! ## Soft errors (R407–R409) -/

/-- A step begins the copy of a pseudo-channel to a spare. -/
def State.Copies (i : Instr) (c : Nat) : Prop :=
  ∃ t, exec i s = .next t ∧ (SMap.get {} t.channels c).copying = true ∧
    SMap.get 0 t.spares (c / 512) = SMap.get 0 s.spares (c / 512) + 1 ∧ t.mem = s.mem ∧ t.cores = s.cores

variable {s} in
/-- A step that retires a pseudo-channel of which a copy is not under way and for which a spare is left. -/
theorem State.Copies.of_retire {i : Instr} {c : Nat} {u : State} (hstep : exec i s = .next (u.retire c))
    (hcopy : (SMap.get {} u.channels c).copying = false) (hspares : u.spares = s.spares) (hspare : SMap.get 0 s.spares (c / 512) < 2)
    (hmem : u.mem = s.mem) (hcores : u.cores = s.cores) : s.Copies i c := by
  rw [State.retire_of_spare u c hcopy (by rw [hspares]; exact hspare)] at hstep
  refine ⟨_, hstep, ?_, ?_, hmem, hcores⟩
  · rw [SMap.get_put_same]
  · rw [SMap.get_put_same, hspares]

theorem exec_correctedError_untraced (e : SoftError) (hcode : softCode e.place ≠ none) (hu : ∀ k ∈ s.errorCtxs e, s.untraced k) :
    ∃ t, exec (.correctedError e) s = .next t ∧ t.corrected = s.corrected + 1 ∧ t.mem = s.mem ∧ t.cores = s.cores := by
  refine ⟨_, execCorrectedError_untraced hcode hu, ?_⟩
  split
  · obtain ⟨hmem, hcores, hcorrected⟩ := State.countError_keeps { s with corrected := s.corrected + 1 } (channelCode e.pa)
    exact ⟨hcorrected, hmem, hcores⟩
  · exact ⟨rfl, rfl, rfl⟩

theorem State.copies_correctedError (e : SoftError) (hplace : e.place = SoftPlace.hbm) (hpa : inHbm e.pa = true)
    (hu : ∀ k ∈ s.errorCtxs e, s.untraced k) (hcopy : (SMap.get {} s.channels (channelCode e.pa)).copying = false)
    (hspare : SMap.get 0 s.spares (channelCode e.pa / 512) < 2)
    (hfull : 255 ≤ ((SMap.get {} s.channels (channelCode e.pa)).recent.filter fun t => decide ((s.gtc - t).toNat ≤ 2 ^ 30)).length) :
    s.Copies (.correctedError e) (channelCode e.pa) := by
  have hstep : exec (.correctedError e) s = .next (State.countError { s with corrected := s.corrected + 1 } (channelCode e.pa)) := by
    refine (execCorrectedError_untraced (by rw [hplace]; decide) hu).trans ?_
    rw [if_pos ⟨hplace, hpa⟩]
  obtain ⟨recent, hcount⟩ := State.countError_of_full { s with corrected := s.corrected + 1 } (channelCode e.pa) hfull
  rw [hcount] at hstep
  exact .of_retire hstep (by rw [SMap.get_put_same]; exact hcopy) rfl hspare rfl rfl

theorem exec_uncorrectableError_hbm (e : SoftError) (hplace : e.place = SoftPlace.hbm) (hpa : inHbm e.pa = true) :
    exec (.uncorrectableError e) s =
      .next (State.retire { s with poison := SMap.set .clean s.poison (e.pa / 128) .soft } (channelCode e.pa)) := by
  change execUncorrectableError e s = _
  unfold execUncorrectableError
  simp only [hplace, if_pos hpa]

theorem State.poisons_uncorrectableError_hbm (e : SoftError) (hplace : e.place = SoftPlace.hbm) (hpa : inHbm e.pa = true)
    (hcopy : (SMap.get {} s.channels (channelCode e.pa)).copying = false)
    (hspare : SMap.get 0 s.spares (channelCode e.pa / 512) < 2) :
    s.Poisons (.uncorrectableError e) e.pa .soft := by
  have hstep := exec_uncorrectableError_hbm s e hplace hpa
  rw [State.retire_of_spare { s with poison := SMap.set .clean s.poison (e.pa / 128) .soft } _ hcopy hspare] at hstep
  exact .of_set hstep rfl rfl rfl

theorem State.poisons_uncorrectableError_l2 (e : SoftError) (hplace : e.place = SoftPlace.l2 true) (hpa : paExists e.pa = true) :
    s.Poisons (.uncorrectableError e) e.pa .soft := by
  have hstep : exec (.uncorrectableError e) s = .next { s with poison := SMap.set .clean s.poison (e.pa / 128) .soft } := by
    change execUncorrectableError e s = _
    unfold execUncorrectableError
    simp only [hplace, hpa, and_self, if_true]
  exact .of_set hstep rfl rfl rfl

theorem exec_uncorrectableError_clean (e : SoftError) (hplace : e.place = SoftPlace.l2 false ∨ e.place = SoftPlace.tlb) :
    exec (.uncorrectableError e) s = .next s := by
  change execUncorrectableError e s = _
  unfold execUncorrectableError
  obtain hplace | hplace := hplace <;> simp [hplace]

/-- A step faults a core: the core's context has a fatal record of class 0x0E. -/
def State.Faults (i : Instr) (n sub : Nat) : Prop :=
  ∃ t, exec i s = .next t ∧ ∃ r ∈ (t.ctx (s.core n).ctx).pending, r.fatal = true ∧ r.cause = causeWord (s.core n).hm 0xE (256 * sub)

variable {s} in
theorem State.Faults.of_coreFault {i : Instr} {n kind sub : Nat}
    (hstep : exec i s = .next (s.coreFault n kind 0 0xE (256 * sub) .fatal none 0xFFFFFFFF 0 0)) : s.Faults i n sub :=
  ⟨_, hstep, _, State.mem_pending_coreFault .., by rw [FaultRec.placed_fatal]; rfl, by rw [FaultRec.placed_cause]; rfl⟩

/-- An error in a running core's registers or channels faults the core. -/
theorem State.faults_uncorrectableError (e : SoftError) {n : Nat} (hrun : (s.core n).run ≠ .idle) :
    (e.place = SoftPlace.regs n → s.Faults (.uncorrectableError e) n 4) ∧
      (e.place = SoftPlace.channel n → s.Faults (.uncorrectableError e) n 5) := by
  refine ⟨fun hplace => .of_coreFault (kind := 0) ?_, fun hplace => .of_coreFault (kind := 1) ?_⟩ <;>
  · change execUncorrectableError e s = _
    unfold execUncorrectableError
    simp only [hplace, if_neg hrun]

/-- An error in an accumulator word marks the word, and that is all. -/
theorem exec_uncorrectableError_accum (e : SoftError) {n key : Nat} (hplace : e.place = SoftPlace.accum n key) :
    ∃ t, exec (.uncorrectableError e) s = .next t ∧ (∀ m, m ≠ n → t.core m = s.core m) ∧
      { t with cores := s.cores } = s ∧
      (∀ y, SMap.get false (t.core n).mx.bad y = if y = key then true else SMap.get false (s.core n).mx.bad y) ∧
      { t.core n with mx := (s.core n).mx } = s.core n := by
  have hstep : exec (.uncorrectableError e) s =
      .next (s.updCore n fun c => { c with mx := { c.mx with bad := SMap.set false c.mx.bad key true } }) := by
    change execUncorrectableError e s = _
    unfold execUncorrectableError
    simp only [hplace]
  refine ⟨_, hstep, fun m hm => State.core_updCore_other _ _ _ _ hm, rfl, fun y => ?_, ?_⟩
  · rw [State.core_updCore_same, SMap.get_set]
  · rw [State.core_updCore_same]

/-- The end of a copy is reported to every context. -/
theorem exec_channelRemapDone_copying {c : Nat} (hcopy : (SMap.get {} s.channels c).copying = true) :
    ∃ t, exec (.channelRemapDone c) s = .next t ∧ (SMap.get {} t.channels c).copying = false ∧
      (SMap.get {} t.channels c).remapped = true ∧ (∀ k < 4, s.Notified t 0xE0700 k) ∧ t.mem = s.mem ∧ t.cores = s.cores := by
  obtain ⟨u, hu⟩ : ∃ u, u = { s with
    channels := SMap.put s.channels c { (SMap.get {} s.channels c : Channel) with copying := false, remapped := true } } := ⟨_, rfl⟩
  have hstep : exec (.channelRemapDone c) s = .next (u.reportAll 11 (c / 512) 0xE 7) := by
    rw [hu]
    exact congrArg Host.Outcome.next (if_pos hcopy)
  refine ⟨_, hstep, ?_, ?_, fun k hk => ?_, by rw [State.reportAll_mem, hu], by rw [State.reportAll_cores, hu]⟩
  · rw [State.reportAll_channels, hu, SMap.get_put_same]
  · rw [State.reportAll_channels, hu, SMap.get_put_same]
  · have hn := State.notified_reportAll u 11 (c / 512) 0xE 7 hk
    rw [hu] at hn ⊢
    exact hn

/-! ## Temperature (R362) -/

theorem tooHot_iff (m : SMap Word) : tooHot m = true ↔ (∃ j < 5, 105 * 256 < (SMap.get 0#64 m (4 * j)).toInt) ∨
    3000 < ((List.range 5).map fun j => (SMap.get 0#64 m (4 * j + 3)).toNat).sum := by
  simp only [tooHot, Bool.or_eq_true, List.any_eq_true, List.mem_range, decide_eq_true_eq]

theorem exec_thermalThrottle_die {d : Nat} (temp : Word) (m : DieMonitors) (hd : d < 5) :
    ∃ t, exec (.thermalThrottle d temp m) s = .next t ∧
      (∀ i, SMap.get 0#64 t.monitors i = if i = 4 * d then temp else if i = 4 * d + 1 then m.supply
        else if i = 4 * d + 2 then m.osc else if i = 4 * d + 3 then m.power else SMap.get 0#64 s.monitors i) ∧
      (t.power = if 115 * 256 ≤ temp.toInt then .shut else s.power) ∧
      (t.throttled = true ↔ (∃ j < 5, 105 * 256 < (SMap.get 0#64 t.monitors (4 * j)).toInt) ∨
        3000 < ((List.range 5).map fun j => (SMap.get 0#64 t.monitors (4 * j + 3)).toNat).sum) ∧
      { t with monitors := s.monitors, throttled := s.throttled, power := s.power } = s := by
  refine ⟨s.monitorsMove d temp m, congrArg Host.Outcome.next (if_neg (by omega)), fun i => ?_, rfl, tooHot_iff _, rfl⟩
  simp only [State.monitorsMove, SMap.get_put]
  grind

theorem exec_thermalShutdown_die {d : Nat} {temp : Word} (hd : d < 5) (htemp : 115 * 256 ≤ temp.toInt) :
    exec (.thermalShutdown d temp) s = .next { s with monitors := SMap.put s.monitors (4 * d) temp, power := .shut } :=
  if_neg (by omega)

/-! ## The walker (R420) -/

theorem exec_walkerWindow_untraced {n : Nat} (hclk : 65536 ≤ (s.core n).winClk) (htrace : s.traceOn (s.core n).ctx 9 = false) :
    exec (.walkerWindow n) s = .next (s.setCore n { s.core n with chanWin := [], winClk := 0 }) := by
  have hend : s.endWindow n = s.setCore n { s.core n with chanWin := [], winClk := 0 } := by
    unfold State.endWindow
    simp only [htrace, Bool.false_eq_true, if_false]
    rfl
  rw [← hend]
  exact congrArg Host.Outcome.next (if_neg (Nat.not_lt.mpr hclk))

end

/-- Settles O55: each clause is an event's own lemma; a fatal record stays because cancelling a core's work keeps every record
that waits. -/
theorem linksAndErrors : Obligations.LinksAndErrors := by
  unfold Obligations.LinksAndErrors
  intro s reported reached poisons copies spare faults
  refine ⟨fun hup h => exec_hostLinkDown_reached s hup h, fun hdown => exec_hostLinkUp_down s hdown, fun p => ⟨?_, ?_⟩,
    fun pa hpa => State.poisons_expanderPoison s hpa, fun pa store hup hpa => exec_cxlCacheSnoop_host s store hup hpa,
    fun e => ⟨exec_correctedError_untraced s e, ?_, ?_, State.poisons_uncorrectableError_l2 s e,
      exec_uncorrectableError_clean s e, fun n hrun _ => State.faults_uncorrectableError s e hrun,
      fun n key hplace => exec_uncorrectableError_accum s e hplace⟩,
    fun c hcopy => exec_channelRemapDone_copying s hcopy, fun d temp m hd => exec_thermalThrottle_die s temp m hd,
    fun d temp hd htemp => ⟨_, exec_thermalShutdown_die s hd htemp, rfl, rfl⟩,
    fun n hclk htrace => exec_walkerWindow_untraced s hclk htrace⟩
  · exact fun hp hup hlost h => exec_memoryPortLinkDown_reached s hp hup hlost h
  · exact fun hdown => ⟨exec_memoryPortLinkUp_down s hdown, exec_expanderLost_down s hdown⟩
  · exact fun hplace hpa hu hspare hfull => State.copies_correctedError s e hplace hpa hu hspare.1 hspare.2 hfull
  · intro hplace hpa hspare
    exact ⟨State.poisons_uncorrectableError_hbm s e hplace hpa hspare.1 hspare.2,
      State.Copies.of_retire (exec_uncorrectableError_hbm s e hplace hpa) hspare.1 rfl hspare.2 rfl rfl⟩

end Sys2Proof.Machine
end

section
/-! PROOFS. The issue of presence operations, mask transfers and AMOs: each form makes its request. -/

namespace Sys2Proof.Machine

/-! ## Requests of a core's registers (R176) -/

/-- An instruction that makes a request of its core's registers when it is ready sends its access. -/
theorem State.ready.requests {s : State} {i : Instr} {fields reads : List Reg} {masks : List Nat} {r : Core → Request} {pas : List Nat}
    (h : s.ready fields reads masks) (hi : exec i s = s.issue fields reads masks fun n c => s.startAccess n (r c))
    (hr : (r s.here).counted) (hfree : s.freeToIssue (r s.here).inLdc (r s.here).inStc) (hea : (r s.here).ea.toNat < 2 ^ 56)
    (hal : (r s.here).ea.toNat % (r s.here).size = 0)
    (htr : translateRange (s.pages s.here.ctx) (r s.here).ea.toNat (r s.here).need (r s.here).size = .ok pas) :
    s.sends i ((r s.here).fresh (s.released (r s.here).release).here pas) (r s.here).acq (r s.here).release :=
  h.sends hi rfl hr hfree hea (fun _ => hal) htr

/-! ## AMOs (R125, R129, R153, R179) -/

/-- The request of an AMO on w bytes, under its order bits. -/
def amoReq (op : BitVec 4) (w : Nat) (d : Reg) (ea b cmp : Word) (sc o : BitVec 2) (opc : Nat) : Request :=
  ⟨.amo op, Need.rw, ea, w, true, 1#2, d.toNat, b.zeroExtend 256, cmp, decide (d ≠ 57#6), true, o.getLsbD 0, o.getLsbD 1, sc, opc⟩

theorem amoReq_counted (op : BitVec 4) (w : Nat) (d : Reg) (ea b cmp : Word) (sc o : BitVec 2) (opc : Nat) :
    (amoReq op w d ea b cmp sc o opc).counted where
  ldc := decide_eq_decide.mpr (not_congr BitVec.toNat_inj.symm)
  stc := rfl

/-- An AMO of either width, whatever registers it reads. -/
theorem State.ready.sends_amo {s : State} {i : Instr} {d a b : Reg} {sc o : BitVec 2} {op : BitVec 4} {w opc : Nat} {reads : List Reg}
    (h : s.ready [d, a, b] reads []) (hfree : s.freeToIssue (d ≠ 57#6) true)
    (hi : exec i s = s.issue [d, a, b] reads [] fun n c =>
      s.startAccess n (amoReq op w d (c.reg a.toNat) (c.reg b.toNat) (c.reg d.toNat) sc o opc))
    (hea : (s.here.reg a.toNat).toNat < 2 ^ 56) (pas : List Nat) (hal : (s.here.reg a.toNat).toNat % w = 0)
    (htr : translateRange (s.pages s.here.ctx) (s.here.reg a.toNat).toNat Need.rw w = .ok pas) :
    let release := if o.getLsbD 1 then some sc else none
    s.sends i ((s.released release).here.fresh (.amo op) (s.here.reg a.toNat) pas 1 d.toNat ((s.here.reg b.toNat).zeroExtend 256)
      (s.here.reg d.toNat) release (BitVec.ofNat 8 opc)) (o.getLsbD 0) release :=
  h.requests hi (amoReq_counted ..) hfree hea hal htr

/-- CAS reads d too. -/
theorem State.ready.cas {s : State} {d a b : Reg} (h : s.ready [d, a, b] [a, b] []) (hd : s.regPending s.cur d.toNat = false) :
    s.ready [d, a, b] [d, a, b] [] :=
  { h with reads := List.forall_mem_cons.mpr ⟨hd, h.reads⟩ }

/-- Settles O16: every form makes the AMO request of its op code, width and opcode. -/
theorem amosIssue : Obligations.AmosIssue := by
  unfold Obligations.AmosIssue
  intro s d a b sc o h hfree ea hea sends
  refine ⟨?_, ?_, ?_, ?_, ?_, ?_, ?_, ?_, ?_, ?_, ?_, ?_, ?_, ?_, ?_, ?_, ?_, ?_, fun hd => ⟨?casW, ?casD⟩⟩
  case casW => exact (h.cas hd).sends_amo hfree rfl hea
  case casD => exact (h.cas hd).sends_amo hfree rfl hea
  all_goals exact h.sends_amo hfree rfl hea

/-! ## Presence operations and masks (R125, R178, R194) -/

/-- The request of a presence operation at a word: PLD acquires, PST and PCLR release. -/
def presReq (kind : AccKind) (need : Need) (ea : Word) (dst : Nat) (val : BitVec 256) (load : Bool) (sc : BitVec 2) (opc : Nat) : Request :=
  ⟨kind, need, ea, 8, true, 1#2, dst, val, 0, load, !load, load, !load, sc, opc⟩

/-- The request of a mask transfer of 32 bytes. -/
def maskReq (kind : AccKind) (need : Need) (ea : Word) (dst : Nat) (val : BitVec 256) (load : Bool) : Request :=
  ⟨kind, need, ea, 32, true, 0#2, dst, val, 0, load, !load, false, false, 0, 0x17⟩

/-- Settles O15: every form makes its aligned request; PST and PCLR release, PLD acquires. -/
theorem presenceAndMasksIssue : Obligations.PresenceAndMasksIssue := by
  unfold Obligations.PresenceAndMasksIssue
  constructor
  · intro s d a sc o pas ea hea hal
    refine ⟨fun h hfree htr => ?pld, fun h hfree htr => ?pst, fun h hfree htr => ?pclr⟩
    case pld =>
      exact h.requests (r := fun c => presReq .pld Need.pread (eaPres (c.reg a.toNat) o) d.toNat 0 true sc 0x11)
        rfl ⟨rfl, rfl⟩ hfree hea hal htr
    case pst =>
      exact h.requests (r := fun c => presReq .pst Need.pwrite (eaPres (c.reg a.toNat) o) 57 ((c.reg d.toNat).zeroExtend 256) false sc 0x12)
        rfl ⟨rfl, rfl⟩ hfree hea hal htr
    case pclr =>
      exact h.requests (r := fun c => presReq .pclr Need.pwrite (eaPres (c.reg a.toNat) o) 57 0 false sc 0x13)
        rfl ⟨rfl, rfl⟩ hfree hea hal htr
  · intro s a m pas ea hea hal
    refine ⟨fun h hfree htr => ?mld, fun h hfree htr => ?mst⟩
    case mld =>
      exact h.requests (r := fun c => maskReq .mload Need.read (c.reg a.toNat) m.toNat 0 true) rfl ⟨rfl, rfl⟩ hfree hea hal htr
    case mst =>
      exact h.requests (r := fun c => maskReq .mstore Need.write (c.reg a.toNat) 0 (c.mask m.toNat) false)
        rfl ⟨rfl, rfl⟩ hfree hea hal htr

end Sys2Proof.Machine
end

section
/-! PROOFS. A load of a core is performed: no published store lies in its words, so that its bytes are memory's. -/

namespace Sys2Proof.Machine

/-! ## Bytes read at their homes (R103, R125) -/

section reads
variable {s : State} {n : Nat}

/-- A byte outside the windows that no store of its core has published is read at its home. -/
theorem State.loadByte_apart {va pa : Nat} (pol : BitVec 2) (hwin : s.findWindow n va = none) (hapart : s.shownApart n pa)
    (hblocked : s.blocked va pa = none) (hclean : s.poisoned pa = false) :
    s.loadByte (some n) pol va pa = .ok (s, s.mem.read pa) := by
  unfold State.loadByte State.homeSeen State.homeRead
  simp [hwin, State.shownByte_apart hapart, hblocked, hclean]

theorem State.loadBytes_apart {va : Nat} {pol : BitVec 2} {ps : List Nat} (hwin : ∀ i < ps.length, s.findWindow n (va + i) = none)
    (hapart : ∀ p ∈ ps, s.shownApart n p) (hblocked : ∀ p ∈ ps, ∀ a, s.blocked a p = none)
    (hclean : ∀ p ∈ ps, s.poisoned p = false) : s.loadBytes (some n) pol va ps = .ok (s, ps.map s.mem.read) := by
  induction ps generalizing va with
  | nil => rfl
  | cons p ps ih =>
    have hrest := ih (va := va + 1)
      (fun i hi => by rw [Nat.add_right_comm]; exact hwin (i + 1) (Nat.succ_lt_succ hi))
      (fun q hq => hapart q (List.mem_cons_of_mem _ hq)) (fun q hq => hblocked q (List.mem_cons_of_mem _ hq))
      (fun q hq => hclean q (List.mem_cons_of_mem _ hq))
    unfold State.loadBytes
    rw [State.loadByte_apart (va := va) pol (hwin 0 (Nat.succ_pos _)) (hapart p List.mem_cons_self) (hblocked p List.mem_cons_self va)
      (hclean p List.mem_cons_self)]
    dsimp only
    rw [hrest]
    rfl

end reads

/-! ## A piece of a load (R123) -/

/-- The access once a piece has been read: without the piece, and with its bytes in their places. -/
def Access.withPiece (a : Access) (m : Memory) (p : Nat × Nat) : Access :=
  { a.without p with got := a.got ||| BitVec.ofNat 256 (leNat (((a.pas.drop p.1).take p.2).map m.read) * 2 ^ (8 * p.1)) }

/-- An access that has not been published meets no published store in its words. -/
theorem State.performable.apart {s : State} {n : Nat} {a : Access} (h : s.performable n a) (hshown : a.shown = false) {q : Nat}
    (hq : q ∈ a.pas) : s.shownApart n q := by
  intro b hb hbs x hx
  have hne : b ≠ a := fun he => by rw [he, hshown] at hbs; cases hbs
  exact (h.older b hb (.inr ⟨hne, hbs⟩) q hq x hx).symm

theorem State.performable.loadPiece {s : State} {n : Nat} {a : Access} (h : s.performable n a) (hshown : a.shown = false)
    (hwin : s.unwindowed n a) (hsound : s.sound a) {p : Nat × Nat} (hp : p ∈ a.left) :
    s.loadPiece n a p = .ok (s, a.withPiece s.mem p) := by
  have hplace : ∀ q ∈ (a.pas.drop p.1).take p.2, q ∈ a.pas := fun q hq => List.mem_of_mem_drop (List.mem_of_mem_take hq)
  have hfit := h.pieces.2 p hp
  have hread := State.loadBytes_apart (pol := a.pol) (va := a.va + p.1) (ps := (a.pas.drop p.1).take p.2)
    (fun i hi => by
      have hin : i < p.2 := by simp at hi; omega
      rw [Nat.add_assoc]
      exact hwin (p.1 + i) (by omega))
    (fun q hq => h.apart hshown (hplace q hq)) (fun q hq x => h.blocked (hplace q hq) x) (fun q hq => hsound q (hplace q hq))
  unfold State.loadPiece
  rw [hread]
  rfl

/-! ## After the last piece (R123, R177, R194) -/

/-- The performance of an access is that of every one with its number and its counters. -/
theorem Performed.of_access {s t : State} {n : Nat} {a b : Access} {result : Option (Nat × Word)} (h : Performed s t n b result)
    (hid : b.id = a.id) (hl : b.inLdc = a.inLdc) (hs : b.inStc = a.inStc) : Performed s t n a result where
  accs := hid ▸ h.accs
  ldc := hl ▸ h.ldc
  stc := hs ▸ h.stc
  holdAcc := hid ▸ h.holdAcc
  holdAll := hid ▸ h.holdAll
  holdStore := hid ▸ h.holdStore
  regs := h.regs
  late := h.late
  core := h.core
  others := h.others

/-- The value of a load in the words of the statements: extended from the width of its bytes. -/
theorem loadValue_eq (signed : Bool) {w : Nat} (hw : 0 < w) (v : Nat) :
    loadValue signed w v = if signed then (BitVec.ofNat w v).signExtend 64 else BitVec.ofNat 64 v := by
  unfold loadValue
  rw [sx_toInt v w hw]
  rfl

/-- Land the value of an MLD that has read its last piece. -/
def State.landMask (s : State) (n : Nat) (a : Access) : State :=
  (s.updCore n fun c => { c with masks := if a.dst = 0 then c.masks else SMap.set 0#256 c.masks a.dst a.got }).accessDone n a

/-- A mask lands in its own place; mask 0 takes none (R147). -/
theorem State.mask_landMask (s : State) (n : Nat) (a : Access) (m : Nat) :
    ((s.landMask n a).core n).mask m = if m = a.dst ∧ m ≠ 0 then a.got else (s.core n).mask m := by
  rw [State.landMask, State.core_accessDone_same, State.core_updCore_same]
  by_cases hm : m = 0
  · simp [Core.mask, hm]
  · by_cases hd : m = a.dst
    · subst hd
      simp [Core.mask, hm]
    · by_cases h0 : a.dst = 0
      · simp [Core.mask, hm, h0]
      · simp [Core.mask, hm, hd, h0, SMap.get_set_other _ _ _ hd]

/-- But for the masks the access is done as one without a result. -/
theorem State.landMask_restored (s : State) (n : Nat) (a : Access) :
    ((s.landMask n a).updCore n fun c => { c with masks := (s.core n).masks }) = s.accessDone n a := by
  simp only [State.landMask, State.accessDone, State.updCore_updCore]
  rfl

theorem State.perform_load {s : State} {n : Nat} {a : Access} {p : Nat × Nat} {u : State} {signed : Bool}
    (hk : a.kind = .load signed) (hp : s.pickPiece a = (some p, u)) :
    s.perform n a = (u.loadPiece n a p).map (State.pieced n fun s b =>
      s.landAccess n b (loadValue signed (8 * b.pas.length) b.got.toNat)) := by
  simp only [State.perform, hp, hk]

theorem State.perform_mload {s : State} {n : Nat} {a : Access} {p : Nat × Nat} {u : State} (hk : a.kind = .mload)
    (hp : s.pickPiece a = (some p, u)) : s.perform n a = (u.loadPiece n a p).map (State.pieced n fun s b => s.landMask n b) := by
  simp only [State.perform, hp, hk]
  rfl

/-- What a load does once a piece of it is read: it lands with its last one. -/
def State.landLoad (n : Nat) (s : State) (b : Access) : State :=
  match b.kind with
  | .load signed => s.landAccess n b (loadValue signed (8 * b.pas.length) b.got.toNat)
  | _ => s.landMask n b

theorem State.landLoad_load {b : Access} {signed : Bool} (hk : b.kind = .load signed) (n : Nat) (s : State) :
    State.landLoad n s b = s.landAccess n b (loadValue signed (8 * b.pas.length) b.got.toNat) := by rw [State.landLoad, hk]

theorem State.landLoad_mload {b : Access} (hk : b.kind = .mload) (n : Nat) (s : State) : State.landLoad n s b = s.landMask n b := by
  rw [State.landLoad, hk]

/-- Landing touches nothing but the cores. -/
theorem State.landLoad_frame (n : Nat) (s : State) (b : Access) : { State.landLoad n s b with cores := s.cores } = s := by
  unfold State.landLoad
  split
  · exact s.landAccess_frame ..
  · rfl

/-! ### The last piece -/

section last
variable {s u : State} {n : Nat} {a : Access} {m : Memory} {p : Nat × Nat} (hu : u.cores = s.cores)
include hu

theorem performed_landLoad_load {signed : Bool} (hk : a.kind = .load signed) (hplaced : a.pas ≠ []) :
    Performed s (State.landLoad n u (a.withPiece m p)) n a (some (a.dst, if signed
      then (BitVec.ofNat (8 * a.pas.length) (a.withPiece m p).got.toNat).signExtend 64
      else BitVec.ofNat 64 (a.withPiece m p).got.toNat)) := by
  have hpos : 0 < 8 * a.pas.length := Nat.mul_pos (by decide) (List.length_pos_of_ne_nil hplaced)
  rw [State.landLoad_load (b := a.withPiece m p) hk, ← loadValue_eq signed hpos]
  exact ((performed_landAccess u n (a.withPiece m p) _).of_access (a := a) rfl rfl rfl).of_cores hu

theorem mask_landLoad_mload (hk : a.kind = .mload) (j : Nat) : ((State.landLoad n u (a.withPiece m p)).core n).mask j =
    if j = a.dst ∧ j ≠ 0 then (a.withPiece m p).got else (s.core n).mask j := by
  rw [State.landLoad_mload (b := a.withPiece m p) hk, State.mask_landMask, State.core_of, hu]
  rfl

theorem performed_landLoad_mload (hk : a.kind = .mload) : Performed s
    ((State.landLoad n u (a.withPiece m p)).updCore n fun c => { c with masks := (s.core n).masks }) n a none := by
  have hcore : s.core n = u.core n := by rw [State.core_of, State.core_of, hu]
  rw [State.landLoad_mload (b := a.withPiece m p) hk, hcore, State.landMask_restored]
  exact ((performed_accessDone u n (a.withPiece m p)).of_access (a := a) rfl rfl rfl).of_cores hu

end last

/-- Settles O17: the piece chosen is memory's; then the access stands without it, or its value lands. -/
theorem loadIsPerformed : Obligations.LoadIsPerformed := by
  unfold Obligations.LoadIsPerformed
  intro s n a h hrefused hwin hsound hshown hkind
  obtain ⟨p, hp, f, hpick⟩ := s.pickPiece_mem h.pieces.1
  have hf : ({ s with free := f } : State).performable n a := { h with }
  have hcores : ({ s with free := f } : State).cores = s.cores := rfl
  have hpiece := hf.loadPiece hshown hwin hsound hp
  have hperform : s.perform n a = .ok (State.pieced n (State.landLoad n) ({ s with free := f }, a.withPiece s.mem p)) := by
    rcases hkind with hk | hk | hk
    case inr.inr =>
      rw [State.perform_mload hk hpick, hpiece, Except.map, State.pieced, State.pieced, State.landLoad_mload (b := a.withPiece s.mem p) hk]
    all_goals
      rw [State.perform_load hk hpick, hpiece, Except.map, State.pieced, State.pieced, State.landLoad_load (b := a.withPiece s.mem p) hk]
  have hexec : exec (.scalarAccessComplete n a.id) s =
      .next (State.pieced n (State.landLoad n) ({ s with free := f }, a.withPiece s.mem p)) := by
    have := h.tried hperform
    rw [hrefused] at this
    exact congrArg Host.Outcome.next this
  refine ⟨p, hp, ?_⟩
  intro got rest
  by_cases hrest : rest = []
  · rw [State.pieced_last n _ _ (a := a.withPiece s.mem p) hrest] at hexec
    refine ⟨_, hexec, congrArg (fun t : State => { t with free := s.free }) (State.landLoad_frame n { s with free := f } _),
      fun hne => absurd hrest hne, fun _ signed hk => performed_landLoad_load hcores hk h.placed,
      fun _ hk => ⟨mask_landLoad_mload hcores hk, performed_landLoad_mload hcores hk⟩⟩
  · rw [State.pieced_more n _ _ (a := a.withPiece s.mem p) hrest] at hexec
    exact ⟨_, hexec, rfl, fun _ => ⟨fun m hm => State.core_setAccess_other _ _ hm, State.core_setAccess_same ..⟩,
      fun he => absurd he hrest, fun he => absurd he hrest⟩

end Sys2Proof.Machine
end

section
/-! PROOFS. An AMO is performed at its home slice: what it writes, by its op code, and what it leaves. -/

namespace Sys2Proof.Machine

/-! ## The value an AMO writes (R129, R179) -/

/-- What an AMO writes fits its width. -/
theorem amoNew_lt {op w old x cmp v : Nat} (hold : old < 2 ^ w) (hx : x < 2 ^ w) (h : amoNew op w old x cmp = some v) : v < 2 ^ w := by
  unfold amoNew at h
  split at h
  case h_1 => cases h; exact Nat.mod_lt _ (Nat.two_pow_pos w)
  case h_2 => cases h; split <;> assumption
  case h_3 => cases h; split <;> assumption
  case h_4 => cases h; exact lt_of_le_of_lt (Nat.min_le_left ..) hold
  case h_5 => cases h; exact Nat.max_lt.mpr ⟨hold, hx⟩
  case h_6 => cases h; exact Nat.and_lt_two_pow _ hx
  case h_7 => cases h; exact Nat.or_lt_two_pow hold hx
  case h_8 => cases h; exact Nat.xor_lt_two_pow hold hx
  case h_9 => cases h; exact hx
  case h_10 =>
    split at h
    · cases h; exact hx
    · cases h

theorem sx_bitVec {w : Nat} (hw : 0 < w) (x : BitVec w) : sx x.toNat w = x.toInt := by rw [sx_toInt _ _ hw, BitVec.ofNat_toNat, BitVec.setWidth_eq]

theorem amoNew_ops {w : Nat} (hw : 0 < w) (x y z : BitVec w) :
    let new := fun op => amoNew op w x.toNat y.toNat z.toNat
    new 0 = some (x + y).toNat ∧ new 1 = some (if y.toInt < x.toInt then y else x).toNat ∧
    new 2 = some (if x.toInt < y.toInt then y else x).toNat ∧ new 3 = some (min x.toNat y.toNat) ∧
    new 4 = some (max x.toNat y.toNat) ∧ new 5 = some (x &&& y).toNat ∧ new 6 = some (x ||| y).toNat ∧
    new 7 = some (x ^^^ y).toNat ∧ new 8 = some y.toNat ∧ new 9 = if x = z then some y.toNat else none := by
  refine ⟨?add, ?min, ?max, rfl, rfl, ?and, ?or, ?xor, rfl, ?cas⟩
  case add => rw [BitVec.toNat_add]; rfl
  case min =>
    show some (if sx x.toNat w ≤ sx y.toNat w then x.toNat else y.toNat) = _
    rw [sx_bitVec hw, sx_bitVec hw]
    split
    · next h => rw [if_neg (not_lt.mpr h)]
    · next h => rw [if_pos (not_le.mp h)]
  case max =>
    show some (if sx x.toNat w ≤ sx y.toNat w then y.toNat else x.toNat) = _
    rw [sx_bitVec hw, sx_bitVec hw]
    rcases lt_trichotomy x.toInt y.toInt with h | h | h
    · rw [if_pos h.le, if_pos h]
    · rw [if_pos h.le, if_neg h.not_lt, BitVec.eq_of_toInt_eq h]
    · rw [if_neg (not_le.mpr h), if_neg h.not_gt]
  case and => rw [BitVec.toNat_and]; rfl
  case or => rw [BitVec.toNat_or]; rfl
  case xor => rw [BitVec.toNat_xor]; rfl
  case cas =>
    show (if x.toNat = z.toNat then some y.toNat else none) = _
    simp only [BitVec.toNat_inj]

/-! ## At the home slice (R129) -/

theorem leNat_lt (bs : List Byte) : leNat bs < 2 ^ (8 * bs.length) := by
  induction bs with
  | nil => exact Nat.one_pos
  | cons b bs ih =>
    have hb : b.toNat < 256 := b.isLt
    have hpow : 2 ^ (8 * (b :: bs).length) = 256 * 2 ^ (8 * bs.length) := by
      rw [List.length_cons, Nat.mul_succ, Nat.pow_add, Nat.mul_comm]
    rw [hpow, leNat]
    omega

/-- A run of bytes, byte by byte. -/
theorem Memory.readBytes_eq (m : Memory) (a n : Nat) : m.readBytes a n = (List.range n).map fun i => m.read (a + i) := by
  induction n generalizing a with
  | zero => rfl
  | succ n ih =>
    have hshift : (fun i => m.read (a + i)) ∘ Nat.succ = fun i => m.read (a + 1 + i) := by
      funext i
      exact congrArg m.read (by omega)
    rw [List.range_succ_eq_map, List.map_cons, List.map_map, hshift, ← ih]
    rfl

/-- The state an AMO leaves at its home: what it writes, if it writes, stands in its bytes. -/
def State.amoWrites (s : State) (pa w : Nat) : Option Nat → State
  | none => s
  | some v => { s.keepHosts pa w with mem := s.mem.writeNat pa w v }

theorem State.amoWrites_cores (s : State) (pa w : Nat) (v : Option Nat) : (s.amoWrites pa w v).cores = s.cores := by
  cases v with
  | none => rfl
  | some v => exact State.keepHosts_cores ..

theorem State.amoWrites_frame (s : State) (pa w : Nat) (v : Option Nat) :
    { s.amoWrites pa w v with cores := s.cores, mem := s.mem, hostOld := s.hostOld } = s := by
  cases v with
  | none => rfl
  | some v =>
    obtain ⟨l, hl⟩ := s.keepHosts_eq pa w
    rw [State.amoWrites, hl]

section amo
variable {s : State} {n : Nat} {a : Access} {op : BitVec 4} {pa : Nat}

/-- The value an AMO finds and the one it writes there. -/
def Access.amoOld (a : Access) (s : State) : Nat := leNat (a.pas.map s.mem.read)

def Access.amoValue (a : Access) (s : State) (op : BitVec 4) : Option Nat :=
  amoNew op.toNat (8 * a.pas.length) (a.amoOld s) (a.val.toNat % 2 ^ (8 * a.pas.length)) (a.cmp.toNat % 2 ^ (8 * a.pas.length))

theorem Access.amoValue_lt {v : Nat} (h : a.amoValue s op = some v) : v < 2 ^ (8 * a.pas.length) := by
  have hold : a.amoOld s < 2 ^ (8 * a.pas.length) := by
    have := leNat_lt (a.pas.map s.mem.read)
    rwa [List.length_map] at this
  exact amoNew_lt hold (Nat.mod_lt _ (Nat.two_pow_pos _)) h

variable (hpas : a.pas = (List.range a.pas.length).map (pa + ·))
include hpas

theorem State.performable.homeAmo (h : s.performable n a) (hs : s.sound a) :
    s.homeAmo a.va pa a.pas.length op.toNat a.val.toNat a.cmp.toNat =
      .ok (s.amoWrites pa a.pas.length (a.amoValue s op), a.amoOld s) := by
  have hmem : ∀ i < a.pas.length, pa + i ∈ a.pas := fun i hi => by
    rw [hpas]; exact List.mem_map.mpr ⟨i, List.mem_range.mpr hi, rfl⟩
  have hreads := s.homeReads_ok (n := a.pas.length) a.va pa fun va i hi => ⟨h.blocked (hmem i hi) va, hs _ (hmem i hi)⟩
  have hbytes : s.mem.readBytes pa a.pas.length = a.pas.map s.mem.read := by
    rw [Memory.readBytes_eq]
    conv_rhs => rw [hpas, List.map_map]
    rfl
  rw [State.homeAmo, hreads, hbytes]
  show (match a.amoValue s op with | none => _ | some v => _) = _
  cases a.amoValue s op <;> rfl

/-- Outside record and replay an AMO in one piece takes its turn at once and logs nothing (R422, R424). -/
theorem State.performable.amo (h : s.performable n a) (hs : s.sound a) (hmode : s.traceMode (s.core n).ctx = 0)
    (hk : a.kind = .amo op) (hleft : a.left = [(0, a.pas.length)]) :
    s.perform n a = .ok ((s.amoWrites pa a.pas.length (a.amoValue s op)).landAccess n a (BitVec.ofNat 64 (a.amoOld s))) := by
  have hhead : a.pas.headD 0 = pa := by
    obtain ⟨i, hi⟩ : ∃ i, a.pas.length = i + 1 := Nat.exists_eq_succ_of_ne_zero fun h0 => h.placed (List.eq_nil_of_length_eq_zero h0)
    rw [hpas, hi, List.range_succ_eq_map]
    rfl
  have hpick : s.pickPiece a = (some (0, a.pas.length), s) := by rw [State.pickPiece, hleft]
  have hturn (q agent : Nat) : s.amoTurn (s.core n).ctx q agent = true := by rw [State.amoTurn, hmode]; rfl
  have hlog (t : State) (q agent pc soff img : Nat) : t.amoLog 0 (s.core n).ctx q agent pc soff img = t := rfl
  simp only [State.perform, hpick, hk, hhead, hturn, Bool.not_true, Bool.false_eq_true, if_false, h.homeAmo hpas hs, hmode, hlog]

end amo

/-- Settles O19: the performance is one equation for `perform`; what it writes is read back, and the values are the op codes'. -/
theorem amoIsPerformed : Obligations.AmoIsPerformed := by
  unfold Obligations.AmoIsPerformed
  refine ⟨?performed, fun w x y z hw => amoNew_ops (by omega) x y z⟩
  intro s n a op pa h hrefused hsound hmode hk hpas hleft _ w old
  have hexec : exec (.scalarAccessComplete n a.id) s =
      .next ((s.amoWrites pa w (a.amoValue s op)).landAccess n a (BitVec.ofNat 64 old)) := by
    have := h.tried (h.amo hpas hsound hmode hk hleft)
    rw [hrefused] at this
    exact congrArg Host.Outcome.next this
  have hland := State.landAccess_frame (s.amoWrites pa w (a.amoValue s op)) n a (BitVec.ofNat 64 old)
  have hmem : ((s.amoWrites pa w (a.amoValue s op)).landAccess n a (BitVec.ofNat 64 old)).mem = (s.amoWrites pa w (a.amoValue s op)).mem := by
    have := congrArg State.mem hland
    exact this
  refine ⟨_, hexec, (performed_landAccess _ n a _).of_cores (s.amoWrites_cores ..), fun v hv => ?writes, fun hv => ?leaves, ?frame⟩
  case writes =>
    have hval : a.amoValue s op = some v := hv
    have hlt : v < 256 ^ w := by
      have := Access.amoValue_lt hval
      rwa [Nat.pow_mul] at this
    rw [hmem, hval]
    refine ⟨(Memory.readNat_writeNat_same ..).trans (Nat.mod_eq_of_lt hlt), fun p hp => ?_⟩
    refine Memory.read_writeBytes_other _ _ ?_
    by_contra hin
    refine hp (hpas ▸ List.mem_map.mpr ⟨p - pa, List.mem_range.mpr ?_, by omega⟩)
    rw [leBytes_length] at hin
    omega
  case leaves =>
    have hval : a.amoValue s op = none := hv
    rw [hmem, hval]
    rfl
  case frame =>
    exact (congrArg (fun t : State => { t with cores := s.cores, mem := s.mem, hostOld := s.hostOld }) hland).trans (s.amoWrites_frame ..)

end Sys2Proof.Machine
end

section
/-! PROOFS. INTERSECT of an engine node whose completion enters the node's next command under the number of the one that completed. -/

namespace Sys2Proof.Machine

/-- The 64 bytes of an INTERSECT of two empty lists, with the number of its entries at 0. -/
def intersectEntry : List Byte := List.replicate 0x2C 0 ++ [0x52#8] ++ List.replicate 0x13 0

/-- An engine node with two of them, of which it has entered the first. -/
def intersectNode : NodeEntry :=
  { st := .run, ctx := 0, count := 0, home := 0, launch := 1, nix := 0, nr := { kind := 1, cmds := [intersectEntry, intersectEntry] }
    tReady := 0, cores := [], slots := [], fixed := [], ran := [], preemptAt := none, dispatched := 0, held := false, cmdsDone := 1 }

/-- The first, started. -/
def intersectCmd : Cmd := { engineCmd intersectNode 0 0 0 true intersectEntry with state := .started }

/-- The node runs, its first command has number 0, and 0 is the number of the next command too. -/
def intersectState : State :=
  { ctxs := [(0, { pages := [⟨0, 0, 16, 7#16⟩] })], dies := [(0, { deps := [(0, .node intersectNode)] })], cmds := [intersectCmd], nextCmd := 0 }

theorem intersectState_runs : intersectState.cmd? intersectCmd.id = some intersectCmd ∧ intersectState.runs intersectCmd = true ∧
    intersectState.ixTurn intersectCmd = true := by
  and_intros <;> decide +kernel

theorem intersectState_pagesApart : pagesApart (intersectState.pages intersectCmd.ctx) := by
  intro p hp q hq
  exact .inl ((List.mem_singleton.mp hp).trans (List.mem_singleton.mp hq).symm)

/-- The word that takes the number of entries can be written. -/
theorem intersectState_count : translateRange (intersectCmd.tlb ++ intersectState.pages intersectCmd.ctx) intersectCmd.e.toNat Need.write 8 =
    .ok (List.range 8) ∧ intersectState.writable (List.range 8) := by
  refine ⟨by decide +kernel, fun q hq => ?_⟩
  have hlow : ∀ q ∈ List.range 8, intersectState.copying q = false ∧ intersectState.linkFault q = none := by decide +kernel
  exact hlow q hq

/-- The command completes, and the next one of the node stands under its number. -/
theorem intersectState_completes : ∃ t, exec (.commandComplete intersectCmd.id) intersectState = .next t ∧
    t.cmd? intersectCmd.id = some (engineCmd intersectNode 0 0 0 false intersectEntry) :=
  ⟨_, rfl, by decide +kernel⟩

/-- Refutes O42, in the clause of INTERSECT: the completion of an engine node's command enters the node's next one (R319) under the
number that the state gives next, and the statement, which says that no command stands under the completed one's number, takes any
state: one in which that number is given next too. The number of a new command being new is a hypothesis of MatrixSteps, and none
here. -/
theorem not_indexGroups : ¬ Obligations.IndexGroups := by
  unfold Obligations.IndexGroups
  intro h
  obtain ⟨hcmd, hruns, hturn⟩ := intersectState_runs
  obtain ⟨hcount, hwritable⟩ := intersectState_count
  obtain ⟨t, ⟨hexec, hgone, -⟩, -⟩ := (h.2 intersectState intersectCmd hcmd hruns hturn intersectState_pagesApart).1 [] []
    (fun _ => []) (fun _ => []) (fun _ => []) (List.range 8) rfl rfl rfl .nil .nil (fun i hi => absurd hi (Nat.not_lt_zero i))
    (fun i hi => absurd hi (Nat.not_lt_zero i)) (fun i hi => absurd hi (Nat.not_lt_zero i)) (fun i hi => absurd hi (Nat.not_lt_zero i))
    (fun i hi => absurd hi (Nat.not_lt_zero i)) hcount (List.nodup_range) hwritable nofun
  obtain ⟨u, hexec', hnext⟩ := intersectState_completes
  cases hexec.symm.trans hexec'
  rw [hnext] at hgone
  cases hgone

end Sys2Proof.Machine
end

section
/-! PROOFS. Encoding and decoding agree: an instruction is read off the words at its head, whatever bytes stand after them. -/

namespace Sys2Proof.Laws

/-! ## What stands after the words is not read (R144) -/

theorem wordAt_append {bs r : List Byte} {w : BitVec 32} (h : wordAt bs = some (w, r)) (rest : List Byte) :
    wordAt (bs ++ rest) = some (w, r ++ rest) := by
  unfold wordAt at h
  split at h
  · cases h
    rfl
  · cases h

/-- What decodes at the head of some bytes decodes there before further bytes too. -/
theorem decode_append {bs : List Byte} {p : Instr × Nat} (h : decode bs = .ok p) (rest : List Byte) : decode (bs ++ rest) = .ok p := by
  unfold decode at h ⊢
  split at h
  · cases h
  next w0 r0 h0 =>
  rw [wordAt_append h0]
  dsimp only
  split at h
  case isFalse hscalar => rwa [if_neg hscalar]
  case isTrue hcmd =>
    rw [if_pos hcmd]
    split at h
    · cases h
    next w1 r1 h1 =>
    rw [wordAt_append h1]
    dsimp only
    split at h
    · cases h
    next w2 r2 h2 =>
    rw [wordAt_append h2]
    dsimp only
    split at h
    · cases h
    next w3 r3 h3 =>
    rw [wordAt_append h3]
    exact h

/-! ## Every form is read back (R148–R159) -/

/-- The words of a well-formed instruction decode to it, by its constructor. -/
theorem roundTrip (i : Instr) : RoundTrip.Statement i :=
  Instr.casesOn (motive := RoundTrip.Statement) i
    RoundTrip.add RoundTrip.sub RoundTrip.mul RoundTrip.mulh RoundTrip.mulhu RoundTrip.div RoundTrip.divu RoundTrip.rem
    RoundTrip.remu RoundTrip.and RoundTrip.or RoundTrip.xor RoundTrip.andn RoundTrip.shl RoundTrip.shr RoundTrip.sar RoundTrip.min
    RoundTrip.max RoundTrip.minu RoundTrip.maxu RoundTrip.clz RoundTrip.ctz RoundTrip.popc RoundTrip.sext RoundTrip.zext
    RoundTrip.mov RoundTrip.cmpEq RoundTrip.cmpNe RoundTrip.cmpLt RoundTrip.cmpLe RoundTrip.cmpLtu RoundTrip.cmpLeu RoundTrip.pand
    RoundTrip.por RoundTrip.pxor RoundTrip.pnot RoundTrip.leaX1 RoundTrip.leaX2 RoundTrip.leaX4 RoundTrip.leaX8 RoundTrip.sel
    RoundTrip.memxLd RoundTrip.memxLds RoundTrip.memxSt RoundTrip.bfx RoundTrip.bfxu RoundTrip.bfi RoundTrip.amoAddW
    RoundTrip.amoMinW RoundTrip.amoMaxW RoundTrip.amoMinuW RoundTrip.amoMaxuW RoundTrip.amoAndW RoundTrip.amoOrW RoundTrip.amoXorW
    RoundTrip.amoSwapW RoundTrip.amoCasW RoundTrip.amoAddD RoundTrip.amoMinD RoundTrip.amoMaxD RoundTrip.amoMinuD
    RoundTrip.amoMaxuD RoundTrip.amoAndD RoundTrip.amoOrD RoundTrip.amoXorD RoundTrip.amoSwapD RoundTrip.amoCasD RoundTrip.cmpiEq
    RoundTrip.cmpiNe RoundTrip.cmpiLt RoundTrip.cmpiLe RoundTrip.cmpiLtu RoundTrip.cmpiLeu RoundTrip.loop RoundTrip.addi
    RoundTrip.andi RoundTrip.ori RoundTrip.xori RoundTrip.shli RoundTrip.shri RoundTrip.sari RoundTrip.li RoundTrip.lui
    RoundTrip.pld RoundTrip.pst RoundTrip.pclr RoundTrip.bp RoundTrip.bnp RoundTrip.j RoundTrip.call RoundTrip.wait RoundTrip.nop
    RoundTrip.halt RoundTrip.safe RoundTrip.trap RoundTrip.eret RoundTrip.fenceAcq RoundTrip.fenceRel RoundTrip.fenceFull
    RoundTrip.drain RoundTrip.jr RoundTrip.ret RoundTrip.mfs RoundTrip.mts RoundTrip.mld RoundTrip.mst RoundTrip.mset
    RoundTrip.mclr RoundTrip.mtst RoundTrip.traceS RoundTrip.ldsB RoundTrip.ldsH RoundTrip.ldsW RoundTrip.ldsBByp
    RoundTrip.ldsHByp RoundTrip.ldsWByp RoundTrip.ldsBStr RoundTrip.ldsHStr RoundTrip.ldsWStr RoundTrip.ldB RoundTrip.ldH
    RoundTrip.ldW RoundTrip.ldD RoundTrip.ldBByp RoundTrip.ldHByp RoundTrip.ldWByp RoundTrip.ldDByp RoundTrip.ldBStr
    RoundTrip.ldHStr RoundTrip.ldWStr RoundTrip.ldDStr RoundTrip.stB RoundTrip.stH RoundTrip.stW RoundTrip.stD RoundTrip.stBByp
    RoundTrip.stHByp RoundTrip.stWByp RoundTrip.stDByp RoundTrip.stBStr RoundTrip.stHStr RoundTrip.stWStr RoundTrip.stDStr
    RoundTrip.scalarAccessComplete RoundTrip.pldDeferredComplete RoundTrip.pldReissue RoundTrip.cfgLoad RoundTrip.cfgPatch
    RoundTrip.cfgReconf RoundTrip.cfgIter RoundTrip.pace RoundTrip.portBind RoundTrip.portFeed RoundTrip.portTake RoundTrip.batch
    RoundTrip.hurdleArriveWait RoundTrip.hurdleArrive RoundTrip.hurdleWait RoundTrip.copy RoundTrip.copyFill RoundTrip.copyWfill
    RoundTrip.copyMc RoundTrip.copyDem RoundTrip.copyIndGather RoundTrip.copyIndScatter RoundTrip.mm RoundTrip.mmSp
    RoundTrip.mmBsr RoundTrip.mmCsr RoundTrip.mmArm RoundTrip.armEntryStart RoundTrip.mmAccZero RoundTrip.mmAccLoad
    RoundTrip.mmAccStore RoundTrip.mmOut RoundTrip.kstepComplete RoundTrip.gather RoundTrip.scatterAdd RoundTrip.scatterMin
    RoundTrip.scatterMax RoundTrip.scatterFirst RoundTrip.scatterLast RoundTrip.indexGroupComplete RoundTrip.intersect
    RoundTrip.ixCount RoundTrip.selTopk RoundTrip.selColk RoundTrip.auc RoundTrip.auctionRound RoundTrip.aucPrice RoundTrip.dpost
    RoundTrip.xsend RoundTrip.xwait RoundTrip.place RoundTrip.glaunch RoundTrip.nodeSig RoundTrip.traceMark RoundTrip.commandStart
    RoundTrip.commandComplete RoundTrip.elemAdd RoundTrip.elemSub RoundTrip.elemMul RoundTrip.elemMac RoundTrip.elemMin
    RoundTrip.elemMax RoundTrip.elemAbs RoundTrip.elemNeg RoundTrip.elemAnd RoundTrip.elemOr RoundTrip.elemXor RoundTrip.elemNot
    RoundTrip.elemShl RoundTrip.elemShr RoundTrip.elemSar RoundTrip.elemCmpEq RoundTrip.elemCmpNe RoundTrip.elemCmpLt
    RoundTrip.elemCmpLe RoundTrip.elemCmpLtu RoundTrip.elemCmpLeu RoundTrip.elemSel RoundTrip.elemDot4 RoundTrip.elemDot2
    RoundTrip.elemSatadd RoundTrip.elemSatsub RoundTrip.elemClz RoundTrip.elemPopc RoundTrip.fadd RoundTrip.fsub RoundTrip.fmul
    RoundTrip.fma RoundTrip.fmin RoundTrip.fmax RoundTrip.fabs RoundTrip.fneg RoundTrip.frcp RoundTrip.frsq RoundTrip.fexp2
    RoundTrip.flog2 RoundTrip.fcmpEq RoundTrip.fcmpNe RoundTrip.fcmpLt RoundTrip.fcmpLe RoundTrip.cvt RoundTrip.qnt RoundTrip.dqn
    RoundTrip.rsum RoundTrip.rmax RoundTrip.rmin RoundTrip.rarg RoundTrip.rcnt RoundTrip.emux RoundTrip.eand RoundTrip.eor
    RoundTrip.lda RoundTrip.sta RoundTrip.amoa RoundTrip.plda RoundTrip.psta RoundTrip.segn RoundTrip.smark RoundTrip.sconv
    RoundTrip.lpin RoundTrip.lpout RoundTrip.steer RoundTrip.merge RoundTrip.carry RoundTrip.invar RoundTrip.drop RoundTrip.lutn
    RoundTrip.matchFire RoundTrip.pacerAdmit RoundTrip.iterationComplete RoundTrip.batonReturn RoundTrip.antiTokenArrival
    RoundTrip.inPortSend RoundTrip.outPortWrite RoundTrip.fabricQuiescent RoundTrip.nodeDispatch RoundTrip.nodeComplete
    RoundTrip.decrementMessage RoundTrip.errorToken RoundTrip.launchRequest RoundTrip.graphLaunch RoundTrip.autoPreempt
    RoundTrip.preemptSave RoundTrip.preemptTimeout RoundTrip.demandRowArrival RoundTrip.grantSequenceArrival RoundTrip.phaseStart
    RoundTrip.heartbeat RoundTrip.dispatchPacketReceive RoundTrip.packetAckReceive RoundTrip.roundEnd RoundTrip.endOfRoundMarker
    RoundTrip.roundAbandon RoundTrip.abandonNotice RoundTrip.peerLost RoundTrip.arbiterTakeover RoundTrip.takeoverNotice
    RoundTrip.tkoffProbe RoundTrip.econsWrite RoundTrip.windowRegisterWrite RoundTrip.hostMemRead RoundTrip.hostMemWrite
    RoundTrip.ident RoundTrip.query RoundTrip.querySetTkoff RoundTrip.querySetAgeing RoundTrip.querySetSaveArea
    RoundTrip.querySetPreempt RoundTrip.querySetDeviceId RoundTrip.map RoundTrip.unmap RoundTrip.inval RoundTrip.pin
    RoundTrip.unpin RoundTrip.loadgraph RoundTrip.launch RoundTrip.cancel RoundTrip.snapshot RoundTrip.partnerShardReceive
    RoundTrip.restore RoundTrip.resetContext RoundTrip.resetModule RoundTrip.attest RoundTrip.stopat RoundTrip.stopTick
    RoundTrip.powerOn RoundTrip.hostLinkDown RoundTrip.hostLinkUp RoundTrip.memoryPortLinkDown RoundTrip.memoryPortLinkUp
    RoundTrip.expanderLost RoundTrip.expanderPoison RoundTrip.correctedError RoundTrip.uncorrectableError
    RoundTrip.channelRemapDone RoundTrip.thermalThrottle RoundTrip.thermalShutdown RoundTrip.walkerWindow RoundTrip.badcode
    RoundTrip.arbiterAnswersNothing RoundTrip.effectivePriorityReaches3 RoundTrip.pseqAcknowledged RoundTrip.partnerSlotRead
    RoundTrip.timestampedProbe RoundTrip.uetRetransmit RoundTrip.cxlCacheSnoop

/-- Settles O59: every form is read back from its own words, and decoding reads no further. -/
theorem encodeDecodeAgree : Obligations.EncodeDecodeAgree := by
  unfold Obligations.EncodeDecodeAgree
  intro i words rest hwf henc
  exact decode_append (roundTrip i hwf words henc) rest

/-- Settles O57: each word's fields name one cell of the decoder. -/
theorem wordsDecode : Obligations.WordsDecode := by
  unfold Obligations.WordsDecode
  and_intros <;> rfl

end Sys2Proof.Laws
end

section
/-! PROOFS. Forms of the ALU with one register, bit fields and selection: what each computes, as a number or a bit vector. -/

namespace Sys2Proof.Machine

/-! ## Counts of bits (R169) -/

theorem clzNat_zero (w : Nat) : clzNat w 0 = w := rfl

section nonzero
variable {w x : Nat} (h0 : x ≠ 0) (hx : x < 2 ^ w)
include h0 hx

/-- The leading zeros stand above the highest one. -/
theorem clzNat_log2 : clzNat w x + x.log2 + 1 = w := by
  have hlog : x.log2 < w := (Nat.log2_lt h0).mpr hx
  rw [clzNat, if_neg h0]
  omega

theorem testBit_ctzNat : x.testBit (ctzNat w x) = true ∧ ctzNat w x < w := by
  induction w generalizing x with
  | zero => exact absurd (Nat.lt_one_iff.mp hx) h0
  | succ w ih =>
    rw [ctzNat]
    split
    · next hodd => exact ⟨by simpa using hodd, Nat.succ_pos w⟩
    · next heven =>
      obtain ⟨hbit, hlt⟩ := ih (x := x / 2) (by omega) (by omega)
      rw [Nat.add_comm, Nat.testBit_succ]
      exact ⟨hbit, Nat.succ_lt_succ hlt⟩

end nonzero

/-- A number lies between the powers of two that its leading zeros tell. -/
theorem clzNat_bounds {w x : Nat} (hx : x < 2 ^ w) :
    clzNat w x ≤ w ∧ x < 2 ^ (w - clzNat w x) ∧ (x ≠ 0 → 2 ^ (w - 1 - clzNat w x) ≤ x ∧ clzNat w x < w) := by
  by_cases h0 : x = 0
  · subst h0
    exact ⟨Nat.le_refl w, by simp [clzNat_zero], fun h => absurd rfl h⟩
  · have hsum := clzNat_log2 h0 hx
    have htop : w - clzNat w x = x.log2 + 1 := by omega
    have hlow : w - 1 - clzNat w x = x.log2 := by omega
    rw [htop, hlow]
    exact ⟨by omega, Nat.lt_log2_self, fun _ => ⟨Nat.log2_self_le h0, by omega⟩⟩

/-- The trailing zeros are zeros. -/
theorem ctzNat_zeros (w x : Nat) : ctzNat w x ≤ w ∧ x % 2 ^ ctzNat w x = 0 := by
  induction w generalizing x with
  | zero => exact ⟨Nat.le_refl 0, Nat.mod_one x⟩
  | succ w ih =>
    rw [ctzNat]
    split
    · exact ⟨Nat.zero_le _, Nat.mod_one x⟩
    · next heven =>
      obtain ⟨hle, hzero⟩ := ih (x / 2)
      refine ⟨by omega, ?_⟩
      rw [Nat.pow_add, Nat.pow_one, Nat.mod_mul, hzero]
      omega

/-! ## Fields of a word (R6, R169, R172) -/

theorem ofNat_field {m : Nat} (n : Nat) (x : BitVec m) (pos : Nat) : BitVec.ofNat n (x.toNat / 2 ^ pos) = (x >>> pos).truncate n := by
  rw [← Nat.shiftRight_eq_div_pow, ← BitVec.toNat_ushiftRight, BitVec.ofNat_toNat]

/-- The signed reading of the low n bits of a number, as a word. -/
theorem ofInt_sx (x : Nat) {n : Nat} (hn : 0 < n) : BitVec.ofInt 64 (sx x n) = (BitVec.ofNat n x).signExtend 64 := by
  rw [sx_toInt x n hn]
  rfl

theorem sextW_eq (x : Word) (n : Nat) : sextW x (n + 1) = (x.truncate (n + 1)).signExtend 64 := by
  rw [sextW, ofInt_sx _ n.succ_pos, BitVec.ofNat_toNat]

theorem zextW_eq (x : Word) (n : Nat) : zextW x n = (x.truncate n).zeroExtend 64 := by
  apply BitVec.eq_of_toNat_eq
  simp [zextW]

theorem bfxW_eq (x : Word) (n pos : Nat) : bfxW x (n + 1) pos = ((x >>> pos).truncate (n + 1)).signExtend 64 := by
  rw [bfxW, ofInt_sx _ n.succ_pos, ofNat_field]

theorem bfxuW_eq (x : Word) (n pos : Nat) : bfxuW x n pos = ((x >>> pos).truncate n).zeroExtend 64 := by
  rw [← ofNat_field]
  apply BitVec.eq_of_toNat_eq
  simp [bfxuW]

/-- The mask of a field. -/
theorem getLsbD_fieldMask (n pos : Nat) {i : Nat} (hi : i < 64) :
    (BitVec.ofNat 64 ((2 ^ n - 1) * 2 ^ pos)).getLsbD i = decide (pos ≤ i ∧ i < pos + n) := by
  rw [BitVec.getLsbD_ofNat, Nat.testBit_mul_two_pow, Nat.testBit_two_pow_sub_one, Bool.eq_iff_iff]
  simp only [hi, decide_true, true_and, Bool.and_eq_true, decide_eq_true_eq]
  omega

/-- BFI takes the bits of the field from a and the others from d. -/
theorem getLsbD_bfiW (old a : Word) (n pos : Nat) {i : Nat} (hi : i < 64) :
    (bfiW old a n pos).getLsbD i = if pos ≤ i ∧ i < pos + n then a.getLsbD (i - pos) else old.getLsbD i := by
  unfold bfiW
  simp only [BitVec.getLsbD_or, BitVec.getLsbD_and, BitVec.getLsbD_not, BitVec.getLsbD_shiftLeft, getLsbD_fieldMask n pos hi, hi]
  split
  · next hin => simp [hin]
  · next hout => simp [hout]

/-! ## Results -/

/-- An instruction that puts a value of its core into a register and ll when it is ready completes with it. -/
theorem State.ready.results {s : State} {i : Instr} {fields reads : List Reg} {masks : List Nat} {d : Nat} {v : Core → Word}
    (h : s.ready fields reads masks)
    (hi : exec i s = s.issue fields reads masks fun n c => (s.writeRes n d (v c)).advance n 1) : s.results i d (v s.here) :=
  ⟨_, hi.trans h.acts, wrote_writeRes s d _⟩

/-- Settles O2: each form is `alu1` of its function, and the counts are those of any width. -/
theorem unaryResults : Obligations.UnaryResults := by
  unfold Obligations.UnaryResults
  constructor
  · intro s d a w i h x k
    have result {j : Instr} (f : Word → Word) (hj : exec j s = alu1 f d a s) : s.results j k (f x) := State.results_alu1 f h hj
    rw [← sextW_eq, ← zextW_eq]
    exact ⟨result id rfl, result clzW rfl, result ctzW rfl, result popcW rfl, result (sextW · (w.toNat + 1)) rfl,
      result (zextW · (w.toNat + 1)) rfl, result (· + imm14 i) rfl, result (· &&& uimm14 i) rfl, result (· ||| uimm14 i) rfl,
      result (· ^^^ uimm14 i) rfl, result (· <<< w.toNat) rfl, result (· >>> w.toNat) rfl, result (·.sshiftRight w.toNat) rfl⟩
  · intro w x hx
    obtain ⟨hclz, htop, hlow⟩ := clzNat_bounds hx
    obtain ⟨hctz, hzeros⟩ := ctzNat_zeros w x
    exact ⟨hclz, htop, hlow, hctz, hzeros, fun h0 => testBit_ctzNat h0 hx, popcNat_eq w x⟩

/-- Settles O3: extraction is `alu1` of a field read as a number, BFI's bits are chosen by the field's mask, and SEL chooses a word. -/
theorem bitFieldsAndSel : Obligations.BitFieldsAndSel := by
  unfold Obligations.BitFieldsAndSel
  constructor
  · intro s d a w pos h x f
    have ha : s.ready [d, a] [a] [] := h.mono (fun _ => id) (fun _ => List.mem_cons_of_mem d) (fun _ => id)
    refine ⟨?bfx, ?bfxu, bfiW (s.here.reg d.toNat) x (w.toNat + 1) pos.toNat, ?bfi, fun i hi => ?bits⟩
    case bfx =>
      rw [← bfxW_eq]
      exact State.results_alu1 (bfxW · (w.toNat + 1) pos.toNat) ha rfl
    case bfxu =>
      rw [← bfxuW_eq]
      exact State.results_alu1 (bfxuW · (w.toNat + 1) pos.toNat) ha rfl
    case bfi => exact h.results (v := fun c => bfiW (c.reg d.toNat) (c.reg a.toNat) (w.toNat + 1) pos.toNat) rfl
    case bits =>
      rw [getLsbD_bfiW _ _ _ _ hi]
      simp only [← Nat.add_assoc, Nat.lt_succ_iff]
  · intro s d a b p h
    exact h.results (v := fun c => if c.predField p then c.reg a.toNat else c.reg b.toNat) rfl

end Sys2Proof.Machine
end

section
/-! PROOFS. Constants and special registers, traps, and the MARK record of TRACE.S. -/

namespace Sys2Proof.Machine

/-! ## Special registers (R187, R192, R193) -/

/-- CAUSE: HM, then the class and the code. -/
theorem Core.causeReg_eq (c : Core) : c.causeReg = BitVec.ofBool c.hm ++ 0#39 ++ c.cls ++ c.code := by
  apply BitVec.eq_of_toNat_eq
  have hhm := Bool.toNat_lt c.hm
  have hcls := c.cls.isLt
  have hcode := c.code.isLt
  simp only [Core.causeReg, causeWord, append_toNat, BitVec.toNat_ofBool, BitVec.toNat_ofNat]
  omega

/-- FSTAT: the flags of the load above those of the core. -/
theorem Core.fstat_eq (c : Core) : c.fstat = 0#50 ++ c.lflags ++ 0#2 ++ c.flags := by
  apply BitVec.eq_of_toNat_eq
  have hlflags := c.lflags.isLt
  have hflags := c.flags.isLt
  simp only [Core.fstat, append_toNat, BitVec.toNat_ofNat]
  omega

/-- MFS puts a special register that exists into d. -/
theorem State.ready.puts_mfs {s : State} {d : Reg} (h : s.ready [d] [] []) (num : BitVec 6) (hnum : num.toNat < 11) :
    s.puts (.mfs d num) d.toNat (s.specialReg s.cur num.toNat) (s.here.soff + 1) := by
  refine ⟨_, ?_, (wrote_writeReg s d.toNat _).next (by simp) 1⟩
  show execMfs d num s = _
  rw [execMfs, h.acts, if_neg (Nat.not_le.mpr hnum)]

/-! ## Traps (R184, R185) -/

/-- Outside the handler, with one to enter, an exception enters it. -/
theorem State.exception_enters {s : State} {n : Nat} (hhm : (s.core n).hm = false) (hhandler : (s.core n).handler ≠ 0#64)
    (epc : BitVec 32) (cls : BitVec 8) (code : BitVec 16) (opc : Nat) :
    s.exception n epc cls code false opc = s.setCore n ((s.core n).enterHandler epc cls code) := by
  simp [State.exception, hhm, hhandler]

/-- Settles O9: TRAP is the exception of class 0 after its own word, and ERET leaves the handler. -/
theorem trapsAndReturns : Obligations.TrapsAndReturns := by
  unfold Obligations.TrapsAndReturns
  constructor
  · intro s code h hhm hhandler
    show execTrap code s = _
    rw [execTrap, h.acts, hhm, if_neg Bool.false_ne_true, State.exception_enters hhm hhandler]
    rfl
  · intro s h hhm
    show execEret s = _
    rw [execEret, h.acts, if_pos hhm]
    rfl

/-! ## Bytes that the device writes (R414) -/

/-- An agent without a core writes the bytes of a part of a sector at their homes. -/
theorem State.storeBytes_device {s : State} {va va0 len : Nat} {pol : BitVec 2} {es : List (Nat × Byte)} (hlen : len < 128)
    (hblocked : ∀ e ∈ es, ∀ a, s.blocked a e.1 = none) : ∃ t, s.storeBytes none pol va0 len va es = .ok t ∧ AtHome s t es := by
  induction es generalizing s va with
  | nil => exact ⟨s, rfl, rfl, rfl⟩
  | cons e es ih =>
    obtain ⟨pa, v⟩ := e
    obtain ⟨t, ht⟩ := State.homeWrite_ok s pol va pa v false (hblocked _ List.mem_cons_self va)
    obtain ⟨hmem, hrest⟩ := State.homeWrite_part ht
    obtain ⟨u, hu, htu⟩ := ih (s := t) (va := va + 1) fun x hx a =>
      (State.homeWrite_blocked ht a x.1).trans (hblocked x (List.mem_cons_of_mem _ hx) a)
    refine ⟨u, ?_, AtHome.cons ⟨hmem, hrest⟩ htu⟩
    have hbyte : s.storeByte none pol va pa v false false = .ok t := by
      unfold State.storeByte State.settleFor
      simp only [Option.bind_none, ite_self, ht]
      rfl
    unfold State.storeBytes
    rw [coversSector_short hlen, hbyte]
    exact hu

theorem State.blocked_uncopied {s : State} {pa : Nat} (h : s.linkFault pa = none) (va : Nat) : s.uncopied.blocked va pa = none := by
  have hlink : s.uncopied.linkFault pa = none := h
  have hcopy : s.uncopied.copying pa = false := by simp [State.copying, State.uncopied, SMap.get]
  exact State.blocked_none hcopy hlink va

/-- The device writes bytes that translate and can be reached. -/
theorem State.devWrite_home {s : State} {k va : Nat} {bs : List Byte} {pas : List Nat} (hlen : bs.length < 128)
    (htr : translateRange (s.pages k) va Need.write bs.length = .ok pas) (hreach : ∀ p ∈ pas, s.linkFault p = none) :
    ∃ t, s.devWrite k va bs = some t ∧ AtHome s t (pas.zip bs) := by
  obtain ⟨t, ht, hhome⟩ := State.storeBytes_device (s := s.uncopied) (va := va) (va0 := va) (pol := 1#2) (es := pas.zip bs) hlen
    fun e he a => State.blocked_uncopied (hreach _ (List.of_mem_zip he).1) a
  refine ⟨{ t with channels := s.channels }, ?_, hhome.mem, ?_⟩
  · unfold State.devWrite
    rw [htr]
    dsimp only
    rw [ht]
  · exact congrArg (fun u : State => { u with channels := s.channels }) hhome.rest

/-- Bytes written at places that are all different read back. -/
theorem AtHome.read {s t : State} {pas : List Nat} {bs : List Byte} (h : AtHome s t (pas.zip bs)) (hlen : pas.length = bs.length)
    (hnodup : pas.Nodup) : pas.map t.mem.read = bs := by
  refine List.ext_getElem (by simpa using hlen) fun i hi hib => ?_
  have hip : i < pas.length := by simpa using hi
  have hlast : ∀ j < pas.length, i < j → pas[j]? ≠ pas[i]? := fun j hj hij he =>
    Nat.ne_of_gt hij ((List.getElem?_inj hj hnodup).mp he)
  have hread := (stored_writeAll hlen h.mem).inside i hip hlast
  rw [List.getD_eq_getElem _ _ hip, List.getElem?_eq_getElem hib] at hread
  simpa using hread

/-! ## The MARK record (R415–R417) -/

theorem agentWord_core (n : Nat) : agentWord 0 n 0 = n % 256 * 65536 := by simp [agentWord]

/-- The bytes of the MARK record of a core, under a header. -/
def State.markBytes (s : State) (n : Nat) (h : TraceHdr) (v : BitVec 16) : List Byte :=
  leBytes 8 s.gtc.toNat ++ leBytes 8 s.tkoff.toNat ++ leBytes 4 (n % 256 * 65536) ++ leBytes 2 1 ++ leBytes 1 ((s.core n).ctx % 4) ++
    leBytes 1 0 ++ leBytes 8 (s.core n).pc.toNat ++ leBytes 4 (s.core n).soff.toNat ++ leBytes 4 (s.core n).fab.imgId.toNat ++
    leBytes 8 v.toNat ++ leBytes 8 0 ++ leBytes 8 h.head

theorem State.markBytes_length (s : State) (n : Nat) (h : TraceHdr) (v : BitVec 16) : (s.markBytes n h v).length = 64 := by
  simp [State.markBytes]

/-- Outside replay a MARK record is written where ENABLE names it. -/
theorem TraceHdr.wants_mark (h : TraceHdr) : h.wants 1 = (h.enable.testBit 1 && decide (h.mode ≠ 2)) := by
  unfold TraceHdr.wants
  by_cases hm : h.mode = 2 <;> simp [hm]

/-- A mark that is not traced writes nothing. -/
theorem State.traceCore_untraced {s : State} {n : Nat} (h : s.traceOn (s.core n).ctx 1 = false ∨ s.traceMode (s.core n).ctx = 2)
    (d0 d1 soff : Nat) : s.traceCore n 1 d0 d1 soff = s := by
  unfold State.traceCore State.trace
  unfold State.traceOn State.traceMode at h
  dsimp only
  split
  · rfl
  · next hdr hhdr =>
    have hwants : hdr.wants 1 = false := by
      rw [TraceHdr.wants_mark]
      rw [hhdr] at h
      rcases h with h | h
      · simp [show hdr.enable.testBit 1 = false from h]
      · simp [show hdr.mode = 2 from h]
    rw [hwants]
    rfl

/-- The header's field is written, and nothing but memory and the kept bytes of host memory may differ. -/
theorem State.traceField_frame (s : State) (pa n v : Nat) : { s.traceField pa n v with mem := s.mem, hostOld := s.hostOld } = s := by
  obtain ⟨l, hl⟩ := s.keepHosts_eq pa n
  rw [State.traceField, hl]

/-- A traced mark: its record, then the header's HEAD. -/
theorem State.traceCore_mark {s : State} {n : Nat} {h : TraceHdr} {pas : List Nat}
    (hhdr : s.traceHdr (s.core n).ctx = some h) (hen : h.enable.testBit 1 = true)
    (hmode : h.mode ≠ 2) (hroom : h.mode = 1 → h.head - h.cons < 16383)
    (htr : translateRange (s.pages (s.core n).ctx) (h.va + 64 + 64 * (h.head % 16383)) Need.write 64 = .ok pas)
    (hreach : ∀ p ∈ pas, s.linkFault p = none) (v : BitVec 16) :
    ∃ t, s.traceCore n 1 v.toNat 0 (s.core n).soff.toNat = t.traceField (h.pa + 8) 8 (h.head + 1) ∧
      AtHome s t (pas.zip (s.markBytes n h v)) := by
  have hlen := s.markBytes_length n h v
  obtain ⟨t, ht, hhome⟩ := State.devWrite_home (bs := s.markBytes n h v) (by omega) (by rw [hlen]; exact htr) hreach
  refine ⟨t, ?_, hhome⟩
  have hwants : h.wants 1 = true := by simp [TraceHdr.wants_mark, hen, hmode]
  have hfull : ¬(h.mode = 1 ∧ traceSlots ≤ h.head - h.cons) := fun hf => Nat.not_le.mpr (hroom hf.1) hf.2
  simp only [State.traceCore, State.trace, agentWord_core, hhdr, hwants, hfull, Bool.not_true, Bool.false_eq_true, if_false]
  exact ht ▸ rfl

/-- What stands after bytes at places apart from the header's HEAD, and then HEAD. -/
theorem AtHome.traceHead {s t : State} {pas : List Nat} {bs : List Byte} (hhome : AtHome s t (pas.zip bs))
    (hlen : pas.length = bs.length) (hnodup : pas.Nodup) {pa : Nat} (hapart : ∀ p ∈ pas, ¬(pa ≤ p ∧ p < pa + 8)) (v : Nat) :
    pas.map (t.traceField pa 8 v).mem.read = bs ∧ (t.traceField pa 8 v).mem.readNat pa 8 = v % 2 ^ 64 ∧
      (∀ p, p ∉ pas → ¬(pa ≤ p ∧ p < pa + 8) → (t.traceField pa 8 v).mem.read p = s.mem.read p) ∧
      { t.traceField pa 8 v with mem := s.mem, hostOld := s.hostOld } = s := by
  have hother (p : Nat) (hp : ¬(pa ≤ p ∧ p < pa + 8)) : (t.traceField pa 8 v).mem.read p = t.mem.read p :=
    Memory.read_writeBytes_other t.mem _ (by rw [leBytes_length]; omega)
  refine ⟨?_, Memory.readNat_writeNat_same .., fun p hp hhead => ?_, ?_⟩
  · rw [List.map_congr_left fun p hp => hother p (hapart p hp)]
    exact hhome.read hlen hnodup
  · rw [hother p hhead]
    exact (stored_writeAll hlen hhome.mem).outside p hp
  · calc { t.traceField pa 8 v with mem := s.mem, hostOld := s.hostOld }
      _ = { { t.traceField pa 8 v with mem := t.mem, hostOld := t.hostOld } with mem := s.mem, hostOld := s.hostOld } := rfl
      _ = { t with mem := s.mem, hostOld := s.hostOld } := by rw [State.traceField_frame]
      _ = s := hhome.rest

/-! ## The statement -/

/-- Settles O4: LI and LUI are `alu0` of their constants, MFS and MTS are read off the registers' layouts, and a traced mark is one
record of the device and one field of the ring's header. -/
theorem specialRegisters : Obligations.SpecialRegisters := by
  unfold Obligations.SpecialRegisters
  refine ⟨?reads, ?writes, ?mark⟩
  case reads =>
    intro s d i h c mfs
    have hmfs (num : BitVec 6) (hnum : num.toNat < 11) : mfs num (s.specialReg s.cur num.toNat) := h.puts_mfs num hnum
    have hlui : imm20 i <<< 14 = i.signExtend 64 * BitVec.ofNat 64 (2 ^ 14) := BitVec.shiftLeft_eq_mul_twoPow ..
    rw [← Core.causeReg_eq, ← Core.fstat_eq, ← hlui]
    exact ⟨State.results_alu0 (imm20 i) h rfl, State.results_alu0 (imm20 i <<< 14) h rfl, hmfs 0 (by decide), hmfs 1 (by decide),
      hmfs 2 (by decide), hmfs 3 (by decide), hmfs 4 (by decide), hmfs 5 (by decide), hmfs 6 (by decide), hmfs 7 (by decide),
      hmfs 8 (by decide), hmfs 9 (by decide), hmfs 10 (by decide)⟩
  case writes =>
    intro s a h v on
    have hepc : BitVec.ofNat 32 v.toNat = v.truncate 32 := BitVec.ofNat_toNat 32 v
    have hcause : s.here.setCause v = { s.here with code := v.truncate 16, cls := (v >>> 16).truncate 8 } := by
      rw [Core.setCause, BitVec.ofNat_toNat, show 65536 = 2 ^ 16 from rfl, ofNat_field]
    have hfstat : s.here.setFstat v = { s.here with flags := v.truncate 6, lflags := (v >>> 8).truncate 6 } := by
      rw [Core.setFstat, BitVec.ofNat_toNat, show 256 = 2 ^ 8 from rfl, ofNat_field]
    have hmts (num : BitVec 6) : exec (.mts a num) s = execMts a num s := rfl
    refine ⟨?epc, ?cause, ?fstat⟩
    all_goals rw [hmts, execMts, h.acts]
    case epc =>
      rw [← hepc]
      rfl
    case cause =>
      show Host.Outcome.next (s.setCore s.cur ((s.here.setCause v).next 1)) = _
      rw [hcause]
      rfl
    case fstat =>
      show Host.Outcome.next (s.setCore s.cur ((s.here.setFstat v).next 1)) = _
      rw [hfstat]
      rfl
  case mark =>
    intro s v h c
    have hacts : exec (.traceS v) s = .next ((s.traceCore s.cur 1 v.toNat 0 (s.core s.cur).soff.toNat).advance s.cur 1) := by
      show execTraceS v s = _
      rw [execTraceS, h.acts]
      rfl
    refine ⟨fun hoff => ?untraced, fun hdr pas hhdr hen hmode hroom htr hnodup hplaces => ?traced⟩
    case untraced =>
      rw [hacts, State.traceCore_untraced hoff]
      rfl
    case traced =>
      obtain ⟨t, ht, hhome⟩ := State.traceCore_mark (n := s.cur) hhdr hen hmode hroom htr (fun p hp => (hplaces p hp).1) v
      rw [ht] at hacts
      have hlen : pas.length = (s.markBytes s.cur hdr v).length := by
        rw [s.markBytes_length, translateRange_length htr]
      obtain ⟨hrecord, hhead, hother, hframe⟩ := hhome.traceHead hlen hnodup (fun p hp => (hplaces p hp).2) (hdr.head + 1)
      generalize t.traceField (hdr.pa + 8) 8 (hdr.head + 1) = u at hacts hrecord hhead hother hframe
      exact ⟨_, hacts, hrecord, hhead, hother, congrArg (fun u : State => u.advance s.cur 1) hframe⟩

end Sys2Proof.Machine
end

section
/-! PROOFS. The issue of stores and of indexed accesses: each form makes its request. -/

namespace Sys2Proof.Machine

theorem storeReq_counted (pol : BitVec 2) (v ea : Word) (size opc : Nat) : (storeReq pol v ea size opc).counted := ⟨rfl, rfl⟩

/-- ST of any size and policy. -/
theorem State.ready.sends_store {s : State} {i : Instr} {v a : Reg} {o : BitVec 14} {n opc : Nat} {pol : BitVec 2}
    (h : s.ready [v, a] [v, a] []) (hfree : s.freeToIssue false true) (hi : exec i s = stForm n pol opc v a o s) (pas : List Nat)
    (hea : (eaMem (s.here.reg a.toNat) o n).toNat < 2 ^ 56)
    (htr : translateRange (s.pages s.here.ctx) (eaMem (s.here.reg a.toNat) o n).toNat Need.write n = .ok pas) :
    s.sends i (s.here.fresh .store (eaMem (s.here.reg a.toNat) o n) pas pol 57 ((s.here.reg v.toNat).zeroExtend 256) 0 none
      (BitVec.ofNat 8 opc)) false :=
  h.sends (r := storeReq pol (s.here.reg v.toNat) (eaMem (s.here.reg a.toNat) o n) n opc) hi rfl (storeReq_counted ..) hfree hea nofun
    htr

/-- MEMX loads, of either extension. -/
theorem State.ready.sends_memxLoad {s : State} {i : Instr} {d a b : Reg} {sz pol : BitVec 2} {c : BitVec 1} {signed : Bool}
    (h : s.ready [d, a, b] [a, b] []) (hfree : s.freeToIssue true false) (hi : exec i s = memxLoad signed d a b sz pol c s)
    (pas : List Nat) (hea : (eaMemx (s.here.reg a.toNat) (s.here.reg b.toNat) (sizeOf sz) c).toNat < 2 ^ 56)
    (htr : translateRange (s.pages s.here.ctx) (eaMemx (s.here.reg a.toNat) (s.here.reg b.toNat) (sizeOf sz) c).toNat Need.read
      (sizeOf sz) = .ok pas) :
    s.sends i (s.here.fresh (.load signed) (eaMemx (s.here.reg a.toNat) (s.here.reg b.toNat) (sizeOf sz) c) pas pol d.toNat 0 0 none 2)
      false :=
  h.sends (r := loadReq signed pol d (eaMemx (s.here.reg a.toNat) (s.here.reg b.toNat) (sizeOf sz) c) (sizeOf sz) 2) hi rfl
    (loadReq_counted ..) hfree hea nofun htr

/-- Settles O14: every form makes the request of its size, policy and opcode, at its own address. -/
theorem storesAndIndexedIssue : Obligations.StoresAndIndexedIssue := by
  unfold Obligations.StoresAndIndexedIssue
  constructor
  · intro s v a o h hfree sends
    refine ⟨?_, ?_, ?_, ?_, ?_, ?_, ?_, ?_, ?_, ?_, ?_, ?_⟩ <;>
      exact h.sends_store hfree rfl
  · intro s d a b sz pol c pas n ea hea
    refine ⟨fun h hfree htr => ⟨?ld, ?lds⟩, fun h hfree htr => ?st⟩
    case ld => exact h.sends_memxLoad hfree rfl pas hea htr
    case lds => exact h.sends_memxLoad hfree rfl pas hea htr
    case st =>
      have hi : exec (.memxSt d a b sz pol c) s = execMemxSt d a b sz pol c s := rfl
      exact h.sends (r := storeReq pol (s.here.reg d.toNat) ea n 2) hi rfl (storeReq_counted ..) hfree hea nofun htr

end Sys2Proof.Machine
end

section
/-! PROOFS. The ALU forms of two registers, the compares, the predicate operations and the bits of tile masks. -/

namespace Sys2Proof.Machine

/-! ## Results in the words of the rules (R151, R170) -/

/-- The remainder is what the truncated quotient leaves. -/
theorem remW_eq (x y : Word) : remW x y = if y = 0#64 then x else BitVec.ofInt 64 (x.toInt - y.toInt * x.toInt.tdiv y.toInt) := by
  rw [remW, Int.tmod_def]

theorem remuW_eq (x y : Word) :
    remuW x y = if y = 0#64 then x else BitVec.ofNat 64 (x.toNat - y.toNat * (x.toNat / y.toNat)) := by
  rw [remuW, Nat.mod_eq_sub]

theorem minW_eq (x y : Word) : minW x y = if y.toInt < x.toInt then y else x := by
  simp only [minW, ← not_lt, ite_not]

theorem minuW_eq (x y : Word) : minuW x y = if y.toNat < x.toNat then y else x := by
  simp only [minuW, ← not_lt, ite_not]

/-- The greater of two words under an order that tells words apart; of equal ones it is either. -/
theorem ite_le_eq_ite_lt {α : Type} [LinearOrder α] {f : Word → α} (hf : Function.Injective f) (x y : Word) :
    (if f x ≤ f y then y else x) = if f x < f y then y else x := by
  by_cases heq : f x = f y
  · rw [hf heq]
    simp
  · simp only [lt_iff_le_and_ne, ne_eq, heq, not_false_eq_true, and_true]

theorem maxW_eq (x y : Word) : maxW x y = if x.toInt < y.toInt then y else x :=
  ite_le_eq_ite_lt (fun _ _ => BitVec.toInt_inj.mp) x y

theorem maxuW_eq (x y : Word) : maxuW x y = if x.toNat < y.toNat then y else x :=
  ite_le_eq_ite_lt (fun _ _ => BitVec.toNat_inj.mp) x y

theorem leaW_one (x y : Word) : leaW 1 x y = x + y := by
  rw [leaW, BitVec.mul_one]

/-- Settles O1: each form is `alu2` of its function. -/
theorem aluResults : Obligations.AluResults := by
  unfold Obligations.AluResults
  intro s d a b h x y k
  have result {i : Instr} (f : Word → Word → Word) (hi : exec i s = alu2 f d a b s) : s.results i k (f x y) :=
    State.results_alu2 f h hi
  rw [← remW_eq, ← remuW_eq, ← minW_eq, ← maxW_eq, ← minuW_eq, ← maxuW_eq]
  have hleaX1 : s.results (.leaX1 d a b) k (x + y) := leaW_one x y ▸ result (leaW 1) rfl
  exact ⟨result (· + ·) rfl, result (· - ·) rfl, result (· * ·) rfl, result mulhW rfl, result mulhuW rfl, result divW rfl,
    result divuW rfl, result remW rfl, result remuW rfl, result (· &&& ·) rfl, result (· ||| ·) rfl, result (· ^^^ ·) rfl,
    result (fun x y => x &&& ~~~y) rfl, result (fun x y => x <<< shamt y) rfl, result (fun x y => x >>> shamt y) rfl,
    result (fun x y => x.sshiftRight (shamt y)) rfl, result minW rfl, result maxW rfl, result minuW rfl, result maxuW rfl,
    hleaX1, result (leaW 2) rfl, result (leaW 4) rfl, result (leaW 8) rfl⟩

/-! ## Compares and predicate operations (R173, R174) -/

/-- Settles O5: each form is `cmp2` or `cmp1` of its condition code. -/
theorem compares : Obligations.Compares := by
  unfold Obligations.Compares
  intro s p a b i h x y z k
  have ha : s.ready [a] [a] [] := h.mono (by simp) (by simp) (fun _ => id)
  have registers {j : Instr} (cc : Nat) (hj : exec j s = cmp2 cc p a b s) : s.decides j k (condHolds cc x y) :=
    State.decides_cmp2 cc h hj
  have immediate {j : Instr} (cc : Nat) (hj : exec j s = cmp1 cc p a i s) : s.decides j k (condHolds cc x z) :=
    State.decides_cmp1 cc ha hj
  exact ⟨registers 0 rfl, registers 1 rfl, registers 2 rfl, registers 3 rfl, registers 4 rfl, registers 5 rfl,
    immediate 0 rfl, immediate 1 rfl, immediate 2 rfl, immediate 3 rfl, immediate 4 rfl, immediate 5 rfl⟩

/-- An instruction that puts a condition of its core into a predicate and ll when it is ready completes with it. -/
theorem State.ready.decides {s : State} {i : Instr} {fields reads : List Reg} {masks : List Nat} {p : Nat} {b : Core → Bool}
    (h : s.ready fields reads masks) (hp : p < 16)
    (hi : exec i s = s.issue fields reads masks fun n c => (s.writePred n p (b c)).advance n 1) : s.decides i p (b s.here) :=
  ⟨_, hi.trans h.acts, wrotePred_writePred s p _ hp⟩

/-- A predicate operation completes with its result, complemented by the destination's negate bit. -/
theorem State.ready.decides_predOp {s : State} {i : Instr} {d a b : PredField} (f : Bool → Bool → Bool) (h : s.ready [] [] [])
    (hi : exec i s = predOp f d a b s) :
    s.decides i (d.toNat % 16) (f (s.here.predField a) (s.here.predField b) != d.getLsbD 4) :=
  h.decides (b := fun c => f (c.predField a) (c.predField b) != d.getLsbD 4) (Nat.mod_lt _ (by decide)) hi

/-! ## Bits of tile masks (R147, R194) -/

theorem State.core_writeMask_other (s : State) (n m : Nat) (v : BitVec 256) {k : Nat} (h : k ≠ n) :
    (s.writeMask n m v).core k = s.core k := by
  unfold State.writeMask
  split
  · rfl
  · exact State.core_setCore_other _ _ _ _ h

@[simp] theorem State.writeMask_cur (s : State) (n m : Nat) (v : BitVec 256) : (s.writeMask n m v).cur = s.cur := by
  unfold State.writeMask
  split <;> rfl

theorem State.soff_writeMask (s : State) (n m : Nat) (v : BitVec 256) : ((s.writeMask n m v).core n).soff = (s.core n).soff := by
  unfold State.writeMask
  split
  · rfl
  · rw [State.updCore, State.core_setCore_same]

/-- A mask write leaves everything but its core. -/
theorem State.writeMask_frame (s : State) (n m : Nat) (v : BitVec 256) : { s.writeMask n m v with cores := s.cores } = s := by
  unfold State.writeMask
  split <;> rfl

/-- A write to a mask in which no value is still to arrive leaves everything of its core but its masks. -/
theorem State.core_writeMask {s : State} {n m : Nat} (h : s.maskPending n m = false) (v : BitVec 256) :
    { (s.writeMask n m v).core n with masks := (s.core n).masks } = s.core n := by
  unfold State.writeMask
  split
  · rfl
  · next hm =>
    have hnone : ∀ a ∈ (s.core n).accs, a.targetsMask m = false := by
      simpa [State.maskPending, hm] using h
    have haccs : ((s.core n).accs.map fun a => if a.targetsMask m then { a with dst := 0 } else a) = (s.core n).accs := by
      rw [List.map_congr_left fun a ha => if_neg (Bool.eq_false_iff.mp (hnone a ha)), List.map_id']
    simp [State.updCore, haccs]

theorem State.here_writeMask_advance (s : State) (m : Nat) (v : BitVec 256) :
    ((s.writeMask s.cur m v).advance s.cur 1).here = ((s.writeMask s.cur m v).core s.cur).next 1 := by
  rw [State.here, State.advance_cur, State.writeMask_cur, State.core_advance_same]

/-- What MSET and MCLR write reads back as the same mask with one bit replaced, unless the mask is m0. -/
theorem State.mask_writeMask_setBit (s : State) (n j : Nat) {m : Nat} (hm : m ≠ 0) {i : Nat} (hi : i < 256) (v : Bool) :
    (((s.writeMask n m (setBit ((s.core n).mask m) i v)).core n).mask m).getLsbD j =
      if j = i then v else ((s.core n).mask m).getLsbD j := by
  rw [State.mask_writeMask_same s n m _ hm, setBit_get _ _ _ _ hi]

/-- Settles O6: the predicate operations are `predOp` of their functions, and MSET and MCLR are writes of one mask. -/
theorem predicatesAndMasks : Obligations.PredicatesAndMasks := by
  unfold Obligations.PredicatesAndMasks
  refine ⟨fun s d a b h => ?predicates, fun s a m v h => ?masks⟩
  case predicates =>
    intro x y k z
    have hpnot : (!(x != z)) = ((!x) != z) := (Bool.not_xor x z).symm
    rw [hpnot]
    refine ⟨h.decides_predOp (· && ·) rfl, h.decides_predOp (· || ·) rfl, h.decides_predOp (· != ·) rfl,
      State.ready.decides_predOp (b := 0#5) (fun x _ => !x) h rfl, fun r p m hr => ?_⟩
    exact hr.decides (b := fun c => (c.mask m.toNat).getLsbD ((c.reg r.toNat).toNat % 256)) p.isLt rfl
  case masks =>
    have hexec : exec (if v then .mset a m else .mclr a m) s = maskBit v a m s := by cases v <;> rfl
    have hpending : s.maskPending s.cur m.toNat = false := h.masks _ List.mem_cons_self
    refine ⟨_, hexec.trans h.acts, fun j => ?other, fun hm j _ => ?bit, ?core, ?soff, fun n hn => ?cores, ?rest⟩
    case other =>
      rw [State.here_writeMask_advance, Core.mask_next, Core.mask_next]
      split
      · next hj =>
        rcases hj with rfl | hj
        · rfl
        · exact State.mask_writeMask_other _ _ _ _ _ hj
      · next hj =>
        rw [not_or, not_not] at hj
        rw [hj.2]
    case bit =>
      rw [State.here_writeMask_advance, Core.mask_next]
      exact State.mask_writeMask_setBit s s.cur j (fun h0 => hm (BitVec.eq_of_toNat_eq h0)) (Nat.mod_lt _ (by decide)) v
    case core =>
      rw [State.here_writeMask_advance]
      exact congrArg (fun c : Core => { c with soff := s.here.soff, entry := s.here.entry })
        (State.core_writeMask hpending _)
    case soff =>
      rw [State.here_writeMask_advance]
      exact congrArg (· + 1) (State.soff_writeMask ..)
    case cores =>
      rw [State.core_advance_other _ _ _ _ hn]
      exact State.core_writeMask_other _ _ _ _ hn
    case rest => exact State.writeMask_frame s s.cur m.toNat _

end Sys2Proof.Machine
end

section
/-! PROOFS. Branches, calls, jumps and loops: where they go, what they write, and when they wait. -/

namespace Sys2Proof.Machine

/-! ## Targets (R145, R181, R373) -/

/-- A target waits where it lies inside the stream, off the first word of a group whose fetch waits. -/
theorem State.targetWaits_iff (s : State) (n : Nat) (t : Int) : s.targetWaits n t = true ↔
    0 ≤ t ∧ t < (s.core n).stream.2 ∧ t % 4 ≠ 0 ∧ ∃ e, s.fetchGroup n t.toNat = .error e ∧ e.waits = true := by
  unfold State.targetWaits
  cases hfetch : s.fetchGroup n t.toNat with
  | ok bs => simp
  | error e => simp [and_assoc]

/-- A branch whose target waits has no effect. -/
theorem State.issueTo_waits {s : State} {t : Int} (hi : s.here.issues = true) (hw : s.targetWaits s.cur t = true) (op : Nat)
    (fields reads : List Reg) (k : Nat → Core → State) : s.issueTo t op fields reads k = .next s := by
  have hi : (s.core s.cur).issues = true := hi
  rw [State.issueTo, hi, hw]
  rfl

/-- A ready branch to a target in its stream acts. -/
theorem State.ready.acts_to {s : State} {fields reads : List Reg} {t : Int} (h : s.ready fields reads [])
    (hbad : s.badTarget s.cur t = false) (hwaits : s.targetWaits s.cur t = false) {op : Nat} {k : Nat → Core → State} :
    s.issueTo t op fields reads k = .next (k s.cur s.here) := by
  rw [State.issueTo, hbad, hwaits, Bool.and_false]
  exact h.acts

/-- Going to a word changes nothing else. -/
theorem State.setCore_goto (s : State) (t : Int) : s.setCore s.cur (s.here.goto t) = s.gone (BitVec.ofInt 32 t) := rfl

/-- A ready branch goes to its target or to the next word. -/
theorem State.ready.branches {s : State} {o : BitVec 21} (h : s.ready [] [] [])
    (hbad : s.badTarget s.cur (s.here.soff.toNat + o.toInt) = false)
    (hwaits : s.targetWaits s.cur (s.here.soff.toNat + o.toInt) = false) (take : Core → Bool) :
    branchIf take o s = .next (if take s.here then s.gone (BitVec.ofInt 32 (s.here.soff.toNat + o.toInt))
      else s.gone (s.here.soff + 1)) :=
  h.acts_to hbad hwaits

/-- The negate bit of CALL says for which value of its predicate it is taken. -/
theorem bne_negate_iff (b : Bool) (neg : BitVec 1) : (b != decide (neg = 1#1)) = true ↔ b = decide (neg = 0#1) := by
  revert b neg
  decide

/-- A ready CALL writes the next word into g47 and goes to its target where it is taken, and else goes on. -/
theorem State.ready.calls {s : State} {neg : BitVec 1} {p : PredIdx} {o : BitVec 21} (h : s.ready [] [] [])
    (hbad : s.badTarget s.cur (s.here.soff.toNat + o.toInt) = false)
    (hwaits : s.targetWaits s.cur (s.here.soff.toNat + o.toInt) = false) :
    exec (.call neg p o) s = .next (if s.here.pred p.toNat = decide (neg = 0#1)
      then (s.writeReg s.cur 47 ((s.here.soff + 1).zeroExtend 64)).updCore s.cur (·.goto (s.here.soff.toNat + o.toInt))
      else s.gone (s.here.soff + 1)) := by
  simp only [← bne_negate_iff]
  exact h.acts_to hbad hwaits

/-- A ready LOOP decrements its counter, and goes to its target while that is nonzero. -/
theorem State.ready.loops {s : State} {d : Reg} {i : BitVec 20} (h : s.ready [d] [d] [])
    (hbad : s.badTarget s.cur (s.here.soff.toNat + i.toInt) = false)
    (hwaits : s.targetWaits s.cur (s.here.soff.toNat + i.toInt) = false) :
    exec (.loop d i) s = .next (if s.here.reg d.toNat - 1 = 0#64
      then (s.writeReg s.cur d.toNat (s.here.reg d.toNat - 1)).advance s.cur 1
      else (s.writeReg s.cur d.toNat (s.here.reg d.toNat - 1)).updCore s.cur (·.goto (s.here.soff.toNat + i.toInt))) := by
  rw [← ite_not]
  exact h.acts_to hbad hwaits

/-! ## Jumps to a register (R181) -/

/-- The word a register names. -/
theorem toNat_truncate_word (x : Word) : ((x.truncate 32 : BitVec 32).toNat : Int) = (x.toNat % 2 ^ 32 : Nat) :=
  congrArg Nat.cast (BitVec.toNat_setWidth ..)

/-- A ready jump goes to the word its register names. -/
theorem State.ready.jumps {s : State} {a : Reg} (h : s.ready [a] [a] [])
    (hbad : s.badTarget s.cur ((s.here.reg a.toNat).truncate 32 : BitVec 32).toNat = false)
    (hwaits : s.targetWaits s.cur ((s.here.reg a.toNat).truncate 32 : BitVec 32).toNat = false) :
    jumpReg a s = .next (s.gone ((s.here.reg a.toNat).truncate 32)) := by
  rw [jumpReg, h.acts]
  dsimp only
  rw [← toNat_truncate_word, hbad, hwaits]
  show Host.Outcome.next (s.setCore s.cur (s.here.goto _)) = _
  rw [State.setCore_goto, BitVec.ofInt_natCast, BitVec.ofNat_toNat, BitVec.setWidth_eq]

/-- A ready jump whose target waits has no effect. -/
theorem State.ready.jump_waits {s : State} {a : Reg} (h : s.ready [a] [a] [])
    (hwaits : s.targetWaits s.cur ((s.here.reg a.toNat).truncate 32 : BitVec 32).toNat = true) : jumpReg a s = .next s := by
  rw [jumpReg, h.acts]
  dsimp only
  rw [← toNat_truncate_word, hwaits]
  rfl

/-- RET reads g47, which its encoding does not name. -/
theorem State.ready.names_g47 {s : State} (h : s.ready [] [47#6] []) : s.ready [47#6] [47#6] [] :=
  ⟨h.issues, by decide, h.reads, h.masks⟩

/-! ## The statement -/

/-- Settles O7: the branches are `issueTo` of their target, JR and RET are `jumpReg`, and a target waits as its group does. That
a branch waits while a store to its target's group is half performed, taken or not, is the model's choice (log 60). -/
theorem branchesAndCalls : Obligations.BranchesAndCalls := by
  unfold Obligations.BranchesAndCalls
  refine ⟨?branch, ?call, ?jr, ?ret, ?loop, ?waits, ?jumpWaits, State.targetWaits_iff⟩
  case branch =>
    intro s p o h t hbad hwaits taken fell
    refine ⟨h.branches hbad hwaits (·.pred p.toNat), ?bnp, h.branches hbad hwaits fun _ => true⟩
    have hbnp : exec (.bnp p o) s = _ := h.branches hbad hwaits fun c => !c.pred p.toNat
    simpa only [Bool.not_eq_true', ← Bool.not_eq_true, ite_not] using hbnp
  case call =>
    intro s neg p o h t hbad hwaits
    have hcalls := h.calls (neg := neg) (p := p) hbad hwaits
    split
    · next htaken =>
      rw [if_pos htaken] at hcalls
      exact ⟨_, hcalls, (wrote_writeReg s 47 _).goto (by simp) t⟩
    · next hfell =>
      rw [if_neg hfell] at hcalls
      exact hcalls
  case jr =>
    intro s a h x hbad hwaits
    exact h.jumps hbad hwaits
  case ret =>
    intro s h x hbad hwaits
    exact h.names_g47.jumps hbad hwaits
  case loop =>
    intro s d i h t hbad hwaits n
    have hloops := h.loops hbad hwaits
    split
    · next hzero =>
      rw [if_pos hzero] at hloops
      exact ⟨_, hloops, (wrote_writeReg s d.toNat n).next (by simp) 1⟩
    · next hnonzero =>
      rw [if_neg hnonzero] at hloops
      exact ⟨_, hloops, (wrote_writeReg s d.toNat n).goto (by simp) t⟩
  case waits =>
    intro s p neg d o i hi
    have waits {t : Int} (hw : s.targetWaits s.cur t = true) {op : Nat} {fields reads : List Reg} {k : Nat → Core → State} :
        s.issueTo t op fields reads k = .next s := State.issueTo_waits hi hw op fields reads k
    exact ⟨fun hw => ⟨waits hw, waits hw, waits hw, waits hw⟩, fun hw => waits hw⟩
  case jumpWaits =>
    exact fun s a => ⟨fun h hw => h.jump_waits hw, fun h hw => h.names_g47.jump_waits hw⟩

end Sys2Proof.Machine
end

section
/-! PROOFS. Memory-port elements: a firing whose access is made delivers what the access gives, and the element of an array in memory. -/

namespace Sys2Proof.Machine

/-! ## A firing and its access (R242, R243) -/

section fires
variable {s s1 : State} {n r op : Nat} {c1 : Core} {a b x : BitVec 32} {out : Slot}

/-- The operand that stands in port order: with AUTO it is the first (R242). -/
def memIndex (w : Nat) (port : Port) (a : BitVec 32) : Int := if wAuto w then port.off else a.toInt

/-- Core n may fire the memory-port element at site r on a, b and x: no PLDA of its own is to be issued again, and an AUTO pattern has
positions left (R117, R244, R381). -/
structure State.mayFire (s : State) (n r : Nat) (c1 : Core) (a b x : BitVec 32) : Prop where
  left : wAuto ((s.core n).word r) = true → ((s.core n).port (wImm ((s.core n).word r) % 16)).ended = false
  fresh : ∀ e ∈ (s.core n).again, e.1 ≠ r
  fires : (s.core n).firing r = .fires c1 a b x

/-- A firing whose access is made delivers the slot that the access gives. -/
theorem State.mayFire.fireMem (h : s.mayFire n r c1 a b x) (hsite : s.site n r op)
    (hacc : s.elemAccess n r (memIndex ((s.core n).word r) ((s.core n).port (wImm ((s.core n).word r) % 16)) a)
      (if wAuto ((s.core n).word r) then a else b) x = .done s1 out) :
    s.fireMem n r = s.delivers s1 n r (if wAuto ((s.core n).word r) then c1.stepAuto (wImm ((s.core n).word r) % 16) else c1) out := by
  have hagain : ((s.core n).again.any fun e => decide (e.1 = r)) = false :=
    List.any_eq_false.mpr fun e he => by simpa using h.fresh e he
  have hleft : ¬(wAuto ((s.core n).word r) = true ∧ ((s.core n).port (wImm ((s.core n).word r) % 16)).ended = true) := fun hx => by
    rw [h.left hx.1] at hx
    exact absurd hx.2 Bool.false_ne_true
  unfold State.fireMem
  dsimp only
  rw [if_neg (by simp [hsite.runs, hsite.goes, hagain]), h.fires]
  dsimp only
  rw [if_neg hleft]
  unfold memIndex at hacc
  rw [hacc]
  rfl

/-- The step of a memory-port element whose access is made. -/
theorem State.mayFire.steps (h : s.mayFire n r c1 a b x) (hsite : s.site n r op)
    (hacc : s.elemAccess n r (memIndex ((s.core n).word r) ((s.core n).port (wImm ((s.core n).word r) % 16)) a)
      (if wAuto ((s.core n).word r) then a else b) x = .done s1 out) :
    memStep op n r s =
      .next (s.delivers s1 n r (if wAuto ((s.core n).word r) then c1.stepAuto (wImm ((s.core n).word r) % 16) else c1) out) := by
  rw [Machine.memStep, if_pos hsite.hasOp, h.fireMem hsite hacc]

/-- Only LDA and STA have a pattern of their own. -/
theorem wAuto_of_op {w : Nat} (h : wOp w = 0x72 ∨ wOp w = 0x73 ∨ wOp w = 0x74) : wAuto w = false := by
  rcases h with h | h | h <;> simp [wAuto, h]

/-- The step of an element of the forms without AUTO, whose index is a. -/
theorem State.mayFire.steps_plain (h : s.mayFire n r c1 a b x) (hsite : s.site n r op) (hop : op = 0x72 ∨ op = 0x73 ∨ op = 0x74)
    (hacc : s.elemAccess n r a.toInt b x = .done s1 out) : memStep op n r s = .next (s.delivers s1 n r c1 out) := by
  have hauto : wAuto ((s.core n).word r) = false := wAuto_of_op (hsite.op ▸ hop)
  have hstep := h.steps (s1 := s1) (out := out) hsite
  simp only [memIndex, hauto, Bool.false_eq_true, if_false] at hstep
  exact hstep hacc

end fires

/-! ## The accesses (R127, R242–R244) -/

section accesses
variable {s s1 : State} {n r : Nat} {i : Int} {b x v : BitVec 32}

theorem State.elemAccess_lda (hop : wOp ((s.core n).word r) = 0x70)
    (h : s.readElem n ((s.core n).port (wImm ((s.core n).word r) % 16)) i = .ok (s1, v)) :
    s.elemAccess n r i b x = .done s1 (.tok ⟨0#5, v⟩) := by
  unfold State.elemAccess
  simp only [hop, h]
  rfl

theorem State.elemAccess_sta (hop : wOp ((s.core n).word r) = 0x71)
    (h : s.writeElem n ((s.core n).port (wImm ((s.core n).word r) % 16)) i b = .ok s1) :
    s.elemAccess n r i b x = .done s1 (.tok ⟨0#5, BitVec.ofInt 32 i⟩) := by
  unfold State.elemAccess
  simp only [hop, h]
  rfl

/-- Which forms are releases wider than CORE. -/
theorem wWideRel_amoa {w : Nat} (hop : wOp w = 0x72) :
    wWideRel w = decide (wImm w / 2 ^ 9 % 4 ≠ 0 ∧ 2 ≤ wImm w / 2 ^ 11 % 4) := by
  simp [wWideRel, hop]

theorem wWideRel_psta {w : Nat} (hop : wOp w = 0x74) : wWideRel w = decide (wImm w / 2 ^ 9 % 4 ≠ 0) := by simp [wWideRel, hop]

/-- Without a trace area an AMOA takes its turn at once and writes no record. -/
theorem State.elemAccess_amoa {pa : Nat} {pas : List Nat} {old : Nat} (hop : wOp ((s.core n).word r) = 0x72) (hu : s.untraced (s.core n).ctx)
    (hwaits : wWideRel ((s.core n).word r) = true → s.shownWaits n = false)
    (htr : translateRange (s.pages (s.core n).ctx)
      (wrapVa (((s.core n).port (wImm ((s.core n).word r) % 16)).desc.base.toNat + 4 * i)) Need.rw 4 = .ok (pa :: pas))
    (hamo : ((s.settleRelease n ((s.core n).word r)).settleShown n pa).homeAmo
      (wrapVa (((s.core n).port (wImm ((s.core n).word r) % 16)).desc.base.toNat + 4 * i)) pa 4 (wImm ((s.core n).word r) / 32 % 16)
      b.toNat x.toNat = .ok (s1, old)) :
    s.elemAccess n r i b x = .done s1 (.tok ⟨0#5, BitVec.ofNat 32 old⟩) := by
  have hturn : ∀ pa agent, s.amoTurn (s.core n).ctx pa agent = true := fun pa agent => by
    rw [State.amoTurn, hu.traceMode]
    rfl
  have hlog : ∀ pc soff img agent, s1.amoLog (s.traceMode (s.core n).ctx) (s.core n).ctx pa agent pc soff img = s1 := fun _ _ _ _ => by
    rw [hu.traceMode]
    rfl
  have hgoes : ¬(wWideRel ((s.core n).word r) = true ∧ s.shownWaits n = true) := fun h => by
    rw [hwaits h.1] at h
    exact absurd h.2 Bool.false_ne_true
  unfold State.elemAccess
  simp only [hop]
  unfold State.amoaAccess
  simp only [Nat.cast_ofNat, htr, List.headD_cons, hturn, Bool.not_true, Bool.false_eq_true, false_or, if_neg hgoes, wAop, hamo, hlog]
  rfl

section word
variable {va pa : Nat} (hva : va = wrapVa (((s.core n).port (wImm ((s.core n).word r) % 16)).desc.base.toNat + 8 * i) / 8 * 8)
include hva

theorem State.elemAccess_plda (hop : wOp ((s.core n).word r) = 0x73) : s.elemAccess n r i b x = s.pldaAccess n r va := by
  unfold State.elemAccess
  simp only [hop]
  rw [hva]
  rfl

theorem State.elemAccess_psta (hop : wOp ((s.core n).word r) = 0x74)
    (hwaits : wWideRel ((s.core n).word r) = true → s.shownWaits n = false)
    (htr : translate (s.pages (s.core n).ctx) va Need.pwrite = .ok pa)
    (hfill : ((s.settleRelease n ((s.core n).word r)).settleShown n pa).fillWord va pa (b.zeroExtend 64) = .ok s1) :
    s.elemAccess n r i b x = .done s1 (.tok ⟨0#5, BitVec.ofInt 32 i⟩) := by
  have hgoes : ¬(wWideRel ((s.core n).word r) = true ∧ s.shownWaits n = true) := fun h => by
    rw [hwaits h.1] at h
    exact absurd h.2 Bool.false_ne_true
  subst hva
  unfold State.elemAccess
  simp only [hop, Nat.cast_ofNat, htr, if_neg hgoes, hfill]
  rfl

end word

section plda
variable {va pa : Nat} {bs : List Byte} (htr : translate (s.pages (s.core n).ctx) va Need.pread = .ok pa)
  (hread : (s.settleShown n pa).homeReads va ((List.range 8).map (pa + ·)) = .ok bs)
include htr hread

theorem State.pldaAccess_full (hfull : s.isFull pa = true) :
    s.pldaAccess n r va = .done s (.tok ⟨0#5, BitVec.ofNat 32 (leNat bs)⟩) := by
  unfold State.pldaAccess
  simp only [htr, hread, hfull, if_true]
  rfl

theorem State.pldaAccess_empty (hempty : s.isFull pa = false) (hroom : s.deferCount (homeSlice pa) < 4096) :
    s.pldaAccess n r va = .done { s with
      deferrals := s.deferrals ++ [⟨s.nextDeferral, pa / 8, .plda n r va, none⟩]
      nextDeferral := s.nextDeferral + 1 } (.wait s.nextDeferral) := by
  unfold State.pldaAccess
  simp only [htr, hread, hempty, Bool.false_eq_true, if_false, if_neg (Nat.not_le.mpr hroom)]

end plda

end accesses

/-! ## Elements of an array (R207, R209) -/

theorem eszBytes_le (e : Nat) : eszBytes e ≤ 4 := by
  unfold eszBytes
  split <;> decide

section array
variable {s : State} {n : Nat} {x : Port} {i : Int} {pas : List Nat} (hk : eszBytes x.esz ≠ 0)
include hk

/-- Element i stands at the base plus its bytes times i. -/
theorem Port.addrOf_eq (i : Int) : x.addrOf i = (((x.desc.base.toNat : Int) + i * eszBytes x.esz) % 2 ^ 64 |>.toNat, 0) := by
  unfold Port.addrOf
  split
  · next h => exact absurd h hk
  · rfl

theorem Port.accLen_eq : x.accLen = eszBytes x.esz := Nat.max_eq_right (Nat.pos_of_ne_zero hk)

/-- The value of an element, extended as the binding says. -/
theorem Port.value_eq (bs : List Byte) (nib : Nat) : x.value bs nib =
    if x.sx then (BitVec.ofNat (8 * eszBytes x.esz) (leNat bs)).signExtend 32 else BitVec.ofNat 32 (leNat bs) := by
  unfold Port.value
  split
  · next h => exact absurd h hk
  · dsimp only
    rw [sx_toInt _ _ (Nat.mul_pos (by decide) (Nat.pos_of_ne_zero hk))]
    rfl

variable (hwin : ∀ j < eszBytes x.esz, s.findWindow n ((x.addrOf i).1 + j) = none)
  (hreach : ∀ p ∈ pas, s.copying p = false ∧ s.linkFault p = none) (hapart : ∀ p ∈ pas, s.shownApart n p)
include hwin hreach hapart

theorem State.readElem_apart (hclean : ∀ p ∈ pas, s.poisoned p = false)
    (htr : translateRange (s.pages (s.core n).ctx) (x.addrOf i).1 Need.read (eszBytes x.esz) = .ok pas) :
    s.readElem n x i = .ok (s, x.value (pas.map s.mem.read) (x.addrOf i).2) := by
  have hlen := translateRange_length htr
  have hload : s.load ⟨(s.core n).ctx, some n, none⟩ x.hint (x.addrOf i).1 (eszBytes x.esz) = .ok (s, pas.map s.mem.read) := by
    rw [State.load, State.pagesFor_none, htr]
    dsimp only
    rw [State.keepPages_none]
    exact State.loadBytes_apart (fun j hj => hwin j (hlen ▸ hj)) hapart
      (fun p hp a => State.blocked_none (hreach p hp).1 (hreach p hp).2 a) hclean
  unfold State.readElem
  dsimp only
  rw [Port.accLen_eq hk, hload]

theorem State.writeElem_apart (v : BitVec 32)
    (htr : translateRange (s.pages (s.core n).ctx) (x.addrOf i).1 Need.write (eszBytes x.esz) = .ok pas) :
    ∃ t, s.writeElem n x i v = .ok t ∧ AtHome s t (pas.zip (leBytes (eszBytes x.esz) v.toNat)) := by
  have hlen := translateRange_length htr
  have hbytes : (leBytes (eszBytes x.esz) v.toNat).length = eszBytes x.esz := leBytes_length ..
  obtain ⟨t, ht, hhome⟩ := State.storeBytes_home (s := s) (n := n) (va := (x.addrOf i).1) (va0 := (x.addrOf i).1) (pol := x.hint)
    (es := pas.zip (leBytes (eszBytes x.esz) v.toNat)) ((eszBytes_le x.esz).trans_lt (by decide))
    (fun e he => hapart e.1 (List.of_mem_zip he).1)
    (fun j hj => hwin j (by rw [List.length_zip, hlen, hbytes, Nat.min_self] at hj; exact hj))
    (fun e he a => State.blocked_none (hreach _ (List.of_mem_zip he).1).1 (hreach _ (List.of_mem_zip he).1).2 a)
  refine ⟨t, ?_, hhome⟩
  unfold State.writeElem
  dsimp only
  split
  · next h => exact absurd h hk
  · unfold State.store
    rw [hbytes, State.pagesFor_none, htr]
    dsimp only
    rw [State.keepPages_none]
    exact ht

end array

/-- Settles O33: a firing delivers what its access gives, form by form, and an element's access is to the bytes of its place. -/
theorem memoryElements : Obligations.MemoryElements := by
  unfold Obligations.MemoryElements
  refine ⟨fun s s1 n r c1 a b x v => ?forms, fun s n x i v pas => ?elements⟩
  case forms =>
    intro c w p port auto i c2 va wide seen hleft hagain hfires
    have h : s.mayFire n r c1 a b x := ⟨hleft, hagain, hfires⟩
    refine ⟨fun hsite hread => ?lda, fun hsite hwrite => ?sta, fun pa pas old hsite hu => ?amoa,
      fun pa bs hsite htr hread => ?plda, fun pa hsite htr hwaits hfill => ?psta⟩
    case lda => exact h.steps hsite (State.elemAccess_lda hsite.op hread)
    case sta => exact h.steps hsite (State.elemAccess_sta hsite.op hwrite)
    case amoa =>
      intro release hwaits htr hamo
      have hwide := wWideRel_amoa hsite.op
      refine h.steps_plain hsite (.inl rfl) (State.elemAccess_amoa hsite.op hu (fun hr => hwaits (of_decide_eq_true (hwide ▸ hr))) htr ?_)
      rw [State.settleRelease, hwide]
      exact hamo
    case plda =>
      have hacc := State.elemAccess_plda (b := b) (x := x) (i := a.toInt) (va := va) rfl hsite.op
      refine ⟨fun hfull => ?_, fun hempty hroom => ?_⟩
      · exact h.steps_plain hsite (.inr (.inl rfl)) (hacc.trans (State.pldaAccess_full htr hread hfull))
      · exact h.steps_plain hsite (.inr (.inl rfl)) (hacc.trans (State.pldaAccess_empty htr hread hempty hroom))
    case psta =>
      have hwide := wWideRel_psta hsite.op
      have hacc := State.elemAccess_psta (s1 := s1) (b := b) (x := x) (i := a.toInt) (va := va) (pa := pa) rfl hsite.op
        (fun hr => hwaits (of_decide_eq_true (hwide ▸ hr))) htr (by rw [State.settleRelease, hwide]; exact hfill)
      rw [BitVec.ofInt_toInt] at hacc
      exact h.steps_plain hsite (.inr (.inr rfl)) hacc
  case elements =>
    intro k va hk hwin hpas hshown
    have haddr := Port.addrOf_eq hk i
    have hva : (x.addrOf i).1 = va := congrArg Prod.fst haddr
    have hreach : ∀ p ∈ pas, s.copying p = false ∧ s.linkFault p = none := fun p hp => ⟨(hpas p hp).1, (hpas p hp).2.1⟩
    have hapart : ∀ p ∈ pas, s.shownApart n p := fun p hp a ha hs q hq => hshown a ha hs q hq p hp
    refine ⟨fun htr => ?_, fun htr => ?_⟩
    · rw [State.readElem_apart hk (hva ▸ hwin) hreach hapart (fun p hp => (hpas p hp).2.2) (hva ▸ htr), Port.value_eq hk]
    · obtain ⟨t, ht, hhome⟩ := State.writeElem_apart hk (hva ▸ hwin) hreach hapart v (hva ▸ htr)
      exact ⟨t, ht, stored_writeAll ((translateRange_length htr).trans (leBytes_length ..).symm) hhome.mem, hhome.rest⟩

end Sys2Proof.Machine
end

section
/-! PROOFS. A PORT.BIND whose start starts another command too, where two commands have one number. -/

namespace Sys2Proof.Machine

/-- A command of core 0 that has issued and names port 3 in both places where a command's third word may name a port. -/
def issuedSeven (opc : BitVec 8) : Cmd where
  id := 7; owner := .core 0; ctx := 0; pc := 0; soff := 0; opc := opc; var := 0; mode := 0; hint := 0; prio := 0
  a := 0; b := 0; c := 0; d := 0; e := 0; areg := 0; w3 := BitVec.ofNat 32 (3 * 2 ^ 28 + 3 * 2 ^ 21); waits := []; tag := none
  accs := []; batch := none; state := .issued; tWait := none; done := 0; sub := 0; x0 := 0; x1 := 0; list := []; auction := {}
  mask := 0; arm := none

/-- The PORT.BIND that unbinds port 3. -/
def unbindSeven : Cmd := issuedSeven 0x10#8

/-- It stands before a COPY.DEM of port 3 under the same number; port 3 is bound FEED and its FIFO is empty. -/
def twoSevens : State :=
  { cores := [(0, { run := .running, ports := [(3, { w3 := BitVec.ofNat 32 (3 * 2 ^ 25) })] })]
    cmds := [unbindSeven, issuedSeven 0x32#8] }

theorem twoSevens_starts : twoSevens.cmd? unbindSeven.id = some unbindSeven ∧ twoSevens.accsDone unbindSeven = true ∧
    twoSevens.mayStart unbindSeven = true ∧ twoSevens.bindPending unbindSeven 3 = false ∧ (twoSevens.core 0).elemsNaming 3 = [] ∧
    twoSevens.flushWaits 0 = false := by
  and_intros <;> decide +kernel

/-- Before the start the stream of port 3 has ended, and the window of the binding meets no other. -/
theorem twoSevens_quiet : twoSevens.streamQuiet 0 3 = true ∧ (twoSevens.started unbindSeven).windowClash 0 3 0 0 = false := by
  and_intros <;> decide +kernel

/-- The start counts for both commands of the number, and the PORT.BIND waits for the COPY.DEM. -/
theorem twoSevens_waits : ∃ t, exec (.commandStart unbindSeven.id) twoSevens = .next t ∧ ((t.core 0).port 3).role = 3 :=
  ⟨_, rfl, by decide +kernel⟩

/-- Refutes O37, in the clause of a PORT.BIND: the command that starts is marked so by its number, and the statement takes any list
of commands, one with a number twice too: the port's stream has ended before the start, and with the start a COPY.DEM under the same
number holds the port. -/
theorem not_portStreams : ¬ Obligations.PortStreams := by
  unfold Obligations.PortStreams
  intro h
  obtain ⟨hcmd, haccs, hmay, hpending, helems, hflush⟩ := twoSevens_starts
  obtain ⟨hquiet, hclash⟩ := twoSevens_quiet
  obtain ⟨-, -, -, -, hcommands⟩ := h
  obtain ⟨hbind, -⟩ := hcommands twoSevens 0 unbindSeven hcmd rfl haccs
  obtain ⟨t, hexec, hrole, -⟩ := (hbind (twoSevens.started unbindSeven) {} rfl hmay hpending (fun _ => helems) hflush rfl).2 hquiet hclash
  obtain ⟨u, hexec', hrole'⟩ := twoSevens_waits
  cases hexec.symm.trans hexec'
  exact absurd (hrole'.symm.trans hrole) (by decide)

end Sys2Proof.Machine
end

section
/-! PROOFS. A COPY into a window whose bank lists one sector twice, filled from two frames. -/

namespace Sys2Proof.Machine

/-- A started COPY of eight bytes by core 0, from 0x10000 to 0x1000. -/
def copyEight : Cmd where
  id := 7; owner := .core 0; ctx := 0; pc := 0; soff := 0; opc := 0x30#8; var := 0; mode := 0; hint := 0; prio := 0
  a := 0x10000; b := 0x1000; c := 8; d := 0; e := 0; areg := 0; w3 := 0; waits := []; tag := none; accs := []; batch := none
  state := .started; tWait := none; done := 0; sub := 0; x0 := 0; x1 := 0; list := []; auction := {}; mask := 0; arm := none

/-- The first two bytes of the destination stand in frames 0 and 1, the others in frame 0. -/
def splitPages : List Page :=
  [⟨0x1000, 0, 0, 0xF#16⟩, ⟨0x1001, 129, 0, 0xF#16⟩, ⟨0x1002, 2, 3, 0xF#16⟩, ⟨0x10000, 0x10000, 16, 0xF#16⟩]

/-- The bank lists the destination's sector for frame 0 and for frame 1; the second byte of the source is 5. -/
def twoFrames : State :=
  { ctxs := [(0, { pages := splitPages })]
    cores := [(0, { run := .running, banks := [(0, { base := 0x1000, len := 1024, sectors := [(32, { home := 0 }), (32, { home := 1 })] })] })]
    cmds := [copyEight]
    mem := [(0x10001, 5#8)] }

/-- The places of the source and of the destination. -/
def twoFramesFrom : List Nat := (List.range 8).map (0x10000 + ·)
def twoFramesTo : List Nat := [0, 129, 2, 3, 4, 5, 6, 7]

theorem twoFrames_runs : twoFrames.cmd? copyEight.id = some copyEight ∧ twoFrames.accsDone copyEight = true ∧
    twoFrames.ringOpen 0 copyEight = true ∧ copyEight.sharesWord 0 (copyEight.dstVa 0 0) = false ∧
    copyEight.slotsAt (copyEight.dstVa 0 0) ≤ 1 := by
  and_intros <;> decide +kernel

theorem twoFrames_pagesApart : pagesApart (twoFrames.pages copyEight.ctx) := by
  unfold pagesApart
  decide +kernel

theorem twoFrames_unpublished : twoFrames.unpublished 0 := nofun

theorem twoFrames_alone : ∀ j ∈ twoFrames.cmds, j.id ≠ copyEight.id → twoFrames.servable 0 j = false := fun _ hj hid =>
  absurd (congrArg Cmd.id (List.mem_singleton.mp hj)) hid

/-- The source can be read. -/
theorem twoFrames_source :
    translateRange (copyEight.tlb ++ twoFrames.pages copyEight.ctx) (copyEight.srcVa 0 0) Need.read 8 = .ok twoFramesFrom ∧
    (∀ i < 8, twoFrames.findWindow 0 (copyEight.srcVa 0 0 + i) = none) ∧ twoFrames.readable twoFramesFrom := by
  refine ⟨by decide +kernel, by decide +kernel, ?_⟩
  unfold State.readable
  decide +kernel

/-- The bank holds every byte of the destination. -/
theorem twoFrames_destination :
    translateRange (copyEight.tlb ++ twoFrames.pages copyEight.ctx) (copyEight.dstVa 0 0) Need.write 8 = .ok twoFramesTo ∧
    twoFrames.takesBytes 0 copyEight.hint (copyEight.dstVa 0 0) twoFramesTo := by
  refine ⟨by decide +kernel, by decide, by decide +kernel, .inr ⟨rfl, (0, 0), by decide +kernel⟩⟩

/-- Its third byte evicts the sector that the second one changed, which goes back to memory. -/
theorem twoFrames_evicts : (twoFrames.pieceOf copyEight.id copyEight.done).mem.read 129 = 5#8 := by decide +kernel

/-- Refutes O40, in the clause of a word of a row that goes into a window: a bank holds a byte when some entry of its list names the
byte's sector and frame, but a byte is put into the first entry of its sector, and the statement takes any state, one whose bank lists
a sector twice too. A word whose bytes stand in two frames then evicts a sector it has changed, and memory does not stay as it was. -/
theorem not_copyMovesBytes : ¬ Obligations.CopyMovesBytes := by
  unfold Obligations.CopyMovesBytes
  intro h
  obtain ⟨-, hword, -⟩ := h
  obtain ⟨hcmd, haccs, hring, hshares, hslots⟩ := twoFrames_runs
  obtain ⟨hfrom, houtside, hreadable⟩ := twoFrames_source
  obtain ⟨hto, htakes⟩ := twoFrames_destination
  obtain ⟨-, hmove⟩ := hword twoFrames 0 copyEight 0 [] twoFramesFrom twoFramesTo hcmd rfl rfl (.inl rfl) haccs rfl (fun _ => ⟨rfl, nofun⟩)
    rfl (by decide) (fun j hj => List.mem_singleton.mp hj ▸ rfl) twoFrames_pagesApart twoFrames_unpublished twoFrames_alone
  obtain ⟨hput, -⟩ := hmove hring (fun hbegins => absurd hbegins.1 (by decide)) (by decide) (by decide) (by decide) hshares hslots hfrom
    houtside hreadable hto htakes
  have hmem := (hput.bank (0, 0) (by decide +kernel)).1
  have hread := congrArg (·.read 129) hmem
  rw [twoFrames_evicts] at hread
  exact absurd hread (by decide +kernel)

end Sys2Proof.Machine
end

section
/-! PROOFS. PLACE: cores granted to experts and regions laid on dies (R326). -/

namespace Sys2Proof.Machine

/-! ## Cores granted one by one -/

section grants
variable {h n : List Nat}

/-- Expert x may get one more core. -/
def MayGain (h n : List Nat) (x : Nat) : Prop := h.getD x 0 ≠ 0 ∧ n.getD x 0 < 16

/-- Expert y wants a core more than expert x, or as much and stands before it: its counts per core are the greater. -/
def Outbids (h n : List Nat) (y x : Nat) : Prop :=
  h.getD x 0 * n.getD y 0 ≤ h.getD y 0 * n.getD x 0 ∧ (x < y → h.getD x 0 * n.getD y 0 < h.getD y 0 * n.getD x 0)

/-- The best among the experts below m. -/
def BestBelow (h n : List Nat) (m : Nat) : Option Nat → Prop
  | none => ∀ x < m, ¬MayGain h n x
  | some y => y < m ∧ MayGain h n y ∧ ∀ x < m, MayGain h n x → Outbids h n y x

/-- The better of the best so far and expert x. -/
def betterExpert (h n : List Nat) (best : Option Nat) (x : Nat) : Option Nat :=
  if h.getD x 0 = 0 ∨ 16 ≤ n.getD x 0 then best
  else match best with
    | none => some x
    | some y => if h.getD y 0 * n.getD x 0 < h.getD x 0 * n.getD y 0 then some x else some y

theorem nextExpert_eq (h n : List Nat) : nextExpert h n = (List.range h.length).foldl (betterExpert h n) none := rfl

theorem mayGain_iff {x : Nat} : MayGain h n x ↔ ¬(h.getD x 0 = 0 ∨ 16 ≤ n.getD x 0) := by
  unfold MayGain
  omega

/-- Fractions compare through a third. -/
theorem mul_lt_of_mul_le_of_mul_lt {a b c na nb nc : Nat} (hc : 0 < nc) (hab : c * nb ≤ b * nc) (hba : b * na < a * nb) :
    c * na < a * nc := by
  have hstrict : nb * (c * na) < nb * (a * nc) :=
    calc nb * (c * na) = c * nb * na := by ring
      _ ≤ b * nc * na := Nat.mul_le_mul_right na hab
      _ = nc * (b * na) := by ring
      _ < nc * (a * nb) := Nat.mul_lt_mul_of_pos_left hba hc
      _ = nb * (a * nc) := by ring
  exact Nat.lt_of_mul_lt_mul_left hstrict

theorem BestBelow.succ (hpos : ∀ x, h.getD x 0 ≠ 0 → 1 ≤ n.getD x 0) {m : Nat} {best : Option Nat} (hb : BestBelow h n m best) :
    BestBelow h n (m + 1) (betterExpert h n best m) := by
  unfold betterExpert
  split
  next hnot =>
    have hm : ¬MayGain h n m := fun hg => mayGain_iff.mp hg hnot
    cases best with
    | none => exact fun x hx => (Nat.lt_succ_iff_lt_or_eq.mp hx).elim (hb x) fun he => he ▸ hm
    | some y =>
      obtain ⟨hy, hgain, hbest⟩ := hb
      exact ⟨Nat.lt_succ_of_lt hy, hgain, fun x hx hg => hbest x ((Nat.lt_succ_iff_lt_or_eq.mp hx).resolve_right fun he => hm (he ▸ hg)) hg⟩
  next hgain =>
    have hm : MayGain h n m := mayGain_iff.mpr hgain
    have hself : Outbids h n m m := ⟨le_refl _, fun hlt => absurd hlt (Nat.lt_irrefl m)⟩
    cases best with
    | none =>
      exact ⟨m.lt_succ_self, hm, fun x hx hg =>
        (Nat.lt_succ_iff_lt_or_eq.mp hx).elim (fun hlt => absurd hg (hb x hlt)) fun he => he ▸ hself⟩
    | some y =>
      obtain ⟨hy, hgain, hbest⟩ := hb
      dsimp only
      split
      next hlt =>
        refine ⟨m.lt_succ_self, hm, fun x hx hg => (Nat.lt_succ_iff_lt_or_eq.mp hx).elim (fun hxm => ?_) fun he => he ▸ hself⟩
        have hless := mul_lt_of_mul_le_of_mul_lt (hpos x hg.1) (hbest x hxm hg).1 hlt
        exact ⟨hless.le, fun _ => hless⟩
      next hle =>
        refine ⟨Nat.lt_succ_of_lt hy, hgain, fun x hx hg => (Nat.lt_succ_iff_lt_or_eq.mp hx).elim (fun hxm => hbest x hxm hg) fun he => ?_⟩
        subst he
        exact ⟨Nat.not_lt.mp hle, fun hlt => absurd hlt hy.asymm⟩

theorem bestBelow_nextExpert (hpos : ∀ x, h.getD x 0 ≠ 0 → 1 ≤ n.getD x 0) : BestBelow h n h.length (nextExpert h n) := by
  rw [nextExpert_eq]
  have hall : ∀ m, BestBelow h n m ((List.range m).foldl (betterExpert h n) none) := fun m => by
    induction m with
    | zero => exact fun x hx => absurd hx x.not_lt_zero
    | succ m ih =>
      rw [List.range_succ, List.foldl_append]
      exact ih.succ hpos
  exact hall _

/-- What the grants keep: experts without counts get no core and others at least one, none more than 16, and no expert has got its
last core while another that may still gain one wanted it more. -/
structure Granted (h n : List Nat) : Prop where
  len : n.length = h.length
  zero : ∀ x, h.getD x 0 = 0 → n.getD x 0 = 0
  pos : ∀ x, h.getD x 0 ≠ 0 → 1 ≤ n.getD x 0
  cap : ∀ x, n.getD x 0 ≤ 16
  fair : ∀ x y, MayGain h n x → 1 < n.getD y 0 →
    (x < y → h.getD x 0 * (n.getD y 0 - 1) < h.getD y 0 * n.getD x 0) ∧ h.getD x 0 * (n.getD y 0 - 1) ≤ h.getD y 0 * n.getD x 0

theorem getD_set_add_one {y : Nat} (hy : y < n.length) (x : Nat) :
    (n.set y (n.getD y 0 + 1)).getD x 0 = if x = y then n.getD y 0 + 1 else n.getD x 0 := by
  rw [List.getD_eq_getElem?_getD, List.getElem?_set]
  split
  next he => subst he; rw [if_pos rfl]; rfl
  next hne => rw [if_neg (Ne.symm hne)]; rfl

theorem sum_set_add_one {y : Nat} (hy : y < n.length) : (n.set y (n.getD y 0 + 1)).sum = n.sum + 1 := by
  induction n generalizing y with
  | nil => exact absurd hy y.not_lt_zero
  | cons a n ih =>
    cases y with
    | zero => simp [Nat.add_right_comm]
    | succ y =>
      have := ih (Nat.lt_of_succ_lt_succ hy)
      simp only [List.set_cons_succ, List.getD_cons_succ, List.sum_cons] at this ⊢
      omega

/-- The expert that wants a core most gets it. -/
theorem Granted.grant (hg : Granted h n) {y : Nat} (hnext : nextExpert h n = some y) : Granted h (n.set y (n.getD y 0 + 1)) := by
  have hbest := bestBelow_nextExpert hg.pos
  rw [hnext] at hbest
  obtain ⟨hy, hgain, hbest⟩ := hbest
  have hget := getD_set_add_one (hg.len ▸ hy)
  refine ⟨by rw [List.length_set, hg.len], fun x hx => ?zero, fun x hx => ?pos, fun x => ?cap, fun x z hx hz => ?fair⟩
  case zero =>
    rw [hget, if_neg fun he : x = y => hgain.1 (he ▸ hx)]
    exact hg.zero x hx
  case pos =>
    rw [hget]
    split
    · exact Nat.le_add_left ..
    · exact hg.pos x hx
  case cap =>
    rw [hget]
    split
    · exact hgain.2
    · exact hg.cap x
  case fair =>
    have hmore : n.getD x 0 ≤ (n.set y (n.getD y 0 + 1)).getD x 0 := by
      rw [hget]
      split
      next he => rw [he]; exact Nat.le_succ _
      next => exact le_refl _
    have hxold : MayGain h n x := ⟨hx.1, hmore.trans_lt hx.2⟩
    have hmul : h.getD z 0 * n.getD x 0 ≤ h.getD z 0 * (n.set y (n.getD y 0 + 1)).getD x 0 := Nat.mul_le_mul_left _ hmore
    by_cases hzy : z = y
    · subst hzy
      obtain ⟨hle, hlt⟩ := hbest x (by
        by_contra hnot
        exact hx.1 (List.getD_eq_default _ _ (Nat.not_lt.mp hnot))) hxold
      rw [hget z, if_pos rfl, Nat.add_sub_cancel]
      exact ⟨fun h => (hlt h).trans_le hmul, hle.trans hmul⟩
    · rw [hget z, if_neg hzy] at hz ⊢
      obtain ⟨hlt, hle⟩ := hg.fair x z hxold hz
      exact ⟨fun h => (hlt h).trans_le hmul, hle.trans hmul⟩

/-- Granting cores ends with them all granted, or with no expert that may gain one. -/
theorem Granted.grantCores (hg : Granted h n) (f : Nat) : Granted h (grantCores h f n) ∧ (grantCores h f n).sum ≤ n.sum + f ∧
    ((grantCores h f n).sum < n.sum + f → ∀ x, ¬MayGain h (grantCores h f n) x) := by
  induction f generalizing n with
  | zero => exact ⟨hg, le_refl _, fun hlt => absurd hlt (Nat.lt_irrefl _)⟩
  | succ f ih =>
    have hbest := bestBelow_nextExpert hg.pos
    unfold Machine.grantCores
    split
    next hnone =>
      rw [hnone] at hbest
      refine ⟨hg, Nat.le_add_right .., fun _ x hx => hbest x ?_ hx⟩
      by_contra hnot
      exact hx.1 (List.getD_eq_default _ _ (Nat.not_lt.mp hnot))
    next y hy =>
      rw [hy] at hbest
      have hsum := sum_set_add_one (hg.len ▸ hbest.1)
      obtain ⟨hgranted, hle, hfull⟩ := ih (hg.grant hy)
      rw [hsum] at hle hfull
      exact ⟨hgranted, by omega, fun hlt => hfull (by omega)⟩

/-- The first core of every expert with counts. -/
def firstCores (h : List Nat) : List Nat := h.map fun v => if v = 0 then 0 else 1

theorem getD_firstCores (h : List Nat) (x : Nat) : (firstCores h).getD x 0 = if h.getD x 0 = 0 then 0 else 1 := by
  have := List.getD_map (l := h) (d := 0) (n := x) fun v => if v = 0 then 0 else 1
  exact this

theorem sum_firstCores (h : List Nat) : (firstCores h).sum = (h.filter fun v => decide (v ≠ 0)).length := by
  induction h with
  | nil => rfl
  | cons v h ih =>
    have hsum : (firstCores (v :: h)).sum = (if v = 0 then 0 else 1) + (firstCores h).sum := List.sum_cons
    by_cases hv : v = 0
    · rw [hsum, ih]; simp [hv]
    · rw [hsum, ih]; simp [hv, Nat.add_comm]

theorem granted_firstCores (h : List Nat) : Granted h (firstCores h) := by
  have hget := getD_firstCores h
  refine ⟨List.length_map .., fun x hx => by rw [hget, if_pos hx], fun x hx => by rw [hget, if_neg hx], fun x => ?_, fun x y _ hy => ?_⟩
  · rw [hget]
    split <;> decide
  · rw [hget] at hy
    split at hy <;> omega

theorem coreCounts_eq (h : List Nat) (p : Nat) : coreCounts h p = grantCores h (p - (firstCores h).sum) (firstCores h) := rfl

theorem granted_coreCounts (h : List Nat) (p : Nat) : Granted h (coreCounts h p) := by
  rw [coreCounts_eq]
  exact ((granted_firstCores h).grantCores _).1

/-- With a core for every expert that has counts, all cores are granted or every such expert has 16. -/
theorem sum_coreCounts {p : Nat} (hp : (h.filter fun v => decide (v ≠ 0)).length ≤ p) : (coreCounts h p).sum ≤ p ∧
    ((coreCounts h p).sum < p → ∀ x, ¬MayGain h (coreCounts h p) x) := by
  rw [← sum_firstCores] at hp
  rw [coreCounts_eq]
  obtain ⟨-, hle, hfull⟩ := (granted_firstCores h).grantCores (p - (firstCores h).sum)
  rw [Nat.add_sub_cancel' hp] at hle hfull
  exact ⟨hle, hfull⟩

end grants

/-! ## Regions laid on dies -/

/-- The freest die is one of the dies. -/
theorem freestDie_mem {dies : List Nat} (hne : dies ≠ []) (used : SMap Nat) : freestDie used dies ∈ dies := by
  cases dies with
  | nil => exact absurd rfl hne
  | cons d r =>
    refine List.foldlRecOn (motive := fun a : Nat => a ∈ d :: r) r _ List.mem_cons_self fun a ha b hb => ?_
    split
    · exact List.mem_cons_of_mem _ hb
    · exact ha

section laid
variable {dies m : List Nat}

/-- Cores in use of each die once expert x has its region. -/
def usedAfter (dies m : List Nat) (used : SMap Nat) (x : Nat) : SMap Nat :=
  SMap.put used (freestDie used dies)
    (SMap.get 0 used (freestDie used dies) + Nat.min (m.getD x 0) (16 - SMap.get 0 used (freestDie used dies)))

theorem layRegions_cons (used : SMap Nat) (x : Nat) (xs : List Nat) : layRegions dies m used (x :: xs) =
    (x, freestDie used dies, SMap.get 0 used (freestDie used dies), Nat.min (m.getD x 0) (16 - SMap.get 0 used (freestDie used dies))) ::
      layRegions dies m (usedAfter dies m used x) xs := rfl

@[simp] theorem map_fst_layRegions (used : SMap Nat) (xs : List Nat) : (layRegions dies m used xs).map (·.1) = xs := by
  induction xs generalizing used with
  | nil => rfl
  | cons x r ih => exact congrArg (x :: ·) (ih _)

section used
variable {used : SMap Nat} (hused : ∀ d, SMap.get 0 used d ≤ 16) (x : Nat)
include hused

/-- A region ends within its die. -/
theorem region_end_le : SMap.get 0 used (freestDie used dies) + Nat.min (m.getD x 0) (16 - SMap.get 0 used (freestDie used dies)) ≤ 16 :=
  (Nat.add_le_add_left (Nat.min_le_right ..) _).trans (Nat.add_sub_cancel' (hused _)).le

theorem usedAfter_le (d : Nat) : SMap.get 0 (usedAfter dies m used x) d ≤ 16 := by
  rw [usedAfter, SMap.get_put]
  split
  · exact region_end_le hused x
  · exact hused d

end used

theorem le_usedAfter (used : SMap Nat) (x d : Nat) : SMap.get 0 used d ≤ SMap.get 0 (usedAfter dies m used x) d := by
  rw [usedAfter, SMap.get_put]
  split
  next he => rw [he]; exact Nat.le_add_right ..
  next => exact le_refl _

/-- A region takes cores of a die from the first that is free there, within the die and no more than its expert's. -/
theorem layRegions_within (hne : dies ≠ []) {used : SMap Nat} (hused : ∀ d, SMap.get 0 used d ≤ 16) (xs : List Nat) :
    ∀ q ∈ layRegions dies m used xs,
      q.2.1 ∈ dies ∧ SMap.get 0 used q.2.1 ≤ q.2.2.1 ∧ q.2.2.1 + q.2.2.2 ≤ 16 ∧ q.2.2.2 ≤ m.getD q.1 0 := by
  induction xs generalizing used with
  | nil => exact fun q hq => absurd hq List.not_mem_nil
  | cons x r ih =>
    intro q hq
    rw [layRegions_cons] at hq
    rcases List.mem_cons.mp hq with rfl | hq
    · exact ⟨freestDie_mem hne used, le_refl _, region_end_le hused x, Nat.min_le_left ..⟩
    · obtain ⟨hmem, hbase, hrest⟩ := ih (usedAfter_le hused x) q hq
      exact ⟨hmem, (le_usedAfter used x q.2.1).trans hbase, hrest⟩

/-- A later region of a die begins after an earlier one. -/
theorem layRegions_pairwise (hne : dies ≠ []) {used : SMap Nat} (hused : ∀ d, SMap.get 0 used d ≤ 16) (xs : List Nat) :
    (layRegions dies m used xs).Pairwise fun p q => p.2.1 = q.2.1 → p.2.2.1 + p.2.2.2 ≤ q.2.2.1 := by
  induction xs generalizing used with
  | nil => exact .nil
  | cons x r ih =>
    rw [layRegions_cons]
    refine List.pairwise_cons.mpr ⟨fun q hq hdie => ?_, ih (usedAfter_le hused x)⟩
    obtain ⟨-, hbase, -⟩ := layRegions_within hne (usedAfter_le hused x) r q hq
    rw [← hdie, usedAfter, SMap.get_put, if_pos rfl] at hbase
    exact hbase

end laid

end Sys2Proof.Machine
end

section
/-! PROOFS. Launch requests and launched graphs (R321, R325, R396). -/

namespace Sys2Proof.Machine

/-! ## What writes of the device leave alone -/

/-- `t` differs from `s` in storage only: memory with its presence and poison, the bytes of host memory that are kept, and what the
deferred loads hold. -/
def State.StorageOnly (s t : State) : Prop :=
  { t with mem := s.mem, full := s.full, poison := s.poison, hostOld := s.hostOld, deferrals := s.deferrals } = s

section storage
variable {s t u : State}

theorem State.StorageOnly.refl (s : State) : s.StorageOnly s := rfl

theorem State.StorageOnly.trans (h : s.StorageOnly t) (h' : t.StorageOnly u) : s.StorageOnly u := by
  have hut := congrArg (fun v : State => { v with
    mem := s.mem, full := s.full, poison := s.poison, hostOld := s.hostOld, deferrals := s.deferrals }) h'
  exact Eq.trans hut h

theorem State.storageOnly_keepHosts (s : State) (pa n : Nat) : s.StorageOnly (s.keepHosts pa n) := by
  obtain ⟨l, hl⟩ := s.keepHosts_eq pa n
  rw [hl]
  rfl

theorem State.storageOnly_homeWrite {pol : BitVec 2} {va pa : Nat} {v : Byte} {clears : Bool}
    (h : s.homeWrite pol va pa v clears = .ok t) : s.StorageOnly t := by
  obtain ⟨-, -, -, hrest⟩ := State.homeWrite_cases h
  exact congrArg (fun v : State => { v with full := s.full, deferrals := s.deferrals }) hrest

/-- Bytes that an agent without windows stores are in memory, and nothing but storage differs. -/
theorem State.storeBytes_memory {pol : BitVec 2} {va0 n0 va : Nat} {es : List (Nat × Byte)}
    (h : s.storeBytes none pol va0 n0 va es = .ok t) : t.mem = s.mem.writeAll es ∧ s.StorageOnly t := by
  induction es generalizing s va with
  | nil => cases h; exact ⟨rfl, rfl⟩
  | cons e es ih =>
    unfold State.storeBytes State.storeByte State.settleFor at h
    simp only [Option.bind_none, ite_self] at h
    split at h
    · cases h
    next u hu =>
      split at hu
      · cases hu
      next w hw =>
        cases hu
        obtain ⟨-, hmem, -⟩ := State.homeWrite_cases hw
        obtain ⟨hrest, honly⟩ := ih h
        have hw1 : w.mem = s.mem.write e.1 e.2 := hmem
        refine ⟨hrest.trans ?_, (State.storageOnly_homeWrite hw).trans honly⟩
        show w.mem.writeAll es = _
        rw [hw1]
        rfl

theorem State.storageOnly_devWrite {k va : Nat} {bs : List Byte} (h : s.devWrite k va bs = some t) : s.StorageOnly t := by
  unfold State.devWrite at h
  split at h
  · cases h
  · split at h
    · cases h
    next u hu =>
      cases h
      exact congrArg (fun v : State => { v with channels := s.channels }) (State.storeBytes_memory hu).2

theorem State.storageOnly_traceField (s : State) (pa n v : Nat) : s.StorageOnly (s.traceField pa n v) := by
  have hframe := s.traceField_frame pa n v
  exact congrArg (fun v : State => { v with full := s.full, poison := s.poison, deferrals := s.deferrals }) hframe

theorem State.storageOnly_traceLose (s : State) (k : Nat) : s.StorageOnly (s.traceLose k) := by
  unfold State.traceLose
  split
  · rfl
  · exact State.storageOnly_traceField ..

theorem State.storageOnly_trace (s : State) (k t agent pc soff img d0 d1 : Nat) : s.StorageOnly (s.trace k t agent pc soff img d0 d1) := by
  unfold State.trace
  split
  · rfl
  · split
    · rfl
    · split
      · exact State.storageOnly_traceLose ..
      · extract_lets bs
        split
        · exact State.storageOnly_traceLose ..
        next u hu => exact (State.storageOnly_devWrite hu).trans (State.storageOnly_traceField ..)

theorem State.storageOnly_traceStop (s : State) (k : Nat) : s.StorageOnly (s.traceStop k) := by
  unfold State.traceStop
  split
  · rfl
  · exact State.storageOnly_traceField ..

theorem State.storageOnly_fillWord {va pa : Nat} {v : Word} (h : s.fillWord va pa v = .ok t) : s.StorageOnly t := by
  unfold State.fillWord at h
  split at h
  · cases h
  · split at h
    · cases h
    · cases h
      exact s.storageOnly_keepHosts _ _

theorem State.storageOnly_fillNow {va pa : Nat} {v : Word} (h : s.fillNow va pa v = .ok t) : s.StorageOnly t := by
  unfold State.fillNow at h
  cases hu : s.uncopied.fillWord va pa v with
  | error f => rw [hu] at h; cases h
  | ok u =>
    rw [hu] at h
    cases h
    exact congrArg (fun v : State => { v with channels := s.channels }) (State.storageOnly_fillWord hu)

end storage

/-! ## What the judging of a launch leaves alone -/

/-- From `s` to `t` no window has got another answer, no command in flight has ended or begun, and no stream command has entered. -/
structure State.Judged (s t : State) : Prop where
  answers : ∀ w, (t.win w).status = (s.win w).status ∧ (t.win w).rseq = (s.win w).rseq
  flights : ∀ k, (t.ctx k).inFlight = (s.ctx k).inFlight
  cmds : ∀ id, s.cmd? id = none → t.cmd? id = none

section judged
variable {s t u : State}

theorem State.Judged.refl (s : State) : s.Judged s := ⟨fun _ => ⟨rfl, rfl⟩, fun _ => rfl, fun _ h => h⟩

theorem State.Judged.trans (h : s.Judged t) (h' : t.Judged u) : s.Judged u where
  answers := fun w => ⟨(h'.answers w).1.trans (h.answers w).1, (h'.answers w).2.trans (h.answers w).2⟩
  flights := fun k => (h'.flights k).trans (h.flights k)
  cmds := fun id hid => h'.cmds id (h.cmds id hid)

/-- Whatever leaves windows, contexts and commands as they are. -/
theorem State.Judged.of_eq (hwins : t.wins = s.wins) (hctxs : t.ctxs = s.ctxs) (hcmds : t.cmds = s.cmds) : s.Judged t where
  answers := fun w => by unfold State.win; rw [hwins]; exact ⟨rfl, rfl⟩
  flights := fun k => by unfold State.ctx; rw [hctxs]
  cmds := fun id hid => by unfold State.cmd? at hid ⊢; rw [hcmds]; exact hid

theorem State.StorageOnly.judged (h : s.StorageOnly t) : s.Judged t :=
  .of_eq (by rw [← h]) (by rw [← h]) (by rw [← h])

theorem State.judged_updCtx (s : State) (k : Nat) {f : Context → Context} (hf : ∀ c, (f c).inFlight = c.inFlight) :
    s.Judged (s.updCtx k f) where
  answers := fun _ => ⟨rfl, rfl⟩
  flights := fun j => by
    by_cases hj : j = k
    · rw [hj, State.ctx_updCtx_same, hf]
    · rw [State.ctx_updCtx_other _ _ _ _ hj]
  cmds := fun _ h => h

theorem State.judged_setWin (s : State) (k : Nat) {w : HostWindow} (hw : w.status = (s.win k).status ∧ w.rseq = (s.win k).rseq) :
    s.Judged (s.setWin k w) where
  answers := fun j => by
    by_cases hj : j = k
    · rw [hj, State.win_setWin_same]; exact hw
    · rw [State.win_setWin_other _ _ _ _ hj]; exact ⟨rfl, rfl⟩
  flights := fun _ => rfl
  cmds := fun _ h => h

/-- A report adds a record; an uncorrectable error ends a replay with a record of its own. -/
theorem State.judged_report (s : State) (k : Nat) (r : FaultRec) : s.Judged (s.report k r) := by
  unfold State.report
  extract_lets r' s1
  have h1 : s.Judged s1 := by
    unfold s1
    split
    · exact ((s.storageOnly_trace ..).trans (State.storageOnly_traceStop ..)).judged
    · exact .refl s
  exact h1.trans (State.judged_updCtx s1 k fun _ => rfl)

theorem State.judged_deliverEvents (s : State) (k f : Nat) : s.Judged (s.deliverEvents k f) := by
  induction f generalizing s with
  | zero => exact .refl s
  | succ f ih =>
    unfold State.deliverEvents
    extract_lets w
    split
    · exact .refl s
    next e r he =>
      split
      · exact .refl s
      · extract_lets s1
        have h1 : s.Judged s1 := State.judged_setWin s k ⟨rfl, rfl⟩
        refine .trans ?_ (ih _)
        exact h1.trans (State.judged_updCtx s1 k fun _ => rfl)

theorem State.judged_postEvent (s : State) (k : Nat) (e : BitVec 512) : s.Judged (s.postEvent k e) := by
  unfold State.postEvent
  split
  · exact .refl s
  · refine .trans ?_ (State.judged_deliverEvents ..)
    exact State.judged_updCtx s k fun _ => rfl

/-- The commands that stay after one has completed are some of those before. -/
theorem State.cmd?_finishCmd_none (s : State) (i : Nat) {id : Nat} (h : s.cmd? id = none) : (s.finishCmd i).cmd? id = none := by
  have hsub : ∀ j ∈ (s.finishCmd i).cmds, j ∈ s.cmds := fun j hj => by
    unfold State.finishCmd at hj
    split at hj
    · exact hj
    · extract_lets rest rest' s' last at hj
      have hstay : j ∈ rest' := by split at hj <;> exact hj
      exact (List.mem_filter.mp (List.mem_filter.mp hstay).1).1
  exact List.find?_eq_none.mpr fun j hj => List.find?_eq_none.mp h j (hsub j hj)

theorem State.judged_finishCmd (s : State) (i : Nat) : s.Judged (s.finishCmd i) where
  answers := fun w => by
    have hwins : (s.finishCmd i).wins = s.wins := by
      unfold State.finishCmd
      split
      · rfl
      · extract_lets rest rest' s' last
        split <;> rfl
    unfold State.win
    rw [hwins]
    exact ⟨rfl, rfl⟩
  flights := fun k => by unfold State.ctx; rw [State.ctxs_finishCmd]
  cmds := fun _ h => s.cmd?_finishCmd_none i h

theorem State.judged_finishCmds (s : State) (l : List Nat) : s.Judged (s.finishCmds l) := by
  induction l generalizing s with
  | nil => exact .refl s
  | cons i l ih => exact (s.judged_finishCmd i).trans (ih _)

/-- The listed commands stand no more. -/
theorem State.cmd?_finishCmds (s : State) {l : List Nat} {i : Nat} (hi : i ∈ l) : (s.finishCmds l).cmd? i = none := by
  induction l generalizing s with
  | nil => exact absurd hi List.not_mem_nil
  | cons j l ih =>
    rcases List.mem_cons.mp hi with rfl | hi
    · exact (State.judged_finishCmds _ l).cmds _ (State.cmd?_finishCmd s i)
    · exact ih _ hi

theorem State.judged_requestLaunch (s : State) (die k image : Nat) (arg : Word) (gdone win : Option Nat) :
    s.Judged (s.requestLaunch die k image arg gdone win) := by
  unfold State.requestLaunch
  split
  · exact .of_eq rfl rfl rfl
  next f hf =>
    extract_lets s1
    have h1 : s.Judged s1 := State.judged_report ..
    split
    · split
      · exact h1
      · exact h1.trans (State.judged_finishCmd ..)
    · exact h1.trans (State.judged_updCtx s1 k fun _ => rfl)

theorem State.judged_requestAll (s : State) (die k : Nat) (arg : Word) (l : List Nat) : s.Judged (s.requestAll die k arg l) := by
  induction l generalizing s with
  | nil => exact .refl s
  | cons i l ih => exact (State.judged_requestLaunch ..).trans (ih _)

theorem State.judged_writeStatus (s : State) (home : Nat) (l : LaunchEntry) : s.Judged (s.writeStatus home l) := by
  unfold State.writeStatus
  split
  · exact .refl s
  · extract_lets w
    split
    next u hu =>
      split at hu
      · cases hu
      · exact (State.storageOnly_fillNow hu).judged
    · exact State.judged_report ..

theorem State.judged_freeNodes (s : State) (l : List (Nat × Nat)) : s.Judged (s.freeNodes l) := by
  induction l generalizing s with
  | nil => exact .refl s
  | cons p l ih =>
    refine .trans ?_ (ih _)
    exact .of_eq rfl rfl rfl

/-- What follows the completion of a graph's GLAUNCHes. -/
theorem State.judged_afterGdone (s : State) (k home e : Nat) (ev : BitVec 512) (l : List (Nat × Nat)) {f : Context → Context}
    (hf : ∀ c, (f c).inFlight = c.inFlight) : s.Judged ((((s.postEvent k ev).freeNodes l).setDep home e .free).updCtx k f) := by
  refine .trans ?_ (State.judged_updCtx _ k hf)
  exact (State.judged_postEvent ..).trans ((State.judged_freeNodes ..).trans (.of_eq rfl rfl rfl))

theorem State.judged_completeGraph (s : State) (home e : Nat) (l : LaunchEntry) : s.Judged (s.completeGraph home e l) := by
  unfold State.completeGraph
  extract_lets s1 s2 s3 s4 s5
  have h2 : s1.Judged s2 := by
    unfold s2
    split
    · exact State.judged_requestAll ..
    · exact .refl s1
  exact (State.judged_writeStatus ..).trans (h2.trans ((State.judged_finishCmds ..).trans (State.judged_afterGdone s3 _ _ _ _ _ fun _ => rfl)))

/-- A graph that completes completes the GLAUNCHes that wait for it (R224, R325). -/
theorem State.cmd?_completeGraph (s : State) (home e : Nat) (l : LaunchEntry) {i : Nat} (hi : i ∈ l.gdone) :
    (s.completeGraph home e l).cmd? i = none := by
  unfold State.completeGraph
  extract_lets s1 s2 s3 s4 s5
  exact (State.judged_afterGdone s3 _ _ _ _ _ fun _ => rfl).cmds i (s2.cmd?_finishCmds hi)

theorem State.judged_checkLaunch (s : State) (home e : Nat) (l : LaunchEntry) : s.Judged (s.checkLaunch home e l) := by
  unfold State.checkLaunch
  split
  · exact .of_eq rfl rfl rfl
  next sub hsub =>
    extract_lets hdr
    exact (State.judged_report ..).trans (State.judged_completeGraph ..)
  next f n hf =>
    split
    · exact .refl s
    · extract_lets s1
      have h1 : s.Judged s1 := State.judged_report ..
      split
      · exact h1.trans (State.judged_completeGraph ..)
      · exact h1.trans (.of_eq rfl rfl rfl)

end judged

end Sys2Proof.Machine
end

section
/-! PROOFS. Launch requests reach their home die (R321, R354, R367). -/

namespace Sys2Proof.Machine

/-- A new launch entry for a request. -/
def LaunchReq.entry (r : LaunchReq) : LaunchEntry :=
  { ctx := r.ctx, image := r.image, count := Nat.max 1 r.join, arg := r.arg, gdone := [], launched := false, order := 0
    hdr := {}, recs := [], nodes := [], handles := 0, state := 0, flags := 0, paused := false }

/-- The launch entry counted down by a request, with the GLAUNCHes that wait for the graph and its place in the order. -/
def LaunchReq.counted (r : LaunchReq) (l : LaunchEntry) (g : List Nat) (o : Nat) : LaunchEntry :=
  { l with count := l.count - 1, arg := r.arg, gdone := l.gdone ++ g, order := o }

/-- The machine once the command that made a request has been answered, and the GLAUNCH that waits for the graph. -/
def State.acceptReq (s : State) (r : LaunchReq) : State × List Nat := (s.launchOk r.win).accepted r.gdone

/-- The entry for a request: the one that gathers for its image, or else a free one. -/
def State.entryFor (s : State) (r : LaunchReq) : Option (Nat × LaunchEntry) :=
  match s.gathering r.home r.ctx r.image with
  | some p => some p
  | none => (s.freeEntry r.home).map fun e => (e, r.entry)

/-- A request is accepted and counts down entry e, which is judged as it reaches 0. -/
def State.countDown (s : State) (r : LaunchReq) (e : Nat) (l : LaunchEntry) : State :=
  let s1 := (s.acceptReq r).1
  let o := (s1.die r.home).launchOrder
  let l1 := r.counted l (s.acceptReq r).2 o
  let s2 := s1.setDep r.home e (.launch l1)
  if l1.count = 0 then
    let s3 := s2.setDie r.home { s2.die r.home with launchOrder := o + 1 }
    if s3.frozen r.ctx then s3 else s3.checkLaunch r.home e l1
  else s2

section requests
variable {s : State} {r : LaunchReq} {e h : Nat} {l : LaunchEntry}

theorem State.takeRequest_eq (s : State) (r : LaunchReq) : s.takeRequest r = (s.entryFor r).map fun p => s.countDown r p.1 p.2 := by
  unfold State.takeRequest State.entryFor
  extract_lets put
  cases s.gathering r.home r.ctx r.image with
  | some p => rfl
  | none => cases s.freeEntry r.home <;> rfl

theorem State.entryFor_gathering (h : s.gathering r.home r.ctx r.image = some (e, l)) : s.entryFor r = some (e, l) := by
  rw [State.entryFor, h]

theorem State.entryFor_free (h : s.gathering r.home r.ctx r.image = none) (hfree : s.freeEntry r.home = some e) :
    s.entryFor r = some (e, r.entry) := by
  rw [State.entryFor, h]
  dsimp only
  rw [hfree]
  rfl

theorem State.entryFor_isSome (h : s.gathering r.home r.ctx r.image ≠ none ∨ s.freeEntry r.home ≠ none) :
    ∃ e l, s.entryFor r = some (e, l) := by
  cases hg : s.gathering r.home r.ctx r.image with
  | some p => exact ⟨p.1, p.2, State.entryFor_gathering hg⟩
  | none =>
    obtain ⟨e, he⟩ := Option.ne_none_iff_exists'.mp (h.resolve_left fun hn => hn hg)
    exact ⟨e, r.entry, State.entryFor_free hg he⟩

/-- The first request of all is taken where there is an entry for it. -/
theorem exec_launchRequest (hhome : r.home = h) (hhead : s.reqs.head? = some r) (hentry : s.entryFor r = some (e, l)) :
    exec (.launchRequest h) s = .next (({ s with reqs := s.reqs.tail } : State).countDown r e l) := by
  obtain ⟨rest, hreqs⟩ := List.head?_eq_some_iff.mp hhead
  have htake : (s.takeRequest r).isSome = true := by rw [State.takeRequest_eq, hentry]; rfl
  have htake' : ({ s with reqs := rest } : State).takeRequest r = some (({ s with reqs := rest } : State).countDown r e l) := by
    have hentry' : ({ s with reqs := rest } : State).entryFor r = some (e, l) := hentry
    rw [State.takeRequest_eq, hentry']
    rfl
  show execLaunchRequest h s = _
  unfold execLaunchRequest
  rw [hreqs, List.find?_cons_of_pos (by simp [hhome, htake])]
  dsimp only
  rw [List.erase_cons_head, htake']
  rfl

/-- An entry that stays above 0, or one of a frozen context, is counted down and nothing else happens. -/
theorem State.countDown_held (hheld : 1 < l.count ∨ (s.acceptReq r).1.frozen r.ctx = true) :
    ∃ ds o, s.countDown r e l = { (s.acceptReq r).1 with dies := ds } ∧
      (s.countDown r e l).launch? r.home e = some (r.counted l (s.acceptReq r).2 o) := by
  unfold State.countDown
  extract_lets s1 o l1 s2 y s3
  have hl2 : s2.launch? r.home e = some l1 := State.launch?_setDep_launch ..
  by_cases hcount : l1.count = 0
  · have hmore : ¬1 < l.count := fun hlt => Nat.sub_ne_zero_of_lt hlt hcount
    have hfrozen : s3.frozen r.ctx = true := hheld.resolve_left hmore
    have hl3 : s3.launch? r.home e = some l1 := by
      have hdep : s3.dep r.home e = s2.dep r.home e := by
        unfold State.dep s3
        rw [State.die_setDie_same]
      unfold State.launch? at hl2 ⊢
      rw [hdep]
      exact hl2
    rw [if_pos hcount, if_pos hfrozen]
    exact ⟨_, o, rfl, hl3⟩
  · rw [if_neg hcount]
    exact ⟨_, o, rfl, hl2⟩

theorem State.judged_countDown (s : State) (r : LaunchReq) (e : Nat) (l : LaunchEntry) : (s.acceptReq r).1.Judged (s.countDown r e l) := by
  unfold State.countDown
  extract_lets s1 o l1 s2 y s3
  have h2 : s1.Judged s2 := .of_eq rfl rfl rfl
  have h3 : s1.Judged s3 := .of_eq rfl rfl rfl
  split
  · split
    · exact h3
    · exact h3.trans (State.judged_checkLaunch ..)
  · exact h2

/-- A request that no command waits for is just accepted. -/
theorem State.acceptReq_none (hwin : r.win = none) (hgdone : r.gdone = none) : s.acceptReq r = (s, []) := by
  unfold State.acceptReq
  rw [hwin, hgdone]
  rfl

/-- The LAUNCH of an accepted request is answered (R354). -/
theorem State.acceptReq_launch {w : Nat} {f : InFlight} (hwin : r.win = some w) (hgdone : r.gdone = none)
    (hflight : (s.ctx w).inFlight = some f) :
    s.acceptReq r = ((s.updCtx w fun x => { x with inFlight := none }).answer w f.seq 0 [], []) := by
  unfold State.acceptReq
  rw [hwin, hgdone]
  unfold State.launchOk
  dsimp only
  rw [hflight]
  rfl

/-- The GLAUNCH of an accepted request completes, or waits for the graph where it names GDONE (R224). -/
theorem State.acceptReq_glaunch {k : Cmd} (hwin : r.win = none) (hgdone : r.gdone = some k.id) (hk : s.cmd? k.id = some k) :
    s.acceptReq r = if k.w3.getLsbD 31 then (s, [k.id]) else (s.finishCmd k.id, []) := by
  unfold State.acceptReq State.accepted
  rw [hwin, hgdone]
  show (match s.cmd? k.id with | none => _ | some k => _) = _
  rw [hk]
  rfl

/-- Where no command waits for it, a request counts its entry down and leaves the others in line. -/
theorem launchRequest_counts (hhome : r.home = h) (hhead : s.reqs.head? = some r) (hgdone : r.gdone = none) (hwin : r.win = none)
    (hentry : s.entryFor r = some (e, l)) (hheld : 1 < l.count ∨ s.frozen r.ctx = true) :
    ∃ t o, exec (.launchRequest h) s = .next t ∧ t.reqs = s.reqs.tail ∧ t.launch? h e = some (r.counted l [] o) := by
  have hacc := State.acceptReq_none (s := { s with reqs := s.reqs.tail }) hwin hgdone
  obtain ⟨ds, o, hdown, hl⟩ := State.countDown_held (s := { s with reqs := s.reqs.tail }) (r := r) (e := e) (l := l)
    (hheld.imp_right fun hf => by rw [hacc]; exact hf)
  rw [hacc] at hdown hl
  refine ⟨_, o, exec_launchRequest hhome hhead hentry, ?_, hhome ▸ hl⟩
  rw [hdown]

/-- A LAUNCH is answered as its request is accepted, whatever its graph then comes to. -/
theorem launchRequest_answers {w : Nat} {f : InFlight} (hhome : r.home = h) (hhead : s.reqs.head? = some r) (hgdone : r.gdone = none)
    (hwin : r.win = some w) (hflight : (s.ctx w).inFlight = some f) (hentry : s.entryFor r = some (e, l)) :
    ∃ t, exec (.launchRequest h) s = .next t ∧ (t.win w).status = 0 ∧ (t.win w).rseq = f.seq ∧ (t.ctx w).inFlight = none := by
  have hjudged := ({ s with reqs := s.reqs.tail } : State).judged_countDown r e l
  rw [State.acceptReq_launch (s := { s with reqs := s.reqs.tail }) hwin hgdone hflight] at hjudged
  obtain ⟨hstatus, hrseq⟩ := hjudged.answers w
  refine ⟨_, exec_launchRequest hhome hhead hentry, hstatus.trans ?_, hrseq.trans ?_, (hjudged.flights w).trans ?_⟩
  · exact congrArg HostWindow.status (State.win_setWin_same ..)
  · exact congrArg HostWindow.rseq (State.win_setWin_same ..)
  · exact congrArg Context.inFlight (State.ctx_updCtx_same _ w fun x => { x with inFlight := none })

/-- Without GDONE a GLAUNCH completes as its request is accepted. -/
theorem launchRequest_completes {k : Cmd} (hhome : r.home = h) (hhead : s.reqs.head? = some r) (hgdone : r.gdone = some k.id)
    (hwin : r.win = none) (hk : s.cmd? k.id = some k) (hbit : k.w3.getLsbD 31 = false) (hentry : s.entryFor r = some (e, l)) :
    ∃ t, exec (.launchRequest h) s = .next t ∧ t.cmd? k.id = none := by
  have hjudged := ({ s with reqs := s.reqs.tail } : State).judged_countDown r e l
  have hk' : ({ s with reqs := s.reqs.tail } : State).cmd? k.id = some k := hk
  rw [State.acceptReq_glaunch hwin hgdone hk', hbit] at hjudged
  exact ⟨_, exec_launchRequest hhome hhead hentry, hjudged.cmds _ (State.cmd?_finishCmd ..)⟩

/-- With GDONE it waits for the graph. -/
theorem launchRequest_waits {k : Cmd} (hhome : r.home = h) (hhead : s.reqs.head? = some r) (hgdone : r.gdone = some k.id)
    (hwin : r.win = none) (hk : s.cmd? k.id = some k) (hbit : k.w3.getLsbD 31 = true) (hentry : s.entryFor r = some (e, l))
    (hmore : 1 < l.count) : ∃ t o, exec (.launchRequest h) s = .next t ∧ t.cmd? k.id = some k ∧
      t.launch? h e = some (r.counted l [k.id] o) := by
  have hk' : ({ s with reqs := s.reqs.tail } : State).cmd? k.id = some k := hk
  have hacc := State.acceptReq_glaunch hwin hgdone hk'
  rw [hbit, if_pos rfl] at hacc
  obtain ⟨ds, o, hdown, hl⟩ := State.countDown_held (s := { s with reqs := s.reqs.tail }) (r := r) (e := e) (.inl hmore)
  rw [hacc] at hdown hl
  refine ⟨_, o, exec_launchRequest hhome hhead hentry, ?_, hhome ▸ hl⟩
  rw [hdown]
  exact hk

end requests

end Sys2Proof.Machine
end

section
/-! PROOFS. A graph launches: its nodes are reserved and its roots enter READY (R321). -/

namespace Sys2Proof.Machine

/-! ## Reservation -/

section reserve
variable {s s1 : State} {l : LaunchEntry} {home le ix : Nat} {recs : List NodeRec} {ns : List (Nat × Nat)}

theorem State.freeEntry_free {d e : Nat} (h : s.freeEntry d = some e) : s.dep d e = .free := by
  unfold State.freeEntry at h
  generalize List.range 4096 = entries at h
  simpa using List.find?_some h

/-- Entries reserved for records: free before, all different, each with the new node of its record on the record's die, and no
other entry has changed. -/
structure Reserved (s s1 : State) (l : LaunchEntry) (home le ix : Nat) (recs : List NodeRec) (ns : List (Nat × Nat)) : Prop where
  len : ns.length = recs.length
  nodup : ns.Nodup
  free : ∀ p ∈ ns, s.dep p.1 p.2 = .free
  others : ∀ d e, (d, e) ∉ ns → s1.dep d e = s.dep d e
  nodes : ∀ (i : Nat) r (p : Nat × Nat), recs[i]? = some r → ns[i]? = some p →
    p.1 = r.die ∧ s1.node? p.1 p.2 = some (newNode l home le (ix + i) r)
  gtc : s1.gtc = s.gtc

theorem Reserved.cons {e : Nat} {r : NodeRec} (hfree : s.dep r.die e = .free)
    (h : Reserved (s.setDep r.die e (.node (newNode l home le ix r))) s1 l home le (ix + 1) recs ns) :
    Reserved s s1 l home le ix (r :: recs) ((r.die, e) :: ns) := by
  have hnew : (r.die, e) ∉ ns := fun hmem => by
    have := h.free _ hmem
    rw [State.dep_setDep_same] at this
    cases this
  refine ⟨congrArg Nat.succ h.len, List.nodup_cons.mpr ⟨hnew, h.nodup⟩, fun p hp => ?free, fun d e' hp => ?others,
    fun i q p hq hp => ?nodes, h.gtc⟩
  case free =>
    rcases List.mem_cons.mp hp with rfl | hp
    · exact hfree
    · rw [← State.dep_setDep_other s (.node (newNode l home le ix r)) fun he : (p.1, p.2) = (r.die, e) => hnew (he ▸ hp)]
      exact h.free p hp
  case others =>
    obtain ⟨hne, hnot⟩ := not_or.mp (mt List.mem_cons.mpr hp)
    rw [h.others d e' hnot, State.dep_setDep_other _ _ hne]
  case nodes =>
    cases i with
    | zero =>
      obtain rfl : r = q := Option.some.inj hq
      obtain rfl : (r.die, e) = p := Option.some.inj hp
      refine ⟨rfl, ?_⟩
      unfold State.node?
      rw [h.others _ _ hnew, State.dep_setDep_same]
      rfl
    | succ i =>
      rw [show ix + (i + 1) = ix + 1 + i by omega]
      exact h.nodes i q p hq hp

theorem State.reserveNodes_reserved (h : s.reserveNodes l home le ix recs = some (s1, ns)) : Reserved s s1 l home le ix recs ns := by
  induction recs generalizing s ix ns with
  | nil =>
    cases h
    exact ⟨rfl, List.nodup_nil, fun _ hp => absurd hp List.not_mem_nil, fun _ _ _ => rfl, nofun, rfl⟩
  | cons r recs ih =>
    rw [State.reserveNodes_cons, Option.bind_eq_some_iff] at h
    obtain ⟨e, he, hmap⟩ := h
    obtain ⟨⟨t, ms⟩, hrest, heq⟩ := Option.map_eq_some_iff.mp hmap
    cases heq
    exact (ih hrest).cons (State.freeEntry_free he)

section reserved
variable (hres : Reserved s s1 l home le ix recs ns)
include hres

/-- Every entry is reserved for a record. -/
theorem Reserved.record {i : Nat} {p : Nat × Nat} (hp : ns[i]? = some p) : ∃ r, recs[i]? = some r := by
  obtain ⟨hi, -⟩ := List.getElem?_eq_some_iff.mp hp
  exact ⟨_, List.getElem?_eq_getElem (hres.len ▸ hi)⟩

/-- No entry of a launched graph is reserved. -/
theorem Reserved.place {h e : Nat} {l' : LaunchEntry} (hl : s.launch? h e = some l') : (h, e) ∉ ns := fun hmem => by
  unfold State.launch? at hl
  rw [hres.free _ hmem] at hl
  cases hl

end reserved

end reserve

/-! ## Roots enter READY -/

/-- A node as its graph launches: one without predecessors is READY. -/
def NodeEntry.rooted (x : NodeEntry) (gtc : Word) : NodeEntry :=
  if x.count = 0 ∧ x.st = .wait then { x with st := .ready, count := 0, tReady := gtc } else x

section roots
variable {s : State} {ns : List (Nat × Nat)}

/-- The step of a node of cores. -/
theorem State.readyRoots_cons {d e : Nat} {x : NodeEntry} (hx : s.node? d e = some x) (hkind : x.nr.kind = 0) :
    ∃ t : State, s.readyRoots ((d, e) :: ns) = t.readyRoots ns ∧ t.node? d e = some (x.rooted s.gtc) ∧
      (∀ d' e', (d', e') ≠ (d, e) → t.dep d' e' = s.dep d' e') ∧ t.gtc = s.gtc := by
  have hrunner : ∀ {u : State} {y : NodeEntry}, u.node? d e = some y → y.nr.kind = 0 → u.dispatchEngine d e = u := fun hu hy =>
    State.dispatchEngine_runner fun z hz => by
      rw [hu] at hz
      cases hz
      exact hy
  rw [State.readyRoots, NodeEntry.rooted, hx]
  dsimp only
  split
  · have hready : (s.becomeReady d e x) = s.setDep d e (.node { x with st := .ready, count := 0, tReady := s.gtc }) :=
      hrunner (State.node?_setDep_node ..) hkind
    rw [hready]
    exact ⟨_, rfl, State.node?_setDep_node .., fun d' e' hne => State.dep_setDep_other _ _ hne, rfl⟩
  · rw [hrunner hx hkind]
    exact ⟨s, rfl, hx, fun _ _ _ => rfl, rfl⟩

/-- Every listed node of cores is as its graph launches, and no other entry has changed. -/
theorem State.readyRoots_runners (hnodup : ns.Nodup) (h : ∀ p ∈ ns, ∃ x, s.node? p.1 p.2 = some x ∧ x.nr.kind = 0) :
    (∀ p ∈ ns, ∀ x, s.node? p.1 p.2 = some x → (s.readyRoots ns).node? p.1 p.2 = some (x.rooted s.gtc)) ∧
      ∀ d e, (d, e) ∉ ns → (s.readyRoots ns).dep d e = s.dep d e := by
  induction ns generalizing s with
  | nil => exact ⟨fun p hp => absurd hp List.not_mem_nil, fun _ _ _ => rfl⟩
  | cons q ns ih =>
    obtain ⟨d, e⟩ := q
    obtain ⟨hnew, hnodup⟩ := List.nodup_cons.mp hnodup
    obtain ⟨x, hx, hkind⟩ := h _ List.mem_cons_self
    obtain ⟨t, hstep, hroot, hdep, hgtc⟩ := State.readyRoots_cons (ns := ns) hx hkind
    have hnode : ∀ p ∈ ns, t.node? p.1 p.2 = s.node? p.1 p.2 := fun p hp => by
      unfold State.node?
      rw [hdep _ _ fun he : (p.1, p.2) = (d, e) => hnew (he ▸ hp)]
    obtain ⟨hnodes, hothers⟩ := ih hnodup fun p hp => by
      rw [hnode p hp]
      exact h p (List.mem_cons_of_mem _ hp)
    rw [hstep]
    refine ⟨fun p hp y hy => ?_, fun d' e' hp => ?_⟩
    · rcases List.mem_cons.mp hp with rfl | hp
      · rw [hx] at hy
        cases hy
        unfold State.node? at hroot ⊢
        rw [hothers _ _ hnew]
        exact hroot
      · rw [← hgtc]
        exact hnodes p hp y ((hnode p hp).trans hy)
    · obtain ⟨hne, hnot⟩ := not_or.mp (mt List.mem_cons.mpr hp)
      rw [hothers _ _ hnot, hdep _ _ hne]

end roots

/-! ## The launch -/

/-- A graph with a node that is not over does not complete. -/
theorem State.checkGraph_unfinished {s : State} {h e : Nat} {l : LaunchEntry} {p : Nat × Nat} {x : NodeEntry} (hl : s.launch? h e = some l)
    (hp : p ∈ l.nodes) (hx : s.node? p.1 p.2 = some x) (hst : x.st = .wait ∨ x.st = .ready) : s.checkGraph h e = s := by
  have hover : s.nodeOver p = false := by
    rw [State.nodeOver, hx]
    rcases hst with hst | hst <;> simp [hst]
  have hall : l.nodes.all s.nodeOver = false := List.all_eq_false.mpr ⟨p, hp, by simp [hover]⟩
  unfold State.checkGraph
  rw [hl]
  exact if_neg (by simp [hall])

/-- Without a table of handles a reserved graph is launched as its roots enter READY. -/
theorem State.activate_without_table {s : State} {h e : Nat} {l : LaunchEntry} (htab : l.hdr.htab = 0) : s.activate h e l =
    ((s.setDep h e (.launch { l with launched := true, handles := 0, paused := false })).readyRoots l.nodes).checkGraph h e := by
  unfold State.activate
  rw [if_pos htab]

/-- The one graph of a die that may launch takes the entries reserved for it. -/
theorem exec_graphLaunch_single {s s1 : State} {h e : Nat} {l : LaunchEntry} {ns : List (Nat × Nat)} (hone : s.launchable h = [(e, l)])
    (hrecs : l.recs ≠ []) (hnodes : l.nodes = []) (hreserve : s.reserveNodes l h e 0 l.recs = some (s1, ns)) :
    exec (.graphLaunch h) s =
      .next ((s1.setDep h e (.launch { l with nodes := ns })).activate h e { l with nodes := ns }) := by
  show execGraphLaunch h s = _
  unfold execGraphLaunch
  rw [hone]
  simp only [List.find?_cons, hrecs, hnodes, decide_false, List.find?_nil, ne_eq, not_true_eq_false, firstOrder, List.foldl_nil, hreserve]

section launch
variable {s s1 : State} {h e : Nat} {l : LaunchEntry} {ns : List (Nat × Nat)}

/-- A new node of a record as its graph launches. -/
theorem rooted_newNode (i : Nat) (r : NodeRec) (gtc : Word) : (newNode l h e i r).rooted gtc =
    if r.npred = 0 then { newNode l h e i r with st := .ready, tReady := gtc } else newNode l h e i r := by
  unfold NodeEntry.rooted
  by_cases hr : r.npred = 0
  · rw [if_pos ⟨hr, rfl⟩, if_pos hr]
    simp [newNode, hr]
  · rw [if_neg fun hc => hr hc.1, if_neg hr]

/-- The machine as the reserved graph of entry e launches, its roots still waiting. -/
def State.withLaunched (s : State) (h e : Nat) (l : LaunchEntry) (ns : List (Nat × Nat)) : State :=
  (s.setDep h e (.launch { l with nodes := ns })).setDep h e (.launch { l with
    nodes := ns, launched := true, handles := 0, paused := false })

theorem Reserved.node_withLaunched (hres : Reserved s s1 l h e 0 l.recs ns) (hplace : (h, e) ∉ ns) {i : Nat} {r : NodeRec} {p : Nat × Nat}
    (hr : l.recs[i]? = some r) (hp : ns[i]? = some p) : (s1.withLaunched h e l ns).node? p.1 p.2 = some (newNode l h e i r) := by
  have hne : (p.1, p.2) ≠ (h, e) := fun he => hplace (he ▸ List.mem_of_getElem? hp)
  rw [State.withLaunched, State.node?_setDep_other _ _ hne, State.node?_setDep_other _ _ hne, (hres.nodes i r p hr hp).2, Nat.zero_add]

/-- A reserved graph of nodes of cores launches: its entry says so, and its roots are READY. -/
theorem Reserved.readyRoots (hres : Reserved s s1 l h e 0 l.recs ns) (hl : s.launch? h e = some l) (hkinds : ∀ r ∈ l.recs, r.kind = 0) :
    ((s1.withLaunched h e l ns).readyRoots ns).launch? h e = some { l with nodes := ns, launched := true, handles := 0, paused := false } ∧
      ∀ (i : Nat) (r : NodeRec) (p : Nat × Nat), l.recs[i]? = some r → ns[i]? = some p →
        ((s1.withLaunched h e l ns).readyRoots ns).node? p.1 p.2 =
          some (if r.npred = 0 then { newNode l h e i r with st := .ready, tReady := s.gtc } else newNode l h e i r) := by
  have hplace := hres.place hl
  obtain ⟨hroots, hothers⟩ := State.readyRoots_runners (s := s1.withLaunched h e l ns) hres.nodup fun p hp => by
    obtain ⟨i, hi⟩ := List.getElem?_of_mem hp
    obtain ⟨r, hr⟩ := hres.record hi
    exact ⟨_, hres.node_withLaunched hplace hr hi, hkinds r (List.mem_of_getElem? hr)⟩
  refine ⟨?_, fun i r p hr hp => ?_⟩
  · unfold State.launch?
    rw [hothers h e hplace, State.withLaunched, State.dep_setDep_same]
  · rw [hroots p (List.mem_of_getElem? hp) _ (hres.node_withLaunched hplace hr hp), rooted_newNode, ← hres.gtc]
    rfl

theorem graphLaunch_runners (hone : s.launchable h = [(e, l)]) (hl : s.launch? h e = some l) (hrecs : l.recs ≠ []) (hnodes : l.nodes = [])
    (htab : l.hdr.htab = 0) (hkinds : ∀ r ∈ l.recs, r.kind = 0) (hreserve : s.reserveNodes l h e 0 l.recs = some (s1, ns)) :
    exec (.graphLaunch h) s = .next ((s1.withLaunched h e l ns).readyRoots ns) := by
  have hres := State.reserveNodes_reserved hreserve
  obtain ⟨hlaunch, hfinal⟩ := hres.readyRoots hl hkinds
  have hcheck : ((s1.withLaunched h e l ns).readyRoots ns).checkGraph h e = (s1.withLaunched h e l ns).readyRoots ns := by
    obtain ⟨p, hp⟩ := List.exists_mem_of_length_pos (hres.len ▸ List.length_pos_of_ne_nil hrecs)
    obtain ⟨i, hi⟩ := List.getElem?_of_mem hp
    obtain ⟨r, hr⟩ := hres.record hi
    refine State.checkGraph_unfinished hlaunch hp (hfinal i r p hr hi) ?_
    split
    · exact .inr rfl
    · exact .inl rfl
  rw [exec_graphLaunch_single hone hrecs hnodes hreserve, State.activate_without_table (l := { l with nodes := ns }) htab]
  exact congrArg _ hcheck

end launch

end Sys2Proof.Machine
end

section
/-! PROOFS. LAUNCH and GLAUNCH make their requests (R224, R354, R372, R396). -/

namespace Sys2Proof.Machine

/-! ## Code and tables of a context (R402) -/

section images
variable {s t : State}

theorem State.homeReads_congr (h : ∀ va pa, t.homeRead va pa = s.homeRead va pa) (va : Nat) (pas : List Nat) :
    t.homeReads va pas = s.homeReads va pas := by
  induction pas generalizing va with
  | nil => rfl
  | cons pa pas ih => rw [State.homeReads, State.homeReads, h, ih]

theorem State.loadEx_congr (hctxs : t.ctxs = s.ctxs) (h : ∀ va pa, t.homeRead va pa = s.homeRead va pa) (k va n : Nat) :
    t.loadEx k va n = s.loadEx k va n := by
  have hpages : t.pages k = s.pages k := by
    unfold State.pages State.ctx
    rw [hctxs]
  rw [State.loadEx, State.loadEx, hpages]
  simp only [State.homeReads_congr h]

variable (h : ∀ k va n, t.loadEx k va n = s.loadEx k va n)
include h

theorem State.readNodes_congr (k image off nn c n : Nat) : t.readNodes k image off nn c n = s.readNodes k image off nn c n := by
  have hsucc : ∀ bs, t.readSucc k image bs = s.readSucc k image bs := fun bs => by
    unfold State.readSucc
    simp only [h]
  induction c generalizing n with
  | zero => rfl
  | succ c ih => rw [State.readNodes, State.readNodes, h]; simp only [hsucc, ih]

theorem State.readGraph_congr (k image home : Nat) : t.readGraph k image home = s.readGraph k image home := by
  unfold State.readGraph
  simp only [h, State.readNodes_congr h]

end images

/-! ## Doorbells -/

section doorbells
variable {s : State} {win code : Nat} {seq : BitVec 32}

/-- A window with another number in its doorbell. -/
def State.rung (s : State) (win : Nat) (seq : BitVec 32) : State := s.setWin win { s.win win with doorbell := seq }

theorem State.rings.no_flight (h : s.rings win seq) (hwin : win < 4) : (s.ctx win).inFlight = none := by
  simpa [State.busy, hwin] using h.free

/-- The doorbell of a command of a host window that may stay in flight begins it. -/
theorem State.rings.begins (h : s.rings win seq) (hwin : win < 4) (hcode : (s.win win).code.toNat = code)
    (start go : InFlight → State → State) :
    flightDoorbell code win seq start go s = .next (start ((s.win win).flight seq) (s.rung win seq)) := by
  unfold flightDoorbell
  rw [if_pos hwin, h.no_flight hwin]
  dsimp only
  unfold doorbell
  extract_lets w rung
  have hnew : ¬(win < 4 ∧ (s.busy win = true ∨ seq = w.rseq)) := fun hr =>
    hr.2.elim (fun hb => by simp [h.free] at hb) (h.new hwin)
  have hport : ¬((!codeIs code w) = true ∨ (win = 4 ∧ (!sideBand w) = true)) := fun hp =>
    hp.elim (fun hc => by simp [codeIs, w, hcode] at hc) fun hs => absurd hs.1 (Nat.ne_of_lt hwin)
  have hflags : ¬(4 ≤ w.flags.toNat ∧ (!(s.certsRefused && decide (w.code = 0xE#16))) = true) := fun hf =>
    absurd hf.1 (Nat.not_le.mpr h.flags)
  have hlink : ¬(win < 4 ∧ s.hostDown = true ∧ (!sideBand w) = true) := fun hl => by simp [h.link hwin] at hl
  rw [if_neg (Nat.not_le.mpr h.known), if_neg hnew, if_neg hport, if_neg hflags, if_neg hlink]
  rfl

theorem State.win_rung (s : State) (win : Nat) (seq : BitVec 32) : (s.rung win seq).win win = { s.win win with doorbell := seq } :=
  State.win_setWin_same ..

/-- A doorbell changes nothing that an image is read through. -/
theorem State.loadEx_rung (s : State) (win : Nat) (seq : BitVec 32) (k va n : Nat) :
    (s.rung win seq).uncopied.loadEx k va n = s.uncopied.loadEx k va n :=
  State.loadEx_congr (s := s.uncopied) (t := (s.rung win seq).uncopied) rfl (fun _ _ => rfl) k va n

theorem State.launchBad_rung (s : State) (win : Nat) (seq : BitVec 32) (k image : Nat) :
    (s.rung win seq).launchBad k image = s.launchBad k image := by
  unfold State.launchBad
  rw [State.readGraph_congr (s.loadEx_rung win seq)]

/-- An answer to a command whose doorbell has just been rung. -/
theorem answered_rung (s : State) (win : Nat) (seq : BitVec 32) (status : Nat) :
    Answered s ((s.rung win seq).answer win seq status []) win seq status [] where
  status := congrArg HostWindow.status (State.win_setWin_same ..)
  seqs := ⟨congrArg HostWindow.rseq (State.win_setWin_same ..),
    (congrArg HostWindow.doorbell (State.win_setWin_same ..)).trans (congrArg HostWindow.doorbell (s.win_rung win seq))⟩
  res := fun i v _ hv => by cases hv
  block := (congrArg HostWindow.block (State.win_setWin_same ..)).trans (by
    show ((s.rung win seq).win win).block = _
    rw [State.win_rung]
    rfl)
  others := fun m hm => (State.win_setWin_other _ _ _ _ hm).trans (State.win_setWin_other _ _ _ _ hm)

end doorbells

/-! ## Which images LAUNCH refuses -/

section images
variable {s : State} {k image : Nat} {bs : List Byte}

/-- A fault at a node names one of the nodes that were still to be read. -/
theorem State.readNodes_fault {off nn c n m : Nat} {f : MemFault} (h : s.readNodes k image off nn c n = .error (.mem f m)) :
    m < n + c := by
  induction c generalizing n with
  | zero => cases h
  | succ c ih =>
    rw [State.readNodes] at h
    split at h
    · cases h; omega
    · split at h
      · cases h; omega
      · cases h
      · split at h
        · cases h
        · unfold Except.map at h
          split at h
          next e he =>
            cases h
            have := ih he
            omega
          next => cases h

theorem hdrOk_nnodes (h : hdrOk image bs = true) : (GraphHdr.of bs).nnodes ≤ 4096 := by
  simp only [hdrOk, Bool.and_eq_true, decide_eq_true_eq] at h
  exact h.1.1.1.1.1.1.1.1.2.2

/-- A header that cannot be read is refused for a fatal fault only. -/
theorem State.launchBad_unread {f : MemFault} (h : s.uncopied.loadEx k image 64 = .error f) : s.launchBad k image = f.fatal := by
  unfold State.launchBad State.readGraph
  rw [h]
  simp

/-- A header that can be read is refused for what stands in it or in a node's record. -/
theorem State.launchBad_read (h : s.uncopied.loadEx k image 64 = .ok bs) : s.launchBad k image = true ↔
    (hdrOk image bs = false ∨ s.uncopied.readGraph k image 4 = .error (.bad 2)) := by
  by_cases hok : hdrOk image bs = true
  · have hnode : ∀ f m, s.uncopied.readGraph k image 4 = .error (.mem f m) → m ≠ 0xFFFF := fun f m hm => by
      unfold State.readGraph at hm
      rw [h] at hm
      dsimp only at hm
      rw [hok, if_neg (by decide)] at hm
      split at hm
      next e he =>
        cases hm
        have := State.readNodes_fault he
        have := hdrOk_nnodes hok
        omega
      next =>
        split at hm
        · cases hm
        · split at hm <;> cases hm
    unfold State.launchBad
    split
    next hg => simp [hok, hg]
    next sub hg => simp [hok, hg]
    next f m hg => simp [hok, hg, hnode f m hg]
  · have hbad : s.uncopied.readGraph k image 4 = .error (.bad 2) := by
      unfold State.readGraph
      rw [h]
      dsimp only
      rw [if_pos (by simpa using hok)]
    unfold State.launchBad
    rw [hbad]
    simp

end images

/-! ## Requests -/

section requests
variable {s : State} {die k image : Nat} {arg : Word} {gdone win : Option Nat}

theorem State.requestLaunch_read {bs : List Byte} (h : s.uncopied.loadEx k image 64 = .ok bs) :
    s.requestLaunch die k image arg gdone win =
      { s with reqs := s.reqs ++ [⟨(bs.getD 7 0).toNat % 4, (bs.getD 6 0).toNat, k, image, arg, gdone, win⟩] } := by
  rw [State.requestLaunch, h]

/-- A recoverable fault at the header holds the request. -/
theorem State.requestLaunch_held {f : MemFault} (h : s.uncopied.loadEx k image 64 = .error f) (hf : f.fatal = false) :
    ∃ r : FaultRec, r.fatal = false ∧ s.requestLaunch die k image arg gdone win =
      (s.updCtx k fun x => { x with pending := x.pending ++ [r] }).updCtx k fun x => { x with
        heldReqs := x.heldReqs ++ [⟨die, 0, k, image, arg, gdone, win⟩] } := by
  let r := s.engineRec k die f.cls f.sub 0x3FFF f.fatal (!f.fatal) (some f.addr) 0xFFFF image
  have hr : r.fatal = false := hf
  refine ⟨r.placed, r.placed_fatal.trans hr, ?_⟩
  rw [State.requestLaunch, h]
  dsimp only
  rw [if_neg (by rw [hf]; decide), State.report_of_not_fatal s k hr]

end requests

/-! ## LAUNCH -/

section launch
variable {s : State} {k : Nat} {seq : BitVec 32}

/-- A LAUNCH that stays in flight as its request stands: what its requester sees at once. -/
structure LaunchWaits (s t : State) (k : Nat) (seq : BitVec 32) : Prop where
  exec : exec (.launch k seq) s = .next t
  win : t.win k = { s.win k with doorbell := seq }
  flight : ∃ f, (t.ctx k).inFlight = some f ∧ f.code = 9#16 ∧ f.seq = seq
  mem : t.mem = s.mem
  cores : t.cores = s.cores
  dies : t.dies = s.dies

variable (h : s.rings k seq) (hk : k < 4) (hcode : (s.win k).code = 9#16)
include h hk hcode

theorem exec_launch : exec (.launch k seq) s = .next ((s.rung k seq).launchStart k ((s.win k).flight seq)) :=
  h.begins hk (code := 9) (by rw [hcode]; rfl) (fun f s => s.launchStart k f) fun _ s => s

/-- A LAUNCH of a bad address or of a bad image is refused. -/
theorem exec_launch_refused (hbad : 2 ^ 56 ≤ ((s.win k).arg 0).toNat ∨ ((s.win k).arg 0).toNat % 64 ≠ 0 ∨
    s.launchBad k ((s.win k).arg 0).toNat = true) :
    ∃ t, exec (.launch k seq) s = .next t ∧ Answered s t k seq 2 [] ∧ t.inside = s.inside := by
  refine ⟨(s.rung k seq).answer k seq stBadArg [], (exec_launch h hk hcode).trans ?_, answered_rung s k seq 2, rfl⟩
  have hcond : (!addrOk ((s.win k).arg 0)) = true ∨ ((s.win k).arg 0).toNat % 64 ≠ 0 ∨
      (s.rung k seq).launchBad k ((s.win k).arg 0).toNat = true := by
    simpa [addrOk, State.launchBad_rung] using hbad
  exact congrArg _ (if_pos hcond)

/-- Another one makes its request and stays in flight. -/
theorem exec_launch_requests (hlow : ((s.win k).arg 0).toNat < 2 ^ 56) (halign : ((s.win k).arg 0).toNat % 64 = 0)
    (hgood : s.launchBad k ((s.win k).arg 0).toNat = false) : exec (.launch k seq) s =
      .next (((s.rung k seq).requestLaunch 4 k ((s.win k).arg 0).toNat ((s.win k).arg 1) none (some k)).updCtx k fun x => { x with
        inFlight := some ((s.win k).flight seq) }) := by
  rw [exec_launch h hk hcode]
  have hcond : ¬((!addrOk ((s.win k).arg 0)) = true ∨ ((s.win k).arg 0).toNat % 64 ≠ 0 ∨
      (s.rung k seq).launchBad k ((s.win k).arg 0).toNat = true) := by
    rw [State.launchBad_rung, hgood, addrOk, decide_eq_true hlow, halign]
    decide
  exact congrArg _ (if_neg hcond)

omit h hk in
/-- The requester of a LAUNCH that stays in flight sees its doorbell, and nothing of memory, cores and graphs has changed. -/
theorem launchWaits_of {t : State} (hexec : exec (.launch k seq) s = .next (t.updCtx k fun x => { x with
    inFlight := some ((s.win k).flight seq) })) (hwins : t.wins = (s.rung k seq).wins) (hmem : t.mem = s.mem) (hcores : t.cores = s.cores)
    (hdies : t.dies = s.dies) :
    LaunchWaits s (t.updCtx k fun x => { x with inFlight := some ((s.win k).flight seq) }) k seq where
  exec := hexec
  win := by
    rw [← s.win_rung k seq]
    unfold State.win
    rw [← hwins]
    rfl
  flight := ⟨_, congrArg Context.inFlight (State.ctx_updCtx_same ..), hcode, rfl⟩
  mem := hmem
  cores := hcores
  dies := hdies

/-- A recoverable fault at the header holds the request until the freeze lifts. -/
theorem exec_launch_held {f : MemFault} (hlow : ((s.win k).arg 0).toNat < 2 ^ 56) (halign : ((s.win k).arg 0).toNat % 64 = 0)
    (hread : s.uncopied.loadEx k ((s.win k).arg 0).toNat 64 = .error f) (hf : f.fatal = false) :
    ∃ t r, LaunchWaits s t k seq ∧ t.reqs = s.reqs ∧ (t.ctx k).pending = (s.ctx k).pending ++ [r] ∧ r.fatal = false ∧
      (t.ctx k).heldReqs = (s.ctx k).heldReqs ++ [⟨4, 0, k, ((s.win k).arg 0).toNat, (s.win k).arg 1, none, some k⟩] := by
  have hread' := (s.loadEx_rung k seq k ((s.win k).arg 0).toNat 64).trans hread
  obtain ⟨r, hr, hreq⟩ := State.requestLaunch_held (die := 4) (arg := (s.win k).arg 1) (gdone := none) (win := some k) hread' hf
  have hexec := exec_launch_requests h hk hcode hlow halign ((State.launchBad_unread hread).trans hf)
  rw [hreq] at hexec
  refine ⟨_, r, launchWaits_of hcode hexec rfl rfl rfl rfl, rfl, ?_, hr, ?_⟩
  · rw [State.ctx_updCtx_same, State.ctx_updCtx_same, State.ctx_updCtx_same]
    rfl
  · rw [State.ctx_updCtx_same, State.ctx_updCtx_same, State.ctx_updCtx_same]
    rfl

/-- Else the request goes to the image's home die. -/
theorem exec_launch_requested {bs : List Byte} (hlow : ((s.win k).arg 0).toNat < 2 ^ 56) (halign : ((s.win k).arg 0).toNat % 64 = 0)
    (hread : s.uncopied.loadEx k ((s.win k).arg 0).toNat 64 = .ok bs) (hgood : s.launchBad k ((s.win k).arg 0).toNat = false) :
    ∃ t, LaunchWaits s t k seq ∧ t.reqs = s.reqs ++
      [⟨(bs.getD 7 0).toNat % 4, (bs.getD 6 0).toNat, k, ((s.win k).arg 0).toNat, (s.win k).arg 1, none, some k⟩] := by
  have hread' := (s.loadEx_rung k seq k ((s.win k).arg 0).toNat 64).trans hread
  have hexec := exec_launch_requests h hk hcode hlow halign hgood
  rw [State.requestLaunch_read hread'] at hexec
  exact ⟨_, launchWaits_of hcode hexec rfl rfl rfl rfl, rfl⟩

end launch

/-! ## GLAUNCH -/

/-- The start of a GLAUNCH asks the core's die for the launch. -/
theorem exec_commandStart_glaunch {s : State} {n : Nat} {k : Cmd} {bs : List Byte} (hk : s.cmd? k.id = some k) (ho : k.owner = .core n)
    (hopc : k.opc = 0x91#8) (hstart : s.mayStart k = true) (haccs : s.accsDone k = true) (hlow : k.a.toNat < 2 ^ 56)
    (halign : k.a.toNat % 64 = 0) (hread : s.uncopied.loadEx k.ctx k.a.toNat 64 = .ok bs) :
    ∃ t, exec (.commandStart k.id) s = .next t ∧ t.cores = s.cores ∧ t.mem = s.mem ∧
      t.cmd? k.id = some { k with state := .started, sub := 1 } ∧
      t.reqs = s.reqs ++ [⟨(bs.getD 7 0).toNat % 4, (bs.getD 6 0).toNat, k.ctx, k.a.toNat, k.b, some k.id, none⟩] := by
  let s1 := (s.started k).updCmd k.id fun j => { j with sub := 1 }
  have hread1 : s1.uncopied.loadEx k.ctx k.a.toNat 64 = .ok bs :=
    (State.loadEx_congr (s := s.uncopied) (t := s1.uncopied) rfl (fun _ _ => rfl) _ _ _).trans hread
  have hcmd : s1.cmd? k.id = some { k with state := .started, sub := 1 } :=
    State.cmd?_updCmd_same (f := fun j => { j with sub := 1 }) (fun _ => rfl)
      (State.cmd?_updCmd_same (f := fun j => { j with state := .started }) (fun _ => rfl) hk)
  have hexec : exec (.commandStart k.id) s = .next (s1.requestLaunch k.die k.ctx k.a.toNat k.b (some k.id) none) := by
    show execCommandStart k.id s = _
    rw [execCommandStart, hk]
    dsimp only
    rw [if_pos hstart, State.advanceOwner, ho]
    dsimp only
    unfold State.startOf
    rw [hopc]
    show Host.Outcome.next (s.startGlaunch k) = _
    unfold State.startGlaunch State.askGlaunch
    have hdone : (s.started k).accsDone k = true := haccs
    rw [addrOk, decide_eq_true hlow, if_neg (by decide), if_neg (by simp [halign]), hdone, if_pos rfl]
  rw [State.requestLaunch_read hread1] at hexec
  exact ⟨_, hexec, rfl, rfl, hcmd, rfl⟩

end Sys2Proof.Machine
end

section
/-! PROOFS. PLACE: the order of the experts, the records read for their regions, the table and the registers written (R326). -/

namespace Sys2Proof.Machine

/-! ## The order in which experts are laid -/

section order
variable {m : List Nat}

/-- Expert x is laid before expert y: it has more cores, or as many and the lower number. -/
def Ranks (m : List Nat) (x y : Nat) : Prop := m.getD y 0 < m.getD x 0 ∨ (m.getD x 0 = m.getD y 0 ∧ x < y)

theorem Ranks.trans {x y z : Nat} (h : Ranks m x y) (h' : Ranks m y z) : Ranks m x z := by
  unfold Ranks at *
  omega

theorem Ranks.of_not {x y : Nat} (h : ¬Ranks m x y) (hne : x ≠ y) : Ranks m y x := by
  unfold Ranks at *
  omega

theorem insertExpert_cons (x y : Nat) (l : List Nat) [Decidable (Ranks m x y)] :
    insertExpert m x (y :: l) = if Ranks m x y then x :: y :: l else y :: insertExpert m x l := by
  rw [insertExpert]
  exact if_congr (or_congr_right (and_congr_left' eq_comm)) rfl rfl

theorem mem_insertExpert {x z : Nat} {l : List Nat} : z ∈ insertExpert m x l ↔ z = x ∨ z ∈ l := by
  classical
  induction l with
  | nil => exact List.mem_singleton.trans (by simp)
  | cons y l ih =>
    rw [insertExpert_cons]
    split
    · exact List.mem_cons
    · rw [List.mem_cons, ih, List.mem_cons, or_left_comm]

theorem pairwise_insertExpert {x : Nat} {l : List Nat} (hl : l.Pairwise (Ranks m)) (hx : x ∉ l) : (insertExpert m x l).Pairwise (Ranks m) := by
  classical
  induction l with
  | nil => exact List.pairwise_singleton ..
  | cons y l ih =>
    obtain ⟨hy, hl⟩ := List.pairwise_cons.mp hl
    obtain ⟨hne, hx⟩ := not_or.mp (mt List.mem_cons.mpr hx)
    rw [insertExpert_cons]
    split
    next hr => exact List.pairwise_cons.mpr ⟨fun z hz => (List.mem_cons.mp hz).elim (fun he => he ▸ hr) fun hz => hr.trans (hy z hz),
      List.pairwise_cons.mpr ⟨hy, hl⟩⟩
    next hr =>
      exact List.pairwise_cons.mpr ⟨fun z hz => (mem_insertExpert.mp hz).elim (fun he => he ▸ Ranks.of_not hr hne) (hy z), ih hl hx⟩

/-- Sorting a list without repetition. -/
theorem sorted_foldr_insertExpert {l : List Nat} (hl : l.Nodup) :
    (l.foldr (insertExpert m) []).Pairwise (Ranks m) ∧ ∀ z, z ∈ l.foldr (insertExpert m) [] ↔ z ∈ l := by
  induction l with
  | nil => exact ⟨.nil, fun _ => Iff.rfl⟩
  | cons x l ih =>
    obtain ⟨hx, hl⟩ := List.nodup_cons.mp hl
    obtain ⟨hpair, hmem⟩ := ih hl
    refine ⟨pairwise_insertExpert hpair fun h => hx ((hmem x).mp h), fun z => ?_⟩
    rw [List.foldr_cons, mem_insertExpert, hmem, List.mem_cons]

/-- There is one list in that order of the experts that have cores. -/
theorem foldr_insertExpert_eq {xs : List Nat} {count : Nat} (hxs : xs.Pairwise (Ranks m))
    (hmem : ∀ x, x ∈ xs ↔ x < count ∧ m.getD x 0 ≠ 0) :
    ((List.range count).filter fun x => decide (m.getD x 0 ≠ 0)).foldr (insertExpert m) [] = xs := by
  obtain ⟨hpair, hin⟩ := sorted_foldr_insertExpert (m := m) (l := (List.range count).filter fun x => decide (m.getD x 0 ≠ 0))
    (List.nodup_range.filter _)
  have : Std.Irrefl (Ranks m) := ⟨fun x hx => by unfold Ranks at hx; omega⟩
  have : Std.Antisymm (Ranks m) := ⟨fun x y hx hy => by unfold Ranks at hx hy; omega⟩
  refine List.Pairwise.eq_of_mem_iff hpair hxs fun x => ?_
  rw [hin, hmem, List.mem_filter, List.mem_range, decide_eq_true_iff]

end order

/-! ## Lists of PLACE -/

section lists

/-- Consecutive values, by their number. -/
theorem chunks_eq (n k : Nat) (bs : List Byte) : chunks n k bs = (List.range k).map fun i => leNat ((bs.drop (n * i)).take n) := by
  induction k generalizing bs with
  | zero => rfl
  | succ k ih =>
    rw [chunks, ih, List.range_succ_eq_map, List.map_cons, List.map_map]
    refine congrArg₂ _ rfl (List.map_congr_left fun i _ => ?_)
    rw [List.drop_drop]
    exact congrArg (fun j => leNat ((bs.drop j).take n)) (Nat.mul_succ n i ▸ Nat.add_comm ..)

/-- Regions listed by the number of their expert: the one of expert x stands there if x is among those listed. -/
theorem find?_filterMap_range (laid : List (Nat × Nat × Nat × Nat)) (x n : Nat) :
    ((List.range n).filterMap fun y => laid.find? fun q => decide (q.1 = y)).find? (fun q => decide (q.1 = x)) =
      if x < n then laid.find? (fun q => decide (q.1 = x)) else none := by
  induction n with
  | zero => rfl
  | succ n ih =>
    rw [List.range_succ, List.filterMap_append, List.find?_append, ih]
    cases hq : laid.find? fun q => decide (q.1 = n) with
    | none =>
      rcases Nat.lt_trichotomy x n with hlt | rfl | hgt
      · simp [hq, hlt, Nat.lt_succ_of_lt hlt]
      · simp [hq]
      · simp [hq, Nat.not_lt.mpr hgt.le, Nat.not_lt.mpr hgt]
    | some q =>
      have hqn : q.1 = n := by simpa using List.find?_some hq
      rcases Nat.lt_trichotomy x n with hlt | rfl | hgt
      · simp [hq, hqn, hlt, Nat.lt_succ_of_lt hlt, hlt.ne']
      · simp [hq, hqn]
      · simp [hq, hqn, Nat.not_lt.mpr hgt.le, Nat.not_lt.mpr hgt, hgt.ne]

/-- Registers written one after the other. -/
theorem get_foldl_put {α : Type} (d : α) (f : Nat → α) (m : SMap α) (count x : Nat) :
    SMap.get d ((List.range count).foldl (fun m i => SMap.put m i (f i)) m) x = if x < count then f x else SMap.get d m x := by
  induction count with
  | zero => rfl
  | succ n ih =>
    rw [List.range_succ, List.foldl_append, List.foldl_cons, List.foldl_nil, SMap.get_put, ih]
    by_cases hx : x = n
    · simp [hx]
    · rw [if_neg hx]
      exact if_congr (by omega) rfl rfl

end lists

end Sys2Proof.Machine
end

section
/-! PROOFS. What PLACE reads (R326, R327). -/

namespace Sys2Proof.Machine

/-! ## Reads of an agent without windows (R134, R140) -/

/-- `t` is `s` while command k reads: no more than the pages it keeps may differ, which translate as its context's do. -/
structure Looking (k : Cmd) (s t : State) : Prop where
  frame : { t with cmds := s.cmds } = s
  writing : Writing k.homeAgent k.id s t

section looking
variable {k : Cmd} {s t : State} {va n : Nat} {ps : List Nat} {pol : BitVec 2}

theorem Looking.refl (k : Cmd) (s : State) : Looking k s s := ⟨rfl, .refl ..⟩

theorem Looking.ctxs (h : Looking k s t) : t.ctxs = s.ctxs := by rw [← h.frame]

theorem Looking.mem (h : Looking k s t) : t.mem = s.mem := by rw [← h.frame]

theorem Looking.homeRead (h : Looking k s t) (va pa : Nat) : t.homeRead va pa = s.homeRead va pa := by
  have hread : State.homeRead { t with cmds := s.cmds } va pa = t.homeRead va pa := rfl
  rw [← hread, h.frame]

theorem Looking.loadEx (h : Looking k s t) (j va n : Nat) : t.loadEx j va n = s.loadEx j va n := State.loadEx_congr h.ctxs h.homeRead j va n

theorem Looking.copyParts (h : Looking k s t) (j : Nat) (l : List (Nat × Nat)) : t.copyParts j l = s.copyParts j l := by
  induction l with
  | nil => rfl
  | cons p l ih =>
    obtain ⟨va, n⟩ := p
    rw [State.copyParts, State.copyParts, h.loadEx, ih]

theorem Looking.translateRange (h : Looking k s t) (va : Nat) (need : Need) (n : Nat) :
    translateRange (t.pagesFor k.homeAgent) va need n = translateRange (s.pagesFor k.homeAgent) va need n := by
  induction n generalizing va with
  | zero => rfl
  | succ n ih => rw [Machine.translateRange, Machine.translateRange, h.writing.translate, ih]

theorem Looking.cmd? (h : Looking k s t) (hk : s.cmd? k.id = some k) : ∃ j, t.cmd? k.id = some j := by
  have hdone := h.writing.done
  rw [hk] at hdone
  obtain ⟨j, hj, -⟩ := Option.map_eq_some_iff.mp hdone
  exact ⟨j, hj⟩

theorem Looking.keepPages (h : Looking k s t) (hk : s.cmd? k.id = some k) (hapart : pagesApart (s.pages k.ctx)) (va n : Nat) :
    Looking k s (t.keepPages k.homeAgent va n) := by
  obtain ⟨j, hj⟩ := h.cmd? hk
  have hpages : t.pages k.homeAgent.ctx = s.pages k.ctx := by
    unfold State.pages State.ctx
    rw [h.ctxs]
    rfl
  refine ⟨Eq.trans ?_ h.frame, h.writing.trans (Writing.keepPages rfl hj (hpages ▸ hapart) va n)⟩
  rfl

/-- An agent without windows reads bytes at their homes. -/
theorem State.loadBytes_device (hread : s.readable ps) (va : Nat) : s.loadBytes none pol va ps = .ok (s, ps.map s.mem.read) := by
  induction ps generalizing va with
  | nil => rfl
  | cons p ps ih =>
    obtain ⟨hcopy, hlink, hclean⟩ := hread p List.mem_cons_self
    have hbyte : s.loadByte none pol va p = .ok (s, s.mem.read p) := by
      unfold State.loadByte State.homeSeen State.homeRead
      simp only [Option.bind_none, ite_self, State.blocked_none hcopy hlink, hclean]
      rfl
    have hrest := ih (fun q hq => hread q (List.mem_cons_of_mem _ hq)) (va + 1)
    rw [State.loadBytes, hbyte]
    dsimp only
    rw [hrest]
    rfl

section load
variable (h : Looking k s t) (hk : s.cmd? k.id = some k) (htlb : k.tlb = []) (hapart : pagesApart (s.pages k.ctx)) (hread : s.readable ps)
include h hk htlb

omit h in
/-- A command that keeps no page yet translates through its context's mappings. -/
theorem State.pagesFor_home : s.pagesFor k.homeAgent = s.pages k.ctx := by
  rw [State.pagesFor_of_cmd rfl hk, htlb]
  rfl

include hapart hread

/-- The command reads bytes that translate and can be read. -/
theorem Looking.load (htr : Machine.translateRange (s.pages k.ctx) va Need.read n = .ok ps) :
    ∃ u, t.load k.homeAgent pol va n = .ok (u, ps.map s.mem.read) ∧ Looking k s u := by
  have hu := h.keepPages hk hapart va n
  have hreadu : (t.keepPages k.homeAgent va n).readable ps := by
    rw [← hu.frame] at hread
    exact hread
  refine ⟨_, ?_, hu⟩
  rw [State.load, h.translateRange, State.pagesFor_home hk htlb, htr, ← hu.mem]
  exact State.loadBytes_device hreadu va

theorem Looking.loadNat (htr : Machine.translateRange (s.pages k.ctx) va Need.read n = .ok ps) :
    ∃ u, t.loadNat k.homeAgent pol va n = .ok (u, leNat (ps.map s.mem.read)) ∧ Looking k s u := by
  obtain ⟨u, hload, hu⟩ := h.load hk htlb hapart hread (pol := pol) htr
  refine ⟨u, ?_, hu⟩
  rw [State.loadNat, hload]
  rfl

end load

end looking

/-! ## The records of the regions (R327) -/

section records
variable {k : Cmd} {s t : State}

/-- A region stands as it was laid, with its record at `va`. -/
def Region.stands (r : Region) (q : Nat × Nat × Nat × Nat) (va : Nat) : Prop :=
  (r.die, r.base, r.size, r.recVa) = (q.2.1, q.2.2.1, q.2.2.2, va)

/-- Where a region's pointer stands that names its record. -/
def Cmd.recordPtr (k : Cmd) (q : Nat × Nat × Nat × Nat) : Nat := wrapVa ((k.b.toNat : Int) + (8 * (16 * q.1 + q.2.2.2 - 1) : Nat))

/-- The pointer of a region can be read and names a record that can be. -/
structure State.recordReads (s : State) (k : Cmd) (q : Nat × Nat × Nat × Nat) (pr : List Nat) (va : Nat) : Prop where
  ptr : translateRange (s.pages k.ctx) (k.recordPtr q) Need.read 8 = .ok pr
  readable : s.readable pr
  value : leNat (pr.map s.mem.read) = va
  some : va ≠ 0
  parts : ∃ hd c, s.loadEx k.ctx va 64 = .ok hd ∧ s.copyParts k.ctx (recordParts va hd) = .ok c

/-- A record that can be read stands on a page that translates. -/
theorem State.translate_of_loadEx {j va n : Nat} {bs : List Byte} (h : s.loadEx j va (n + 1) = .ok bs) :
    ∃ pa, translate (s.pages j) va Need.fetch = .ok pa := by
  unfold State.loadEx at h
  split at h
  · cases h
  next pas hpas => exact ⟨_, by simpa using (translateRange_get hpas).2 0 n.succ_pos⟩

variable (hk : s.cmd? k.id = some k) (htlb : k.tlb = []) (hapart : pagesApart (s.pages k.ctx))
include hk htlb hapart

/-- The records of regions that are all to be read are read one after the other. -/
theorem Looking.placeRecords (h : Looking k s t) {pr : Nat → List Nat} {va : Nat → Nat} (owner : Nat × Nat)
    {l : List (Nat × Nat × Nat × Nat)} (hl : ∀ q ∈ l, s.recordReads k q (pr q.1) (va q.1)) (used : SMap Nat) :
    ∃ rs, t.placeRecords k owner used l = .ok rs ∧ List.Forall₂ (fun q e => e.1 = q.1 ∧ e.2.stands q (va q.1)) l rs := by
  induction l generalizing t used with
  | nil => exact ⟨[], rfl, .nil⟩
  | cons q l ih =>
    obtain ⟨x, d, b, size⟩ := q
    have hq := hl _ List.mem_cons_self
    obtain ⟨u, hload, hu⟩ := h.loadNat hk htlb hapart hq.readable (pol := k.hint) hq.ptr
    rw [hq.value] at hload
    obtain ⟨hd, c, hhead, hparts⟩ := hq.parts
    obtain ⟨pa, hpa⟩ := State.translate_of_loadEx hhead
    have htr : translate (u.pagesFor k.homeAgent) (va x) Need.fetch = .ok pa := by
      rw [hu.writing.translate, State.pagesFor_home hk htlb, hpa]
    obtain ⟨c', hc'⟩ : ∃ c', (if decide (SMap.get 0 used d + ((recordParts (va x) hd).map (·.2)).sum ≤ 2 ^ 25) = true
        then u.copyParts k.ctx (recordParts (va x) hd) else .ok []) = .ok c' := by
      split
      · exact ⟨c, (hu.copyParts ..).trans hparts⟩
      · exact ⟨[], rfl⟩
    obtain ⟨rs, hrs, hall⟩ := ih hu (fun p hp => hl p (List.mem_cons_of_mem _ hp))
      (if decide (SMap.get 0 used d + ((recordParts (va x) hd).map (·.2)).sum ≤ 2 ^ 25) = true
        then SMap.put used d (SMap.get 0 used d + ((recordParts (va x) hd).map (·.2)).sum) else used)
    refine ⟨(x, ⟨d, b, size, va x, c', owner⟩) :: rs, ?_, .cons ⟨rfl, rfl⟩ hall⟩
    rw [State.placeRecords]
    have hload' : t.loadNat k.homeAgent k.hint (wrapVa ((k.b.toNat : Int) + (8 * (16 * x + size - 1) : Nat))) 8 = .ok (u, va x) := hload
    rw [hload']
    dsimp only
    rw [if_neg hq.some, htr]
    dsimp only
    rw [hu.loadEx, hhead]
    dsimp only
    rw [hc']
    dsimp only
    rw [hrs]
    rfl

end records

end Sys2Proof.Machine
end

section
/-! PROOFS. What PLACE writes (R326). -/

namespace Sys2Proof.Machine

/-! ## The table of regions -/

section table

/-- The region that PLACE has made for expert x; an expert without cores has an empty one. -/
def regionOf (rs : List (Nat × Region)) (x : Nat) : Region := ((rs.find? fun e => decide (e.1 = x)).map (·.2)).getD {}

/-- The region of an expert is the one laid for it. -/
theorem regionOf_laid {va : Nat → Nat} {l : List (Nat × Nat × Nat × Nat)} {rs : List (Nat × Region)}
    (h : List.Forall₂ (fun q e => e.1 = q.1 ∧ e.2.stands q (va q.1)) l rs) (x : Nat) :
    (∀ q, l.find? (fun q => decide (q.1 = x)) = some q → (regionOf rs x).stands q (va x)) ∧
      (l.find? (fun q => decide (q.1 = x)) = none → regionOf rs x = {}) := by
  induction h with
  | nil => exact ⟨nofun, fun _ => rfl⟩
  | @cons q e l rs hqe hrest ih =>
    obtain ⟨hkey, hstands⟩ := hqe
    unfold regionOf at ih ⊢
    by_cases hx : q.1 = x
    · rw [List.find?_cons_of_pos (by simpa using hx), List.find?_cons_of_pos (by simpa [hkey] using hx)]
      refine ⟨fun p hp => ?_, nofun⟩
      cases hp
      rw [← hx]
      exact hstands
    · rw [List.find?_cons_of_neg (by simpa using hx), List.find?_cons_of_neg (by simpa [hkey] using hx)]
      exact ih

/-- The bytes of a region in the table. -/
theorem Region.stands.entry {r : Region} {q : Nat × Nat × Nat × Nat} {va : Nat} (h : r.stands q va) : r.entry =
    if q.2.2.2 = 0 then leBytes 16 0
    else leBytes 1 q.2.1 ++ leBytes 1 q.2.2.1 ++ leBytes 1 q.2.2.2 ++ leBytes 5 0 ++ leBytes 8 va := by
  obtain ⟨hdie, hbase, hsize, hrec⟩ : r.die = q.2.1 ∧ r.base = q.2.2.1 ∧ r.size = q.2.2.2 ∧ r.recVa = va := by
    simpa [Region.stands] using h
  rw [Region.entry, hdie, hbase, hsize, hrec]

theorem Region.entry_length (r : Region) : r.entry.length = 16 := by
  unfold Region.entry
  split <;> simp

theorem flatMap_entry_length (rs : List (Nat × Region)) (count : Nat) :
    ((List.range count).flatMap fun x => (regionOf rs x).entry).length = 16 * count := by
  simp [List.length_flatMap, Region.entry_length, Nat.mul_comm]

end table

/-! ## Bytes written by an agent without windows -/

section store
variable {k : Cmd} {s t : State}

/-- Bytes stored at places that are all different read back. -/
theorem Stored.read {pas : List Nat} {bs : List Byte} (h : Stored s t pas bs) (hlen : pas.length = bs.length) (hnodup : pas.Nodup) :
    pas.map t.mem.read = bs := by
  refine List.ext_getElem (by simpa using hlen) fun i hi hib => ?_
  have hip : i < pas.length := by simpa using hi
  have hlast : ∀ j < pas.length, i < j → pas[j]? ≠ pas[i]? := fun j hj hij he =>
    Nat.ne_of_gt hij ((List.getElem?_inj hj hnodup).mp he)
  have hread := h.inside i hip hlast
  rw [List.getD_eq_getElem _ _ hip, List.getElem?_eq_getElem hib] at hread
  simpa using hread

variable (h : Looking k s t) (hk : s.cmd? k.id = some k)
include h hk

/-- What a command is about to write tears no word of its own. -/
theorem Looking.tear (g : Agent) (hg : g = k.homeAgent) (va n : Nat) : Looking k s (t.tear g.cmd g va n) := by
  subst hg
  obtain ⟨j, hj⟩ := h.cmd? hk
  exact ⟨Eq.trans rfl h.frame, h.writing.trans (Writing.tear rfl hj va n).1⟩

/-- The command writes bytes that translate and can be written. -/
theorem Looking.store (htlb : k.tlb = []) (hapart : pagesApart (s.pages k.ctx)) {va : Nat} {pol : BitVec 2} {bs : List Byte} {qs : List Nat}
    (htr : Machine.translateRange (s.pages k.ctx) va Need.write bs.length = .ok qs) (hwrite : s.writable qs) :
    ∃ u, t.store k.homeAgent pol va bs = .ok u ∧ u.mem = s.mem.writeAll (qs.zip bs) ∧ u.ctxs = s.ctxs := by
  have hv := (h.keepPages hk hapart va bs.length).tear hk k.homeAgent rfl va bs.length
  obtain ⟨u, hu⟩ := State.storeBytes_ok (pol := pol) (va0 := va) (n0 := bs.length) (va := va) (l := qs.zip bs) fun x p hp => by
    obtain ⟨hcopy, hlink⟩ := hwrite p.1 (List.of_mem_zip hp).1
    rw [hv.writing.blocked]
    exact State.blocked_none hcopy hlink x
  obtain ⟨hmem, honly⟩ := State.storeBytes_memory hu
  refine ⟨u, ?_, hmem.trans (by rw [hv.mem]), Eq.trans ?_ hv.ctxs⟩
  · rw [State.store, h.translateRange, State.pagesFor_home hk htlb, htr]
    exact hu
  · rw [← honly]

end store

/-! ## PLACE -/

section place
variable {s : State} {n : Nat} {k : Cmd} {xs ps : List Nat} {va : Nat → Nat} {pr : Nat → List Nat}

theorem Cmd.dies_eq (k : Cmd) : k.dies = (List.range 4).filter fun d => k.w3.getLsbD (28 + d) := by
  refine List.filter_congr fun d _ => ?_
  rw [Nat.testBit_div_two_pow, Nat.add_comm]
  rfl

/-- The counts of the experts as they stand in memory. -/
def State.counts (s : State) (k : Cmd) (ps : List Nat) : List Nat :=
  (List.range k.d.toNat).map fun i => leNat (((ps.drop (4 * i)).take 4).map s.mem.read)

theorem State.chunks_counts (s : State) (k : Cmd) (ps : List Nat) : chunks 4 k.experts (ps.map s.mem.read) = s.counts k ps := by
  rw [chunks_eq]
  refine List.map_congr_left fun i _ => ?_
  rw [List.map_take, List.map_drop]

/-- The regions as PLACE lays them. -/
def State.laidOut (s : State) (k : Cmd) (ps xs : List Nat) : List (Nat × Nat × Nat × Nat) :=
  layRegions k.dies (coreCounts (s.counts k ps) (16 * k.dies.length)) [] xs

/-- What PLACE needs: counts and records that can be read, cores for every expert with counts, and the order of the experts. -/
structure Placing (s : State) (k : Cmd) (xs ps : List Nat) (va : Nat → Nat) (pr : Nat → List Nat) : Prop where
  cmd : s.cmd? k.id = some k
  apart : pagesApart (s.pages k.ctx)
  tlb : k.tlb = []
  counts : translateRange (s.pages k.ctx) k.a.toNat Need.read (4 * k.d.toNat) = .ok ps
  readable : s.readable ps
  room : ((s.counts k ps).filter fun v => decide (v ≠ 0)).length ≤ 16 * k.dies.length
  members : ∀ x, x ∈ xs ↔ x < k.d.toNat ∧ (coreCounts (s.counts k ps) (16 * k.dies.length)).getD x 0 ≠ 0
  sorted : xs.Pairwise (Ranks (coreCounts (s.counts k ps) (16 * k.dies.length)))
  records : ∀ q ∈ s.laidOut k ps xs, s.recordReads k q (pr q.1) (va q.1)

/-- PLACE reads counts and records and writes the table and the placement registers. -/
theorem Placing.goPlace (h : Placing s k xs ps va pr) {qs : List Nat}
    (htr : translateRange (s.pages k.ctx) k.c.toNat Need.write (16 * k.d.toNat) = .ok qs) (hwrite : s.writable qs) :
    ∃ (rs : List (Nat × Region)) (u : State), List.Forall₂ (fun q e => e.1 = q.1 ∧ e.2.stands q (va q.1))
        ((List.range k.d.toNat).filterMap fun x => (s.laidOut k ps xs).find? fun q => decide (q.1 = x)) rs ∧
      u.mem = s.mem.writeAll (qs.zip ((List.range k.d.toNat).flatMap fun x => (regionOf rs x).entry)) ∧ u.ctxs = s.ctxs ∧
      s.goPlace k = (u.updCtx k.ctx fun c => { c with
        regions := (List.range k.d.toNat).foldl (fun m i => SMap.put m i (regionOf rs i)) c.regions }).finishCmd k.id := by
  obtain ⟨s1, hload, h1⟩ := (Looking.refl k s).load h.cmd h.tlb h.apart h.readable (pol := k.hint) h.counts
  obtain ⟨rs, hrs, hall⟩ := h1.placeRecords h.cmd h.tlb h.apart (pr := pr) (va := va) (s1.ownerGraph k)
    (l := (List.range k.d.toNat).filterMap fun x => (s.laidOut k ps xs).find? fun q => decide (q.1 = x)) (fun q hq => by
      obtain ⟨x, -, hx⟩ := List.mem_filterMap.mp hq
      exact h.records q (List.mem_of_find?_eq_some hx)) ((List.range 4).map fun d => (d, s1.cached d))
  obtain ⟨u, hu, hmem, hctxs⟩ := h1.store h.cmd h.tlb h.apart (pol := k.hint) (va := k.c.toNat)
    (bs := (List.range k.d.toNat).flatMap fun x => (regionOf rs x).entry) (by rw [flatMap_entry_length]; exact htr) hwrite
  refine ⟨rs, u, hall, hmem, hctxs, ?_⟩
  have horder := foldr_insertExpert_eq h.sorted h.members
  unfold State.laidOut at hrs
  unfold State.goPlace
  have hload' : s.load k.homeAgent k.hint k.a.toNat (4 * k.experts) = .ok (s1, ps.map s.mem.read) := hload
  rw [hload']
  dsimp only
  rw [State.chunks_counts, if_neg (Nat.not_lt.mpr h.room)]
  have hexperts : k.experts = k.d.toNat := rfl
  rw [hexperts, horder, hrs]
  dsimp only
  unfold regionOf at hu
  rw [hu]
  rfl

/-- The bytes of expert x in the table. -/
def tableEntry (laid : List (Nat × Nat × Nat × Nat)) (va : Nat → Nat) (x : Nat) : List Byte :=
  match laid.find? fun q => decide (q.1 = x) with
  | some q => if q.2.2.2 = 0 then leBytes 16 0
    else leBytes 1 q.2.1 ++ leBytes 1 q.2.2.1 ++ leBytes 1 q.2.2.2 ++ leBytes 5 0 ++ leBytes 8 (va x)
  | none => leBytes 16 0

/-- The placement register of expert x stands as its region was laid. -/
def Region.registers (r : Region) (laid : List (Nat × Nat × Nat × Nat)) (va : Nat → Nat) (x : Nat) : Prop :=
  match laid.find? fun q => decide (q.1 = x) with
  | some q => r.stands q (va x)
  | none => r.size = 0

theorem regionOf_table {laid : List (Nat × Nat × Nat × Nat)} {count : Nat} {rs : List (Nat × Region)}
    (h : List.Forall₂ (fun q e => e.1 = q.1 ∧ e.2.stands q (va q.1))
      ((List.range count).filterMap fun x => laid.find? fun q => decide (q.1 = x)) rs) {x : Nat} (hx : x < count) :
    (regionOf rs x).entry = tableEntry laid va x ∧ (regionOf rs x).registers laid va x := by
  obtain ⟨hsome, hnone⟩ := regionOf_laid h x
  rw [find?_filterMap_range, if_pos hx] at hsome hnone
  unfold tableEntry Region.registers
  cases hq : laid.find? fun q => decide (q.1 = x) with
  | some q => exact ⟨(hsome q hq).entry, hsome q hq⟩
  | none => rw [hnone hq]; exact ⟨rfl, rfl⟩

theorem Placing.completes (h : Placing s k xs ps va pr) (ho : k.owner = .core n) (hopc : k.opc = 0x90#8) (hruns : s.runs k = true)
    {qs : List Nat} (htr : translateRange (s.pages k.ctx) k.c.toNat Need.write (16 * k.d.toNat) = .ok qs) (hnodup : qs.Nodup)
    (hwrite : s.writable qs) :
    ∃ t, exec (.commandComplete k.id) s = .next t ∧ t.cmd? k.id = none ∧ (∀ p, p ∉ qs → t.mem.read p = s.mem.read p) ∧
      qs.map t.mem.read = ((List.range k.d.toNat).flatMap fun x => tableEntry (s.laidOut k ps xs) va x) ∧
      ∀ x < k.d.toNat, (SMap.get {} (t.ctx k.ctx).regions x).registers (s.laidOut k ps xs) va x := by
  obtain ⟨rs, u, hall, hmem, hctxs, hgo⟩ := h.goPlace htr hwrite
  have hexec : exec (.commandComplete k.id) s = .next (s.goPlace k) := by
    rw [exec_commandComplete h.cmd ho hruns]
    unfold State.completeOf
    rw [hopc]
    rfl
  have htable : ((List.range k.d.toNat).flatMap fun x => (regionOf rs x).entry) =
      (List.range k.d.toNat).flatMap fun x => tableEntry (s.laidOut k ps xs) va x :=
    List.flatMap_congr fun x hx => (regionOf_table hall (List.mem_range.mp hx)).1
  have hlen : qs.length = ((List.range k.d.toNat).flatMap fun x => (regionOf rs x).entry).length := by
    rw [flatMap_entry_length, translateRange_length htr]
  have hstored := stored_writeAll hlen (s := s) (t := u) hmem
  refine ⟨_, hexec, hgo ▸ State.cmd?_finishCmd .., ?_, ?_, fun x hx => ?_⟩
  · rw [hgo, State.mem_finishCmd]
    exact hstored.outside
  · rw [hgo, State.mem_finishCmd, ← htable]
    exact hstored.read hlen hnodup
  · have hctx : ((s.goPlace k).ctx k.ctx).regions =
        (List.range k.d.toNat).foldl (fun m i => SMap.put m i (regionOf rs i)) (u.ctx k.ctx).regions := by
      rw [hgo, State.ctx, State.ctxs_finishCmd]
      exact congrArg Context.regions (State.ctx_updCtx_same ..)
    rw [hctx, get_foldl_put, if_pos hx]
    exact (regionOf_table hall hx).2

end place

end Sys2Proof.Machine
end

section
/-! PROOFS. The statement of launches and of PLACE together. -/

namespace Sys2Proof.Machine

/-- LAUNCH, by what its header reads as. -/
theorem launch_cases {s : State} {k : Nat} {seq : BitVec 32} (h : s.rings k seq) (hk : k < 4) (hcode : (s.win k).code = 9#16)
    (hlow : ((s.win k).arg 0).toNat < 2 ^ 56) (halign : ((s.win k).arg 0).toNat % 64 = 0) {bs : List Byte}
    (hread : s.uncopied.loadEx k ((s.win k).arg 0).toNat 64 = .ok bs) :
    let malformed := hdrOk ((s.win k).arg 0).toNat bs = false ∨
      s.uncopied.readGraph k ((s.win k).arg 0).toNat 4 = .error (.bad 2)
    (malformed → ∃ t, exec (.launch k seq) s = .next t ∧ Answered s t k seq 2 [] ∧ t.inside = s.inside) ∧
    (¬malformed → ∃ t, LaunchWaits s t k seq ∧ t.reqs = s.reqs ++
      [⟨(bs.getD 7 0).toNat % 4, (bs.getD 6 0).toNat, k, ((s.win k).arg 0).toNat, (s.win k).arg 1, none, some k⟩]) := by
  have hbad := State.launchBad_read hread
  exact ⟨fun hm => exec_launch_refused h hk hcode (.inr (.inr (hbad.mpr hm))),
    fun hm => exec_launch_requested h hk hcode hlow halign hread (Bool.eq_false_iff.mpr (mt hbad.mp hm))⟩

/-- Settles O46: LAUNCH and GLAUNCH by the image they read, a request by the entry it counts down, the launched graph by its
reservation, and PLACE by what it reads, grants, lays and writes. -/
theorem graphsLaunch : Obligations.GraphsLaunch := by
  unfold Obligations.GraphsLaunch
  refine ⟨?launch, ?answered, ?counted, ?launched, ?glaunch, ?accepted, ?gdone, ?granted, ?laid, ?placed⟩
  case launch =>
    intro s k seq h hk hcode
    refine ⟨fun hbad => exec_launch_refused h hk hcode (hbad.imp_right .inl), fun hlow halign => ⟨fun f hread => ⟨fun hf => ?_, fun hf => ?_⟩,
      fun bs hread => ?_⟩⟩
    · exact exec_launch_refused h hk hcode (.inr (.inr ((State.launchBad_unread hread).trans hf)))
    · obtain ⟨t, r, hw, hreqs, hpending, hr, hheld⟩ := exec_launch_held h hk hcode hlow halign hread hf
      exact ⟨t, r, ⟨hw.exec, hw.win, hw.flight, hw.mem, hw.cores, hw.dies⟩, hreqs, hpending, hr, hheld⟩
    · obtain ⟨hrefused, hgoes⟩ := launch_cases h hk hcode hlow halign hread
      refine ⟨hrefused, fun hm => ?_⟩
      obtain ⟨t, hw, hreqs⟩ := hgoes hm
      exact ⟨t, ⟨hw.exec, hw.win, hw.flight, hw.mem, hw.cores, hw.dies⟩, hreqs⟩
  case answered =>
    intro s h w r f hhome hhead hgdone hwin hflight hroom
    subst hhome
    obtain ⟨e, l, hentry⟩ := State.entryFor_isSome hroom
    exact launchRequest_answers rfl hhead hgdone hwin hflight hentry
  case counted =>
    intro s h e r hhome hhead hgdone hwin
    subst hhome
    refine ⟨fun l hgather hheld => ?_, fun hgather hfree hjoin => ?_⟩
    · obtain ⟨t, o, hexec, hreqs, hl⟩ := launchRequest_counts rfl hhead hgdone hwin (State.entryFor_gathering hgather) hheld
      exact ⟨t, hexec, hreqs, o, by rw [hl, LaunchReq.counted, List.append_nil]⟩
    · have hcount : r.entry.count = r.join := Nat.max_eq_right hjoin.le
      obtain ⟨t, o, hexec, hreqs, hl⟩ :=
        launchRequest_counts rfl hhead hgdone hwin (State.entryFor_free hgather hfree) (.inl (hcount ▸ hjoin))
      exact ⟨t, _, hexec, hreqs, hl, rfl, rfl, congrArg (· - 1) hcount, rfl, rfl⟩
  case launched =>
    intro s s1 h e l ns hone hl hrecs hnodes htab hkinds hreserve
    have hres := State.reserveNodes_reserved hreserve
    obtain ⟨hlaunch, hfinal⟩ := hres.readyRoots hl hkinds
    exact ⟨_, graphLaunch_runners hone hl hrecs hnodes htab hkinds hreserve, hlaunch, hres.len, hres.nodup, fun i r p hr hp =>
      ⟨(hres.nodes i r p hr hp).1, hres.free p (List.mem_of_getElem? hp), hfinal i r p hr hp⟩⟩
  case glaunch =>
    intro s n k bs hk ho hopc hstart haccs hlow halign hread
    exact exec_commandStart_glaunch hk ho hopc hstart haccs hlow halign hread
  case accepted =>
    intro s n h k r hk ho hhome hhead hgdone hwin
    subst hhome
    refine ⟨fun hbit hroom => ?_, fun e l hbit hgather hmore => ?_⟩
    · obtain ⟨e, l, hentry⟩ := State.entryFor_isSome hroom
      exact launchRequest_completes rfl hhead hgdone hwin hk hbit hentry
    · obtain ⟨t, o, hexec, hcmd, hl⟩ := launchRequest_waits rfl hhead hgdone hwin hk hbit (State.entryFor_gathering hgather) hmore
      exact ⟨t, _, hexec, hcmd, hl, rfl, rfl⟩
  case gdone => exact fun s home e l i hi => s.cmd?_completeGraph home e l hi
  case granted =>
    intro h p
    have hg := granted_coreCounts h p
    refine ⟨hg.len, hg.zero, hg.cap, fun hp => ?_⟩
    obtain ⟨hsum, hfull⟩ := sum_coreCounts hp
    refine ⟨hg.pos, hsum, fun hlt x hx => ?_, fun x y hx hx16 hy => ?_⟩
    · exact le_antisymm (hg.cap x) (Nat.not_lt.mp fun h16 => hfull hlt x ⟨hx, h16⟩)
    · obtain ⟨hlt, hle⟩ := hg.fair x y ⟨hx, hx16⟩ hy
      exact ⟨fun hxy hne => hlt (lt_of_le_of_ne hxy hne), hle⟩
  case laid =>
    intro dies m xs hne
    have hused : ∀ d, SMap.get 0 ([] : SMap Nat) d ≤ 16 := fun d => Nat.zero_le 16
    refine ⟨map_fst_layRegions [] xs, fun q hq => ?_, layRegions_pairwise hne hused xs⟩
    obtain ⟨hdie, -, hend, hsize⟩ := layRegions_within hne hused xs q hq
    exact ⟨hdie, hend, hsize⟩
  case placed =>
    intro s n k xs ps qs va pr hk ho hopc hruns hapart htlb pages count dies h m laid hcounts hread hroom hmem hsorted hrecords htr hnodup
      hwrite
    have hdies : dies = k.dies := k.dies_eq.symm
    have hm : m = coreCounts (s.counts k ps) (16 * k.dies.length) := by rw [← hdies]; rfl
    have hlaid : laid = s.laidOut k ps xs := by
      show layRegions dies m [] xs = _
      rw [hm, hdies]
      rfl
    have hplacing : Placing s k xs ps va pr := {
      cmd := hk
      apart := hapart
      tlb := htlb
      counts := hcounts
      readable := hread
      room := hdies ▸ hroom
      members := hm ▸ hmem
      sorted := hm ▸ hsorted
      records := fun q hq => by
        obtain ⟨hptr, hreadable, hvalue, hsome, hparts⟩ := hrecords q (hlaid ▸ hq)
        exact ⟨hptr, hreadable, hvalue, hsome, hparts⟩ }
    obtain ⟨t, hexec, hgone, hothers, htable, hregs⟩ := hplacing.completes ho hopc hruns htr hnodup hwrite
    rw [← hlaid] at htable hregs
    exact ⟨t, hexec, hgone, hothers, htable, hregs⟩

end Sys2Proof.Machine
end

section
/-! PROOFS. Elements that hold state between firings: the tokens they read, and what a step leaves of the configuration. -/

namespace Sys2Proof.Machine

/-! ## Kinds of tokens (R39) -/

@[simp] theorem Token.isData_prefixOf (l count : Nat) : (Token.prefixOf l count).isData = false := by
  simp [Token.isData, Token.prefixOf, ← BitVec.toNat_inj]
  omega

@[simp] theorem Token.level?_prefixOf (l count : Nat) : (Token.prefixOf l count).level? = some (l % 4) := by
  have hkind : (Token.prefixOf l count).kind.toNat = 4 + l % 4 := by
    simp [Token.prefixOf]
    omega
  rw [Token.level?, hkind, if_pos (by omega)]
  exact congrArg some (by omega)

theorem Token.data_prefixOf (l : Nat) {count : Nat} (h : count < 2 ^ 32) : (Token.prefixOf l count).data.toNat = count := by
  rw [Token.prefixOf, BitVec.toNat_ofNat, Nat.mod_eq_of_lt h]

theorem Token.kind_marker (n : Nat) : (Token.marker n).kind.toNat = 8 + n % 8 := by
  simp [Token.marker]
  omega

@[simp] theorem Token.isData_marker (n : Nat) : (Token.marker n).isData = false := by
  have := Token.kind_marker n
  rw [Token.isData, decide_eq_false_iff_not, ← BitVec.toNat_inj, this]
  simp

@[simp] theorem Token.level?_marker (n : Nat) : (Token.marker n).level? = none := by
  rw [Token.level?, Token.kind_marker, if_neg (by omega)]

@[simp] theorem Token.rank?_marker (n : Nat) : (Token.marker n).rank? = some (n % 8) := by
  rw [Token.rank?, Token.kind_marker, if_pos (by omega)]
  exact congrArg some (by omega)

@[simp] theorem Token.rank?_data (d : BitVec 32) : (⟨0#5, d⟩ : Token).rank? = none := if_neg (by simp)

/-! ## Steps on a token (R42) -/

/-- An element with room steps on the token at its first input. -/
theorem Core.single_of_input {c : Core} {r : Nat} {t : Token} {k : Token → FabRes} (hroom : c.hasRoom r)
    (ht : c.input (inPlace r 0) = some t) : c.single r k = k t := by
  rw [Core.single, if_neg (Nat.not_le.mpr hroom), ht]

theorem inPlace_lt_ports {r k : Nat} (hr : r < 256) (hk : k < 8) : inPlace r k < 4160 := (inPlace_lt hr hk).trans (by decide)

/-! ## What coming to rest leaves of the elements' words (R161) -/

theorem Core.word_setQueue (c : Core) (x : Nat) (l : List Slot) (q : Nat) : (c.setQueue x l).word q = c.word q := by
  unfold Core.setQueue
  split_ifs <;> rfl

theorem Core.word_setHeld (c : Core) (x v q : Nat) : (c.setHeld x v).word q = c.word q := by
  unfold Core.setHeld
  split_ifs <;> rfl

theorem Core.word_depart (c : Core) (x q : Nat) : (c.depart x).word q = c.word q := by
  unfold Core.depart
  split_ifs <;> rfl

theorem Core.word_setTook (c : Core) (x : Nat) (l : List Nat) (q : Nat) : (c.setTook x l).word q = c.word q := rfl

theorem Core.word_cancelled (ds : List Nat) (c : Core) (q : Nat) :
    (ds.foldl (fun c d => c.setCancels d (c.cancels d - 1)) c).word q = c.word q :=
  List.foldlRecOn (motive := fun d : Core => d.word q = c.word q) ds _ rfl fun _ hd _ _ => hd

theorem Core.word_ite {p : Prop} [Decidable p] {c d : Core} {q v : Nat} (hc : c.word q = v) (hd : d.word q = v) :
    (if p then c else d).word q = v := by
  split
  · exact hc
  · exact hd

theorem Core.word_settle (x q fuel : Nat) (c : Core) : (Core.settle x fuel c).word q = c.word q := by
  induction fuel generalizing c with
  | zero => rfl
  | succ fuel ih =>
    rw [Core.settle]
    split
    next => rw [ih, Core.word_setHeld, Core.word_setQueue]
    next =>
      split
      next =>
        refine Core.word_ite ?_ ?_
        · rw [ih, Core.word_depart, Core.word_setTook, Core.word_setQueue, Core.word_setTook, Core.word_cancelled]
        · rw [Core.word_setTook, Core.word_cancelled]
      next => rfl

theorem Core.word_push (c : Core) (x : Nat) (ts : List Token) (q : Nat) : (c.push x ts).word q = c.word q := by
  rw [Core.push, Core.word_settle, Core.word_setQueue]

end Sys2Proof.Machine
end

section
/-! PROOFS. Reductions: the step on a member and on a marker, and the value of an integer reduction over a list of members. -/

namespace Sys2Proof.Machine

/-! ## Members and markers (R48, R238) -/

section steps
variable {c : Core} {r : Nat}

/-- A reduction's state as it takes a token. -/
def Core.redTaking (c : Core) (r : Nat) : ElemState :=
  { (if (c.est r).busy then c.est r else redInit (c.word r)) with taken := (c.est r).taken + 1 }

/-- A member joins, and its reduction closes if it ends the segment of the reduction's level. -/
theorem Core.fireRed_member {d : BitVec 32} (hroom : c.hasRoom r) (hd : c.holdsData (inPlace r 0) d) :
    let x := inPlace r 0
    let seen := (c.pop x).setSegs x (segData (c.segs x)).1
    let joined := redMember (c.word r) (c.redTaking r) d
    c.fireRed r = .ok (if wSegi (c.word r) = false ∧ wImm (c.word r) % 8 ∈ (segData (c.segs x)).2 then
      (seen.setEst r {}).push (elemPlace r) [⟨0#5, redResult (c.word r) joined.1⟩] else seen.setEst r joined.1) joined.2 := by
  simp only [Core.fireRed, Core.single_of_input hroom hd, Token.isData_data, if_true, Bool.not_eq_true']
  rfl

/-- A marker of the reduction's level or above closes it, and goes on with the rank that remains. -/
theorem Core.fireRed_marker {k : Nat} (hroom : c.hasRoom r) (ht : c.input (inPlace r 0) = some (Token.marker k)) (hk : k < 8)
    (hl : wImm (c.word r) % 8 ≤ k) :
    let l := wImm (c.word r) % 8
    c.fireRed r = .ok (((c.pop (inPlace r 0)).setEst r {}).push (elemPlace r)
      (⟨0#5, redResult (c.word r) (c.redTaking r)⟩ :: if l < k then [Token.marker (k - l - 1)] else [])) Flags.none := by
  simp only [Core.fireRed, Core.single_of_input hroom ht, Token.isData_marker, Token.level?_marker, Token.rank?_marker,
    Nat.mod_eq_of_lt hk, Bool.false_eq_true, if_false, if_neg (Nat.not_lt.mpr hl)]
  rfl

end steps

/-- All reductions step alike. -/
theorem exec_reduction {n r : Nat} {q : Instr × Nat}
    (hq : q ∈ ([(.rsum n r, 0x50), (.rmax n r, 0x51), (.rmin n r, 0x52), (.rarg n r, 0x53), (.rcnt n r, 0x54)] :
      List (Instr × Nat))) (s : State) : exec q.1 s = siteStep q.2 Core.fireRed n r s := by
  simp only [List.mem_cons, List.not_mem_nil, or_false] at hq
  rcases hq with rfl | rfl | rfl | rfl | rfl <;> rfl

/-! ## Sums and counts (R89, R238) -/

/-- The state of a reduction that takes no other tokens than the listed members. -/
def redFold (word : Nat) (xs : List (BitVec 32)) : ElemState := xs.foldl (fun e x => (redMember word e x).1) (redInit word)

theorem redFold_append (word : Nat) (xs : List (BitVec 32)) (x : BitVec 32) :
    redFold word (xs ++ [x]) = (redMember word (redFold word xs) x).1 := by
  rw [redFold, List.foldl_append]
  rfl

theorem redMember_rcnt {word : Nat} (hop : wOp word = 0x54) (e : ElemState) (x : BitVec 32) :
    (redMember word e x).1.val = if word.testBit 3 || decide (x ≠ 0#32) then e.val + 1 else e.val := by
  simp [redMember, hop]

/-- RCNT's value is the number of members, or of those that are not zero in their 32 bits (log 90). -/
theorem redFold_rcnt {word : Nat} (hop : wOp word = 0x54) (xs : List (BitVec 32)) :
    (redFold word xs).val = BitVec.ofNat 32 (xs.filter fun u => word.testBit 3 || decide (u ≠ 0#32)).length := by
  induction xs using List.reverseRecOn with
  | nil => simp [redFold, redInit, hop]
  | append_singleton xs x ih =>
    rw [redFold_append, redMember_rcnt hop, ih, List.filter_append, List.length_append, BitVec.ofNat_add,
      List.filter_singleton]
    cases word.testBit 3 || decide (x ≠ 0#32) <;> simp

section integers
variable {word w : Nat} {signed : Bool} (h : IntFmt.ofCode (wFmt word) = some (w, signed))

include h in
/-- Bits up to the format's width survive the extension to a token. -/
theorem truncate_tokenOf (A : BitVec w) : (tokenOf signed A).truncate w = A := by
  have hw := (IntFmt.width_of_code h).2
  cases signed
  · exact BitVec.setWidth_setWidth_of_le _ hw |>.trans (BitVec.setWidth_eq A)
  · ext i hi
    simp [tokenOf, BitVec.getElem_signExtend, hi, (hi.trans_le hw)]

include h in
theorem redMember_rsum (hop : wOp word = 0x50) (e : ElemState) (x : BitVec 32) :
    ((redMember word e x).1.val.truncate w : BitVec w) = e.val.truncate w + x.truncate w := by
  have hfloat := isFloatFmt_of_intFmt h
  have hval : (redMember word e x).1.val = intExt (wFmt word) (intVal (wFmt word) e.val + intVal (wFmt word) x) := by
    simp [redMember, hop, hfloat]
  rw [hval, intExt_eq h, truncate_tokenOf h, intVal_eq h, intVal_eq h, BitVec.ofInt_add, ofInt_numOf, ofInt_numOf]

include h in
/-- RSUM's value is the sum of the members modulo 2^w. -/
theorem redFold_rsum (hop : wOp word = 0x50) (xs : List (BitVec 32)) :
    ((redFold word xs).val.truncate w : BitVec w) = (xs.map fun u => (u.truncate w : BitVec w)).sum := by
  induction xs using List.reverseRecOn with
  | nil => simp [redFold, redInit, isFloatFmt_of_intFmt h]
  | append_singleton xs x ih =>
    rw [redFold_append, redMember_rsum h hop, ih, List.map_append, List.sum_append, List.map_singleton, List.sum_singleton]

/-! ## The first extreme member (R238) -/

/-- What RMAX, RMIN and RARG make least. -/
def redKey (word : Nat) (x : BitVec 32) : Int := if redLeast word then intVal (wFmt word) x else -intVal (wFmt word) x

/-- The member of key `e.val` at position `e.k` is the first of the members of least key. -/
structure RedBest (word : Nat) (xs : List (BitVec 32)) (e : ElemState) : Prop where
  count : e.n = xs.length
  member : xs ≠ [] → xs[e.k]? = some e.val
  least : ∀ u ∈ xs, redKey word e.val ≤ redKey word u
  first : ∀ j < e.k, ∀ v, xs[j]? = some v → redKey word e.val < redKey word v

theorem RedBest.nil (word : Nat) : RedBest word [] (redInit word) where
  count := rfl
  member h := absurd rfl h
  least _ h := absurd h List.not_mem_nil
  first _ _ _ h := by cases h

include h in
theorem memberCmp_iff (x y : BitVec 32) :
    memberCmp (wFmt word) x y = (if redLeast word then .lt else .gt) ↔ redKey word x < redKey word y := by
  rw [memberCmp, isFloatFmt_of_intFmt h, redKey, redKey]
  cases redLeast word
  · simp [compare_gt_iff_gt]
  · simp [compare_lt_iff_lt]

include h in
/-- A member takes the place of the best so far when it is the first or its key is less. -/
theorem redMember_best (hsum : wOp word ≠ 0x50) (hcnt : wOp word ≠ 0x54) (e : ElemState) (x : BitVec 32) :
    let e1 : ElemState := { e with busy := true, n := e.n + 1 }
    (redMember word e x).1 = if e.n = 0 ∨ redKey word x < redKey word e.val then { e1 with k := e.n, val := x } else e1 := by
  have hnan (y : BitVec 32) : memberNaN (wFmt word) y = false := by rw [memberNaN, isFloatFmt_of_intFmt h]; rfl
  simp only [redMember, hsum, hcnt, if_false, hnan, memberCmp_iff h, Bool.not_false, Bool.true_and, Bool.false_or,
    Bool.or_eq_true, decide_eq_true_eq]

include h in
theorem RedBest.step (hsum : wOp word ≠ 0x50) (hcnt : wOp word ≠ 0x54) {xs : List (BitVec 32)} {e : ElemState}
    (hb : RedBest word xs e) (x : BitVec 32) : RedBest word (xs ++ [x]) (redMember word e x).1 := by
  rw [redMember_best h hsum hcnt]
  split
  case isTrue hx =>
    have hlt : ∀ v ∈ xs, redKey word x < redKey word v := fun v hv => by
      have hne : e.n ≠ 0 := by rw [hb.count]; exact (List.length_pos_of_mem hv).ne'
      exact (hx.resolve_left hne).trans_le (hb.least v hv)
    exact {
      count := by simp [hb.count]
      member := fun _ => by simp [hb.count]
      least := fun u hu => by
        rcases List.mem_append.mp hu with hu | hu
        · exact (hlt u hu).le
        · rw [List.mem_singleton.mp hu]
      first := fun j hj v hv => by
        rw [List.getElem?_append_left (hb.count ▸ hj)] at hv
        exact hlt v (List.mem_of_getElem? hv) }
  case isFalse hx =>
    obtain ⟨hn, hle⟩ := not_or.mp hx
    have hne : xs ≠ [] := fun h0 => hn (by rw [hb.count, h0]; rfl)
    have hk : e.k < xs.length := (List.getElem?_eq_some_iff.mp (hb.member hne)).1
    exact {
      count := by simp [hb.count]
      member := fun _ => (List.getElem?_append_left hk).trans (hb.member hne)
      least := fun u hu => by
        rcases List.mem_append.mp hu with hu | hu
        · exact hb.least u hu
        · rw [List.mem_singleton.mp hu]
          exact not_lt.mp hle
      first := fun j hj v hv => by
        rw [List.getElem?_append_left (hj.trans hk)] at hv
        exact hb.first j hj v hv }

include h in
theorem redFold_best (hsum : wOp word ≠ 0x50) (hcnt : wOp word ≠ 0x54) (xs : List (BitVec 32)) :
    RedBest word xs (redFold word xs) := by
  induction xs using List.reverseRecOn with
  | nil => exact RedBest.nil word
  | append_singleton xs x ih =>
    rw [redFold_append]
    exact ih.step h hsum hcnt x

theorem RedBest.val_mem {xs : List (BitVec 32)} {e : ElemState} (hb : RedBest word xs e) (hne : xs ≠ []) : e.val ∈ xs :=
  List.mem_of_getElem? (hb.member hne)

include h in
/-- RMAX and RMIN deliver the number of the best member. -/
theorem numOf_redResult (hop : wOp word = 0x51 ∨ wOp word = 0x52) {e : ElemState} (hn : e.n ≠ 0) :
    numOf signed ((redResult word e).truncate w) = numOf signed (e.val.truncate w) := by
  have harg : wOp word ≠ 0x53 := by omega
  have hout : redResult word e = intExt (wFmt word) (intVal (wFmt word) e.val) := by
    simp [redResult, harg, hop, hn, isFloatFmt_of_intFmt h]
  rw [hout, intExt_eq h, truncate_tokenOf h, intVal_eq h, ofInt_numOf]

include h in
/-- The order of keys is the order of numbers, reversed where the greatest is sought. -/
theorem redKey_le_iff (x y : BitVec 32) : redKey word x ≤ redKey word y ↔
    if redLeast word then numOf signed (x.truncate w) ≤ numOf signed (y.truncate w)
    else numOf signed (y.truncate w) ≤ numOf signed (x.truncate w) := by
  rw [redKey, redKey, intVal_eq h, intVal_eq h]
  split
  · rfl
  · exact neg_le_neg_iff

include h in
theorem numOf_ne_of_redKey_lt {x y : BitVec 32} (hlt : redKey word x < redKey word y) :
    numOf signed (y.truncate w) ≠ numOf signed (x.truncate w) := fun heq => by
  rw [redKey, redKey, intVal_eq h, intVal_eq h, heq] at hlt
  exact lt_irrefl _ hlt

include h in
/-- RMAX and RMIN deliver the number of a member, and none is beyond it. -/
theorem redResult_extreme (hop : wOp word = 0x51 ∨ wOp word = 0x52) {xs : List (BitVec 32)} (hne : xs ≠ []) :
    let best := numOf signed ((redResult word (redFold word xs)).truncate w)
    (∀ v ∈ xs, if redLeast word then best ≤ numOf signed (v.truncate w) else numOf signed (v.truncate w) ≤ best) ∧
      ∃ u ∈ xs, numOf signed (u.truncate w) = best := by
  have hb := redFold_best h (by omega) (by omega) xs
  have hn : (redFold word xs).n ≠ 0 := by rw [hb.count]; exact (List.length_pos_iff.mpr hne).ne'
  dsimp only
  rw [numOf_redResult h hop hn]
  exact ⟨fun v hv => (redKey_le_iff h _ v).mp (hb.least v hv), _, hb.val_mem hne, rfl⟩

end integers

/-- RARG delivers the position of the best member. -/
theorem redResult_rarg {word : Nat} (hop : wOp word = 0x53) {xs : List (BitVec 32)} {e : ElemState} (hb : RedBest word xs e)
    (hne : xs ≠ []) (hlen : xs.length < 2 ^ 32) : (redResult word e).toNat = e.k := by
  have hk : e.k < xs.length := (List.getElem?_eq_some_iff.mp (hb.member hne)).1
  have hn : e.n ≠ 0 := by rw [hb.count]; omega
  rw [redResult, if_pos hop, if_neg hn, BitVec.toNat_ofNat, Nat.mod_eq_of_lt (hk.trans hlen)]

theorem redResult_val {word : Nat} (hop : wOp word = 0x50 ∨ wOp word = 0x54) (e : ElemState) : redResult word e = e.val := by
  rw [redResult, if_neg (by omega), if_neg (by omega)]

/-- Settles O29: one step of `fireRed` for the tokens, and for the values an invariant of `redMember` over the members. -/
theorem reductions : Obligations.Reductions := by
  unfold Obligations.Reductions
  refine ⟨?tokens, ?values⟩
  case tokens =>
    intro s n r d k c w x l e seen hroom q hq hs
    have hexec := exec_reduction hq s
    refine ⟨fun hd hopen => hexec.trans (hs.acts ?_), fun hd hsegi hends => hexec.trans (hs.acts ?_),
      fun ht hk hl => hexec.trans (hs.acts (Core.fireRed_marker hroom ht hk hl))⟩
    · have hno : ¬(wSegi w = false ∧ l ∈ (segData (c.segs x)).2) := fun ⟨hsegi, hends⟩ =>
        hopen.elim (fun h => absurd (hsegi ▸ h) Bool.false_ne_true) fun h => h hends
      rw [Core.fireRed_member hroom hd, if_neg hno]
      rfl
    · rw [Core.fireRed_member hroom hd, if_pos ⟨hsegi, hends⟩]
      rfl
  case values =>
    intro word w signed xs h val out
    refine ⟨fun hop => ?rsum, fun hop hne => ?rmax, fun hop hne => ?rmin, fun hop hne hlen => ?rarg, fun hop hnil => ?empty,
      fun hop => ?rcnt⟩
    case rsum =>
      show ((redResult word (redFold word xs)).truncate w : BitVec w) = _
      rw [redResult_val (.inl hop), redFold_rsum h hop]
    case rmax =>
      obtain ⟨hmost, hmem⟩ := redResult_extreme h (.inl hop) hne
      rw [show redLeast word = false by simp [redLeast, hop]] at hmost
      exact ⟨hmost, hmem⟩
    case rmin =>
      obtain ⟨hleast, hmem⟩ := redResult_extreme h (.inr hop) hne
      rw [show redLeast word = true by simp [redLeast, hop]] at hleast
      exact ⟨hleast, hmem⟩
    case rarg =>
      have hb := redFold_best h (by omega) (by omega) xs
      have hk : out.toNat = (redFold word xs).k := redResult_rarg hop hb hne hlen
      rw [hk, show word.testBit 3 = redLeast word by simp [redLeast, hop]]
      refine ⟨(redFold word xs).val, hb.member hne, fun j v hv => ?_,
        fun j hj v hv => numOf_ne_of_redKey_lt h (hb.first j hj v hv)⟩
      exact (redKey_le_iff h _ v).mp (hb.least v (List.mem_of_getElem? hv))
    case empty =>
      show redResult word (redFold word xs) = _
      rw [hnil, redResult, if_pos hop]
      exact if_pos rfl
    case rcnt =>
      show redResult word (redFold word xs) = _
      rw [redResult_val (.inr hop), redFold_rcnt hop]

end Sys2Proof.Machine
end

section
/-! PROOFS. Segment elements: what SEGN, SMARK and SCONV do with each token. -/

namespace Sys2Proof.Machine

/-! ## SEGN in native mode (R245) -/

section segn
variable {c : Core} {r : Nat}

/-- One level-0 length at both inputs begins a segment. -/
theorem Core.fireSegn_prefix {k : Nat} (hroom : c.hasRoom r) (hsegi : wSegi (c.word r) = false)
    (hb : c.input (inPlace r 1) = some (Token.prefixOf 0 k)) (ha : c.input (inPlace r 0) = some (Token.prefixOf 0 k))
    (hk : k < 2 ^ 32) (hidle : (c.est r).busy = false) :
    c.fireSegn r = .ok (((c.pop (inPlace r 1)).pop (inPlace r 0)).segnOn r { busy := true, n := k, taken := 1 }) Flags.none := by
  simp [Core.fireSegn, Nat.not_le.mpr hroom, hsegi, ha, hb, hidle, Token.data_prefixOf 0 hk]

/-- A predicate of zero drops a member. -/
theorem Core.fireSegn_zero (hroom : c.hasRoom r) (hsegi : wSegi (c.word r) = false) (hb : c.holdsData (inPlace r 1) 0)
    (hbusy : (c.est r).busy = true) :
    let e := c.est r
    c.fireSegn r = .ok ((c.pop (inPlace r 1)).segnOn r { e with n := e.n - 1, taken := e.taken + 1 }) Flags.none := by
  have hb' : c.input (inPlace r 1) = some ⟨0#5, 0⟩ := hb
  simp [Core.fireSegn, Nat.not_le.mpr hroom, hsegi, hb', hbusy]

/-- A predicate other than zero keeps a member. -/
theorem Core.fireSegn_keeps {p d : BitVec 32} (hroom : c.hasRoom r) (hsegi : wSegi (c.word r) = false) (hp : p ≠ 0#32)
    (hb : c.holdsData (inPlace r 1) p) (ha : c.holdsData (inPlace r 0) d) (hbusy : (c.est r).busy = true)
    (hlen : (c.est r).buf.length < 4096) :
    let e := c.est r
    c.fireSegn r = .ok (((c.pop (inPlace r 1)).pop (inPlace r 0)).segnOn r
      { e with n := e.n - 1, taken := e.taken + 1, buf := e.buf ++ [⟨0#5, d⟩] }) Flags.none := by
  have hb' : c.input (inPlace r 1) = some ⟨0#5, p⟩ := hb
  have ha' : c.input (inPlace r 0) = some ⟨0#5, d⟩ := ha
  simp [Core.fireSegn, Nat.not_le.mpr hroom, hsegi, hb', ha', hp, hbusy, Nat.not_le.mpr hlen]

end segn

/-! ## SMARK (R246) -/

section smark
variable {c : Core} {r : Nat} {d : BitVec 32}

/-- A member of an open segment passes. -/
theorem Core.fireSmark_member (hroom : c.hasRoom r) (hbusy : (c.est r).busy = true) (ha : c.holdsData (inPlace r 0) d)
    (hb : wImmb (c.word r) = false → c.input (inPlace r 1) = none) :
    c.fireSmark r = .ok ((c.pop (inPlace r 0)).smarkMember r ⟨0#5, d⟩) Flags.none := by
  have ha' : c.input (inPlace r 0) = some ⟨0#5, d⟩ := ha
  cases himm : wImmb (c.word r) with
  | true => simp [Core.fireSmark, Nat.not_le.mpr hroom, ha', himm, hbusy]
  | false => simp [Core.fireSmark, Nat.not_le.mpr hroom, ha', himm, hb himm, hbusy]

/-- A length at b begins a segment. -/
theorem Core.fireSmark_length (hroom : c.hasRoom r) (hidle : (c.est r).busy = false) (himm : wImmb (c.word r) = false)
    (ha : c.input (inPlace r 0) = none) (hb : c.holdsData (inPlace r 1) d) :
    c.fireSmark r = .ok ((c.pop (inPlace r 1)).smarkOpen r d.toNat) Flags.none := by
  have hb' : c.input (inPlace r 1) = some ⟨0#5, d⟩ := hb
  simp [Core.fireSmark, Nat.not_le.mpr hroom, ha, hb', himm, hidle]

/-- A member where no segment is open begins one of the immediate's length; of length 0 it is empty and the member stays, as
the model has it (log 87). -/
theorem Core.fireSmark_immediate (hroom : c.hasRoom r) (hidle : (c.est r).busy = false) (himm : wImmb (c.word r) = true)
    (ha : c.holdsData (inPlace r 0) d) :
    let len := wImm (c.word r) % 65536
    c.fireSmark r = .ok (if len = 0 then c.smarkOpen r 0
      else ((c.smarkOpen r len).pop (inPlace r 0)).smarkMember r ⟨0#5, d⟩) Flags.none := by
  have ha' : c.input (inPlace r 0) = some ⟨0#5, d⟩ := ha
  dsimp only
  split
  case isTrue hlen => simp [Core.fireSmark, Nat.not_le.mpr hroom, ha', himm, hidle, hlen]
  case isFalse hlen => simp [Core.fireSmark, Nat.not_le.mpr hroom, ha', himm, hidle, hlen]

theorem Core.word_smarkOpen (c : Core) (r k q : Nat) : (c.smarkOpen r k).word q = c.word q := by
  unfold Core.smarkOpen
  refine Core.word_ite ?_ (Core.word_ite ?_ rfl) <;> exact (Core.word_push ..).trans rfl

/-- What `smarkOpen` does, by the configured mode of the output. -/
theorem Core.smarkOpen_eq (c : Core) (r k : Nat) : c.smarkOpen r k =
    let c1 := c.setEst r { busy := decide (k ≠ 0), n := k }
    if wSego (c.word r) = false then c1.push (elemPlace r) [Token.prefixOf 0 k]
    else if k = 0 then c1.push (elemPlace r) [Token.marker 0] else c1 := by
  simp only [Core.smarkOpen, Bool.not_eq_true']

/-- What `smarkMember` does once the member has been taken. -/
theorem Core.smarkMember_pop (c : Core) {r : Nat} (hr : r < 256) (d : BitVec 32) :
    let e := c.est r
    (c.pop (inPlace r 0)).smarkMember r ⟨0#5, d⟩ =
      ((c.pop (inPlace r 0)).setEst r { e with busy := decide (1 < e.n), n := e.n - 1 }).push (elemPlace r)
        (⟨0#5, d⟩ :: if e.n ≤ 1 ∧ wSego (c.word r) = true then [Token.marker 0] else []) := by
  have hx := inPlace_lt_ports hr (k := 0) (by decide)
  simp only [Core.smarkMember, Core.est_pop c hx, Core.word_pop c hx, ← decide_not, Nat.not_le, Bool.and_eq_true, decide_eq_true_eq]

end smark

/-! ## SCONV (R247) -/

section sconv
variable {c : Core} {r : Nat} {d : BitVec 32}

theorem Core.fireSconv_same {t : Token} (hroom : c.hasRoom r) (hmode : wSegi (c.word r) = wSego (c.word r))
    (ht : c.input (inPlace r 0) = some t) : c.fireSconv r = .ok ((c.pop (inPlace r 0)).push (elemPlace r) [t]) Flags.none := by
  simp only [Core.fireSconv, Core.single_of_input hroom ht, hmode, if_true]

/-- To compatible mode: a member, and the marker of the highest level it ends. -/
theorem Core.fireSconv_member (hroom : c.hasRoom r) (hsegi : wSegi (c.word r) = false) (hsego : wSego (c.word r) = true)
    (ha : c.holdsData (inPlace r 0) d) :
    let sg := segData (c.segs (inPlace r 0))
    c.fireSconv r = .ok (((c.pop (inPlace r 0)).setSegs (inPlace r 0) sg.1).push (elemPlace r) (⟨0#5, d⟩ :: closingMarker sg.2))
      Flags.none := by
  simp [Core.fireSconv, Core.single_of_input hroom ha, hsegi, hsego]

/-- To compatible mode: a length is dropped, and leaves only the marker of what an empty segment ends. -/
theorem Core.fireSconv_prefix {l k : Nat} (hroom : c.hasRoom r) (hsegi : wSegi (c.word r) = false)
    (hsego : wSego (c.word r) = true) (ha : c.input (inPlace r 0) = some (Token.prefixOf l k)) (hl : l < 4) (hk : k < 2 ^ 32) :
    let sg := segPrefix (c.segs (inPlace r 0)) l k
    c.fireSconv r = .ok (((c.pop (inPlace r 0)).setSegs (inPlace r 0) sg.1).push (elemPlace r) (closingMarker sg.2)) Flags.none := by
  simp [Core.fireSconv, Core.single_of_input hroom ha, hsegi, hsego, Nat.mod_eq_of_lt hl, Token.data_prefixOf l hk]

/-- To native mode: a member waits for its segment's length. -/
theorem Core.fireSconv_gathers (hroom : c.hasRoom r) (hsegi : wSegi (c.word r) = true) (hsego : wSego (c.word r) = false)
    (ha : c.holdsData (inPlace r 0) d) (hlen : (c.est r).buf.length < 4096) :
    let e := c.est r
    c.fireSconv r = .ok ((c.pop (inPlace r 0)).setEst r { e with buf := e.buf ++ [⟨0#5, d⟩] }) Flags.none := by
  simp [Core.fireSconv, Core.single_of_input hroom ha, hsegi, hsego, Nat.not_le.mpr hlen]

end sconv

/-- Settles O31: each element acts by the equation of its case. -/
theorem segmentElements : Obligations.SegmentElements := by
  unfold Obligations.SegmentElements
  intro s n r d k c w xa xb e goOn member opened hroom
  have hopened (c' : Core) (hw : c'.word r = w) (k : Nat) : c'.smarkOpen r k = opened c' k := by
    rw [Core.smarkOpen_eq, hw]
  refine ⟨fun h hsegi => ?segn, fun h => ?smark, fun h => ?sconv⟩
  case segn =>
    refine ⟨fun hb ha hk hidle => ?_, fun hb hbusy => ?_, fun p hp hb ha hbusy hlen => ?_⟩
    · exact h.acts (Core.fireSegn_prefix hroom hsegi hb ha hk hidle)
    · exact h.acts (Core.fireSegn_zero hroom hsegi hb hbusy)
    · exact h.acts (Core.fireSegn_keeps hroom hsegi hp hb ha hbusy hlen)
  case smark =>
    refine ⟨fun hbusy ha hb => h.acts ?_, fun hidle himm ha hb => h.acts ?_, fun hidle himm ha => h.acts ?_⟩
    · rw [Core.fireSmark_member hroom hbusy ha hb, Core.smarkMember_pop _ h.inside]
      rfl
    · rw [Core.fireSmark_length hroom hidle himm ha hb,
        hopened _ (Core.word_pop _ (inPlace_lt_ports h.inside (by decide)) r)]
      rfl
    · rw [Core.fireSmark_immediate hroom hidle himm ha, Core.smarkMember_pop _ h.inside, Core.word_smarkOpen,
        hopened _ rfl, hopened _ rfl]
      rfl
  case sconv =>
    refine ⟨fun t hmode ht => ?_, fun hsegi hsego ha => ?_, fun l hsegi hsego ha hl hk => ?_, fun hsegi hsego ha hlen => ?_⟩
    · exact h.acts (Core.fireSconv_same hroom hmode ht)
    · exact h.acts (Core.fireSconv_member hroom hsegi hsego ha)
    · exact h.acts (Core.fireSconv_prefix hroom hsegi hsego ha hl hk)
    · exact h.acts (Core.fireSconv_gathers hroom hsegi hsego ha hlen)

end Sys2Proof.Machine
end
